-- ==== Sys2Proof/Word.lean ====
section
/-! DEFINITION. The word types of the Jaruno 4832 model and their plainest arithmetic: what the manual treats as
bits (R14: little-endian, bit 0 the least significant) is a bit vector, and a sparse table is a list of
(number, entry) pairs. -/

namespace Sys2Proof

/-- Eight bits; byte 0 of a field holds bits [7:0] (R14). -/
abbrev Byte := BitVec 8
/-- A 64-bit register or field. -/
abbrev Word := BitVec 64
/-- A 32-bit element or field. -/
abbrev Half := BitVec 32
/-- One sector of 64 B, byte 0 in bits [7:0] (R183, R14). -/
abbrev Sector := BitVec 512
/-- A sparse table: strictly rising keys; what an unlisted key reads as is said where the table is read. -/
abbrev Tab (α : Type) := List (Nat × α)

/-- Bits [hi:lo] of a word, as a number. -/
def bits (w : Nat) (hi lo : Nat) : Nat := (w >>> lo) % 2 ^ (hi + 1 - lo)

/-- Bit n of a word. -/
def bit (w : Nat) (n : Nat) : Bool := w.testBit n

/-- 1 for true, 0 for false. -/
def b2n (b : Bool) : Nat := if b then 1 else 0

/-- The bytes of a number, little-endian (R14). -/
def leBytes : Nat → Nat → List Byte
  | 0, _ => []
  | n + 1, v => BitVec.ofNat 8 v :: leBytes n (v / 256)

/-- The number a list of bytes spells, little-endian (R14). -/
def leNat : List Byte → Nat
  | [] => 0
  | b :: bs => b.toNat + 256 * leNat bs

/-- Saturating increment of a field that holds at most `max`. -/
def satAdd (max v k : Nat) : Nat := if v + k ≤ max then v + k else max

end Sys2Proof
end

