-- ==== Sys2Proof/Types.lean ====
section
/-! DEFINITION. The names and operand forms the commands use: sites, threads, endpoints, request and frame fields.
Each follows the numbering of the manual (R4, R35, R157, R219, R226, R227, R363, R369, R375, R416). -/

namespace Sys2Proof

/-- A compute site C00–C15 (R4). -/
abbrev Site := Fin 16
/-- A cask K00–K11 (R185). -/
abbrev CaskId := Fin 12
/-- A thread by `mhartid` = 1,024 × site + 4 × logical core + thread (R35). -/
abbrev Hart := Fin 16384
/-- A global core = 256 × site + logical core (R35). -/
abbrev CoreId := Fin 4096
/-- A context slot (R363). -/
abbrev CtxId := Fin 4096
/-- A queue slot (R369). -/
abbrev QId := Fin 16384
/-- A fence object (R375). -/
abbrev FenceId := Fin 65536
/-- A slice (R416). -/
abbrev SliceId := Fin 64
/-- A racking engine, 8 × cask + e (R157). -/
abbrev EngId := Fin 96
/-- A network interface (R219). -/
abbrev NI := BitVec 10
/-- A device physical address (48 bits). -/
abbrev PA := BitVec 48
/-- An x, f or v register number. -/
abbrev RegNo := Fin 32
/-- A die-link register block: 0–15 sites, 16 IOA, 17 IOB, 18 MGD (R314). -/
abbrev LinkId := Fin 19
/-- A router, 12y + x (R215). -/
abbrev RouterId := Fin 192

/-- The two host endpoints (R339). -/
inductive Ep where
  | ioa | iob
  deriving DecidableEq, Repr

/-- The ordering codes of R2, without `-TK`. -/
inductive OrdCode where
  | p16 | p12g4 | p08g8
  deriving DecidableEq, Repr

/-- Who makes a register access. -/
inductive Who where
  | host (e : Ep)      -- the driver writer through an endpoint's control window
  | hubctl             -- a hub controller core
  | mgd                -- the cellar master, the cooper or JTAG
  | core (h : Hart)    -- a thread
  | graft (s : Site)   -- a graft through its gate
  deriving DecidableEq, Repr

/-- Response status codes of R227. -/
inductive Status where
  | ok | bunged | refused | hdrerr | noowner | timeout | unreach | hosterr
  deriving DecidableEq, Repr

/-- Trellis operations of R226. -/
inductive TOp where
  | rd | rds | rdx | wr | wri | wrp | wrpoi | stash | wb | snp | amo | msg | regrd | regwr | trace | reserved
  deriving DecidableEq, Repr

/-- Traffic classes of R218. -/
inductive Cls where
  | ctl | coh | bulk | host | obs
  deriving DecidableEq, Repr

/-- Length in bytes of a standard instruction (C extension, R97). -/
inductive ILen where
  | two | four
  deriving DecidableEq, Repr

/-- Addressing of a vector memory access (R100). -/
inductive VAddr where
  | unit                         -- unit stride
  | strided (rs2 : RegNo)        -- byte stride in x[rs2]
  | indexed (vs2 : RegNo) (lg : Fin 4)  -- byte offsets of 2^lg B elements in vs2
  | mask                         -- vlm, vsm: the bytes that hold vl mask bits
  | whole                        -- vl<nr>r, vs<nr>r: nf + 1 registers
  deriving DecidableEq, Repr

/-- A vector memory access: elements of 2^`lg` B, `nf` + 1 fields, masked by v0, fault-only-first. -/
structure VMem where
  lg : Fin 4
  addr : VAddr
  nf : Fin 8
  masked : Bool
  ff : Bool
  deriving DecidableEq, Repr

/-- What a load writes, or a fetch of the 4 B at pc (R268, R405). -/
inductive LoadDst where
  | x (rd : RegNo) (lg : Fin 4) (signed : Bool)
  | f (rd : RegNo) (dbl : Bool)
  | v (vd : RegNo) (m : VMem)
  | fetch
  deriving DecidableEq, Repr

/-- What a store reads. -/
inductive StoreSrc where
  | x (rs2 : RegNo) (lg : Fin 4)
  | f (rs2 : RegNo) (dbl : Bool)
  | v (vs3 : RegNo) (m : VMem)
  deriving DecidableEq, Repr

/-- The AMO operations of the A extension (R99). -/
inductive AmoOp where
  | swap | add | xor | and | or | min | max | minu | maxu
  deriving DecidableEq, Repr

/-- The CSR instructions: CSRRW, CSRRS, CSRRC. -/
inductive CsrOp where
  | rw | rs | rc
  deriving DecidableEq, Repr

/-- The source of a CSR instruction: x[rs1] or the 5-bit immediate. -/
inductive CsrSrc where
  | reg (rs1 : RegNo)
  | imm (u : BitVec 5)
  deriving DecidableEq, Repr

/-- Kinds of access for the access rules of R43. -/
inductive LocalKind where
  | load | store | amo | vload | vstore
  deriving DecidableEq, Repr

/-- A request as a home agent receives it (R224): line address, sectors − 1, key slot, sender and tag. -/
structure HReq where
  pa : PA
  len : Fin 4
  kslot : Fin 64
  src : NI
  tag : BitVec 12
  deriving DecidableEq, Repr

/-- A request as a master NI injects it (R223, R224). -/
structure NReq where
  op : TOp
  cls : Cls
  len : Fin 4
  dst : NI
  addr : BitVec 42
  qual : BitVec 6
  tag : BitVec 12
  sec : Bool
  deriving DecidableEq, Repr

/-- A graft's command (R295): `ver` fields the gate ignores are not kept. -/
structure GReq where
  m : Fin 8
  op : TOp
  len : Fin 4
  tag : BitVec 12
  sec : Bool
  addr : BitVec 42
  fence : Option (BitVec 16 × Word)   -- MSG: fence number and value
  data : List Sector
  deriving DecidableEq, Repr

/-- A host-window request as the endpoint receives it (R351). -/
structure HwReq where
  src : NI
  tag : BitVec 12
  slice : SliceId
  wr : Bool
  iova : BitVec 48
  len : Nat
  data : List Byte
  deriving DecidableEq, Repr

/-- Outcomes of a PCIe completion (R353). -/
inductive CplKind where
  | success | poisoned | ur | ca
  deriving DecidableEq, Repr

/-- Fields of an endpoint's configuration space that the host writes (R339, R351). -/
inductive CfgField where
  | busMaster | msixEnable | funcMask | maxPayload | maxReadReq | cplTimeout | pasidEnable | powerState
  | aerUncStatus (w : BitVec 32) | aerUncMask (w : BitVec 32) | aerSeverity (w : BitVec 32)
  | aerCorStatus (w : BitVec 32) | aerCorMask (w : BitVec 32)
  deriving DecidableEq, Repr

/-- PCIe error types of R358. -/
inductive PcieErr where
  | receiver | badTlp | badDllp | replayTimer | replayRollover | correctedInternal | advisory | headerLogOverflow
  | poisonedTlp | cplTimeout | completerAbort | unexpectedCpl | unsupportedReq
  | malformed | flowControl | receiverOverflow | dataLinkProtocol | uncorrectableInternal
  deriving DecidableEq, Repr

/-- Power and reset domains that are reset individually (R24). -/
inductive Domain where
  | site (s : Site) | cask (k : CaskId) | ep (e : Ep) | mgd
  deriving DecidableEq, Repr

/-- A cellar-book channel (R486): a mailbox, or a requester on the management network (R490). -/
inductive CbChan where
  | mbox (e : Ep)
  | net (addr : BitVec 32) (port : BitVec 16)
  deriving DecidableEq, Repr

/-- The header of R487 and the data of a cellar-book request; `dlen` is the datagram's size in bytes. -/
structure CbReq where
  magic : BitVec 16
  ver : Byte
  txid : Half
  index : BitVec 16
  sub : Byte
  offset : Half
  length : Half
  total : Half
  data : List Byte
  dlen : Nat
  deriving DecidableEq, Repr

/-- Links, planes and directions of the trellis (R215, R230, R248). -/
abbrev Plane := Fin 4
abbrev Dir := Fin 4

/-- A configuration of one die-link module (R303–R305, R314 `DLCFG`). -/
structure TrainResult where
  spd : Fin 5
  half : Bool
  hsel : Bool
  stvuse : BitVec 4        -- die to hub
  stvlane : BitVec 28
  txUse : BitVec 4         -- hub to die
  txLane : BitVec 28
  deriving DecidableEq, Repr

/-- The evidence an admission gathers from the graft (R336). -/
structure AdmEvidence where
  identKind : BitVec 4
  major : Byte
  minor : Byte
  rev : BitVec 12
  words : List Word        -- capability block as read, check word last
  settingsOk : Bool        -- every CAPSET of step 6 accepted
  rounds : List (BitVec 16 × Bool)   -- step 7: rail power (0.1 W) and echoed in the period
  selfTestOk : Bool        -- step 8
  snoopOk : Bool           -- step 9
  goOk : Bool              -- step 10
  deriving DecidableEq, Repr

/-- Rails of R576. -/
abbrev RailId := Fin 44

/-- Lands the straps are read from (R585). -/
structure Straps where
  recoveryN : Bool
  epaDis : Bool
  epbDis : Bool
  epaX8 : Bool
  epbX8 : Bool
  epaSris : Bool
  epbSris : Bool
  twinDis : Bool
  phyad0 : Bool
  phyad1 : Bool
  tmode0 : Bool
  tmode1 : Bool
  deriving DecidableEq, Repr

/-- Contents of a heartbeat (R558, R559). -/
structure HbMsg where
  hbseq : Half
  sent : Word
  echo : Half
  role : Fin 3
  wear : Fin 4
  afo : Bool
  state : Fin 3
  vmin : Byte
  vmax : Byte
  pushes : Word
  deriving DecidableEq, Repr

/-- Contents of a pairing frame (R557). -/
structure PairMsg where
  serial : BitVec 128
  kit : Word
  nonce : BitVec 256
  vmin : Byte
  vmax : Byte
  deriving DecidableEq, Repr

/-- Commands on the MSI-X masks (R357). -/
inductive Unmask where
  | vector (v : Fin 2048)
  | function
  deriving DecidableEq, Repr

/-- Where a descriptor waits: a queue slot, or the internal submission queue (R158). -/
inductive DescSrc where
  | queue (q : QId)
  | firmware
  deriving DecidableEq, Repr

/-- The source a dispatch turns to: firmware's comes with the descriptors put into its submission queue meanwhile (R158). -/
inductive DispatchSrc where
  | queue (q : QId)
  | firmware (subs : List (List Word))
  deriving DecidableEq, Repr

/-- What a spare's self-test ended in, with the spare's received-block bitmap (R59). -/
structure SelftestOut where
  got : BitVec 128
  pass : Bool
  deriving DecidableEq, Repr

/-- A write-back as its home agent sees it but for its sender; its `len` is 0 (R226). -/
structure WbReq where
  pa : PA
  kslot : Fin 64
  tag : BitVec 12
  deriving DecidableEq, Repr

/-- A lane's eye margin at a pseudo-channel's training, in percent of a unit interval in its worse dimension (R200): DQ lanes
0–65, CA lanes 66–73. -/
structure Eye where
  cask : CaskId
  pc : Fin 32
  lane : Fin 74
  margin : Nat
  deriving DecidableEq, Repr

/-- Hub registers that a plain register write reaches (R16): an 8 B hub register by address, a local endpoint
register, or a die management register. -/
inductive RegAddr where
  | hub (pa : PA)
  | epctl (e : Ep) (off : BitVec 27)
  | die (s : Site) (off : BitVec 20)
  deriving DecidableEq, Repr

end Sys2Proof
end

