-- ==== Sys2Proof/Syntax.lean ====
section
/-! DEFINITION. The commands of the package: one constructor per row of the opcode table, in the table's order, with
the operands the manual's rule for the row names. A command that the hardware raises by itself (a timer, a response, a
frame) carries what arrives; who may send it is said in INVENTORY.md under Agents. -/

namespace Sys2Proof

/-- What a training measures of one lane: timing margin, 0.01 UI, and voltage margin, 0.1 % of the swing, each on its worse
side, and PRBS31 errors over the time R304 gives. -/
structure LaneMeas where
  timing : Nat
  volts : Nat
  errs : Nat
  deriving DecidableEq, Repr

/-- One configuration tried: the measurements of the lanes of each direction, then of its staves (R304). -/
structure TrainTry where
  rx : List LaneMeas
  tx : List LaneMeas
  deriving DecidableEq, Repr

/-- Offset measurement of PTP: offset (ns), path delay, grandmaster, UTC offset (R518, R520). -/
structure PtpMeas where
  ofs : Int
  delay : Word
  gm : Word
  utc : BitVec 16
  deriving DecidableEq, Repr

/-- One 10 µs sample of the rails (R512, R579). -/
structure RailSample where
  /-- package power, 0.1 W -/
  power : Nat
  /-- rails out of their range -/
  out : List RailId
  deriving DecidableEq, Repr

/-- One reporting period's measurements (R511, R512): power in 0.1 W per die code − 1, and the package mean. -/
structure PeriodMeas where
  dies : Tab Nat
  package : Nat
  deriving DecidableEq, Repr

/-- What a cooper stage ends in (R465–R473); the training stage with the eyes measured. -/
inductive StageOut where
  | ok (eyes : List Eye)
  | failed (code : Nat)
  deriving DecidableEq, Repr

/-- An image as the loader or the book receives it (R460–R464): its bytes. -/
abbrev Image := List Byte

/-- The commands (opcode_table.json). -/
inductive Instr where
  -- Bambipin threads (chapters 02, 04, 09)
  | load (h : Hart) (n : ILen) (rs1 : RegNo) (imm : BitVec 12) (dst : LoadDst)
  | store (h : Hart) (n : ILen) (rs1 : RegNo) (imm : BitVec 12) (src : StoreSrc)
  | lr (h : Hart) (rd rs1 : RegNo) (dbl : Bool)
  | sc (h : Hart) (rd rs1 rs2 : RegNo) (dbl : Bool)
  | threadAmo (h : Hart) (rd rs1 rs2 : RegNo) (op : AmoOp) (dbl : Bool)
  | fence (h : Hart) (pred succ : BitVec 4)
  | fenceI (h : Hart)
  | wfi (h : Hart)
  | vectorInstr (h : Hart) (w : BitVec 32)
  | csrAccess (h : Hart) (op : CsrOp) (rd : RegNo) (src : CsrSrc) (csr : BitVec 12)
  | pstatWrite (h : Hart) (op : CsrOp) (rd : RegNo) (src : CsrSrc)
  | cycflgWrite (h : Hart) (op : CsrOp) (rd : RegNo) (src : CsrSrc)
  | mhpmeventWrite (h : Hart) (op : CsrOp) (rd : RegNo) (src : CsrSrc) (i : Fin 16)
  | pmpcfgWrite (h : Hart) (op : CsrOp) (rd : RegNo) (src : CsrSrc) (i : Fin 2)
  | lipendWrite (h : Hart) (n : ILen) (t : Fin 4) (v : Word)
  | ltcmpWrite (h : Hart) (n : ILen) (t : Fin 4) (v : Word)
  | coreLocalAccess (h : Hart) (n : ILen) (kind : LocalKind) (off : BitVec 16) (lg : Fin 4) (rd : RegNo) (v : Word)
  | localTimerMatch (h : Hart)
  | threadInterrupt (h : Hart)
  | coreResponse (h : Hart) (tag : BitVec 12) (st : Status) (poison : Bool) (data : List Sector)
  | hostStoreAnswer (h : Hart) (tag : BitVec 12) (st : Status)
  -- press, conversion, decanter (chapters 03–05)
  | pmac (h : Hart) (w : BitVec 32)
  | pmacz (h : Hart) (w : BitVec 32)
  | pmacv (h : Hart) (w : BitVec 32)
  | pmaczv (h : Hart) (w : BitVec 32)
  | pzero (h : Hart) (w : BitVec 32)
  | pld (h : Hart) (w : BitVec 32)
  | pst (h : Hart) (w : BitVec 32)
  | prdv (h : Hart) (w : BitVec 32)
  | pwrv (h : Hart) (w : BitVec 32)
  | pstc (h : Hart) (w : BitVec 32)
  | pwait (h : Hart) (w : BitVec 32)
  | pressInstrStart (c : CoreId)
  | pressInstrComplete (c : CoreId) (i : Fin 16)
  | vpackF (h : Hart) (w : BitVec 32)
  | vpackX (h : Hart) (w : BitVec 32)
  | vunpack (h : Hart) (w : BitVec 32)
  | vmxscl (h : Hart) (w : BitVec 32)
  | vmxenc (h : Hart) (w : BitVec 32)
  | vmxdec (h : Hart) (w : BitVec 32)
  | dinit (h : Hart) (w : BitVec 32)
  | dkv (h : Hart) (w : BitVec 32)
  | dfin (h : Hart) (w : BitVec 32)
  | dsave (h : Hart) (w : BitVec 32)
  | dload (h : Hart) (w : BitVec 32)
  -- barriers, fences, clusters, governor, context movement (chapters 02, 04, 14, 20)
  | barw (h : Hart) (w : BitVec 32)
  | bara (h : Hart) (w : BitVec 32)
  | bart (h : Hart) (w : BitVec 32)
  | barwp (h : Hart) (w : BitVec 32)
  | barrierArm (who : Who) (chan : Byte) (locals : List (Site × Fin 1025))
  | barrierArrivalMsg (chan : Byte) (s : Site)
  | barrierRelease (chan : Byte) (s : Site) (phase : Bool)
  | fsig (h : Hart) (w : BitVec 32)
  | fwait (h : Hart) (w : BitVec 32)
  | fread (h : Hart) (w : BitVec 32)
  | clret (who : Who) (s : Site) (v : Word)
  | clmapWrite (who : Who) (s : Site) (n : Fin 16) (v : Word)
  | spareSubstitute (s : Site) (cl pos : Fin 16)
  | spareSelftestDone (s : Site) (cl : Fin 16) (r : SelftestOut)
  | coreTestDue (s : Site) (cl pos : Fin 16)
  | coreTestDone (s : Site) (cl : Fin 16) (pass : Bool)
  | zoneSample (s : Site) (temps : List Int)
  | governorEval (s : Site)
  | droopStretch (s : Site) (row : Fin 8)
  | l2TagError (s : Site) (bank : Fin 16) (set : BitVec 12) (uncorrectable : Bool)
  | l2TagReport (k : CaskId) (s : Site) (bank : Fin 16) (set : BitVec 12)
  | contextSave (c : CoreId)
  | contextLoad (c : CoreId) (x : CtxId)
  | contextSchedule (x : CtxId)
  | contextIdle (c : CoreId)
  | contextQuantumEnd (c : CoreId)
  | preemptTimeout (c : CoreId)
  -- racking engines (chapter 06)
  | copy (e : EngId)
  | stride (e : EngId)
  | tile2d (e : EngId)
  | zero (e : EngId)
  | reduce (e : EngId)
  | merge (e : EngId)
  | kvcvt (e : EngId)
  | nop (e : EngId)
  | descDispatch (src : DispatchSrc) (e : EngId)
  | engineYield (e : EngId)
  | tileCommit (e : EngId)
  | descComplete (src : DescSrc)
  -- home agents and caching agents (chapter 09)
  | rd (r : HReq)
  | rds (r : HReq)
  | rdx (r : HReq)
  | wr (r : HReq) (data : List Sector)
  | wri (r : HReq) (data : List Sector)
  | wrp (r : HReq) (mask : List Word) (data : List Sector)
  | wrpoi (r : HReq)
  | stash (r : HReq) (data : List Sector)
  | wb (src : NI) (r : WbReq) (data : List Sector)
  | amo (r : HReq) (operand : Sector)
  | trace (r : HReq) (sink : Fin 4) (record : Sector)
  | snpInv (s : Site) (pa : PA)
  | snoopRd (s : Site) (pa : PA)
  | snoopRds (s : Site) (pa : PA)
  | snoopRdx (s : Site) (pa : PA)
  | stashPush (s : Site) (pa : PA) (data : Sector)
  | deferredSnoopRelease (s : Site) (pa : PA)
  | secondaryResponse (k : CaskId) (pa : PA) (s : Site) (st : Status) (data : Option (Sector × Bool))
  | redirectResponse (k : CaskId) (src : NI) (tag : BitVec 12) (st : Status) (data : List (Sector × Bool))
  | heal (entry : Fin 512) (off : BitVec 32) (copyOk : Bool)
  | reserveCopyWrite (who : Who) (entry : Fin 512) (hi : Bool) (v : Word)
  -- casks (chapter 07, 10)
  | refreshDue (k : CaskId) (pc rank : Fin 32) (bank : Fin 16)
  | caskTempSample (k : CaskId) (temp : Int)
  | caskCycle (k : CaskId) (pc : Fin 32)
  | dqMarginSample (k : CaskId) (pc : Fin 32) (lane : Fin 66) (margin : Nat)
  | caParityError (k : CaskId) (pc : Fin 32) (lane : Fin 8)
  | rowRepair (k : CaskId) (pc rank : Fin 32) (bank : Fin 16) (row : BitVec 14)
  | frameRetire (k : CaskId) (frame : BitVec 20)
  | caskPoisonFillDone (k : CaskId)
  | tgStart (who : Who) (k : CaskId) (pc : Fin 32) (ctl : Byte)
  | tgStop (who : Who) (k : CaskId) (pc : Fin 32)
  | tgRunEnd (k : CaskId) (pc : Fin 32)
  -- trellis (chapter 08) and regulators (chapter 10)
  | routerReceive (r : RouterId) (p : Plane) (input : Fin 5) (h0 h1 : Word) (payload : List Sector)
  | tasterRecordSend (i : RouterId)
  | routeEntryWrite (who : Who) (ni : NI) (d : NI) (v : Word)
  | routeChangeApply (ni d : NI)
  | tagTimeout (ni : NI) (tag : BitVec 12)
  | tagQuarantineEnd (ni : NI) (tag : BitVec 12)
  | bungRegWrite (who : Who) (ni : NI) (v : Word)
  | bungRelease (ni : NI)
  | endpointDomainReset (d : Domain)
  | partitionReset (ds : List Domain)
  | linkRetire (r : RouterId) (p : Plane) (d : Dir)
  | linkHealthWindowEnd (r : RouterId) (p : Plane) (d : Dir)
  | regulatorWindowEnd
  | niInject (ni : NI) (q : NReq) (data : List Sector)
  | budgetWrite (who : Who) (ni : NI) (c : Fin 5) (v : Word)
  | ownerWrite (who : Who) (k : CaskId) (g : BitVec 15) (v : Word)
  | shareWrite (who : Who) (k : CaskId) (a : BitVec 7) (v : Word)
  -- die links (chapter 11)
  | frameReceive (a : LinkId) (m : Fin 8) (toHub : Bool) (cw0 cw1 : Word) (payload : List Sector)
  | ident (a : LinkId) (w : Word)
  | idreq (a : LinkId)
  | identTimeout (a : LinkId)
  | caprd (s : Site) (idx : Byte)
  | capdat (s : Site) (w : Word)
  | capset (s : Site) (w : Word)
  | capack (s : Site) (w : Word)
  | budget (s : Site) (w : Word)
  | report (s : Site) (w : Word)
  | retrain (a : LinkId) (toHub : Bool) (w : Word)
  | lost (a : LinkId) (m : Fin 8) (toHub : Bool) (w : Word)
  | sidebandFence (a : LinkId) (w : Word)
  | remap (a : LinkId) (w : Word)
  | linkTrain (a : LinkId) (m : Fin 8)
  | linkTrainDone (a : LinkId) (m : Fin 8) (tries : List TrainTry)
  | laneCorrectedThreshold (a : LinkId) (m : Fin 8) (toHub : Bool) (lane : Fin 68)
  | laneHourEnd (a : LinkId) (m : Fin 8) (toHub : Bool)
  | baselineCaptured (a : LinkId) (m : Fin 8) (toHub : Bool)
  | judgedRetrain (a : LinkId) (m : Fin 8) (urgent : Bool)
  | moduleFailure (a : LinkId) (m : Fin 8)
  -- grafts (chapter 12)
  | graftRequest (s : Site) (q : GReq)
  | graftResponse (s : Site) (m : Fin 8) (tag : BitVec 12) (st : Status) (data : List (Sector × Bool))
  | apertureRequest (s : Site) (q : NReq) (src : NI) (data : List Sector)
  | graftAnswerOverdue (s : Site) (m : Fin 8) (tag : BitVec 12)
  | gateRuleWrite (who : Who) (s : Site) (rule : Fin 16) (word : Fin 4) (v : Word)
  | gateCtlWrite (who : Who) (s : Site) (v : Word)
  | graftFence (s : Site) (cause : Fin 8)
  | graftSecondEnd (s : Site)
  | admission (s : Site) (e : AdmEvidence)
  | admissionStepTimeout (s : Site) (step : Fin 16)
  | graftReadmit (s : Site)
  -- host endpoints (chapter 13)
  | hostControlAccess (e : Ep) (wr : Bool) (off : BitVec 27) (size : Fin 9) (data : Word)
  | segmentWrite (e : Ep) (i : Fin 64) (v : Word)
  | apertureRead (e : Ep) (off : BitVec 42) (len : Fin 4097)
  | apertureWrite (e : Ep) (off : BitVec 42) (data : List Byte) (poisoned : Bool)
  | doorbellWrite (e : Ep) (off : BitVec 26) (size : Fin 9) (data : Word) (poisoned : Bool)
  | warmResetRequest (e : Ep)
  | hostWindowRequest (e : Ep) (q : HwReq)
  | hostCompletion (e : Ep) (id : Nat) (k : CplKind) (data : List Byte)
  | hostCompletionTimeout (e : Ep) (id : Nat)
  | hostRequestHubTimeout (e : Ep) (id : Nat)
  | msixTrigger (e : Ep) (vec : Fin 2048)
  | msixUnmask (e : Ep) (u : Unmask)
  | hostLinkDown (e : Ep)
  | fundamentalReset (e : Ep)
  | hotReset (e : Ep)
  | flr (e : Ep)
  | endpointStart (e : Ep)
  | endpointUncorrectable (e : Ep)
  -- contexts, queues, fences (chapter 14)
  | ctxcreate (b : Fin 4) (x : CtxId)
  | ctxdestroy (b : Fin 4) (x : CtxId)
  | ctxabort (b : Fin 4) (x : CtxId)
  | ctxpreempt (b : Fin 4) (x : CtxId)
  | qenable (b : Fin 4) (q : QId)
  | qdisable (b : Fin 4) (q : QId)
  | qresume (b : Fin 4) (q : QId)
  | farm (b : Fin 4) (f : FenceId)
  | fsignal (b : Fin 4) (f : FenceId)
  | fabandon (b : Fin 4) (f : FenceId)
  | fdisarm (b : Fin 4) (f : FenceId)
  | contextSlotWrite (who : Who) (x : CtxId) (word : Fin 16) (v : Word)
  | queueSlotWrite (who : Who) (q : QId) (word : Fin 8) (v : Word)
  | fenceCfgWrite (who : Who) (f : FenceId) (word : Fin 8) (v : Word)
  | doorbell (q : QId) (tail : Half)
  | coreDoorbell (who : Who) (q : QId) (v : Word)
  | ringEntryFetch (q : QId)
  | fenceSignal (src : Who) (f : FenceId) (v : Word)
  | abortStepsDone (x : CtxId)
  | positionRelease (c : CoreId)
  -- translation and faults (chapter 15)
  | walkStep (id : Nat) (st : Status) (poison : Bool) (entry : Word)
  | faultBatchClose (s : SliceId)
  | faultQueueWrite (who : Who) (s : SliceId) (word : Fin 8) (v : Word)
  | invctx (b : Fin 4) (idx : BitVec 16)
  | invva (b : Fin 4) (idx : BitVec 16)
  | invslice (b : Fin 4) (idx : BitVec 16)
  | invipa (b : Fin 4) (idx : BitVec 16)
  | invall (b : Fin 4) (idx : BitVec 16)
  | xresume (b : Fin 4) (idx : BitVec 16)
  | invalidationComplete (b : Fin 4)
  -- slices (chapter 16)
  | slcreate (b : Fin 4) (s : SliceId)
  | slfreeze (b : Fin 4) (s : SliceId)
  | slthaw (b : Fin 4) (s : SliceId)
  | slbottle (b : Fin 4) (s : SliceId)
  | sluncork (b : Fin 4) (s : SliceId)
  | slreset (b : Fin 4) (s : SliceId)
  | slremove (b : Fin 4) (s : SliceId)
  | sliceEntryWrite (who : Who) (s : SliceId) (word : Fin 16) (v : Word)
  | freezeTick (s : SliceId)
  | freezeComplete (s : SliceId)
  -- security (chapter 17)
  | securityVersionCommit (v : Word)
  | attestationRequest (ch : Fin 4) (req : List Byte)
  | attestationSigned
  | signBucketRefill
  | signTreeBuilt
  | keySlotWrite (slot : Fin 64) (v : Word)
  | keySlotSweepSub (slot : Fin 64) (v : Half)
  | keySlotRetireDrained (slot : Fin 64)
  -- bring-up (chapter 18)
  | powerOnReset (straps : Straps)
  | cooperStageDone (r : StageOut)
  | cooperWatchdogExpire
  | recoveryEnter
  | loaderImageDelivered (img : Image)
  | imageWrite (img : Image)
  | imageProgramDone (ok : Bool)
  | licenceWrite (lic : List Byte)
  | warmReset
  | firmwareBroadcast (manifest : List Byte) (got : List (Nat × BitVec 128))
  | firmwareResendRound (got : List (Nat × BitVec 128))
  -- cellar book (chapter 19)
  | read (ch : CbChan) (r : CbReq)
  | write (ch : CbChan) (r : CbReq)
  | desc (ch : CbChan) (r : CbReq)
  | list (ch : CbChan) (r : CbReq)
  | mailboxGo (e : Ep)
  | transferExpire (index : BitVec 16) (sub : Byte)
  | mgmtAddressApply
  | restoreDefaults (v : Byte)
  | railMeasureUpdate (volts amps : List Nat)
  | substitutionRequest (s : Site) (v : BitVec 16)
  -- power, thermal, time (chapter 20)
  | budgetPeriod (m : PeriodMeas)
  | budgetMissingFallback (s : Site)
  | railSample (r : RailSample)
  | timebaseStep (who : Who) (v : Word)
  | ptpOffsetMeasure (m : PtpMeas)
  | ptpHoldoverEnter (meanRate : Half)
  | ptpHoldoverLimit
  | ptpDomainWrite (v : Byte)
  -- observation (chapter 21)
  | obsEnableWrite (v : Byte)
  | tasterCtlWrite (i : RouterId) (v : Word)
  | sinkCfgWrite (i : Fin 4) (base cfg : Word)
  | counterCopy
  | halt
  | resume
  | jtagRegacc (wr : Bool) (pa : PA) (data : Word)
  | jtagHalt (v : BitVec 18)
  | jtagLoaderWord (idx data : Half)
  -- availability and the twin (chapters 22, 23)
  | hubControllerWatchdog (field n : Fin 4)
  | mgdWatchdog
  | classFFault (code : BitVec 16) (die : Byte)
  | sysclkLoss
  | heartbeatRefresh
  | heartbeatSend
  | pair (m : PairMsg)
  | confirm (kit : Word) (na nb : BitVec 256) (tagOk : Bool) (seq : Nat)
  | hb (m : HbMsg) (tagOk : Bool) (seq : Nat)
  | twinData (entry : Fin 64) (moff : Half) (pois : BitVec 4) (tag : BitVec 14) (data : List Sector) (gap : Bool)
  | pushack (tag : BitVec 14) (st : Fin 4) (bytes : Word) (tagOk : Bool) (seq : Nat)
  | journal (rec : Sector) (tagOk : Bool) (seq : Nat)
  | failover (cause : Fin 4) (tagOk : Bool) (seq : Nat)
  | roleack (role : Fin 3) (tagOk : Bool) (seq : Nat)
  | restreq (entry : Fin 64) (off len : Word) (tag : BitVec 14) (tagOk : Bool) (seq : Nat)
  | heartbeatCheck
  | leaseExpire
  | promotionTimeout
  | mirrorEntryWrite (i : Fin 64) (v : Word)
  | push (req : List Byte)
  | journalWrite (rec : Sector)
  | restore (req : List Byte)
  | switchover (v : Byte)
  | mirrorRepairUpgrade
  | registerWrite (who : Who) (r : RegAddr) (v : Word)
  | porNAssert
  | internalResetRelease
  | hostConfigWrite (e : Ep) (f : CfgField) (v : Byte)
  | hostLinkUp (e : Ep)
  | pcieLinkError (e : Ep) (err : PcieErr)
  | twinLinkUp
  | twinLinkDown
  | managementLinkUp
  | dieTemperatureSample (die : Fin 32) (temp : Int)
  | overtempHoldEnd
  | mgdBufferScrub (ch : Fin 4)
  | idlePatternCheck (r : RouterId) (p : Plane) (d : Dir) (ok : Bool)
  | jtagIrUpdate (ir : Byte)
  | unknownSidebandMessage (a : LinkId) (m : Fin 8) (toHub : Bool) (code : Byte)
  deriving DecidableEq, Repr

end Sys2Proof
end

