-- ==== Sys2Proof/Machine/Header.lean ====
section
/-! DEFINITION. The words that travel: the SECDED code of a header half (R228), the trellis header (R223–R226), the die
link's control word (R295). -/

namespace Sys2Proof

def Cls.code : Cls → Nat | .ctl => 0 | .coh => 1 | .bulk => 2 | .host => 3 | .obs => 4

def TOp.code : TOp → Nat
  | .rd => 0 | .rds => 1 | .rdx => 2 | .wr => 3 | .wri => 4 | .wrp => 5 | .wrpoi => 6 | .stash => 7 | .wb => 8 | .snp => 9
  | .amo => 10 | .msg => 11 | .regrd => 12 | .regwr => 13 | .trace => 14 | .reserved => 15

/-- A class by its code; a reserved code is none of the sources' (R218). -/
def clsOf (n : Nat) : Cls := match n with | 0 => .ctl | 1 => .coh | 2 => .bulk | 3 => .host | _ => .obs

/-- Codes of R227. -/
def Status.code : Status → Nat
  | .ok => 0 | .bunged => 1 | .refused => 2 | .hdrerr => 3 | .noowner => 4 | .timeout => 5 | .unreach => 6 | .hosterr => 7

def statusOf (n : Nat) : Status :=
  match n with
  | 0 => .ok | 1 => .bunged | 2 => .refused | 3 => .hdrerr | 4 => .noowner | 5 => .timeout | 6 => .unreach | _ => .hosterr

end Sys2Proof

namespace Sys2Proof.Machine

/-! ### The code of a half (R228) -/

/-- The value of each info bit: the integers 3–62 that are not powers of two. -/
def codeVals : List Nat := ((List.range 63).drop 3).filter (fun v => v &&& (v - 1) ≠ 0)

/-- XOR of the values of the info bits set. -/
def codeSyn (info : Nat) : Nat := (List.zip (List.range 56) codeVals).foldl (fun a p => if bit info p.1 then a ^^^ p.2 else a) 0
def parity (n w : Nat) : Bool := (List.range n).foldl (fun p i => p != bit w i) false

/-- A half with its check bits. -/
def codeHalf (info : Nat) : Word :=
  let w := info % 2 ^ 56 + 2 ^ 56 * codeSyn info
  let p := parity 62 w
  BitVec.ofNat 64 (w + 2 ^ 62 * b2n p + 2 ^ 63 * b2n (!p))

/-- A half decoded: its info bits, and whether a single error was corrected or it is uncorrectable. -/
inductive HalfErr where
  | good | corrected | bad
  deriving DecidableEq, Repr

def decodeHalf (h : Word) : Nat × HalfErr :=
  let n := h.toNat
  let info := n % 2 ^ 56
  let syn := codeSyn info ^^^ bits n 61 56
  let p := parity 63 n
  if syn = 0 && !p then (info, if bit n 63 = !bit n 62 then .good else .corrected)
  else if p && syn ≠ 63 then
    (match (List.zip (List.range 56) codeVals).find? (fun v => v.2 = syn) with
      | some v => info ^^^ 2 ^ v.1
      | none => info, .corrected)
  else (info, .bad)

/-! ### The trellis header (R223–R226) -/

/-- Operations by code (R226). -/
def topOf (n : Nat) : TOp :=
  match n with
  | 0 => .rd | 1 => .rds | 2 => .rdx | 3 => .wr | 4 => .wri | 5 => .wrp | 6 => .wrpoi | 7 => .stash | 8 => .wb | 9 => .snp
  | 10 => .amo | 11 => .msg | 12 => .regrd | 13 => .regwr | 14 => .trace | _ => .reserved

/-- Sectors of a request's payload (R226). -/
def reqSectors (op : TOp) (len : Nat) : Nat :=
  match op with
  | .wr | .wri | .stash => len + 1
  | .wrp => 2
  | .wb | .amo | .msg | .regwr | .trace => 1
  | _ => 0

/-- Sectors of an OK response's payload: a reading operation's `len` + 1, one of an AMO or a register read (R225). -/
def rspSectors (op : TOp) (len : Nat) : Nat :=
  match op with
  | .rd | .rds | .rdx => len + 1
  | .amo | .regrd => 1
  | _ => 0

/-- Half 0, of a request or a response (R223). -/
def pktHalf0 (route eport cls : Nat) (pri : Bool) (src tag : Nat) (rsp : Bool) : Nat :=
  route + 2 ^ 24 * eport + 2 ^ 28 * cls + 2 ^ 31 * b2n pri + 2 ^ 32 * src + 2 ^ 42 * tag + 2 ^ 55 * b2n rsp
/-- Half 1 of a request (R224). -/
def reqHalf1 (q : NReq) : Nat :=
  q.op.code + 16 * q.len.val + 64 * q.qual.toNat + 2 ^ 12 * q.addr.toNat + 2 ^ 54 * b2n q.sec
/-- Half 1 of a response (R225). -/
def rspHalf1 (op len status poison dst : Nat) : Nat := op + 16 * len + 64 * status + 2 ^ 9 * poison + 2 ^ 13 * dst

/-- The virtual channel of a packet: on a request plane 2 for a secondary request, 0 for class CTL, else 1; a response
plane has one (R217). -/
def vcOf (p h0 h1 : Nat) : Nat := if 2 ≤ p then 0 else if bit h1 54 then 2 else if bits h0 30 28 = 0 then 0 else 1

/-! ### The control word of a die-link frame (R295) -/

/-- A command as the halves of a control word carry it, without the frame's own fields. -/
def frameHalf0 (cls : Nat) (rsp : Bool) (op len tag poison status : Nat) (sec data : Bool) : Nat :=
  (if data then 1 else 2) + 4 * cls + 32 * b2n rsp + 64 * op + 2 ^ 10 * len + 2 ^ 12 * tag + 2 ^ 24 * poison + 2 ^ 28 * status
    + 2 ^ 31 * b2n sec
def frameHalf1 (addr qual : Nat) : Nat := addr % 2 ^ 42 + 2 ^ 42 * qual

/-- The control word of a frame that carries a command: the running totals and the sequence number join its halves, and
each gets its check bits. -/
def frameWords (h0 h1 ccmd csec seq : Nat) : Word × Word :=
  (codeHalf (h0 % 2 ^ 32 + 2 ^ 32 * (ccmd % 1024) + 2 ^ 42 * (csec % 1024) + 2 ^ 52 * (seq / 256 % 16)),
   codeHalf (h1 % 2 ^ 48 + 2 ^ 48 * (seq % 256)))

/-- What credits bound a command at its sender: none for a response, the 64 of CTL, the 1,024 of secondary requests, the
512 commands and 512 sectors of every other request (R297). -/
inductive Credit where
  | free | ctl | sec | primary
  deriving DecidableEq, Repr
def creditOf (h0 : Nat) : Credit :=
  if bit h0 5 then .free else if bit h0 31 then .sec else if bits h0 4 2 = 0 then .ctl else .primary

end Sys2Proof.Machine
end

