-- ==== Sys2Proof/Config.lean ====
section
/-! DEFINITION. The free values: what the manual leaves open after a step that goes on. None has a body, so no
statement can rest on one. Most are applied to the counter `State.freeCtr`, which a step that reads one advances. -/

namespace Sys2Proof.Config

/-- Old or new byte where the manual fixes neither (R122, R152, R179): counter, address. -/
opaque byteChoice : Nat → Nat → Bool
/-- A byte the manual leaves unspecified (R168, R199): counter, address. -/
opaque freeByte : Nat → Nat → Byte
/-- A number the manual leaves unspecified: counter, index. -/
opaque freeNat : Nat → Nat → Nat
/-- AES-256-XTS under a key slot with a line's number as the tweak (R199): the slots' keys are secret. -/
opaque encrypt : Nat → Nat → BitVec 512 → BitVec 512
opaque decrypt : Nat → Nat → BitVec 512 → BitVec 512
/-- A sector of the traffic generator's PRBS31, and the sectors of its random order (R212): seed in use, and the index in the
PC or the place in the pass. How the sequences are drawn from the seed the manual does not say. -/
opaque tgPrbs : Nat → Nat → BitVec 512
opaque tgRandom : Nat → Nat → Nat
/-- The eyes that the training of a warm reset measures (R200, R478): counter. -/
opaque trainEyes : Nat → List Eye
/-- What the tests of a bring-up find (R466, R468, R470, R478), by the counter: the cores that fail their self-test (272 × site
+ 17 × cluster + physical index), the rows that fail the array test (cask, an offset in the row), the trellis links that fail
acceptance (router, plane, direction), and the sites whose IDENT is not that of the last bring-up. -/
opaque coreTests : Nat → List Nat
opaque rowTests : Nat → List (Nat × Nat)
opaque meshTests : Nat → List (Nat × Nat × Nat)
opaque identTests : Nat → List Nat
/-- 2^x and log2 x where the interval arithmetic of Machine/Transcendental.lean does not decide the rounding (R140). -/
opaque exp2F32 : BitVec 32 → BitVec 32
opaque log2F32 : BitVec 32 → BitVec 32
/-- The length `vset{i}vl{i}` gives for an AVL between VLMAX and twice VLMAX, which the V extension leaves open: AVL,
VLMAX. -/
opaque vlChoice : Nat → Nat → Nat
/-- The unordered floating-point sum of a vector, whose tree the V extension leaves open: `vtype`, rounding mode, width of
the result, scalar, elements (none where masked off); the code and the flags. -/
opaque fsumTree : Nat → Nat → Nat → Nat → List (Option Nat) → Nat × Nat
/-- SHA-256, HMAC-SHA-256 and LMS/HSS functions of standards outside the manual (R439–R457). -/
opaque sha256 : List Byte → BitVec 256
opaque hmac : List Byte → List Byte → BitVec 256
opaque lmsSign : Nat → List Byte → List Byte
opaque lmsVerify : List Byte → List Byte → List Byte → Bool
opaque hkdf : List Byte → List Byte → Nat → List Byte

end Sys2Proof.Config
end

