-- ==== Sys2Proof/Machine/Float.lean ====
section
/-! DEFINITION. Number formats and their exact arithmetic (chapter 03, R68–R93): decoding, rounding, narrowing and
MX conversion. Every value is taken exactly as ± n × 2^e and narrowed in one place. -/

namespace Sys2Proof.Machine

/-- The five RISC-V rounding modes (R78). -/
inductive RM where
  | rne | rtz | rdn | rup | rmm
  deriving DecidableEq, Repr

/-- How the all-ones exponent of a format is read (R68). -/
inductive Special where
  | ieee   -- infinities and NaNs
  | e4m3   -- mantissa all ones is NaN, no infinity
  | none   -- every code finite
  deriving DecidableEq, Repr

/-- A floating-point element format: exponent bits, mantissa bits, bias and special codes (R68). -/
structure FFmt where
  eb : Nat
  mb : Nat
  bias : Int
  sp : Special
  deriving DecidableEq, Repr

def fp64 : FFmt := ⟨11, 52, 1023, .ieee⟩
def fp32 : FFmt := ⟨8, 23, 127, .ieee⟩
def bf16 : FFmt := ⟨8, 7, 127, .ieee⟩
def fp16 : FFmt := ⟨5, 10, 15, .ieee⟩
def e4m3 : FFmt := ⟨4, 3, 7, .e4m3⟩
def e5m2 : FFmt := ⟨5, 2, 15, .ieee⟩
def e3m2 : FFmt := ⟨3, 2, 3, .none⟩
def e2m3 : FFmt := ⟨2, 3, 1, .none⟩
def e2m1 : FFmt := ⟨2, 1, 1, .none⟩

/-- A value: NaN, a signed infinity, or (−1)^neg × n × 2^e exactly; zero keeps its sign (R70). -/
inductive XV where
  | nan
  | inf (neg : Bool)
  | fin (neg : Bool) (n : Nat) (e : Int)
  deriving DecidableEq, Repr

/-- The flags of `pstat` (R84). -/
structure PFlags where
  nv : Bool := false
  of : Bool := false
  uf : Bool := false
  iov : Bool := false
  sat : Bool := false
  deriving DecidableEq, Repr

/-- Flags accrue (R83). -/
def PFlags.or (a b : PFlags) : PFlags :=
  ⟨a.nv || b.nv, a.of || b.of, a.uf || b.uf, a.iov || b.iov, a.sat || b.sat⟩

/-- `pstat` as a word (R84). -/
def PFlags.toNat (a : PFlags) : Nat := b2n a.nv + 2 * b2n a.of + 4 * b2n a.uf + 8 * b2n a.iov + 16 * b2n a.sat
/-- The flags in a word laid out as `pstat`. -/
def PFlags.ofNat (w : Nat) : PFlags := ⟨bit w 0, bit w 1, bit w 2, bit w 3, bit w 4⟩

/-- W1C: the bits that are 1 in `w` clear (R105). -/
def PFlags.w1c (a : PFlags) (w : Nat) : PFlags :=
  ⟨a.nv && !bit w 0, a.of && !bit w 1, a.uf && !bit w 2, a.iov && !bit w 3, a.sat && !bit w 4⟩

/-- The canonical NaN (R69). -/
def FFmt.cnan (f : FFmt) : Nat :=
  match f.sp with
  | .ieee => if f.eb = 5 ∧ f.mb = 2 then 0x7F else ((2 ^ f.eb - 1) <<< f.mb) + 2 ^ (f.mb - 1)
  | .e4m3 => 0x7F
  | .none => 0

/-- The code's value (R68). -/
def FFmt.decode (f : FFmt) (code : Nat) : XV :=
  let s := bit code (f.eb + f.mb)
  let ex := (code >>> f.mb) % 2 ^ f.eb
  let m := code % 2 ^ f.mb
  let top := ex = 2 ^ f.eb - 1
  let norm : XV :=
    if ex = 0 then .fin s m (1 - f.bias - f.mb) else .fin s (2 ^ f.mb + m) ((ex : Int) - f.bias - f.mb)
  match f.sp with
  | .ieee => if top then (if m = 0 then .inf s else .nan) else norm
  | .e4m3 => if top ∧ m = 2 ^ f.mb - 1 then .nan else norm
  | .none => norm

/-- Largest exponent field that carries finite values. -/
def FFmt.topExp (f : FFmt) : Int :=
  match f.sp with
  | .ieee => (2 ^ f.eb : Int) - 2 - f.bias
  | _ => (2 ^ f.eb : Int) - 1 - f.bias

/-- Integer mantissa and exponent of the largest finite value (R68). -/
def FFmt.maxFin (f : FFmt) : Nat × Int :=
  (match f.sp with | .e4m3 => 2 ^ (f.mb + 1) - 2 | _ => 2 ^ (f.mb + 1) - 1, f.topExp - f.mb)

/-- n × 2^e as a fraction of naturals. -/
def scaleNat (n d : Nat) (e : Int) : Nat × Nat :=
  if 0 ≤ e then (n * 2 ^ e.toNat, d) else (n, d * 2 ^ (-e).toNat)

/-- floor(log2 (n / d)) for n, d > 0. -/
def ilog2Q (n d : Nat) : Int :=
  let k : Int := (Nat.log2 n : Int) - Nat.log2 d
  let (a, b) := scaleNat n d (-k)
  if b ≤ a then k else k - 1

/-- A nonnegative fraction rounded to an integer; `neg` is the sign of the value it is the magnitude of (R78). -/
def roundNat (rm : RM) (neg : Bool) (n d : Nat) : Nat :=
  let q := n / d
  let r := n % d
  let up : Bool := match rm with
    | .rne => if 2 * r = d then q % 2 = 1 else d < 2 * r
    | .rmm => d ≤ 2 * r
    | .rtz => false
    | .rdn => neg && r ≠ 0
    | .rup => !neg && r ≠ 0
  if up then q + 1 else q

/-- (n / d) × 2^e rounded with `rm` to a mantissa of f's precision, the exponent unbounded above and subnormals exact:
the integer mantissa and its exponent. -/
def FFmt.roundQ (f : FFmt) (rm : RM) (neg : Bool) (n d : Nat) (e : Int) : Nat × Int :=
  if n = 0 then (0, 1 - f.bias - f.mb)
  else
    let k := ilog2Q n d + e
    let q := max (k - f.mb) (1 - f.bias - f.mb)
    let (a, b) := scaleNat n d (e - q)
    let r := roundNat rm neg a b
    if r = 2 ^ (f.mb + 1) then (2 ^ f.mb, q + 1) else (r, q)

/-- Whether the rounded magnitude exceeds the largest finite value. -/
def FFmt.exceeds (f : FFmt) (m : Nat) (q : Int) : Bool :=
  let (mm, mq) := f.maxFin
  m ≠ 0 && (decide (mq < q) || (decide (q = mq) && decide (mm < m)))

/-- The code of a rounded finite magnitude in range. -/
def FFmt.code (f : FFmt) (neg : Bool) (m : Nat) (q : Int) : Nat :=
  (b2n neg) <<< (f.eb + f.mb) |||
    (if m < 2 ^ f.mb then m else (((q + f.mb + f.bias).toNat) <<< f.mb) + (m - 2 ^ f.mb))

def FFmt.signBit (f : FFmt) (neg : Bool) : Nat := (b2n neg) <<< (f.eb + f.mb)
/-- ± infinity of a format that has one. -/
def FFmt.infCode (f : FFmt) (neg : Bool) : Nat := f.signBit neg ||| ((2 ^ f.eb - 1) <<< f.mb)
/-- ± largest finite. -/
def FFmt.maxCode (f : FFmt) (neg : Bool) : Nat := f.code neg f.maxFin.1 f.maxFin.2

/-- What an overflow gives with `sat` = 0 (R79; RDN, RUP and RMM as IEEE 754 rounds them, R68). -/
def FFmt.overflow (f : FFmt) (rm : RM) (neg : Bool) : Nat :=
  let toMax : Bool := match rm with
    | .rne | .rmm => false
    | .rtz => true
    | .rdn => !neg
    | .rup => neg
  if toMax then f.maxCode neg else if f.sp = .ieee then f.infCode neg else f.cnan

/-- A fraction ± (n / d) × 2^e narrowed into a non-MX floating format (R79). -/
def FFmt.narrowQ (f : FFmt) (rm : RM) (sat : Bool) (neg : Bool) (n d : Nat) (e : Int) : Nat × PFlags :=
  let (m, q) := f.roundQ rm neg n d e
  if f.exceeds m q then
    if sat then (f.maxCode neg, {sat := true}) else (f.overflow rm neg, {of := true})
  else (f.code neg m q, {uf := decide (m ≠ 0 ∧ m < 2 ^ f.mb)})

/-- A conversion into a non-MX floating format (R79). -/
def FFmt.narrow (f : FFmt) (rm : RM) (sat : Bool) : XV → Nat × PFlags
  | .nan => (f.cnan, {nv := true})
  | .inf s =>
    if sat then (f.maxCode s, {sat := true})
    else if f.sp = .ieee then (f.infCode s, {}) else (f.cnan, {of := true})
  | .fin s n e => f.narrowQ rm sat s n 1 e

/-- A conversion of a value into a two's-complement integer of w bits (R80). -/
def toIntSat (w : Nat) (rm : RM) : XV → Int × PFlags
  | .nan => (0, {nv := true})
  | .inf s => (if s then -(2 ^ (w - 1) : Int) else 2 ^ (w - 1) - 1, {sat := true})
  | .fin s n e =>
    let (a, b) := scaleNat n 1 e
    let r : Int := roundNat rm s a b
    let v := if s then -r else r
    if v < -(2 ^ (w - 1) : Int) then (-(2 ^ (w - 1) : Int), {sat := true})
    else if (2 ^ (w - 1) : Int) - 1 < v then (2 ^ (w - 1) - 1, {sat := true})
    else (v, {})

/-- An integer's low w bits. -/
def intCode (w : Nat) (v : Int) : Nat := (v % (2 ^ w : Int)).toNat
/-- w bits read as two's complement (R71). -/
def intOf (w code : Nat) : Int :=
  let c := code % 2 ^ w
  if c < 2 ^ (w - 1) then (c : Int) else (c : Int) - 2 ^ w
/-- An integer as a value. -/
def XV.ofInt (v : Int) : XV := .fin (decide (v < 0)) v.natAbs 0

/-- Signed mantissas of a finite value aligned at exponent e0. -/
def alignInt (neg : Bool) (n : Nat) (e e0 : Int) : Int :=
  let m : Int := n * 2 ^ (e - e0).toNat
  if neg then -m else m

/-- The exact sum (R88, R89): NaN for a NaN or Inf − Inf; a zero sum of nonzero terms is +0 and −0 + −0 is −0 (R70). -/
def XV.add : XV → XV → XV
  | .nan, _ => .nan
  | _, .nan => .nan
  | .inf a, .inf b => if a = b then .inf a else .nan
  | .inf a, _ => .inf a
  | _, .inf b => .inf b
  | .fin sa na ea, .fin sb nb eb =>
    let e0 := min ea eb
    let v := alignInt sa na ea e0 + alignInt sb nb eb e0
    if v = 0 then .fin (sa && sb && na = 0 && nb = 0) 0 0
    else .fin (decide (v < 0)) v.natAbs e0

/-- The exact product; Inf × 0 is NaN (R89). -/
def XV.mul : XV → XV → XV
  | .nan, _ => .nan
  | _, .nan => .nan
  | .inf a, .inf b => .inf (xor a b)
  | .inf a, .fin b n _ => if n = 0 then .nan else .inf (xor a b)
  | .fin a n _, .inf b => if n = 0 then .nan else .inf (xor a b)
  | .fin a n e, .fin b m f => .fin (xor a b) (n * m) (e + f)

def XV.neg : XV → XV
  | .nan => .nan
  | .inf s => .inf (!s)
  | .fin s n e => .fin (!s) n e

/-- Multiplication by 2^k. -/
def XV.scale (k : Int) : XV → XV
  | .fin s n e => .fin s n (e + k)
  | v => v

def XV.isNan : XV → Bool | .nan => true | _ => false
def XV.isInf : XV → Bool | .inf _ => true | _ => false
def XV.isZero : XV → Bool | .fin _ 0 _ => true | _ => false

/-- a < b; false with a NaN. -/
def XV.lt : XV → XV → Bool
  | .nan, _ => false
  | _, .nan => false
  | .inf a, .inf b => a && !b
  | .inf a, _ => a
  | _, .inf b => !b
  | .fin sa na ea, .fin sb nb eb =>
    let e0 := min ea eb
    decide (alignInt sa na ea e0 < alignInt sb nb eb e0)

/-- max of two values, neither NaN. -/
def XV.max (a b : XV) : XV := if a.lt b then b else a

/-- Rounded to FP32 with RNE and no saturation: the code and `of`, `uf`, `nv` as R79 and R84 set them. -/
def rneF32 (v : XV) : Nat × PFlags := fp32.narrow .rne false v

/-- (a ÷ b) as FP32 under RNE; 0 ÷ 0 and Inf ÷ Inf are NaN (IEEE 754, R68). -/
def divF32 (a b : XV) : Nat × PFlags :=
  match a, b with
  | .nan, _ => (fp32.cnan, {nv := true})
  | _, .nan => (fp32.cnan, {nv := true})
  | .inf _, .inf _ => (fp32.cnan, {nv := true})
  | .inf s, .fin t _ _ => (fp32.infCode (xor s t), {})
  | .fin s _ _, .inf t => (fp32.signBit (xor s t), {})
  | .fin s n e, .fin t m f =>
    if m = 0 then (if n = 0 then (fp32.cnan, {nv := true}) else (fp32.infCode (xor s t), {}))
    else fp32.narrowQ .rne false (xor s t) n m (e - f)

/-- One accumulation of R88 step 4 into an FP32 element: the new bits and the flags of R84 and R89. -/
def accF32 (bits : Nat) (group : List XV) : Nat × PFlags :=
  let acc := fp32.decode bits
  let sum := match group with | [] => XV.fin true 0 0 | v :: vs => vs.foldl XV.add v
  let r := acc.add sum
  let nv := sum.isNan || (r.isNan && !acc.isNan)
  match r with
  | .nan => (fp32.cnan, {nv := nv})
  | _ =>
    let (c, fl) := rneF32 r
    (c, {of := fl.of, uf := fl.uf})

/-- One INT32 accumulation: each product is added modulo 2^32, and a wrap sets `iov` (R87). -/
def accI32 (bits : Nat) (prods : List Int) : Nat × PFlags :=
  prods.foldl (fun (b, fl) p =>
    let v := intOf 32 b + p
    let c := intCode 32 v
    (c, fl.or {iov := decide (intOf 32 c ≠ v)})) (bits, {})

/-! ### Element and MX formats -/

/-- An element type: floating or two's-complement integer (R68, R71). -/
inductive Elem where
  | fp (f : FFmt)
  | int (w : Nat)
  deriving DecidableEq, Repr

def Elem.bits : Elem → Nat
  | .fp f => 1 + f.eb + f.mb
  | .int w => w

/-- An operand format: its element type and whether blocks of 32 share a scale (R107, R75). -/
structure OFmt where
  el : Elem
  mx : Bool
  deriving DecidableEq, Repr

/-- The format codes of R107. -/
def fmtCode : Nat → Option OFmt
  | 0x0 => some ⟨.fp e4m3, false⟩
  | 0x1 => some ⟨.fp e5m2, false⟩
  | 0x2 => some ⟨.fp bf16, false⟩
  | 0x3 => some ⟨.fp fp16, false⟩
  | 0x4 => some ⟨.int 8, false⟩
  | 0x5 => some ⟨.int 4, false⟩
  | 0x6 => some ⟨.fp e4m3, true⟩
  | 0x7 => some ⟨.fp e5m2, true⟩
  | 0x8 => some ⟨.fp e3m2, true⟩
  | 0x9 => some ⟨.fp e2m3, true⟩
  | 0xA => some ⟨.fp e2m1, true⟩
  | 0xB => some ⟨.int 8, true⟩
  | _ => none

/-- Width in bits of one element. -/
def OFmt.bits (f : OFmt) : Nat := f.el.bits

/-- `emax` of an MX element type (R75). -/
def Elem.emax : Elem → Int
  | .fp f => f.topExp
  | .int _ => 0

/-- An element's value, without its scale; MXINT8 reads × 2^−6 (R75). -/
def OFmt.elem (f : OFmt) (code : Nat) : XV :=
  match f.el with
  | .fp g => g.decode code
  | .int w => if f.mx then (XV.ofInt (intOf w code)).scale (-6) else .ofInt (intOf w code)

/-- An element times its scale, exactly; scale 0xFF is NaN (R74). -/
def OFmt.value (f : OFmt) (scale code : Nat) : XV :=
  if f.mx then (if scale = 0xFF then .nan else (f.elem code).scale ((scale : Int) - 127)) else f.elem code

/-- One element of an MX block rounded after the scale has been chosen: code and whether it saturated (R77). -/
def OFmt.mxElem (f : OFmt) (rm : RM) (x : Int) : XV → Nat × PFlags
  | .nan => (0, {nv := true})
  | .inf s =>
    match f.el with
    | .fp g => (g.maxCode s, {sat := true})
    | .int w => (intCode w (if s then -(2 ^ (w - 1)) else 2 ^ (w - 1) - 1), {sat := true})
  | .fin s n e =>
    match f.el with
    | .fp g =>
      let (m, q) := g.roundQ rm s n 1 (e - x)
      if g.exceeds m q then (g.maxCode s, {sat := true}) else (g.code s m q, {})
    | .int w =>
      let (v, fl) := toIntSat w rm (.fin s n (e - x + 6))
      (intCode w v, fl)

/-- The scale of an MX block (R77): its code and the flags `nv` and `of`; 0xFF where every element is written 0. -/
def OFmt.mxScale (f : OFmt) (sat : Bool) (vs : List XV) : Nat × PFlags :=
  if vs.any XV.isNan then (0xFF, {nv := true})
  else if !sat && vs.any XV.isInf then (0xFF, {of := true})
  else
    let amax := vs.foldl (fun (a : Option Int) v => match v with
      | .fin _ n e => if n = 0 then a else some (match a with
          | none => (Nat.log2 n : Int) + e
          | some k => max k ((Nat.log2 n : Int) + e))
      | _ => a) none
    let x : Int := match amax with | none => -127 | some k => max (k - f.el.emax) (-127)
    ((x + 127).toNat, {})

/-- `mx_encode` of R77: scale, element codes and flags. -/
def OFmt.mxEncode (f : OFmt) (rm : RM) (sat : Bool) (vs : List XV) : Nat × List Nat × PFlags :=
  let (sc, fl) := f.mxScale sat vs
  if sc = 0xFF then (sc, vs.map (fun _ => 0), fl)
  else
    let es := vs.map (f.mxElem rm ((sc : Int) - 127))
    (sc, es.map (·.1), es.foldl (fun a p => a.or p.2) fl)

/-- Element codes packed at w bits each from bit 0 (R72, R73). -/
def packNat (w : Nat) : List Nat → Nat
  | [] => 0
  | c :: cs => c % 2 ^ w + 2 ^ w * packNat w cs

/-- Element i of a packed array. -/
def unpackAt (w : Nat) (packed i : Nat) : Nat := (packed >>> (w * i)) % 2 ^ w

/-- The widening of one element into FP32 (R81); a scaled value outside FP32 rounds. -/
def OFmt.widen (f : OFmt) (rm : RM) (sat : Bool) (scale code : Nat) : Nat × PFlags :=
  let v := f.value scale code
  match v with
  | .nan => (fp32.cnan, {nv := true})
  | .inf s => (fp32.infCode s, {})
  | .fin s n e =>
    let (c, fl) := fp32.narrowQ rm sat s n 1 e
    -- R81: only a non-zero value below the FP32 subnormal range, which rounding changes, sets uf.
    (c, {fl with uf := fl.uf && !(match fp32.decode c with | .fin _ n' e' => ((XV.fin s n e).add (.fin (!s) n' e')).isZero | _ => false)})

/-- An INT32 element divided by 2^k, rounded and saturated to w bits (R80). -/
def shiftInt (w : Nat) (rm : RM) (v : Int) (k : Nat) : Nat × PFlags :=
  let (r, fl) := toIntSat w rm (.fin (decide (v < 0)) v.natAbs (-(k : Int)))
  (intCode w r, fl)

/-- A conversion of an FP32 value into a non-MX element (R79, R80). -/
def Elem.narrow (el : Elem) (rm : RM) (sat : Bool) (v : XV) : Nat × PFlags :=
  match el with
  | .fp f => f.narrow rm sat v
  | .int w => let (r, fl) := toIntSat w rm v; (intCode w r, fl)

/-! ### Format pairs of the press -/

/-- The classes of MX elements that R86 pairs. -/
inductive PairClass where
  | fp8 | bf16 | fp16 | int8 | int4 | mx86 | mxfp4 | mxint8
  deriving DecidableEq, Repr

/-- The class of a format code (R86, R107). -/
def pairClass : Nat → Option PairClass
  | 0 | 1 => some .fp8
  | 2 => some .bf16
  | 3 => some .fp16
  | 4 => some .int8
  | 5 => some .int4
  | 6 | 7 | 8 | 9 => some .mx86
  | 0xA => some .mxfp4
  | 0xB => some .mxint8
  | _ => none

/-- Four times the dense k-steps per cycle of a pair, and whether the accumulator is INT32 (R86); none where R86 does
not list the pair. -/
def pairRate (a b : Nat) : Option (Nat × Bool) :=
  match pairClass a, pairClass b with
  | some .fp8, some .fp8 => some (4, false)
  | some .bf16, some .bf16 => some (1, false)
  | some .fp16, some .fp16 => some (1, false)
  | some .int8, some .int8 | some .int8, some .int4 | some .int4, some .int8 => some (4, true)
  | some .int4, some .int4 => some (8, true)
  | some .mx86, some .mx86 | some .mx86, some .mxfp4 | some .mxfp4, some .mx86 => some (4, false)
  | some .mxfp4, some .mxfp4 => some (8, false)
  | some .mxint8, some .mxint8 => some (4, false)
  | _, _ => none

/-- The group size g of R88 step 3. -/
def groupSize (rate4 : Nat) (sparse : Bool) : Nat := max 1 (rate4 * (if sparse then 2 else 1) / 4)

end Sys2Proof.Machine
end

