-- ==== Sys2Proof/Machine/Transcendental.lean ====
section
/-! DEFINITION. 2^x and log2 x, correctly rounded into FP32 under RNE (R140), by integer interval arithmetic: the
result is taken where both ends of the interval round alike. -/

namespace Sys2Proof.Machine

/-- Integer square root by bits, from bit k down. -/
def isqrtAux (n : Nat) : Nat → Nat → Nat
  | 0, r => r
  | k + 1, r => let c := r + 2 ^ k; isqrtAux n k (if c * c ≤ n then c else r)

/-- floor of the square root of a number below 2^(2 w). -/
def isqrt (w n : Nat) : Nat := isqrtAux n w 0

/-- Fraction bits of the fixed-point interval of `exp2`. -/
def expP : Nat := 220

/-- Bounds of 2^f for the fraction f = 0.b1 b2 … (bit i of `f` counted from the top of `k` bits), multiplying by
successive square roots c of 2. -/
def exp2Aux (f : Nat) : Nat → Nat × Nat → Nat × Nat → Nat × Nat
  | 0, _, p => p
  | k + 1, (cl, ch), (lo, hi) =>
    let c' := (isqrt (expP + 2) (cl * 2 ^ expP), isqrt (expP + 2) (ch * 2 ^ expP) + 1)
    let p' := if f.testBit k then (lo * c'.1 / 2 ^ expP, hi * c'.2 / 2 ^ expP + 1) else (lo, hi)
    exp2Aux f k c' p'

/-- 2^x for an FP32 code (R140). -/
def exp2F32 (x : Nat) : Nat :=
  match fp32.decode x with
  | .nan => fp32.cnan
  | .inf s => if s then 0 else fp32.infCode false
  | .fin s n e =>
    let k := (-e).toNat                        -- fraction bits of x
    let v : Int := if s then -(n * 2 ^ e.toNat : Int) else (n * 2 ^ e.toNat : Int)
    let i := v / (2 ^ k : Int)                 -- floor x
    let f := (v % (2 ^ k : Int)).toNat
    if i < -150 ∨ (i = -150 ∧ f = 0) then 0
    else if 128 ≤ i then fp32.infCode false
    else if f = 0 then (fp32.narrowQ .rne false false 1 1 i).1
    else
      let (lo, hi) := exp2Aux f k (2 * 2 ^ expP, 2 * 2 ^ expP) (2 ^ expP, 2 ^ expP)
      let a := (fp32.narrowQ .rne false false lo 1 (i - expP)).1
      let b := (fp32.narrowQ .rne false false hi 1 (i - expP)).1
      if a = b then a else (Config.exp2F32 (BitVec.ofNat 32 x)).toNat

/-- Fraction bits of the mantissa interval of `log2`. -/
def logP : Nat := 420

/-- Up to k more bits of log2 of the mantissa in [lo, hi] (fixed point, in [1, 2)): bits found and how many. -/
def log2Aux : Nat → Nat × Nat → Nat × Nat → Nat × Nat
  | 0, _, r => r
  | k + 1, (lo, hi), (acc, m) =>
    let lo2 := lo * lo / 2 ^ logP
    let hi2 := hi * hi / 2 ^ logP + 1
    let two := 2 * 2 ^ logP
    if two ≤ lo2 then log2Aux k (lo2 / 2, hi2 / 2 + 1) (2 * acc + 1, m + 1)
    else if hi2 < two then log2Aux k (lo2, hi2) (2 * acc, m + 1)
    else (acc, m)

/-- log2 x for an FP32 code (R140): of +0 it is −Inf, of a negative value the canonical NaN. -/
def log2F32 (x : Nat) : Nat :=
  match fp32.decode x with
  | .nan => fp32.cnan
  | .inf s => if s then fp32.cnan else fp32.infCode false
  | .fin s n e =>
    if n = 0 then fp32.infCode true
    else if s then fp32.cnan
    else
      let t := Nat.log2 n
      let k : Int := e + t
      if n = 2 ^ t then (fp32.narrowQ .rne false (decide (k < 0)) k.natAbs 1 0).1
      else
        let m := n * 2 ^ (logP - t)
        let (acc, b) := log2Aux 170 (m, m) (0, 0)
        let lo : Int := k * 2 ^ b + acc
        let hi : Int := lo + 1
        let rnd := fun (v : Int) => (fp32.narrowQ .rne false (decide (v < 0)) v.natAbs 1 (-(b : Int))).1
        if rnd lo = rnd hi then rnd lo else (Config.log2F32 (BitVec.ofNat 32 x)).toNat

end Sys2Proof.Machine
end

