-- ==== Sys2Proof/Machine/Memory.lean ====
section
/-! DEFINITION. Sparse memory and sparse tables. A memory lists the bytes that differ from 0 by strictly rising
address; a table lists entries by strictly rising number. -/

namespace Sys2Proof.Machine

/-- Bytes by address; an unlisted address reads 0 (DESIGN CHOICE, log 3: the spec gives no reset contents). -/
abbrev Memory := List Host.Cell

/-- One byte. -/
def Memory.read : Memory → Nat → Byte
  | [], _ => 0
  | (b, v) :: m, a => if b = a then v else Memory.read m a

/-- One byte written, keeping the canonical form: writing 0 removes the entry. -/
def Memory.write : Memory → Nat → Byte → Memory
  | [], a, v => if v = 0 then [] else [(a, v)]
  | (b, w) :: m, a, v =>
    if a < b then (if v = 0 then (b, w) :: m else (a, v) :: (b, w) :: m)
    else if a = b then (if v = 0 then m else (a, v) :: m)
    else (b, w) :: Memory.write m a v

/-- The canonical form: strictly rising addresses, no entry equal to what an unlisted address reads as. -/
abbrev Memory.wf (m : Memory) : Prop := m.Pairwise (fun p q => p.1 < q.1) ∧ ∀ p ∈ m, p.2 ≠ 0

/-- n bytes from address a. -/
def Memory.readBytes (m : Memory) (a : Nat) : Nat → List Byte
  | 0 => []
  | n + 1 => m.read a :: Memory.readBytes m (a + 1) n

/-- Bytes written from address a. -/
def Memory.writeBytes (m : Memory) (a : Nat) : List Byte → Memory
  | [] => m
  | b :: bs => Memory.writeBytes (m.write a b) (a + 1) bs

/-- A little-endian field of n bytes (R14). -/
def Memory.readNat (m : Memory) (a n : Nat) : Nat := leNat (m.readBytes a n)
/-- A little-endian field of n bytes written (R14). -/
def Memory.writeNat (m : Memory) (a n v : Nat) : Memory := m.writeBytes a (leBytes n v)

/-- Every byte at or above lo and below hi removed (reads 0). -/
def Memory.clear (m : Memory) (lo hi : Nat) : Memory := m.filter (fun p => !(lo ≤ p.1 && p.1 < hi))

/-- A table's entry; d where nothing is listed. -/
def tget {α : Type} (d : α) : Tab α → Nat → α
  | [], _ => d
  | (k, v) :: t, n => if k = n then v else tget d t n

/-- A table's entry put, keys strictly rising. -/
def tput {α : Type} : Tab α → Nat → α → Tab α
  | [], n, v => [(n, v)]
  | (k, w) :: t, n, v =>
    if n < k then (n, v) :: (k, w) :: t
    else if n = k then (n, v) :: t
    else (k, w) :: tput t n v

/-- A table's entry removed. -/
def tdel {α : Type} (t : Tab α) (n : Nat) : Tab α := t.filter (fun p => p.1 ≠ n)
/-- A listed entry. -/
def tfind {α : Type} : Tab α → Nat → Option α
  | [], _ => none
  | (k, v) :: t, n => if k = n then some v else tfind t n
/-- Whether an entry is listed. -/
def thas {α : Type} (t : Tab α) (n : Nat) : Bool := t.any (fun p => p.1 = n)
/-- An entry changed in place. -/
def tmod {α : Type} (d : α) (t : Tab α) (n : Nat) (f : α → α) : Tab α := tput t n (f (tget d t n))

/-- The bytes of a sector, byte 0 first (R14). -/
def sectorBytes (s : Sector) : List Byte := leBytes 64 s.toNat
/-- Sectors of a byte list, padded with 0 to whole sectors. -/
def sectorsOf : Nat → List Byte → List Sector
  | 0, _ => []
  | n + 1, bs => BitVec.ofNat 512 (leNat (bs.take 64)) :: sectorsOf n (bs.drop 64)
/-- A list cut or padded with d to n entries. -/
def fit {α : Type} (d : α) (n : Nat) (l : List α) : List α := l.take n ++ List.replicate (n - l.length) d
/-- The element at place i, d beyond the end. -/
def nth {α : Type} (d : α) : List α → Nat → α
  | [], _ => d
  | a :: _, 0 => a
  | _ :: l, n + 1 => nth d l n
/-- The least number not below n that is not listed; k more than the list holds is fuel enough. -/
def leastFree (used : List Nat) : Nat → Nat → Nat
  | 0, n => n
  | k + 1, n => if used.contains n then leastFree used k (n + 1) else n
/-- The least number not listed. -/
def freeNum (used : List Nat) : Nat := leastFree used (used.length + 1) 0
/-- The element at place i replaced. -/
def setAt {α : Type} : List α → Nat → α → List α
  | [], _, _ => []
  | _ :: l, 0, b => b :: l
  | a :: l, n + 1, b => a :: setAt l n b

end Sys2Proof.Machine
end

