-- ==== Sys2Proof/Machine/PartsCore.lean ====
section
/-! DEFINITION. The state of a Bambipin compute die (chapters 02–05): threads, cores, press queue, decanter, L2 copies,
cluster maps, barrier channels. Each field's docstring says what it is; width; rule; reset value. -/

namespace Sys2Proof.Machine

/-- An access a thread has issued and not retired (R268, R403, R601): what it does when its data is there. -/
inductive MemOp where
  | load (n : ILen) (va : Nat) (dst : LoadDst)
  | store (n : ILen) (va : Nat) (src : StoreSrc)
  | lr (rd : RegNo) (dbl : Bool) (va : Nat)
  | sc (rd rs2 : RegNo) (dbl : Bool) (va : Nat)
  | amo (rd rs2 : RegNo) (op : AmoOp) (dbl : Bool) (va : Nat)
  deriving DecidableEq, Repr

/-- Why a thread does not go on (R36, R51, R117, R133, R403). -/
inductive Wait where
  | none
  | barrier (n : ILen) (rd : RegNo) (chan : Nat) (phase : Bool)
  | fence (rd : RegNo) (f : Nat) (target : Word)
  | press (upTo : Nat)                 -- pwait: entries numbered below upTo
  | pressIssue (w : BitVec 32)         -- the press queue is full, or holds four dkv
  | convert (w : BitVec 32)            -- the same for a conversion instruction
  | vector (w : BitVec 32)              -- a vector register an uncompleted press entry reads or writes
  | mem (op : MemOp)                   -- responses or a translation are awaited
  | fault (op : MemOp)                 -- a resolvable translation fault awaits XRESUME
  | ordered                            -- a FENCE whose earlier host-window writes are not all answered (R273)
  deriving DecidableEq, Repr

/-- One hardware thread (R65, R43). -/
structure Thread where
  /-- program counter; 64; R65; reset 0 (DESIGN CHOICE, log 2) -/
  pc : Word := 0
  /-- x1–x31 by number, x0 never listed; 64 each; R65; reset 0 (DESIGN CHOICE, log 2) -/
  x : Tab Word := []
  /-- f0–f31 by number; 64 each; R65; reset 0 (DESIGN CHOICE, log 2) -/
  f : Tab Word := []
  /-- v0–v31 by number; 2048 each; R37, R65; reset 0 (DESIGN CHOICE, log 2) -/
  v : Tab (BitVec 2048) := []
  /-- CSRs by CSR number, an unlisted one at its reset value; 64 each; R65, R104, R144; reset 0 (R106, R144; others DESIGN CHOICE, log 2) -/
  csr : Tab Word := []
  /-- privilege mode, 0 U, 1 S, 3 M; 2; R65; reset 3 (PRESUMED, log 2) -/
  priv : BitVec 2 := 3
  /-- in wfi; 1; R65; reset 0 -/
  wfi : Bool := false
  /-- `LTCMP.cmp`; 64; R43; reset 0xFFFF_FFFF_FFFF_FFFF -/
  ltcmp : Word := 0xFFFFFFFFFFFFFFFF
  /-- `LQLAST.qslot`; 14; R43; reset 0 -/
  lqSlot : BitVec 14 := 0
  /-- `LQLAST.nq`; 32; R43; reset 0 -/
  lqNq : Half := 0
  /-- `LBAR.chan`; 8; R43; reset 0 -/
  lbChan : Byte := 0
  /-- `LBAR.arr`; 1; R43; reset 0 -/
  lbArr : Bool := false
  /-- `LBAR.ph`; 1; R43; reset 0 -/
  lbPh : Bool := false
  /-- `LBAR.brk`; 1; R43; reset 0 -/
  lbBrk : Bool := false
  /-- the thread is inside a `barw` whose arrival is made, so that the `barw` resumes as `barwp` after a load; 1; R131;
  reset 0 -/
  barIn : Bool := false
  /-- LR/SC reservation: a 64 B line by its key (scratch line, or 2^48 + physical line); option; R99; reset none -/
  resv : Option Nat := none
  /-- what the thread waits for; —; R36; reset none -/
  wait : Wait := .none
  deriving DecidableEq, Repr

/-- A press-queue entry with the registers and CSRs captured at issue (R118). -/
structure PEntry where
  /-- issue number; R38; — -/
  seq : Nat
  thread : Fin 4
  w : BitVec 32
  x1 : Word
  x2 : Word
  fmt : Word
  kdim : Word
  strd : Word
  asc : Word
  bsc : Word
  meta' : Word
  csc : Word
  dcfg : Word
  dqpos : Word
  dq : Word
  dscale : Word
  started : Bool
  /-- bytes of the footprint written meanwhile, each time with the value before, oldest first (R122, R152) -/
  race : List (Nat × Byte)
  deriving DecidableEq, Repr

/-- One core (R36–R41). -/
structure Core where
  /-- thread t of the core; 4; R34; reset as Thread -/
  thr : Tab Thread := []
  /-- scratch; 512 KiB; R40; reset 0 (DESIGN CHOICE, log 2) -/
  scratch : Memory := []
  /-- `pstat`; 5; R84; reset 0 -/
  pstat : PFlags := {}
  /-- press tiles T0–T7, element 1024 t + 32 r + c; 32 each; R38; reset 0 (DESIGN CHOICE, log 2) -/
  tile : Tab Nat := []
  /-- press queue, at most 16; —; R38; reset empty -/
  queue : List PEntry := []
  /-- number of the next press entry; —; R38; reset 0 (model's own numbering) -/
  pseq : Nat := 0
  /-- threads stalled at issue, in order; —; R36; reset empty -/
  stalled : List (Fin 4) := []
  /-- decanter running maxima m; 32 × 32; R137; reset 0 (DESIGN CHOICE, log 2) -/
  dm : Tab Nat := []
  /-- decanter running sums l; 32 × 32; R137; reset 0 (DESIGN CHOICE, log 2) -/
  dl : Tab Nat := []
  /-- decanter outputs O, element 256 r + c; 32 × 256 × 32; R137; reset 0 (DESIGN CHOICE, log 2) -/
  dO : Tab Nat := []
  /-- context loaded on the position; 12; R365; reset none -/
  ctx : Option CtxId := none
  /-- a save is under way: issue is stopped; 1; R123; reset 0 -/
  saving : Bool := false
  /-- `cycflg` str, div, trip, stop, ld; 5; R522; reset 0 with ld 1 (R522) -/
  cycflg : BitVec 5 := 0x10
  /-- operator counter selectors `OCSEL`; 8 × 8; R527; reset 0 -/
  ocsel : Word := 0
  /-- operator counters `OCTR0`–`OCTR7`; 64 each; R527; reset 0 -/
  octr : Tab Word := []
  /-- last counts of the worn core, shown in OD 0x3131 while the spare serves its position; 64 each; R528; reset none -/
  octw : Option (Tab Word) := none
  deriving DecidableEq, Repr

/-- State of a coherent line copy (R254). -/
inductive LineSt where
  | s | m
  deriving DecidableEq, Repr

/-- A line a caching agent holds (R254), with the key slot of its fill (R448). -/
structure Line where
  st : LineSt
  data : Sector
  pois : Bool
  kslot : Nat
  deriving DecidableEq, Repr

/-- Progress of a spare substitution (R59, R60): the position, and whether it is the stand-in of a core test (R61).
`ready` is a prepared spare that waits for a frozen slice; `back` moves a tested position back to its own core. -/
inductive SubstSt where
  | idle
  | pendingThaw (pos : Fin 16) (test : Bool)
  | selftest (pos : Fin 16) (test : Bool)
  | ready (pos : Fin 16) (test : Bool)
  | saving (pos : Fin 16) (test : Bool)
  | back (pos : Fin 16)
  deriving DecidableEq, Repr

/-- One cluster's map and spare (R54–R60). -/
structure Cluster where
  /-- `sub_pos`; 4; R54; cooper (log 2) -/
  subPos : BitVec 4 := 0
  /-- `sub_en`; 1; R54; cooper (log 2) -/
  subEn : Bool := false
  /-- `spare_ok`; 1; R54; cooper (log 2: 1) -/
  spareOk : Bool := true
  /-- `pos_lost`; 1; R54; cooper (log 2) -/
  posLost : Bool := false
  /-- `lost_pos`; 4; R54; cooper (log 2) -/
  lostPos : BitVec 4 := 0
  /-- `retired`; 17; R54; cooper (log 2) -/
  retired : BitVec 17 := 0
  /-- substitution in progress; —; R59; reset idle -/
  subst : SubstSt := .idle
  /-- core under the in-service test, by physical index; —; R61; reset none -/
  testing : Option Nat := none
  deriving DecidableEq, Repr

/-- A line a thread or a flush waits for (R48, R263): tag, thread, line, whether in M, the device virtual address of the
access that asked, and whether that access still waits for it (R601). -/
structure Miss where
  tag : Nat
  hart : Hart
  /-- context and vintage at issue (R421); none when none was loaded -/
  own : Option (Nat × Nat)
  line : Nat
  excl : Bool
  kslot : Nat
  va : Nat
  live : Bool
  deriving DecidableEq, Repr

/-- A host-window or hub-register access of a thread that the site adapter has taken and that is not yet answered (R268,
R269, R601): tag, thread, address, length, store. -/
structure Posted where
  tag : Nat
  hart : Hart
  /-- context and vintage at issue (R421); none when none was loaded -/
  own : Option (Nat × Nat)
  /-- a host-window address, not a device physical one -/
  host : Bool
  pa : Nat
  len : Nat
  wr : Bool
  /-- data of the answer, once it is here: a read's access completes with it -/
  data : Option (List Byte)
  /-- NI the access goes to (R221) -/
  dst : Nat
  /-- bytes of a store -/
  bytes : List Byte
  /-- issued on the link: not while an earlier access holds it back (R269) or no response buffer is free (R48) -/
  sent : Bool
  /-- device virtual address of the access (R601) -/
  va : Nat
  /-- the access that asked still waits for it -/
  live : Bool
  deriving DecidableEq, Repr

/-- A deferred secondary request (R263). -/
structure Deferred where
  op : TOp
  line : Nat
  data : Sector
  deriving DecidableEq, Repr

/-- What a thread's release waits for its earlier writes with (R133, R270): a signal, or an arrival. -/
inductive Release where
  | signal (f : Nat) (v : Word)
  | arrival (chan : Nat)
  deriving DecidableEq, Repr

/-- A signal or an arrival held until the writes of these tags are answered. -/
structure HeldRel where
  hart : Hart
  tags : List Nat
  what : Release
  deriving DecidableEq, Repr

/-- One compute die (R33, R34). -/
structure Die where
  /-- cores by logical number; 256; R35; reset as Core -/
  core : Tab Core := []
  /-- cluster maps; 16; R54; reset as Cluster -/
  cluster : Tab Cluster := []
  /-- OD 0x231s.14: the last substitution; 8; R504; reset 0 -/
  substRes : Nat := 0
  /-- OD 0x231s.15: `CLMAPn` writes discarded; 32; R56; reset 0 -/
  clmapDisc : Nat := 0
  /-- L2 lines held, by physical address / 64; 48 MiB; R45, R254; reset none -/
  l2 : Tab Line := []
  /-- write-back buffer: lines leaving in M, not yet answered by the home agent; —; R262; reset none -/
  wbbuf : Tab Line := []
  /-- reads outstanding; —; R48; reset none -/
  miss : List Miss := []
  /-- host-window and hub-register accesses outstanding; —; R268; reset none -/
  posted : List Posted := []
  /-- signals and arrivals that wait for their thread's earlier host-window and hub-register writes; —; R133, R270;
  reset none -/
  held : List HeldRel := []
  /-- next tag of the die's requests; 12; R238; reset 0 (model's own numbering) -/
  tag : Nat := 0
  /-- secondary requests deferred; —; R263; reset none -/
  deferred : List Deferred := []
  /-- lines held for the access that asked for them, or for an SC, each with the thread; —; R263; reset none -/
  pinned : List (Nat × Hart) := []
  /-- casks and sets whose tag error is not yet handled: (bank, set + 4096 × cask); —; R46; reset none -/
  l2bad : List (Nat × Nat) := []
  /-- corrected tag errors; —; R46; reset 0 -/
  tagCorr : Nat := 0
  /-- response buffers reserved per module; 0–1536; R48; reset 0 -/
  bufs : Tab Nat := []
  /-- clock divisor n; 8–16; R62, R506; reset 8 (DESIGN CHOICE, log 2) -/
  n : Nat := 8
  /-- n = 8 forced by a trip until the governor raises it; 1; R64; reset 0 -/
  tripped : Bool := false
  /-- zone temperatures, in 0.1 °C; 8; R64; reset 0 (DESIGN CHOICE, log 2) -/
  zone : Tab Int := []
  /-- die combiner: local thread number per channel; 256; R49; reset 0 -/
  barLocal : Tab Nat := []
  /-- die combiner: arrivals counted per channel; 256; R50; reset 0 -/
  barCount : Tab Nat := []
  /-- die combiner: phase bit per channel; 256; R49, R50; reset 0 -/
  barPh : Tab Nat := []
  deriving DecidableEq, Repr

/-- One barrier channel of the package combiner (R49–R52). -/
structure BarChan where
  /-- armed; 1; R49; reset 0 -/
  armed : Bool := false
  /-- number of participating dies; 1–16; R49; reset 0 -/
  dies : Nat := 0
  /-- sites whose arrival message of this phase has come; —; R50; reset none -/
  msgs : List Site := []
  /-- phase bit; 1; R49; reset 0 -/
  phase : Bool := false
  /-- broken; 1; R52; reset 0 -/
  broken : Bool := false
  /-- contexts with a participating (arrived) thread of this arming; —; R52; reset none -/
  ctxs : List Nat := []
  deriving DecidableEq, Repr

end Sys2Proof.Machine
end

