-- ==== Sys2Proof/Machine/Trap.lean ====
section
/-! DEFINITION. Thread registers, CSR storage and taking a trap (R65, R97, R135, R602, R603). The CSR numbers, the
bits of `mstatus` and the trap entry are those of the RISC-V privileged architecture (PRESUMED, log 4). -/

namespace Sys2Proof.Machine

/-- x[n]; x0 reads 0. -/
def Thread.xr (t : Thread) (n : RegNo) : Word := if n.val = 0 then 0 else tget 0 t.x n.val
/-- x[n] written; a write to x0 is discarded. -/
def Thread.setX (t : Thread) (n : RegNo) (v : Word) : Thread := if n.val = 0 then t else {t with x := tput t.x n.val v}
/-- f[n]. -/
def Thread.fr (t : Thread) (n : RegNo) : Word := tget 0 t.f n.val
def Thread.setF (t : Thread) (n : RegNo) (v : Word) : Thread := {t with f := tput t.f n.val v}
/-- v[n], as a number; byte 0 in the low bits. -/
def Thread.vr (t : Thread) (n : Nat) : BitVec 2048 := tget 0 t.v n
def Thread.setV (t : Thread) (n : Nat) (v : BitVec 2048) : Thread := {t with v := tput t.v n v}

/-- The length in bytes of an instruction. -/
def ilen : ILen → Nat | .two => 2 | .four => 4

namespace Csr
def fflags := 0x001
def frm := 0x002
def fcsr := 0x003
def vstart := 0x008
def vxsat := 0x009
def vxrm := 0x00A
def vcsr := 0x00F
def vl := 0xC20
def vtype := 0xC21
def vlenb := 0xC22
def sstatus := 0x100
def sie := 0x104
def stvec := 0x105
def scounteren := 0x106
def sscratch := 0x140
def sepc := 0x141
def scause := 0x142
def stval := 0x143
def sip := 0x144
def satp := 0x180
def mstatus := 0x300
def misa := 0x301
def medeleg := 0x302
def mideleg := 0x303
def mie := 0x304
def mtvec := 0x305
def mcounteren := 0x306
def mcountinhibit := 0x320
def mscratch := 0x340
def mepc := 0x341
def mcause := 0x342
def mtval := 0x343
def mip := 0x344
def mcycle := 0xB00
def minstret := 0xB02
def cycle := 0xC00
def time := 0xC01
def instret := 0xC02
def mvendorid := 0xF11
def marchid := 0xF12
def mimpid := 0xF13
def mhartid := 0xF14
def mconfigptr := 0xF15
def pstat := 0x800
def pfmt := 0x801
def pkdim := 0x802
def pstrd := 0x803
def pasc := 0x804
def pbsc := 0x805
def pmeta := 0x806
def pcsc := 0x807
def dcfg := 0x808
def dqpos := 0x809
def dq := 0x80A
def dscale := 0x80B
def cycflg := 0x80C
def pqstat := 0xCC0
end Csr

/-- What a CSR that nothing has written holds: UXL and SXL of `mstatus` are 2 on RV64, `vtype` is illegal (both PRESUMED:
the reset values of the RISC-V family, log 4), every other field 0
(R104, R144: 0; the others a choice, log 2). -/
def csrReset (n : Nat) : Word := if n = Csr.mstatus then 0xA00000000 else if n = Csr.vtype then 0x8000000000000000 else 0

/-- The stored value of a CSR. -/
def Thread.csrRaw (t : Thread) (n : Nat) : Word := tget (csrReset n) t.csr n
/-- The stored value replaced. -/
def Thread.setCsr (t : Thread) (n : Nat) (v : Word) : Thread := {t with csr := tput t.csr n v}
/-- Bits [hi:lo] of a stored CSR. -/
def Thread.csrBits (t : Thread) (n hi lo : Nat) : Nat := bits (t.csrRaw n).toNat hi lo

/-- `mip` as it is at a time: `tip` is 1 while the timebase is at or above `cmp` (R43). The stored bit follows it at
LOCAL_TIMER_MATCH and at a write of LTCMP. -/
def Thread.mipNow (t : Thread) (now : Nat) : Word :=
  let m := t.csrRaw Csr.mip
  if t.ltcmp.toNat ≤ now then m ||| 0x20000 else m &&& ~~~0x20000
/-- The stored `tip` brought up to date. -/
def Thread.tipSync (t : Thread) (now : Nat) : Thread := t.setCsr Csr.mip (t.mipNow now)

/-- Bits [hi:lo] of w replaced by v. -/
def setBits (w : Word) (hi lo v : Nat) : Word :=
  BitVec.ofNat 64 (w.toNat - (bits w.toNat hi lo) * 2 ^ lo + (v % 2 ^ (hi + 1 - lo)) * 2 ^ lo)

/-- n events of a code counted by the thread's Zihpm counters that select it (R525, R526). -/
def Thread.hpmCount (t : Thread) (code n : Nat) : Thread :=
  let inh := (t.csrRaw Csr.mcountinhibit).toNat
  (List.range 16).foldl (fun (t : Thread) i =>
    if !bit inh (3 + i) && (t.csrRaw (0x323 + i)).toNat = code then t.setCsr (0xB03 + i) (t.csrRaw (0xB03 + i) + BitVec.ofNat 64 n)
    else t) t

/-- An instruction counted as retired: `minstret` and the counters of event 0x01, unless inhibited (R525). -/
def Thread.retire (t : Thread) : Thread :=
  let inh := (t.csrRaw Csr.mcountinhibit).toNat
  let t := t.hpmCount 0x01 1
  if bit inh 2 then t else t.setCsr Csr.minstret (t.csrRaw Csr.minstret + 1)

/-- The thread past an instruction of the given length, which has retired. -/
def Thread.adv (t : Thread) (n : ILen) : Thread := {t.retire with pc := t.pc + BitVec.ofNat 64 (ilen n)}

/-- Exception codes (RISC-V privileged architecture; 24 and 25 of R135). -/
inductive Cause where
  | instrMisaligned | instrAccess | illegal | breakpoint | loadMisaligned | loadAccess | storeMisaligned | storeAccess
  | illegalBarrier | fenceAccess
  deriving DecidableEq, Repr

def Cause.code : Cause → Nat
  | .instrMisaligned => 0
  | .instrAccess => 1
  | .illegal => 2
  | .breakpoint => 3
  | .loadMisaligned => 4
  | .loadAccess => 5
  | .storeMisaligned => 6
  | .storeAccess => 7
  | .illegalBarrier => 24
  | .fenceAccess => 25

/-- Trap entry into M or S mode: the saved pc, cause and value, the interrupt-enable stack, and the handler's address.
An exception below M-mode is delegated by `medeleg`, an interrupt by `mideleg` (R135, R43). -/
def Thread.enterTrap (t : Thread) (intr : Bool) (code : Nat) (tval : Word) : Thread :=
  let deleg := bit (t.csrRaw (if intr then Csr.mideleg else Csr.medeleg)).toNat code
  let toS := deleg && t.priv ≠ 3
  let st := t.csrRaw Csr.mstatus
  let causeW : Word := BitVec.ofNat 64 (code + (if intr then 2 ^ 63 else 0))
  let vec := fun (tv : Word) =>
    let base := tv.toNat - tv.toNat % 4
    BitVec.ofNat 64 (if intr && tv.toNat % 4 = 1 then base + 4 * code else base)
  let t := {t with wait := .none, wfi := false}
  if toS then
    let st := setBits (setBits (setBits st 5 5 (bits st.toNat 1 1)) 1 1 0) 8 8 (t.priv.toNat % 2)
    let t := ((((t.setCsr Csr.sepc t.pc).setCsr Csr.scause causeW).setCsr Csr.stval tval).setCsr Csr.mstatus st)
    {t with priv := 1, pc := vec (t.csrRaw Csr.stvec)}
  else
    let st := setBits (setBits (setBits st 7 7 (bits st.toNat 3 3)) 3 3 0) 12 11 t.priv.toNat
    let t := ((((t.setCsr Csr.mepc t.pc).setCsr Csr.mcause causeW).setCsr Csr.mtval tval).setCsr Csr.mstatus st)
    {t with priv := 3, pc := vec (t.csrRaw Csr.mtvec)}

/-- A synchronous exception, taken precisely: the pc saved is the instruction's. -/
def Thread.trap (t : Thread) (c : Cause) (tval : Word) : Thread := t.enterTrap false c.code tval

/-- The exception an instruction raises, or the value it goes on with. -/
abbrev OrTrap (α : Type) := Except (Cause × Word) α

end Sys2Proof.Machine
end

