-- ==== Sys2Proof/Machine/Press.lean ====
section
/-! DEFINITION. The press and the decanter of one core (R86–R123, R137–R153): issue checks, footprints, the queue, and
what each instruction does when it completes. -/

namespace Sys2Proof.Machine

/-- The fields of an R-type word (R102). -/
structure RWord where
  op : Nat
  rd : Nat
  f3 : Nat
  rs1 : Nat
  rs2 : Nat
  f7 : Nat
  deriving DecidableEq, Repr

def rword (w : BitVec 32) : RWord :=
  let n := w.toNat
  ⟨bits n 6 0, bits n 11 7, bits n 14 12, bits n 19 15, bits n 24 20, bits n 31 25⟩

/-- A register number from a 5-bit field. -/
def regNo (n : Nat) : RegNo := ⟨n % 32, Nat.mod_lt _ (by decide)⟩

/-- What a word of custom-0 or custom-3 spells (R112, R145). -/
inductive PKind where
  | mac (z : Bool)
  | macv (z : Bool)
  | zero | ld | st | rdv | wrv
  | stc
  | wait
  | dinit | dkv | dfin | dsave | dload
  deriving DecidableEq, Repr

/-- The encodings of R112 and R145; none for a reserved encoding or a non-zero reserved field (R103). -/
def pkind (w : BitVec 32) : Option PKind :=
  let r := rword w
  let tileRd := r.rd < 8
  if r.op = 0x0B then
    match r.f3 with
    | 0 => if tileRd ∧ r.f7 < 2 then some (.mac (r.f7 = 1)) else none
    | 1 => if tileRd ∧ r.f7 < 2 then some (.macv (r.f7 = 1)) else none
    | 2 =>
      match r.f7 with
      | 0 => if tileRd ∧ r.rs1 = 0 ∧ r.rs2 = 0 then some .zero else none
      | 1 => if tileRd ∧ r.rs2 = 0 then some .ld else none
      | 2 => if tileRd ∧ r.rs2 = 0 then some .st else none
      | 3 => if r.rs1 < 16 ∧ r.rs2 = 0 then some .rdv else none
      | 4 => if tileRd ∧ r.rs1 < 16 ∧ r.rs1 % 8 = 0 then some .wrv else none
      | _ => none
    | 3 => if tileRd then some .stc else none
    | 4 => if r.f7 = 0 ∧ r.rd = 0 ∧ r.rs1 = 0 ∧ r.rs2 = 0 then some .wait else none
    | _ => none
  else if r.op = 0x7B then
    match r.f3 with
    | 0 => if r.f7 = 0 ∧ r.rd = 0 ∧ r.rs1 = 0 ∧ r.rs2 = 0 then some .dinit else none
    | 1 => if r.f7 = 0 ∧ r.rd = 0 then some .dkv else none
    | 2 => if r.f7 < 4 ∧ r.rd = 0 ∧ r.rs2 = 0 then some .dfin else none
    | 3 => if r.f7 = 0 ∧ r.rd = 0 ∧ r.rs2 = 0 then some .dsave else none
    | 4 => if r.f7 = 0 ∧ r.rd = 0 ∧ r.rs2 = 0 then some .dload else none
    | _ => none
  else none

/-- Execution port: array, tile, or both (R120, R150). -/
inductive Port where
  | array | tile | both
  deriving DecidableEq, Repr

def PKind.port : PKind → Port
  | .mac _ | .macv _ => .array
  | .dkv => .both
  | _ => .tile

def PKind.isDec : PKind → Bool
  | .dinit | .dkv | .dfin | .dsave | .dload => true
  | _ => false

/-- The tile an instruction names (R112). -/
def pressTile (k : PKind) (w : BitVec 32) : Option Nat :=
  let r := rword w
  match k with
  | .rdv => some (r.rs1 % 8)
  | .wait | .dinit | .dkv | .dfin | .dsave | .dload => none
  | _ => some (r.rd % 8)

/-! ### Captured fields -/

def PEntry.afmt (e : PEntry) : Nat := bits e.fmt.toNat 3 0
def PEntry.bfmt (e : PEntry) : Nat := bits e.fmt.toNat 7 4
def PEntry.sp (e : PEntry) : Bool := bit e.fmt.toNat 8
def PEntry.kk (e : PEntry) : Nat := 32 * bits e.kdim.toNat 7 0
def PEntry.astride (e : PEntry) : Nat := bits e.strd.toNat 19 0
def PEntry.bstride (e : PEntry) : Nat := bits e.strd.toNat 39 20
def PEntry.cstride (e : PEntry) : Nat := bits e.strd.toNat 59 40
/-- base and stride of `pasc`, `pbsc`, `pmeta` (R106). -/
def arrBase (v : Word) : Nat := bits v.toNat 19 0
def arrStride (v : Word) : Nat := bits v.toNat 39 20
def PEntry.cscStride (e : PEntry) : Nat := bits e.csc.toNat 19 0
def PEntry.kvfmt (e : PEntry) : Nat := bits e.dcfg.toNat 2 0
def PEntry.dd (e : PEntry) : Nat := 32 * (bits e.dcfg.toNat 5 3 + 1)
def PEntry.nrows (e : PEntry) : Nat := bits e.dcfg.toNat 10 6 + 1
def PEntry.causal (e : PEntry) : Bool := bit e.dcfg.toNat 11
def PEntry.win (e : PEntry) : Nat := bits e.dcfg.toNat 32 12
def PEntry.qbase (e : PEntry) : Nat := bits e.dqpos.toNat 20 0
def PEntry.rgrp (e : PEntry) : Nat := bits e.dqpos.toNat 23 21
def PEntry.klim (e : PEntry) : Nat := bits e.dqpos.toNat 45 24
def PEntry.qoff (e : PEntry) : Nat := bits e.dq.toNat 19 0
def PEntry.sbase (e : PEntry) : Nat := bits e.dq.toNat 39 20

/-- Bytes of K elements of a format (R108). -/
def fmtBytes (f : Nat) (k : Nat) : Nat := match fmtCode f with | some g => k * g.bits / 8 | none => 0
def fmtMx (f : Nat) : Bool := match fmtCode f with | some g => g.mx | none => false

/-- KV element format of `dcfg.kvfmt` (R144). -/
def kvFmt : Nat → Option OFmt
  | 0 => some ⟨.fp e4m3, false⟩
  | 1 => some ⟨.fp e5m2, false⟩
  | 2 => some ⟨.fp e4m3, true⟩
  | 3 => some ⟨.fp e3m2, true⟩
  | 4 => some ⟨.fp e2m3, true⟩
  | 5 => some ⟨.fp e2m1, true⟩
  | _ => none

/-- Offsets in the KV block: K scales, V elements, V scales, size (R146). -/
def kvLayout (f : OFmt) (d : Nat) : Nat × Nat × Nat × Nat :=
  let el := 32 * f.bits * d
  if f.mx then (el, el + 8 * d, 2 * el + 8 * d, 2 * el + 16 * d) else (el, el, 2 * el, 2 * el)

/-! ### Footprints (R111, R152) -/

/-- A byte interval, both ends inclusive, and whether the instruction writes it. -/
structure Span where
  lo : Nat
  hi : Nat
  wr : Bool
  deriving DecidableEq, Repr

def span (lo n : Nat) (wr : Bool) : List Span := if n = 0 then [] else [⟨lo, lo + n - 1, wr⟩]

/-- The intervals an instruction reads or writes in scratch. -/
def footprint (k : PKind) (e : PEntry) : List Span :=
  let x1 := e.x1.toNat
  let x2 := e.x2.toNat
  match k with
  | .mac _ =>
    let rowA := fmtBytes e.afmt e.kk / (if e.sp then 2 else 1)
    let rowB := fmtBytes e.bfmt e.kk
    span x1 (31 * e.astride + rowA) false ++ span x2 (31 * e.bstride + rowB) false
      ++ (if fmtMx e.afmt then span (arrBase e.asc) (31 * arrStride e.asc + e.kk / 32) false else [])
      ++ (if fmtMx e.bfmt then span (arrBase e.bsc) (31 * arrStride e.bsc + e.kk / 32) false else [])
      ++ (if e.sp then span (arrBase e.meta') (31 * arrStride e.meta' + e.kk / 8) false else [])
  | .ld => span x1 (31 * e.cstride + 128) false
  | .st => span x1 (31 * e.cstride + 128) true
  | .stc =>
    let f := (rword e.w).f7 % 16
    span x1 (31 * e.cstride + fmtBytes f 32) true
      ++ (if fmtMx f then span x2 (31 * e.cscStride + 1) true else [])
  | .dkv =>
    match kvFmt e.kvfmt with
    | none => []
    | some f =>
      let (_, _, _, size) := kvLayout f e.dd
      span x1 size false ++ span e.qoff (e.nrows * e.dd) false
        ++ (if f.mx then span e.sbase (e.nrows * (e.dd / 32)) false else [])
  | .dfin =>
    let f7 := (rword e.w).f7
    span x1 (if f7 = 2 then e.nrows * (4 * e.dd + 4) else if f7 = 1 then 2 * e.dd * e.nrows else 4 * e.dd * e.nrows) true
  | .dsave => span x1 (256 + 128 * e.dd) true
  | .dload => span x1 (256 + 128 * e.dd) false
  | _ => []

/-- First byte past scratch (R40). -/
def scratchEnd : Nat := 0x80000

/-- The lowest footprint offset at or above 0x8_0000 (R111). -/
def overrun (fp : List Span) : Option Nat :=
  fp.foldl (fun a s => if s.hi < scratchEnd then a else
    let v := max s.lo scratchEnd
    some (match a with | none => v | some u => min u v)) none

def Span.meets (a b : Span) : Bool := a.lo ≤ b.hi && b.lo ≤ a.hi && (a.wr || b.wr)

/-- Vector registers an instruction reads and writes (R120). -/
def pressVregs (k : PKind) (w : BitVec 32) : List Nat × List Nat :=
  let r := rword w
  let grp := fun b => (List.range 8).map (· + b)
  match k with
  | .macv _ => (grp r.rs1 ++ grp r.rs2, [])
  | .rdv => ([], grp r.rd)
  | .wrv => (grp r.rs2, [])
  | _ => ([], [])

/-! ### Issue (R118, R136, R153) -/

/-- Conditions that raise an illegal-instruction exception (R106–R119, R143, R145). -/
def pressIllegal (k : PKind) (e : PEntry) : Bool :=
  let r := rword e.w
  match k with
  | .mac _ =>
    match pairRate e.afmt e.bfmt with
    | none => true
    | some (rate, _) =>
      e.kk = 0 || 1024 * (rate * (if e.sp then 2 else 1)) < e.kk * 4 || e.astride % 8 ≠ 0 || e.bstride % 8 ≠ 0
  | .macv _ =>
    (pairRate e.afmt e.bfmt).isNone || fmtMx e.afmt || fmtMx e.bfmt || e.sp || r.rs1 % 8 ≠ 0 || r.rs2 % 8 ≠ 0
  | .ld | .st => e.cstride % 8 ≠ 0
  | .rdv => r.rd % 8 ≠ 0
  | .wrv => r.rs2 % 8 ≠ 0
  | .stc =>
    let f := r.f7 % 16
    e.cstride % 8 ≠ 0 || (fmtCode f).isNone || (64 ≤ r.f7 && f ≠ 4 && f ≠ 5)
  | .dinit | .dsave | .dload => 6 ≤ e.kvfmt || 5 < e.rgrp
  | .dfin => 6 ≤ e.kvfmt || 5 < e.rgrp || r.f7 = 3
  | .dkv => 6 ≤ e.kvfmt || 5 < e.rgrp || 2096896 < e.x2.toNat || 2097152 < e.klim
  | .zero | .wait => false

/-- Bases that must be multiples of 8, in the order they are checked (R110, R153): where more than one fails, `mtval` takes
the first of this list, x[rs1] before x[rs2] (DESIGN CHOICE, log 44: the spec names no order). -/
def pressBases (k : PKind) (e : PEntry) : List Nat :=
  match k with
  | .mac _ => [e.x1.toNat, e.x2.toNat]
  | .ld | .st | .stc | .dfin | .dsave | .dload => [e.x1.toNat]
  | .dkv => [e.x1.toNat, e.qoff, e.sbase]
  | _ => []

def PKind.stores : PKind → Bool
  | .st | .stc | .dfin | .dsave => true
  | _ => false

/-- The one exception an instruction raises at issue, in the order of R136. -/
def pressCheck (k : PKind) (e : PEntry) : Option (Cause × Word) :=
  if pressIllegal k e then some (.illegal, e.w.setWidth 64)
  else match (pressBases k e).find? (fun b => b % 8 ≠ 0) with
    | some b => some (if k.stores then .storeMisaligned else .loadMisaligned, BitVec.ofNat 64 b)
    | none =>
      match overrun (footprint k e) with
      | some o => some (if k.stores then .storeAccess else .loadAccess, BitVec.ofNat 64 o)
      | none => none

def Core.thread (c : Core) (t : Fin 4) : Thread := tget {} c.thr t.val
def Core.setThread (c : Core) (t : Fin 4) (th : Thread) : Core := {c with thr := tput c.thr t.val th}

/-- The entry an instruction would enter, its registers and CSRs captured (R118). -/
def capture (c : Core) (t : Fin 4) (w : BitVec 32) : PEntry :=
  let th := c.thread t
  let r := rword w
  { seq := c.pseq, thread := t, w := w, x1 := th.xr (regNo r.rs1), x2 := th.xr (regNo r.rs2),
    fmt := th.csrRaw Csr.pfmt, kdim := th.csrRaw Csr.pkdim, strd := th.csrRaw Csr.pstrd, asc := th.csrRaw Csr.pasc,
    bsc := th.csrRaw Csr.pbsc, meta' := th.csrRaw Csr.pmeta, csc := th.csrRaw Csr.pcsc, dcfg := th.csrRaw Csr.dcfg,
    dqpos := th.csrRaw Csr.dqpos, dq := th.csrRaw Csr.dq, dscale := th.csrRaw Csr.dscale, started := false, race := [] }

/-- Whether the queue has room for an instruction (R38, R151). -/
def Core.room (c : Core) (k : PKind) : Bool :=
  c.queue.length < 16 && (k ≠ .dkv || (c.queue.filter (fun e => pkind e.w = some .dkv)).length < 4)

/-- A press or decanter instruction issues: it traps, stalls, or enters the queue (R118, R136). -/
def Core.issue (c : Core) (t : Fin 4) (k : PKind) (w : BitVec 32) : Core :=
  let e := capture c t w
  match pressCheck k e with
  | some (cause, v) => c.setThread t ((c.thread t).trap cause v)
  | none =>
    if c.room k then
      { c.setThread t ({c.thread t with wait := .none}.adv .four) with
        queue := c.queue ++ [e], pseq := c.pseq + 1 }
    else
      { c.setThread t {c.thread t with wait := .pressIssue w} with
        stalled := c.stalled.filter (· ≠ t) ++ [t] }

/-- `pwait` (R117): it retires when no entry that entered before it is left. -/
def Core.pwait (c : Core) (t : Fin 4) : Core :=
  if c.queue = [] then c.setThread t ((c.thread t).adv .four)
  else c.setThread t {c.thread t with wait := .press c.pseq}

/-! ### Start (R120, R150) -/

/-- Whether entry e, with the earlier entries before it all started, may start. -/
def mayStart (before : List PEntry) (e : PEntry) : Bool :=
  match pkind e.w with
  | none => false
  | some k =>
    before.all (fun b => match pkind b.w with
      | none => true
      | some kb =>
        let bothMac := k.port = .array && kb.port = .array
        let portFree := bothMac || (k.port ≠ kb.port && k.port ≠ .both && kb.port ≠ .both)
        let tileFree := match pressTile k e.w, pressTile kb b.w with
          | some x, some y => x ≠ y || bothMac
          | _, _ => true
        let spans := !(footprint kb b).any (fun x => (footprint k e).any x.meets)
        let (re, we) := pressVregs k e.w
        let (rb, wb) := pressVregs kb b.w
        let vregs := b.thread ≠ e.thread ||
          (!(wb.any (fun v => re.contains v || we.contains v)) && !(rb.any (fun v => we.contains v)))
        b.started && portFree && tileFree && spans && vregs && kb ≠ .dkv && !(k.isDec && kb.isDec))

/-- The head of the not-yet-started part starts when R120 lets it. -/
def startHead : List PEntry → List PEntry → List PEntry
  | before, [] => before
  | before, e :: rest =>
    if e.started then startHead (before ++ [e]) rest
    else if mayStart before e then before ++ {e with started := true} :: rest
    else before ++ e :: rest

def Core.pressStart (c : Core) : Core := {c with queue := startHead [] c.queue}

/-! ### Completion -/

/-- A byte an entry reads: where its thread has stored to the byte meanwhile, the value before any of those stores or after
the last, not fixed which (R122, R152). -/
def readB (c : Core) (ctr : Nat) (e : PEntry) (a : Nat) : Byte :=
  let old := (e.race.filter (fun p => p.1 = a)).map (·.2)
  nth (c.scratch.read a) old (Config.freeNat ctr (2 ^ 40 + a) % (old.length + 1))

/-- n bytes an entry reads, as a number. -/
def readN (c : Core) (ctr : Nat) (e : PEntry) (a n : Nat) : Nat :=
  leNat ((List.range n).map (fun i => readB c ctr e (a + i)))

/-- Reservations on the scratch lines of n bytes at offset o end, but for the thread whose own store it is (R99). -/
def Core.breakScratch (c : Core) (keep : Option Nat) (o n : Nat) : Core :=
  { c with thr := c.thr.map (fun t => (t.1, match t.2.resv with
      | some k => if some t.1 ≠ keep && o / 64 ≤ k && k < (o + n + 63) / 64 then {t.2 with resv := none} else t.2
      | none => t.2)) }

/-- Bytes an entry writes; a byte its thread has written meanwhile keeps that value or takes the entry's (R122). -/
def writeN (c : Core) (ctr : Nat) (e : PEntry) (a n v : Nat) : Core :=
  { c with scratch := (List.range n).foldl (fun m i =>
      let b := BitVec.ofNat 8 (v >>> (8 * i))
      if e.race.any (fun p => p.1 = a + i) && Config.byteChoice ctr (a + i) then m else m.write (a + i) b) c.scratch }.breakScratch
    none a n

/-- A term of a row of A: its logical k and its value. -/
abbrev Term := Nat × XV

/-- The terms of row r of A in groups of g consecutive logical k (R88, R91). -/
def groupTerms (g k : Nat) (ts : List Term) : List (List Term) :=
  (List.range (k / g)).map (fun i => ts.filter (fun p => p.1 / g = i))

/-- The values of a packed row of K elements with its scale bytes. -/
def rowValues (f : OFmt) (k packed scales : Nat) (logical : Nat → Nat) : List Term :=
  (List.range k).map (fun i => (logical i, f.value (unpackAt 8 scales (logical i / 32)) (unpackAt f.bits packed i)))

/-- One element accumulated over its groups (R88, R87). -/
def accumulate (int : Bool) (bits : Nat) (groups : List (List Term)) (b : List XV) : Nat × PFlags :=
  groups.foldl (fun (v, fl) grp =>
    if int then
      let ps := grp.map (fun (k, x) => match x, nth (XV.fin false 0 0) b k with
        | .fin sa na _, .fin sb nb _ => (alignInt sa na 0 0) * (alignInt sb nb 0 0)
        | _, _ => 0)
      let (v', f') := accI32 v ps
      (v', fl.or f')
    else
      let (v', f') := accF32 v (grp.map (fun (k, x) => x.mul (nth (XV.fin false 0 0) b k)))
      (v', fl.or f')) (bits, {})

/-- The 32 × 32 product accumulated onto a tile (R113). -/
def macTile (c : Core) (tile : Nat) (z int : Bool) (rows : List (List (List Term))) (cols : List (List XV)) :
    Core :=
  let old := fun (i : Nat) => if z then 0 else tget 0 c.tile (1024 * tile + i)
  let res := (List.range 1024).map (fun i =>
    (i, accumulate int (old i) (nth [] rows (i / 32)) (nth [] cols (i % 32))))
  { c with
    tile := res.foldl (fun t p => tput t (1024 * tile + p.1) p.2.1) c.tile,
    pstat := res.foldl (fun f p => f.or p.2.2) c.pstat }

/-- `pmac`, `pmacz` (R108, R113). -/
def doMac (c : Core) (ctr : Nat) (e : PEntry) (z : Bool) : Core :=
  match fmtCode e.afmt, fmtCode e.bfmt, pairRate e.afmt e.bfmt with
  | some fa, some fb, some (rate, int) =>
    let k := e.kk
    let g := groupSize rate e.sp
    let na := if e.sp then k / 2 else k
    let rows := (List.range 32).map (fun r =>
      let packed := readN c ctr e (e.x1.toNat + r * e.astride) (na * fa.bits / 8)
      let scales := if fa.mx then readN c ctr e (arrBase e.asc + r * arrStride e.asc) (k / 32) else 0
      let meta' := if e.sp then readN c ctr e (arrBase e.meta' + r * arrStride e.meta') (k / 8) else 0
      let logical := fun i => if e.sp then 4 * (i / 2) + unpackAt 2 meta' i else i
      groupTerms g k (rowValues fa na packed scales logical))
    let cols := (List.range 32).map (fun j =>
      let packed := readN c ctr e (e.x2.toNat + j * e.bstride) (k * fb.bits / 8)
      let scales := if fb.mx then readN c ctr e (arrBase e.bsc + j * arrStride e.bsc) (k / 32) else 0
      (rowValues fb k packed scales (fun i => i)).map (·.2))
    macTile c ((rword e.w).rd % 8) z int rows cols
  | _, _, _ => c

/-- The eight registers from n as one number, register n lowest. -/
def Thread.vgroup (t : Thread) (n : Nat) : Nat := packNat 2048 ((List.range 8).map (fun i => (t.vr (n + i)).toNat))

/-- `pmacv`, `pmaczv` (R114). -/
def doMacv (c : Core) (e : PEntry) (z : Bool) : Core :=
  match fmtCode e.afmt, fmtCode e.bfmt, pairRate e.afmt e.bfmt with
  | some fa, some fb, some (rate, int) =>
    let th := c.thread e.thread
    let r := rword e.w
    let k := 512 / max fa.bits fb.bits
    let ga := th.vgroup r.rs1
    let gb := th.vgroup r.rs2
    let rows := (List.range 32).map (fun i =>
      groupTerms (groupSize rate false) k (rowValues fa k (unpackAt 512 ga i) 0 (fun i => i)))
    let cols := (List.range 32).map (fun i => (rowValues fb k (unpackAt 512 gb i) 0 (fun i => i)).map (·.2))
    macTile c (r.rd % 8) z int rows cols
  | _, _, _ => c

def Core.tileAt (c : Core) (t r j : Nat) : Nat := tget 0 c.tile (1024 * t + 32 * r + j)
/-- A row of a tile as 32-bit patterns (R90). -/
def Core.tileRow (c : Core) (t r : Nat) : List Nat := (List.range 32).map (c.tileAt t r)
def Core.setTileRow (c : Core) (t r : Nat) (vs : List Nat) : Core :=
  { c with tile := (List.range 32).foldl (fun m j => tput m (1024 * t + 32 * r + j) (nth 0 vs j)) c.tile }

/-- `pstc` (R116). -/
def doStc (c : Core) (ctr : Nat) (e : PEntry) : Core :=
  let r := rword e.w
  let t := r.rd % 8
  let rm : RM := if bit r.f7 4 then .rtz else .rne
  let sat := bit r.f7 5
  match fmtCode (r.f7 % 16) with
  | none => c
  | some f =>
    (List.range 32).foldl (fun c i =>
      let row := c.tileRow t i
      let dst := e.x1.toNat + i * e.cstride
      if f.mx then
        let (sc, es, fl) := f.mxEncode rm sat (row.map fp32.decode)
        let c := writeN c ctr e dst (32 * f.bits / 8) (packNat f.bits es)
        let c := writeN c ctr e (e.x2.toNat + i * e.cscStride) 1 sc
        {c with pstat := c.pstat.or fl}
      else
        let res := row.map (fun v =>
          if bit r.f7 6 then shiftInt f.bits rm (intOf 32 v) (e.x2.toNat % 32)
          else f.el.narrow rm sat (fp32.decode v))
        let c := writeN c ctr e dst (32 * f.bits / 8) (packNat f.bits (res.map (·.1)))
        {c with pstat := res.foldl (fun a p => a.or p.2) c.pstat}) c

/-- `pld`, `pst`, `prdv`, `pwrv`, `pzero` (R115). -/
def doZero (c : Core) (e : PEntry) : Core :=
  (List.range 32).foldl (fun c r => c.setTileRow ((rword e.w).rd % 8) r []) c
def doLd (c : Core) (ctr : Nat) (e : PEntry) : Core :=
  (List.range 32).foldl (fun c r =>
    let row := readN c ctr e (e.x1.toNat + r * e.cstride) 128
    c.setTileRow ((rword e.w).rd % 8) r ((List.range 32).map (unpackAt 32 row))) c
def doSt (c : Core) (ctr : Nat) (e : PEntry) : Core :=
  (List.range 32).foldl (fun c r =>
    writeN c ctr e (e.x1.toNat + r * e.cstride) 128 (packNat 32 (c.tileRow ((rword e.w).rd % 8) r))) c
def doRdv (c : Core) (e : PEntry) : Core :=
  let r := rword e.w
  let t := r.rs1 % 8
  let h := r.rs1 / 8 % 2
  (List.range 8).foldl (fun c j =>
    let v := packNat 1024 [packNat 32 (c.tileRow t (16 * h + 2 * j)), packNat 32 (c.tileRow t (16 * h + 2 * j + 1))]
    c.setThread e.thread ((c.thread e.thread).setV (r.rd + j) (BitVec.ofNat 2048 v))) c
def doWrv (c : Core) (e : PEntry) : Core :=
  let r := rword e.w
  let h := r.rs1 / 8 % 2
  (List.range 16).foldl (fun c i =>
    let v := ((c.thread e.thread).vr (r.rs2 + i / 2)).toNat
    c.setTileRow (r.rd % 8) (16 * h + i) ((List.range 32).map (fun j => unpackAt 32 v (32 * (i % 2) + j)))) c

/-! ### Decanter -/

def ninf : Nat := fp32.infCode true
def Core.decM (c : Core) (r : Nat) : Nat := tget 0 c.dm r
def Core.decL (c : Core) (r : Nat) : Nat := tget 0 c.dl r
def Core.decO (c : Core) (r j : Nat) : Nat := tget 0 c.dO (256 * r + j)
def Core.setM (c : Core) (r v : Nat) : Core := {c with dm := tput c.dm r v}
def Core.setL (c : Core) (r v : Nat) : Core := {c with dl := tput c.dl r v}
def Core.setO (c : Core) (r : Nat) (vs : List Nat) : Core :=
  { c with dO := (List.range vs.length).foldl (fun m j => tput m (256 * r + j) (nth 0 vs j)) c.dO }

/-- The NaN state of a row (R138). -/
def Core.rowNan (c : Core) (r : Nat) : Bool := (fp32.decode (c.decM r)).isNan || (fp32.decode (c.decL r)).isNan

/-- `dinit` (R137). -/
def doDinit (c : Core) : Core :=
  { c with
    dm := (List.range 32).foldl (fun m r => tput m r ninf) c.dm,
    dl := (List.range 32).foldl (fun m r => tput m r 0) c.dl,
    dO := [] }

/-- Token t is masked for row r (R142). -/
def masked (e : PEntry) (r t : Nat) : Bool :=
  let qpos := e.qbase + r / 2 ^ e.rgrp
  e.nrows ≤ r || e.klim ≤ t || (e.causal && qpos < t) || (e.win ≠ 0 && t + e.win ≤ qpos)

/-- A dot product on the press array from +0, g = 1 (R88). -/
def dotF32 (start : Nat) (a b : List XV) : Nat × PFlags :=
  (a.zip b).foldl (fun (v, fl) p => let (v', f') := accF32 v [p.1.mul p.2]; (v', fl.or f')) (start, {})

/-- The P values of one row: the 256 exponentials converted (R139), in the order of the tokens. -/
def pvalues (mx : Bool) (es : List Nat) : List XV :=
  if mx then
    let f : OFmt := ⟨.fp e4m3, true⟩
    ((List.range 8).map (fun b =>
      let (sc, cs, _) := f.mxEncode .rne true ((es.drop (32 * b)).take 32 |>.map fp32.decode)
      cs.map (f.value sc))).flatten
  else es.map (fun v => e4m3.decode (e4m3.narrow .rne true (fp32.decode v)).1)

/-- FP32 sum and product under RNE; `of` and `nv` only (R141). -/
def addF32 (a b : Nat) : Nat × PFlags := accF32 a [fp32.decode b]
def mulF32 (a b : Nat) : Nat × PFlags :=
  let x := fp32.decode a
  let y := fp32.decode b
  let p := x.mul y
  if p.isNan then (fp32.cnan, {nv := true}) else let (v, fl) := rneF32 p; (v, {of := fl.of})

/-- The flags `dkv` accrues (R141). -/
def PFlags.dkv (f : PFlags) : PFlags := {nv := f.nv, of := f.of}

/-- One row of `dkv` (R138). The differences m[r] − mn and s[j] − mn are rounded to FP32 under RNE before 2^x is taken
(DESIGN CHOICE, log 44: the pseudocode marks no rounding there). -/
def dkvRow (c : Core) (ctr : Nat) (e : PEntry) (f : OFmt) (r : Nat) : Core :=
  let d := e.dd
  let x1 := e.x1.toNat
  let t0 := e.x2.toNat
  let (ks, vb, vs, _) := kvLayout f d
  let qf : OFmt := ⟨.fp e4m3, f.mx⟩
  let q := (rowValues qf d (readN c ctr e (e.qoff + r * d) d)
    (if f.mx then readN c ctr e (e.sbase + r * (d / 32)) (d / 32) else 0) (fun i => i)).map (·.2)
  let scores := (List.range 256).map (fun j =>
    if masked e r (t0 + j) then (none : Option (Nat × PFlags))
    else
      let k := (rowValues f d (readN c ctr e (x1 + j * (d * f.bits / 8)) (d * f.bits / 8))
        (if f.mx then readN c ctr e (x1 + ks + j * (d / 32)) (d / 32) else 0) (fun i => i)).map (·.2)
      let (dot, fl) := dotF32 0 q k
      let (s, fl2) := mulF32 (bits e.dscale.toNat 31 0) dot
      some (s, fl.or fl2))
  let c := {c with pstat := scores.foldl (fun a p => match p with | some (_, fl) => a.or fl.dkv | none => a) c.pstat}
  let bad := scores.any (fun p => match p with
    | some (s, _) => (fp32.decode s).isNan || s = fp32.infCode false
    | none => false)
  if c.rowNan r || bad then
    let c := (c.setM r fp32.cnan).setL r fp32.cnan
    {c.setO r (List.replicate 256 fp32.cnan) with pstat := c.pstat.or {nv := true}}
  else
    let svals := scores.map (fun p => match p with | some (s, _) => s | none => ninf)
    let mOld := c.decM r
    let mn := svals.foldl (fun a s => if (fp32.decode a).lt (fp32.decode s) then s else a) mOld
    if mn = ninf then c
    else
      let diff := fun v => (rneF32 ((fp32.decode v).add (fp32.decode mn).neg)).1
      let a := exp2F32 (diff mOld)
      let ps := pvalues f.mx (svals.map (fun s => exp2F32 (diff s)))
      let l0 := mulF32 a (c.decL r)
      let (l, lf) := ps.foldl (fun (l, fl) p => let (v, f') := accF32 l [p]; (v, fl.or f')) l0
      let cols : List (Nat × PFlags) := (List.range d).map (fun j =>
        let v := (rowValues f 256 (readN c ctr e (x1 + vb + 32 * f.bits * j) (32 * f.bits))
          (if f.mx then readN c ctr e (x1 + vs + 8 * j) 8 else 0) (fun i => i)).map (·.2)
        let (o0, fl0) := mulF32 a (c.decO r j)
        let (o, fl) := dotF32 o0 ps v
        (o, fl0.or fl))
      let c := {c with pstat := cols.foldl (fun (x : PFlags) (p : Nat × PFlags) => x.or p.2.dkv) (c.pstat.or lf.dkv)}
      ((c.setO r (cols.map (fun (p : Nat × PFlags) => p.1))).setL r l).setM r mn

/-- Every token of the block is masked for every row (R143). -/
def PEntry.allMasked (e : PEntry) : Bool :=
  (List.range 32).all (fun r => (List.range 256).all (fun j => masked e r (e.x2.toNat + j)))

/-- `dkv` (R138): every row of the block; one masked throughout leaves the state unchanged (R143). -/
def doDkv (c : Core) (ctr : Nat) (e : PEntry) : Core :=
  match kvFmt e.kvfmt with
  | none => c
  | some f => if e.allMasked then c else (List.range 32).foldl (fun c r => dkvRow c ctr e f r) c

/-- `dfin` (R148). -/
def doDfin (c : Core) (ctr : Nat) (e : PEntry) : Core :=
  let d := e.dd
  let f7 := (rword e.w).f7
  let base := e.x1.toNat
  (List.range e.nrows).foldl (fun c r =>
    let m := c.decM r
    let col : Nat → Nat × PFlags := fun j =>
      if c.rowNan r then (fp32.cnan, ({} : PFlags))
      else if m = ninf then (0, {})
      else (divF32 (fp32.decode (c.decO r j)) (fp32.decode (c.decL r)))
    if f7 = 1 then
      let res : List (Nat × PFlags) := (List.range d).map (fun j => bf16.narrow .rne false (fp32.decode (col j).1))
      let c := writeN c ctr e (base + 2 * d * r) (2 * d) (packNat 16 (res.map (·.1)))
      {c with pstat := res.foldl (fun a p => a.or {of := p.2.of, uf := p.2.uf}) c.pstat}
    else
      let c := writeN c ctr e (base + 4 * d * r) (4 * d) (packNat 32 ((List.range d).map (fun j => (col j).1)))
      if f7 = 2 then
        let lam := if c.rowNan r then fp32.cnan else if m = ninf then ninf
          else (addF32 m (log2F32 (c.decL r))).1
        writeN c ctr e (base + 4 * d * e.nrows + 4 * r) 4 lam
      else c) c

/-- `dsave` and `dload` (R149). -/
def doDsave (c : Core) (ctr : Nat) (e : PEntry) : Core :=
  let base := e.x1.toNat
  (List.range 32).foldl (fun c r =>
    let c := writeN c ctr e (base + 4 * r) 4 (c.decM r)
    let c := writeN c ctr e (base + 128 + 4 * r) 4 (c.decL r)
    writeN c ctr e (base + 256 + 4 * e.dd * r) (4 * e.dd) (packNat 32 ((List.range e.dd).map (c.decO r)))) c
def doDload (c : Core) (ctr : Nat) (e : PEntry) : Core :=
  let base := e.x1.toNat
  (List.range 32).foldl (fun c r =>
    let c := c.setM r (readN c ctr e (base + 4 * r) 4)
    let c := c.setL r (readN c ctr e (base + 128 + 4 * r) 4)
    let row := readN c ctr e (base + 256 + 4 * e.dd * r) (4 * e.dd)
    c.setO r ((List.range 256).map (fun j => if j < e.dd then unpackAt 32 row j else 0))) c

/-- What an entry does when it completes (R85, R113–R116, R138–R149). -/
def pressEffect (c : Core) (ctr : Nat) (e : PEntry) : Core :=
  match pkind e.w with
  | some (.mac z) => doMac c ctr e z
  | some (.macv z) => doMacv c e z
  | some .zero => doZero c e
  | some .ld => doLd c ctr e
  | some .st => doSt c ctr e
  | some .rdv => doRdv c e
  | some .wrv => doWrv c e
  | some .stc => doStc c ctr e
  | some .dinit => doDinit c
  | some .dkv => doDkv c ctr e
  | some .dfin => doDfin c ctr e
  | some .dsave => doDsave c ctr e
  | some .dload => doDload c ctr e
  | some .wait | none => c

/-- Entry i may complete: it has started and no earlier entry holds its port (R120, R121). -/
def mayComplete (q : List PEntry) (i : Nat) : Option PEntry :=
  match q[i]? with
  | none => none
  | some e =>
    match pkind e.w with
    | none => none
    | some k =>
      if e.started && (q.take i).all (fun b => match pkind b.w with
          | none => true
          | some kb => kb.port ≠ k.port && kb.port ≠ .both && k.port ≠ .both)
      then some e else none

/-- A scratch byte written by a thread or a fill: every uncompleted entry of that thread, and every `dkv` for a fill,
whose footprint holds the byte keeps the value it had before this write (R122, R152). -/
def Core.storeScratch (c : Core) (by' : Option (Fin 4)) (a : Nat) (v : Byte) : Core :=
  let old := c.scratch.read a
  { c with
    scratch := c.scratch.write a v,
    queue := c.queue.map (fun e =>
      match pkind e.w with
      | none => e
      | some k =>
        let racing := (match by' with | some t => decide (e.thread = t) | none => k = .dkv)
        if racing && (footprint k e).any (fun s => s.lo ≤ a && a ≤ s.hi)
        then {e with race := e.race ++ [(a, old)]} else e) }

/-- Bytes written to scratch from offset a. -/
def Core.storeBytes (c : Core) (by' : Option (Fin 4)) (a : Nat) : List Byte → Core
  | [] => c
  | b :: bs => (c.storeScratch by' a b).storeBytes by' (a + 1) bs

/-- Whether an instruction that reads rs and writes ws of thread t must wait for the press (R122). -/
def Core.vregBusy (c : Core) (t : Fin 4) (rs ws : List Nat) : Bool :=
  c.queue.any (fun e => e.thread = t && match pkind e.w with
    | none => false
    | some k =>
      let (pr, pw) := pressVregs k e.w
      pr.any ws.contains || pw.any ws.contains || pw.any rs.contains)

/-- `pqstat` (R106). -/
def Core.pqstat (c : Core) : Word :=
  let busy := fun (p : Port → Bool) => c.queue.any (fun e => e.started && match pkind e.w with
    | some k => p k.port
    | none => false)
  BitVec.ofNat 64 (c.queue.length + 32 * b2n (busy (fun p => p ≠ .tile)) + 64 * b2n (busy (fun p => p ≠ .array))
    + 128 * b2n (c.queue.any (fun e => e.started && pkind e.w = some .dkv)))

end Sys2Proof.Machine
end

