-- ==== Sys2Proof/Machine/PartsHub.lean ====
section
/-! DEFINITION. The state of the casks, home agents, trellis and regulators (chapters 07–10). Each field's docstring
says what it is; width; rule; reset value. -/

namespace Sys2Proof.Machine

/-- A request as a home agent keeps it while it waits (R259). -/
structure HomeReq where
  op : TOp
  q : HReq
  data : List Sector      -- payload sectors
  mask : Word             -- byte enables of WRP
  own : Nat               -- whose write of the hub it is, where its performance is waited for (R171, R272); else 0
  lim : Bool              -- parked for the limit of blocked lines (R261)
  deriving DecidableEq, Repr

/-- A secondary request awaited (R260). -/
structure Await where
  line : Nat
  site : Site
  op : TOp
  deriving DecidableEq, Repr

/-- What a transaction serves: a request, the freeing of a directory way for a request that waits (R256), or the
invalidation of a line whose holders are not known (R257, R267). -/
inductive TxnKind where
  | req (r : HomeReq)
  | evict (r : HomeReq)
  | purge
  deriving DecidableEq, Repr

/-- A transaction that awaits secondary responses (R261). -/
structure Txn where
  kind : TxnKind
  /-- lines blocked; —; R261; — -/
  lines : List Nat
  await : List Await
  /-- data received from an M holder: line, sector, poison -/
  got : List (Nat × Sector × Bool)
  /-- answers to a WB that arrived meanwhile (R262) -/
  wbs : List HReq
  deriving DecidableEq, Repr

/-- A read reissued to its reserve copy (R209): the request, what the primary gave, and whether the copy was asked first. -/
structure Redir where
  r : HomeReq
  data : List (Sector × Bool)
  first : Bool
  deriving DecidableEq, Repr

/-- A directory entry's check state (R257). -/
inductive DirErr where
  | ok | single | uncorrectable
  deriving DecidableEq, Repr

/-- A directory entry (R255). -/
structure DirEntry where
  /-- `state` 2 (M) or 1 (S); 2; R255; reset 0 (no entry listed) -/
  m : Bool
  /-- `holders`; 16; R255; reset 0. An entry without holders is kept for a line whose transaction is to record one -/
  holders : BitVec 16
  /-- line (PA / 64), whose A[35:23] is `tag`; —; R255; — -/
  line : Nat
  /-- order of allocation (R256) -/
  born : Nat
  /-- state of the check bits (R257) -/
  err : DirErr
  deriving DecidableEq, Repr

/-- A request in a channel controller's queue (R189, R285). -/
structure PcReq where
  sector : Nat
  account : Nat
  arrived : Nat
  wr : Bool
  deriving DecidableEq, Repr

/-- A traffic generator run: `ctl`, `seed`, `base` and `len` as `start` found them (R212, R213; that later writes leave the
run alone is a DESIGN CHOICE, log 44). -/
structure TgRun where
  ctl : Byte := 0
  seed : BitVec 31 := 0
  base : BitVec 25 := 0
  len : BitVec 25 := 0
  deriving DecidableEq, Repr

/-- A traffic generator's registers (R212). -/
structure Tg where
  /-- `TGCTL` [7:0]; 8; R212; reset 0 -/
  ctl : Byte := 0
  /-- `TGSEED.seed`; 31; R212; reset 0 -/
  seed : BitVec 31 := 0
  /-- `TGBASE.base`; 25; R212; reset 0 -/
  base : BitVec 25 := 0
  /-- `TGLEN.len`; 25; R212; reset 0 -/
  len : BitVec 25 := 0
  /-- `TGSTAT.busy`; 1; R212; reset 0 -/
  busy : Bool := false
  /-- `TGSTAT.done`; 1; R212; reset 0 -/
  done : Bool := false
  /-- `TGSTAT.fail`; 1; R212; reset 0 -/
  fail : Bool := false
  /-- `TGSTAT.refused`; 1; R212; reset 0 -/
  refused : Bool := false
  /-- `TGERR.nerr`; 32; R212; reset 0 -/
  nerr : Half := 0
  /-- `TGFIRST.fsec`; 25; R212; reset 0 -/
  fsec : BitVec 25 := 0
  /-- `TGLANE.lanes`; 64; R212; reset 0 -/
  lanes : Word := 0
  /-- `stop` was written; 1; R212; reset 0 -/
  stopping : Bool := false
  /-- what the run in progress was started with; —; R212; reset 0 -/
  run : TgRun := {}
  deriving DecidableEq, Repr

/-- One pseudo-channel and its controller (R183, R189, R201). -/
structure Pc where
  /-- DQ staves in use; 0–2; R183, R200; reset 0 -/
  dqStaves : Nat := 0
  /-- CA stave in use; 1; R183, R200; reset 0 -/
  caStave : Bool := false
  /-- CA parity errors of the last second: lane and timebase; —; R201; reset none -/
  caErr : List (Nat × Nat) := []
  /-- requests waiting; —; R189; reset empty -/
  queue : List PcReq := []
  /-- traffic generator; —; R212; reset as Tg -/
  tg : Tg := {}
  /-- open rows by bank (16 rank + bank): the row, and consecutive accesses to it; —; R189; reset none -/
  openRow : Tab (Nat × Nat) := []
  /-- data was issued in the last command cycle; 1; R513; reset 0 -/
  beat : Bool := false
  /-- refreshes performed per bank (16 rank + bank); —; R192; reset 0 -/
  refreshed : Tab Nat := []
  deriving DecidableEq, Repr

/-- One cask with its controllers and home agent (R183–R214, R253–R267, R283–R289). -/
structure Cask where
  /-- array bytes by cask offset; 48 GiB; R183, R185; reset: read through the poison marker (R198) -/
  mem : Memory := []
  /-- what an unlisted usable sector's poison marker is; 1; R198, R452; reset 1 -/
  poisBase : Bool := true
  /-- sectors whose marker differs from that; —; R194; reset none -/
  poisFlip : List Nat := []
  /-- array faults: sector and 1 correctable, 2 uncorrectable; —; R193; reset none -/
  health : Tab Nat := []
  /-- key slot each sector's ciphertext was written under; 6; R199; reset 0 -/
  ktag : Tab Nat := []
  /-- in service; 1; R213; reset 0 -/
  inService : Bool := false
  /-- fenced behind its bung; 1; R200; reset 0 -/
  fenced : Bool := false
  /-- the poison fill since power-up or reset is complete; 1; R198; reset 0 -/
  filled : Bool := false
  /-- OD 0x2400: corrected sector reads; 64; R205; reset 0 -/
  corr : Nat := 0
  /-- OD 0x2401: uncorrectable or poisoned sector reads; 64; R205; reset 0 -/
  unc : Nat := 0
  /-- OD 0x2405: redirects issued; 64; R205; reset 0 -/
  redirects : Nat := 0
  /-- OD 0x2406: refused accesses; 64; R205; reset 0 -/
  refusedN : Nat := 0
  /-- rows on spare rows, a key for each spare row used: 2^14 × (512 pc + 16 rank + bank) + row; permanent; R202; reset none -/
  rowFused : List Nat := []
  /-- corrected sectors of the last 24 h: row key and timebase; —; R202; reset none -/
  rowCorr : List (Nat × Nat) := []
  /-- rows that reported an uncorrectable sector; —; R202; reset none -/
  rowUnc : List Nat := []
  /-- remap table: usable frame to spare frame; —; R203; reset none (NV) -/
  remap : Tab Nat := []
  /-- spare frames that failed in turn; —; R203; reset none (NV; log 25) -/
  spareDead : List Nat := []
  /-- no unused spare frame: reported worn; 1; R204; reset 0 -/
  worn : Bool := false
  /-- channel controllers; 32; R183; reset as Pc -/
  pc : Tab Pc := []
  /-- halved refresh interval; 1; R192; reset 0 -/
  fastRefresh : Bool := false
  /-- consecutive samples below 83 °C; —; R192; reset 0 -/
  coolRun : Nat := 0
  /-- last array-die temperature, 0.1 °C; —; R192; reset 0 (DESIGN CHOICE, log 2) -/
  temp : Int := 0
  /-- directory entries by 16 × set + way; 2,097,152; R255; reset none -/
  dir : Tab DirEntry := []
  /-- number of the next directory allocation; —; R256; reset 0 (model's own numbering) -/
  born : Nat := 0
  /-- transactions in progress; ≤ 1,024 lines; R261; reset none -/
  txns : List Txn := []
  /-- parked and waiting requests in order of arrival; ≤ 4,096; R261; reset none -/
  parked : List HomeReq := []
  /-- grants of a line on their way to a die: line, site; —; R263; reset none -/
  grants : List (Nat × Nat) := []
  /-- reads reissued to a reserve copy; —; R209; reset none -/
  redirs : List Redir := []
  /-- OD 0x2600–0x2603: entries corrected, lines poisoned, ways freed, reserved snoops; 64; R258; reset 0 -/
  dirCorr : Nat := 0
  linesPois : Nat := 0
  waysFreed : Nat := 0
  snpOdd : Nat := 0
  /-- owner table by granule; 8; R283; reset 0 -/
  owner : Tab Byte := []
  /-- share registers by account, `share` and `en` in force; 17; R284; reset 0 -/
  share : Tab Nat := []
  /-- share writes waiting for the window end; —; R284; reset none -/
  sharePend : Tab Nat := []
  /-- served count of the current window per account, as the controllers see it; —; R285; reset 0 -/
  served : Tab Nat := []
  /-- sectors served in the controller cycle in progress per account, which its end adds to the count; —; R285; reset 0 -/
  cycle : Tab Nat := []
  /-- controllers that have had their turn in that cycle; 32; R285; reset none -/
  turns : List Nat := []
  /-- `CSSRV.srv` per account; 64; R289; reset 0 -/
  srv : Tab Word := []
  /-- `CSOVR.ovr` per account; 64; R289; reset 0 -/
  ovr : Tab Word := []
  deriving DecidableEq, Repr

/-- A reserve-copy table entry (R206). -/
structure Reserve where
  /-- `mode`; 2; R206; reset 0 -/
  mode : BitVec 2 := 0
  /-- `gran`; 1; R206; reset 0 -/
  gran : Bool := false
  /-- `kslot`; 6; R206; reset 0 -/
  kslot : BitVec 6 := 0
  /-- `pbase`: PA[47:21]; 27; R206; reset 0 -/
  pbase : BitVec 27 := 0
  /-- `cbase`: PA[47:21]; 27; R206; reset 0 -/
  cbase : BitVec 27 := 0
  /-- `hits`; 8; R206; reset 0 -/
  hits : Byte := 0
  deriving DecidableEq, Repr

/-- A request delivered into an endpoint and not yet answered, with its class and plane, which its answer takes (R216,
R218, R240), its address [47:6], and the tag its die link names it by (R295; DESIGN CHOICE, log 26). -/
structure Unanswered where
  src : NI
  tag : BitVec 12
  len : Fin 4
  op : TOp
  cls : Cls
  plane : Bool
  addr : BitVec 42
  ltag : BitVec 12
  deriving DecidableEq, Repr

/-- A tag a requester has outstanding (R238). -/
structure OutTag where
  tag : BitVec 12
  dst : NI
  op : TOp
  len : Fin 4
  deriving DecidableEq, Repr

/-- Budget, credit and counters of one class at one NI (R277–R282). -/
structure NiCls where
  /-- `budget`; 16; R277; cooper 0xFFFF, OBS 0 (R280) -/
  budget : BitVec 16 := 0xFFFF
  /-- `dcap`; 3; R277; cooper 4, OBS 0 (R280) -/
  dcap : BitVec 3 := 4
  /-- a budget write waiting for the window end; —; R281; reset none -/
  pend : Option (BitVec 16 × BitVec 3) := none
  /-- credit; 32 signed; R278; reset = budget (R280) -/
  credit : Int := 0xFFFF
  /-- `RGCHG.chg`; 64; R282; reset 0 -/
  chg : Word := 0
  /-- `RGLOW.low`; 64; R282; reset 0 -/
  low : Word := 0
  /-- `RGWIN.last`; 24; R282; reset 0 -/
  last : BitVec 24 := 0
  /-- `RGWIN.nover`; 32; R282; reset 0 -/
  nover : Half := 0
  /-- sectors charged in the current window; —; R282; reset 0 -/
  cur : Nat := 0
  deriving DecidableEq, Repr

/-- One network interface (R219, R232–R243). -/
structure Ni where
  /-- `eng`; 1; R243; reset 1 -/
  eng : Bool := true
  /-- `hold`; 1; R243; cooper (DESIGN CHOICE 0, log 2) -/
  hold : Bool := false
  /-- `absorbed`; 32; R243; reset 0 -/
  absorbed : Half := 0
  /-- the endpoint's domain is powered, out of reset and reports ready; 1; R244; reset 0 -/
  ready : Bool := false
  /-- requests delivered and not answered; ≤ 4,096; R240; reset none -/
  record : List Unanswered := []
  /-- outstanding tags; —; R238; reset none -/
  tags : List OutTag := []
  /-- quarantined tags; —; R239; reset none -/
  quar : List (BitVec 12) := []
  /-- destinations with a route change waiting, with the new entry; —; R234; reset none -/
  change : Tab Word := []
  /-- requests held for a route change, each with whether its half 1 is bad; —; R234; reset none -/
  held : List (NReq × Bool × List Sector) := []
  /-- classes by number; 5; R277; reset as NiCls -/
  cls : Tab NiCls := []
  deriving DecidableEq, Repr

/-- One link block (R248, R249). -/
structure Lnk where
  /-- `insvc`; 1; R248; cooper (DESIGN CHOICE 1, log 2) -/
  insvc : Bool := true
  /-- `hcorr`; 16; R248; reset 0 -/
  hcorr : BitVec 16 := 0
  /-- `hunc`; 16; R248; reset 0 -/
  hunc : BitVec 16 := 0
  /-- `pmis`; 16; R248; reset 0 -/
  pmis : BitVec 16 := 0
  /-- times of the corrected halves and of the mismatches of the last second; —; R249; reset none -/
  corrAt : List Nat := []
  misAt : List Nat := []
  /-- seen to be unfit: an uncorrectable half, or too many of either in a second; 1; R249; reset 0 -/
  unfit : Bool := false
  deriving DecidableEq, Repr

/-- A packet on the trellis: its info bits, its payload, and since when it stands where it is (R222, R236). -/
structure Pkt where
  h0 : Nat
  h1 : Nat
  data : List Sector
  since : Nat
  deriving DecidableEq, Repr

/-- The trellis (R215–R252, R600). -/
structure Trellis where
  /-- packets sent towards a router's input and not yet received, in order, by 80 × router + 4 × input + plane (inputs 0–3
  the links, 4 + e eport e); —; R222, R237; reset none -/
  wire : Tab (List Pkt) := []
  /-- packets in a router's input buffers, in order, by 3 × that number + VC; —; R217, R235; reset none -/
  buf : Tab (List Pkt) := []
  /-- the buffer an output served last, by 80 × router + 4 × output + plane; —; R236; reset 0 (DESIGN CHOICE, log 44) -/
  rr : Tab Nat := []
  /-- network interfaces by NI ID; —; R219; reset as Ni -/
  ni : Tab Ni := []
  /-- route tables by 1,024 × NI + destination; 52; R232; cooper (DESIGN CHOICE 0, log 2) -/
  route : Tab Word := []
  /-- link blocks by 16 × router + 4 × plane + direction; —; R248; reset as Lnk -/
  link : Tab Lnk := []
  /-- OD 0x2500.01–.07; 64; R250; reset 0 -/
  routeDisc : Nat := 0
  h0Disc : Nat := 0
  hbadFwd : Nat := 0
  hCorr : Nat := 0
  patMis : Nat := 0
  timeouts : Nat := 0
  rspDisc : Nat := 0
  /-- links retired, over the package's life (OD 0x2500.08; NV), by link key; —; R249; reset none -/
  retired : List Nat := []
  /-- partitions under reset: the NIs of each; —; R247; reset none -/
  parts : List (List Nat) := []
  /-- regulator windows ended; —; R275; reset 0 (model's own count) -/
  windows : Nat := 0
  /-- OD 0x2700.01; 64; R291; reset 0 -/
  regDisc : Nat := 0
  /-- OD 0x2702.00; 32; R291; reset 0 -/
  obsMax : Nat := 0
  deriving DecidableEq, Repr

end Sys2Proof.Machine
end

