-- ==== Sys2Proof/Machine/PartsCtx.lean ====
section
/-! DEFINITION. The state of the context, queue, fence, translation and slice machinery and of the racking engines
(chapters 06, 14–16). Each field's docstring says what it is; width; rule; reset value. -/

namespace Sys2Proof.Machine

/-- `state` of a context slot (R363). -/
inductive CtxState where
  | free | live | abort | lost
  deriving DecidableEq, Repr

def CtxState.code : CtxState → Nat | .free => 0 | .live => 1 | .abort => 2 | .lost => 3

/-- Cause of loss of a context (R380). -/
inductive LossCause where
  | abort | poison | link | preempt | fenceval | xlate | slice | image | errresp
  deriving DecidableEq, Repr

def LossCause.code : LossCause → Nat
  | .abort => 1 | .poison => 2 | .link => 3 | .preempt => 4 | .fenceval => 5
  | .xlate => 6 | .slice => 7 | .image => 8 | .errresp => 9

/-- What an abort in progress ends in (R380). -/
inductive AbortEnd where
  | free
  | lost (c : LossCause)
  deriving DecidableEq, Repr

/-- Why a loaded context is being saved (R366, R367). -/
inductive SaveWhy where
  | preempt (idle : Bool)    -- rule 3, or a cluster removed
  | command (blk : Fin 4)    -- CTXPREEMPT
  | freeze
  | substitute
  deriving DecidableEq, Repr

/-- A context slot (R363, R366). -/
structure Ctx where
  /-- `state`; 2; R363; reset 0 (FREE) -/
  state : CtxState := .free
  /-- `loaded` with `site`, `core`: global core; 13; R363; reset none -/
  pos : Option CoreId := none
  /-- `vint`; 16; R363; reset 0 -/
  vint : BitVec 16 := 0
  /-- `cause`; 8; R363; reset 0 -/
  cause : Byte := 0
  /-- `pend`; 1; R363; reset 0 -/
  pend : Bool := false
  /-- `slice`; 6; R363; reset 0 -/
  slice : SliceId := 0
  /-- `prio`; 2; R363; reset 0 -/
  prio : BitVec 2 := 0
  /-- `smask`; 16; R363; reset 0 -/
  smask : BitVec 16 := 0
  /-- `skslot`; 6; R363; reset 0 -/
  skslot : Fin 64 := 0
  /-- `sbase`: PA[47:16]; 32; R363; reset 0 -/
  sbase : Half := 0
  /-- `s1root`; 64; R363, R387; reset 0 -/
  s1root : Word := 0
  /-- `fsmap`; 256; R363; reset 0 -/
  fsmap : BitVec 256 := 0
  /-- `fwmap`; 256; R363; reset 0 -/
  fwmap : BitVec 256 := 0
  /-- `tchg`; 64; R363; reset 0 -/
  tchg : Word := 0
  /-- `nload`; 32; R363; reset 0 -/
  nload : Half := 0
  /-- `npre`; 32; R363; reset 0 -/
  npre : Half := 0
  /-- wanting, with its place in the order; —; R366; reset none -/
  want : Option Nat := none
  /-- idle for 100 µs; 1; R366; reset 0 -/
  idle : Bool := false
  /-- timebase at the last load; 64; R366; reset 0 -/
  loadedAt : Nat := 0
  /-- 2 ms have run since the last load; 1; R366; reset 0 -/
  quantum : Bool := false
  /-- save under way and why; —; R367; reset none -/
  saving : Option SaveWhy := none
  /-- abort under way: what it ends in, and the command block that waits for it; —; R380; reset none -/
  aborting : Option (AbortEnd × Option (Fin 4)) := none
  /-- threads saved inside a `barw`; 4; R131; reset 0 -/
  barIn : BitVec 4 := 0
  /-- saved by a freeze or restored by an uncork while not idle: wanting at thaw; 1; R425; reset 0 -/
  thawWant : Bool := false
  deriving DecidableEq, Repr

/-- `state` of a queue slot (R369). -/
inductive QState where
  | off | on | error | drain
  deriving DecidableEq, Repr

def QState.code : QState → Nat | .off => 0 | .on => 1 | .error => 2 | .drain => 3

/-- A queue slot (R369). -/
structure Queue where
  /-- `kind`; 2; R369; reset 0 -/
  kind : BitVec 2 := 0
  /-- `ctx`; 12; R369; reset 0 -/
  ctx : CtxId := 0
  /-- `lgn`; 4; R369; reset 0 -/
  lgn : BitVec 4 := 0
  /-- `vec`; 11; R369; reset 0 -/
  vec : Fin 2048 := 0
  /-- `thr`; 2; R369; reset 0 -/
  thr : Fin 4 := 0
  /-- `rbase`; 64; R369; reset 0 -/
  rbase : Word := 0
  /-- `sline`; 64; R369; reset 0 -/
  sline : Word := 0
  /-- `cbase`; 64; R369; reset 0 -/
  cbase : Word := 0
  /-- `head`; 32; R369; reset 0 -/
  head : Half := 0
  /-- `tail`; 32; R369; reset 0 -/
  tail : Half := 0
  /-- `state`; 2; R369; reset 0 (OFF) -/
  state : QState := .off
  /-- `vint`; 16; R369; reset 0 -/
  vint : BitVec 16 := 0
  /-- `err`; 8; R369; reset 0 -/
  err : Byte := 0
  /-- `ndb`; 32; R369; reset 0 -/
  ndb : Half := 0
  /-- `ndisc`; 32; R369; reset 0 -/
  ndisc : Half := 0
  /-- next ring index to fetch; 32; R372; reset 0 -/
  fetched : Half := 0
  /-- entries that ended with a status other than OK since the last QRESUME, not yet in `head`; —; R373; reset 0 -/
  failed : Nat := 0
  /-- stalled on a resolvable fault; 1; R403; reset 0 -/
  stalled : Bool := false
  /-- the status line write faulted and is due when the queue goes on; 1; R370, R403; reset 0 -/
  lineDue : Bool := false
  /-- doorbells accepted since the freeze tick, delivered at thaw; —; R425; reset 0 -/
  frozenDb : Nat := 0
  /-- command block that waits for a drain; —; R379; reset none -/
  drainBlk : Option (Fin 4) := none
  deriving DecidableEq, Repr

/-- A fence object (R375). -/
structure Fence where
  /-- `value`; 64; R375; reset 0 -/
  value : Word := 0
  /-- `slice`; 6; R375; reset 0 -/
  slice : SliceId := 0
  /-- `armed`; 1; R375; reset 0 -/
  armed : Bool := false
  /-- `aband`; 1; R375; reset 0 -/
  aband : Bool := false
  /-- `prod`; 12; R375; reset 0 -/
  prod : CtxId := 0
  /-- `pen`; 1; R375; reset 0 -/
  pen : Bool := false
  /-- `evn`; 1; R375; reset 0 -/
  evn : Bool := false
  /-- `evec`; 11; R375; reset 0 -/
  evec : Fin 2048 := 0
  /-- `evval`; 64; R375; reset 0 -/
  evval : Word := 0
  /-- `stale`; 32; R375; reset 0 -/
  stale : Half := 0
  /-- `nsig`; 32; R375; reset 0 -/
  nsig : Half := 0
  deriving DecidableEq, Repr

/-- A command block: argument registers, `busy`, `code` and `need` (R379, R399, R419). -/
structure CmdBlk where
  /-- `CMDARG`, `XARG0`, `SCMDARG0`; 64; R379, R399, R419; reset 0 -/
  arg0 : Word := 0
  /-- `XARG1`, `SCMDARG1`; 64; R399, R419; reset 0 -/
  arg1 : Word := 0
  /-- `busy`; 1; R379, R399, R419; reset 0 -/
  busy : Bool := false
  /-- `code`; 8; R379, R399, R419; reset 0 -/
  code : Byte := 0
  /-- `need`; 32; R419; reset 0 -/
  need : Half := 0
  /-- the command in progress: `op` and `idx`; —; R379, R399, R419; reset none -/
  cur : Option (Nat × Nat) := none
  deriving DecidableEq, Repr

/-- Where a descriptor stands (R160, R170, R177). -/
inductive DState where
  | queued            -- fetched, not started
  | running (e : EngId)
  | yielded           -- returned to dispatch (R160)
  | parked            -- on a resolvable fault (R170)
  | ended             -- every tile committed, or ended with a status
  deriving DecidableEq, Repr

/-- A descriptor that has been fetched and not completed (R162, R175). -/
structure Desc where
  /-- number of the descriptor; —; model's own numbering -/
  id : Nat
  /-- queue slot, or the internal submission queue; 14; R158; — -/
  src : DescSrc
  /-- ring index; 32; R429; — -/
  ridx : Nat
  /-- the eight words; 64 each; R162; — -/
  w : List Word
  /-- vintage of the queue slot at dispatch; 16; R175; — -/
  vint : BitVec 16
  /-- state; —; R160, R429; queued -/
  st : DState
  /-- tiles issued since start; —; R171; 0 -/
  issued : Nat
  /-- tiles committed; —; R171; 0 -/
  tiles : Nat
  /-- `done`: destination bytes of committed tiles; 64; R175; 0 -/
  done : Nat
  /-- `flags`; 5; R175; 0 -/
  flags : PFlags
  /-- status; 8; R176; 0 -/
  status : Nat
  /-- address concerned; 64; R175; 0 -/
  addr : Nat
  /-- stopped at a tile boundary by an abort (R180): no record, no signal; 1; —; 0 -/
  dropped : Bool
  /-- tiles issued before its engine took it; —; R160; 0 -/
  base : Nat
  /-- source bytes that it has overwritten, by address; —; R168; none -/
  orig : Tab Byte
  deriving DecidableEq, Repr

/-- A fault record (R408). -/
structure FaultRec where
  ctx : Nat
  kind : Nat
  vint : Nat
  cause : Nat
  acc : Nat
  fatal : Bool
  wlk : Bool
  who : Nat
  addr : Nat
  ipa : Nat
  elen : Nat
  eoff : Nat
  slice : Nat
  deriving DecidableEq, Repr

/-- Folded state of a context: the first folded fault and the number folded (R411). -/
structure Folded where
  first : FaultRec
  n : Nat
  deriving DecidableEq, Repr

/-- The fault queue block of a slice (R407–R411). -/
structure FaultQ where
  /-- `FQBASE`; 64; R407; reset 0 -/
  base : Word := 0
  /-- `FQCFG.en`; 1; R407; reset 0 -/
  en : Bool := false
  /-- `FQCFG.vec`; 11; R407; reset 0 -/
  vec : Fin 2048 := 0
  /-- `head`; 32; R407; reset 0 -/
  head : Half := 0
  /-- `tail`; 32; R407; reset 0 -/
  tail : Half := 0
  /-- `nrec`; 32; R407; reset 0 -/
  nrec : Half := 0
  /-- records of the open batch, in the order formed; ≤ 64; R410; reset empty -/
  batch : List FaultRec := []
  /-- folded state, in the order first folded; —; R411; reset empty -/
  folded : List Folded := []
  deriving DecidableEq, Repr

/-- A final translation as a cache holds it (R395, R396): context, bank it was filled in, page size 2^`lg`, pages,
the stage-2 leaf's own size, key slot, permissions of both leaves. -/
structure TEntry where
  ctx : Nat
  bank : Nat
  lg : Nat
  vpage : Nat
  ppage : Nat
  ipage : Nat
  /-- size of the stage-2 leaf, as a power of two -/
  lg2 : Nat
  kslot : Nat
  r1 : Bool
  w1 : Bool
  x1 : Bool
  u1 : Bool
  r2 : Bool
  w2 : Bool
  x2 : Bool
  deriving DecidableEq, Repr

/-- Kind of access for permissions and records (R393, R408). -/
inductive Acc where
  | read | write | fetch | amo
  deriving DecidableEq, Repr

def Acc.code : Acc → Nat | .read => 0 | .write => 1 | .fetch => 2 | .amo => 3

/-- A walk in progress (R394). `phase` 0: stage-2 walk for a stage-1 table entry; 1: that entry itself; 2: stage-2 walk
for the access. -/
structure Walk where
  ctx : Nat
  va : Nat
  acc : Acc
  user : Bool
  phase : Nat
  /-- stage-1 level of the entry being fetched -/
  l1 : Nat
  /-- IPA being translated by stage 2 -/
  ipa : Nat
  /-- stage-2 level of the entry being read -/
  l2 : Nat
  /-- physical address and key slot of the outstanding table read -/
  rdPa : Nat
  rdK : Nat
  /-- stage-1 leaf: size and permissions r w x u -/
  lg1 : Nat
  p1 : Nat
  /-- size of the stage-2 leaf that maps the stage-1 table page being read -/
  lgt : Nat
  deriving DecidableEq, Repr

/-- A table entry as a bank's walk cache holds it (R396): stage-1 entries belong to a context, stage-2 ones to a slice;
`idx` is the address at the entry's level, `ipa` where a stage-1 entry was read, `lg` the size of the stage-2 leaf it was
read through. -/
structure WEntry where
  bank : Nat
  stage2 : Bool
  owner : Nat
  lvl : Nat
  idx : Nat
  ipa : Nat
  lg : Nat
  w : Word
  deriving DecidableEq, Repr

/-- A thread's walk: its number and the thread. -/
structure ThreadWalk where
  id : Nat
  hart : Hart
  w : Walk
  deriving DecidableEq, Repr

/-- Data of a host-window read returned to an engine or to the queue machinery and not yet used (R163, R353). -/
structure HostData where
  src : NI
  iova : Nat
  data : List Byte
  poison : Bool
  st : Status
  deriving DecidableEq, Repr

/-- `state` of a slice (R416). -/
inductive SlState where
  | free | active | freezing | frozen | resetting
  deriving DecidableEq, Repr

def SlState.code : SlState → Nat | .free => 0 | .active => 1 | .freezing => 2 | .frozen => 3 | .resetting => 4

/-- A slice entry (R416). -/
structure Slice where
  /-- `state`; 3; R416; reset 0 (FREE) -/
  state : SlState := .free
  /-- `unl`; 1; R416; reset 0 -/
  unl : Bool := false
  /-- `pasid`; 20; R416; reset 0 -/
  pasid : BitVec 20 := 0
  /-- `pen`; 1; R416; reset 0 -/
  pen : Bool := false
  /-- `ep`; 1; R416; reset 0 (IOA) -/
  ep : Ep := .ioa
  /-- `eshare`; 8; R416; reset 0 -/
  eshare : Byte := 0
  /-- `gmask`; 16; R416; reset 0 -/
  gmask : BitVec 16 := 0
  /-- `s2root`; 64; R416, R388; reset 0 -/
  s2root : Word := 0
  /-- `ftick`; 64; R416; reset 0 -/
  ftick : Word := 0
  /-- `nlate`; 32; R416; reset 0 -/
  nlate : Half := 0
  /-- `cmask`; 256; R416; reset 0 -/
  cmask : BitVec 256 := 0
  /-- `bmask`; 256; R416; reset 0 -/
  bmask : BitVec 256 := 0
  /-- the freeze tick has come; 1; R423; reset 0 -/
  ticked : Bool := false
  /-- the state has been bottled since the freeze; 1; R60; reset 0 -/
  bottled : Bool := false
  /-- command block that waits for the freeze; —; R419; reset none -/
  blk : Option (Fin 4) := none
  deriving DecidableEq, Repr

/-- The context, queue, fence, translation and slice machinery (chapters 06, 14–16). -/
structure Hubm where
  /-- context slots; 4,096; R363; reset as Ctx -/
  ctx : Tab Ctx := []
  /-- queue slots; 16,384; R369; reset as Queue -/
  queue : Tab Queue := []
  /-- fence objects; 65,536; R375; reset as Fence -/
  fence : Tab Fence := []
  /-- context, queue and fence command blocks; 4; R379; reset as CmdBlk -/
  cmd : Tab CmdBlk := []
  /-- translation command blocks; 4; R399; reset as CmdBlk -/
  xcmd : Tab CmdBlk := []
  /-- slice command blocks; 4; R419; reset as CmdBlk -/
  scmd : Tab CmdBlk := []
  /-- slice entries; 64; R416; reset as Slice -/
  slice : Tab Slice := []
  /-- fault queue blocks; 64; R407; reset as FaultQ -/
  faultq : Tab FaultQ := []
  /-- fault keys, context and page; ≤ 16,384; R406; reset empty -/
  keys : List (Nat × Nat) := []
  /-- translation cache, most recently used first; 131,072; R396; reset empty -/
  tcache : List TEntry := []
  /-- walk cache; 8,192 entries per bank; R396; reset empty -/
  wcache : List WEntry := []
  /-- engine and gate micro-TLBs, by requester (engine number, 96 + site); 64 each; R395; reset empty -/
  utlb : Tab (List TEntry) := []
  /-- core micro-TLBs by global core; 64 each; R395; reset empty -/
  cutlb : Tab (List TEntry) := []
  /-- walks in progress; —; R394; reset empty -/
  walks : List ThreadWalk := []
  /-- host-window data returned and not yet used; —; R353; reset none -/
  hostRd : List HostData := []
  /-- number of the next walk; —; model's own numbering; reset 0 -/
  walkId : Nat := 0
  /-- descriptors fetched and not completed, in order of fetch; —; R161; reset empty -/
  desc : List Desc := []
  /-- number of the next descriptor; —; model's own numbering; reset 0 -/
  descId : Nat := 0
  /-- internal submission queue of firmware: descriptors waiting; —; R158; reset empty -/
  fwq : List (List Word) := []
  /-- the queue slot dispatch served last for a cask, and how many of its descriptors in turn; —; R160; reset none -/
  served : Tab (Nat × Nat) := []
  /-- next place in the order of wanting; —; R366; reset 0 -/
  wantSeq : Nat := 0
  /-- global cores out of use until their buffers are free; —; R380; reset none -/
  posHeld : List CoreId := []
  /-- OD 0x2A00.01–.04; 64; R382; reset 0 -/
  lost : Nat := 0
  sigReserved : Nat := 0
  sigDisc : Nat := 0
  cmdDisc : Nat := 0
  /-- OD 0x2B00.01–.07; 64; R414; reset 0 -/
  recWritten : Nat := 0
  folds : Nat := 0
  suppressed : Nat := 0
  fatals : Nat := 0
  invs : Nat := 0
  walksN : Nat := 0
  xDisc : Nat := 0
  /-- OD 0x2C00.01–.05; 64; R435; reset 0 -/
  freezes : Nat := 0
  images : Nat := 0
  uncorks : Nat := 0
  stale : Nat := 0
  sDisc : Nat := 0
  deriving DecidableEq, Repr

end Sys2Proof.Machine
end

