-- ==== Sys2Proof/Machine/PartsLink.lean ====
section
/-! DEFINITION. The state of the die links and of the graft sites (chapters 11, 12). Each field's docstring says what
it is; width; rule; reset value. -/

namespace Sys2Proof.Machine

/-- Training state of a module (R303–R312). -/
inductive TrainSt where
  | idle | training | retraining | up | absent
  deriving DecidableEq, Repr

/-- A command as the halves of a control word carry it, without the frame's own fields, and its data (R295, R296). -/
structure LinkCmd where
  h0 : Nat
  h1 : Nat
  data : List Sector
  deriving DecidableEq, Repr

/-- One direction of a module: its register block and lane evidence (R309–R314). -/
structure LinkDir where
  /-- `DLCFG.spd`; 3; R314; cooper (DESIGN CHOICE 0, log 2) -/
  spd : Fin 5 := 0
  /-- `DLCFG.half`; 1; R314; cooper 0 -/
  half : Bool := false
  /-- `DLCFG.hsel`; 1; R314; cooper 0 -/
  hsel : Bool := false
  /-- `DLCFG.carry`; 1; R314; cooper 0 -/
  carry : Bool := false
  /-- `DLCFG.base`; 1; R314; cooper 0 -/
  base : Bool := false
  /-- `DLCFG.stvuse`; 4; R314; cooper 0 -/
  stvuse : BitVec 4 := 0
  /-- `DLCFG.stvlane`; 28; R314; cooper 0 -/
  stvlane : BitVec 28 := 0
  /-- `DLERR.corr`; 16; R314; reset 0 -/
  corr : BitVec 16 := 0
  /-- `DLERR.unc`; 16; R314; reset 0 -/
  unc : BitVec 16 := 0
  /-- `DLERR.lost`; 16; R314; reset 0 -/
  lost : BitVec 16 := 0
  /-- `DLERR.ecorr`; 8; R314; reset 0 -/
  ecorr : Byte := 0
  /-- `DLERR.unk`; 8; R314; reset 0 -/
  unk : Byte := 0
  /-- `DLLANE.lcnt` per lane; 16; R314; reset 0 -/
  lcnt : Tab (BitVec 16) := []
  /-- corrected bits per lane in the current second: (second, lane counts); —; R309; reset none -/
  sec : Nat × Tab Nat := (0, [])
  /-- corrected bits per lane in the current hour; —; R310; reset 0 -/
  hour : Tab Nat := []
  /-- baseline hour's counts per lane, once captured; —; R310; reset none (NV) -/
  baseln : Option (Tab Nat) := none
  /-- next sequence number sent, and last received; 12; R296; reset 0 -/
  txSeq : BitVec 12 := 0
  rxSeq : Option (BitVec 12) := none
  /-- running credit totals received last; 10; R297; reset 0 -/
  ccmd : BitVec 10 := 0
  csec : BitVec 10 := 0
  /-- running totals freed by this receiver; 10; R297; reset 0 -/
  freedCmd : BitVec 10 := 0
  freedSec : BitVec 10 := 0
  /-- commands and sectors whose credits a freeze withholds; 10; R335; reset 0 -/
  owedCmd : BitVec 10 := 0
  owedSec : BitVec 10 := 0
  /-- commands held of the last 4,096 frames, by sequence number; —; R299; reset none -/
  hist : List (BitVec 12 × LinkCmd) := []
  /-- running totals of primary request commands and sectors sent; 10; R297; reset 0 -/
  sentCmd : BitVec 10 := 0
  sentSec : BitVec 10 := 0
  /-- tags of CTL and of secondary requests sent and not answered; ≤ 64, ≤ 1,024; R297; reset none -/
  ctlTags : List (BitVec 12) := []
  secTags : List (BitVec 12) := []
  /-- commands that wait for credits, in order; —; R297; reset none -/
  wait : List LinkCmd := []
  /-- corrected halves and uncorrectable or lost since ready, for OD 0x28nn; 64; R315; reset 0 -/
  odCorr : Nat := 0
  odUnc : Nat := 0
  /-- corrected control-word bits of the last full hour; —; R313; reset 0 -/
  lastHour : Nat := 0
  deriving DecidableEq, Repr

/-- One module: both directions and its training state (R292, R303). -/
structure Module where
  /-- training state; —; R303; reset idle -/
  st : TrainSt := .idle
  /-- die to hub; —; R314; reset as LinkDir -/
  rx : LinkDir := {}
  /-- hub to die; —; R314; reset as LinkDir -/
  tx : LinkDir := {}
  /-- uncorrectable halves within the hour in this configuration; —; R311; reset 0 -/
  urgent : Nat := 0
  /-- configuration step a retrain starts from; —; R303; reset 0 -/
  step : Nat := 0
  /-- lanes, and staves from 64 on, that judgement has replaced: die to hub, lane; —; R311; reset none -/
  judged : List (Bool × Nat) := []
  deriving DecidableEq, Repr

/-- One die's links and sideband (R292, R301, R316). -/
structure LinkDie where
  /-- modules; 8, 4 or 1; R292; reset as Module -/
  mod : Tab Module := []
  /-- IDENT received: kind, major, minor, revision, block length; —; R301; reset none -/
  ident : Option (Nat × Nat × Nat × Nat × Nat) := none
  /-- IDREQs sent without an IDENT; 0–3; R466; reset 0 -/
  idreqs : Nat := 0
  /-- the outstanding CAPRD's index; —; R302; reset none -/
  caprd : Option Nat := none
  /-- absent modules given by REMAP for the next training; 8; R301, R306; reset 0 -/
  remap : Byte := 0
  /-- mask of fenced modules given by FENCE, and whole site; 9; R301; reset 0 -/
  fenceMask : BitVec 9 := 0
  /-- site fenced until the next bring-up, or until readmission; 1; R307, R332; reset 0 -/
  fenced : Bool := false
  /-- the one retry of whole-site training has been used; 1; R307; reset 0 -/
  retried : Bool := false
  /-- power budget last sent by BUDGET, 0.1 W; 16; R301; reset 0 -/
  budget : BitVec 16 := 0
  /-- its sequence number; 8; R301; reset 0 -/
  bseq : Byte := 0
  /-- the domain was reset, and its bungs release when its link has trained; 1; R246, R308; reset 0 -/
  recovering : Bool := false
  /-- a module failed: the domain is reset once the contexts left on the site are saved; 1; R308; reset 0 -/
  failing : Bool := false
  deriving DecidableEq, Repr

/-- A gate rule (R321). -/
structure Rule where
  /-- word 0: `en` … `kslot`; 34; R321; reset 0 -/
  w0 : Word := 0
  /-- word 1: `gbase`; 36; R321; reset 0 -/
  w1 : Word := 0
  /-- word 2: `tbase`; 40; R321; reset 0 -/
  w2 : Word := 0
  /-- word 3: `hits`; 32; R321; reset 0 -/
  hits : Half := 0
  deriving DecidableEq, Repr

/-- A request sent into a graft and not answered (R328). -/
structure IntoGraft where
  m : Fin 8
  /-- tag on the link, and the requester's own -/
  tag : BitVec 12
  rtag : BitVec 12
  src : NI
  op : TOp
  len : Fin 4
  /-- line of a snoop, when it is one (R260) -/
  snoop : Option (CaskId × Nat)
  /-- module of the site's NI it came by, which an absent module's partner carries (R306) -/
  ni : Nat
  deriving DecidableEq, Repr

/-- One packet of a graft's request: its tag in the trellis, and its answer once it is there. -/
structure GraftPart where
  tag : BitVec 12
  res : Option (Status × List (Sector × Bool))
  deriving DecidableEq, Repr

/-- A graft's request that the gate has forwarded: module, the graft's tag, op, sectors − 1, and its packets
(R325, R329). -/
structure GraftOut where
  m : Fin 8
  tag : BitVec 12
  op : TOp
  len : Fin 4
  parts : List GraftPart
  deriving DecidableEq, Repr

/-- `OD 0x29ss.01` (R338). -/
inductive GraftSt where
  | bambipin | unpopulated | admitting | admitted | fenced
  deriving DecidableEq, Repr

def GraftSt.code : GraftSt → Nat | .bambipin => 0 | .unpopulated => 1 | .admitting => 2 | .admitted => 3 | .fenced => 4

/-- One graft site's gate (R319–R338). -/
structure Gate where
  /-- rules; 16; R321; reset as Rule -/
  rule : Tab Rule := []
  /-- `adm`; 1; R330; cooper 0 -/
  adm : Bool := false
  /-- `fenced`; 1; R330; cooper 0 -/
  fenced : Bool := false
  /-- `slice`; 6; R330; reset 0 -/
  slice : SliceId := 0
  /-- `bound`; 1; R330; reset 0 -/
  bound : Bool := false
  /-- `cache`; 1; R330; cooper 0 -/
  cache : Bool := false
  /-- `maxout` = `ograt` − 1; 12; R330; cooper 0 -/
  maxout : BitVec 12 := 0
  /-- `fctx`; 12; R330; reset 0 -/
  fctx : CtxId := 0
  /-- `fen`; 1; R330; reset 0 -/
  fen : Bool := false
  /-- `vlim`; 16; R330; cooper 4,096 -/
  vlim : BitVec 16 := 4096
  /-- `nvio`; 32; R330; reset 0 -/
  nvio : Half := 0
  /-- `novd`; 16; R330; reset 0 -/
  novd : BitVec 16 := 0
  /-- `nflt`; 16; R330; reset 0 -/
  nflt : BitVec 16 := 0
  /-- `GGVIO`; 64; R330; reset 0 -/
  gvio : Word := 0
  /-- settings `site`, `pver`, `cgrant`, `ograt`, `go` by index; 48 each; R320; reset 0 -/
  setting : Tab Nat := []
  /-- `OD 0x29ss.01`; 8; R338; reset Bambipin or unpopulated by the ordering code -/
  st : GraftSt := .bambipin
  /-- `OD 0x29ss.02`: failure code or fence cause; 8; R338; reset 0 -/
  cause : Nat := 0
  /-- capability words as read, by index; 64 each; R319; reset none -/
  cap : Tab Word := []
  /-- OD 0x29ss.0C–.0F: violations, overdue, discarded and refused, admissions; 64; R338; reset 0 (life counts, NV) -/
  odVio : Nat := 0
  odOvd : Nat := 0
  odDisc : Nat := 0
  odAdm : Nat := 0
  /-- graft requests outstanding in the trellis; —; R329; reset none -/
  out : List GraftOut := []
  /-- requests unanswered into the graft; ≤ 4,096; R328; reset none -/
  into : List IntoGraft := []
  /-- tags answered BUNGED at 1.5 ms whose late response is absorbed; —; R328; reset none -/
  late : List (Fin 8 × BitVec 12) := []
  /-- violations in the current second; —; R332; reset 0 -/
  vioSec : Nat := 0
  /-- overdue answers in the current second; —; R332; reset 0 -/
  ovdSec : Nat := 0
  /-- request credits withheld by a freeze; 1; R335; reset 0 -/
  held : Bool := false
  /-- requests of the graft that arrived since, in order; 512 commands and 512 sectors per module; R331, R335; reset none -/
  kept : List GReq := []
  /-- requests into the graft that wait while 4,096 are unanswered, in order: request, requester, data; —; R328; reset none -/
  waitIn : List (NReq × NI × List Sector) := []
  /-- the site's domain is powered; 1; R332; reset 0 -/
  powered : Bool := false
  deriving DecidableEq, Repr

end Sys2Proof.Machine
end

