-- ==== Sys2Proof/Machine/PartsHost.lean ====
section
/-! DEFINITION. The state of the host endpoints, of security and of bring-up (chapters 13, 17, 18). Each field's
docstring says what it is; width; rule; reset value. -/

namespace Sys2Proof.Machine

/-- A host-window request in the outbound queue or at PCIe (R351–R353). -/
structure OutReq where
  /-- number; —; model's own numbering -/
  id : Nat
  r : HwReq
  /-- timebase at arrival (R353) -/
  at' : Nat
  /-- sent to PCIe -/
  sent : Bool
  /-- read tags it holds while sent; the joined read it belongs to, by its first entry (R352) -/
  tags : Nat
  lead : Nat
  /-- outcome held until every earlier one is returned: status, data, poison -/
  res : Option (Status × List Byte × Bool)
  deriving DecidableEq, Repr

/-- An entry of the outbound queue: a write, a read, or an interrupt message (R351, R357). -/
inductive Outb where
  | req (r : OutReq)
  | msix (vec : Fin 2048)
  deriving DecidableEq, Repr

/-- An MSI-X table entry (R341, R356). -/
structure MsixEntry where
  /-- message address; 64; R341; reset 0 -/
  addr : Word := 0
  /-- message data; 32; R341; reset 0 -/
  data : Half := 0
  /-- vector mask; 1; R357; reset 1 (PRESUMED: PCIe) -/
  mask : Bool := true
  /-- pending bit; 1; R357; reset 0 -/
  pend : Bool := false
  deriving DecidableEq, Repr

/-- Cellar-book mailbox of an endpoint (R494, R495). -/
structure Mailbox where
  /-- request area; 16,408 B; R494; reset 0 -/
  req : Memory := []
  /-- response area; 16,408 B; R494; reset 0 -/
  rsp : Memory := []
  /-- `MBSTAT.busy`; 1; R494; reset 0 -/
  busy : Bool := false
  /-- `MBSTAT.done`; 1; R494; reset 0 -/
  done : Bool := false
  /-- `MBSTAT.irqen`; 1; R494; reset 0 -/
  irqen : Bool := false
  deriving DecidableEq, Repr

/-- A host access that waits for earlier aperture writes of its endpoint (R272). -/
inductive HostAcc where
  | control (wr : Bool) (off : BitVec 27) (size : Fin 9) (data : Word)
  | doorbell (off : BitVec 26) (size : Fin 9) (data : Word) (poisoned : Bool)
  | aperture (off : BitVec 42) (len : Fin 4097)
  deriving DecidableEq, Repr

/-- A host endpoint (R339–R361). -/
structure HostEp where
  /-- the PCIe link is up; 1; R358; reset 0 -/
  linkUp : Bool := false
  /-- started by the cooper; 1; R360; reset 0 -/
  started : Bool := false
  /-- FLR or another endpoint reset in progress; 1; R344; reset 0 -/
  flr : Bool := false
  /-- stopped by an uncorrectable internal error; 1; R358; reset 0 -/
  stopped : Bool := false
  /-- Bus Master Enable; 1; R351; reset 0 -/
  bme : Bool := false
  /-- MSI-X Enable; 1; R357; reset 0 -/
  msixEn : Bool := false
  /-- MSI-X function mask; 1; R357; reset 0 -/
  fmask : Bool := false
  /-- Max_Payload_Size code; 3; R352; reset 0 (128 B) -/
  maxPayload : Nat := 0
  /-- Max_Read_Request_Size code; 3; R352; reset 2 (512 B, PRESUMED: PCIe) -/
  maxRead : Nat := 2
  /-- completion timeout code of Device Control 2; 4; R353; reset 0 -/
  cplTo : Nat := 0
  /-- PASID Enable; 1; R339, R351; reset 0 -/
  pasidEn : Bool := false
  /-- power state: 0 D0, 3 D3hot; 2; R339; reset 0 -/
  power : Nat := 0
  /-- AER correctable status; 32; R358; reset 0 -/
  aerCor : Nat := 0
  /-- AER uncorrectable status; 32; R358; reset 0 -/
  aerUnc : Nat := 0
  /-- AER uncorrectable mask; 32; R358; reset Uncorrectable Internal masked (PRESUMED: PCIe) -/
  aerUncMask : Nat := 0x00400000
  /-- AER correctable mask; 32; R358; reset Advisory and Internal masked (PRESUMED: PCIe) -/
  aerCorMask : Nat := 0xE000
  /-- AER uncorrectable severity; 32; R358; reset the fatal types of R358 -/
  aerSev : Nat := 0x00462010
  /-- AER first error, while an uncorrectable is logged: its type; —; R358; reset none -/
  aerFirst : Option PcieErr := none
  /-- `cwdisc`; 32; R345; reset 0 -/
  cwdisc : Half := 0
  /-- `dbdisc`; 32; R345; reset 0 -/
  dbdisc : Half := 0
  /-- `apref`; 32; R345; reset 0 -/
  apref : Half := 0
  /-- `appois`; 32; R345; reset 0 -/
  appois : Half := 0
  /-- `hosterr`; 32; R345; reset 0 -/
  hosterr : Half := 0
  /-- `wlost`; 32; R345; reset 0 -/
  wlost : Half := 0
  /-- segment table; 64 × 64; R346; reset 0 -/
  seg : Tab Word := []
  /-- MSI-X table and pending bits; 2,048; R341; reset as MsixEntry -/
  msix : Tab MsixEntry := []
  /-- outbound queue, oldest first; 64 KiB of posted data; R351; reset empty -/
  outq : List Outb := []
  /-- number of the next outbound request; —; model's own numbering; reset 0 -/
  nextId : Nat := 0
  /-- accesses that wait for earlier aperture writes, in order; —; R272; reset none -/
  later : List HostAcc := []
  /-- mailbox; —; R494; reset as Mailbox -/
  mbox : Mailbox := {}
  /-- `PERST` land asserted; 1; R359, R582; reset 1 -/
  perst : Bool := true
  deriving DecidableEq, Repr

/-- Fused values (R437). -/
structure Fuses where
  /-- ordering code; enum; R2, R437; fuse (DESIGN CHOICE P16, log 2) -/
  code : OrdCode := .p16
  /-- graft sites that carry a die; 16; R5, R437; fuse (DESIGN CHOICE none, log 2) -/
  populated : BitVec 16 := 0
  /-- `vid` and `did` of each graft site; 32 each; R336, R437; fuse (DESIGN CHOICE 0, log 2) -/
  graftId : Tab Nat := []
  /-- serial number; 128; R12, R437; fuse (DESIGN CHOICE 0, log 2) -/
  serial : BitVec 128 := 0
  /-- kit identifier; 64; R7, R437; fuse (DESIGN CHOICE 0, log 2) -/
  kit : Word := 0
  /-- twin-link key Kt; 256; R7, R437; fuse (DESIGN CHOICE 0, log 2) -/
  kt : BitVec 256 := 0
  /-- identity seed; 384; R437; fuse (DESIGN CHOICE 0, log 2) -/
  seed : BitVec 384 := 0
  /-- firmware key hashes; 4 × 256; R437; fuse (DESIGN CHOICE 0, log 2) -/
  fwHash : Tab (BitVec 256) := []
  /-- firmware revoke bits; 4; R437; fuse (DESIGN CHOICE 0, log 2) -/
  fwRevoke : BitVec 4 := 0
  /-- licence key hashes; 4 × 256; R437; fuse (DESIGN CHOICE 0, log 2) -/
  licHash : Tab (BitVec 256) := []
  /-- licence revoke bits; 4; R437; fuse (DESIGN CHOICE 0, log 2) -/
  licRevoke : BitVec 4 := 0
  /-- security version, blown bits; 0–64; R437; fuse (DESIGN CHOICE 0, log 2) -/
  sver : Nat := 0
  deriving DecidableEq, Repr

/-- A key slot's control entry (R449). -/
structure KeySlot where
  /-- `state`: 0 ACTIVE, 1 RETIRING, 2 RETIRED; 2; R449; cooper 0 -/
  state : BitVec 2 := 0
  /-- `pend`; 1; R449; reset 0 -/
  pend : Bool := false
  /-- `sweep`; 32; R449; cooper 0 -/
  sweep : Half := 0
  /-- OD 0x2D22: requests refused under the slot; 64; R449; reset 0 -/
  refusedN : Nat := 0
  deriving DecidableEq, Repr

/-- An attestation channel (R445). -/
structure Attest where
  /-- request of 40 B; —; R445; reset none -/
  req : Option (List Byte) := none
  /-- status OD 0x2D12; 8; R445; reset 0 -/
  status : Nat := 0
  /-- report OD 0x2D11; 5,652 B; R445; reset none -/
  report : List Byte := []
  deriving DecidableEq, Repr

/-- The security core and the key slots (chapter 17). -/
structure Security where
  /-- signature index q, committed copy; 30; R443; NV (DESIGN CHOICE 0, log 2) -/
  q : Nat := 0
  /-- bottom trees built; —; R443; reset 1 -/
  trees : Nat := 1
  /-- signing bucket; 0–64; R444; reset 64 (DEDUCED, log 2) -/
  bucket : Nat := 64
  /-- channels whose request waits, oldest first; ≤ 16; R444; reset none -/
  waiting : List Nat := []
  /-- channels whose request has its signature of the bucket, oldest first; —; R443, R444; reset none -/
  ready : List Nat := []
  /-- attestation channels 1–3; —; R445; reset as Attest -/
  chan : Tab Attest := []
  /-- sticky `flags` [3:1]; 3; R447; reset 0 -/
  sticky : BitVec 3 := 0
  /-- sticky warning OD 0x2D00.06 bit 0; 1; R444; reset 0 -/
  lowIdx : Bool := false
  /-- key slots; 64; R449; reset as KeySlot -/
  slot : Tab KeySlot := []
  /-- OD 0x2D00.01; 64; R457; reset 0 -/
  disc : Nat := 0
  /-- OD 0x2D00.03: reports signed since manufacture; 32; R457; NV (DESIGN CHOICE 0, log 2) -/
  signed : Nat := 0
  /-- OD 0x2D30.01; 32; R457; reset 0 -/
  pairFail : Nat := 0
  /-- OD 0x2D30.02; 64; R457; reset 0 -/
  ctlDrop : Nat := 0
  deriving DecidableEq, Repr

/-- Progress of an image write (R464). -/
inductive ImgSt where
  | idle | verifying | programming | done | rejected | busy
  deriving DecidableEq, Repr

def ImgSt.code : ImgSt → Nat | .idle => 0 | .verifying => 1 | .programming => 2 | .done => 3 | .rejected => 4 | .busy => 5

/-- Bring-up, the non-volatile image and the licence (chapter 18). -/
structure Bringup where
  /-- `POR_N` deasserted and the package out of power-on reset; 1; R465, R580; reset 0 -/
  running : Bool := false
  /-- OD 0x2E00.01: stage code; 8; R465; reset 0 -/
  stage : Nat := 0
  /-- `ready`; 1; R345, R465; reset 0 -/
  ready : Bool := false
  /-- `warm`; 1; R345, R478; reset 0 -/
  warm : Bool := false
  /-- `gen`; 32; R345; reset 0 (power-on) -/
  gen : Half := 0
  /-- OD 0x2E00.03; 8; R480; reset 0 -/
  cause : Nat := 0
  /-- OD 0x2E00.04; 8; R480; reset 1 -/
  kind : Nat := 1
  /-- timebase at the start of the last reset; 64; R480; reset 0 -/
  startAt : Nat := 0
  /-- OD 0x2E00.02; 64; R480; reset 0 -/
  toReady : Nat := 0
  /-- OD 0x2E00.06; 8; R462; reset 0 -/
  wdog : Nat := 0
  /-- the recovery loader runs; 1; R462; reset 0 -/
  recovery : Bool := false
  /-- the cooper runs (from the end of stage 2); 1; R472; reset 0 -/
  cooper : Bool := false
  /-- image region of the non-volatile store; 6 MiB; R458; NV (DESIGN CHOICE empty, log 2) -/
  nvImage : List Byte := []
  /-- licence region; 64 KiB; R458; NV (DESIGN CHOICE empty, log 2) -/
  nvLicence : List Byte := []
  /-- public key and signature of the device certificate, 60 B and 5,396 B; R442; NV (DESIGN CHOICE empty, log 2) -/
  cert : List Byte := []
  /-- staged image; 8 MiB; R464; reset empty -/
  staged : List Byte := []
  /-- OD 0x2E02.05: state and failure step; 8; R480; reset 0 -/
  img : ImgSt := .idle
  imgFail : Nat := 0
  /-- image region programmed since it was last verified; 1; R478; reset 0 -/
  imgDirty : Bool := false
  /-- OD 0x2E02.01–.03: running image; —; R480; reset 0 -/
  runSver : Nat := 0
  runKey : Nat := 0
  runHash : BitVec 256 := 0
  /-- OD 0x2E01 per site: result, major, minor in force, revision; 32; R480; reset 0 -/
  site : Tab Nat := []
  /-- OD 0x2E03.02: licence write status and step; 8; R480; reset 0 -/
  licSt : Nat := 0
  licFail : Nat := 0
  /-- OD 0x2E03.03: `CUVEE` in force; 64; R474; reset 0 -/
  cuvee : Word := 0
  /-- OD 0x2E03.04: `feat` in force; 64; R474; reset 0 -/
  feat : Word := 0
  /-- OD 0x2E03.05: `nslice` in force; 8; R474; reset 1 -/
  nslice : Nat := 1
  /-- OD 0x2E03.06; 8; R480; reset 0 -/
  licBoot : Nat := 0
  /-- OD 0x2E03.07; 32; R480; NV (DESIGN CHOICE 0, log 2) -/
  lseq : Nat := 0
  /-- SHA-256 of the licence in force; 256; R446; reset 0 -/
  licHash : BitVec 256 := 0
  /-- a licence was installed since the last bring-up; 1; R478; reset 0 -/
  licNew : Bool := false
  /-- a warm-reset request held until programming ends; 1; R479; reset 0 -/
  warmHeld : Bool := false
  /-- core retirements of the service records, by 272 × site + 17 × cluster + physical index; —; R55; NV (DESIGN CHOICE none, log 2) -/
  coreRec : List Nat := []
  deriving DecidableEq, Repr

end Sys2Proof.Machine
end

