-- ==== Sys2Proof/Machine/PartsOps.lean ====
section
/-! DEFINITION. The state of the cellar book, of power and time, of observation, and of the twin pair (chapters 19–23).
Each field's docstring says what it is; width; rule; reset value. -/

namespace Sys2Proof.Machine

/-- An unfinished segmented write (R489). -/
structure Transfer where
  index : Nat
  sub : Nat
  chan : CbChan
  total : Nat
  data : List Byte
  /-- timebase at the last segment -/
  at' : Nat
  deriving DecidableEq, Repr

/-- A snapshot of a value (R490). -/
structure Snapshot where
  chan : CbChan
  index : Nat
  sub : Nat
  data : List Byte
  at' : Nat
  deriving DecidableEq, Repr

/-- A kept network response (R492): what the request named, and the answer. -/
structure Kept where
  chan : CbChan
  txid : Half
  op : Nat
  index : Nat
  sub : Nat
  offset : Nat
  status : Nat
  data : List Byte
  total : Nat
  at' : Nat
  deriving DecidableEq, Repr

/-- The cellar book (R481–R505). -/
structure Book where
  /-- OD 0x1F00.01; 64; R498; reset 0 -/
  done : Nat := 0
  /-- OD 0x1F00.02; 64; R498; reset 0 -/
  notOk : Nat := 0
  /-- OD 0x1F00.03; 64; R498; reset 0 -/
  repeated : Nat := 0
  /-- OD 0x1F00.05; 64; R498; reset 0 -/
  goDisc : Nat := 0
  /-- OD 0x1F00.06; 64; R498; reset 0 -/
  dgDisc : Nat := 0
  /-- RWL entry writes refused with STATE after ready; 64; R484, R498; reset 0 -/
  rwlDisc : Nat := 0
  /-- unfinished segmented writes; —; R489; reset none -/
  xfer : List Transfer := []
  /-- snapshots: one per mailbox, 16 on the network; —; R490; reset none -/
  snap : List Snapshot := []
  /-- the last 64 network responses; —; R492; reset none -/
  kept : List Kept := []
  /-- persistent defaults are due at the next reset; 1; R498; reset 0 -/
  restore : Bool := false
  /-- OD 0x1100.02 in force; 32; R497; default 0 (persistent) -/
  ip : Half := 0
  /-- OD 0x1100.03 in force; 8; R497; default 24 (persistent) -/
  plen : Byte := 24
  /-- OD 0x1100.04 in force; 32; R497; default 0 (persistent) -/
  gateway : Half := 0
  /-- OD 0x1100.02–.04 as written, not yet in force; —; R497; reset none -/
  addrNew : Option (Half × Byte × Half) := none
  /-- OD 0x1100.06; 8; R497; reset 0 -/
  mgmtUp : Bool := false
  /-- OD 0x2100.01; 1; R502; default 1 (persistent) -/
  autoSpare : Bool := true
  /-- OD 0x2100.02; 8; R502; default 24 (persistent) -/
  testPeriod : Nat := 24
  /-- OD 0x2000 per rail, µV; 32; R499; reset 0 (DESIGN CHOICE, log 2) -/
  railV : Tab Nat := []
  /-- OD 0x2001 per rail, mA; 32; R499; reset 0 (DESIGN CHOICE, log 2) -/
  railI : Tab Nat := []
  /-- OD 0x2002 per rail, mA; 32; R499; reset 0 (DESIGN CHOICE, log 2) -/
  railMax : Tab (List Nat) := []
  /-- OD 0x2021.01, ns; 32; R501; reset 0 -/
  cable : Nat := 0
  deriving DecidableEq, Repr

/-- A governed die's exchange with the broker (R506–R512), by die code − 1 (R480). -/
structure DiePow where
  /-- budget in force, 0.1 W; 16; R514; reset 0 -/
  budget : Nat := 0
  /-- REPORTs received since the domain was powered, at most 10,000; —; R507; reset 0 -/
  reports : Nat := 0
  /-- pressing; 1; R511, R514; reset 0 -/
  pressing : Bool := false
  /-- trip bit of the last REPORT; 1; R514; reset 0 -/
  trip : Bool := false
  /-- over-budget and missing-report events; 13; R514; reset 0 -/
  events : Nat := 0
  /-- power last reported, 0.1 W; 16; R511; reset 0 -/
  reported : Nat := 0
  /-- power last measured at the rails, 0.1 W; —; R511, R577; reset 0 (DESIGN CHOICE, log 2) -/
  measured : Nat := 0
  /-- a REPORT has come in this period; 1; R507; reset 0 -/
  got : Bool := false
  /-- consecutive periods over budget by more than 10 %; —; R512; reset 0 -/
  overN : Nat := 0
  /-- consecutive periods without a REPORT; —; R512; reset 0 -/
  miss : Nat := 0
  /-- periods left at the floor; —; R512; reset 0 -/
  hold : Nat := 0
  /-- hottest sensor, 0.1 °C; —; R500, R513; reset 0 (DESIGN CHOICE, log 2) -/
  temp : Int := 0
  /-- power of the last 100 periods, 0.1 W, newest first; —; R500; reset none -/
  hist : List Nat := []
  deriving DecidableEq, Repr

/-- Power and thermal state of the package (R506–R514, R576–R588). -/
structure Power where
  /-- per die by code − 1; 32; R480, R506; reset as DiePow -/
  die : Tab DiePow := []
  /-- package power of the last 100 periods, 0.1 W, newest first; —; R500; reset none -/
  hist : List Nat := []
  /-- BUDGET sequence number; 8; R508; reset 0 -/
  bseq : Byte := 0
  /-- OD 0x2F00.01, W; 16; R514; default 3300 (persistent) -/
  cap : Nat := 3300
  /-- OD 0x2F00.02, 0.1 W; —; R514; reset 0 -/
  pool : Int := 0
  /-- OD 0x2F00.03; 32; R514; reset 0 -/
  clamps : Nat := 0
  /-- a clamp since the last period; 1; R512; reset 0 -/
  clamped : Bool := false
  /-- hub clamp held; 1; R513; reset 0 -/
  hubClamp : Bool := false
  /-- reductions of the pool by 10 % in force; —; R513; reset 0 -/
  hubCut : Nat := 0
  /-- cask throttled to one cycle of two, with the cool samples counted; —; R513; reset none -/
  caskThr : Tab Nat := []
  /-- dies at or above their critical temperature, by code − 1; —; R513; reset none -/
  critical : List Nat := []
  /-- `OVERTEMP_N` asserted; 1; R513, R587; reset 0 -/
  overtemp : Bool := false
  /-- `FAULT_N` asserted; 1; R548, R587; reset 0 -/
  fault : Bool := false
  /-- rails out of range in the last sample, by number; —; R579; reset none -/
  railOut : List Nat := []
  /-- held in internal power-on reset; 1; R579, R583; reset 0 -/
  held : Bool := false
  /-- `POR_N` low; 1; R580, R584; reset 1 -/
  porLow : Bool := true
  /-- `PKSTRAP`; 64; R586; reset 0 -/
  strap : Word := 0
  /-- `MPHY_RST_N` driven low; 1; R592; reset 1 -/
  phyRst : Bool := true
  deriving DecidableEq, Repr

/-- The timebase and PTP (R515–R520). -/
structure Time where
  /-- `TBNOW.now`; 64; R516; reset 0 -/
  now : Word := 0
  /-- `tlock`; 1; R516; reset 0 -/
  tlock : Bool := false
  /-- `hold`; 1; R516; reset 0 -/
  hold : Bool := false
  /-- `acq`; 1; R516; reset 0 -/
  acq : Bool := false
  /-- `nstep`; 32; R516; reset 0 -/
  nstep : Half := 0
  /-- `ofs`; 64; R516; reset 0 -/
  ofs : Word := 0
  /-- `rate`; 32; R516; reset 0 -/
  rate : Half := 0
  /-- consecutive measurements within 1 µs; —; R518; reset 0 -/
  run : Nat := 0
  /-- a measurement has been made since power-on; 1; R518; reset 0 -/
  measured : Bool := false
  /-- slewing at −500 ppm until within 1 µs; 1; R518; reset 0 -/
  slew : Bool := false
  /-- OD 0x2F10.01; 8; R520; default 0 (persistent) -/
  domain : Byte := 0
  /-- OD 0x2F10.02, s; 32; R520; default 1000 (persistent) -/
  holdLimit : Nat := 1000
  /-- OD 0x2F10.03; 8; R520; reset 0 -/
  port : Nat := 0
  /-- OD 0x2F10.04; 64; R520; reset 0 -/
  gm : Word := 0
  /-- OD 0x2F10.05; 64; R520; reset 0 -/
  delay : Word := 0
  /-- OD 0x2F10.06; 16; R520; reset 0 -/
  utc : BitVec 16 := 0
  /-- OD 0x2F10.07; 64; R520; reset 0 -/
  lockAt : Word := 0
  /-- the port engine's interval counter, ns; 64; R565; reset 0 -/
  ivl : Nat := 0
  deriving DecidableEq, Repr

/-- A taster (R529–R533). -/
structure Taster where
  /-- `TCTL`: `en`, `sink`, `htrig`, `obsb`; 15; R529; reset 0 -/
  ctl : BitVec 15 := 0
  /-- `TCNT.nent`; 32; R529; reset 0 -/
  nent : Half := 0
  /-- `TCNT.ndrop`; 32; R529; reset 0 -/
  ndrop : Half := 0
  /-- filter words by 4 × filter + word; 64; R530; reset 0 -/
  filt : Tab Word := []
  /-- entries held, oldest first; 256 each; R533; reset none -/
  held : List (List Word) := []
  /-- entries dropped since the last record sent; 32; R532; reset 0 -/
  dropped : Nat := 0
  deriving DecidableEq, Repr

/-- A trace sink (R534). -/
structure Sink where
  /-- `SKBASE`: PA[47:6]; 42; R534; reset 0 -/
  base : BitVec 42 := 0
  /-- `SKCFG.sen`; 1; R534; reset 0 -/
  sen : Bool := false
  /-- `SKCFG.wrap`; 1; R534; reset 0 -/
  wrap : Bool := false
  /-- `SKCFG.lgsz`; 5; R534; reset 16 -/
  lgsz : BitVec 5 := 16
  /-- `SKWR.nrec`; 64; R534; reset 0 -/
  nrec : Nat := 0
  /-- `SKFULL.nfull`; 32; R534; reset 0 -/
  nfull : Nat := 0
  /-- `SKFULL.nrej`; 32; R534; reset 0 -/
  nrej : Nat := 0
  deriving DecidableEq, Repr

/-- JTAG (R541–R543). -/
structure Jtag where
  /-- instruction register; 8; R541; reset IDCODE -/
  ir : Byte := 1
  /-- REGACC `busy`, status and read data; 1, 3, 64; R542; reset 0 -/
  busy : Bool := false
  status : Nat := 0
  rdata : Word := 0
  /-- loader buffer: words by index; 32 each; R543; reset none -/
  buf : Tab Nat := []
  /-- loader state; 4; R543; reset 0 -/
  loader : Nat := 0
  deriving DecidableEq, Repr

/-- Halt record of a site (R538). -/
structure HaltRec where
  /-- `HLTSTOP.tstop`; 64; R538; reset 0 -/
  tstop : Word := 0
  /-- `HLTRES.tres`; 64; R538; reset 0 -/
  tres : Word := 0
  /-- `HLTSM.smear`; 7; R538; reset 0 -/
  smear : Nat := 0
  /-- `HLTSM.unl`; 1; R538; reset 0 -/
  unl : Bool := false
  deriving DecidableEq, Repr

/-- Observation and debug (R523–R544). -/
structure Observe where
  /-- OD 0x3100.01 bits `octr`, `tast`, `sink`, `xlog`; 4; R523; reset 0 -/
  en : BitVec 4 := 0
  /-- OD 0x3100.02; 64; R544; reset 0 -/
  enAt : Word := 0
  /-- counter table records by global core; 73 B each; R528; reset 0 -/
  octab : Tab (List Byte) := []
  /-- tasters by router; 192; R529; reset as Taster -/
  taster : Tab Taster := []
  /-- sinks; 4; R534; reset as Sink -/
  sink : Tab Sink := []
  /-- `HLTCTL.smask`; 16; R538; reset 0 -/
  smask : BitVec 16 := 0
  /-- sites halted; 16; R538; reset 0 -/
  halted : BitVec 16 := 0
  /-- halt records by site; 16; R538; reset as HaltRec -/
  rec' : Tab HaltRec := []
  /-- OD 0x3140.04; 32; R544; reset 0 -/
  ignored : Nat := 0
  /-- crossing log: records by slot; 32 B each; R540; reset 0 -/
  xlog : Tab (List Word) := []
  /-- `XLPTR`; 32; R540; reset 0 -/
  xlptr : Nat := 0
  /-- messages sent on each vector since `xlog` was set, by 2048 × endpoint + vector; —; R540; reset 0 -/
  xmsg : Tab Nat := []
  /-- JTAG; —; R541; reset as Jtag -/
  jtag : Jtag := {}
  deriving DecidableEq, Repr

/-- A push or restore outstanding (R563). -/
structure Push where
  tag : Nat
  restore : Bool
  entry : Nat
  off : Nat
  len : Nat
  fence : Nat
  fval : Word
  sig : Bool
  /-- bytes that have arrived (restore) -/
  got : Nat
  deriving DecidableEq, Repr

/-- `OD 0x3000.01` (R505). -/
inductive TwinSt where
  | disabled | down | pairing | paired
  deriving DecidableEq, Repr

def TwinSt.code : TwinSt → Nat | .disabled => 0 | .down => 1 | .pairing => 2 | .paired => 3

/-- The twin port and the pair (R556–R572). -/
structure Twin where
  /-- OD 0x3000.01; 8; R505; reset 0 -/
  st : TwinSt := .disabled
  /-- the port's lanes are up; 1; R505; reset 0 -/
  lanes : Bool := false
  /-- role: 0 none, 1 leader, 2 follower; 8; R560; reset 0 -/
  role : Nat := 0
  /-- the packages have paired since their cold bring-up; 1; R560; reset 0 -/
  paired1 : Bool := false
  /-- partner's PAIR contents while pairing or paired; —; R557; reset none -/
  partner : Option PairMsg := none
  /-- own nonce; 256; R453; reset 0 -/
  nonce : BitVec 256 := 0
  /-- side: this package is A; 1; R453; reset 0 -/
  sideA : Bool := false
  /-- session keys ctl-AB, ctl-BA, dat-AB, dat-BA; 256 each; R453; reset none -/
  keys : List (BitVec 256) := []
  /-- keys of a re-pairing not yet in force; —; R570; reset none -/
  newKeys : List (BitVec 256) := []
  /-- own CONFIRM sent; partner's verified; 1 each; R453; reset 0 -/
  sentConf : Bool := false
  gotConf : Bool := false
  /-- consecutive pairing failures; —; R453; reset 0 -/
  fails : Nat := 0
  /-- OD 0x3000.05; 16; R505; reset 0 -/
  partVer : BitVec 16 := 0
  /-- OD 0x3000.06; 64; R505; reset 0 -/
  pairedAt : Word := 0
  /-- OD 0x3000.07; 64; R505; reset 0 -/
  missed : Nat := 0
  /-- OD 0x3000.08; 32; R505; NV (DESIGN CHOICE 0, log 2) -/
  failovers : Nat := 0
  /-- OD 0x3001.01; 1; R505; default 1 (persistent) -/
  afo : Bool := true
  /-- a switchover or the end of a leader's service runs, and its FAILOVER cause; —; R564, R568; reset none -/
  switching : Option Nat := none
  /-- that FAILOVER has been sent; 1; R568; reset 0 -/
  switchSent : Bool := false
  /-- OD 0x3002.01: 0 not held, 1 held, 2 lost; 8; R572; reset 0 -/
  lease : Nat := 0
  /-- interval counter at which the lease ends; —; R564; reset 0 -/
  leaseEnd : Nat := 0
  /-- heartbeats sent and not yet echoed: number and interval counter; —; R564; reset none -/
  sent : List (Nat × Nat) := []
  /-- interval counter at the last valid HB received; —; R564; reset 0 -/
  lastHb : Nat := 0
  /-- a valid HB came since the last check point; 1; R564; reset 0 -/
  gotHb : Bool := false
  /-- consecutive misses; —; R564; reset 0 -/
  miss : Nat := 0
  /-- the partner is declared lost; 1; R564; reset 0 -/
  partnerLost : Bool := false
  /-- next `hbseq`; 32; R558; reset 0 -/
  hbseq : Nat := 0
  /-- last `hbseq` received; 32; R558; reset 0 -/
  echo : Nat := 0
  /-- partner's last HB; —; R558; reset none -/
  partHb : Option HbMsg := none
  /-- timebase at the last refresh of the heartbeat contents; —; R556; reset none -/
  fresh : Option Nat := none
  /-- `state` sent in HB; 2; R558; reset 0 -/
  hbState : Nat := 0
  /-- mirror entries; 64 × 64; R561; reset 0 -/
  entry : Tab Word := []
  /-- 256 B units of granules written by pushes since reset, per entry; —; R561; reset none -/
  units : Tab (List Nat) := []
  /-- 256 B units of each entry that completed pushes wrote on the partner; —; R561; reset none -/
  partUnits : Tab (List Nat) := []
  /-- pushes and restores outstanding, in the order of acceptance; ≤ 16; R563; reset none -/
  push : List Push := []
  /-- next tag; 14; R557; reset 0 -/
  tag : Nat := 0
  /-- OD 0x3005.02: last push ended, tag and status; 18; R572; reset 0 -/
  lastPush : Nat × Nat := (0, 0)
  /-- OD 0x3007.02: last restore ended; 18; R572; reset 0 -/
  lastRest : Nat × Nat := (0, 0)
  /-- OD 0x3005.03; 64; R572; reset 0 -/
  pushes : Nat := 0
  /-- pushes landed here in this session, for HB; 64; R558; reset 0 -/
  landed : Nat := 0
  /-- pushes completed OK in this session; —; R558; reset 0 -/
  acked : Nat := 0
  /-- bytes of the push in arrival that have landed, by tag; —; R563; reset none -/
  arriving : Tab Nat := []
  /-- the arriving push lost a frame; —; R557; reset none -/
  lostTags : List Nat := []
  /-- OD 0x3006.02: journal records kept, newest last; 256 × 64 B; R563; reset none -/
  journal : List Sector := []
  /-- OD 0x3006.03; 64; R572; reset 0 -/
  journalN : Nat := 0
  /-- next sequence number sent, by direction-and-kind; 64; R454; reset 0 -/
  txSeq : Tab Nat := []
  /-- last sequence number accepted, by direction-and-kind; 64; R454; reset none -/
  rxSeq : Tab Nat := []
  /-- OD 0x3002.02, .03: event vectors of IOA and IOB; 16; R567; persistent 0 (DESIGN CHOICE, log 2) -/
  vecA : Nat := 0
  vecB : Nat := 0
  deriving DecidableEq, Repr

/-- Wear, faults and processors (R546–R554). -/
structure Avail where
  /-- wear level per die by code − 1; 8; R546; reset 0 -/
  wear : Tab Nat := []
  /-- OD 0x3020.01: event records, newest last, at most 256; 32 B each; R549; reset none -/
  log : List (List Word) := []
  /-- OD 0x3020.02; 64; R549; reset 0 -/
  logN : Nat := 0
  /-- class C entries logged in the current second: code and second; —; R549; reset none -/
  logC : List (Nat × Nat) := []
  /-- OD 0x3012.02; 32; R572; NV (DESIGN CHOICE 0, log 2) -/
  delivRetired : Nat := 0
  /-- watchdog expirations of a hub controller: times; —; R550; reset none -/
  hubExp : Tab (List Nat) := []
  /-- hub controllers retired, by 4 × field + number; —; R550; reset none -/
  hubRetired : List Nat := []
  /-- MGD link lost in service; 1; R316, R547; reset 0 -/
  mgdLost : Bool := false
  /-- firmware manifest hashes sent to each die; —; R552; reset none -/
  manifest : Tab (BitVec 256) := []
  /-- received-block bitmaps by 272 × site + 17 × cluster + core; 128; R552; reset 0 -/
  blocks : Tab (BitVec 128) := []
  /-- block count B of the core firmware; —; R551; reset 0 -/
  blockN : Nat := 0
  /-- OD 0x3012.01: resend rounds of the last delivery; 32; R553, R572; reset 0 -/
  rounds : Nat := 0
  deriving DecidableEq, Repr

end Sys2Proof.Machine
end

