-- ==== Sys2Proof/Machine/State.lean ====
section
/-! DEFINITION. The state of the package, the messages it emits, and the reasons a step can stop. Each field's
docstring says what it is; width; rule; reset value. -/

namespace Sys2Proof.Machine

/-- What the block sends out: a message to another of its own parts (which its sender may hand back as a command) or
to the outside. The model's own record of effects; no rule reads it back. -/
inductive Msg where
  /-- a request put into the trellis by a master NI (R223) -/
  | req (src dst : Nat) (op : TOp) (pa len tag : Nat) (kslot : Nat) (data : List Sector) (mask : List Word)
  /-- a response (R227) -/
  | rsp (src dst : Nat) (tag : Nat) (st : Status) (data : List (Sector × Bool))
  /-- a secondary request of a home agent (R260) -/
  | snoop (k : CaskId) (s : Site) (op : TOp) (pa : Nat) (data : Option Sector)
  /-- a caching agent's answer (R260) -/
  | snoopRsp (s : Site) (pa : Nat) (st : Status) (data : Option (Sector × Bool))
  /-- a CTL message (R226): kind, and its words -/
  | ctl (kind : Nat) (args : List Nat)
  /-- a barrier arrival of a die (R50) -/
  | barArrive (chan : Nat) (s : Site)
  /-- a barrier release to a die (R50) -/
  | barRelease (chan : Nat) (s : Site) (phase : Bool)
  /-- an uncorrectable tag report to a cask's home agent (R46) -/
  | tagReport (k : CaskId) (s : Site) (bank set : Nat)
  /-- a trace record of a taster (R533) -/
  | traceRec (i : RouterId) (sink : Nat) (rec : List (List Word))
  /-- a packet forwarded on a link or delivered to an endpoint (R229) -/
  | packet (r : RouterId) (p : Plane) (output : Nat) (h0 h1 : Word) (payload : List Sector)
  /-- a sideband message (R301): link, towards the hub, code, data -/
  | sideband (a : LinkId) (toHub : Bool) (code : Nat) (data : Nat)
  /-- a die-link frame sent (R295): link, module, towards the hub, its control word, its payload -/
  | frame (a : LinkId) (m : Fin 8) (toHub : Bool) (cw0 cw1 : Word) (payload : List Sector)
  /-- a command handed on from a die-link frame, in order (R296): its halves, data, and whether half 1 is bad -/
  | frameCmd (a : LinkId) (m : Fin 8) (toHub : Bool) (h0 h1 : Nat) (data : List Sector) (hbad : Bool)
  /-- a request into a graft (R327), and a response to one (R331) -/
  | toGraft (s : Site) (m : Fin 8) (op : TOp) (tag : Nat) (addr len : Nat) (data : List Sector)
  | graftRsp (s : Site) (m : Fin 8) (tag : Nat) (st : Status) (data : List (Sector × Bool))
  /-- to PCIe: a request of the outbound queue (R351), a completion (R343, R347), an MSI-X message (R357), an error message (R358) -/
  | pcieReq (e : Ep) (id : Nat) (wr : Bool) (iova len : Nat) (pasid : Option Nat) (data : List Byte)
  | pcieCpl (e : Ep) (status : CplKind) (data : List Byte)
  | msix (e : Ep) (addr : Nat) (data : Nat)
  | pcieErr (e : Ep) (kind : Nat)
  /-- a cellar-book response (R487): channel, op of the request (the response sets its bit 7), txid, index, sub, status, offset, total, data -/
  | book (ch : CbChan) (op : Nat) (txid : Nat) (index sub status offset total : Nat) (data : List Byte)
  /-- a register access towards a die or endpoint (R16) -/
  | regAck (who : Who) (st : Status) (data : Word)
  /-- a twin frame (R556): kind 1 DATA with entry, offset, poison, tag, data; 2 CTL with its type and bytes; 3 PAIR -/
  | twinData (entry moff pois tag : Nat) (data : List Sector)
  | twinCtl (type : Nat) (body : List Byte) (seq : Nat)
  | twinPair (body : List Byte)
  /-- firmware blocks sent to a core (R552, R553) -/
  | firmware (core : Nat) (blocks : BitVec 128)
  /-- a JTAG capture (R542) or an attestation (R443) made ready -/
  | event (what : Nat) (args : List Nat)
  deriving DecidableEq, Repr

/-- Reasons a step stops with a fault: none. Every command of the table has an effect the manual gives, so no command
raises one (safe: nothing is claimed of a stop). -/
inductive Fault where
  deriving DecidableEq, Repr

/-- Reasons a step is refused. -/
inductive Refusal where
  /-- raised by a dispatch arm for a command without a meaning; safe: the machine stops where the hardware goes on -/
  | notModelled (mnemonic : String)
  deriving DecidableEq, Repr

/-- The package. -/
structure State where
  /-- commands waiting, first in first out; —; model's own; reset empty -/
  pending : List Instr := []
  /-- what the block has sent out, newest first; —; model's own (log 1); reset empty -/
  out : List Msg := []
  /-- counter the free values are applied to; —; model's own (log 5); reset 0 (DESIGN CHOICE) -/
  freeCtr : Nat := 0
  /-- fused values; —; R437; see Fuses -/
  fuses : Fuses := {}
  /-- compute dies by site; 16; R33; reset as Die -/
  die : Tab Die := []
  /-- lines a snoop has taken from an M holder and no home agent has yet, by line; —; R260; reset none -/
  inflight : Tab Line := []
  /-- casks; 12; R183; reset as Cask -/
  cask : Tab Cask := []
  /-- barrier channels of the package combiner; 256; R49; reset as BarChan -/
  bar : Tab BarChan := []
  /-- reserve-copy table; 512; R206; reset as Reserve -/
  reserve : Tab Reserve := []
  /-- the trellis; —; R215; reset as Trellis -/
  trellis : Trellis := {}
  /-- contexts, queues, fences, translation, slices, engines; —; chapters 06, 14–16; reset as Hubm -/
  hub : Hubm := {}
  /-- links by block: 0–15 sites, 16 IOA, 17 IOB, 18 MGD; 19; R314; reset as LinkDie -/
  link : Tab LinkDie := []
  /-- graft gates by site; 16; R321; reset as Gate -/
  gate : Tab Gate := []
  /-- endpoint IOA; —; R339; reset as HostEp -/
  ioa : HostEp := {}
  /-- endpoint IOB; —; R339; reset as HostEp -/
  iob : HostEp := {}
  /-- security; —; chapter 17; reset as Security -/
  sec : Security := {}
  /-- bring-up; —; chapter 18; reset as Bringup -/
  boot : Bringup := {}
  /-- the cellar book; —; chapter 19; reset as Book -/
  book : Book := {}
  /-- power, temperature, rails, lands; —; chapters 20, 23; reset as Power -/
  power : Power := {}
  /-- timebase and PTP; —; chapter 20; reset as Time -/
  time : Time := {}
  /-- observation and debug; —; chapter 21; reset as Observe -/
  obs : Observe := {}
  /-- the twin; —; chapter 22; reset as Twin -/
  twin : Twin := {}
  /-- wear, events, processors; —; chapter 22; reset as Avail -/
  avail : Avail := {}
  deriving DecidableEq, Repr

/-- The package right after reset: `POR_N` low, every register at its reset value, memory with nothing listed, no
command waiting. -/
def State.reset : State := {}

/-- What a step answers. -/
abbrev Res := Host.Outcome State Fault Refusal

end Sys2Proof.Machine
end

