-- ==== Sys2Proof/Machine/Ops.lean ====
section
/-! DEFINITION. Named operations over the parts of the state: reading one part, changing one part, emitting a message,
reading a free value. -/

namespace Sys2Proof

def Ep.code : Ep → Nat | .ioa => 0 | .iob => 1

/-- The thread number within its core. -/
def hartThr (h : Hart) : Fin 4 := ⟨h.val % 4, Nat.mod_lt _ (by decide)⟩
/-- The global core of a thread (R35). -/
def hartCore (h : Hart) : Nat := h.val / 4
/-- The site of a thread (R35). -/
def hartSite (h : Hart) : Nat := h.val / 1024
/-- A thread of a global core. -/
def coreHart (c : Nat) (t : Nat) : Hart := ⟨(4 * c + t) % 16384, Nat.mod_lt _ (by decide)⟩

/-! ### Who -/

/-- Hub controllers and MGD (R185, R232). -/
def Who.mgmt : Who → Bool | .hubctl | .mgd => true | _ => false
/-- The driver writer: host software through a control window. -/
def Who.driver : Who → Bool | .host _ => true | _ => false

/-- NI identifiers (R219). -/
def niSite (x m : Nat) : Nat := 8 * x + m
def niMem (k j : Nat) : Nat := 0x80 + 8 * k + j
def niEp : Ep → Nat → Nat | .ioa, m => 0xE0 + m | .iob, m => 0xE4 + m
def niMgd : Nat := 0xE8
def niHubctl (i : Nat) : Nat := 0xF0 + i
def niService (f n : Nat) : Nat := 0x100 + 4 * f + n
def niTaster (i : Nat) : Nat := 0x200 + i

/-- The NI a requester's register accesses come from; only its rights matter. -/
def Who.ni : Who → Nat
  | .host e => niEp e 0
  | .hubctl => niHubctl 0
  | .mgd => niMgd
  | .core h => niSite (hartSite h) 0
  | .graft x => niSite x.val 0

/-- Whether an NI identifier belongs to an endpoint (R219). -/
def niExists (n : Nat) : Bool := n ≤ 0xE8 || (0xF0 ≤ n && n ≤ 0x10F) || (0x200 ≤ n && n ≤ 0x2BF)

/-- A hub controller core or MGD by its NI (R185). -/
def niMgmt (n : Nat) : Bool := n = niMgd || (0xF0 ≤ n && n ≤ 0xFF)

/-! ### Ordering code (R2, R4) -/

def OrdCode.graftSites : OrdCode → List Nat
  | .p16 => []
  | .p12g4 => [1, 5, 9, 13]
  | .p08g8 => [1, 4, 5, 6, 9, 12, 13, 14]

/-- The subsystem ID: Bambipin sites and graft sites (R340). -/
def subsystemId : OrdCode → Nat
  | .p16 => 0x1000
  | .p12g4 => 0x0C04
  | .p08g8 => 0x0808

end Sys2Proof

namespace Sys2Proof.Machine

/-- A message sent. -/
def State.emit (s : State) (m : Msg) : State := {s with out := m :: s.out}
/-- Messages sent, first to last. -/
def State.emits (s : State) (ms : List Msg) : State := ms.foldl State.emit s

/-- The timebase as a number of ns (R515). -/
def State.now (s : State) : Nat := s.time.now.toNat

/-- The counter of free values advanced. -/
def State.bump (s : State) : State := {s with freeCtr := s.freeCtr + 1}

/-! ### Parts -/

def State.dieOf (s : State) (x : Nat) : Die := tget {} s.die x
def State.modDie (s : State) (x : Nat) (f : Die → Die) : State := {s with die := tmod {} s.die x f}
def Die.coreOf (d : Die) (n : Nat) : Core := tget {} d.core n
def Die.modCore (d : Die) (n : Nat) (f : Core → Core) : Die := {d with core := tmod {} d.core n f}
/-- A core by its global number (R35). -/
def State.coreOf (s : State) (c : Nat) : Core := (s.dieOf (c / 256)).coreOf (c % 256)
def State.modCore (s : State) (c : Nat) (f : Core → Core) : State := s.modDie (c / 256) (fun d => d.modCore (c % 256) f)

def State.thrOf (s : State) (h : Hart) : Thread := (s.coreOf (hartCore h)).thread (hartThr h)
def State.modThr (s : State) (h : Hart) (f : Thread → Thread) : State :=
  s.modCore (hartCore h) (fun c => c.setThread (hartThr h) (f (c.thread (hartThr h))))
def State.setThr (s : State) (h : Hart) (t : Thread) : State := s.modThr h (fun _ => t)

def State.caskOf (s : State) (k : Nat) : Cask := tget {} s.cask k
def State.modCask (s : State) (k : Nat) (f : Cask → Cask) : State := {s with cask := tmod {} s.cask k f}
def Cask.pcOf (c : Cask) (p : Nat) : Pc := tget {} c.pc p
def Cask.modPc (c : Cask) (p : Nat) (f : Pc → Pc) : Cask := {c with pc := tmod {} c.pc p f}

def State.niOf (s : State) (n : Nat) : Ni := tget {} s.trellis.ni n
def State.modTrellis (s : State) (f : Trellis → Trellis) : State := {s with trellis := f s.trellis}
def State.modNi (s : State) (n : Nat) (f : Ni → Ni) : State :=
  s.modTrellis (fun t => {t with ni := tmod {} t.ni n f})

def State.modHub (s : State) (f : Hubm → Hubm) : State := {s with hub := f s.hub}
def State.ctxOf (s : State) (x : Nat) : Ctx := tget {} s.hub.ctx x
def State.modCtx (s : State) (x : Nat) (f : Ctx → Ctx) : State := s.modHub (fun h => {h with ctx := tmod {} h.ctx x f})
def State.queueOf (s : State) (q : Nat) : Queue := tget {} s.hub.queue q
def State.modQueue (s : State) (q : Nat) (f : Queue → Queue) : State :=
  s.modHub (fun h => {h with queue := tmod {} h.queue q f})
def State.fenceOf (s : State) (f : Nat) : Fence := tget {} s.hub.fence f
def State.modFence (s : State) (n : Nat) (f : Fence → Fence) : State :=
  s.modHub (fun h => {h with fence := tmod {} h.fence n f})
def State.sliceOf (s : State) (n : Nat) : Slice := tget {} s.hub.slice n
def State.modSlice (s : State) (n : Nat) (f : Slice → Slice) : State :=
  s.modHub (fun h => {h with slice := tmod {} h.slice n f})
def State.fqOf (s : State) (n : Nat) : FaultQ := tget {} s.hub.faultq n
def State.modFq (s : State) (n : Nat) (f : FaultQ → FaultQ) : State :=
  s.modHub (fun h => {h with faultq := tmod {} h.faultq n f})

def State.linkOf (s : State) (a : Nat) : LinkDie := tget {} s.link a
def State.modLink (s : State) (a : Nat) (f : LinkDie → LinkDie) : State := {s with link := tmod {} s.link a f}
def LinkDie.modOf (l : LinkDie) (m : Nat) : Module := tget {} l.mod m
def State.modOf (s : State) (a m : Nat) : Module := (s.linkOf a).modOf m
def State.modMod (s : State) (a m : Nat) (f : Module → Module) : State :=
  s.modLink a (fun l => {l with mod := tmod {} l.mod m f})
def State.gateOf (s : State) (x : Nat) : Gate := tget {} s.gate x
def State.modGate (s : State) (x : Nat) (f : Gate → Gate) : State := {s with gate := tmod {} s.gate x f}

def State.epOf (s : State) : Ep → HostEp | .ioa => s.ioa | .iob => s.iob
def State.modEp (s : State) (e : Ep) (f : HostEp → HostEp) : State :=
  match e with
  | .ioa => {s with ioa := f s.ioa}
  | .iob => {s with iob := f s.iob}

def State.barOf (s : State) (c : Nat) : BarChan := tget {} s.bar c
def State.modBar (s : State) (c : Nat) (f : BarChan → BarChan) : State := {s with bar := tmod {} s.bar c f}
def State.cmdOf (s : State) (b : Nat) : CmdBlk := tget {} s.hub.cmd b
def State.xcmdOf (s : State) (b : Nat) : CmdBlk := tget {} s.hub.xcmd b
def State.scmdOf (s : State) (b : Nat) : CmdBlk := tget {} s.hub.scmd b
def State.tasterOf (s : State) (i : Nat) : Taster := tget {} s.obs.taster i
def State.sinkOf (s : State) (i : Nat) : Sink := tget {} s.obs.sink i
def HostEp.msixOf (h : HostEp) (v : Nat) : MsixEntry := tget {} h.msix v
def Gate.ruleOf (g : Gate) (i : Nat) : Rule := tget {} g.rule i
def State.resOf (s : State) (i : Nat) : Reserve := tget {} s.reserve i
def State.clusterOf (s : State) (x cl : Nat) : Cluster := tget {} (s.dieOf x).cluster cl
def State.modCluster (s : State) (x cl : Nat) (f : Cluster → Cluster) : State :=
  s.modDie x (fun d => {d with cluster := tmod {} d.cluster cl f})
def State.powOf (s : State) (i : Nat) : DiePow := tget {} s.power.die i
def State.modPow (s : State) (i : Nat) (f : DiePow → DiePow) : State :=
  {s with power := {s.power with die := tmod {} s.power.die i f}}
def State.slotOf (s : State) (i : Nat) : KeySlot := tget {} s.sec.slot i

/-- The bung of an NI is engaged (R241–R244). -/
def State.bunged (s : State) (n : Nat) : Bool := (s.niOf n).eng

/-- Whether a site is a graft site (R4). -/
def State.isGraft (s : State) (x : Nat) : Bool := s.fuses.code.graftSites.contains x

/-- A site's pipelines are halted (R537). -/
def State.siteHalted (s : State) (x : Nat) : Bool := s.obs.halted.getLsbD x

/-! ### Die-link senders (R296, R299) -/

/-- The link block and module of an NI of a linked die (R314). -/
def niLink (n : Nat) : Option (Nat × Nat) :=
  if n < 0x80 then some (n / 8, n % 8)
  else if 0xE0 ≤ n ∧ n < 0xE8 then some (16 + (n - 0xE0) / 4, n % 4)
  else if n = 0xE8 then some (18, 0) else none

/-- Modules of a die (R292). -/
def linkModules (a : Nat) : Nat := if a < 16 then 8 else if a < 18 then 4 else 1
/-- The NI of a module (R219). -/
def linkNi (a m : Nat) : Nat := if a < 16 then niSite a m else if a < 18 then 0xE0 + 4 * (a - 16) + m else niMgd

def linkId (a : Nat) : LinkId := ⟨a % 19, Nat.mod_lt _ (by decide)⟩
def modId (m : Nat) : Fin 8 := ⟨m % 8, Nat.mod_lt _ (by decide)⟩
def Module.dir (m : Module) (toHub : Bool) : LinkDir := if toHub then m.rx else m.tx
def State.modDir (s : State) (a m : Nat) (toHub : Bool) (f : LinkDir → LinkDir) : State :=
  s.modMod a m (fun x => if toHub then {x with rx := f x.rx} else {x with tx := f x.tx})
def State.dirOf (s : State) (a m : Nat) (toHub : Bool) : LinkDir := (s.modOf a m).dir toHub

/-- The module that carries another's work: its own, the partner of an absent one (R306), at an endpoint the first module
that is there (R316). -/
def State.moduleFor (s : State) (x m : Nat) : Nat :=
  if (s.modOf x m).st ≠ .absent then m
  else if x < 16 then m ^^^ 1
  else ((List.range 4).find? (fun i => (s.modOf x i).st ≠ .absent)).getD m

/-- Whether a sender may send a command now: `o` is the direction whose frames bring its credit totals (R297). -/
def LinkDir.maySend (d o : LinkDir) (c : LinkCmd) : Bool :=
  match creditOf c.h0 with
  | .free => true
  | .ctl => d.ctlTags.length < 64
  | .sec => d.secTags.length < 1024
  | .primary => (d.sentCmd - o.ccmd).toNat < 512 && (d.sentSec - o.csec).toNat + c.data.length ≤ 512

/-- The tag of a command. -/
def LinkCmd.tag (c : LinkCmd) : BitVec 12 := BitVec.ofNat 12 (bits c.h0 23 12)

/-- A command in the next frame: its sender counts it and keeps it; 4,096 frames are kept (R297, R299). -/
def LinkDir.sent (d : LinkDir) (c : LinkCmd) : LinkDir :=
  let tag := c.tag
  let d := { d with txSeq := d.txSeq + 1, hist := (d.hist ++ [(d.txSeq, c)]).drop (d.hist.length + 1 - 4096) }
  match creditOf c.h0 with
  | .free => d
  | .ctl => {d with ctlTags := d.ctlTags ++ [tag]}
  | .sec => {d with secTags := d.secTags ++ [tag]}
  | .primary => {d with sentCmd := d.sentCmd + 1, sentSec := d.sentSec + BitVec.ofNat 10 c.data.length}

/-- A command that never reached the receiver uses no credit (R299). -/
def LinkDir.unsent (d : LinkDir) (c : LinkCmd) : LinkDir :=
  match creditOf c.h0 with
  | .free => d
  | .ctl => {d with ctlTags := d.ctlTags.erase c.tag}
  | .sec => {d with secTags := d.secTags.erase c.tag}
  | .primary => {d with sentCmd := d.sentCmd - 1, sentSec := d.sentSec - BitVec.ofNat 10 c.data.length}

/-- The payload of a frame: the command's sectors, or 16 empty entries (R296). -/
def LinkCmd.payload (c : LinkCmd) : List Sector :=
  if c.data.isEmpty then
    let e := (codeHalf 0).toNat
    List.replicate 4 (BitVec.ofNat 512 ((List.range 8).foldl (fun n i => n + e * 2 ^ (64 * i)) 0))
  else fit 0 4 c.data

/-- A frame sent: it carries one command alone, and the totals its sender's receiver has freed (R295–R297; DESIGN CHOICE,
log 26). -/
def State.frameOut (s : State) (a m : Nat) (toHub : Bool) (c : LinkCmd) (f : LinkDir → LinkDir) : State :=
  let o := s.dirOf a m (!toHub)
  let w := frameWords c.h0 c.h1 o.freedCmd.toNat o.freedSec.toNat (s.dirOf a m toHub).txSeq.toNat
  (s.modDir a m toHub f).emit (.frame (linkId a) (modId m) toHub w.1 w.2 c.payload)

/-- A command put on a die link: in the next frame, or kept in order while the link has no credit for it or retrains
(R297, R312). -/
def State.linkSend (s : State) (a m : Nat) (toHub : Bool) (c : LinkCmd) : State :=
  let d := s.dirOf a m toHub
  if (s.modOf a m).st ≠ .retraining && d.maySend (s.dirOf a m (!toHub)) c
      && !d.wait.any (fun w => creditOf w.h0 = creditOf c.h0) then
    s.frameOut a m toHub c (·.sent c)
  else s.modDir a m toHub (fun d => {d with wait := d.wait ++ [c]})

/-- Commands that waited go out as far as they may. -/
def State.linkDrain (s : State) (a m : Nat) (toHub : Bool) : State :=
  (s.dirOf a m toHub).wait.foldl (fun s c => s.linkSend a m toHub c) (s.modDir a m toHub (fun d => {d with wait := []}))

/-- A request of a die put on its link: of the module named, or of the one that carries its work. -/
def State.dieReq (s : State) (x m dst : Nat) (cls : Cls) (op : TOp) (pa len tag qual : Nat) (data : List Sector) : State :=
  (s.linkSend x (s.moduleFor x m) true
    ⟨frameHalf0 cls.code false op.code len tag 0 0 false (!data.isEmpty), frameHalf1 (pa / 64) qual, data⟩).emit
    (.req (niSite x m) dst op pa len tag qual data [])

/-- A register's bytes in a response (R226). -/
def regSector (v : Word) : Sector := v.setWidth 512

/-- n free bytes (R168, R199). -/
def State.freeBytes (s : State) (n : Nat) : List Byte := (List.range n).map (Config.freeByte s.freeCtr)

/-! ### Events and the fault output -/

/-- An event entered in the log; class C at most once per entry per second (R549). -/
def State.logEvent (s : State) (cls die code : Nat) (d0 d1 : Nat) : State :=
  let sec := s.now / 10 ^ 9
  if cls = 1 && s.avail.logC.contains (code, sec) then s
  else
    let w1 := cls + 256 * (die + 1) + 65536 * code + 2 ^ 32 * b2n (!s.time.tlock)
    let r : List Word := [s.time.now, BitVec.ofNat 64 w1, BitVec.ofNat 64 d0, BitVec.ofNat 64 d1]
    let keep := if cls = 1 then (code, sec) :: s.avail.logC.filter (fun p => p.2 = sec && p.1 ≠ code) else s.avail.logC
    {s with avail := { s.avail with
      log := (s.avail.log ++ [r]).drop (s.avail.log.length + 1 - 256), logN := s.avail.logN + 1, logC := keep }}

/-- The fault output asserted (R548). -/
def State.faultOn (s : State) : State := {s with power := {s.power with fault := true}}

/-- A wear level raised; levels never fall while the package is powered (R546). -/
def State.wear (s : State) (die level : Nat) : State :=
  {s with avail := {s.avail with wear := tput s.avail.wear die (max level (tget 0 s.avail.wear die))}}

/-- Die codes − 1 of the subindices of OD 0x2E01 (R480). -/
def dieSite (x : Nat) : Nat := x
def dieCask (k : Nat) : Nat := 16 + k
def dieEp : Ep → Nat | .ioa => 28 | .iob => 29
def dieMgd : Nat := 30
def dieHub : Nat := 31

end Sys2Proof.Machine
end

