-- ==== Sys2Proof/Machine/Counters.lean ====
section
/-! DEFINITION. The Zihpm counters and the operator counters (R525–R528). Events the model's commands show are counted
exactly; a counter of cycles, or of an event inside a cache or a port, takes a free value whenever it is looked at
(log 23). -/

namespace Sys2Proof.Machine

/-- Events of a thread or core that are counted exactly: none, retired, decanter blocks, poisoned sectors. -/
def hpmExact (ev : Nat) : Bool := [0x00, 0x01, 0x0B, 0x12].contains ev
/-- Events of an operator counter that are counted exactly. -/
def octExact (ev : Nat) : Bool := [0x00, 0x0B, 0x12, 0x22, 0x23, 0x24].contains ev

/-- The CSRs that show or steer a counter: counters, their shadows, selectors, `mcountinhibit`. -/
def csrCounts (n : Nat) : Bool :=
  n = 0xB00 || (0xB03 ≤ n && n ≤ 0xB12) || n = 0xC00 || (0xC03 ≤ n && n ≤ 0xC12) || n = 0x320 || (0x323 ≤ n && n ≤ 0x332)

/-- The counters of a thread that are not counted exactly take free values, unless inhibited. -/
def Thread.settle (t : Thread) (ctr g : Nat) : Thread :=
  let inh := (t.csrRaw Csr.mcountinhibit).toNat
  let free := fun (i : Nat) => BitVec.ofNat 64 (Config.freeNat ctr (2 ^ 33 + 32 * g + i))
  let t := if bit inh 0 then t else t.setCsr Csr.mcycle (free 0)
  (List.range 16).foldl (fun (t : Thread) i =>
    if bit inh (3 + i) || hpmExact (t.csrRaw (0x323 + i)).toNat then t else t.setCsr (0xB03 + i) (free (3 + i))) t

/-- The event code of operator counter i. -/
def Core.evt (c : Core) (i : Nat) : Nat := bits c.ocsel.toNat (8 * i + 7) (8 * i)

/-- The spare serves the position: its own counts, from 0, are the position's, and the worn core keeps its last ones
(R528). -/
def Core.octSwap (c : Core) : Core := {c with octw := some c.octr, octr := []}
/-- The worn core serves again after a test (R61, R528). -/
def Core.octBack (c : Core) : Core := {c with octr := c.octw.getD c.octr, octw := none}
/-- The counts OD 0x3131 shows. -/
def Core.wornCounts (c : Core) : Tab Word := c.octw.getD c.octr

/-- n events counted by the operator counters of a core that select the code. -/
def Core.octCount (c : Core) (code n : Nat) : Core :=
  (List.range 8).foldl (fun (c : Core) i =>
    if c.evt i = code then {c with octr := tput c.octr i (tget 0 c.octr i + BitVec.ofNat 64 n)} else c) c

/-- The operator counters of a core that are not counted exactly take free values. -/
def Core.octSettle (c : Core) (ctr g : Nat) : Core :=
  (List.range 8).foldl (fun (c : Core) i =>
    if octExact (c.evt i) then c
    else {c with octr := tput c.octr i (BitVec.ofNat 64 (Config.freeNat ctr (2 ^ 32 + 8 * g + i)))}) c

/-- A change of every core that the model has a record of; a core without one selects no event. -/
def State.mapCores (s : State) (f : Nat → Core → Core) : State :=
  {s with
    die := s.die.map (fun (d : Nat × Die) =>
      (d.1, {d.2 with core := d.2.core.map (fun (c : Nat × Core) => (c.1, f (256 * d.1 + c.1) c.2))}))}

/-- n events at a core (R525: core scope). -/
def State.coreEvent (s : State) (g code n : Nat) : State :=
  s.mapCores (fun k c => if k ≠ g then c else
    let c := {c with thr := c.thr.map (fun (t : Nat × Thread) => (t.1, t.2.hpmCount code n))}
    if s.obs.en.getLsbD 0 then c.octCount code n else c)

/-- n events of a die (R525: die scope). -/
def State.dieEvent (s : State) (x code n : Nat) : State :=
  if s.obs.en.getLsbD 0 then s.mapCores (fun k c => if k / 256 = x then c.octCount code n else c) else s

/-- Operator counters before they are read, or their selection or enable changes; they count only while `octr` is 1
(R527). -/
def State.octSettle (s : State) : State :=
  if s.obs.en.getLsbD 0 then (s.mapCores (fun k c => c.octSettle s.freeCtr k)).bump else s

/-- A thread's counters before a CSR instruction looks at one. -/
def State.hpmSettle (s : State) (h : Hart) (n : Nat) : State :=
  if csrCounts n then (s.modThr h (fun t => t.settle s.freeCtr h.val)).bump else s

/-- The counters of a core's threads and their `tip` before its image is saved. -/
def State.coreSettle (s : State) (g : Nat) : State :=
  (s.modCore g (fun c => {c with thr := c.thr.map (fun (t : Nat × Thread) =>
    (t.1, (t.2.settle s.freeCtr (4 * g + t.1)).tipSync s.now))})).bump

end Sys2Proof.Machine
end

