-- ==== Sys2Proof/Machine/CsrMasks.lean ====
section
/-! DEFINITION. What the write-any, read-legal CSRs hold of a value (R97, R106, R144, R526, R603): write masks, and a CSR as a
context load leaves it (R65, R66). What R97 leaves to the RISC-V privileged architecture is taken from it (PRESUMED,
log 4). -/

namespace Sys2Proof.Machine

/-- Writable bits of `mstatus` and of its `sstatus` view. -/
def mstatusMask : Nat := 0x7E7FAA
def sstatusMask : Nat := 0xC6722
/-- Writable bits of `mie`, `mip`, `mideleg`, `medeleg`. -/
def mieMask : Nat := 0x30AAA
def mipMask : Nat := 0x222
def midelegMask : Nat := 0x30222
def medelegMask : Nat := 0x300B3FF

/-- A `pmpcfg` byte as stored (R603): the old byte stays when locked or when R = 0 and W = 1; NA4 becomes OFF. -/
def pmpByteWrite (old new : Nat) : Nat :=
  if bit old 7 then old
  else if !bit new 0 && bit new 1 then old
  else
    let v := new &&& 0x9F
    if bits v 4 3 = 2 then v - 16 else v

/-- A `pmpcfg` word as stored. -/
def pmpcfgWrite (old new : Word) : Word :=
  BitVec.ofNat 64 (leNat ((List.range 8).map (fun i =>
    BitVec.ofNat 8 (pmpByteWrite (bits old.toNat (8 * i + 7) (8 * i)) (bits new.toNat (8 * i + 7) (8 * i))))))

/-- `mhpmevent` as stored (R526): thread and core codes only. -/
def mhpmeventWrite (v : Word) : Word :=
  let c := v.toNat % 256
  if c ≤ 0x12 then BitVec.ofNat 64 c else 0

/-- Bits of the press and decanter CSRs that hold a field (R106, R144). -/
def pressCsrMask : Nat → Nat
  | 0x801 => 0x1FF
  | 0x802 => 0xFF
  | 0x803 => 2 ^ 60 - 1
  | 0x804 | 0x805 | 0x806 => 2 ^ 40 - 1
  | 0x807 => 2 ^ 20 - 1
  | 0x808 => 2 ^ 33 - 1
  | 0x809 => 2 ^ 46 - 1
  | 0x80A => 2 ^ 40 - 1
  | 0x80B => 2 ^ 32 - 1
  | _ => 2 ^ 64 - 1

/-- The bits of w outside mask kept, those inside taken from v. -/
def maskIn (w v : Word) (mask : Nat) : Word := (w &&& ~~~BitVec.ofNat 64 mask) ||| (v &&& BitVec.ofNat 64 mask)

/-- `mstatus` as stored: MPP takes 0, 1 or 3. -/
def mstatusWrite (old new : Word) : Word :=
  let m := maskIn old new mstatusMask
  if bits m.toNat 12 11 = 2 then setBits m 12 11 (bits old.toNat 12 11) else m

/-- A CSR as a context load leaves it: a field that can hold only some values takes one of them, as when it is written
(log 16). -/
def csrLoaded (n : Nat) (v : Word) : Word :=
  match n with
  | 0x003 => v &&& 0xFF
  | 0x008 => v &&& 0x7FF
  | 0x009 => v &&& 1
  | 0x00A => v &&& 3
  | 0x105 => v &&& ~~~2
  | 0x106 => v &&& 0x7FFFF
  | 0x141 => v &&& ~~~1
  | 0x300 => mstatusWrite (csrReset n) v
  | 0x302 => v &&& BitVec.ofNat 64 medelegMask
  | 0x303 => v &&& BitVec.ofNat 64 midelegMask
  | 0x304 => v &&& BitVec.ofNat 64 mieMask
  | 0x305 => v &&& ~~~2
  | 0x306 => v &&& 0x7FFFF
  | 0x320 => v &&& 0x7FFFD
  | 0x341 => v &&& ~~~1
  | 0x344 => v &&& BitVec.ofNat 64 mipMask
  | 0x3A0 => pmpcfgWrite 0 v
  | 0x3A2 => pmpcfgWrite 0 v
  | n =>
    if 0x801 ≤ n && n ≤ 0x80B then v &&& BitVec.ofNat 64 (pressCsrMask n)
    else if 0x323 ≤ n && n ≤ 0x332 then mhpmeventWrite v
    else if 0x3B0 ≤ n && n ≤ 0x3BF then v &&& BitVec.ofNat 64 (2 ^ 54 - 1)
    else v

end Sys2Proof.Machine
end

