-- ==== Sys2Proof/Machine/Map.lean ====
section
/-! DEFINITION. The device physical address map (R42, R45, R164, R185–R187, R215–R221, R600): which part an address
belongs to, and where it lies there. -/

namespace Sys2Proof.Machine

/-! ### Casks -/

def usableEnd : Nat := 0xB40000000
def spareEnd : Nat := 0xC00000000
/-- Sectors of a cask that hold data: usable and spare (R185). -/
def caskSectors : Nat := spareEnd / 64

/-- Parts of the address space (R185). -/
inductive Region where
  | usable (k off : Nat)
  | spare (k off : Nat)
  | hole (k : Option Nat)     -- unpopulated; in a cask's window or beyond them
  | hub (off : Nat)           -- hub SRAM and registers, offset from 0xF0_0000_0000
  deriving DecidableEq, Repr

def regionOf (pa : Nat) : Region :=
  if 0xF000000000 ≤ pa then .hub (pa - 0xF000000000)
  else if 0xC000000000 ≤ pa then .hole none
  else
    let k := pa / 2 ^ 36
    let a := pa % 2 ^ 36
    if a < usableEnd then .usable k a else if a < spareEnd then .spare k a else .hole (some k)

/-- The cask that owns an address, and the offset in its window (R185). -/
def caskAddr (k off : Nat) : Nat := k * 2 ^ 36 + off

/-- Where a sector lies in its cask (R187). -/
structure Place where
  pc : Nat
  rank : Nat
  bank : Nat
  row : Nat
  col : Nat
  deriving DecidableEq, Repr

/-- The decode of R187. -/
def placeOf (off : Nat) : Place :=
  { pc := bits off 12 8 ^^^ bits off 24 20, rank := bits off 35 34, bank := bits off 19 16 ^^^ bits off 28 25,
    row := bits off 33 20, col := 4 * bits off 15 13 + bits off 7 6 }

/-- The cask offset of a place, the inverse of `placeOf` (R187). -/
def offOfPlace (p : Place) : Nat :=
  let hi := p.rank * 2 ^ 34 + p.row * 2 ^ 20
  let bk := p.bank ^^^ bits hi 28 25
  let lo := hi + bk * 2 ^ 16 + (p.col / 4) * 2 ^ 13
  lo + (p.pc ^^^ bits lo 24 20) * 2 ^ 8 + (p.col % 4) * 64

/-- A bank's row as one key: 2^14 × (512 pc + 16 rank + bank) + row (R183). -/
def rowKey (p : Place) : Nat := 2 ^ 14 * (512 * p.pc + 16 * p.rank + p.bank) + p.row
/-- A bank of a PC and rank as one key (R183). -/
def bankKey (p : Place) : Nat := 512 * p.pc + 16 * p.rank + p.bank

/-- A sector index within the PC, as the traffic generator counts it (R212). -/
def pcSector (p : Place) : Nat := p.rank * 2 ^ 23 + p.bank * 2 ^ 19 + p.row * 2 ^ 5 + p.col
def placeOfPcSector (pc s : Nat) : Place :=
  { pc := pc, rank := s / 2 ^ 23, bank := bits s 22 19, row := bits s 18 5, col := bits s 4 0 }

/-- The memory NI that owns a cask offset (R219, R221). -/
def memNi (k off : Nat) : Nat := niMem k ((placeOf off).pc / 8)

/-- The directory set of a cask offset (R255). -/
def dirSet (off : Nat) : Nat := bits off 22 6

/-- The L2 bank of an address and its link module (R45, R47). -/
def l2Bank (pa : Nat) : Nat := bits pa 9 6 ^^^ bits pa 13 10 ^^^ bits pa 17 14 ^^^ bits pa 21 18
def l2Module (pa : Nat) : Nat := l2Bank pa / 2

/-- The granule and account of a sector (R283): 64 is the common account. -/
def accountOf (c : Cask) (off : Nat) : Nat :=
  if off < usableEnd then
    let e := (tget 0 c.owner (off / 2 ^ 21)).toNat
    if e / 64 = 1 then e % 64 else 64
  else 64

/-! ### Routers -/

/-- The router index of coordinates (R215). -/
def routerAt (x y : Nat) : Nat := 12 * y + x

/-- The slot of a compute site on its edge: edge 0 north, 1 east, 2 south, 3 west, and the place in clockwise order (R17). -/
def siteSlot : Nat → Nat × Nat
  | 0 => (0, 0) | 1 => (0, 2) | 2 => (0, 4)
  | 3 => (1, 0) | 4 => (1, 2) | 5 => (1, 3) | 6 => (1, 5) | 7 => (1, 7)
  | 8 => (2, 0) | 9 => (2, 2) | 10 => (2, 4)
  | 11 => (3, 0) | 12 => (3, 2) | 13 => (3, 3) | 14 => (3, 5) | _ => (3, 7)

/-- The slot of a cask (R17). -/
def caskSlot : Nat → Nat × Nat
  | 0 => (0, 1) | 1 => (0, 3) | 2 => (0, 5)
  | 3 => (1, 1) | 4 => (1, 4) | 5 => (1, 6)
  | 6 => (2, 1) | 7 => (2, 3) | 8 => (2, 5)
  | 9 => (3, 1) | 10 => (3, 4) | _ => (3, 6)

/-- The i-th router (0 or 1) of a slot, clockwise (R17, R220). -/
def slotRouter (sl : Nat × Nat) (i : Nat) : Nat :=
  let p := 2 * sl.2 + i
  match sl.1 with
  | 0 => routerAt p 0
  | 1 => routerAt 11 p
  | 2 => routerAt (11 - p) 15
  | _ => routerAt 0 (15 - p)

/-- The router and eport of an NI (R220); none for a reserved identifier. -/
def niPort (n : Nat) : Option (Nat × Nat) :=
  if n < 0x80 then
    let sl := siteSlot (n / 8)
    let m := n % 8
    some (slotRouter sl (m / 4), (if sl.1 % 2 = 1 then 4 else 0) + m % 4)
  else if n < 0xE0 then
    let k := (n - 0x80) / 8
    let j := n % 8
    some (slotRouter (caskSlot k) (j / 2 % 2), 8 + (j / 4) * 2 + j % 2)
  else if n < 0xE4 then some (routerAt 11 ((n - 0xE0) / 2), 12 + n % 2)
  else if n < 0xE8 then some (routerAt 0 (15 - (n - 0xE4) / 2), 12 + n % 2)
  else if n = 0xE8 then some (routerAt 0 0, 12)
  else if 0xF0 ≤ n ∧ n ≤ 0xFF then
    let f := (n - 0xF0) / 4
    let i := n % 4
    let x := 2 + i % 2
    let y := 3 + i / 2
    let x' := if f = 1 ∨ f = 2 then 11 - x else x
    let y' := if f = 2 ∨ f = 3 then 15 - y else y
    some (routerAt x' y', 12)
  else if 0x100 ≤ n ∧ n ≤ 0x10F then
    let f := (n - 0x100) / 4
    some (match f with | 0 => routerAt 5 6 | 1 => routerAt 6 6 | 2 => routerAt 6 9 | _ => routerAt 5 9, 8 + n % 4)
  else if 0x200 ≤ n ∧ n ≤ 0x2BF then some (n - 0x200, 15)
  else none

/-- The neighbour of a router: 0 north, 1 east, 2 south, 3 west; none at the mesh edge (R215, R230). -/
def neighbour (r d : Nat) : Option Nat :=
  let x := r % 12
  let y := r / 12
  match d with
  | 0 => if 0 < y then some (r - 12) else none
  | 1 => if x < 11 then some (r + 1) else none
  | 2 => if y < 15 then some (r + 12) else none
  | _ => if 0 < x then some (r - 1) else none

/-- The field of a router, site or cask: NW 0, NE 1, SE 2, SW 3 (R18, R219). -/
def fieldOfRouter (r : Nat) : Nat :=
  if r / 12 < 8 then (if r % 12 < 6 then 0 else 1) else (if r % 12 < 6 then 3 else 2)
def fieldOfSite (x : Nat) : Nat := fieldOfRouter (slotRouter (siteSlot x) 0)
def fieldOfCask (k : Nat) : Nat := fieldOfRouter (slotRouter (caskSlot k) 0)

/-- The NI that owns a hub register or a part of the hub's SRAM, by its offset from 0xF0_0000_0000 (R600): 4f′ + n of the
machinery's slots and blocks by their number, the relay of the field of a router, site or cask, else the relay of NW. -/
def hubOwner (o : Nat) : Nat :=
  let sv := fun (i n : Nat) => niService (i % 4) n
  let relay := fun (f : Nat) => niService f 3
  let ofNi := fun (n : Nat) => match niPort n with | some (r, _) => relay (fieldOfRouter r) | none => relay 0
  if 0x80F00000 ≤ o then relay 0
  else if 0x80000000 ≤ o then (if o < 0x800C0000 then relay (fieldOfRouter ((o - 0x80000000) / 4096)) else relay 0)
  else if 0x70008000 ≤ o then sv ((o - 0x70008000) / 64) 2
  else if 0x70000000 ≤ o then sv ((o - 0x70000000) / 256) 2
  else if 0x60001000 ≤ o then sv ((o - 0x60001000) / 64) 0
  else if 0x60000000 ≤ o then sv ((o - 0x60000000) / 64) 2
  else if 0x50410000 ≤ o then sv ((o - 0x50410000) / 8) 2
  else if 0x50400000 ≤ o then sv ((o - 0x50400000) / 64) 2
  else if 0x50200000 ≤ o then sv ((o - 0x50200000) / 32) 1
  else if 0x50100000 ≤ o then sv ((o - 0x50100000) / 64) 2
  else if 0x50000000 ≤ o then sv ((o - 0x50000000) / 128) 2
  else if 0x40000000 ≤ o then relay (fieldOfCask ((o - 0x40000000) / 2 ^ 24))
  else if 0x30000000 ≤ o then relay 0
  else if 0x20000000 ≤ o then relay (fieldOfCask ((o - 0x20000000) / 2 ^ 20))
  else if 0x17000000 ≤ o then relay (fieldOfSite ((o - 0x17000000) / 4096))
  else if 0x16000000 ≤ o then
    let a := (o - 0x16000000) / 4096
    if a < 16 then relay (fieldOfSite a) else ofNi (if a = 16 then niEp .ioa 0 else if a = 17 then niEp .iob 0 else niMgd)
  else if 0x15000000 ≤ o then relay (fieldOfCask ((o - 0x15000000) / 2 ^ 20))
  else if 0x14000000 ≤ o then relay (fieldOfCask ((o - 0x14000000) / 4096))
  else if 0x13100000 ≤ o then ofNi ((o - 0x13100000) / 256)
  else if 0x13000000 ≤ o then ofNi ((o - 0x13000000) / 64)
  else if 0x12000000 ≤ o then ofNi ((o - 0x12000000) / 64)
  else if 0x11000000 ≤ o then relay (fieldOfRouter ((o - 0x11000000) / 4096))
  else if 0x10000000 ≤ o then ofNi ((o - 0x10000000) / 8192)
  else relay 0

end Sys2Proof.Machine
end

