-- ==== Sys2Proof/Machine/Packets.lean ====
section
/-! DEFINITION. Packets as their network interfaces make them (R216–R227, R232, R240, R242, R276–R279): class,
destination, route and plane, the charge, the request and the one response to it. -/

namespace Sys2Proof.Machine

/-! ### Budgets and credits (R276–R282) -/

def isTaster (n : Nat) : Bool := 0x200 ≤ n && n ≤ 0x2BF

/-- A class nothing has changed: the cooper's values (R280); OBS ends every window with no credit (R282). -/
def State.clsDefault (s : State) (c : Nat) : NiCls :=
  if c = 4 then {budget := 0, dcap := 0, credit := 0, nover := BitVec.ofNat 32 s.trellis.windows} else {}
/-- A class of an NI. -/
def State.niCls (s : State) (n c : Nat) : NiCls := tget (s.clsDefault c) (s.niOf n).cls c
def State.setCls (s : State) (n c : Nat) (v : NiCls) : State := s.modNi n (fun i => {i with cls := tput i.cls c v})

/-- The priority a request of n sectors gets, none when it is dropped (R278, R279). -/
def NiCls.priority (v : NiCls) (c n : Nat) : Option Bool :=
  if c = 0 then some true
  else if c = 4 then (if v.credit - n ≤ 0 then none else some false)
  else some (v.budget = 0xFFFF || 0 < v.credit)

/-- A request of n sectors charged, or counted as dropped (R276, R282). -/
def NiCls.charge (v : NiCls) (c n : Nat) : NiCls :=
  match v.priority c n with
  | none => {v with low := v.low + BitVec.ofNat 64 n}
  | some p => { v with credit := v.credit - n, chg := v.chg + BitVec.ofNat 64 n, cur := v.cur + n,
                       low := if p || c = 4 then v.low else v.low + BitVec.ofNat 64 n }

/-- Requests of n sectors in all charged to an NI, whatever becomes of their packets (R276). -/
def State.chargeNi (s : State) (ni : Nat) (cls : Cls) (n : Nat) : State :=
  s.setCls ni cls.code ((s.niCls ni cls.code).charge cls.code n)

/-! ### Class and destination (R218, R221) -/

/-- The compute site of an NI (R219). -/
def niSiteOf (n : Nat) : Option Nat := if n < 0x80 then some (n / 8) else none
/-- An NI of a host endpoint, a memory NI (R219). -/
def niHost (n : Nat) : Bool := 0xE0 ≤ n && n < 0xE8
def niMemory (n : Nat) : Bool := 0x80 ≤ n && n < 0xE0 && n % 8 < 4

/-- The class of a request (R218): what a memory NI sends to a site is a snoop. -/
def classFor (src dst : Nat) (op : TOp) : Cls :=
  match op with
  | .msg | .regrd | .regwr => .ctl
  | .trace => .obs
  | .snp => .coh
  | .rds | .rdx | .wb | .stash | .amo => if niHost src || niHost dst then .host else .coh
  | _ => if niHost src || niHost dst then .host else if niMemory src && dst < 0x80 then .coh else .bulk

/-- An address in the apertures of the sites, 4 GiB each; the NI it is routed to; whether its site is a graft site (R326). -/
def inApertures (pa : Nat) : Bool := 0xF800000000 ≤ pa && pa < 0xF800000000 + 16 * 2 ^ 32
def apertureNi (pa : Nat) : Nat := niSite ((pa - 0xF800000000) / 2 ^ 32 % 16) (bits pa 10 8)

def State.inAperture (s : State) (pa : Nat) : Bool := inApertures pa && s.isGraft ((pa - 0xF800000000) / 2 ^ 32)

/-- The module NI of a scratch locator's core, from the locator bits [30:6] a request carries (R164, R221). -/
def locatorNi (a : Nat) : Nat := niSite (bits a 24 21) (bits a 20 18)

/-- The NI a device physical address is sent to: a cask's by its decode, the hub's by R600, a site's aperture. -/
def paNi (pa : Nat) : Option Nat :=
  if inApertures pa then some (apertureNi pa)
  else match regionOf pa with
    | .usable k o | .spare k o => some (memNi k o)
    | .hole (some k) => some (memNi k (pa % 2 ^ 36))
    | .hub o => some (hubOwner o)
    | .hole none => none

/-- The NI a request goes to (R221): what its sender names says of what kind the target is, its address which one. A
message and a trace record go where their sender says. -/
def State.destOf (s : State) (q : NReq) (sec : Bool) : Nat :=
  let d := q.dst.toNat
  let pa := 64 * q.addr.toNat
  if q.op = .msg || q.op = .trace then d
  else if niHost d then niEp (s.sliceOf (q.qual.toNat % 64)).ep (bits pa 9 8)
  else if sec && d < 0x80 then niSite (d / 8) (l2Module pa)
  else if d < 0x80 && !s.isGraft (d / 8) then locatorNi q.addr.toNat
  else (paNi pa).getD d

/-- Whether the target of a request owns its address (R221). -/
def State.ownsAddr (s : State) (n : Nat) (op : TOp) (sec : Bool) (a : Nat) : Bool :=
  let pa := 64 * a
  if op = .msg || op = .trace then true
  else if niHost n then n % 4 = bits pa 9 8
  else match niSiteOf n with
    | some x => if sec then n % 8 = l2Module pa else if s.isGraft x then paNi pa = some n else a < 2 ^ 25 && locatorNi a = n
    | none => paNi pa = some n

/-- A request as its NI sends it: its class and its destination follow from its kind, `sec` marks what a memory NI sends
(R217, R218, R221); a register access names its word only (R224), a partial write moves two sectors, a write-back one
(R226). -/
def State.nreqOf (s : State) (ni : Nat) (q : NReq) : NReq :=
  let sec := niMemory ni
  let d := s.destOf q sec
  { q with
    cls := classFor ni d q.op, dst := BitVec.ofNat 10 d, sec := sec,
    qual := if q.op = .regrd || q.op = .regwr then q.qual &&& 7 else q.qual,
    len := match q.op with | .wrp => 1 | .wb | .amo | .msg | .regrd | .regwr | .trace => 0 | _ => q.len }

/-! ### Routes and planes (R216, R232) -/

def planeOf (p : Nat) : Plane := ⟨p % 4, Nat.mod_lt _ (by decide)⟩
def routerId (r : Nat) : RouterId := ⟨r % 192, Nat.mod_lt _ (by decide)⟩

def entrySel (e : Nat) : Nat := if bit e 48 then bits e 47 24 else bits e 23 0
def entryForce (e : Nat) : Nat := bits e 50 49
/-- Planes an entry can select. -/
def entryPlanes (e : Nat) : List Nat := match entryForce e with | 1 => [0, 2] | 2 => [1, 3] | _ => [0, 1, 2, 3]
/-- The plane index of an address bit 8, or of the request answered (R216). -/
def entryPlane (e : Nat) (a8 : Bool) : Nat := match entryForce e with | 1 => 0 | 2 => 1 | _ => b2n a8

def State.routeOf (s : State) (ni d : Nat) : Nat := (tget 0 s.trellis.route (1024 * ni + d)).toNat
def State.putRoute (s : State) (ni d : Nat) (v : Word) : State :=
  s.modTrellis (fun t => {t with route := tput t.route (1024 * ni + d) v})

/-- The output codes of a packet message: 0–3 a mesh link, 4 + e the eport e, 20 into its own router. -/
def outLocal (e : Nat) : Nat := 4 + e
def outInject : Nat := 20

/-- An input's number: router, input (0–3 the links, 4 + e eport e), plane. -/
def wireKey (r i p : Nat) : Nat := 80 * r + 4 * i + p

/-- An NI puts a whole packet on its port; the router takes it in as a ROUTER_RECEIVE (R237, R240). -/
def State.launch (s : State) (ni p h0 h1 : Nat) (data : List Sector) : State :=
  let (r, e) := (niPort ni).getD (0, 0)
  (s.modTrellis (fun t => {t with wire := tmod [] t.wire (wireKey r (4 + e) p) (· ++ [⟨h0, h1, data, s.now⟩])})).emit
    (.packet (routerId r) (planeOf p) outInject (codeHalf h0) (codeHalf h1) data)

/-- Poison bits of a payload, bit i sector i's (R225). -/
def poisonBits (data : List (Sector × Bool)) : Nat := data.foldr (fun d w => b2n d.2 + 2 * w) 0

/-- The eport of an NI (R220). -/
def eportOf (n : Nat) : Nat := ((niPort n).getD (0, 0)).2

/-- A response as a command of a die link (R295, R296). -/
def rspCmd (cls op len tag st : Nat) (data : List (Sector × Bool)) : LinkCmd :=
  ⟨frameHalf0 cls true op len tag (poisonBits data) st false (!data.isEmpty), 0, data.map (fun d => if d.2 then 0 else d.1)⟩

/-! ### Into the endpoint (R296, R325, R329) -/

/-- A gate's answer to a request of its graft (R327, R329). -/
def State.graftReply (s : State) (x m : Nat) (tag : Nat) (op : TOp) (len : Nat) (st : Status) (data : List (Sector × Bool)) : State :=
  (s.linkSend x (s.moduleFor x m) false (rspCmd (classFor (niSite x m) 0 op).code op.code len tag st.code data)).emit
    (.graftRsp ⟨x % 16, Nat.mod_lt _ (by decide)⟩ (modId m) tag st data)

/-- A response for a graft's request arrives: the graft is answered once every packet of its request is, with the first
status that is not OK. -/
def State.graftBack (s : State) (x m tag : Nat) (st : Status) (data : List (Sector × Bool)) : State :=
  let mine := fun (p : GraftPart) => decide (p.tag.toNat = tag) && p.res.isNone
  match (s.gateOf x).out.find? (fun o => o.m.val = m && o.parts.any mine) with
  | none => s
  | some o =>
    let o' := {o with parts := o.parts.map (fun p => if mine p then {p with res := some (st, data)} else p)}
    if o'.parts.any (·.res.isNone) then
      s.modGate x (fun g => {g with out := g.out.map (fun q => if q = o then o' else q)})
    else
      let rs := o'.parts.filterMap (·.res)
      let bad := (rs.find? (fun r => r.1 ≠ .ok)).map (·.1)
      (s.modGate x (fun g => {g with out := g.out.erase o})).graftReply x m o.tag.toNat o.op o.len.val (bad.getD .ok)
        (if bad.isSome then [] else rs.flatMap (·.2))

/-- A response handed to the endpoint of the NI that asked: to its graft's gate, over its die link, or to the block of the
hub, which the message stands for. -/
def State.handRsp (s : State) (ni : Nat) (t : OutTag) (st : Status) (data : List (Sector × Bool)) : State :=
  match niLink ni with
  | none => s
  | some (a, m) =>
    if a < 16 && s.isGraft a then s.graftBack a m t.tag.toNat st data
    else s.linkSend a (s.moduleFor a m) false (rspCmd (classFor ni t.dst.toNat t.op).code t.op.code t.len.val t.tag.toNat st.code data)

/-- A request completed by its own NI: UNREACH, TIMEOUT, or HDRERR for a response whose half 1 is bad (R227, R229, R232,
R239). -/
def State.localDone (s : State) (ni : Nat) (t : OutTag) (st : Status) : State :=
  (s.emit (.rsp t.dst.toNat ni t.tag.toNat st [])).handRsp ni t st []

/-- A tag of an NI that is neither outstanding, nor quarantined, nor held. -/
def State.freshTag (s : State) (ni : Nat) : BitVec 12 :=
  let i := s.niOf ni
  BitVec.ofNat 12 (freeNum ((i.tags.map (·.tag) ++ i.quar ++ i.held.map (·.1.tag)).map (·.toNat)))

/-- A request through its route entry: charged, given its priority, sent; a request of a capped class that has no credit
is dropped (R232, R276–R279). -/
def State.sendReq (s : State) (ni : Nat) (q : NReq) (hbad : Bool) (data : List Sector) : State :=
  let e := s.routeOf ni q.dst.toNat
  if !bit e 51 then s.localDone ni ⟨q.tag, q.dst, q.op, q.len⟩ .unreach
  else
    let c := q.cls.code
    let v := s.niCls ni c
    let s := s.setCls ni c (v.charge c (q.len.val + 1))
    match v.priority c (q.len.val + 1) with
    | none => s
    | some pri =>
      (s.modNi ni (fun i => {i with tags := i.tags ++ [⟨q.tag, q.dst, q.op, q.len⟩]})).launch ni
        (entryPlane e (q.addr.getLsbD 2))
        (pktHalf0 (entrySel e) (eportOf q.dst.toNat) c pri ni q.tag.toNat false + 2 ^ 54 * b2n hbad) (reqHalf1 q)
        (fit 0 (reqSectors q.op q.len.val) data)

/-- A request at its NI: held while the route to its destination changes (R234), else sent. -/
def State.submit (s : State) (ni : Nat) (q : NReq) (hbad : Bool) (data : List Sector) : State :=
  if thas (s.niOf ni).change q.dst.toNat then s.modNi ni (fun i => {i with held := i.held ++ [(q, hbad, data)]})
  else s.sendReq ni q hbad data

/-- A request put into an NI by its endpoint; one whose tag is in use or quarantined is no request it may make, and changes
nothing (R238, R239). -/
def State.inject (s : State) (ni : Nat) (q : NReq) (hbad : Bool) (data : List Sector) : State :=
  let i := s.niOf ni
  if i.tags.any (fun t => t.tag = q.tag) || i.quar.contains q.tag || i.held.any (fun h => h.1.tag = q.tag) then s
  else s.submit ni (s.nreqOf ni q) hbad data

/-- A request of an endpoint of the hub, under a tag of its NI's choice. -/
def State.ask (s : State) (ni dst : Nat) (op : TOp) (len pa qual : Nat) (data : List Sector) : State :=
  let q : NReq := ⟨op, .bulk, ⟨len % 4, Nat.mod_lt _ (by decide)⟩, BitVec.ofNat 10 dst, BitVec.ofNat 42 (pa / 64), BitVec.ofNat 6 qual,
    s.freshTag ni, false⟩
  s.submit ni (s.nreqOf ni q) false data

/-! ### Requests recorded and answered (R225, R227, R240, R242) -/

/-- n more packets answered or absorbed by a bung (R243). -/
def State.bungCount (s : State) (ni n : Nat) : State :=
  s.modNi ni (fun i => {i with absorbed := BitVec.ofNat 32 (satAdd 0xFFFFFFFF i.absorbed.toNat n)})

/-- NIs whose work a module of a die carries (R306, R316). -/
def State.nisOn (s : State) (a m : Nat) : List Nat :=
  ((List.range (linkModules a)).filter (fun i => s.moduleFor a i = m)).map (linkNi a)
/-- A tag of an NI's link that no unanswered request over it has. -/
def State.freshLink (s : State) (ni : Nat) : BitVec 12 :=
  match niLink ni with
  | none => 0
  | some (a, m) => BitVec.ofNat 12 (freeNum ((s.nisOn a (s.moduleFor a m)).flatMap (fun n => (s.niOf n).record.map (·.ltag.toNat))))

/-- A request recorded as delivered into an endpoint (R240). -/
def State.recordAs (s : State) (ni : Nat) (u : Unanswered) : State :=
  let l := s.freshLink ni
  s.modNi ni (fun i => if i.record.any (fun v => v.src = u.src && v.tag = u.tag) then i
    else {i with record := i.record ++ [{u with ltag := l}]})
/-- A request as its sender's NI would have sent it. -/
def State.asSent (s : State) (ni : Nat) (src : NI) (tag : BitVec 12) (len : Fin 4) (op : TOp) (pa : Nat) : Unanswered :=
  ⟨src, tag, len, op, classFor src.toNat ni op, decide (entryPlane (s.routeOf src.toNat ni) (bit pa 8) = 1), BitVec.ofNat 42 (pa / 64), 0⟩
def State.recordReq (s : State) (ni : Nat) (src : NI) (tag : BitVec 12) (len : Fin 4) (op : TOp) (pa : Nat) : State :=
  s.recordAs ni (s.asSent ni src tag len op pa)

/-- The response packet of a request, `hbad` when the half that came with it is bad (R229): its class, `len` and plane index are the request's, its route that of the NI's
entry for the requester, its payload an OK read's (R216, R218, R223, R225, R232). -/
def State.respond (s : State) (ni : Nat) (u : Unanswered) (st : Status) (data : List (Sector × Bool)) (hbad : Bool) : State :=
  let e := s.routeOf ni u.src.toNat
  let ds := fit (0, false) (if st = .ok then rspSectors u.op u.len.val else 0) data
  s.launch ni (2 + entryPlane e u.plane) (pktHalf0 (entrySel e) (eportOf u.src.toNat) u.cls.code true ni u.tag.toNat true + 2 ^ 54 * b2n hbad)
    (rspHalf1 u.op.code u.len.val st.code (poisonBits ds) u.src.toNat) (ds.map (fun d => if d.2 then 0 else d.1))

/-- An entry of an NI's record answered: it is cleared as its response enters the router (R227, R240). -/
def State.answerAs (s : State) (ni : Nat) (u : Unanswered) (st : Status) (data : List (Sector × Bool)) : State :=
  (s.modNi ni (fun i => {i with record := i.record.erase u})).respond ni u st data false

/-- A request answered by its NI's own block. -/
def State.answer (s : State) (ni : Nat) (src tag : Nat) (st : Status) (data : List (Sector × Bool)) : State :=
  let s := s.emit (.rsp ni src tag st data)
  match (s.niOf ni).record.find? (fun u => u.src.toNat = src && u.tag.toNat = tag) with
  | some u => s.answerAs ni u st data
  | none => s

/-- A request that never enters the record answered: by a bung, or by an NI that does not take it (R227, R229, R242). -/
def State.turnAway (s : State) (ni : Nat) (u : Unanswered) (st : Status) : State :=
  (s.emit (.rsp ni u.src.toNat u.tag.toNat st [])).respond ni u st [] false

/-- A request into a linked die answered by the die, over its link; the answer of any other endpoint enters at once. -/
def State.dieAnswer (s : State) (ni : Nat) (u : Unanswered) (st : Status) (data : List (Sector × Bool)) : State :=
  match niLink ni with
  | some (a, m) => s.linkSend a (s.moduleFor a m) true (rspCmd u.cls.code u.op.code u.len.val u.ltag.toNat st.code data)
  | none => s.answerAs ni u st data

end Sys2Proof.Machine
end

