-- ==== Sys2Proof/Machine/Array.lean ====
section
/-! DEFINITION. The cask arrays (R186, R193–R195, R199, R206–R209, R286, R450, R562): who may access what, reading and
writing a sector, poison, key slots, reserve copies. -/

namespace Sys2Proof.Machine

/-! ### Sectors -/

/-- A sector holds the poison marker (R194): outside the usable range every sector starts marked (R198), inside it as
`poisBase` says (R452). -/
def Cask.marked (c : Cask) (sec : Nat) : Bool :=
  (c.poisBase || decide (usableEnd / 64 ≤ sec)) != c.poisFlip.contains sec
/-- The marker of a sector set or cleared. -/
def Cask.setMark (c : Cask) (sec : Nat) (p : Bool) : Cask :=
  if c.marked sec = p then c
  else if c.poisFlip.contains sec then {c with poisFlip := c.poisFlip.filter (· ≠ sec)}
  else {c with poisFlip := sec :: c.poisFlip}

/-- A sector reads as poisoned: it holds the marker, or the die cannot correct it (R193, R194). -/
def Cask.poisoned (c : Cask) (sec : Nat) : Bool := c.marked sec || tget 0 c.health sec = 2

/-- The 64 B of a sector as stored. -/
def Cask.raw (c : Cask) (sec : Nat) : Sector := BitVec.ofNat 512 (c.mem.readNat (64 * sec) 64)

/-- Where a sector lies in the array: on its spare frame when its frame is retired (R203). -/
def Cask.loc (c : Cask) (sec : Nat) : Nat :=
  match tfind c.remap (sec / 1024) with
  | some f => 1024 * f + sec % 1024
  | none => sec

/-- The sector that stands at a place of the array: the reverse of `loc`. -/
def Cask.logical (c : Cask) (a : Nat) : Nat :=
  match c.remap.find? (fun r => r.2 = a / 1024) with
  | some r => 1024 * r.1 + a % 1024
  | none => a

/-- The 64 B as the array stores them: ciphertext under the slot they were written under, with the line's tweak; plaintext
under slot 0 (R199). -/
def Cask.stored (c : Cask) (k a : Nat) : Sector :=
  match tget 0 c.ktag a with
  | 0 => c.raw a
  | s => Config.encrypt s (2 ^ 30 * k + c.logical a) (c.raw a)

/-- The plaintext of a sector under a key slot: the bytes written, when they were written under the same slot; what that slot
makes of the stored bytes, otherwise (R199). -/
def Cask.plain (c : Cask) (k sec kslot : Nat) : Sector :=
  let a := c.loc sec
  if tget 0 c.ktag a = kslot then c.raw a
  else if kslot = 0 then c.stored k a else Config.decrypt kslot (2 ^ 30 * k + sec) (c.stored k a)

/-- A sector read: its data, 0 when it is poisoned (R193, R194). -/
def Cask.readSector (c : Cask) (k sec kslot : Nat) : Sector × Bool :=
  if c.poisoned (c.loc sec) then (0, true) else (c.plain k sec kslot, false)

/-- A full-sector write: it replaces the marker or the failing contents (R195), under its key slot (R199). -/
def Cask.writeSector (c : Cask) (sec kslot : Nat) (v : Sector) : Cask :=
  let a := c.loc sec
  let c := c.setMark a false
  { c with mem := c.mem.writeNat (64 * a) 64 v.toNat, health := tdel c.health a,
           ktag := if kslot = 0 then tdel c.ktag a else tput c.ktag a kslot }

/-- The poison marker written into an array sector (R194). -/
def Cask.markSector (c : Cask) (a : Nat) : Cask :=
  let c := c.setMark a true
  {c with mem := c.mem.clear (64 * a) (64 * a + 64), ktag := tdel c.ktag a}

/-- The poison marker written (R194). -/
def Cask.poisonSector (c : Cask) (sec : Nat) : Cask := c.markSector (c.loc sec)

/-- The key slot a sector was written under (R199). -/
def Cask.slotTag (c : Cask) (sec : Nat) : Nat := tget 0 c.ktag (c.loc sec)

/-- The bytes enabled in mask replaced. -/
def mergeSector (old new : Sector) (mask : Word) : Sector :=
  BitVec.ofNat 512 (leNat ((List.range 64).map (fun i =>
    if mask.toNat.testBit i then BitVec.ofNat 8 (new.toNat >>> (8 * i)) else BitVec.ofNat 8 (old.toNat >>> (8 * i)))))

/-- A write under byte enables: masked where some are off, and then discarded where the sector reads as poisoned (R190,
R195). -/
def Cask.maskedWrite (c : Cask) (k sec kslot : Nat) (mask : Word) (v : Sector) : Cask :=
  if mask = BitVec.allOnes 64 then c.writeSector sec kslot v
  else if c.poisoned (c.loc sec) then c else c.writeSector sec kslot (mergeSector (c.plain k sec kslot) v mask)

/-- A read counted in OD 0x2400 or 0x2401 (R205). -/
def Cask.countRead (c : Cask) (sec : Nat) : Cask :=
  if c.poisoned (c.loc sec) then {c with unc := c.unc + 1}
  else if tget 0 c.health (c.loc sec) = 1 then {c with corr := c.corr + 1} else c

/-- What a read tells of its row (R202): 1 a corrected sector, kept for 24 h, 2 an uncorrectable one. -/
def Cask.rowReport (c : Cask) (row now : Nat) : Nat → Cask
  | 1 => {c with rowCorr := (row, now) :: c.rowCorr.filter (fun e => now < e.2 + 86400000000000)}
  | 2 => {c with rowUnc := if c.rowUnc.contains row then c.rowUnc else row :: c.rowUnc}
  | _ => c

/-- A read counted and reported of its row, a corrected one logged (R202, R205, R547). -/
def State.countRead (s : State) (k sec : Nat) : State :=
  let c := s.caskOf k
  let a := c.loc sec
  let s := s.modCask k (fun c => (c.countRead sec).rowReport (rowKey (placeOf (64 * a))) s.now (tget 0 c.health a))
  if !c.poisoned (c.loc sec) && tget 0 c.health (c.loc sec) = 1 then
    s.logEvent 1 (dieCask k) 0x2400 (k * 2 ^ 36 + 64 * sec) 0
  else s

/-- A reserve-copy redirect counted and logged (R205, R209, R547). -/
def State.countRedirect (s : State) (k i pa : Nat) : State :=
  (({s with reserve := tmod {} s.reserve i (fun r => {r with hits := BitVec.ofNat 8 (satAdd 255 r.hits.toNat 1)})}).modCask k
    (fun c => {c with redirects := c.redirects + 1})).logEvent 1 (dieCask k) 0x2405 pa 0

/-! ### Reserve copies (R206–R209) -/

def Reserve.size (r : Reserve) : Nat := if r.gran then 2 ^ 30 else 2 ^ 21
def Reserve.prim (r : Reserve) : Nat := r.pbase.toNat * 2 ^ 21
def Reserve.copy (r : Reserve) : Nat := r.cbase.toNat * 2 ^ 21
def inRange (a base size : Nat) : Bool := base ≤ a && a < base + size

/-- Enabled entries with their numbers. -/
def State.reserves (s : State) : List (Nat × Reserve) := s.reserve.filter (fun p => p.2.mode ≠ 0)
/-- The enabled entry whose primary range holds an address. -/
def State.primaryOf (s : State) (pa : Nat) : Option (Nat × Reserve) :=
  s.reserves.find? (fun p => inRange pa p.2.prim p.2.size)
/-- Whether a write to an address is refused under R208; `fw` marks a firmware `phys` write. -/
def State.reserveBars (s : State) (pa : Nat) (fw : Bool) : Bool :=
  s.reserves.any (fun p => (inRange pa p.2.prim p.2.size && !(fw && p.2.mode = 2)) || inRange pa p.2.copy p.2.size)

/-! ### Mirror ranges (R561–R563) -/

def mirrorBase (w : Word) : Nat := bits w.toNat 47 21 * 2 ^ 21
def mirrorSize (w : Word) : Nat := bits w.toNat 62 48 * 2 ^ 21
/-- The enabled mirror entry that holds an address. -/
def State.mirrorOf (s : State) (pa : Nat) : Option Nat :=
  (s.twin.entry.find? (fun p => bit p.2.toNat 0 && inRange pa (mirrorBase p.2) (mirrorSize p.2))).map (·.1)
/-- Whether a write by a master other than the twin port is refused: on a follower (R562), or in a range a restore is
filling (R563). -/
def State.mirrorBars (s : State) (pa : Nat) : Bool :=
  match s.mirrorOf pa with
  | none => false
  | some i => s.twin.role = 2 ||
      s.twin.push.any (fun p => p.restore && p.entry = i &&
        inRange pa (mirrorBase (tget 0 s.twin.entry i) + p.off) p.len)

/-! ### Access check -/

/-- Who accesses a cask: rights on the spare range, firmware `phys` writes, the twin port; and whose writes these are, where
their performance is waited for (R171, R272): 1 + e of engine e, 97 or 98 of IOA or IOB, else 0. -/
structure Rights where
  mgmt : Bool := false
  fw : Bool := false
  twin : Bool := false
  own : Nat := 0
  /-- the master NI that is charged (R276), 0x3FF for none; and the slice in `qual` (R224), 64 for none -/
  ni : Nat := 0x3FF
  slice : Nat := 64
  deriving DecidableEq, Repr

/-- The status an access to one sector receives before it reaches the array (R186, R208, R241, R450, R562); the
count it makes is added by `State.refuse`. -/
def State.memStatus (s : State) (rt : Rights) (wr : Bool) (pa kslot : Nat) : Status :=
  match regionOf pa with
  | .hub _ => .noowner
  | .hole _ => .refused
  | .spare k a =>
    if s.bunged (memNi k a) then .bunged else if rt.mgmt then .ok else .refused
  | .usable k a =>
    if s.bunged (memNi k a) then .bunged
    else if (s.slotOf kslot).state = 2 then .refused
    else if wr && (s.reserveBars pa rt.fw || (!rt.twin && s.mirrorBars pa)) then .refused
    else .ok

/-- A refused access counted: under its key slot (R450), or against its cask in OD 0x2406 (R186, R205, R208, R562). -/
def State.refuse (s : State) (rt : Rights) (pa kslot : Nat) : State :=
  match regionOf pa with
  | .usable k _ =>
    if (s.slotOf kslot).state = 2 then
      {s with sec := {s.sec with slot := tmod {} s.sec.slot kslot (fun x => {x with refusedN := x.refusedN + 1})}}
    else if s.reserveBars pa rt.fw || (s.twin.role = 2 && (s.mirrorOf pa).isSome) then
      s.modCask k (fun c => {c with refusedN := c.refusedN + 1})
    else s
  | .spare k _ => if rt.mgmt then s else s.modCask k (fun c => {c with refusedN := c.refusedN + 1})
  | .hole (some k) => s.modCask k (fun c => {c with refusedN := c.refusedN + 1})
  | _ => s

/-! ### Charging (R285, R286) -/

/-- Requests put into a channel controller's queue: one per sector served. -/
def State.charge (s : State) (pa n : Nat) (wr : Bool) : State :=
  (List.range n).foldl (fun s i =>
    match regionOf (pa + 64 * i) with
    | .usable k a | .spare k a =>
      s.modCask k (fun c => c.modPc (placeOf a).pc (fun p =>
        {p with queue := p.queue ++ [⟨a / 64, accountOf c a, s.now, wr⟩]}))
    | _ => s) s

/-- The array read of one sector, redirected to its reserve copy at once (R193, R209): the form the hub's own agents
use. -/
def State.arrayRead (s : State) (pa kslot : Nat) : (Sector × Bool) × State :=
  let look := fun (s : State) (pa : Nat) =>
    match regionOf pa with
    | .usable k a | .spare k a =>
      ((s.caskOf k).readSector k (a / 64) kslot, s.countRead k (a / 64))
    | _ => ((0, true), s)
  let one := fun (s : State) (pa : Nat) => let (v, s) := look s pa; (v, s.charge pa 1 false)
  match s.primaryOf pa with
  | some (i, r) =>
    let cp := r.copy + (pa - r.prim)
    let cst := s.memStatus {mgmt := true} false cp kslot
    if r.mode = 2 then
      if cst = .ok then one s cp else one s pa
    else
      let (v, s) := look s pa
      if v.2 && r.mode = 1 then
        let s := s.countRedirect (pa / 2 ^ 36) i pa
        if cst = .ok then
          let (w, s) := one s cp
          (if w.2 then v else w, s)
        else (v, s)
      else (v, s.charge pa 1 false)
  | none => one s pa

/-- The array write of one sector, and its charge; the writer gets the cask's number. -/
def State.arrayWrite (s : State) (pa : Nat) (f : Nat → Cask → Nat → Cask) : State :=
  match regionOf pa with
  | .usable k a | .spare k a => (s.modCask k (fun c => f k c (a / 64))).charge pa 1 true
  | _ => s

end Sys2Proof.Machine
end

