-- ==== Sys2Proof/Machine/Home.lean ====
section
/-! DEFINITION. Caching agents' lines and the home agents (R253–R266): the directory, secondary requests, blocking,
parked requests, atomics, and the accesses of the hub's own agents, which are performed in one step. -/

namespace Sys2Proof.Machine

/-! ### Lines of a die -/

/-- The reservation key of a physical line (R99): scratch lines come first. -/
def lineKey (line : Nat) : Nat := 2 ^ 48 + line

/-- Reservations on a line end. -/
def Die.dropResv (d : Die) (line : Nat) : Die :=
  { d with core := d.core.map (fun p => (p.1, {p.2 with thr := p.2.thr.map (fun q =>
      (q.1, if q.2.resv = some (lineKey line) then {q.2 with resv := none} else q.2))})) }

/-- An L2 copy dropped, with every L1 copy and reservation (R44, R99). -/
def Die.dropLine (d : Die) (line : Nat) : Die := {d.dropResv line with l2 := tdel d.l2 line}

/-- The newest data of a line the directory records in M at a site: its L2, its write-back buffer, or a transfer not
yet complete; poison when nothing holds it (R260). -/
def State.mData (s : State) (x line : Nat) : Option (Sector × Bool) :=
  let d := s.dieOf x
  match tfind d.l2 line with
  | some l => some (l.data, l.pois)
  | none =>
    match tfind d.wbbuf line with
    | some l => some (l.data, l.pois)
    | none => (tfind s.inflight line).map (fun l => (l.data, l.pois))

/-! ### The directory (R255–R257) -/

def Cask.dirFind (c : Cask) (line : Nat) : Option (Nat × DirEntry) := c.dir.find? (fun p => p.2.line = line)
def Cask.dirDel (c : Cask) (line : Nat) : Cask := {c with dir := c.dir.filter (fun p => p.2.line ≠ line)}
def lineOff (line : Nat) : Nat := 64 * line % 2 ^ 36
def Cask.blocked (c : Cask) (line : Nat) : Bool := c.txns.any (fun t => t.lines.contains line)
def Cask.blockedCount (c : Cask) : Nat := (c.txns.map (fun t => t.lines.length)).foldl (· + ·) 0

/-- The first free way of a line's set. -/
def Cask.freeWay (c : Cask) (line : Nat) : Option Nat :=
  let base := 16 * dirSet (lineOff line)
  ((List.range 16).map (base + ·)).find? (fun i => !thas c.dir i)

/-- The least recently allocated way of a line's set whose line is not blocked (R256). -/
def Cask.victim (c : Cask) (line : Nat) : Option DirEntry :=
  let base := 16 * dirSet (lineOff line)
  let es := (c.dir.filter (fun p => base ≤ p.1 && p.1 < base + 16 && !c.blocked p.2.line)).map (·.2)
  es.foldl (fun a e => match a with | none => some e | some b => some (if e.born < b.born then e else b)) none

/-- An entry set for a line, in a free way when it has none. -/
def Cask.dirRecord (c : Cask) (line : Nat) (m : Bool) (holders : BitVec 16) : Cask :=
  match c.dirFind line with
  | some (i, e) => {c with dir := tput c.dir i {e with m := m, holders := holders}}
  | none =>
    match c.freeWay line with
    | some i => {c with dir := tput c.dir i ⟨m, holders, line, c.born, .ok⟩, born := c.born + 1}
    | none => c

/-- A line's holders recorded; no holder frees its entry. -/
def Cask.dirPut (c : Cask) (line : Nat) (m : Bool) (holders : BitVec 16) : Cask :=
  if holders = 0 then c.dirDel line else c.dirRecord line m holders

/-- A way kept for a line that a request in progress is to record. -/
def Cask.dirKeep (c : Cask) (line : Nat) : Cask :=
  match c.dirFind line with | some _ => c | none => c.dirRecord line false 0
/-- A way kept for nothing any more is freed. -/
def Cask.dirSweep (c : Cask) (line : Nat) : Cask :=
  match c.dirFind line with | some (_, e) => if e.holders = 0 then c.dirDel line else c | none => c

def siteBit (x : Nat) : BitVec 16 := BitVec.ofNat 16 (2 ^ x)
def holdersOf (h : BitVec 16) : List Site := (List.finRange 16).filter (fun x => h.getLsbD x.val)
/-- Whether a site is a caching agent (R253). -/
def State.caching (s : State) (x : Nat) : Bool := !s.isGraft x || (s.gateOf x).cache

/-- The holder of a line in M other than the requester. -/
def otherM (e : Option (Nat × DirEntry)) (rs : Option Nat) : List Site :=
  match e with
  | some (_, e) => if e.m then (holdersOf e.holders).filter (fun x => some x.val ≠ rs) else []
  | none => []
/-- S holders other than the requester. -/
def otherS (e : Option (Nat × DirEntry)) (rs : Option Nat) : List Site :=
  match e with
  | some (_, e) => if e.m then [] else (holdersOf e.holders).filter (fun x => some x.val ≠ rs)
  | none => []

/-- The secondary requests a request needs before its array access (R259). -/
def needs (op : TOp) (e : Option (Nat × DirEntry)) (rs : Option Nat) : List (Site × TOp) :=
  let m := otherM e rs
  match op with
  | .rd => m.map (·, .rd)
  | .rds => m.map (·, .rds)
  | .rdx => m.map (·, .rdx) ++ (otherS e rs).map (·, .snp)
  | .wr | .wri | .wrpoi => (otherM e none ++ otherS e none).map (·, .snp)
  | .wrp => m.map (·, .rdx) ++ (otherS e none).map (·, .snp)
  | .stash => m.map (·, .snp) ++ (otherS e none).map (·, .stash)
  | .amo => (otherM e none).map (·, .rdx) ++ (otherS e none).map (·, .snp)
  | _ => []

def caskIdOf (line : Nat) : CaskId := ⟨64 * line / 2 ^ 36 % 12, Nat.mod_lt _ (by decide)⟩

/-- A line written as the poison marker by the coherence machinery, charged (R286), and counted where it loses data
(R258). -/
def State.poisonLine (s : State) (line : Nat) (count : Bool) : State :=
  let s := s.arrayWrite (64 * line) (fun _ c a => c.poisonSector a)
  if count then s.modCask (64 * line / 2 ^ 36) (fun c => {c with linesPois := c.linesPois + 1}) else s

/-! ### Secondary requests sent (R218, R224, R260) -/

/-- A tag not in use into a graft. -/
def Gate.nextTag (g : Gate) : Nat := freeNum (g.into.map (·.tag.toNat) ++ g.late.map (·.2.toNat))

/-- A request put on a graft's link by its gate (R327). -/
def State.intoGraft (s : State) (x : Site) (m : Fin 8) (op : TOp) (tag addr len : Nat) (data : List Sector) : State :=
  (s.linkSend x.val m.val false ⟨frameHalf0 (classFor 0 (niSite x.val m.val) op).code false op.code len tag 0 0
    (op = .snp) (!data.isEmpty), frameHalf1 (addr / 64) 0, data⟩).emit (.toGraft x m op tag addr len data)

/-- A secondary request sent into a caching graft (R260, R328). -/
def State.snoopGraft (s : State) (x : Site) (op : TOp) (line : Nat) (push : Sector) : State :=
  let m : Fin 8 := modId (s.moduleFor x.val (l2Module (64 * line)))
  let ni := memNi (64 * line / 2 ^ 36) (64 * line % 2 ^ 36)
  let tag := (s.gateOf x.val).nextTag
  (s.modGate x.val (fun g => { g with
    into := g.into ++ [⟨m, BitVec.ofNat 12 tag, 0, BitVec.ofNat 10 ni, op, 0, some (caskIdOf line, line), m.val⟩] })).intoGraft x m op tag
    (64 * line) 0 (if op = .stash then [push] else [])

/-- Secondary requests sent through the memory NI that owns the line: `qual` of a SNP is its type, of the others the
requester's slice, which a home agent is not told (a free value, log 44). -/
def State.sendSnoops (s : State) (k : Nat) (line : Nat) (ss : List (Site × TOp)) (push : Option Sector) : State :=
  ss.foldl (fun s p =>
    let q := if p.2 = .snp then 0 else Config.freeNat s.freeCtr 14 % 64
    let d := if p.2 = .stash then push else none
    (s.bump.emit (.snoop ⟨k % 12, Nat.mod_lt _ (by decide)⟩ p.1 p.2 (64 * line) d)).ask
      (memNi k (64 * line % 2 ^ 36)) (niSite p.1.val 0) p.2 0 (64 * line) q d.toList) s

/-- A line whose holders are not known: poisoned and counted, its entry freed, and blocked while every site named drops its
copy (R257, R261, R267). -/
def State.purgeLine (s : State) (k line : Nat) (xs : List Site) : State :=
  let s := (s.poisonLine line true).modCask k (fun c => { c.dirDel line with
    txns := if xs.isEmpty then c.txns else c.txns ++ [⟨.purge, [line], xs.map (fun x => ⟨line, x, .snp⟩), [], []⟩] })
  s.sendSnoops k line (xs.map (·, .snp)) none

/-- The check bits of a line's entry judged as it is used: a single error is corrected and counted (R257). -/
def State.dirCheck (s : State) (k line : Nat) : State :=
  match (s.caskOf k).dirFind line with
  | some (i, e) =>
    if e.err = .single then s.modCask k (fun c => {c with dir := tput c.dir i {e with err := .ok}, dirCorr := c.dirCorr + 1}) else s
  | none => s
/-- Whether a line's entry is uncorrectable. -/
def Cask.dirBad (c : Cask) (line : Nat) : Bool :=
  match c.dirFind line with | some (_, e) => decide (e.err = .uncorrectable) | none => false

/-! ### Atomics (R264) -/

/-- The operation of an AMO request on the old value; none where `aop`, `asz` or `aoff` is not allowed. -/
def amoApply (operand old : Sector) : Option (Nat × Sector) :=
  let fld := fun (lo n : Nat) => (operand.toNat >>> (8 * lo)) % 2 ^ (8 * n)
  let aop := fld 16 1
  let asz := fld 17 1
  let aoff := fld 18 1
  if (asz ≠ 4 ∧ asz ≠ 8) ∨ 10 < aop ∨ aoff % asz ≠ 0 ∨ 64 < aoff + asz ∨ (aop = 10 ∧ asz ≠ 4) then none
  else
    let w := 8 * asz
    let o := (old.toNat >>> (8 * aoff)) % 2 ^ w
    let x := fld 0 asz
    let cmp := fld 8 asz
    let sg := fun (v : Nat) => if v < 2 ^ (w - 1) then (v : Int) else (v : Int) - (2 ^ w : Nat)
    let r := match aop with
      | 0 => x
      | 1 => (o + x) % 2 ^ w
      | 2 => o &&& x
      | 3 => o ||| x
      | 4 => o ^^^ x
      | 5 => if sg o < sg x then x else o
      | 6 => if sg x < sg o then x else o
      | 7 => max o x
      | 8 => min o x
      | 9 => if o = cmp then x else o
      | _ => (rneF32 ((fp32.decode o).add (fp32.decode x))).1
    let n := old.toNat - o * 2 ^ (8 * aoff) + r * 2 ^ (8 * aoff)
    some (o, BitVec.ofNat 512 n)

/-! ### Answers -/

/-- The NI that stands for the hub's own agents, whose requests nobody answers. -/
def agentNi : NI := 0x3FF

/-- The answer to a write of a line that waits in the sender's write-back buffer frees it there, whatever it says (R254). -/
def State.wbFree (s : State) (r : HomeReq) : State :=
  match r.op, niSiteOf r.q.src.toNat with
  | .wb, some x | .wrpoi, some x => s.modDie x (fun d => {d with wbbuf := tdel d.wbbuf (r.q.pa.toNat / 64)})
  | _, _ => s

/-- The home agent's answer to a request. A grant is in transit until its agent takes it in. -/
def State.homeAnswer (s : State) (r : HomeReq) (st : Status) (data : List (Sector × Bool)) : State :=
  let pa := r.q.pa.toNat
  let line := pa / 64
  let s := if r.q.src = agentNi then s else s.answer (memNi (pa / 2 ^ 36) (pa % 2 ^ 36)) r.q.src.toNat r.q.tag.toNat st data
  let s := s.wbFree r
  match r.op, niSiteOf r.q.src.toNat with
  | .rds, some x =>
    if s.isGraft x || st ≠ .ok then s
    else s.modCask (pa / 2 ^ 36) (fun c => {c with grants := c.grants ++ (List.range data.length).map (fun i => (line + i, x))})
  | .rdx, some x =>
    if st ≠ .ok then s
    else
      let fl := (List.zip (List.range data.length) data).foldl (fun t p =>
        tput t (line + p.1) (⟨.m, p.2.1, p.2.2, r.q.kslot.val⟩ : Line)) s.inflight
      let s := {s with inflight := fl}
      if s.isGraft x then s
      else s.modCask (pa / 2 ^ 36) (fun c => {c with grants := c.grants ++ (List.range data.length).map (fun i => (line + i, x))})
  | _, _ => s

def HomeReq.lines (r : HomeReq) : List Nat := (List.range (r.q.len.val + 1)).map (r.q.pa.toNat / 64 + ·)
/-- The lines of a WRP, which moves one sector (R226). -/
def HomeReq.homeLines (r : HomeReq) : List Nat :=
  match r.op with
  | .wrp | .amo | .wb | .trace => [r.q.pa.toNat / 64]
  | _ => r.lines

def sectorAt (d : List Sector) (i : Nat) : Sector := nth 0 d i

/-- The array's own sectors of a read: what they give and what their reading counts. -/
def State.plainRead (s : State) (k : Nat) (r : HomeReq) : List (Sector × Bool) × State :=
  r.lines.foldl (fun (acc, s) l =>
    let a := 64 * l % 2 ^ 36 / 64
    (acc ++ [(State.caskOf s k).readSector k a r.q.kslot.val], State.countRead s k a)) ([], s)

/-- A read reissued at its copy, through the memory NI of the primary (R209, R218). -/
def State.redirect (s : State) (k : Nat) (r : HomeReq) (e : Reserve) (data : List (Sector × Bool)) (first : Bool) : State :=
  let cp := e.copy + (r.q.pa.toNat - e.prim)
  let ni := memNi k (r.q.pa.toNat % 2 ^ 36)
  let s := s.modCask k (fun c => {c with redirs := c.redirs ++ [⟨r, data, first⟩]})
  (s.emit (.req ni (memNi (cp / 2 ^ 36) (cp % 2 ^ 36)) .rd cp r.q.len.val r.q.tag.toNat r.q.kslot.val [] [])).ask ni 0x80 .rd
    r.q.len.val cp r.q.kslot.val []

/-- A read's answer, or its reissue to the reserve copy (R209). `held` gives the lines an M holder has returned. -/
def State.homeRead (s : State) (k : Nat) (r : HomeReq) (held : List (Nat × Sector × Bool)) : State :=
  match s.primaryOf r.q.pa.toNat, held with
  | some (i, e), [] =>
    if e.mode = 2 then s.redirect k r e [] true
    else
      let (data, s) := s.plainRead k r
      if data.any (·.2) && e.mode = 1 then (s.countRedirect k i r.q.pa.toNat).redirect k r e data false
      else (s.charge r.q.pa.toNat (r.q.len.val + 1) false).homeAnswer r .ok data
  | _, _ =>
    let (data, s) := r.lines.foldl (fun (acc, s) l =>
      match held.find? (fun h => h.1 = l) with
      | some (_, v, p) => (acc ++ [(if p then 0 else v, p)], if p then s.poisonLine l false else s)
      | none => let (v, s) := s.arrayRead (64 * l) r.q.kslot.val; (acc ++ [v], s)) ([], s)
    s.homeAnswer r .ok data

/-- The array access, the directory and the answer of a request whose secondary responses are in (R259). -/
def State.homeFinish (s : State) (k : Nat) (r : HomeReq) (held : List (Nat × Sector × Bool)) : State :=
  let gone := s.bunged r.q.src.toNat
  let who := match niSiteOf r.q.src.toNat with
    | some x => if s.caching x && !gone then siteBit x else 0
    | none => 0
  let ks := r.q.kslot.val
  let lines := r.homeLines
  let indexed := List.zip (List.range lines.length) lines
  -- data an M holder gave up is written to the array where the rule says so
  let back := fun (s : State) (l : Nat) =>
    match held.find? (fun h => h.1 = l) with
    | some (_, v, p) => if p then s.poisonLine l false else s.arrayWrite (64 * l) (fun _ c a => c.writeSector a ks v)
    | none => s
  match r.op with
  | .rd => s.homeRead k r held
  | .rds =>
    let s := lines.foldl back s
    let s := lines.foldl (fun s l => s.modCask k (fun c =>
      let old := match c.dirFind l with | some (_, e) => e.holders | none => 0
      c.dirPut l false (old ||| who))) s
    s.homeRead k r held
  | .rdx =>
    -- what a bunged site is granted never reaches it: the line is lost with it (R266)
    let s := lines.foldl (fun s l => s.modCask k (fun c => c.dirPut l true who)) s
    let s := s.homeRead k r held
    if gone && (niSiteOf r.q.src.toNat).isSome then lines.foldl (fun s l => s.poisonLine l true) s else s
  | .wr | .wri | .wrpoi =>
    let s := indexed.foldl (fun s p =>
      let s := s.modCask k (fun c => c.dirDel p.2)
      s.arrayWrite (64 * p.2) (fun _ c a =>
        if r.op = .wrpoi then c.poisonSector a else c.writeSector a ks (sectorAt r.data p.1))) s
    s.homeAnswer r .ok []
  | .stash =>
    let s := indexed.foldl (fun s p =>
      let e := (s.caskOf k).dirFind p.2
      let shared := match e with | some (_, e) => !e.m | none => false
      if shared then s
      else
        let s := s.modCask k (fun c => c.dirDel p.2)
        s.arrayWrite (64 * p.2) (fun _ c a => c.writeSector a ks (sectorAt r.data p.1))) s
    s.homeAnswer r .ok []
  | .wrp =>
    let l := r.q.pa.toNat / 64
    let s := s.modCask k (fun c => c.dirDel l)
    let s := match held.find? (fun h => h.1 = l) with
      | some (_, v, p) =>
        if p then s.poisonLine l false
        else s.arrayWrite (64 * l) (fun _ c a => c.writeSector a ks (mergeSector v (sectorAt r.data 0) r.mask))
      | none => s.arrayWrite (64 * l) (fun k c a => c.maskedWrite k a ks r.mask (sectorAt r.data 0))
    s.homeAnswer r .ok []
  | .amo =>
    let l := r.q.pa.toNat / 64
    let s := s.modCask k (fun c => c.dirDel l)
    let s := back s l
    let (v, s) := s.arrayRead (64 * l) ks
    if v.2 then s.homeAnswer r .ok [(0, true)]
    else match amoApply (sectorAt r.data 0) v.1 with
      | some (o, n) =>
        (s.arrayWrite (64 * l) (fun _ c a => c.writeSector a ks n)).homeAnswer r .ok [(BitVec.ofNat 512 o, false)]
      | none => s.homeAnswer r .refused []
  | _ => s.homeAnswer r .ok []

/-! ### Starting, parking, retrying (R256, R261) -/

def State.park (s : State) (k : Nat) (r : HomeReq) : State := s.modCask k (fun c => {c with parked := c.parked ++ [r]})

/-- A request that needs n more blocked lines waits: the limit is reached, or an earlier request waits for it (R261). -/
def Cask.atLimit (c : Cask) (n : Nat) : Bool := decide (1024 < c.blockedCount + n) || c.parked.any (·.lim)

/-- A transaction begins: its lines are blocked and its secondary requests go out. -/
def State.txnBegin (s : State) (k : Nat) (t : Txn) : State := s.modCask k (fun c => {c with txns := c.txns ++ [t]})

/-- A way is freed for a request, which waits until it is (R256). -/
def State.evictFor (s : State) (k : Nat) (r : HomeReq) (e : DirEntry) : State :=
  let ss : List (Site × TOp) := (holdersOf e.holders).map (fun x => (x, if e.m then .rdx else .snp))
  let s := (s.modCask k (fun c => {c with waysFreed := c.waysFreed + 1})).txnBegin k
    ⟨.evict r, [e.line], ss.map (fun p => ⟨e.line, p.1, p.2⟩), [], []⟩
  s.sendSnoops k e.line ss none

/-- A STASH to S holders writes the array before its pushes (R259). -/
def State.stashFirst (s : State) (k : Nat) (r : HomeReq) : State :=
  (List.zip (List.range r.homeLines.length) r.homeLines).foldl (fun s p =>
    match (s.caskOf k).dirFind p.2 with
    | some (_, e) => if e.m then s else
        s.arrayWrite (64 * p.2) (fun _ c a => c.writeSector a r.q.kslot.val (sectorAt r.data p.1))
    | none => s) s

/-- A request whose lines are not blocked begins: it frees a way, waits for secondary responses, or finishes. -/
def State.homeStart (s : State) (k : Nat) (r : HomeReq) : State :=
  let lines := r.homeLines
  let s := lines.foldl (fun s l => s.dirCheck k l) s
  let rs := niSiteOf r.q.src.toNat
  let records := (r.op = .rds || r.op = .rdx) && (match rs with | some x => s.caching x | none => false)
  let c := s.caskOf k
  match lines.find? c.dirBad with
  | some l =>
    if c.atLimit 1 then s.park k {r with lim := true}
    else (s.purgeLine k l (List.finRange 16)).park k r
  | none =>
  match (if records then lines.find? (fun l => (c.dirFind l).isNone && (c.freeWay l).isNone) else none) with
  | some l =>
    match c.victim l with
    | none => s.park k r
    | some e =>
      if c.atLimit 1 then s.park k {r with lim := true}
      else
        let s := s.dirCheck k e.line
        if c.dirBad e.line then
          (s.modCask k (fun c => {c with waysFreed := c.waysFreed + 1})).purgeLine k e.line (List.finRange 16) |>.park k r
        else s.evictFor k r e
  | none =>
    let ns := lines.map (fun l => (l, needs r.op (c.dirFind l) rs))
    if ns.all (fun p => p.2.isEmpty) then s.homeFinish k r []
    else if c.atLimit lines.length then s.park k {r with lim := true}
    else
      let s := if records then s.modCask k (fun c => lines.foldl Cask.dirKeep c) else s
      let s := if r.op = .stash then s.stashFirst k r else s
      let aw := ns.flatMap (fun p => p.2.map (fun q => (⟨p.1, q.1, q.2⟩ : Await)))
      let s := s.txnBegin k ⟨.req r, lines, aw, [], []⟩
      (List.zip (List.range ns.length) ns).foldl (fun s p =>
        s.sendSnoops k p.2.1 p.2.2 (some (sectorAt r.data p.1))) s

/-- Whether an earlier request waits to be performed on a line: parked, or waiting for a way (R256, R261). -/
def Cask.queued (c : Cask) (line : Nat) : Bool :=
  c.parked.any (fun p => p.homeLines.contains line)
    || c.txns.any (fun t => match t.kind with | .evict r => r.homeLines.contains line | _ => false)

/-- Whether a request must wait behind a blocked line or an earlier request that waits for one of its lines (R261). -/
def Cask.mustPark (c : Cask) (r : HomeReq) : Bool := r.homeLines.any (fun l => c.blocked l || c.queued l)

/-- A request reaches the home agent. -/
def State.homeSubmit (s : State) (k : Nat) (r : HomeReq) : State :=
  if (s.caskOf k).mustPark r then s.park k r else s.homeStart k r

/-- Parked requests tried again in order of arrival. -/
def State.homeRetry (s : State) (k : Nat) : State :=
  let ps := (s.caskOf k).parked
  ps.foldl (fun s r => s.homeSubmit k {r with lim := false}) (s.modCask k (fun c => {c with parked := []}))

/-- A WB answered: the site's write-back buffer is freed (R254, R262). -/
def State.wbAnswer (s : State) (r : HReq) : State := s.homeAnswer ⟨.wb, r, [], 0, 0, false⟩ .ok []

/-- A transaction whose last response is in: the request finishes, or the way is freed and the request it was freed for
goes on; held WB answers go out; parked requests are tried again (R256, R261, R262). -/
def State.txnEnd (s : State) (k : Nat) (t : Txn) : State :=
  let s := s.modCask k (fun c => {c with txns := c.txns.filter (fun u => u.lines ≠ t.lines)})
  let s := match t.kind with
    | .req r => (s.homeFinish k r t.got).modCask k (fun c => t.lines.foldl Cask.dirSweep c)
    | .evict r =>
      let s := t.got.foldl (fun s g =>
        if g.2.2 then s.poisonLine g.1 false else s.arrayWrite (64 * g.1) (fun _ c a =>
          c.writeSector a (c.slotTag a) g.2.1)) s
      (t.lines.foldl (fun s l => s.modCask k (fun c => c.dirDel l)) s).homeStart k r
    | .purge => s
  let s := t.wbs.foldl State.wbAnswer s
  s.homeRetry k

/-- The answer of a site on a line is one that a transaction waits for. -/
def awaitOf (line : Nat) (x : Site) (a : Await) : Bool := decide (a.line = line) && decide (a.site = x)
/-- The transaction that waits for the answer of a site on a line. -/
def Cask.awaiting (c : Cask) (line : Nat) (x : Site) : Option Txn := c.txns.find? (fun t => t.await.any (awaitOf line x))
/-- The answer is that of a snoop read. -/
def Txn.readsFrom (t : Txn) (line : Nat) (x : Site) : Bool :=
  t.await.any (fun a => awaitOf line x a && a.op ≠ .snp && a.op ≠ .stash)

/-- A holder that did not answer is removed from its entry (R265). -/
def Cask.dropHolder (c : Cask) (line : Nat) (x : Site) : Cask :=
  match c.dirFind line with
  | some (_, e) => c.dirPut line e.m (e.holders &&& ~~~(siteBit x.val))
  | none => c

/-- What an answer brings: the line of a snoop read, poison where it has none; a holder that gave no answer is dropped, or
its line poisoned (R260, R265). -/
def State.answerIn (s : State) (k line : Nat) (x : Site) (read : Bool) (st : Status) (data : Option (Sector × Bool)) :
    List (Nat × Sector × Bool) × State :=
  if read then
    if st = .ok then ([(line, data.getD (0, true))], s) else ([(line, 0, true)], s.poisonLine line true)
  else if st ≠ .ok then ([], s.modCask k (·.dropHolder line x))
  else ([], s)

/-- A transaction with one answer taken from its list. -/
def Txn.took (t : Txn) (line : Nat) (x : Site) (got : List (Nat × Sector × Bool)) : Txn :=
  {t with await := t.await.filter (fun a => !awaitOf line x a), got := t.got ++ got}

/-- A transaction goes on: it ends with its last answer. -/
def State.txnOn (s : State) (k : Nat) (t t' : Txn) : State :=
  if t'.await.isEmpty then s.txnEnd k t'
  else s.modCask k (fun c => {c with txns := c.txns.map (fun u => if u.lines = t.lines then t' else u)})

/-- A line is no longer in transit. -/
def State.landed (s : State) (line : Nat) : State := {s with inflight := tdel s.inflight line}

/-- A secondary response (R260, R261, R265); one that nobody waits for answers an invalidation (R257, R267). -/
def State.secondary (s : State) (k : Nat) (line : Nat) (x : Site) (st : Status) (data : Option (Sector × Bool)) :
    State :=
  match (s.caskOf k).awaiting line x with
  | none => s.landed line
  | some t =>
    let a := (s.landed line).answerIn k line x (t.readsFrom line x) st data
    a.2.txnOn k t (t.took line x a.1)

/-- A holder that stops answering is removed from every entry of every cask; its M lines are poisoned; no grant reaches it
any more (R266). -/
def State.purgeSite (s : State) (x : Nat) : State :=
  (List.range 12).foldl (fun s k =>
    ((s.caskOf k).dir.foldl (fun s p =>
      if p.2.holders.getLsbD x then
        let s := if p.2.m then s.poisonLine p.2.line true else s
        s.modCask k (fun c => c.dirPut p.2.line (p.2.m && false) (p.2.holders &&& ~~~(siteBit x)))
      else s) s).modCask k (fun c => {c with grants := c.grants.filter (fun g => g.2 ≠ x)})) s

/-! ### Accesses of the hub's own agents (R253, R264, R271) -/

/-- What a write that waits will make of its line. -/
def HomeReq.onto (r : HomeReq) (line : Nat) (v : Sector × Bool) : Sector × Bool :=
  match r.op with
  | .wr | .wri | .stash => (sectorAt r.data (line - r.q.pa.toNat / 64), false)
  | .wrpoi => (0, true)
  | .wrp => if v.2 && r.mask ≠ BitVec.allOnes 64 then v else (mergeSector v.1 (sectorAt r.data 0) r.mask, false)
  | .amo => if v.2 then v else match amoApply (sectorAt r.data 0) v.1 with | some (_, n) => (n, false) | none => v
  | _ => v

/-- Requests that are to be performed on a line, in order: of transactions, of evictions, parked. -/
def Cask.ahead (c : Cask) (line : Nat) : List HomeReq :=
  (c.txns.filterMap (fun t => match t.kind with | .req r | .evict r => some r | .purge => none) ++ c.parked).filter
    (fun r => r.homeLines.contains line)

/-- The newest data of a line, wherever it is: a snoop read of the M holder, or the array (R259, R265, R271). -/
def State.newest (s : State) (pa kslot : Nat) : (Sector × Bool) × State :=
  let k := pa / 2 ^ 36
  let line := pa / 64
  match otherM ((s.caskOf k).dirFind line) none with
  | x :: _ =>
    if s.bunged (niSite x.val (l2Module pa)) then ((0, true), s.poisonLine line true)
    else if s.isGraft x.val then
      ((BitVec.ofNat 512 (leNat (s.freeBytes 64)), Config.byteChoice s.freeCtr 64), s.bump.snoopGraft x .rd line 0)
    else match s.mData x.val line with
      | some (v, p) => if p then ((0, true), s.poisonLine line false) else ((v, false), s)
      | none => ((0, true), (s.poisonLine line false).modCask k (fun c => {c with snpOdd := c.snpOdd + 1}))
  | [] => s.arrayRead pa kslot

/-- A request of a hub agent charged at its master NI, a host endpoint's at the one of its address (R221, R276). -/
def State.chargeAgent (s : State) (rt : Rights) (op : TOp) (pa n : Nat) : State :=
  if rt.ni = 0x3FF then s
  else s.chargeNi (if niHost rt.ni then rt.ni / 4 * 4 + bits pa 9 8 else rt.ni) (classFor rt.ni 0x80 op) n

/-- RD of one sector by a hub agent: the newest data, as the requests that wait before it will leave it (R259, R261,
R271). -/
def State.agentRead (s : State) (rt : Rights) (pa kslot : Nat) : Status × (Sector × Bool) × State :=
  let pa := 64 * (pa / 64)
  let s := s.chargeAgent rt .rd pa 1
  let st := s.memStatus rt false pa kslot
  if st ≠ .ok then (st, (0, false), if st = .refused then s.refuse rt pa kslot else s)
  else
    let k := pa / 2 ^ 36
    let line := pa / 64
    let s := s.dirCheck k line
    if (s.caskOf k).dirBad line then (.ok, (0, true), s.purgeLine k line (List.finRange 16))
    else
      let (v, s) := s.newest pa kslot
      let v := ((s.caskOf k).ahead line).foldl (fun v r => r.onto line v) v
      (.ok, (if v.2 then 0 else v.1, v.2), s)

/-- Every copy of a line dropped, M included; a line in a write-back buffer stays there (R259, R260). -/
def State.invAll (s : State) (line : Nat) : State :=
  let k := 64 * line / 2 ^ 36
  let e := (s.caskOf k).dirFind line
  let s := {s with inflight := tdel s.inflight line}
  ((otherM e none ++ otherS e none).foldl (fun s x => s.modDie x.val (fun d => d.dropLine line)) s).modCask k (·.dirDel line)

/-- Whether a write of a hub agent needs its secondary requests one by one: a graft holds the line, or a die holds back
secondary requests for it (R263). -/
def State.stepwise (s : State) (line : Nat) : Bool :=
  let c := s.caskOf (64 * line / 2 ^ 36)
  let e := c.dirFind line
  (otherM e none ++ otherS e none).any (fun x =>
    let d := s.dieOf x.val
    s.isGraft x.val || c.grants.contains (line, x.val) || d.pinned.any (fun p => p.1 = line) || d.deferred.any (fun q => q.line = line))

/-- A write by a hub agent with no one to wait for, performed at once. -/
def State.writeNow (s : State) (op : TOp) (pa kslot : Nat) (mask : Word) (v : Sector) : State :=
  let k := pa / 2 ^ 36
  let line := pa / 64
  let e := (s.caskOf k).dirFind line
  let cut := fun (x : Site) => s.bunged (niSite x.val (l2Module pa))
  match op with
  | .stash =>
    let s := if (otherM e none).isEmpty then s else s.invAll line
    let s := s.arrayWrite pa (fun _ c a => c.writeSector a kslot v)
    (otherS e none).foldl (fun s x =>
      if cut x then s.modCask k (fun c => match c.dirFind line with
        | some (_, e) => c.dirPut line e.m (e.holders &&& ~~~(siteBit x.val))
        | none => c)
      else s.modDie x.val (fun d => match tfind d.l2 line with
        | some l => {d.dropResv line with l2 := tput d.l2 line {l with data := v, pois := false}}
        | none => d)) s
  | .wrp =>
    match otherM e none with
    | x :: _ =>
      let g := if cut x then none else s.mData x.val line
      let s := s.invAll line
      match g with
      | some (o, false) => s.arrayWrite pa (fun _ c a => c.writeSector a kslot (mergeSector o v mask))
      | _ => s.poisonLine line (cut x)
    | [] => (s.invAll line).arrayWrite pa (fun k c a => c.maskedWrite k a kslot mask v)
  | .wrpoi => (s.invAll line).arrayWrite pa (fun _ c a => c.poisonSector a)
  | _ => (s.invAll line).arrayWrite pa (fun _ c a => c.writeSector a kslot v)

/-- A write by a hub agent: op WRI, STASH, WRP or WRPOI on one sector. It is performed at once, or waits as any request does
(R261). -/
def State.agentWrite (s : State) (rt : Rights) (op : TOp) (pa kslot : Nat) (mask : Word) (v : Sector) :
    Status × State :=
  let pa := 64 * (pa / 64)
  let s := s.chargeAgent rt op pa (if op = .wrp then 2 else 1)
  let st := s.memStatus rt true pa kslot
  if st ≠ .ok then (st, if st = .refused then s.refuse rt pa kslot else s)
  else
    let k := pa / 2 ^ 36
    let line := pa / 64
    let r : HomeReq :=
      ⟨op, ⟨BitVec.ofNat 48 pa, 0, ⟨kslot % 64, Nat.mod_lt _ (by decide)⟩, agentNi, 0⟩, [v], mask, rt.own, false⟩
    let s := s.dirCheck k line
    if (s.caskOf k).mustPark r || (s.caskOf k).dirBad line || s.stepwise line then (.ok, s.homeSubmit k r)
    else (.ok, s.writeNow op pa kslot mask v)

/-- Whether a write of a hub agent has not been performed yet (R171, R272). -/
def State.agentWaits (s : State) (own : Nat) : Bool :=
  s.cask.any (fun c => (c.2.txns.filterMap (fun t => match t.kind with | .req r | .evict r => some r | .purge => none)
    ++ c.2.parked).any (fun r => r.own = own))

/-! ### Byte ranges -/

/-- n bytes read by a hub agent from pa, sector by sector: the first status that is not OK, whether any sector was
poisoned, the bytes. -/
def State.agentBytes (s : State) (rt : Rights) (kslot : Nat) (pa n : Nat) : Status × Bool × List Byte × State :=
  let cnt := if n = 0 then 0 else (pa % 64 + n + 63) / 64
  let (st, p, bs, s) := (List.range cnt).foldl (fun (st, p, bs, s) i =>
    let (st', v, s) := State.agentRead s rt (64 * (pa / 64) + 64 * i) kslot
    (if st = .ok then st' else st, p || v.2, bs ++ sectorBytes v.1, s)) ((Status.ok, false, ([] : List Byte), s))
  (st, p, (bs.drop (pa % 64)).take n, s)

/-- Bytes written by a hub agent from pa: whole sectors with `op` (WRI or STASH), parts with WRP (R264). -/
def State.agentPut (s : State) (rt : Rights) (op : TOp) (kslot pa : Nat) (bs : List Byte) : Status × State :=
  let n := bs.length
  let cnt := if n = 0 then 0 else (pa % 64 + n + 63) / 64
  (List.range cnt).foldl (fun (st, s) i =>
    let base := 64 * (pa / 64) + 64 * i
    let lo := max pa base
    let hi := min (pa + n) (base + 64)
    let part := (bs.drop (lo - pa)).take (hi - lo)
    let v : Sector := BitVec.ofNat 512 (leNat part * 2 ^ (8 * (lo - base)))
    let full := lo = base && hi = base + 64
    let mask : Word := BitVec.ofNat 64 ((2 ^ (hi - lo) - 1) * 2 ^ (lo - base))
    let (st', s) := State.agentWrite s rt (if full then op else .wrp) base kslot mask v
    (if st = .ok then st' else st, s)) (.ok, s)

end Sys2Proof.Machine
end

