-- ==== Sys2Proof/Machine/Irq.lean ====
section
/-! DEFINITION. Outgoing effects shared by every chapter: the outbound queue and MSI-X of an endpoint (R351, R352,
R356, R357) and the crossing log (R540). -/

namespace Sys2Proof.Machine

/-! ### Crossing log (R540) -/

/-- A record of the crossing log, while `xlog` = 1. -/
def State.xlogAdd (s : State) (kind : Nat) (e : Ep) (id0 id1 : Nat) : State :=
  if s.obs.en.getLsbD 3 then
    let lat := Config.freeNat s.freeCtr kind % 2 ^ 16
    let w1 := kind + 16 * b2n (!s.time.tlock) + 32 * e.code + 64 * lat
    let rec' : List Word := [s.time.now, BitVec.ofNat 64 w1, BitVec.ofNat 64 id0, BitVec.ofNat 64 id1]
    {s.bump with obs := {s.obs with xlog := tput s.obs.xlog (s.obs.xlptr % 4096) rec', xlptr := (s.obs.xlptr + 1) % 2 ^ 32}}
  else s

/-! ### Outbound queue -/

/-- Read tags in use (R352). -/
def tagsUsed (q : List Outb) : Nat :=
  (q.map (fun (o : Outb) => match o with | .req r => if r.sent && r.res.isNone then r.tags else 0 | .msix _ => 0)).foldl (· + ·) 0

/-- Whether host-window requests are taken in (R353). -/
def HostEp.takes (h : HostEp) : Bool := h.bme && h.linkUp && !h.flr
/-- Whether the endpoint may master requests now (R351, R358). -/
def HostEp.masters (h : HostEp) : Bool := h.takes && !h.stopped
/-- `Max_Payload_Size` and `Max_Read_Request_Size` in bytes (R339). -/
def HostEp.mps (h : HostEp) : Nat := 128 * 2 ^ min h.maxPayload 2
def HostEp.mrrs (h : HostEp) : Nat := 128 * 2 ^ min h.maxRead 5

/-- Memory requests of at most `max` bytes that do not cross a 4 KiB boundary (R352). -/
def pieces (max : Nat) : Nat → Nat → Nat → List (Nat × Nat)
  | 0, _, _ => []
  | f + 1, a, n =>
    if n = 0 then []
    else
      let k := min (min n max) (4096 - a % 4096)
      (a, k) :: pieces max f (a + k) (n - k)

/-- The waiting reads that join a read before them: same source NI and slice, ascending consecutive addresses, below
`lim` (R352). -/
def joinRun (src : NI) (sl : SliceId) (lim : Nat) : Nat → List Outb → List OutReq
  | next, .req r :: l =>
    if !r.sent && !r.r.wr && r.r.src = src && r.r.slice = sl && r.r.iova.toNat = next && next + r.r.len ≤ lim then
      r :: joinRun src sl lim (next + r.r.len) l
    else []
  | _, _ => []

/-- The PASID a slice's requests carry (R351, R416). -/
def State.pasidOf (s : State) (sl : Nat) : Option Nat :=
  let e := s.sliceOf sl
  if e.pen then some e.pasid.toNat else none

/-- An MSI-X message sent (R357). -/
def State.msixSend (s : State) (e : Ep) (v : Nat) : State :=
  let m := (s.epOf e).msixOf v
  let n := tget 0 s.obs.xmsg (2048 * e.code + v) + 1
  let s := {s with obs := {s.obs with xmsg := if s.obs.en.getLsbD 3 then tput s.obs.xmsg (2048 * e.code + v) n else s.obs.xmsg}}
  (s.xlogAdd 2 e v n).emit (.msix e m.addr.toNat m.data.toNat)

/-- Memory requests sent to PCIe for one entry of the outbound queue. -/
def State.pcieSend (s : State) (e : Ep) (r : OutReq) (ps : List (Nat × Nat)) : State :=
  ps.foldl (fun s p => s.emit (.pcieReq e r.id r.r.wr p.1 p.2 (s.pasidOf r.r.slice.val)
    ((r.r.data.drop (p.1 - r.r.iova.toNat)).take p.2))) s

/-- One pass over the outbound queue: entries are issued from its head in order until a read finds no tag (R351, R352).
Posted entries leave as they are issued. -/
def State.drainLoop (e : Ep) : Nat → State → List Outb → List Outb → State × List Outb
  | 0, s, keep, l => (s, keep ++ l)
  | _ + 1, s, keep, [] => (s, keep)
  | n + 1, s, keep, .msix v :: l => State.drainLoop e n (s.msixSend e v.val) keep l
  | n + 1, s, keep, .req r :: l =>
    if r.sent then State.drainLoop e n s (keep ++ [.req r]) l
    else
      let h := s.epOf e
      let a := r.r.iova.toNat
      if r.r.wr then State.drainLoop e n (s.pcieSend e r (pieces h.mps r.r.len a r.r.len)) keep l
      else
        let js := joinRun r.r.src r.r.slice (min (a + h.mrrs) (4096 * (a / 4096) + 4096)) (a + r.r.len) l
        let total := js.foldl (fun t (j : OutReq) => t + j.r.len) r.r.len
        let ps := pieces h.mrrs total a total
        if 512 < tagsUsed keep + ps.length then (s, keep ++ .req r :: l)
        else
          let g := Outb.req {r with sent := true, tags := ps.length}
            :: js.map (fun (j : OutReq) => Outb.req {j with sent := true, lead := r.id})
          State.drainLoop e n (s.pcieSend e r ps) (keep ++ g) (l.drop js.length)

/-- The outbound queue issued as far as it goes. -/
def State.drainOut (s : State) (e : Ep) : State :=
  if (s.epOf e).masters then
    let q := (s.epOf e).outq
    let (s, keep) := State.drainLoop e q.length s [] q
    s.modEp e (fun h => {h with outq := keep})
  else s

/-- A host-window request enters the outbound queue of an endpoint that takes it in (R351). -/
def State.enqueueOut (s : State) (e : Ep) (q : HwReq) : State :=
  let s := s.modEp e (fun h => { h with
    outq := h.outq ++ [.req ⟨h.nextId, q, s.now, false, 0, h.nextId, none⟩], nextId := h.nextId + 1 })
  s.drainOut e

/-- A memory write by a hub block through a slice's endpoint (R407): OK once it is in the outbound queue, HOSTERR at
once where the endpoint takes nothing in (R353). -/
def State.hostPost (s : State) (sl : Nat) (iova : Nat) (bs : List Byte) : Status × State :=
  let e := (s.sliceOf sl).ep
  if (s.epOf e).takes then
    (.ok, s.enqueueOut e ⟨BitVec.ofNat 10 (niService 0 2), 0, ⟨sl % 64, Nat.mod_lt _ (by decide)⟩, true,
      BitVec.ofNat 48 iova, bs.length, bs⟩)
  else (.hosterr, s.modEp e (fun h => {h with hosterr := BitVec.ofNat 32 (satAdd 0xFFFFFFFF h.hosterr.toNat 1)}))

/-! ### Interrupts -/

/-- An MSI-X vector triggered (R357). -/
def State.msixTrigger (s : State) (e : Ep) (v : Nat) : State :=
  let h := s.epOf e
  let m := h.msixOf v
  if h.fmask || m.mask || !h.msixEn || !h.takes then
    s.modEp e (fun h => {h with msix := tput h.msix v {m with pend := true}})
  else
    let s := s.modEp e (fun h => {h with outq := h.outq ++ [.msix ⟨v % 2048, Nat.mod_lt _ (by decide)⟩]})
    s.drainOut e

/-- A vector named by a register: 0 and 1 raise nothing (R356). -/
def State.raise (s : State) (e : Ep) (v : Nat) : State := if v < 2 then s else s.msixTrigger e v
/-- A vector on the endpoint of a slice (R356, R418). -/
def State.raiseSlice (s : State) (sl v : Nat) : State := s.raise (s.sliceOf sl).ep v
/-- Vector 0 of both endpoints: a change of `ready`, `warm`, `tlock` or `peer` (R356). -/
def State.raiseStatus (s : State) : State := (s.msixTrigger .ioa 0).msixTrigger .iob 0
/-- The twin event vectors (R567). -/
def State.raiseTwin (s : State) : State := (s.raise .ioa s.twin.vecA).raise .iob s.twin.vecB

end Sys2Proof.Machine
end

