-- ==== Sys2Proof/Machine/FenceStore.lean ====
section
/-! DEFINITION. The fence store (R375–R378): signals, events, waits. -/

namespace Sys2Proof.Machine

/-- The reserved range of fence values (R376). -/
def fenceReserved (v : Word) : Bool := 0xFFFFFFFF00000000 ≤ v.toNat

/-- `FCFG` as read (R375). -/
def Fence.cfg (f : Fence) : Word :=
  BitVec.ofNat 64 (f.slice.val + 64 * b2n f.armed + 128 * b2n f.aband + 2 ^ 8 * f.prod.val + 2 ^ 20 * b2n f.pen
    + 2 ^ 21 * b2n f.evn + 2 ^ 22 * f.evec.val)
/-- `FCNT` as read (R375). -/
def Fence.cnt (f : Fence) : Word := BitVec.ofNat 64 (f.stale.toNat + 2 ^ 32 * f.nsig.toNat)

/-- The event of a fence, raised once when it is due (R378). -/
def State.fenceEvent (s : State) (n : Nat) : State :=
  let f := s.fenceOf n
  if f.evn && (f.evval.toNat ≤ f.value.toNat || f.aband) then
    (s.modFence n (fun f => {f with evn := false})).raiseSlice f.slice.val f.evec.val
  else s

/-- What a waiter of a slice with a target sees now: some 0 or 1 when its wait completes (R377). -/
def Fence.waitResult (f : Fence) (slice : Nat) (target : Word) : Option Nat :=
  if target.toNat ≤ f.value.toNat && !fenceReserved target then some 0
  else if f.aband || !f.armed || f.slice.val ≠ slice then some 1
  else none

/-- The slice of the context loaded on a core. -/
def State.coreSlice (s : State) (c : Nat) : Option Nat :=
  (s.coreOf c).ctx.map (fun x => (s.ctxOf x.val).slice.val)

/-- One thread's wait on a fence judged again. -/
def Thread.fenceWake (t : Thread) (n : Nat) (f : Fence) (slice : Nat) : Thread :=
  match t.wait with
  | .fence rd m target =>
    if m = n then
      match f.waitResult slice target with
      | some r => ({t with wait := .none}.setX rd (BitVec.ofNat 64 r)).adv .four
      | none => t
    else t
  | _ => t

/-- Every waiting thread judged again after a fence changed (R377). -/
def State.fenceWake (s : State) (n : Nat) : State :=
  let f := s.fenceOf n
  {s with die := s.die.map (fun d => (d.1, {d.2 with core := d.2.core.map (fun c =>
      match c.2.ctx with
      | none => c
      | some x => (c.1, {c.2 with thr := c.2.thr.map (fun t =>
          (t.1, t.2.fenceWake n f (s.ctxOf x.val).slice.val))}))}))}

/-- Outcome of a signal (R376). -/
inductive SigRes where
  | reserved | discarded | stale | raised
  deriving DecidableEq, Repr

/-- The case of R376 a signal falls under; `slice` is none for a host FSIGNAL. -/
def Fence.sigCase (f : Fence) (slice : Option Nat) (v : Word) : SigRes :=
  if fenceReserved v then .reserved
  else if !f.armed || f.aband || (match slice with | some x => f.slice.val ≠ x | none => false) then .discarded
  else if v.toNat ≤ f.value.toNat then .stale
  else .raised

/-- A signal acts on a fence object (R376); a value in the reserved range is only counted here. -/
def State.fenceSig (s : State) (n : Nat) (slice : Option Nat) (v : Word) : State :=
  match (s.fenceOf n).sigCase slice v with
  | .reserved => s.modHub (fun h => {h with sigReserved := h.sigReserved + 1})
  | .discarded => s.modHub (fun h => {h with sigDisc := h.sigDisc + 1})
  | .stale => s.modFence n (fun f => {f with stale := BitVec.ofNat 32 (satAdd 0xFFFFFFFF f.stale.toNat 1)})
  | .raised => ((s.modFence n (fun f => {f with value := v, nsig := f.nsig + 1})).fenceWake n).fenceEvent n

/-- A fence abandoned: waiters wake and its event is raised (R377, R378). -/
def State.fenceAbandon (s : State) (n : Nat) : State :=
  ((s.modFence n (fun f => {f with aband := true})).fenceWake n).fenceEvent n

end Sys2Proof.Machine
end

