-- ==== Sys2Proof/Machine/Translate.lean ====
section
/-! DEFINITION. Address translation (R383–R398): regions, table entries, the walk as a function of the entries it
reads, permissions, the caches. -/

namespace Sys2Proof.Machine

/-! ### Views (R383) -/

inductive VRegion where
  | memory | local' | host (iova : Nat) | none'
  deriving DecidableEq, Repr

def vregion (va : Nat) : VRegion :=
  if va < 0x7FFFFFFF00000 then .memory
  else if va < 0x8000000000000 then .local'
  else if va < 0x9000000000000 then .host (va - 2 ^ 51)
  else .none'

/-! ### Entries (R389–R392) -/

/-- A table entry's fields (R390). -/
structure PTE where
  v : Bool
  leaf : Bool
  r : Bool
  w : Bool
  x : Bool
  u : Bool
  c64 : Bool
  addr : Nat      -- bits [47:12], as a byte address
  kslot : Nat
  rsvd : Bool     -- a reserved bit is set
  deriving DecidableEq, Repr

def pte (e : Word) : PTE :=
  let n := e.toNat
  { v := bit n 0, leaf := bit n 1, r := bit n 2, w := bit n 3, x := bit n 4, u := bit n 5, c64 := bit n 6,
    addr := bits n 47 12 * 4096, kslot := bits n 53 48, rsvd := bits n 11 7 ≠ 0 || bits n 55 54 ≠ 0 }

/-- Size of the page a leaf at a level maps (R389). -/
def leafLg (lvl : Nat) (c64 : Bool) : Nat :=
  match lvl with | 3 => 39 | 2 => 30 | 1 => 21 | _ => if c64 then 16 else 12

/-- Malformed in either stage (R391). -/
def PTE.bad (e : PTE) (lvl : Nat) : Bool :=
  (e.leaf && lvl = 3) || (!e.leaf && lvl = 0) || (e.c64 && !(e.leaf && lvl = 0))
    || (e.leaf && lvl ≠ 0 && e.addr % 2 ^ leafLg lvl false ≠ 0) || e.rsvd || (!e.leaf && (e.r || e.w || e.x || e.u))

def PTE.badS1 (e : PTE) (lvl : Nat) : Bool := e.bad lvl || e.kslot ≠ 0
def usablePa (pa : Nat) : Bool := match regionOf pa with | .usable _ _ => true | _ => false
def State.badS2 (s : State) (e : PTE) (lvl : Nat) : Bool :=
  e.bad lvl || e.u || (!e.leaf && (e.kslot ≠ 0 || !usablePa e.addr))
    || (e.leaf && !usablePa e.addr && !s.inAperture e.addr) || (e.leaf && s.inAperture e.addr && e.kslot ≠ 0)

/-- Output address of a leaf for an address (R392: a `c64` leaf's base drops its low four page bits). -/
def leafOut (addr lg a : Nat) : Nat := addr / 2 ^ lg * 2 ^ lg + a % 2 ^ lg

/-! ### Permissions (R393): bits r 1, w 2, x 4, u 8 -/

def permBits (r w x u : Bool) : Nat := b2n r + 2 * b2n w + 4 * b2n x + 8 * b2n u
def permOk (p : Nat) (acc : Acc) : Bool :=
  match acc with
  | .read => bit p 0
  | .write => bit p 1
  | .amo => bit p 0 && bit p 1
  | .fetch => bit p 2

/-! ### The walk (R386–R394) -/

/-- Fault causes (R409). -/
inductive XCause where
  | s1inv | s1perm | s1bad | s2inv | s2perm | s2bad | hwin | range | walkpoi | walkerr | nos2
  deriving DecidableEq, Repr

def XCause.code : XCause → Nat
  | .s1inv => 1 | .s1perm => 2 | .s1bad => 3 | .s2inv => 4 | .s2perm => 5 | .s2bad => 6
  | .hwin => 7 | .range => 8 | .walkpoi => 9 | .walkerr => 10 | .nos2 => 11

/-- Fatal causes (R404). -/
def XCause.fatal : XCause → Bool
  | .hwin | .range | .nos2 | .walkpoi | .walkerr => true
  | _ => false

/-- A walk's next move: read the entry it names, a translation, or a fault with the failing IPA and `wlk`. -/
inductive WalkRes where
  | read (w : Walk)
  | done (e : TEntry)
  | fault (c : XCause) (ipa : Nat) (wlk : Bool)
  deriving DecidableEq, Repr

/-- Index of an address at a level (R389). -/
def idx1 (va lvl : Nat) : Nat := if lvl = 3 then bits va 50 39 else bits va (20 + 9 * lvl) (12 + 9 * lvl)
def idx2 (ipa lvl : Nat) : Nat := bits ipa (20 + 9 * lvl) (12 + 9 * lvl)

/-- Stage 2 begins at its root for the walk's IPA. -/
def State.s2Begin (s : State) (w : Walk) : WalkRes :=
  let root := (s.sliceOf (s.ctxOf w.ctx).slice.val).s2root.toNat
  .read {w with l2 := 3, rdPa := bits root 47 12 * 4096 + 8 * idx2 w.ipa 3, rdK := bits root 6 1}

/-- The bank of the translation cache (R396). -/
def tcBank (va ctx : Nat) : Nat := bits va 22 21 ^^^ bits va 31 30 ^^^ ctx % 4

/-- The first move of a walk. -/
def State.walkBegin (s : State) (ctx va : Nat) (acc : Acc) (user : Bool) : WalkRes :=
  let c := s.ctxOf ctx
  let r1 := c.s1root.toNat
  if !bit (s.sliceOf c.slice.val).s2root.toNat 0 then .fault .nos2 0 false
  else if !bit r1 0 then
    if 2 ^ 48 ≤ va then .fault .range 0 false
    else s.s2Begin ⟨ctx, va, acc, user, 2, 0, va, 3, 0, 0, 48, 15, 12⟩
  else if bits r1 14 12 ≠ 0 then .fault .s1bad 0 false
  else s.s2Begin ⟨ctx, va, acc, user, 0, 3, bits r1 47 12 * 4096 + 8 * idx1 va 3, 3, 0, 0, 0, 0, 12⟩

/-- The IPA whose stage-2 walk a failed table read ends; 0 when it is a stage-1 entry that could not be read (R408). -/
def Walk.failIpa (w : Walk) : Nat := if w.phase = 1 then 0 else w.ipa

/-- The move after the outstanding table read is answered. -/
def State.walkNext (s : State) (w : Walk) (st : Status) (poison : Bool) (entry : Word) : WalkRes :=
  let e := pte entry
  let tableRead := w.phase ≠ 2
  if st ≠ .ok then .fault .walkerr (w.failIpa) tableRead
  else if poison then .fault .walkpoi (w.failIpa) tableRead
  else if w.phase = 1 then
    if !e.v then .fault .s1inv 0 false
    else if e.badS1 w.l1 then .fault .s1bad 0 false
    else if e.leaf then
      let p := permBits e.r e.w e.x e.u
      if !permOk p w.acc || (w.user && !e.u) then .fault .s1perm 0 false
      else
        let lg := leafLg w.l1 e.c64
        s.s2Begin {w with phase := 2, ipa := leafOut e.addr lg w.va, lg1 := lg, p1 := p}
    else
      let l := w.l1 - 1
      s.s2Begin {w with phase := 0, l1 := l, ipa := e.addr + 8 * idx1 w.va l}
  else
    if !e.v then .fault .s2inv w.ipa tableRead
    else if s.badS2 e w.l2 then .fault .s2bad w.ipa tableRead
    else if e.leaf then
      let lg := leafLg w.l2 e.c64
      let pa := leafOut e.addr lg w.ipa
      if w.phase = 0 then
        if !e.r then .fault .s2perm w.ipa true
        else .read {w with phase := 1, rdPa := pa, rdK := e.kslot, lgt := lg}
      else
        let p := permBits e.r e.w e.x false
        if !permOk p w.acc then .fault .s2perm w.ipa false
        else
          let l := min w.lg1 lg
          .done ⟨w.ctx, tcBank w.va w.ctx, l, w.va / 2 ^ l, pa / 2 ^ l, w.ipa / 2 ^ l, lg, e.kslot,
            bit w.p1 0, bit w.p1 1, bit w.p1 2, bit w.p1 3, e.r, e.w, e.x⟩
    else
      let l := w.l2 - 1
      .read {w with l2 := l, rdPa := e.addr + 8 * idx2 w.ipa l, rdK := bits (s.sliceOf (s.ctxOf w.ctx).slice.val).s2root.toNat 6 1}

/-! ### The walk cache (R396, R397) -/

/-- Span of an entry of a level, as a power of two. -/
def lvlLg (l : Nat) : Nat := 12 + 9 * l
/-- The entry a walk reads now, as the walk cache names it. -/
def State.walkKey (s : State) (w : Walk) (e : Word) : WEntry :=
  if w.phase = 1 then ⟨tcBank w.va w.ctx, false, w.ctx, w.l1, w.va / 2 ^ lvlLg w.l1, w.ipa, w.lgt, e⟩
  else ⟨tcBank w.va w.ctx, true, (s.ctxOf w.ctx).slice.val, w.l2, w.ipa / 2 ^ lvlLg w.l2, w.ipa, lvlLg w.l2, e⟩
/-- The entry a walk reads now, when its bank holds it. -/
def State.walkHit (s : State) (w : Walk) : Option Word :=
  let k := s.walkKey w 0
  (s.hub.wcache.find? (fun c => c.bank = k.bank && c.stage2 = k.stage2 && c.owner = k.owner && c.lvl = k.lvl && c.idx = k.idx)).map (·.w)
/-- An entry read and found good is held: table entries, and the stage-2 leaves of table pages. Which entry leaves a full
bank is not fixed. -/
def State.walkFill (s : State) (w : Walk) (e : Word) : State :=
  if (pte e).leaf && w.phase ≠ 0 then s
  else
    let k := s.walkKey w e
    let mine := s.hub.wcache.filter (fun c => c.bank = k.bank)
    let drop := if mine.length < 8192 then none else mine[Config.freeNat s.freeCtr 15 % 8192]?
    s.bump.modHub (fun h => {h with wcache := k :: (match drop with | some x => h.wcache.erase x | none => h.wcache)})
/-- Table reads the walk cache answers are skipped. -/
def State.walkSkip (s : State) : Nat → WalkRes → WalkRes
  | 0, r => r
  | n + 1, .read w =>
    match s.walkHit w with
    | some e => s.walkSkip n (s.walkNext w .ok false e)
    | none => .read w
  | _, r => r

/-! ### The caches (R395–R397) -/

/-- An entry that translates an address of a context. -/
def TEntry.hits (e : TEntry) (ctx va : Nat) : Bool := e.ctx = ctx && e.vpage = va / 2 ^ e.lg
def TEntry.pa (e : TEntry) (va : Nat) : Nat := e.ppage * 2 ^ e.lg + va % 2 ^ e.lg
/-- Permissions of a cached translation: the first leaf that refuses (R393). -/
def TEntry.check (e : TEntry) (acc : Acc) (user : Bool) (va : Nat) : Option (XCause × Nat) :=
  if !permOk (permBits e.r1 e.w1 e.x1 e.u1) acc || (user && !e.u1) then some (.s1perm, 0)
  else if !permOk (permBits e.r2 e.w2 e.x2 false) acc then some (.s2perm, e.ipage * 2 ^ e.lg + va % 2 ^ e.lg)
  else none

/-- Which micro-TLB a requester uses. -/
inductive Tlb where
  | core (c : Nat)
  | unit (n : Nat)     -- engine number, or 96 + graft site
  | none'
  deriving DecidableEq, Repr

def State.tlbOf (s : State) : Tlb → List TEntry
  | .core c => tget [] s.hub.cutlb c
  | .unit n => tget [] s.hub.utlb n
  | .none' => []

/-- A fill of a micro-TLB of 64 entries; which one leaves is not fixed (R395). -/
def State.tlbFill (s : State) (t : Tlb) (e : TEntry) : State :=
  let put := fun (l : List TEntry) =>
    if l.length < 64 then e :: l else e :: l.eraseIdx (Config.freeNat s.freeCtr 1 % 64)
  match t with
  | .core c => s.bump.modHub (fun h => {h with cutlb := tmod [] h.cutlb c put})
  | .unit n => s.bump.modHub (fun h => {h with utlb := tmod [] h.utlb n put})
  | .none' => s

/-- The set of an entry within its bank (R396). -/
def TEntry.set (e : TEntry) : Nat := (e.vpage % 2 ^ 12) ^^^ e.ctx
/-- A fill of the translation cache: eight ways, the least recently used leaves (R396). -/
def State.tcFill (s : State) (e : TEntry) : State :=
  s.modHub (fun h =>
    let same := h.tcache.filter (fun x => x.bank = e.bank && x.set = e.set)
    let base := match same.getLast? with
      | some old => if same.length < 8 then h.tcache else h.tcache.erase old
      | none => h.tcache
    {h with tcache := e :: base})
/-- A hit made most recently used. -/
def State.tcTouch (s : State) (e : TEntry) : State := s.modHub (fun h => {h with tcache := e :: h.tcache.erase e})

/-- A cached translation of an address. -/
def State.tlbLook (s : State) (t : Tlb) (ctx va : Nat) : Option TEntry × State :=
  match (s.tlbOf t).find? (fun e => e.hits ctx va) with
  | some e => (some e, s)
  | none =>
    match s.hub.tcache.find? (fun e => e.bank = tcBank va ctx && e.hits ctx va) with
    | some e => (some e, (s.tcTouch e).tlbFill t e)
    | none => (none, s)

/-- What translating one address gives. -/
inductive TrRes where
  | cask (pa kslot : Nat)
  | host (iova : Nat)
  | walk (w : Walk)          -- a table read is needed
  | fault (c : XCause) (ipa : Nat) (wlk : Bool)
  deriving DecidableEq, Repr

/-- Translation of one address as far as the caches go; `walk` names the first table read otherwise. -/
def State.translate1 (s : State) (t : Tlb) (ctx va : Nat) (acc : Acc) (user : Bool) : TrRes × State :=
  match vregion va with
  | .local' | .none' => (.fault .range 0 false, s)
  | .host iova => (if bit (s.ctxOf ctx).s1root.toNat 1 then .host iova else .fault .hwin 0 false, s)
  | .memory =>
    let (hit, s) := s.tlbLook t ctx va
    match hit with
    | some e => (match e.check acc user va with
        | some (c, ipa) => .fault c ipa false
        | none => .cask (e.pa va) e.kslot, s)
    | none =>
      match s.walkSkip 26 (s.walkBegin ctx va acc user) with
      | .read w => (.walk w, s)
      | .done e => (.cask (e.pa va) e.kslot, s)
      | .fault c i k => (.fault c i k, s)

/-- A table read by a walker (R253, R394). -/
def State.tableRead (s : State) (w : Walk) : Status × Bool × Word × State :=
  let (st, p, bs, s) := s.agentBytes {ni := niService (tcBank w.va w.ctx) 0} w.rdK w.rdPa 8
  (st, p, BitVec.ofNat 64 (leNat bs), s)

/-- A walk run to its end by a hub agent; 25 table reads at most (R398). -/
def State.walkLoop : Nat → State → Tlb → Walk → TrRes × State
  | 0, s, _, _ => (.fault .walkerr 0 false, s)
  | n + 1, s, t, w =>
    let (st, p, e, s) := s.tableRead w
    match s.walkNext w st p e with
    | .read w' =>
      let s := s.walkFill w e
      match s.walkSkip 26 (.read w') with
      | .read w' => State.walkLoop n s t w'
      | .done e => (.cask (e.pa w.va) e.kslot, (s.tcFill e).tlbFill t e)
      | .fault c i k => (.fault c i k, s)
    | .done e => (.cask (e.pa w.va) e.kslot, (s.tcFill e).tlbFill t e)
    | .fault c i k => (.fault c i k, s)

/-- Translation of one address for an engine, a gate or the queue machinery, walked to its end (R393: as U-mode). -/
def State.translate (s : State) (t : Tlb) (ctx va : Nat) (acc : Acc) : TrRes × State :=
  let (r, s) := s.translate1 t ctx va acc true
  match r with
  | .walk w => State.walkLoop 26 (s.modHub (fun h => {h with walksN := h.walksN + 1})) t w
  | r => (r, s)

/-! ### Invalidation (R400, R401) -/

/-- Entries that meet a predicate removed from every cache. -/
def State.tlbDrop (s : State) (p : TEntry → Bool) (q : WEntry → Bool) : State :=
  let f := fun (l : List TEntry) => l.filter (fun e => !p e)
  s.modHub (fun h => {h with wcache := h.wcache.filter (fun e => !q e), tcache := f h.tcache, utlb := h.utlb.map (fun x => (x.1, f x.2)),
                             cutlb := h.cutlb.map (fun x => (x.1, f x.2))})

/-- A page of a size meets a range. -/
def overlaps (a lga base len : Nat) : Bool := a * 2 ^ lga < base + len && base < (a + 1) * 2 ^ lga
/-- Whether a range of IPAs meets the stage-2 leaf of a cached translation (R400). -/
def TEntry.leafMeets (e : TEntry) (a0 a1 : Nat) : Bool := overlaps (e.ipage * 2 ^ e.lg / 2 ^ e.lg2) e.lg2 a0 a1
/-- Whether a range of IPAs meets the stage-2 leaf or table entry a walk cache entry was read through or is (R400). -/
def WEntry.leafMeets (e : WEntry) (a0 a1 : Nat) : Bool :=
  if e.stage2 then overlaps e.idx (lvlLg e.lvl) a0 a1 else overlaps (e.ipa / 2 ^ e.lg) e.lg a0 a1

end Sys2Proof.Machine
end

