-- ==== Sys2Proof/Machine/ContextCore.lean ====
section
/-! DEFINITION. What contexts, queues and fault queues share (chapters 14–16): accesses of the queue machinery, fault
records (R403–R411), status lines (R370), doorbells (R372), loss and abort (R380), the context image (R65–R67). -/

namespace Sys2Proof.Machine

/-! ### Accesses to a physical address, graft apertures included (R326) -/

/-- The site of an aperture address, and what its bung or its gate answers a hub agent's request (R25, R327). -/
def apertureSite (pa : Nat) : Nat := (pa - 0xF800000000) / 2 ^ 32
def State.apStatus (s : State) (rt : Rights) (pa : Nat) : Status :=
  let g := s.gateOf (apertureSite pa)
  let w2 := (tget 0 g.cap 2).toNat
  if s.bunged (apertureNi pa) then .bunged
  else if g.adm && bit w2 1 && pa % 2 ^ 32 < 2 ^ bits w2 37 32 && (rt.mgmt || (g.bound && g.slice.val = rt.slice)) then .ok
  else .refused
/-- A request turned away counted: by the bung, or in OD 0x29ss.0E. -/
def State.apRefused (s : State) (st : Status) (pa : Nat) : State :=
  match st with
  | .bunged => s.bungCount (apertureNi pa) 1
  | .refused => s.modGate (apertureSite pa) (fun g => {g with odDisc := g.odDisc + 1})
  | _ => s

/-- n bytes at a physical address for a hub agent. An aperture read is sent to its graft; its data is not fixed here
(log 21). -/
def State.paGet (s : State) (rt : Rights) (kslot pa n : Nat) : Status × Bool × List Byte × State :=
  if s.inAperture pa then
    let s := s.chargeAgent rt .rd pa ((pa % 64 + n + 63) / 64)
    match s.apStatus rt pa with
    | .ok => (.ok, false, s.freeBytes n, s.bump.emit (.req rt.ni (apertureNi pa) .rd pa n 0 rt.slice [] []))
    | st => (st, false, List.replicate n 0, s.apRefused st pa)
  else s.agentBytes rt kslot pa n

/-- Bytes put at a physical address by a hub agent; a write to an aperture is sent to its graft. -/
def State.paPut (s : State) (rt : Rights) (op : TOp) (kslot pa : Nat) (bs : List Byte) : Status × State :=
  if s.inAperture pa then
    let s := s.chargeAgent rt .wr pa ((pa % 64 + bs.length + 63) / 64)
    match s.apStatus rt pa with
    | .ok => (.ok, s.emit (.req rt.ni (apertureNi pa) (if pa % 64 = 0 && bs.length % 64 = 0 then .wr else .wrp) pa bs.length 0
        rt.slice (sectorsOf ((bs.length + 63) / 64) bs) []))
    | st => (st, s.apRefused st pa)
  else s.agentPut rt op kslot pa bs

/-- Master NI of the context, queue and fence machinery for a queue slot, or of a slice's fault queue (R600), and its rights
in the name of a slice. -/
def machineryNi (q : Nat) : Nat := niService (q % 4) 2
def machinery (q slice : Nat) : Rights := {ni := machineryNi q, slice := slice}

/-- Outcome of an access of the queue machinery. -/
inductive VOut where
  | done
  | fault (c : XCause) (ipa : Nat) (wlk : Bool)
  | bad (st : Status)
  deriving DecidableEq, Repr

/-- A write of the queue machinery within one page of a context's view: STASH in device memory (R370), a memory write
in the host window (R175). -/
def State.qWrite (s : State) (ctx va : Nat) (bs : List Byte) : VOut × State :=
  match s.translate .none' ctx va .write with
  | (.cask pa k, s) =>
    let (st, s) := s.paPut (machinery ctx (s.ctxOf ctx).slice.val) .stash k pa bs
    (if st = .ok then .done else .bad st, s)
  | (.host iova, s) =>
    let (st, s) := s.hostPost (s.ctxOf ctx).slice.val iova bs
    (if st = .ok then .done else .bad st, s)
  | (.fault c i w, s) => (.fault c i w, s)
  | (.walk _, s) => (.bad .timeout, s)

/-! ### Fault records (R403–R411) -/

/-- Words of a fault record at index i (R408); `nfold` for a folded one (R411). -/
def FaultRec.words (r : FaultRec) (i : Nat) (nfold : Option Nat) : List Nat :=
  let w0 := r.ctx + 2 ^ 12 * r.kind + 2 ^ 16 * r.vint + 2 ^ 32 * r.cause + 2 ^ 40 * r.acc
    + 2 ^ 42 * b2n nfold.isSome + 2 ^ 43 * b2n r.fatal + 2 ^ 44 * b2n r.wlk + 2 ^ 47 * (i / 8192 % 2) + 2 ^ 48 * r.who
  let w3 := match nfold with
    | some n => n % 2 ^ 32
    | none => r.elen + 2 ^ 21 * r.eoff
  [w0, r.addr, r.ipa, w3]

def wordsBytes (ws : List Nat) : List Byte := (ws.map (leBytes 8)).flatten

/-- The address a fault queue's record i lies at (R407). -/
def FaultQ.slot (q : FaultQ) (i : Nat) : Nat := bits q.base.toNat 47 18 * 2 ^ 18 + 32 * (i % 8192)
/-- Records in the queue. -/
def FaultQ.used (q : FaultQ) : Nat := (q.tail - q.head).toNat

/-- The open batch of a slice closes: folded records first, then the batch, in order, as far as the queue has room;
then `vec` is raised once (R410, R411). Nothing is written while `en` = 0 or after the freeze tick (R413). -/
def State.batchClose (s : State) (sl : Nat) : State :=
  let q := s.fqOf sl
  if !q.en || (s.sliceOf sl).ticked then s
  else
    let room := 8192 - q.used
    let folded := q.folded.take room
    let plain := q.batch.take (room - folded.length)
    let items := folded.map (fun f => (f.first, some f.n)) ++ plain.map (fun r => (r, none))
    if items.isEmpty then s
    else
      let s := items.foldl (fun s it =>
        let q := s.fqOf sl
        let i := q.tail.toNat
        let bs := wordsBytes (it.1.words i it.2)
        let s := if bit q.base.toNat 0 then (s.hostPost sl (q.slot i) bs).2
          else (s.agentPut (machinery sl sl) .stash (bits q.base.toNat 6 1) (q.slot i) bs).2
        (s.modFq sl (fun q => {q with tail := q.tail + 1, nrec := q.nrec + 1})).modHub
          (fun h => {h with recWritten := h.recWritten + 1})) s
      let s := s.modFq sl (fun q => {q with folded := q.folded.drop folded.length, batch := q.batch.drop plain.length})
      s.raiseSlice sl q.vec.val

/-- A fault folded into its context's state (R411). -/
def State.foldFault (s : State) (r : FaultRec) : State :=
  let s := s.modHub (fun h => {h with folds := h.folds + 1})
  s.modFq r.slice (fun q =>
    if q.folded.any (fun f => f.first.ctx = r.ctx) then
      {q with folded := q.folded.map (fun f => if f.first.ctx = r.ctx then {f with n := f.n + 1} else f)}
    else {q with folded := q.folded ++ [⟨r, 1⟩]})

/-- A fault recorded, suppressed or folded (R404, R406, R410, R411, R413). -/
def State.recordFault (s : State) (r : FaultRec) : State :=
  let s := if r.fatal then s.modHub (fun h => {h with fatals := h.fatals + 1}) else s
  let key := (r.ctx, r.addr / 4096)
  let q := s.fqOf r.slice
  if !r.fatal && s.hub.keys.contains key then s.modHub (fun h => {h with suppressed := h.suppressed + 1})
  else if (s.sliceOf r.slice).ticked || !q.en then s.foldFault r
  else if 8192 ≤ q.used + q.batch.length then (s.batchClose r.slice).foldFault r
  else
    let s := s.modHub (fun h => if r.fatal || 16384 ≤ h.keys.length then h else {h with keys := h.keys ++ [key]})
    let s := s.modFq r.slice (fun q => {q with batch := q.batch ++ [r]})
    if 64 ≤ q.batch.length + 1 then s.batchClose r.slice else s

/-- The record of a fault of a requester of a context. -/
def State.mkFault (s : State) (ctx kind who : Nat) (c : XCause) (acc : Acc) (addr ipa : Nat) (wlk : Bool)
    (elen eoff : Nat) : FaultRec :=
  { ctx := ctx, kind := kind, vint := (s.ctxOf ctx).vint.toNat, cause := c.code, acc := acc.code, fatal := c.fatal,
    wlk := wlk, who := who, addr := addr, ipa := ipa, elen := elen, eoff := eoff, slice := (s.ctxOf ctx).slice.val }

/-! ### Barriers breaking (R52) -/

/-- A waiting thread of a broken channel wakes with the error status. -/
def Thread.breakWake (t : Thread) (ch : Nat) : Thread :=
  match t.wait with
  | .barrier n rd c _ =>
    if c = ch then {({t with wait := .none, lbBrk := true, barIn := false}.setX rd 2).adv n with lbArr := false} else t
  | _ => t

def State.mapThreads (s : State) (f : Thread → Thread) : State :=
  {s with die := s.die.map (fun d => (d.1, {d.2 with core := d.2.core.map (fun c =>
    (c.1, {c.2 with thr := c.2.thr.map (fun t => (t.1, f t.2))}))}))}

/-- A channel breaks: every waiting thread wakes with the error status (R52). -/
def State.breakChan (s : State) (ch : Nat) : State :=
  (s.modBar ch (fun b => {b with broken := true})).mapThreads (·.breakWake ch)

/-! ### Queues: status line, error, doorbell -/

/-- The 64 B of a queue's status line (R370). -/
def Queue.line (q : Queue) (now : Nat) : List Byte :=
  leBytes 4 q.head.toNat ++ leBytes 4 q.tail.toNat ++ leBytes 2 q.vint.toNat ++ leBytes 1 q.state.code
    ++ leBytes 1 q.err.toNat ++ leBytes 8 now ++ List.replicate 44 0

def State.ctxFrozen (s : State) (x : Nat) : Bool := (s.sliceOf (s.ctxOf x).slice.val).ticked

/-- The status line written, unless the slice's freeze tick has come (R370, R423). -/
def State.lineWrite (s : State) (q : Nat) : VOut × State :=
  let e := s.queueOf q
  if s.ctxFrozen e.ctx.val then (.done, s)
  else s.qWrite e.ctx.val e.sline.toNat (e.line s.now)

/-- The vector of a queue (R373, R421). -/
def State.raiseQueue (s : State) (q : Nat) : State :=
  let e := s.queueOf q
  s.raiseSlice (s.ctxOf e.ctx.val).slice.val e.vec.val

/-- A queue enters ERROR; one in ERROR, DRAIN or OFF keeps its state and its cause (R373). -/
def State.queueErr (s : State) (q err : Nat) : State :=
  if (s.queueOf q).state = .on then
    let s := s.modQueue q (fun e => {e with state := .error, err := BitVec.ofNat 8 err})
    (s.lineWrite q).2.raiseQueue q
  else s

/-! ### Loss and abort (R380) -/

/-- A command block's end. -/
def State.cmdEnd (s : State) (b code : Nat) : State :=
  s.modHub (fun h => {h with cmd := tmod {} h.cmd b (fun c => {c with busy := false, code := BitVec.ofNat 8 code, cur := none})})

/-- Queue slots of a context that are not OFF. -/
def State.ctxQueues (s : State) (x : Nat) : List Nat :=
  (s.hub.queue.filter (fun q => q.2.ctx.val = x && q.2.state ≠ .off)).map (·.1)

/-- The queue slot of a descriptor. -/
def Desc.queue (d : Desc) : Option Nat := match d.src with | .queue q => some q.val | .firmware => none
/-- Fields of a descriptor (R162, R163). -/
def Desc.word (d : Desc) (i : Nat) : Nat := (nth 0 d.w i).toNat
def Desc.sig (d : Desc) : Bool := bit (d.word 0) 15
def Desc.sfence (d : Desc) : Nat := bits (d.word 7) 15 0
def Desc.wfence (d : Desc) : Nat := bits (d.word 7) 31 16

/-- The core of an aborted context stops: its press queue and accesses are dropped, and it is out of use (R380). -/
def Core.stop (c : Core) : Core :=
  { c with ctx := none, saving := true, queue := [], stalled := [],
           thr := c.thr.map (fun t => (t.1, {t.2 with wait := .none, wfi := false, resv := none, barIn := false})) }

/-- The first steps of an abort (R380): everything up to the answers that are awaited. -/
def State.abortBegin (s : State) (x : Nat) (e : AbortEnd) (blk : Option (Fin 4)) : State :=
  let c := s.ctxOf x
  let sl := c.slice.val
  let s := match c.saving with | some (.command b) => s.cmdEnd b.val 0 | _ => s
  let s := s.modCtx x (fun c => { c with
    state := .abort, pend := true, tchg := BitVec.ofNat 64 s.now, want := none, saving := none, thawWant := false,
    aborting := some (e, blk), pos := none })
  let s := match c.pos with
    | some p => (((s.modCore p.val Core.stop).modDie (p.val / 256) (fun d => { d with
        held := d.held.filter (fun q => hartCore q.hart ≠ p.val) })).modHub (fun h => { h with
        posHeld := p :: h.posHeld, walks := h.walks.filter (fun w => hartCore w.hart ≠ p.val) }))
    | none => s
  let s := (s.bar.filter (fun b => b.2.ctxs.contains x && !b.2.broken)).foldl (fun s b => s.breakChan b.1) s
  let qs := s.ctxQueues x
  let mine := fun (d : Desc) => match d.queue with | some q => qs.contains q | none => false
  let dropped := s.hub.desc.filter mine
  let s := s.modHub (fun h => {h with desc := h.desc.filter (fun d => !mine d)})
  let s := qs.foldl (fun s q => s.modQueue q (fun e => {e with stalled := false})) s
  let s := (s.hub.fence.filter (fun f => f.2.armed && !f.2.aband && f.2.pen && f.2.prod.val = x)).foldl
    (fun s f => s.fenceAbandon f.1) s
  dropped.foldl (fun s d =>
    let f := s.fenceOf d.sfence
    if d.sig && f.armed && !f.aband && f.slice.val = sl then s.fenceAbandon d.sfence else s) s

/-- A LIVE context is lost (R380), a class U event (R547). -/
def State.ctxLose (s : State) (x : Nat) (c : LossCause) : State :=
  if (s.ctxOf x).state = .live then
    (s.logEvent 2 dieHub 0x2A00 x c.code).abortBegin x (.lost c) none
  else s

/-- A queue ended by its context's abort: OFF on destroy, ERROR with CTXEND on loss (R380). A draining queue ends OFF
and a queue already in ERROR keeps its cause (R373). -/
def State.queueEnd (s : State) (q : Nat) (destroy : Bool) : State :=
  let e := s.queueOf q
  let s := match e.drainBlk with | some b => s.cmdEnd b.val 0 | none => s
  let off := destroy || e.state = .drain
  let s := s.modQueue q (fun e => { e with
    state := if off then .off else .error,
    err := if off then 0 else if e.state = .error then e.err else 5,
    vint := e.vint + 1, drainBlk := none, stalled := false, lineDue := false, frozenDb := 0 })
  let s := (s.lineWrite q).2
  if off then s else s.raiseQueue q

/-- The last steps of an abort, once every answer is in (R380). -/
def State.abortEnd (s : State) (x : Nat) : State :=
  match (s.ctxOf x).aborting with
  | none => s
  | some (e, blk) =>
    let s := {s with gate := s.gate.map (fun (g : Nat × Gate) => (g.1, {g.2 with rule := g.2.rule.map (fun (r : Nat × Rule) =>
      (r.1, if bits r.2.w0.toNat 27 16 = x && bits r.2.w0.toNat 7 6 = 0 then {r.2 with w0 := r.2.w0 &&& ~~~1} else r.2))}))}
    let destroy := match e with | .free => true | .lost _ => false
    let s := (s.ctxQueues x).foldl (fun s q => s.queueEnd q destroy) s
    let s := s.tlbDrop (fun t => t.ctx = x) (fun t => !t.stage2 && t.owner = x)
    let sl := (s.ctxOf x).slice.val
    let s := s.modFq sl (fun q => { q with
      batch := q.batch.filter (fun r => r.ctx ≠ x || r.fatal), folded := q.folded.filter (fun f => f.first.ctx ≠ x || f.first.fatal) })
    let s := s.modHub (fun h => {h with keys := h.keys.filter (fun k => k.1 ≠ x)})
    let s := s.modCtx x (fun c => { c with
      state := if destroy then .free else .lost, pend := false, vint := c.vint + 1, aborting := none,
      tchg := BitVec.ofNat 64 s.now,
      cause := match e with | .free => 0 | .lost w => BitVec.ofNat 8 w.code })
    let s := if destroy then s else s.modHub (fun h => {h with lost := h.lost + 1})
    match blk with | some b => s.cmdEnd b.val 0 | none => s

/-! ### Fault outcomes of the queue machinery (R403) -/

/-- A translation fault of the queue machinery: the queue stalls, or enters ERROR with XLATE; WALKPOI loses the
context (R196). -/
def State.queueFault (s : State) (q : Nat) (c : XCause) (acc : Acc) (va ipa : Nat) (wlk : Bool) (n : Nat) : State :=
  let x := (s.queueOf q).ctx.val
  let s := s.recordFault (s.mkFault x 3 q c acc va ipa wlk n 0)
  if c = .walkpoi then s.ctxLose x .poison
  else if c.fatal then s.queueErr q 4
  else s.modQueue q (fun e => {e with stalled := true})

/-- The status line written after a change, with what a failure does (R370, R373). -/
def State.statusLine (s : State) (q : Nat) : State :=
  let e := s.queueOf q
  match s.lineWrite q with
  | (.done, s) => s
  | (.fault c i w, s) => (s.modQueue q (fun e => {e with lineDue := !c.fatal})).queueFault q c .write e.sline.toNat i w 64
  | (.bad _, s) => s.queueErr q 6

/-! ### Doorbells (R371, R372) -/

/-- Pending and enabled interrupts end a `wfi` (R43). -/
def Thread.wake (t : Thread) : Thread :=
  if t.wfi && (t.csrRaw Csr.mip &&& t.csrRaw Csr.mie) ≠ 0 then {t with wfi := false} else t

/-- The queue interrupt reaches a thread: n doorbells of queue q (R43, R372). -/
def Thread.queueIrq (t : Thread) (q n : Nat) : Thread :=
  let mip := t.csrRaw Csr.mip
  ({ t.setCsr Csr.mip (mip ||| 0x10000) with
     lqSlot := BitVec.ofNat 14 q, lqNq := BitVec.ofNat 32 (satAdd 0xFFFFFFFF t.lqNq.toNat n) }).wake

/-- A context becomes wanting, after those that want already; one that is being saved waits for its save to end
(R366). -/
def State.wantNow (s : State) (x : Nat) : State :=
  let c := s.ctxOf x
  if c.state = .live && c.want.isNone && (c.pos.isNone || c.saving.isSome) then
    (s.modCtx x (fun c => {c with want := some s.hub.wantSeq})).modHub (fun h => {h with wantSeq := h.wantSeq + 1})
  else s

/-- A discarded doorbell counted at its queue and, for a host doorbell, at its endpoint. -/
def State.dbDiscard (s : State) (q : Nat) (e : Option Ep) : State :=
  let s := s.modQueue q (fun e => {e with ndisc := BitVec.ofNat 32 (satAdd 0xFFFFFFFF e.ndisc.toNat 1)})
  match e with
  | some e => s.modEp e (fun h => {h with dbdisc := BitVec.ofNat 32 (satAdd 0xFFFFFFFF h.dbdisc.toNat 1)})
  | none => s

/-- A doorbell with a tail (R372). While the slice is frozen it moves the tail only (R425). -/
def State.ringDoorbell (s : State) (q : Nat) (t : Half) (e : Option Ep) : State :=
  let u := s.queueOf q
  let x := u.ctx.val
  let ents := 2 ^ (u.lgn.toNat + 4)
  if u.state ≠ .on || (s.ctxOf x).state ≠ .live then s.dbDiscard q e
  else if 2 ^ 31 ≤ (t - u.tail).toNat then s.dbDiscard q e
  else if t = u.tail then s
  else if (u.kind = 1 && ents < (t - u.head).toNat) || (u.kind ≠ 1 && ents < (t - u.tail).toNat) then s.queueErr q 2
  else
    let s := s.modQueue q (fun u => {u with tail := t, ndb := u.ndb + 1})
    let s := match e with | some e => s.xlogAdd 1 e q t.toNat | none => s
    if s.ctxFrozen x then s.modQueue q (fun u => {u with frozenDb := u.frozenDb + 1})
    else
      let s := if u.kind = 1 then s else
        match (s.ctxOf x).pos with
        | some p => (s.modThr (coreHart p.val u.thr.val) (fun th => th.queueIrq q 1)).wantNow x
        | none => (s.modQueue q (fun u => {u with frozenDb := u.frozenDb + 1})).wantNow x
      s.statusLine q

/-! ### Context image (R65) -/

/-- The CSRs of the scalar block from `0x400`, in order. -/
def imageCsrs : List Nat :=
  [Csr.mstatus, Csr.medeleg, Csr.mideleg, Csr.mie, Csr.mip, Csr.mtvec, Csr.mscratch, Csr.mepc, Csr.mcause, Csr.mtval,
   Csr.mcounteren, Csr.mcountinhibit, Csr.stvec, Csr.sscratch, Csr.sepc, Csr.scause, Csr.stval, Csr.scounteren,
   Csr.mcycle, Csr.minstret]

/-- CSRs with their offsets in the scalar block. -/
def imageMap : List (Nat × Nat) :=
  [(0x208, Csr.fcsr), (0x210, Csr.vtype), (0x218, Csr.vl), (0x220, Csr.vstart), (0x228, Csr.vxrm), (0x230, Csr.vxsat)]
  ++ ((List.range 7).map (fun i => (0x240 + 8 * i, Csr.pfmt + i)))
  ++ ((List.range 4).map (fun i => (0x280 + 8 * i, Csr.dcfg + i)))
  ++ ((List.range 16).map (fun i => (0x300 + 8 * i, 0xB03 + i)))
  ++ ((List.range 16).map (fun i => (0x380 + 8 * i, 0x323 + i)))
  ++ ((List.range 20).map (fun i => (0x400 + 8 * i, nth 0 imageCsrs i)))
  ++ [(0x500, 0x3A0), (0x508, 0x3A2)]
  ++ ((List.range 16).map (fun i => (0x510 + 8 * i, 0x3B0 + i)))

/-- The 2 KiB scalar block of a thread. -/
def Thread.block (t : Thread) : Memory :=
  let m := (List.finRange 32).foldl (fun (m : Memory) i => m.writeNat (8 * i.val) 8 (t.xr i).toNat) []
  let m := (List.finRange 32).foldl (fun (m : Memory) i => m.writeNat (0x100 + 8 * i.val) 8 (t.fr i).toNat) m
  let m := m.writeNat 0x200 8 t.pc.toNat
  let m := imageMap.foldl (fun (m : Memory) p => m.writeNat p.1 8 (t.csrRaw p.2).toNat) m
  m.writeNat 0x4A0 8 (t.priv.toNat + 256 * b2n t.wfi)

/-- `LBAR` of a thread (R43). -/
def Thread.lbar (t : Thread) : Nat :=
  t.lbChan.toNat + 2 ^ 8 * b2n t.lbArr + 2 ^ 9 * b2n t.lbPh + 2 ^ 10 * b2n t.lbBrk
/-- `LQLAST` of a thread (R43). -/
def Thread.lqlast (t : Thread) : Nat := t.lqSlot.toNat + 2 ^ 16 * t.lqNq.toNat

/-- The part of an image after the scratch: offsets from 0x8_0000 (R65). The decanter control state at 0x9_A100 is written as 0
and ignored on load, since no rule gives it a content (DESIGN CHOICE, log 44). -/
def Core.imageTail (c : Core) : Memory :=
  let m := (List.range 8192).foldl (fun (m : Memory) i => m.writeNat (4 * i) 4 (tget 0 c.tile i)) []
  let m := (List.range 8192).foldl (fun (m : Memory) i => m.writeNat (0x8000 + 4 * i) 4 (tget 0 c.dO i)) m
  let m := (List.finRange 4).foldl (fun (m : Memory) t =>
    let th := c.thread t
    let m := (List.range 32).foldl (fun (m : Memory) i =>
      m.writeNat (0x10000 + 0x2000 * t.val + 256 * i) 256 (th.vr i).toNat) m
    let m := m.writeBytes (0x18000 + 0x800 * t.val) (th.block.readBytes 0 0x800)
    let b := 0x1A180 + 0x20 * t.val
    let m := m.writeNat b 8 ((th.csrRaw Csr.mie).toNat &&& 0x30000)
    let m := m.writeNat (b + 8) 8 ((th.csrRaw Csr.mip).toNat &&& 0x30000)
    let m := m.writeNat (b + 0x10) 8 th.ltcmp.toNat
    let m := m.writeNat (b + 0x18) 8 th.lqlast
    m.writeNat (0x1A200 + 8 * t.val) 8 th.lbar) m
  let m := (List.range 32).foldl (fun (m : Memory) r =>
    (m.writeNat (0x1A000 + 8 * r) 4 (tget 0 c.dm r)).writeNat (0x1A004 + 8 * r) 4 (tget 0 c.dl r)) m
  m.writeNat 0x1A140 8 c.pstat.toNat

/-- The 640 KiB image of a core (R65). -/
def Core.image (c : Core) : List Byte :=
  c.scratch.readBytes 0 0x80000 ++ c.imageTail.readBytes 0 0x20000

/-- A thread read back from an image's part after the scratch. -/
def imageThread (m : Memory) (t : Nat) : Thread :=
  let b := 0x18000 + 0x800 * t
  let w := fun (o n : Nat) => m.readNat o n
  let regs := fun (o : Nat) => (List.range 32).map (fun i => (i, BitVec.ofNat 64 (w (b + o + 8 * i) 8)))
  let cb := 0x1A180 + 0x20 * t
  let lb := w (0x1A200 + 8 * t) 8
  let csrs := imageMap.foldl (fun (c : Tab Word) p => tput c p.2 (csrLoaded p.2 (BitVec.ofNat 64 (w (b + p.1) 8)))) []
  let loc := fun (n o : Nat) (c : Tab Word) =>
    tput c n ((tget 0 c n &&& ~~~0x30000) ||| (BitVec.ofNat 64 (w (cb + o) 8) &&& 0x30000))
  let th : Thread :=
    { pc := BitVec.ofNat 64 (w (b + 0x200) 8), x := (regs 0).drop 1, f := regs 0x100,
      v := (List.range 32).map (fun i => (i, BitVec.ofNat 2048 (w (0x10000 + 0x2000 * t + 256 * i) 256))),
      csr := loc Csr.mip 8 (loc Csr.mie 0 csrs), priv := BitVec.ofNat 2 (w (b + 0x4A0) 1), wfi := bit (w (b + 0x4A0) 8) 8,
      ltcmp := BitVec.ofNat 64 (w (cb + 0x10) 8), lqSlot := BitVec.ofNat 14 (w (cb + 0x18) 8),
      lqNq := BitVec.ofNat 32 (bits (w (cb + 0x18) 8) 47 16), lbChan := BitVec.ofNat 8 lb, lbArr := bit lb 8,
      lbPh := bit lb 9, lbBrk := bit lb 10 }
  th.wake

/-- A core loaded from an image: every byte of the state comes from it (R66). -/
def imageCore (old : Core) (img : List Byte) (x : CtxId) : Core :=
  let m : Memory := Memory.writeBytes [] 0 (img.drop 0x80000)
  let tab := fun (n o stride : Nat) => (List.range n).map (fun i => (i, m.readNat (o + stride * i) 4))
  { old with
    thr := (List.range 4).map (fun t => (t, imageThread m t)), scratch := Memory.writeBytes [] 0 (img.take 0x80000),
    pstat := PFlags.ofNat (m.readNat 0x1A140 8), tile := tab 8192 0 4, dO := tab 8192 0x8000 4,
    dm := tab 32 0x1A000 8, dl := tab 32 0x1A004 8, queue := [], stalled := [], ctx := some x, saving := false,
    cycflg := old.cycflg ||| 0x10 }

/-- The save area of a context: key slot and base (R363). -/
def Ctx.area (c : Ctx) : Nat × Nat := (c.skslot.val, c.sbase.toNat * 65536)

/-- A context loaded on a position (R66); it is lost when its image cannot be read. -/
def State.loadCtx (s : State) (p : CoreId) (x : CtxId) : State :=
  let (k, base) := (s.ctxOf x.val).area
  let (st, poi, bs, s) := s.agentBytes (machinery x.val 64) k base 0xA0000
  let badMode := (List.range 4).any (fun t => (nth 0 bs (0x984A0 + 0x800 * t)).toNat % 4 = 2)
  let s := s.modCtx x.val (fun c => {c with want := none})
  if poi && st = .ok then s.ctxLose x.val .poison
  else if st ≠ .ok then s.ctxLose x.val .image
  else if badMode then s.ctxLose x.val .image
  else
    let inside := (s.ctxOf x.val).barIn
    let s := s.modCore p.val (fun c => imageCore c bs x)
    let s := s.modCore p.val (fun c => {c with thr := c.thr.map (fun t => (t.1, {t.2 with barIn := inside.getLsbD t.1}))})
    let s := s.modHub (fun h => {h with cutlb := tdel h.cutlb p.val})
    let s := s.modCtx x.val (fun c => { c with
      pos := some p, nload := c.nload + 1, loadedAt := s.now, quantum := false, idle := false, thawWant := false })
    -- doorbells accepted meanwhile (R425)
    (s.hub.queue.filter (fun q => q.2.ctx = x && q.2.kind = 2 && 0 < q.2.frozenDb)).foldl (fun s q =>
      (s.modThr (coreHart p.val q.2.thr.val) (fun t => t.queueIrq q.1 q.2.frozenDb)).modQueue q.1
        (fun u => {u with frozenDb := 0})) s

/-- A context's image written, and which of its threads are inside a `barw` noted (R67, R131). -/
def State.saveImage (s : State) (p : CoreId) (x : CtxId) : Status × State :=
  let (k, base) := (s.ctxOf x.val).area
  let s := s.coreSettle p.val
  let inside := (List.range 4).foldl (fun (m : Nat) t => m + if ((s.coreOf p.val).thread (Fin.ofNat 4 t)).barIn then 2 ^ t else 0) 0
  let s := s.modCtx x.val (fun c => {c with barIn := BitVec.ofNat 4 inside})
  s.agentPut (machinery x.val 64) .wri k base (s.coreOf p.val).image

/-- A position left free: nothing of the context stays in use. -/
def Core.unload (c : Core) : Core :=
  { c with ctx := none, saving := false,
           thr := c.thr.map (fun t => (t.1, {t.2 with wait := .none, resv := none, barIn := false})) }

end Sys2Proof.Machine
end

