-- ==== Sys2Proof/Machine/Domains.lean ====
section
/-! DEFINITION. Bungs and endpoint domains (R24, R25, R241–R247, R266): engaging and releasing, taking a site or a cask
out of service. -/

namespace Sys2Proof.Machine

/-- The answer of a register write. -/
def State.ack (s : State) (who : Who) (st : Status) : State := s.emit (.regAck who st 0)

/-- A register access at the NI that owns it (R221, R600): behind that NI's bung it is answered BUNGED (R25), but for hub
controllers and MGD, which work on the hub while bungs are engaged (DESIGN CHOICE, log 44). -/
def State.atOwner (s : State) (who : Who) (ni : Nat) (f : State → State) : State :=
  if !who.mgmt && s.bunged ni then s.ack who .bunged else f s

/-- A register write by hub controllers or MGD; anyone else is refused. -/
def State.mgmtWrite (s : State) (who : Who) (f : State → State) : State :=
  if who.mgmt then (f s).ack who .ok else s.ack who .refused

/-! ### Critical temperature (R513) -/

/-- A die reaches its critical temperature: counted, and the over-temperature output asserted. -/
def State.dieCritical (s : State) (i : Nat) : State :=
  if s.power.critical.contains i then s
  else
    let s := s.modPow i (fun p => {p with events := satAdd 8191 p.events 1})
    {s with power := {s.power with critical := i :: s.power.critical, overtemp := true}}
/-- A die is below its critical temperature. -/
def State.dieCool (s : State) (i : Nat) : State :=
  {s with power := {s.power with critical := s.power.critical.filter (· ≠ i)}}

/-! ### Bungs -/

/-- The NIs of a domain (R219). -/
def domainNis : Domain → List Nat
  | .site x => (List.range 8).map (niSite x.val)
  | .cask k => (List.range 8).map (fun j => 0x80 + 8 * k.val + j)
  | .ep e => (List.range 4).map (niEp e)
  | .mgd => [niMgd]

/-- A bung engages: what its NI holds on the router side goes out, and every request in its record is answered BUNGED
(R242). -/
def State.bungEngage (s : State) (ni : Nat) : State :=
  let i := s.niOf ni
  if i.eng then s
  else
    let s := s.modNi ni (fun i => {i with eng := true, absorbed := 0, held := [], record := []})
    let s := i.held.foldl (fun s h => s.sendReq ni h.1 h.2.1 h.2.2) s
    (i.record.foldl (fun s u => s.turnAway ni u .bunged) s).bungCount ni i.record.length

/-- The NIs of the hub's own blocks are in the always-on domain: no reset of theirs keeps their bungs engaged (R24,
R244). -/
def niOwn (n : Nat) : Bool := 0xF0 ≤ n
/-- The domain of an NI is powered, out of reset and reports ready (R244). -/
def State.niReady (s : State) (n : Nat) : Bool := niOwn n || (s.niOf n).ready

/-- A bung releases when its domain is ready and `hold` is 0 (R244), and every domain reset with it is ready (R247). -/
def State.bungRelease (s : State) (ni : Nat) : State :=
  let bars := fun (p : List Nat) => p.contains ni && p.any (fun n => !s.niReady n)
  if s.niReady ni && !(s.niOf ni).hold && !s.trellis.parts.any bars then
    (s.modNi ni (fun i => {i with eng := false})).modTrellis (fun t => {t with parts := t.parts.filter (fun p => !p.contains ni)})
  else s

/-- The NI of a domain loses its endpoint: tags and held requests of the endpoint side are gone, waiting route changes
apply, since no earlier request can be answered any more (R234, R240). -/
def State.niDown (s : State) (ni : Nat) : State :=
  let ch := (s.niOf ni).change
  let s := s.modTrellis (fun t => {t with route := ch.foldl (fun r c => tput r (1024 * ni + c.1) c.2) t.route})
  s.modNi ni (fun i => {i with ready := false, tags := [], quar := [], held := [], change := []})

/-- A domain's bungs engage. -/
def State.bungAll (s : State) (d : Domain) : State := (domainNis d).foldl State.bungEngage s
/-- A domain's NIs are down. -/
def State.nisDown (s : State) (d : Domain) : State := (domainNis d).foldl State.niDown s
/-- A domain is powered, out of reset and reports ready (R244). -/
def State.nisReady (s : State) (d : Domain) : State :=
  (domainNis d).foldl (fun s n => s.modNi n (fun i => {i with ready := true})) s
/-- A domain is out of service: nothing but bringing it back makes it ready again (R244). -/
def State.nisUnready (s : State) (d : Domain) : State :=
  (domainNis d).foldl (fun s n => s.modNi n (fun i => {i with ready := false})) s
/-- A domain's bungs, and those of the domains reset with it, release as far as they may. -/
def State.bungFree (s : State) (d : Domain) : State :=
  let ns := domainNis d
  (ns ++ (s.trellis.parts.filter (fun p => p.any ns.contains)).flatten).foldl State.bungRelease s

/-! ### Sites -/

/-- A die as its domain leaves reset: its cluster maps are loaded again from the service records (R55). -/
def Die.afterReset (d : Die) : Die :=
  { cluster := d.cluster.map (fun c => (c.1, { c.2 with
      subEn := c.2.subEn && c.2.retired.getLsbD c.2.subPos.toNat, subst := .idle, testing := none })),
    substRes := if d.substRes = 1 || d.substRes = 2 then 0 else d.substRes, clmapDisc := d.clmapDisc }

/-- Contexts loaded on a site. -/
def State.loadedOn (s : State) (x : Nat) : List Nat :=
  (s.hub.ctx.filter (fun c => match c.2.pos with | some p => p.val / 256 = x | none => false)).map (·.1)

/-- A site's bungs engage, its directory entries are cleared (R241, R266), and the contexts loaded on it are lost with
cause LINK (R308; for the other causes DESIGN CHOICE, log 22). -/
def State.siteCut (s : State) (x : Site) : State :=
  let s := (s.bungAll (.site x)).purgeSite x.val
  (s.loadedOn x.val).foldl (fun s c => s.ctxLose c .link) s

/-- A site's domain enters reset (R246): nothing its die held survives. -/
def State.siteReset (s : State) (x : Site) : State :=
  let s := s.siteCut x
  let s := s.nisDown (.site x)
  let s := s.modDie x.val Die.afterReset
  let s := s.modHub (fun h => { h with
    walks := h.walks.filter (fun w => hartSite w.hart ≠ x.val), cutlb := h.cutlb.filter (fun t => t.1 / 256 ≠ x.val),
    utlb := tdel h.utlb (96 + x.val) })
  let s := s.modGate x.val (fun g => { g with
    st := if g.adm then .admitting else g.st, out := [], into := [], late := [], adm := false, held := false, kept := [], waitIn := [], setting := [] })
  s.modLink x.val (fun l => { l with
    ident := none, idreqs := 0, caprd := none, mod := l.mod.map (fun m => (m.1, {m.2 with st := .idle})) })

/-- A site's domain reset: its bungs release when it has trained (R246). -/
def State.siteDomainReset (s : State) (x : Site) : State :=
  ((s.siteReset x).modLink x.val (fun l => {l with recovering := true, failing := false})).modPow (dieSite x.val) (fun p => {p with reports := 0})

/-- The reset that a module's failure brings, once no context is loaded on the site any more (R308). -/
def State.failureReset (s : State) (x : Site) : State :=
  if (s.linkOf x.val).failing && (s.loadedOn x.val).isEmpty then s.siteDomainReset x else s

/-- A site's domain is powered down. -/
def State.siteOff (s : State) (x : Site) : State :=
  ((s.siteReset x).modGate x.val (fun g => {g with powered := false})).modPow x.val (fun p => {p with reports := 0})

/-- A compute site is fenced until the next bring-up, a class D event (R307, R547). -/
def State.siteFence (s : State) (x : Site) (code : Nat) : State :=
  let s := ((s.siteCut x).nisUnready (.site x)).modLink x.val (fun l => {l with fenced := true})
  let s := if s.isGraft x.val then s.modGate x.val (fun g => {g with fenced := true, adm := false, st := .fenced}) else s
  (s.wear (dieSite x.val) 3).logEvent 3 (dieSite x.val) code x.val 0

/-! ### Casks -/

/-- A cask whose domain was reset or powered down: its contents, its directory and its requests are gone; what its die
keeps for good, its counters and its hub registers stay (R198, R202, R203). -/
def Cask.lose (c : Cask) : Cask :=
  { c with mem := [], poisBase := true, poisFlip := [], health := [], ktag := [], inService := false, filled := false,
           dir := [], txns := [], parked := [], redirs := [], grants := [], rowCorr := [], rowUnc := [], cycle := [], turns := [],
           pc := c.pc.map (fun p => (p.1, {p.2 with queue := [], openRow := [], tg := {}, refreshed := []})) }

/-- A cask's domain enters reset behind its bungs (R246). -/
def State.caskReset (s : State) (k : CaskId) : State :=
  let s := s.bungAll (.cask k)
  (s.nisDown (.cask k)).modCask k.val Cask.lose

/-- A cask fenced and powered down (R200, R513). -/
def State.caskFence (s : State) (k : CaskId) (code : Nat) : State :=
  let s := (s.caskReset k).modCask k.val (fun c => {c with fenced := true})
  (s.wear (dieCask k.val) 3).logEvent 3 (dieCask k.val) code k.val 0

end Sys2Proof.Machine
end

