-- ==== Sys2Proof/Machine/CaskCmds.lean ====
section
/-! DEFINITION. What the casks do and what is done to them (R192, R200–R214, R285, R513): refresh, temperature, the
channel controllers' scheduling, staves, spare rows and frames, reserve copies and healing, the traffic generators. -/

namespace Sys2Proof.Machine

/-! ### Spares and wear -/

/-- Frames of 64 KiB (R203): usable ones below `spareBase`, spare ones from there. -/
def spareBase : Nat := usableEnd / 65536
def spareFrames : Nat := (spareEnd - usableEnd) / 65536

/-- Spare frames in use. -/
def Cask.sparesUsed (c : Cask) : List Nat := c.remap.map (·.2) ++ c.spareDead
/-- Spare frames left (OD 0x2403). -/
def Cask.sparesLeft (c : Cask) : Nat := spareFrames - c.sparesUsed.length
/-- Spare rows a bank has used (R202). -/
def Cask.bankUsed (c : Cask) (bk : Nat) : Nat := (c.rowFused.filter (fun r => r / 2 ^ 14 = bk)).length
/-- Spare rows left over the cask (OD 0x2402). -/
def Cask.rowsLeft (c : Cask) : Nat := 12288 - c.rowFused.length

/-- The wear level of a cask by its spares (R546). -/
def Cask.wearLevel (c : Cask) : Nat :=
  if c.fenced then 3
  else if c.worn || c.pc.any (fun p => p.2.dqStaves = 2 || p.2.caStave) then 2
  else if 2 * c.sparesLeft < spareFrames || c.rowFused.any (fun r => 4 < c.bankUsed (r / 2 ^ 14)) then 1
  else 0

/-- A cask reported worn when no spare frame is unused (R204), and its wear level judged. -/
def State.caskJudge (s : State) (k : Nat) : State :=
  let s := s.modCask k (fun c => {c with worn := c.worn || c.sparesLeft = 0})
  s.wear (dieCask k) (s.caskOf k).wearLevel

/-! ### Refresh and temperature -/

/-- A fault shows, or none: in a sector of a bank, which from then on reads as corrected or uncorrectable (R193), and in a
directory entry, which has one wrong bit or more (R257). What fails and when is free; that it shows at a bank's refresh is a
DESIGN CHOICE (log 44). -/
def Cask.faultIn (c : Cask) (pc rank bank ctr : Nat) : Cask :=
  let n := Config.freeNat ctr 193
  let m := Config.freeNat ctr 257
  let a := offOfPlace ⟨pc, rank, bank, n / 128 % 2 ^ 14, n / 4 % 32⟩ / 64
  let c := match n % 4 with
    | 1 => {c with health := tput c.health a (max 1 (tget 0 c.health a))}
    | 2 => {c with health := tput c.health a 2}
    | _ => c
  match c.dir[m / 4 % c.dir.length]? with
  | some (i, e) => match m % 4 with
    | 1 => {c with dir := tput c.dir i {e with err := if e.err = .ok then .single else .uncorrectable}}
    | 2 => {c with dir := tput c.dir i {e with err := .uncorrectable}}
    | _ => c
  | none => c

/-- REFRESH_DUE: a bank receives a per-bank refresh, for which its row is closed. -/
def execRefreshDue (k : CaskId) (pc rank : Fin 32) (bank : Fin 16) (s : State) : Res :=
  let b := 16 * rank.val + bank.val
  .next (if rank.val < 3 then s.bump.modCask k.val (fun c => (c.modPc pc.val (fun p => { p with
      refreshed := tmod 0 p.refreshed b (· + 1), openRow := tdel p.openRow b })).faultIn pc.val rank.val bank.val s.freeCtr)
    else s)

/-- The refresh interval by one sample every 100 µs: halved from 85 °C, restored after 100 samples below 83 °C (R192). -/
def Cask.refreshJudge (c : Cask) (temp : Int) : Cask :=
  let run := if temp < 830 then c.coolRun + 1 else 0
  { c with temp := temp, coolRun := run, fastRefresh := 850 ≤ temp || (c.fastRefresh && run < 100) }

/-- The throttle at 95 °C, ended by 100 samples below 92 °C (R513): samples counted while it is in force. -/
def throttleJudge (t : Tab Nat) (k : Nat) (temp : Int) : Tab Nat :=
  if 950 ≤ temp then tput t k 0
  else match tfind t k with
    | none => t
    | some n => if temp < 920 then (if 100 ≤ n + 1 then tdel t k else tput t k (n + 1)) else tput t k 0

/-- CASK_TEMP_SAMPLE. -/
def execCaskTempSample (k : CaskId) (temp : Int) (s : State) : Res :=
  let s := (s.modCask k.val (·.refreshJudge temp)).modPow (dieCask k.val) (fun p => {p with temp := temp})
  let s := {s with power := {s.power with caskThr := throttleJudge s.power.caskThr k.val temp}}
  .next (if 1000 ≤ temp then
      let s := s.dieCritical (dieCask k.val)
      if (s.caskOf k.val).fenced then s else s.caskFence k 0x2F01
    else s.dieCool (dieCask k.val))

/-! ### Scheduling (R189, R285) -/

/-- An account over its share. -/
def Cask.overShare (c : Cask) (a : Nat) : Bool := bit (tget 0 c.share a) 16 && bits (tget 0 c.share a) 15 0 ≤ tget 0 c.served a

/-- Requests with no earlier request to the same sector. -/
def schedulable : List PcReq → List PcReq
  | [] => []
  | r :: rs => r :: (schedulable rs).filter (fun q => q.sector ≠ r.sector)

/-- The requests one of which the controller serves next: the one that has waited longest, from 2 µs; else those within
share; else the others. -/
def Cask.nextReqs (c : Cask) (p : Pc) (now : Nat) : List PcReq :=
  let rs := schedulable p.queue
  match rs.filter (fun r => 2000 ≤ now - r.arrived) with
  | r :: _ => [r]
  | [] =>
    let within := rs.filter (fun r => !c.overShare r.account)
    if within.isEmpty then rs else within

/-- The controller cycle ends: what it served is added to the counts that all controllers see (R285). -/
def Cask.cycleEnd (c : Cask) : Cask :=
  {c with served := c.cycle.foldl (fun t a => tmod 0 t a.1 (· + a.2)) c.served, cycle := [], turns := []}
/-- A controller's turn: a controller that has had it in the cycle in progress begins the next cycle. -/
def Cask.turn (c : Cask) (pc : Nat) : Cask :=
  let c := if c.turns.contains pc then c.cycleEnd else c
  {c with turns := pc :: c.turns}

/-- The bank (16 rank + bank) and row of a request. -/
def Cask.rowOf (c : Cask) (r : PcReq) : Nat × Nat := let p := placeOf (64 * c.loc r.sector); (16 * p.rank + p.bank, p.row)

/-- A request served: counted to its account, its row kept open while requests to it wait, 32 accesses at most (R189). -/
def Cask.serve (c : Cask) (pc : Nat) (r : PcReq) : Cask :=
  let a := r.account
  let b := c.rowOf r
  let c' := { c with
    cycle := tmod 0 c.cycle a (· + 1), srv := tmod 0 c.srv a (· + 1),
    ovr := if c.overShare a then tmod 0 c.ovr a (· + 1) else c.ovr }
  c'.modPc pc (fun p =>
    let q := p.queue.erase r
    let n := match tfind p.openRow b.1 with | some (w, n) => if w = b.2 then n + 1 else 1 | none => 1
    {p with queue := q, beat := true,
            openRow := if n < 32 && q.any (fun x => c.rowOf x = b) then tput p.openRow b.1 (b.2, n) else tdel p.openRow b.1})

/-- CASK_CYCLE: one command cycle of a controller. Which of the requests that stand equal goes first is not fixed. -/
def execCaskCycle (k : CaskId) (pc : Fin 32) (s : State) : Res :=
  let s := s.modCask k.val (fun c => c.turn pc.val)
  let c := s.caskOf k.val
  let p := c.pcOf pc.val
  let rs := c.nextReqs p s.now
  .next (match rs[Config.freeNat s.freeCtr 7 % rs.length]? with
    | some r =>
      if thas s.power.caskThr k.val && p.beat then s.modCask k.val (fun c => c.modPc pc.val (fun p => {p with beat := false}))
      else s.bump.modCask k.val (fun c => c.serve pc.val r)
    | none => s.modCask k.val (fun c => c.modPc pc.val (fun p => {p with beat := false})))

/-! ### Staves (R200, R201) -/

/-- A PC takes a DQ or CA stave, or its cask is fenced when none is left. -/
def State.takeStave (s : State) (k : CaskId) (pc : Nat) (ca : Bool) : State :=
  let p := (s.caskOf k.val).pcOf pc
  if (if ca then !p.caStave else p.dqStaves < 2) then
    let s := s.modCask k.val (fun c => c.modPc pc (fun p =>
      if ca then {p with caStave := true} else {p with dqStaves := p.dqStaves + 1}))
    (s.caskJudge k.val).logEvent 1 (dieCask k.val) 0x2404 pc 0
  else s.caskFence k 0x2404

/-- A lane's eye at training: below 25 % of a unit interval it is replaced by a stave (R200). -/
def State.eyeTrain (s : State) (e : Eye) : State :=
  if e.margin < 25 && !(s.caskOf e.cask.val).fenced then s.takeStave e.cask e.pc.val (66 ≤ e.lane.val) else s

/-- DQ_MARGIN_SAMPLE: margin in percent of a unit interval. Sampling stops with the last spare frame. -/
def execDqMarginSample (k : CaskId) (pc : Fin 32) (_lane : Fin 66) (margin : Nat) (s : State) : Res :=
  let c := s.caskOf k.val
  .next (if !c.inService || c.fenced then s
    else if c.sparesLeft = 0 then s.caskJudge k.val
    else if margin < 15 then s.takeStave k pc.val false else s)

/-- CA_PARITY_ERROR: the command is reissued and the error counted; the sixteenth of a lane within a second replaces
it. -/
def execCaParityError (k : CaskId) (pc : Fin 32) (lane : Fin 8) (s : State) : Res :=
  let c := s.caskOf k.val
  let es := (lane.val, s.now) :: (c.pcOf pc.val).caErr.filter (fun e => s.now < e.2 + 10 ^ 9)
  let hit := 16 ≤ (es.filter (fun e => e.1 = lane.val)).length
  let keep := if hit then es.filter (fun e => e.1 ≠ lane.val) else es
  let s := s.modCask k.val (fun c => c.modPc pc.val (fun p => {p with caErr := keep}))
  .next (if hit && c.inService && !c.fenced then s.takeStave k pc.val true else s)

/-! ### Repair (R202–R204) -/

/-- Array sectors copied with correction: a poisoned one becomes the marker. -/
def Cask.copySector (c : Cask) (src dst : Nat) : Cask :=
  if c.poisoned src then c.markSector dst
  else
    let c' := c.setMark dst false
    { c' with mem := c'.mem.writeNat (64 * dst) 64 (c.raw src).toNat, health := tdel c'.health dst,
              ktag := if tget 0 c.ktag src = 0 then tdel c'.ktag dst else tput c'.ktag dst (tget 0 c.ktag src) }

/-- A row key is that of a row some sector of a frame lies in. -/
def rowsOf (frame row : Nat) : Bool := (List.range 1024).any (fun i => rowKey (placeOf (64 * (1024 * frame + i))) = row)

/-- Whether a spare frame lies in the range of a running traffic generator (R203). -/
def Cask.tgUses (c : Cask) (f : Nat) : Bool :=
  (List.range 1024).any (fun i =>
    let p := placeOf (64 * (1024 * f + i))
    let t := (c.pcOf p.pc).tg
    t.busy && t.run.base.toNat ≤ pcSector p && pcSector p < t.run.base.toNat + t.run.len.toNat)

/-- Spare frames a retirement may choose. -/
def Cask.spareChoices (c : Cask) : List Nat :=
  ((List.range spareFrames).map (spareBase + ·)).filter (fun f => !c.sparesUsed.contains f && !c.tgUses f)

/-- Sectors of the array read and written by a repair, charged as the cask serves them (R286). -/
def State.chargeCopy (s : State) (k : Nat) (src dst : List Nat) : State :=
  let one := fun (wr : Bool) (s : State) (a : Nat) => s.charge (caskAddr k (64 * (s.caskOf k).logical a)) 1 wr
  dst.foldl (one true) (src.foldl (one false) s)

/-- A usable frame retired onto an unused spare frame; which one is not fixed. Without one the cask is worn. -/
def State.frameRetire (s : State) (k frame : Nat) : State :=
  let c := s.caskOf k
  let fs := c.spareChoices
  if spareBase ≤ frame then s
  else match fs[Config.freeNat s.freeCtr 8 % fs.length]? with
    | none => s.caskJudge k
    | some f =>
      let old := c.loc (1024 * frame) / 1024
      let was := (List.range 1024).map (1024 * old + ·)
      let s := s.bump.chargeCopy k was ((List.range 1024).map (1024 * f + ·))
      let c1 := (List.range 1024).foldl (fun c i => Cask.copySector c (1024 * old + i) (1024 * f + i)) (s.caskOf k)
      let c2 := { c1 with remap := tput c1.remap frame f,
                          spareDead := if old = frame then c1.spareDead else old :: c1.spareDead,
                          rowCorr := c1.rowCorr.filter (fun e => !rowsOf old e.1), rowUnc := c1.rowUnc.filter (fun e => !rowsOf old e) }
      ((s.modCask k (fun _ => c2)).caskJudge k).logEvent 1 (dieCask k) 0x2403 (k * 2 ^ 36 + 65536 * frame) 0

/-- A row of the array repaired onto a spare row of its bank; its frame is retired when the bank has none left; nothing
is possible in a worn cask (R202–R204). A failing spare frame's usable frame moves on; an unused one is set aside. -/
def State.rowRepair (s : State) (k : Nat) (p : Place) : State :=
  let c := s.caskOf k
  let base := offOfPlace {p with col := 0} / 64
  let frame := base / 1024
  if c.sparesLeft = 0 then s.caskJudge k
  else if c.bankUsed (bankKey p) < 8 then
    let as := (List.range 32).map (fun i => offOfPlace {p with col := i} / 64)
    let s := s.chargeCopy k as as
    let c := as.foldl (fun c a => Cask.copySector c a a) (s.caskOf k)
    ((s.modCask k (fun _ => { c with
      rowFused := rowKey p :: c.rowFused, rowCorr := c.rowCorr.filter (fun e => e.1 ≠ rowKey p),
      rowUnc := c.rowUnc.filter (· ≠ rowKey p) })).caskJudge k).logEvent 1 (dieCask k) 0x2402
      (k * 2 ^ 36 + 64 * base) 0
  else if frame < spareBase then s.frameRetire k frame
  else match c.remap.find? (fun r => r.2 = frame) with
    | some r => s.frameRetire k r.1
    | none => (s.modCask k (fun c => {c with spareDead := frame :: c.spareDead.filter (· ≠ frame)})).caskJudge k

/-- A row is to be repaired: 4 or more reports of corrected sectors within 24 h, or one of an uncorrectable sector (R202). -/
def Cask.rowDue (c : Cask) (row now : Nat) : Bool :=
  c.rowUnc.contains row || 4 ≤ (c.rowCorr.filter (fun e => e.1 = row && now < e.2 + 86400000000000)).length

/-- ROW_REPAIR. -/
def execRowRepair (k : CaskId) (pc rank : Fin 32) (bank : Fin 16) (row : BitVec 14) (s : State) : Res :=
  let p : Place := ⟨pc.val, rank.val, bank.val, row.toNat, 0⟩
  .next (if rank.val < 3 && (s.caskOf k.val).rowDue (rowKey p) s.now then s.rowRepair k.val p else s)

/-- FRAME_RETIRE. -/
def execFrameRetire (k : CaskId) (frame : BitVec 20) (s : State) : Res := .next (s.frameRetire k.val frame.toNat)

/-- CASK_POISON_FILL_DONE: every sector holds the marker (R198); the cask reports ready (R244), and is in service again
when the package is (R213). -/
def execCaskPoisonFillDone (k : CaskId) (s : State) : Res :=
  let c := s.caskOf k.val
  .next (if c.filled || c.fenced then s
    else
      let s := s.modCask k.val (fun c => { c with
        mem := [], poisBase := true, poisFlip := [], health := [], ktag := [], filled := true, rowCorr := [], rowUnc := [],
        inService := c.inService || s.boot.ready })
      s.nisReady (.cask k))

/-! ### Traffic generators (R212–R214) -/

/-- Physical array sector of a sector index within a PC. -/
def tgSector (pc i : Nat) : Nat := offOfPlace (placeOfPcSector pc i) / 64

/-- Whether `start` is refused (R213). -/
def Cask.tgRefused (c : Cask) (pc : Nat) (t : Tg) (ctl : Nat) : Bool :=
  let n := t.len.toNat
  t.busy || n = 0 || 3 * 2 ^ 23 < t.base.toNat + n || 5 ≤ bits ctl 2 0 || 2 ≤ bits ctl 4 3 || bits ctl 6 5 = 3
    || (c.inService && (List.range n).any (fun i =>
        let f := tgSector pc (t.base.toNat + i) / 1024
        f < spareBase || c.sparesUsed.contains f))

/-- TG_START: a write of `TGCTL` with `start`. -/
def execTgStart (who : Who) (k : CaskId) (pc : Fin 32) (ctl : Byte) (s : State) : Res :=
  .next (s.mgmtWrite who (fun s => s.modCask k.val (fun c =>
    let no := c.tgRefused pc.val (c.pcOf pc.val).tg ctl.toNat
    c.modPc pc.val (fun p =>
      if no then {p with tg := {p.tg with ctl := ctl, refused := true}}
      else {p with tg := { p.tg with
        ctl := ctl, busy := true, stopping := false, nerr := 0, run := ⟨ctl, p.tg.seed, p.tg.base, p.tg.len⟩ }}))))

/-- TG_STOP: a write of `stop`. -/
def execTgStop (who : Who) (k : CaskId) (pc : Fin 32) (s : State) : Res :=
  .next (s.mgmtWrite who (fun s => s.modCask k.val (fun c => c.modPc pc.val (fun p =>
    {p with tg := {p.tg with stopping := p.tg.stopping || p.tg.busy}}))))

/-- A sector whose 8 beats of 64 DQ are given. -/
def ofBeats (f : Nat → Nat) : Sector :=
  BitVec.ofNat 512 ((List.range 8).foldl (fun v b => v + (f b % 18446744073709551616) <<< (64 * b)) 0)

/-- The pattern of a sector (R212): the walking one moves on by a lane at every beat, and the sector index stands in every
beat (DESIGN CHOICE, log 44); the PRBS31 of a lane is free, and of its seed 0 is replaced by 1. -/
def tgPattern (pat seed i : Nat) : Sector :=
  match pat with
  | 0 => 0
  | 1 => BitVec.allOnes 512
  | 2 => ofBeats (fun b => 2 ^ ((8 * i + b) % 64))
  | 4 => ofBeats (fun _ => i)
  | _ => Config.tgPrbs (max seed 1) i

/-- The DQ lanes on which two sectors differ: bit d of every 64-bit beat is lane d. -/
def dqDiff (a b : Sector) : Word := (List.range 8).foldl (fun w i => w ||| BitVec.ofNat 64 ((a ^^^ b).toNat >>> (64 * i))) 0

/-- The checks of one sector, of the bytes as the array stores them (R199): it failed, and the lanes that differed. -/
def Cask.tgCheck (c : Cask) (k a : Nat) (want : Sector) : Bool × Word :=
  if c.poisoned a then (true, 0) else let w := dqDiff (c.stored k a) want; (decide (w ≠ 0), w)

/-- The sectors a pass visits, in order: ascending, or `len` of them as the seed draws them (R212). -/
def TgRun.pass (t : TgRun) : List Nat :=
  (List.range t.len.toNat).map (fun i =>
    t.base.toNat + if bit t.ctl.toNat 3 then Config.tgRandom (max t.seed.toNat 1) i % t.len.toNat else i)

/-- Accesses of a pass: of the sectors, written, checked, or both (R212). -/
def TgRun.steps (t : TgRun) : Nat := if bits t.ctl.toNat 6 5 = 0 then 2 * t.len.toNat else t.len.toNat

/-- How far a run came: whole passes, and accesses of one more. A run that was stopped ended at some access, a looping one in
any pass (R212). -/
def Tg.came (t : Tg) (ctr : Nat) : Nat × Nat :=
  if !t.stopping then (1, 0)
  else (if bit t.run.ctl.toNat 7 then Config.freeNat ctr 212 else 0, Config.freeNat ctr 9 % (t.run.steps + 1))

/-- A sector as a generator writes it: in full, below the memory encryption (R195, R212). -/
def Cask.tgPut (c : Cask) (a : Nat) (v : Sector) : Cask :=
  let c := c.setMark a false
  {c with mem := c.mem.writeNat (64 * a) 64 v.toNat, ktag := tdel c.ktag a, health := tdel c.health a}

/-- A run's effect on the array and its results. -/
def Cask.tgRun (c : Cask) (k pc ctr : Nat) : Cask :=
  let t := (c.pcOf pc).tg
  let dir := bits t.run.ctl.toNat 6 5
  let pat := fun (i : Nat) => tgPattern (bits t.run.ctl.toNat 2 0) t.run.seed.toNat i
  let (whole, part) := t.came ctr
  let is := t.run.pass
  let wrote := if dir = 2 then [] else if 0 < whole then is else is.take part
  let c := wrote.foldl (fun (c : Cask) i => c.tgPut (tgSector pc i) (pat i)) c
  let bad := fun (is : List Nat) => (is.map (fun i => (i, c.tgCheck k (tgSector pc i) (pat i)))).filter (fun r => r.2.1)
  let full := if dir = 1 then [] else bad is
  let rest := if dir = 1 then [] else bad (is.take (if dir = 0 then part - t.run.len.toNat else part))
  let seen := if 0 < whole then full else rest
  let t := {t with busy := false, stopping := false, done := true}
  let t := match seen with
    | [] => t
    | r :: _ => { t with fail := true, nerr := BitVec.ofNat 32 (satAdd 0xFFFFFFFF t.nerr.toNat (whole * full.length + rest.length)),
                         fsec := BitVec.ofNat 25 r.1, lanes := seen.foldl (fun w x => w ||| x.2.2) 0 }
  c.modPc pc (fun p => {p with tg := t})

/-- TG_RUN_END: a looping run ends only after `stop`. -/
def execTgRunEnd (k : CaskId) (pc : Fin 32) (s : State) : Res :=
  let t := ((s.caskOf k.val).pcOf pc.val).tg
  .next (if !t.busy || (bit t.run.ctl.toNat 7 && !t.stopping) then s
    else s.bump.modCask k.val (fun c => c.tgRun k.val pc.val s.freeCtr))

/-! ### Reserve copies (R206, R207, R210, R211) -/

/-- An entry with a word written; `hits` as R206 says. -/
def Reserve.wrote (r : Reserve) (hi : Bool) (v : Nat) : Reserve :=
  let n : Reserve :=
    if hi then {r with cbase := BitVec.ofNat 27 (v >>> 21)}
    else { r with mode := BitVec.ofNat 2 v, gran := bit v 2, kslot := BitVec.ofNat 6 (v >>> 5), pbase := BitVec.ofNat 27 (v >>> 21) }
  if n.mode = 0 || n.gran ≠ r.gran || n.kslot ≠ r.kslot || n.pbase ≠ r.pbase || n.cbase ≠ r.cbase then {n with hits := 0} else n

/-- A range lies wholly in a cask's usable range. -/
def rangeUsable (base size : Nat) : Bool := base / 2 ^ 36 < 12 && base % 2 ^ 36 + size ≤ usableEnd
def rangesMeet (a as b bs : Nat) : Bool := a < b + bs && b < a + as

/-- Whether an entry may stand with a non-zero mode (R207), and the licence allows it (R475). -/
def State.reserveOk (s : State) (i : Nat) (r : Reserve) : Bool :=
  let z := r.size
  bit s.boot.feat.toNat 6 && r.mode ≠ 3 && r.prim % z = 0 && r.copy % z = 0 && rangeUsable r.prim z && rangeUsable r.copy z
    && r.prim / 2 ^ 36 ≠ r.copy / 2 ^ 36
    && s.reserves.all (fun e => e.1 = i || (
      !rangesMeet r.prim z e.2.prim e.2.size && !rangesMeet r.prim z e.2.copy e.2.size
      && !rangesMeet r.copy z e.2.prim e.2.size && !rangesMeet r.copy z e.2.copy e.2.size))

/-- A write to a reserve-copy entry takes effect, or is discarded and counted at the primary's cask. -/
def State.reserveWrite (s : State) (i : Nat) (hi : Bool) (v : Nat) : State :=
  let r := (s.resOf i).wrote hi v
  if r.mode = 0 || s.reserveOk i r then {s with reserve := tput s.reserve i r}
  else if r.prim / 2 ^ 36 < 12 then s.modCask (r.prim / 2 ^ 36) (fun c => {c with refusedN := c.refusedN + 1})
  else s

/-- RESERVE_COPY_WRITE: by the driver writer, a hub controller or MGD. -/
def execReserveCopyWrite (who : Who) (entry : Fin 512) (hi : Bool) (v : Word) (s : State) : Res :=
  .next (s.atOwner who (niService 0 3) (fun s =>
    if who.mgmt || who.driver then (s.reserveWrite entry.val hi v.toNat).ack who .ok else s.ack who .refused))

/-- The mode of an entry moved by the cellar master. -/
def State.reserveMode (s : State) (i : Nat) (m : BitVec 2) : State :=
  {s with reserve := tmod {} s.reserve i (fun r => {r with mode := m})}

/-- The range of an entry repaired and its frame filled from the copy. A COPY that does not end OK leaves what is there, and
the event is reported (R210, R211). -/
def State.healRange (s : State) (i : Nat) (off : Nat) (copyOk : Bool) : State :=
  let r := s.resOf i
  let pa := r.prim + off
  let k := pa / 2 ^ 36
  let frame := off / 65536 * 65536
  let s := (s.reserveMode i 2).rowRepair k (placeOf (64 * (s.caskOf k).loc (pa % 2 ^ 36 / 64)))
  let a := s.agentBytes {fw := true} r.kslot.toNat (r.copy + frame) 65536
  let s := a.2.2.2
  let failed := fun (s : State) => (s.reserveMode i 1).logEvent 2 (dieCask k) 0x2405 pa 0
  if copyOk && a.1 = .ok && !a.2.1 then
    let (st, s) := s.agentPut {fw := true} .wri r.kslot.toNat (r.prim + frame) a.2.2.1
    if st = .ok then s.reserveMode i 1 else failed s
  else failed s

/-- HEAL: after a redirect at an offset of a primary range. -/
def execHeal (entry : Fin 512) (off : BitVec 32) (copyOk : Bool) (s : State) : Res :=
  let r := s.resOf entry.val
  let pa := r.prim + off.toNat
  let k := pa / 2 ^ 36
  .next (if r.mode = 0 || r.size ≤ off.toNat then s
    else if (s.caskOf k).sparesLeft = 0 then ((s.reserveMode entry.val 2).caskJudge k).logEvent 2 (dieCask k) 0x2403 pa 0
    else s.healRange entry.val off.toNat copyOk)

end Sys2Proof.Machine
end

