-- ==== Sys2Proof/Machine/Operands.lean ====
section
/-! DEFINITION. The operand forms of a thread's instructions: the bytes a memory access names (R98–R100), the elements
of vector registers (R37, R100), physical memory protection (R97, R603). -/

namespace Sys2Proof.Machine

/-! ### Addresses -/

/-- x[rs1] plus a sign-extended 12-bit immediate. -/
def Thread.addr (t : Thread) (rs1 : RegNo) (imm : BitVec 12) : Nat := (t.xr rs1 + imm.signExtend 64).toNat

/-- Bits of `vtype`: element width in bytes as a power of 2, register group 8 × LMUL as a power of 2, vill (R100). -/
def Thread.vsew (t : Thread) : Nat := t.csrBits Csr.vtype 5 3
def Thread.vlmul (t : Thread) : Nat := t.csrBits Csr.vtype 2 0
def Thread.vill (t : Thread) : Bool := bit (t.csrRaw Csr.vtype).toNat 63
def Thread.vlen (t : Thread) : Nat := (t.csrRaw Csr.vl).toNat
def Thread.vstart (t : Thread) : Nat := (t.csrRaw Csr.vstart).toNat

/-- 8 × LMUL for a `vlmul` code. -/
def lmul8 (c : Nat) : Nat := match c with | 0 => 8 | 1 => 16 | 2 => 32 | 3 => 64 | 5 => 1 | 6 => 2 | 7 => 4 | _ => 0
/-- Registers of a group of 8 × LMUL. -/
def groupRegs (l8 : Nat) : Nat := max 1 (l8 / 8)
/-- 8 × EMUL of an access with elements of 2^lg B. -/
def Thread.emul8 (t : Thread) (lg : Nat) : Nat := lmul8 t.vlmul * 2 ^ lg / 2 ^ t.vsew

/-- A register group that an instruction reads or writes: its first register, 8 × EMUL, the element width in bits; a mask
has width 1. -/
structure VGrp where
  reg : Nat
  e8 : Nat
  eew : Nat
  deriving DecidableEq, Repr

def VGrp.size (g : VGrp) : Nat := groupRegs g.e8
def VGrp.regs (g : VGrp) : List Nat := (List.range g.size).map (fun i => (g.reg + i) % 32)
/-- One register that holds a mask, or a scalar as element 0. -/
def VGrp.mask (r : Nat) : VGrp := ⟨r, 8, 1⟩
def VGrp.one (r w : Nat) : VGrp := ⟨r, 8, w⟩
/-- EMUL from 1/8 to 8, an element width up to ELEN, the first register a multiple of the group. -/
def VGrp.ok (g : VGrp) : Bool := 1 ≤ g.e8 && g.e8 ≤ 64 && (g.eew = 1 || (8 ≤ g.eew && g.eew ≤ 64)) && g.reg % g.size = 0
def VGrp.meets (a b : VGrp) : Bool := a.reg < b.reg + b.size && b.reg < a.reg + a.size
/-- Whether destination d may overlap source s: of one width, or in the lowest part of a wider source, or a source of a
whole register or more in the highest part of a wider destination. -/
def VGrp.over (d s : VGrp) : Bool :=
  !d.meets s || d.eew = s.eew || (d.eew < s.eew && d.reg = s.reg)
    || (s.eew < d.eew && 8 ≤ s.e8 && s.reg + s.size = d.reg + d.size)

/-- Element i of width n bytes in the group that starts at v[r], as a number. -/
def Thread.velem (t : Thread) (r n i : Nat) : Nat :=
  let per := 256 / n
  ((t.vr ((r + i / per) % 32)).toNat >>> (8 * n * (i % per))) % 2 ^ (8 * n)
/-- That element replaced. -/
def Thread.setVelem (t : Thread) (r n i v : Nat) : Thread :=
  let per := 256 / n
  let k := (r + i / per) % 32
  let old := (t.vr k).toNat
  let sh := 8 * n * (i % per)
  let cur := (old >>> sh) % 2 ^ (8 * n)
  t.setV k (BitVec.ofNat 2048 (old - cur * 2 ^ sh + (v % 2 ^ (8 * n)) * 2 ^ sh))
/-- Mask bit i of v0. -/
def Thread.vmask (t : Thread) (i : Nat) : Bool := (t.vr 0).toNat.testBit i

/-- A run of bytes within one 4 KiB page that an element reads or writes, and the address of the whole element. -/
structure Piece where
  idx : Nat
  va : Nat
  len : Nat
  el : Nat
  deriving DecidableEq, Repr

/-- An access of n bytes cut at a page boundary. -/
def cutPage (idx va n : Nat) : List Piece :=
  let room := 4096 - va % 4096
  if n ≤ room then [⟨idx, va, n, va⟩] else [⟨idx, va, room, va⟩, ⟨idx, va + room, n - room, va⟩]

/-- Whether a piece lies in the register half of the local window (R42). -/
def Piece.inRegs (p : Piece) : Bool := 0x7FFFFFFF80000 ≤ p.va && p.va < 0x8000000000000

/-- Elements of a vector access: a mask's bytes, whole registers whatever `vl` is, else `vl`. -/
def Thread.vcount (t : Thread) (m : VMem) : Nat :=
  match m.addr with
  | .mask => (t.vlen + 7) / 8
  | .whole => (m.nf.val + 1) * 256 / 2 ^ m.lg.val
  | _ => t.vlen
/-- Fields of an element; whole registers are one run of elements. -/
def vfields (m : VMem) : Nat := match m.addr with | .whole => 1 | _ => m.nf.val + 1
/-- 8 × EMUL of the data. -/
def Thread.vdata8 (t : Thread) (m : VMem) : Nat :=
  match m.addr with
  | .mask => 8
  | .whole => 8 * (m.nf.val + 1)
  | _ => t.emul8 m.lg.val

/-- Active elements of a vector access: index and field. -/
def Thread.active (t : Thread) (m : VMem) : List (Nat × Nat) :=
  ((List.range (t.vcount m)).filter (fun i => t.vstart ≤ i && (!m.masked || t.vmask i))).flatMap
    (fun i => (List.range (vfields m)).map (fun f => (i, f)))

/-- Address of field f of element i (R100). -/
def Thread.vaddr (t : Thread) (m : VMem) (base i f : Nat) : Nat :=
  let n := 2 ^ m.lg.val
  let off := match m.addr with
    | .unit | .mask | .whole => i * vfields m * n
    | .strided rs2 => (BitVec.ofNat 64 i * t.xr rs2).toNat
    | .indexed vs2 lg => t.velem vs2.val (2 ^ lg.val) i
  (BitVec.ofNat 64 (base + off + f * n)).toNat

/-- The pieces of an access of a thread, element by element. -/
def Thread.vpieces (t : Thread) (m : VMem) (base : Nat) : List Piece :=
  (t.active m).flatMap (fun p => cutPage p.1 (t.vaddr m base p.1 p.2) (2 ^ m.lg.val))

def MemOp.pieces (t : Thread) : MemOp → List Piece
  | .load _ va (.x _ lg _) => cutPage 0 va (2 ^ lg.val)
  | .load _ va (.f _ d) => cutPage 0 va (if d then 8 else 4)
  | .load _ va (.v _ m) => t.vpieces m va
  | .load _ va .fetch => cutPage 0 va 4
  | .store _ va (.x _ lg) => cutPage 0 va (2 ^ lg.val)
  | .store _ va (.f _ d) => cutPage 0 va (if d then 8 else 4)
  | .store _ va (.v _ m) => t.vpieces m va
  | .lr _ d va | .sc _ _ d va | .amo _ _ _ d va => cutPage 0 va (if d then 8 else 4)

/-- Size of one element of an access. -/
def MemOp.size : MemOp → Nat
  | .load _ _ (.x _ lg _) => 2 ^ lg.val
  | .load _ _ (.f _ d) => if d then 8 else 4
  | .load _ _ (.v _ m) => 2 ^ m.lg.val
  | .load _ _ .fetch => 4
  | .store _ _ (.x _ lg) => 2 ^ lg.val
  | .store _ _ (.f _ d) => if d then 8 else 4
  | .store _ _ (.v _ m) => 2 ^ m.lg.val
  | .lr _ d _ | .sc _ _ d _ | .amo _ _ _ d _ => if d then 8 else 4

/-- The kind of access for permissions and records (R393, R408). -/
def MemOp.acc : MemOp → Acc
  | .load _ _ .fetch => .fetch
  | .load _ _ _ => .read
  | .lr _ _ _ => .read
  | .store _ _ _ => .write
  | .sc _ _ _ _ => .write
  | .amo _ _ _ _ _ => .amo

/-- The access fault and the misaligned exception of an access's kind (R98, R601). -/
def MemOp.fault : MemOp → Cause
  | .load _ _ .fetch => .instrAccess
  | .load _ _ _ => .loadAccess
  | .lr _ _ _ => .loadAccess
  | _ => .storeAccess
def MemOp.misaligned : MemOp → Cause
  | .load _ _ .fetch => .instrMisaligned
  | .load _ _ _ => .loadMisaligned
  | .lr _ _ _ => .loadMisaligned
  | _ => .storeMisaligned

def MemOp.atomic : MemOp → Bool
  | .lr _ _ _ | .sc _ _ _ _ | .amo _ _ _ _ _ => true
  | _ => false
/-- Whether an access needs its lines in M (R254). -/
def MemOp.excl : MemOp → Bool
  | .load _ _ _ => false
  | _ => true
def MemOp.isVec : MemOp → Bool
  | .load _ _ (.v _ _) => true
  | .store _ _ (.v _ _) => true
  | _ => false

/-- Vector registers an access reads and writes (R122). -/
def MemOp.vregs (t : Thread) : MemOp → List Nat × List Nat
  | .load _ _ (.v vd m) => (idxRegs m, grp vd m)
  | .store _ _ (.v vs m) => (grp vs m ++ idxRegs m, [])
  | _ => ([], [])
where
  grp (r : RegNo) (m : VMem) : List Nat :=
    (List.range (vfields m * groupRegs (t.vdata8 m))).map (fun i => (r.val + i) % 32)
  idxRegs (m : VMem) : List Nat :=
    (match m.addr with | .indexed v lg => (List.range (groupRegs (t.emul8 lg.val))).map (fun i => (v.val + i) % 32) | _ => [])
      ++ (if m.masked then [0] else [])

/-- Whether the V extension defines an access's data group and index group: an index vector is a source of its own
width, which a destination overlaps as `VGrp.over` says, with more than one field not at all, and a stored group or the
mask not at all. -/
def Thread.vindexOk (t : Thread) (r : RegNo) (m : VMem) (load : Bool) : Bool :=
  match m.addr with
  | .indexed v lg =>
    let ix : VGrp := ⟨v.val, t.emul8 lg.val, 8 * 2 ^ lg.val⟩
    let fs := (List.range (vfields m)).map (fun f => (⟨r.val + f * groupRegs (t.vdata8 m), t.vdata8 m, 8 * 2 ^ m.lg.val⟩ : VGrp))
    decide (m.lg.val = t.vsew) && ix.ok && !(m.masked && ix.meets (.mask 0))
      && fs.all (fun d => if load && m.nf.val = 0 then d.over ix else !d.meets ix || (!load && d.eew = ix.eew))
  | _ => true

/-- Whether the V extension defines a vector access under the current `vtype` (PRESUMED: RISC-V V, logs 4 and 7). Whole
registers are 1, 2, 4 or 8 and need no `vtype`; a mask is bytes. -/
def Thread.vmemLegal (t : Thread) (r : RegNo) (m : VMem) (load : Bool) : Bool :=
  let g := groupRegs (t.vdata8 m)
  t.csrBits Csr.mstatus 10 9 ≠ 0 && 1 ≤ t.vdata8 m && t.vdata8 m ≤ 64 && vfields m * g ≤ 8 && r.val % g = 0
    && r.val + vfields m * g ≤ 32 && (!m.ff || (load && m.addr = .unit))
    && (match m.addr with
        | .whole => [0, 1, 3, 7].contains m.nf.val && !m.masked && (load || m.lg.val = 0)
        | .mask => !t.vill && m.nf.val = 0 && !m.masked && m.lg.val = 0
        | _ => !t.vill && !(m.masked && r.val = 0)
            && t.vindexOk r m load)

/-! ### Physical memory protection (R97: 16 entries of 4 KiB granularity; the rules are RISC-V's, log 4) -/

/-- Configuration byte of entry i. -/
def Thread.pmpByte (t : Thread) (i : Nat) : Nat :=
  bits (t.csrRaw (0x3A0 + 2 * (i / 8))).toNat (8 * (i % 8) + 7) (8 * (i % 8))
def Thread.pmpAddr (t : Thread) (i : Nat) : Nat := (t.csrRaw (0x3B0 + i)).toNat

/-- The bytes an entry matches: its lowest and the one past its highest. -/
def Thread.pmpRange (t : Thread) (i : Nat) : Option (Nat × Nat) :=
  match bits (t.pmpByte i) 4 3 with
  | 1 =>
    let lo := if i = 0 then 0 else t.pmpAddr (i - 1) / 1024 * 4096
    some (lo, t.pmpAddr i / 1024 * 4096)
  | 3 =>
    let a := t.pmpAddr i ||| 0x1FF
    -- the trailing ones of the address give the size
    let ones := (List.range 54).find? (fun j => !a.testBit j)
    match ones with
    | some j => some (a / 2 ^ (j + 1) * 2 ^ (j + 1) * 4, (a / 2 ^ (j + 1) + 1) * 2 ^ (j + 1) * 4)
    | none => some (0, 2 ^ 56)
  | _ => none

/-- The mode data accesses are checked in: MPP while `MPRV` is set in M-mode. -/
def Thread.dataPriv (t : Thread) : Nat :=
  if t.priv = 3 && t.csrBits Csr.mstatus 17 17 = 1 then t.csrBits Csr.mstatus 12 11 else t.priv.toNat

/-- Whether protection permits an access of n bytes: the first entry that matches any byte decides and must match all;
none matching permits M-mode only. -/
def Thread.pmpOk (t : Thread) (acc : Acc) (a n : Nat) : Bool :=
  let priv := if acc = .fetch then t.priv.toNat else t.dataPriv
  let hit := (List.range 16).find? (fun i => match t.pmpRange i with
    | some (lo, hi) => decide (a < hi ∧ lo < a + n)
    | none => false)
  match hit with
  | none => priv = 3
  | some i =>
    let c := t.pmpByte i
    let whole := match t.pmpRange i with | some (lo, hi) => decide (lo ≤ a ∧ a + n ≤ hi) | none => false
    let ok := match acc with
      | .read => bit c 0
      | .write => bit c 1
      | .amo => bit c 0 && bit c 1
      | .fetch => bit c 2
    whole && (ok || (priv = 3 && !bit c 7))

end Sys2Proof.Machine
end

