-- ==== Sys2Proof/Machine/Flags.lean ====
section
/-! DEFINITION. CSR values as read and as written (R97, R104–R106, R144, R522, R526, R603): views that share storage,
write masks, privilege, the status and flag registers. What R97 leaves to the RISC-V privileged architecture is taken
from it (PRESUMED, log 4). -/

namespace Sys2Proof.Machine

/-- `mstatus` as read: SD summarises FS and VS. -/
def Thread.mstatusRead (t : Thread) : Word :=
  let m := t.csrRaw Csr.mstatus
  if bits m.toNat 14 13 = 3 || bits m.toNat 10 9 = 3 then m ||| 0x8000000000000000 else m

/-- FS or VS made dirty. -/
def Thread.dirtyF (t : Thread) : Thread := t.setCsr Csr.mstatus (setBits (t.csrRaw Csr.mstatus) 14 13 3)
def Thread.dirtyV (t : Thread) : Thread := t.setCsr Csr.mstatus (setBits (t.csrRaw Csr.mstatus) 10 9 3)

/-- Whether a CSR exists (R97, R104, R144, R522, R603). -/
def csrExists (n : Nat) : Bool :=
  [0x001, 0x002, 0x003, 0x008, 0x009, 0x00A, 0x00F, 0xC20, 0xC21, 0xC22, 0x100, 0x104, 0x105, 0x106, 0x140, 0x141,
   0x142, 0x143, 0x144, 0x180, 0x300, 0x301, 0x302, 0x303, 0x304, 0x305, 0x306, 0x320, 0x340, 0x341, 0x342, 0x343,
   0x344, 0x3A0, 0x3A2, 0xF11, 0xF12, 0xF13, 0xF14, 0xF15, 0xCC0].contains n
  || (0x800 ≤ n && n ≤ 0x80C) || (0x323 ≤ n && n ≤ 0x33F) || (0x3B0 ≤ n && n ≤ 0x3BF)
  || n = 0xB00 || (0xB02 ≤ n && n ≤ 0xB1F) || (0xC00 ≤ n && n ≤ 0xC1F)

/-- Whether a CSR is read-only by its number. -/
def csrRO (n : Nat) : Bool := 0xC00 ≤ n

/-- Whether an access of a thread to a CSR is legal: it exists, the privilege suffices, counters are enabled below
M-mode, the floating-point or vector unit is on, `satp` is not trapped. -/
def Thread.csrLegal (t : Thread) (n : Nat) (wr : Bool) : Bool :=
  let ctr := 0xC00 ≤ n && n ≤ 0xC1F
  let i := n - 0xC00
  let ctrOk := !ctr || t.priv = 3 ||
    (bit (t.csrRaw Csr.mcounteren).toNat i && (t.priv = 1 || bit (t.csrRaw Csr.scounteren).toNat i))
  let fp := n ≤ 3
  let vec := [0x008, 0x009, 0x00A, 0x00F, 0xC20, 0xC21, 0xC22].contains n
  csrExists n && bits n 9 8 ≤ t.priv.toNat && !(wr && csrRO n) && ctrOk
    && !(fp && t.csrBits Csr.mstatus 14 13 = 0) && !(vec && t.csrBits Csr.mstatus 10 9 = 0)
    && !(n = Csr.satp && t.priv = 1 && t.csrBits Csr.mstatus 20 20 = 1)

/-- A PMP address as read at the 4 KiB granularity (R97): the low bits read 1 for a NAPOT entry and 0 for any other. -/
def Thread.pmpAddrRead (t : Thread) (i : Nat) : Word :=
  let a := t.csrRaw (0x3B0 + i)
  if bits (t.pmpByte i) 4 3 = 3 then a ||| 0x1FF else a &&& ~~~0x3FF

/-- What a thread reads from a CSR. `rev` is the die revision of IDENT, `now` the timebase. -/
def Core.csrRead (c : Core) (t : Fin 4) (h : Hart) (rev now : Nat) (n : Nat) : Word :=
  let th := c.thread t
  let raw := th.csrRaw
  match n with
  | 0x001 => raw Csr.fcsr &&& 0x1F
  | 0x002 => (raw Csr.fcsr >>> 5) &&& 7
  | 0x00F => raw Csr.vxsat ||| (raw Csr.vxrm <<< 1)
  | 0xC22 => 256
  | 0x100 => th.mstatusRead &&& BitVec.ofNat 64 (sstatusMask + 0x8000000300000000)
  | 0x104 => raw Csr.mie &&& raw Csr.mideleg
  | 0x144 => th.mipNow now &&& raw Csr.mideleg
  | 0x180 => 0
  | 0x300 => th.mstatusRead
  | 0x344 => th.mipNow now
  | 0x301 => 0x800000000034112D
  | 0xC00 => raw Csr.mcycle
  | 0xC01 => BitVec.ofNat 64 now
  | 0xC02 => raw Csr.minstret
  | 0xF11 => 0
  | 0xF12 => 0
  | 0xF13 => BitVec.ofNat 64 (rev % 4096)
  | 0xF14 => BitVec.ofNat 64 h.val
  | 0xF15 => 0
  | 0x800 => BitVec.ofNat 64 c.pstat.toNat
  | 0x80C => c.cycflg.setWidth 64
  | 0xCC0 => c.pqstat
  | n =>
    if (0xC03 ≤ n && n ≤ 0xC1F) then raw (n - 0x100)
    else if 0x3B0 ≤ n && n ≤ 0x3BF then th.pmpAddrRead (n - 0x3B0)
    else raw n

/-- The value v written to a stored CSR of a thread; `src` is the source operand, which W1C registers take (R105). -/
def Core.csrWrite (c : Core) (t : Fin 4) (n : Nat) (v src : Word) : Core :=
  let th := c.thread t
  let raw := th.csrRaw
  let put := fun (k : Nat) (w : Word) => c.setThread t (th.setCsr k w)
  match n with
  | 0x001 => c.setThread t (th.setCsr Csr.fcsr (maskIn (raw Csr.fcsr) v 0x1F)).dirtyF
  | 0x002 => c.setThread t (th.setCsr Csr.fcsr (maskIn (raw Csr.fcsr) (v <<< 5) 0xE0)).dirtyF
  | 0x003 => c.setThread t (th.setCsr Csr.fcsr (v &&& 0xFF)).dirtyF
  | 0x008 => c.setThread t (th.setCsr Csr.vstart (v &&& 0x7FF)).dirtyV
  | 0x009 => c.setThread t (th.setCsr Csr.vxsat (v &&& 1)).dirtyV
  | 0x00A => c.setThread t (th.setCsr Csr.vxrm (v &&& 3)).dirtyV
  | 0x00F => c.setThread t ((th.setCsr Csr.vxsat (v &&& 1)).setCsr Csr.vxrm ((v >>> 1) &&& 3)).dirtyV
  | 0x100 => put Csr.mstatus (maskIn (raw Csr.mstatus) v sstatusMask)
  | 0x104 => c.setThread t (th.setCsr Csr.mie (maskIn (raw Csr.mie) v ((raw Csr.mideleg).toNat &&& mieMask))).wake
  | 0x105 => put n (v &&& ~~~2)
  | 0x106 => put n (v &&& 0x7FFFF)
  | 0x141 => put n (v &&& ~~~1)
  | 0x144 => c.setThread t (th.setCsr Csr.mip (maskIn (raw Csr.mip) v ((raw Csr.mideleg).toNat &&& 2))).wake
  | 0x180 => c
  | 0x300 => put n (mstatusWrite (raw n) v)
  | 0x301 => c
  | 0x302 => put n (v &&& BitVec.ofNat 64 medelegMask)
  | 0x303 => put n (v &&& BitVec.ofNat 64 midelegMask)
  | 0x304 => c.setThread t (th.setCsr n (v &&& BitVec.ofNat 64 mieMask)).wake
  | 0x305 => put n (v &&& ~~~2)
  | 0x306 => put n (v &&& 0x7FFFF)
  | 0x320 => put n (v &&& 0x7FFFD)
  | 0x341 => put n (v &&& ~~~1)
  | 0x344 => c.setThread t (th.setCsr n (maskIn (raw n) v mipMask)).wake
  | 0x3A0 => put n (pmpcfgWrite (raw n) v)
  | 0x3A2 => put n (pmpcfgWrite (raw n) v)
  | 0x800 => {c with pstat := c.pstat.w1c src.toNat}
  | 0x80C => {c with cycflg := c.cycflg &&& ~~~(src.setWidth 5)}
  | n =>
    if 0x801 ≤ n && n ≤ 0x80B then put n (v &&& BitVec.ofNat 64 (pressCsrMask n))
    else if 0x323 ≤ n && n ≤ 0x332 then put n (mhpmeventWrite v)
    else if 0x333 ≤ n && n ≤ 0x33F then c
    else if 0xB13 ≤ n && n ≤ 0xB1F then c
    else if 0x3B0 ≤ n && n ≤ 0x3BF then
      let i := n - 0x3B0
      let lockedNext := i < 15 && bit (th.pmpByte (i + 1)) 7 && bits (th.pmpByte (i + 1)) 4 3 = 1
      if bit (th.pmpByte i) 7 || lockedNext then c else put n (v &&& BitVec.ofNat 64 (2 ^ 54 - 1))
    else put n v

end Sys2Proof.Machine
end

