-- ==== Sys2Proof/Machine/Thread.lean ====
section
/-! DEFINITION. A thread's memory accesses and CSR instructions (R43, R97–R99, R268–R273, R601–R603): translation,
misses, completion, traps, interrupts. -/

namespace Sys2Proof.Machine

/-! ### Whether a thread issues -/

/-- A thread issues instructions: its site holds a Bambipin die, its core is neither halted nor being saved, and it
waits for nothing (R36, R67, R538). -/
def State.canIssue (s : State) (h : Hart) : Bool :=
  let c := s.coreOf (hartCore h)
  let t := s.thrOf h
  !s.isGraft (hartSite h) && !s.siteHalted (hartSite h) && !c.saving && t.wait = .none && !t.wfi

/-- A thread's own effect, when it issues. -/
def State.issue (s : State) (h : Hart) (f : State → State) : Res := .next (if s.canIssue h then f s else s)

/-- A trap of a thread. -/
def State.trapThr (s : State) (h : Hart) (c : Cause) (tval : Nat) : State :=
  s.modThr h (fun t => t.trap c (BitVec.ofNat 64 tval))

/-- An illegal-instruction exception of an instruction other than the Stollidan ones: what `mtval` then holds the spec
does not say (log 43), so it is a free value. -/
def State.trapIllegal (s : State) (h : Hart) : State := (s.trapThr h .illegal (Config.freeNat s.freeCtr 12)).bump

/-! ### L2 lines of a die (R45, R48, R254, R262) -/

/-- A read requested for a line of a die, when a response buffer is free and none is outstanding for the line. -/
def State.missRequest (s : State) (h : Hart) (line kslot : Nat) (excl : Bool) (va : Nat) : State :=
  let x := hartSite h
  let d := s.dieOf x
  let pa := 64 * line
  let m := l2Module pa
  if d.miss.any (fun q => q.line = line) || 1536 ≤ tget 0 d.bufs m then s
  else
    let own := (s.coreOf (hartCore h)).ctx.map (fun c => (c.val, (s.ctxOf c.val).vint.toNat))
    let s := s.modDie x (fun d => { d with
      miss := d.miss ++ [⟨d.tag, h, own, line, excl, kslot, va, true⟩], tag := (d.tag + 1) % 4096, bufs := tmod 0 d.bufs m (· + 1) })
    (s.dieEvent x 0x23 1).dieReq x m (memNi (pa / 2 ^ 36) (pa % 2 ^ 36)) .coh (if excl then .rdx else .rds) pa 0 d.tag kslot []

/-- A line filled into the L2; a full set evicts a line, chosen by the implementation, through the write-back buffer
when it is in M (R45, R254). -/
def State.l2Fill (s : State) (x line : Nat) (l : Line) : State :=
  let d := s.dieOf x
  let same := d.l2.filter (fun p => l2Bank (64 * p.1) = l2Bank (64 * line)
    && bits (64 * p.1) 21 10 = bits (64 * line) 21 10 && p.1 ≠ line)
  let s := if same.length < 12 then s else
    match same[Config.freeNat s.freeCtr 2 % same.length]? with
    | none => s
    | some (v, old) =>
      let s := s.bump.modDie x (fun d => d.dropLine v)
      if old.st = .m then
        let pa := 64 * v
        let tag := (s.dieOf x).tag
        let s := s.modDie x (fun d => {d with wbbuf := tput d.wbbuf v old, tag := (tag + 1) % 4096})
        -- a poisoned line has no data to write back: the marker is written (R194, R226)
        s.dieReq x (l2Module pa) (memNi (pa / 2 ^ 36) (pa % 2 ^ 36)) (if old.pois then .bulk else .coh)
          (if old.pois then .wrpoi else .wb) pa 0 tag old.kslot (if old.pois then [] else [old.data])
      else s
  -- a set whose tag error is not yet handled reads as poisoned (R46)
  let bad := d.l2bad.contains (l2Bank (64 * line), bits (64 * line) 21 10 + 4096 * (64 * line / 2 ^ 36))
  s.modDie x (fun d => {d with l2 := tput d.l2 line {l with pois := l.pois || bad}})

/-- Reservations on a line ended for every thread of the die but one. -/
def Die.breakResv (d : Die) (key : Nat) (keep : Nat) : Die :=
  { d with core := d.core.map (fun p => (p.1, {p.2 with thr := p.2.thr.map (fun q =>
      (q.1, if q.2.resv = some key && 4 * p.1 + q.1 ≠ keep then {q.2 with resv := none} else q.2))})) }

/-! ### Core-local registers (R43) -/

/-- A core-local register as thread t's block holds it. -/
def Core.localRead (c : Core) (now off : Nat) : Word :=
  if off < 0x100 then
    let t : Fin 4 := ⟨off / 0x40 % 4, Nat.mod_lt _ (by decide)⟩
    let th := c.thread t
    match off % 0x40 with
    | 0 => th.csrRaw Csr.mie &&& 0x30000
    | 8 => th.mipNow now &&& 0x30000
    | 0x10 => th.ltcmp
    | 0x18 => BitVec.ofNat 64 th.lqlast
    | _ => 0
  else if off < 0x120 then BitVec.ofNat 64 (c.thread ⟨(off - 0x100) / 8 % 4, Nat.mod_lt _ (by decide)⟩).lbar
  else 0

/-- A store to a thread's own block. -/
def Thread.localWrite (t : Thread) (now : Nat) (reg : Nat) (v : Word) : Thread :=
  match reg with
  | 0 => (t.setCsr Csr.mie (maskIn (t.csrRaw Csr.mie) v 0x30000)).wake
  | 8 => if bit v.toNat 16 then {t.setCsr Csr.mip (t.csrRaw Csr.mip &&& ~~~0x10000) with lqNq := 0} else t
  | 0x10 =>
    let t := {t with ltcmp := v}
    if now < v.toNat then t.setCsr Csr.mip (t.csrRaw Csr.mip &&& ~~~0x20000)
    else (t.setCsr Csr.mip (t.csrRaw Csr.mip ||| 0x20000)).wake
  | _ => t

/-- An 8 B aligned scalar store to offset `off` of the register half: into the thread's own block, ignored at the other
offsets below 0x200; none where it faults (R43). -/
def State.localStore (s : State) (h : Hart) (off : Nat) (v : Word) : Option State :=
  let t := (hartThr h).val
  if 0x200 ≤ off then none
  else if off < 0x100 && off / 0x40 ≠ t then none
  else if off < 0x100 then some (s.modThr h (fun th => th.localWrite s.now (off % 0x40) v))
  else some s

/-! ### Where an access goes -/

/-- The target of a piece. -/
inductive Loc where
  | scratch (off : Nat)
  | reg (off : Nat)
  | cask (pa kslot : Nat)
  | dev (pa : Nat)
  | host (iova : Nat)
  deriving DecidableEq, Repr

/-- What locating a piece gives. -/
inductive LocRes where
  | loc (l : Loc)
  | walk (w : Walk)
  | fault (c : XCause) (ipa : Nat) (wlk : Bool)
  | access
  deriving DecidableEq, Repr

/-- A translation request of a core, for an address of the memory regions that its micro-TLB does not hold; it travels
by the link module of the core's cluster (R47, R395, R398). -/
def State.xlateRequest (s : State) (h : Hart) (ctx va : Nat) : State :=
  if vregion va ≠ .memory || (s.tlbOf (.core (hartCore h))).any (fun e => e.hits ctx va) || s.hub.walks.any (fun q => q.hart = h)
  then s
  else
    let x := hartSite h
    let tag := (s.dieOf x).tag
    (s.modDie x (fun d => {d with tag := (tag + 1) % 4096})).dieReq x (hartCore h % 256 / 32) (niService (tcBank va ctx) 0) .ctl .msg
      va 0 tag (s.ctxOf ctx).slice.val [BitVec.ofNat 512 (va + 2 ^ 64 * ctx)]

/-- One piece located: protection, the local window, translation. -/
def State.locate (s : State) (h : Hart) (acc : Acc) (p : Piece) : LocRes × State :=
  let t := s.thrOf h
  let core := s.coreOf (hartCore h)
  if !t.pmpOk acc p.va p.len then (.access, s)
  else match vregion p.va with
    | .local' =>
      let off := p.va - 0x7FFFFFFF00000
      if off < 0x80000 then (.loc (.scratch off), s)
      else if acc = .fetch then (.access, s)
      else (.loc (.reg (off - 0x80000)), s)
    | _ =>
      match core.ctx with
      | none => (.fault .nos2 0 false, s)
      | some x =>
        let s := s.xlateRequest h x.val p.va
        let user := (if acc = .fetch then t.priv.toNat else t.dataPriv) = 0
        match s.translate1 (.core (hartCore h)) x.val p.va acc user with
        | (.cask pa k, s) => (.loc (if pa < 0xC000000000 then .cask pa k else .dev pa), s)
        | (.host iova, s) => (.loc (.host iova), s)
        | (.walk w, s) => (.walk w, s)
        | (.fault c i k, s) => (.fault c i k, s)

/-- Every piece located in order. -/
def State.locateAll (s : State) (h : Hart) (acc : Acc) (ps : List Piece) : List (Piece × LocRes) × State :=
  ps.foldl (fun (rs, s) p => let (r, s) := s.locate h acc p; (rs ++ [(p, r)], s)) ([], s)

/-- A walk's next table read, sent and charged by its translation service (R276, R394). -/
def State.walkRead (s : State) (id : Nat) (w : Walk) : State :=
  let ni := niService (tcBank w.va w.ctx) 0
  (s.emit (.req ni (memNi (w.rdPa / 2 ^ 36) (w.rdPa % 2 ^ 36)) .rd w.rdPa 0 id w.rdK [] [])).ask ni 0x80 .rd 0 w.rdPa w.rdK []

/-- A walk started for a thread that has none (R394). -/
def State.walkStart (s : State) (h : Hart) (w : Walk) : State :=
  if s.hub.walks.any (fun q => q.hart = h) then s
  else
    let id := s.hub.walkId
    (s.modHub (fun m => {m with walks := m.walks ++ [⟨id, h, w⟩], walkId := id + 1, walksN := m.walksN + 1})).walkRead id w

/-- `who` of a thread's fault record (R408). -/
def hartWho (h : Hart) : Nat := h.val % 4 + 4 * (hartCore h % 256) + 1024 * hartSite h

/-- A thread's translation fault (R403–R405): the record of its unit, then the stall or the loss. -/
def State.threadFault (s : State) (h : Hart) (op : MemOp) (ps : List Piece) (p : Piece) (c : XCause) (ipa : Nat)
    (wlk : Bool) : State :=
  match (s.coreOf (hartCore h)).ctx with
  | none => s.modThr h (fun t => {t with wait := .fault op})
  | some x =>
    let lo := ps.foldl (fun a q => min a q.va) p.va
    let hi := ps.foldl (fun a q => max a (q.va + q.len)) 0
    let ext := hi - lo
    let r := s.mkFault x.val 0 (hartWho h) c op.acc p.va ipa wlk (if 2 ^ 20 < ext then 0 else ext)
      (if 2 ^ 20 < ext then 0 else p.va - lo)
    let s := s.modThr h (fun t => {t with wait := .fault op})
    let s := s.recordFault r
    if c = .walkpoi then s.ctxLose x.val .poison
    else if c.fatal then s.ctxLose x.val .xlate
    else s

/-! ### Host-window and hub-register accesses (R45, R98, R269, R273) -/

def Loc.posted : Loc → Bool
  | .dev _ => true
  | .host _ => true
  | _ => false
def Loc.addr : Loc → Nat
  | .scratch o | .reg o | .dev o | .host o => o
  | .cask pa _ => pa
def Loc.isHost : Loc → Bool | .host _ => true | _ => false

/-- Whether an access lies in the graft apertures (R326), not among the hub's registers. -/
def Posted.aperture (p : Posted) : Bool := !p.host && 0xF800000000 ≤ p.pa

/-- Whether an earlier access keeps the site adapter from issuing a host-window access (R269). -/
def Posted.heldBy (p q : Posted) : Bool :=
  p.host && q.hart = p.hart && q.host && q.data.isNone && bits q.pa 9 8 ≠ bits p.pa 9 8

/-- Whether the site adapter may issue an access now: nothing before it holds it back, and a read has a response buffer
(R48, R269). -/
def Die.mayIssue (d : Die) (p : Posted) : Bool :=
  !p.sent && !(d.posted.takeWhile (fun q => q.tag ≠ p.tag)).any p.heldBy && (p.wr || tget 0 d.bufs (l2Module p.pa) < 1536)

/-- The request of an access (R218, R224, R226): of 8 B at a hub register, else of one sector, a store as WRP. -/
def State.postRequest (s : State) (x : Nat) (p : Posted) (slice : Nat) : State :=
  let m := l2Module p.pa
  let o := p.pa % 64
  if !p.host && !p.aperture then
    let b := p.pa % 8
    let v : Sector := BitVec.ofNat 512 (leNat p.bytes * 2 ^ (8 * b) + (2 ^ p.len - 1) * 2 ^ b * 2 ^ 64)
    s.dieReq x m p.dst .ctl (if p.wr then .regwr else .regrd) p.pa 0 p.tag (o / 8) (if p.wr then [v] else [])
  else
    let cls := if p.host then Cls.host else .bulk
    if p.wr then
      let en : Sector := BitVec.ofNat 512 ((2 ^ p.len - 1) * 2 ^ o)
      s.dieReq x m p.dst cls .wrp p.pa 1 p.tag slice [en, BitVec.ofNat 512 (leNat p.bytes * 2 ^ (8 * o))]
    else s.dieReq x m p.dst cls .rd p.pa 0 p.tag slice []

/-- An access issued, when it may be. -/
def State.postIssue (s : State) (x : Nat) (p : Posted) : State :=
  if (s.dieOf x).mayIssue p then
    let s := s.modDie x (fun d => { d with
      posted := d.posted.map (fun q => if q.tag = p.tag then {q with sent := true} else q),
      bufs := if p.wr then d.bufs else tmod 0 d.bufs (l2Module p.pa) (· + 1) })
    (if p.host then s.dieEvent x 0x24 1 else s).postRequest x p (match p.own with | some (c, _) => (s.ctxOf c).slice.val | none => 0)
  else s

/-- The site adapter issues what it may, in the order it was given (R269). -/
def State.adapterIssue (s : State) (x : Nat) : State := (s.dieOf x).posted.foldl (fun s p => s.postIssue x p) s

/-- A host-window, hub-register or aperture access taken by the site adapter (R45, R221, R269). -/
def State.postSend (s : State) (h : Hart) (l : Loc) (wr : Bool) (n : Nat) (bs : List Byte) (va : Nat) : State :=
  let x := hartSite h
  let tag := (s.dieOf x).tag
  let own := (s.coreOf (hartCore h)).ctx.map (fun c => (c.val, (s.ctxOf c.val).vint.toNat))
  let sl := match own with | some (c, _) => (s.ctxOf c).slice.val | none => 0
  let dst := if l.isHost then niEp (s.sliceOf sl).ep (bits l.addr 9 8)
    else if 0xF800000000 ≤ l.addr then niSite ((l.addr - 0xF800000000) / 2 ^ 32) (bits l.addr 10 8)
    else hubOwner (l.addr - 0xF000000000)
  (s.modDie x (fun d => { d with
    posted := d.posted ++ [⟨tag, h, own, l.isHost, l.addr, n, wr, none, dst, bs, false, va, true⟩],
    tag := (tag + 1) % 4096 })).adapterIssue x

/-- Bytes of a read's answer: a hub register's 8 B stand first, any other read's at their places in the sector (R226). -/
def Posted.answerBytes (p : Posted) (data : List Sector) : List Byte :=
  (((data.map sectorBytes).flatten).drop (if p.host || p.aperture then p.pa % 64 else p.pa % 8)).take p.len

/-- Tags of a thread's unanswered host-window and hub-register writes (R133, R273). -/
def Die.writesOf (d : Die) (h : Hart) : List Nat := (d.posted.filter (fun p => p.hart = h && p.wr)).map (·.tag)

/-! ### Performing an access -/

/-- A located piece. -/
abbrev LPiece := Piece × Loc

/-- Bytes of a line. -/
def lineBytes (v : Sector) (off n : Nat) : List Byte := ((sectorBytes v).drop off).take n

/-- Pieces of a cask run by line: line and offset in it. -/
def caskRuns (pa n : Nat) : List (Nat × Nat × Nat) :=
  (List.range ((pa % 64 + n + 63) / 64)).map (fun i =>
    let lo := max pa (64 * (pa / 64 + i))
    let hi := min (pa + n) (64 * (pa / 64 + i) + 64)
    (pa / 64 + i, lo % 64, hi - lo))

/-- Bytes read at a located piece, and whether any was poisoned. -/
def State.readLoc (s : State) (h : Hart) (l : Loc) (n : Nat) : List Byte × Bool :=
  let core := s.coreOf (hartCore h)
  let d := s.dieOf (hartSite h)
  match l with
  | .scratch o => (core.scratch.readBytes o n, false)
  | .reg o => (leBytes n (core.localRead s.now o).toNat, false)
  | .cask pa _ =>
    (caskRuns pa n).foldl (fun (bs, p) r =>
      let ln := tget (⟨.s, 0, true, 0⟩ : Line) d.l2 r.1
      (bs ++ lineBytes ln.data r.2.1 r.2.2, p || ln.pois)) ([], false)
  | .dev a | .host a =>
    match d.posted.find? (fun p => p.hart = h && !p.wr && p.pa = a && p.len = n && p.host = l.isHost && p.data.isSome) with
    | some p => (fit 0 n (p.data.getD []), false)
    | none => (List.replicate n 0, false)

/-- Bytes stored at a located piece in scratch or in lines held in M; a poisoned line stays poisoned unless it is
written whole (R196). -/
def State.writeLoc (s : State) (h : Hart) (l : Loc) (va : Nat) (bs : List Byte) : State :=
  match l with
  | .scratch o =>
    s.modCore (hartCore h) (fun c => (c.storeBytes (some (hartThr h)) o bs).breakScratch (some (hartThr h).val) o bs.length)
  | .reg o => (s.localStore h o (BitVec.ofNat 64 (leNat bs))).getD s
  | .cask pa _ =>
    ((caskRuns pa bs.length).foldl (fun (s, bs) r =>
      let s := s.modDie (hartSite h) (fun d =>
        match tfind d.l2 r.1 with
        | none => d
        | some ln =>
          let mask : Word := BitVec.ofNat 64 ((2 ^ r.2.2 - 1) * 2 ^ r.2.1)
          let v := mergeSector ln.data (BitVec.ofNat 512 (leNat (bs.take r.2.2) * 2 ^ (8 * r.2.1))) mask
          let d := {d with l2 := tput d.l2 r.1 {ln with data := v, pois := ln.pois && r.2.2 ≠ 64}}
          d.breakResv (lineKey r.1) (h.val % 1024))
      (s, bs.drop r.2.2)) (s, bs)).1
  | .dev _ | .host _ => s.postSend h l true bs.length bs va

/-- Lines of located pieces with their key slots. -/
def pieceLines (ls : List LPiece) : List (Nat × Nat) :=
  ls.flatMap (fun p => match p.2 with
    | .cask pa k => (caskRuns pa p.1.len).map (fun r => (r.1, k))
    | _ => [])

/-- Bytes of all pieces in order. -/
def State.gather (s : State) (h : Hart) (ls : List LPiece) : List Byte × Bool :=
  ls.foldl (fun (bs, p) l => let (b, q) := s.readLoc h l.2 l.1.len; (bs ++ b, p || q)) ([], false)

/-- Bytes put into the pieces in order. -/
def State.scatter (s : State) (h : Hart) (ls : List LPiece) (bs : List Byte) : State :=
  (ls.foldl (fun (s, bs) l => (s.writeLoc h l.2 l.1.el (bs.take l.1.len), bs.drop l.1.len)) (s, bs)).1

/-- A loaded value extended into a register. -/
def extend (lg : Nat) (signed : Bool) (v : Nat) : Word :=
  let w := 8 * 2 ^ lg
  if signed && v.testBit (w - 1) then BitVec.ofNat 64 (v + (2 ^ 64 - 2 ^ w)) else BitVec.ofNat 64 v

/-- The registers a load writes (R37, R268). -/
def Thread.loadResult (t : Thread) (dst : LoadDst) (bs : List Byte) : Thread :=
  match dst with
  | .x rd lg sg => t.setX rd (extend lg.val sg (leNat bs))
  | .f rd d => (t.setF rd (BitVec.ofNat 64 (if d then leNat bs else leNat bs + 0xFFFFFFFF00000000))).dirtyF
  | .v vd m =>
    let n := 2 ^ m.lg.val
    let g := groupRegs (t.vdata8 m)
    let act := t.active m
    let t := (List.zip (List.range act.length) act).foldl (fun t p =>
      t.setVelem (vd.val + p.2.2 * g) n p.2.1 (leNat ((bs.drop (n * p.1)).take n))) t
    (t.setCsr Csr.vstart 0).dirtyV
  | .fetch => t

/-- The bytes a store writes. -/
def Thread.storeBytes (t : Thread) (src : StoreSrc) : List Byte :=
  match src with
  | .x rs2 lg => leBytes (2 ^ lg.val) (t.xr rs2).toNat
  | .f rs2 d => leBytes (if d then 8 else 4) (t.fr rs2).toNat
  | .v vs m =>
    let n := 2 ^ m.lg.val
    let g := groupRegs (t.vdata8 m)
    ((t.active m).map (fun p => leBytes n (t.velem (vs.val + p.2 * g) n p.1))).flatten

/-- An AMO of the A extension on an old value of w bits (R99). -/
def amoValue (op : AmoOp) (w old x : Nat) : Nat :=
  let sg := fun (v : Nat) => if v < 2 ^ (w - 1) then (v : Int) else (v : Int) - (2 ^ w : Nat)
  match op with
  | .swap => x
  | .add => (old + x) % 2 ^ w
  | .xor => old ^^^ x
  | .and => old &&& x
  | .or => old ||| x
  | .min => if sg x < sg old then x else old
  | .max => if sg old < sg x then x else old
  | .minu => min old x
  | .maxu => max old x

/-- The reservation key of a located piece (R99). -/
def Loc.resvKey : Loc → Nat
  | .scratch o => o / 64
  | .cask pa _ => lineKey (pa / 64)
  | l => l.addr / 64

/-- Lines no longer held for an access of a thread (R263). -/
def State.unpin (s : State) (h : Hart) (ls : List LPiece) : State :=
  let lines := (pieceLines ls).map (·.1)
  s.modDie (hartSite h) (fun d => {d with pinned := d.pinned.filter (fun p => !(lines.contains p.1 && p.2 = h))})
/-- Nor for any access of it: an SC ends what its LR held. -/
def State.unpinAll (s : State) (h : Hart) : State :=
  s.modDie (hartSite h) (fun d => {d with pinned := d.pinned.filter (fun p => p.2 ≠ h)})

/-- The length of an access's instruction. -/
def MemOp.len : MemOp → ILen
  | .load n _ _ => n
  | .store n _ _ => n
  | _ => .four

/-- The reservation key of an access: of its first piece (R99). -/
def firstKey : List LPiece → Option Nat | l :: _ => some l.2.resvKey | [] => none

/-- What a vector store leaves in its thread: `vstart` 0 and VS dirty. -/
def storeAfter : StoreSrc → Thread → Thread
  | .v _ _, t => (t.setCsr Csr.vstart 0).dirtyV
  | _, t => t

/-- A thread's own result of an access put, and the access retired. -/
def State.retireMem (s : State) (h : Hart) (n : ILen) (f : Thread → Thread) : State :=
  s.modThr h (fun t => {f t with wait := .none}.adv n)

/-- Whether an access reads. -/
def MemOp.reads : MemOp → Bool
  | .load _ _ _ => true
  | .lr _ _ _ => true
  | .amo _ _ _ _ _ => true
  | _ => false

/-- The bytes of an access put to use and the instruction retired (R98, R99, R268). -/
def State.performOn (s : State) (h : Hart) (op : MemOp) (ls : List LPiece) (bs : List Byte) : State :=
  let t := s.thrOf h
  match op with
  | .load _ _ .fetch => (s.unpin h ls).modThr h (fun t => {t with wait := .none})
  | .load n _ dst => ((s.retireMem h n (·.loadResult dst bs)).unpin h ls).modDie (hartSite h) (fun d =>
      {d with posted := d.posted.filter (fun p => !(p.hart = h && !p.wr))})
  | .store n _ src => ((s.scatter h ls (t.storeBytes src)).retireMem h n (storeAfter src)).unpin h ls
  | .lr rd d _ => s.retireMem h .four (fun t =>
      {t.setX rd (extend (if d then 3 else 2) true (leNat bs)) with resv := firstKey ls})
  | .sc rd rs2 d _ =>
    if t.resv = firstKey ls then
      ((s.scatter h ls (leBytes (if d then 8 else 4) (t.xr rs2).toNat)).retireMem h .four
        (fun t => {t.setX rd 0 with resv := none})).unpinAll h
    else (s.retireMem h .four (fun t => {t.setX rd 1 with resv := none})).unpinAll h
  | .amo rd rs2 o d _ =>
    let n := if d then 8 else 4
    ((s.scatter h ls (leBytes n (amoValue o (8 * n) (leNat bs) ((t.xr rs2).toNat % 2 ^ (8 * n))))).retireMem h .four
      (fun t => t.setX rd (extend (if d then 3 else 2) true (leNat bs)))).unpin h ls

/-- An access whose bytes are all at hand is performed; one that reads a poisoned byte loses its context (R196). -/
def State.perform (s : State) (h : Hart) (op : MemOp) (ls : List LPiece) : State :=
  let (bs, poi) := s.gather h ls
  if op.reads && poi then
    match (s.coreOf (hartCore h)).ctx with
    | some x => s.ctxLose x.val .poison
    | none => s
  else s.performOn h op ls bs

/-! ### An access from issue to retirement -/

/-- A wait of a thread for its access. -/
def State.waitMem (s : State) (h : Hart) (op : MemOp) : State := s.modThr h (fun t => {t with wait := .mem op})

/-- Kinds of answers to locating a piece. -/
def LocRes.isAccess : LocRes → Bool | .access => true | _ => false
def LocRes.isFault : LocRes → Bool | .fault _ _ _ => true | _ => false
def LocRes.walk? : LocRes → Option Walk | .walk w => some w | _ => none
def LocRes.loc? : LocRes → Option Loc | .loc l => some l | _ => none

/-- The pieces of an access with what locating each gave. -/
abbrev Located := List (Piece × LocRes)

/-- The least of a list. -/
def leastOf : List Nat → Option Nat
  | [] => none
  | a :: l => match leastOf l with | none => some a | some b => some (min a b)

/-- Where a fault-only-first load is cut: its lowest element past the first that faults or is refused (R100). -/
def ffCut (op : MemOp) (rs : Located) : Option Nat :=
  match op with
  | .load _ _ (.v _ m) =>
    if !m.ff then none
    else match leastOf ((rs.filter (fun r => r.2.isAccess || r.2.isFault)).map (fun r => r.1.idx)) with
      | some i => if 0 < i then some i else none
      | none => none
  | _ => none

/-- The walk of lowest address: pages are walked in rising order before any fault is taken (R405). -/
def lowestWalk : List Walk → Option Walk
  | [] => none
  | w :: l => match lowestWalk l with | none => some w | some v => if v.va < w.va then some v else some w

/-- The fault of lowest address (R405): its piece and what it says. -/
def lowestFault : Located → Option (Piece × XCause × Nat × Bool)
  | [] => none
  | (p, .fault c i k) :: l => match lowestFault l with
    | some q => if q.1.va < p.va then some q else some (p, c, i, k)
    | none => some (p, c, i, k)
  | _ :: l => lowestFault l

/-- The address of the access that needs a line: of the first element that touches it (R601). -/
def lineVa (ls : List LPiece) (line : Nat) : Nat :=
  match ls.find? (fun p => (pieceLines [p]).any (fun l => l.1 = line)) with
  | some p => p.1.el
  | none => 0

/-- Whether a core-local register piece breaks the rules of R43. -/
def State.localBad (s : State) (h : Hart) (op : MemOp) (l : LPiece) : Bool :=
  match l.2 with
  | .reg o => l.1.len ≠ 8 || o % 8 ≠ 0 || 0x200 ≤ o || op.atomic || op.isVec
      || (match op with | .store _ _ _ => (s.localStore h o 0).isNone | _ => false)
  | _ => false

/-- Whether a piece is a core-local register. -/
def Loc.isReg : Loc → Bool | .reg _ => true | _ => false

/-- Lines an access needs and the die does not hold as it needs them (R254). -/
def Die.lacking (d : Die) (op : MemOp) (ls : List LPiece) : List (Nat × Nat) :=
  (pieceLines ls).filter (fun l => match tfind d.l2 l.1 with
    | some ln => op.excl && ln.st = .s
    | none => true)

/-- Whether an access is an SC whose reservation is gone. -/
def Thread.lostResv (t : Thread) (op : MemOp) (ls : List LPiece) : Bool :=
  match op with
  | .sc _ _ _ _ => t.resv ≠ firstKey ls
  | _ => false

/-- Host-window and hub-register reads of an access still to be answered. -/
def Die.unread (d : Die) (h : Hart) (posted : List LPiece) : List LPiece :=
  posted.filter (fun l =>
    !(d.posted.any (fun p => p.hart = h && !p.wr && p.pa = l.2.addr && p.len = l.1.len && p.data.isSome)))
/-- Those the site adapter has not been given yet. -/
def Die.unsent (d : Die) (h : Hart) (unread : List LPiece) : List LPiece :=
  unread.filter (fun l => !(d.posted.any (fun p => p.hart = h && !p.wr && p.pa = l.2.addr && p.len = l.1.len)))

/-- An access whose pieces are all located: it traps, waits for lines or answers, or is performed. -/
def State.memGo (s : State) (h : Hart) (op : MemOp) (first : Nat) (ls : List LPiece) : State :=
  let t := s.thrOf h
  let d := s.dieOf (hartSite h)
  let posted := ls.filter (fun l => l.2.posted)
  if ls.any (fun l => l.2.isReg) && (ls.any (fun l => !l.2.isReg) || ls.any (s.localBad h op)) then
    s.trapThr h op.fault (match ls.find? (fun l => l.2.isReg) with | some l => l.1.el | none => first)
  else if !posted.isEmpty && op.atomic then s.trapThr h op.fault first
  else match posted.find? (fun l => l.1.el % op.size ≠ 0) with
    | some l => s.trapThr h op.misaligned l.1.el
    | none =>
      if !(d.lacking op ls).isEmpty && !t.lostResv op ls then
        (d.lacking op ls).foldl (fun s l => s.missRequest h l.1 l.2 op.excl (lineVa ls l.1)) (s.waitMem h op)
      else if op.acc ≠ .write && !(d.unread h posted).isEmpty then
        (d.unsent h (d.unread h posted)).foldl (fun s l => s.postSend h l.2 false l.1.len [] l.1.el) (s.waitMem h op)
      else s.perform h op ls

/-- An access whose pieces were looked up: it traps, starts a walk, faults, or goes on. -/
def State.memTake (s : State) (h : Hart) (op : MemOp) (ps : List Piece) (rs : Located) : State :=
  match rs.find? (fun r => r.2.isAccess) with
  | some r => s.trapThr h op.fault r.1.va
  | none =>
    match lowestWalk (rs.filterMap (fun r => r.2.walk?)) with
    | some w => (s.waitMem h op).walkStart h w
    | none =>
      match lowestFault rs with
      | some (p, c, i, k) => s.threadFault h op ps p c i k
      | none => s.memGo h op ((ps.map (·.va)).headD 0) (rs.filterMap (fun r => r.2.loc?.map (fun l => (r.1, l))))

/-- An access of a thread tried: it traps, faults, waits, or is performed. A misaligned LR, SC or AMO raises the
address-misaligned exception of its kind (DESIGN CHOICE, log 44), at a core-local register its access fault (R43). -/
def State.memExec (s : State) (h : Hart) (op : MemOp) : State :=
  let t := s.thrOf h
  let ps := op.pieces t
  if (s.coreOf (hartCore h)).vregBusy (hartThr h) (op.vregs t).1 (op.vregs t).2 then s.waitMem h op
  else if op.atomic && (ps.any (fun p => p.va % op.size ≠ 0)) then
    s.trapThr h (if ps.any (·.inRegs) then op.fault else op.misaligned) ((ps.map (·.va)).headD 0)
  else
    let (rs, s) := s.locateAll h op.acc ps
    match ffCut op rs with
    | some i =>
      (s.modThr h (fun t => t.setCsr Csr.vl (BitVec.ofNat 64 i))).memTake h op ps (rs.filter (fun r => r.1.idx < i))
    | none => s.memTake h op ps rs

/-- A thread that waits for its access tries it again. -/
def State.replay (s : State) (h : Hart) : State :=
  match (s.thrOf h).wait with
  | .mem op => (s.modThr h (fun t => {t with wait := .none})).memExec h op
  | .ordered =>
    if (s.dieOf (hartSite h)).posted.any (fun p => p.hart = h && p.wr) then s
    else s.modThr h (fun t => {t with wait := .none}.adv .four)
  | _ => s

/-- Every waiting thread of a die tries again. -/
def State.replayDie (s : State) (x : Nat) : State :=
  ((s.dieOf x).core.flatMap (fun c => (c.2.thr.map (fun t => coreHart (256 * x + c.1) t.1)))).foldl State.replay s

/-! ### Load, store, LR, SC, AMO (R268, R99) -/

/-- Whether the unit of a register access is on: the floating-point and vector units (mstatus.FS, VS), and the vector
form is defined. -/
def Thread.loadLegal (t : Thread) : LoadDst → Bool
  | .f _ _ => t.csrBits Csr.mstatus 14 13 ≠ 0
  | .v vd m => t.vmemLegal vd m true
  | _ => true
def Thread.storeLegal (t : Thread) : StoreSrc → Bool
  | .f _ _ => t.csrBits Csr.mstatus 14 13 ≠ 0
  | .v vs m => t.vmemLegal vs m false
  | _ => true

/-- LOAD. A fetch reads the 4 B at pc. -/
def execLoad (h : Hart) (n : ILen) (rs1 : RegNo) (imm : BitVec 12) (dst : LoadDst) (s : State) : Res :=
  s.issue h (fun s =>
    let t := s.thrOf h
    let va := match dst with | .fetch => t.pc.toNat | _ => t.addr rs1 imm
    if !t.loadLegal dst then s.trapIllegal h else s.memExec h (.load n va dst))

/-- STORE. -/
def execStore (h : Hart) (n : ILen) (rs1 : RegNo) (imm : BitVec 12) (src : StoreSrc) (s : State) : Res :=
  s.issue h (fun s =>
    let t := s.thrOf h
    if !t.storeLegal src then s.trapIllegal h else s.memExec h (.store n (t.addr rs1 imm) src))

/-- LR. -/
def execLr (h : Hart) (rd rs1 : RegNo) (dbl : Bool) (s : State) : Res :=
  s.issue h (fun s => s.memExec h (.lr rd dbl ((s.thrOf h).xr rs1).toNat))

/-- SC. -/
def execSc (h : Hart) (rd rs1 rs2 : RegNo) (dbl : Bool) (s : State) : Res :=
  s.issue h (fun s => s.memExec h (.sc rd rs2 dbl ((s.thrOf h).xr rs1).toNat))

/-- An AMO. -/
def execThreadAmo (h : Hart) (rd rs1 rs2 : RegNo) (op : AmoOp) (dbl : Bool) (s : State) : Res :=
  s.issue h (fun s => s.memExec h (.amo rd rs2 op dbl ((s.thrOf h).xr rs1).toNat))

/-! ### FENCE, FENCE.I, WFI -/

/-- FENCE (R273): with O or I among the predecessors it waits until the thread's host-window and hub-register writes
are answered; cask and scratch accesses are performed when they retire. -/
def execFence (h : Hart) (pred _succ : BitVec 4) (s : State) : Res :=
  s.issue h (fun s =>
    if pred.toNat / 4 ≠ 0 && (s.dieOf (hartSite h)).posted.any (fun p => p.hart = h && p.wr) then
      s.modThr h (fun t => {t with wait := .ordered})
    else s.modThr h (·.adv .four))

/-- FENCE.I (R273): fetches see every store of the thread already, in a model that keeps no instruction cache. -/
def execFenceI (h : Hart) (s : State) : Res := s.issue h (fun s => s.modThr h (·.adv .four))

/-- WFI (R43, R603). -/
def execWfi (h : Hart) (s : State) : Res :=
  s.issue h (fun s =>
    let t := s.thrOf h
    if t.priv = 0 || (t.priv = 1 && t.csrBits Csr.mstatus 21 21 = 1) then s.trapIllegal h
    else
      -- the 100 µs of R366 rule 2 start again
      (match (s.coreOf (hartCore h)).ctx with
        | some x => s.modCtx x.val (fun c => {c with idle := false})
        | none => s).modThr h (fun t => ({t with wfi := true}.adv .four).wake))

/-! ### CSR instructions -/

/-- The die revision of a site as IDENT reported it (R301, R603). -/
def State.dieRev (s : State) (x : Nat) : Nat :=
  match (s.linkOf x).ident with | some i => i.2.2.2.1 | none => 0

/-- The source operand of a CSR instruction. -/
def Thread.csrOperand (t : Thread) : CsrSrc → Word | .reg r => t.xr r | .imm u => u.setWidth 64
/-- Whether a CSR instruction writes: CSRRW does; the others unless their source is x0 or 0 (RISC-V, log 4). -/
def csrWrites : CsrOp → CsrSrc → Bool
  | .rw, _ => true
  | _, .reg r => r.val ≠ 0
  | _, .imm u => u ≠ 0
/-- The value a CSR instruction makes of the old one. -/
def csrNew : CsrOp → Word → Word → Word
  | .rw, _, v => v
  | .rs, old, v => old ||| v
  | .rc, old, v => old &&& ~~~v

/-- A legal CSR instruction's effect on the core: rd takes the old value, the instruction retires, the register is
written; a value written to a counter is the one it holds after the instruction. -/
def Core.csrApply (c : Core) (t : Fin 4) (op : CsrOp) (rd : RegNo) (src : CsrSrc) (n : Nat) (old v : Word) : Core :=
  let c := c.setThread t (((c.thread t).setX rd old).adv .four)
  if csrWrites op src then c.csrWrite t n (csrNew op old v) v else c

/-- A CSR instruction on any CSR. -/
def State.csrDo (s : State) (h : Hart) (op : CsrOp) (rd : RegNo) (src : CsrSrc) (n : Nat) : State :=
  if !(s.thrOf h).csrLegal n (csrWrites op src) then s.trapIllegal h
  else (s.hpmSettle h n).modCore (hartCore h) (fun c =>
    c.csrApply (hartThr h) op rd src n (c.csrRead (hartThr h) h (s.dieRev (hartSite h)) s.now n) ((s.thrOf h).csrOperand src))

/-- CSRRW, CSRRS, CSRRC and their immediate forms. -/
def execCsrAccess (h : Hart) (op : CsrOp) (rd : RegNo) (src : CsrSrc) (csr : BitVec 12) (s : State) : Res :=
  s.issue h (fun s => s.csrDo h op rd src csr.toNat)
/-- `pstat` (R105). -/
def execPstatWrite (h : Hart) (op : CsrOp) (rd : RegNo) (src : CsrSrc) (s : State) : Res :=
  s.issue h (fun s => s.csrDo h op rd src Csr.pstat)
/-- `cycflg` (R522). -/
def execCycflgWrite (h : Hart) (op : CsrOp) (rd : RegNo) (src : CsrSrc) (s : State) : Res :=
  s.issue h (fun s => s.csrDo h op rd src Csr.cycflg)
/-- `mhpmevent3` + i (R526). -/
def execMhpmeventWrite (h : Hart) (op : CsrOp) (rd : RegNo) (src : CsrSrc) (i : Fin 16) (s : State) : Res :=
  s.issue h (fun s => s.csrDo h op rd src (0x323 + i.val))
/-- `pmpcfg0`, `pmpcfg2` (R603). -/
def execPmpcfgWrite (h : Hart) (op : CsrOp) (rd : RegNo) (src : CsrSrc) (i : Fin 2) (s : State) : Res :=
  s.issue h (fun s => s.csrDo h op rd src (0x3A0 + 2 * i.val))

/-! ### Core-local registers (R43) -/

/-- A store of a thread to register `reg` of thread t's block. -/
def State.localInstr (s : State) (h : Hart) (n : ILen) (off : Nat) (v : Word) : State :=
  match s.localStore h off v with
  | some s => s.modThr h (·.adv n)
  | none => s.trapThr h .storeAccess (0x7FFFFFFF80000 + off)

/-- A store to `LIPEND` of thread t. -/
def execLipendWrite (h : Hart) (n : ILen) (t : Fin 4) (v : Word) (s : State) : Res :=
  s.issue h (fun s => s.localInstr h n (0x40 * t.val + 8) v)
/-- A store to `LTCMP` of thread t. -/
def execLtcmpWrite (h : Hart) (n : ILen) (t : Fin 4) (v : Word) (s : State) : Res :=
  s.issue h (fun s => s.localInstr h n (0x40 * t.val + 0x10) v)

/-- Any access to the register half: the fault of its kind where it breaks the rules, else its effect. -/
def execCoreLocalAccess (h : Hart) (n : ILen) (kind : LocalKind) (off : BitVec 16) (lg : Fin 4) (rd : RegNo) (v : Word)
    (s : State) : Res :=
  s.issue h (fun s =>
    let o := off.toNat
    let tval := 0x7FFFFFFF80000 + o
    let form := lg.val = 3 && o % 8 = 0 && o < 0x200
    match kind with
    | .load =>
      if form then s.modThr h (fun t => (t.setX rd ((s.coreOf (hartCore h)).localRead s.now o)).adv n)
      else s.trapThr h .loadAccess tval
    | .store => if form then s.localInstr h n o v else s.trapThr h .storeAccess tval
    | .vload => s.trapThr h .loadAccess tval
    | .vstore | .amo => s.trapThr h .storeAccess tval)

/-- The timebase reaches `cmp` (R43); nothing while it has not. -/
def execLocalTimerMatch (h : Hart) (s : State) : Res :=
  .next (s.modThr h (fun t =>
    if t.ltcmp.toNat ≤ s.now then (t.setCsr Csr.mip (t.csrRaw Csr.mip ||| 0x20000)).wake else t))

/-! ### Interrupts (R602) -/

/-- The order in which one mode takes interrupts. -/
def irqOrder : List Nat := [11, 3, 7, 9, 1, 5, 16, 17]

/-- The interrupt a thread takes now. -/
def Thread.irqPick (t : Thread) (now : Nat) : Option Nat :=
  let pend := (t.mipNow now &&& t.csrRaw Csr.mie).toNat
  let deleg := (t.csrRaw Csr.mideleg).toNat
  let mOn := t.priv ≠ 3 || t.csrBits Csr.mstatus 3 3 = 1
  let sOn := t.priv = 0 || (t.priv = 1 && t.csrBits Csr.mstatus 1 1 = 1)
  match irqOrder.find? (fun i => bit pend i && !bit deleg i && mOn) with
  | some i => some i
  | none => irqOrder.find? (fun i => bit pend i && bit deleg i && sOn)

/-- A thread that waits for nothing takes its interrupt. -/
def execThreadInterrupt (h : Hart) (s : State) : Res :=
  let t := s.thrOf h
  .next (match t.irqPick s.now with
    | some i =>
      if t.wait = .none && !s.siteHalted (hartSite h) && !(s.coreOf (hartCore h)).saving
      then s.setThr h (t.enterTrap true i 0) else s
    | none => s)

/-! ### Responses (R601, R421, R263) -/

/-- Whether an outcome's context and vintage are still those of its slot (R421). -/
def State.current (s : State) (own : Option (Nat × Nat)) : Bool :=
  match own with
  | some (c, v) => (s.ctxOf c).vint.toNat = v && (s.ctxOf c).state = .live
  | none => true

/-- A stale outcome counted (R421). -/
def State.countStale (s : State) (own : Option (Nat × Nat)) : State :=
  match own with
  | some (c, _) =>
    (s.modSlice (s.ctxOf c).slice.val (fun e => {e with nlate := BitVec.ofNat 32 (satAdd 0xFFFFFFFF e.nlate.toNat 1)})).modHub
      (fun h => {h with stale := h.stale + 1})
  | none => s

/-- What a thread's access still waits for is of no more use to it: it has trapped. -/
def Die.forget (d : Die) (h : Hart) : Die :=
  { d with
    miss := d.miss.map (fun m => if m.hart = h then {m with live := false} else m),
    posted := (d.posted.filter (fun p => !(p.hart = h && !p.wr && p.data.isSome))).map (fun p =>
      if p.hart = h && !p.wr then {p with live := false} else p) }

/-- The access a thread waits for ends with its access fault, at the address of the element that failed (R601). -/
def State.memFault (s : State) (h : Hart) (va : Nat) : State :=
  match (s.thrOf h).wait with
  | .mem op => (s.modDie (hartSite h) (·.forget h)).trapThr h op.fault va
  | _ => s

/-! ### What waits for earlier writes (R133, R270) -/

/-- One arrival counted (R50); one more than the die's local number breaks the channel (R52). -/
def State.countArrival (s : State) (h : Hart) (ch : Nat) : State :=
  let x := hartSite h
  let n := tget 0 (s.dieOf x).barCount ch + 1
  let loc := tget 0 (s.dieOf x).barLocal ch
  if (s.barOf ch).broken then s
  else if loc < n then (s.modThr h (fun t => {t with lbBrk := true})).breakChan ch
  else
    let s := s.modDie x (fun d => {d with barCount := tput d.barCount ch n})
    let s := match (s.coreOf (hartCore h)).ctx with
      | some c => s.modBar ch (fun b => {b with ctxs := if b.ctxs.contains c.val then b.ctxs else c.val :: b.ctxs})
      | none => s
    let s := s.modThr h (fun t => {t with lbArr := true})
    if n = loc then s.emit (.barArrive ch ⟨x % 16, Nat.mod_lt _ (by decide)⟩) else s

/-- A signal goes to the fence store, or an arrival is counted. -/
def State.releaseDo (s : State) (h : Hart) (r : Release) : State :=
  match r with
  | .signal f v => s.emit (.ctl 1 [f, v.toNat, h.val])
  | .arrival ch => s.countArrival h ch

/-- A write of a thread answered: what waited for it alone goes on, in order. -/
def State.releaseFor (s : State) (h : Hart) (tag : Nat) : State :=
  let x := hartSite h
  let hs := (s.dieOf x).held.map (fun q => if q.hart = h then {q with tags := q.tags.filter (· ≠ tag)} else q)
  let s := s.modDie x (fun d => {d with held := hs.filter (fun q => !q.tags.isEmpty)})
  (hs.filter (fun q => q.tags.isEmpty)).foldl (fun s q => s.releaseDo q.hart q.what) s

/-- A response for a line or for a host-window or hub-register read of a thread. -/
def State.coreResponse (s : State) (h : Hart) (tag : Nat) (st : Status) (poison : Bool) (data : List Sector) : State :=
  let x := hartSite h
  let d := s.dieOf x
  match d.miss.find? (fun m => m.tag = tag && m.hart = h) with
  | some m =>
    let s := s.modDie x (fun d => { d with
      miss := d.miss.filter (fun q => q.tag ≠ tag || q.hart ≠ h),
      bufs := tmod 0 d.bufs (l2Module (64 * m.line)) (· - 1) })
    let s := {s with inflight := tdel s.inflight m.line}
    let fresh := s.current m.own
    let s := if fresh then s else s.countStale m.own
    let s := if st = .ok && poison then s.coreEvent (hartCore h) 0x12 1 else s
    if st = .ok then
      let s := s.l2Fill x m.line ⟨if m.excl then .m else .s, sectorAt data 0, poison, m.kslot⟩
      let s := s.modCask (64 * m.line / 2 ^ 36) (fun c => {c with grants := c.grants.filter (· ≠ (m.line, x))})
      let s := if fresh && m.live then s.modDie x (fun d => {d with pinned := d.pinned ++ [(m.line, h)]}) else s
      s.replayDie x
    else (if fresh && m.live then s.memFault h m.va else s).replayDie x
  | none =>
    match d.posted.find? (fun p => p.tag = tag && p.hart = h && !p.wr && p.sent && p.data.isNone) with
    | some p =>
      let drop := fun (d : Die) => {d with posted := d.posted.filter (fun q => q.tag ≠ tag || q.hart ≠ h)}
      let s := s.modDie x (fun d => {d with bufs := tmod 0 d.bufs (l2Module p.pa) (· - 1)})
      let s := if st = .ok && poison then s.coreEvent (hartCore h) 0x12 data.length else s
      let s :=
        if !s.current p.own then (s.modDie x drop).countStale p.own
        else if !p.live then s.modDie x drop
        else if st ≠ .ok then (s.modDie x drop).memFault h p.va
        else if poison then
          let s := s.modDie x drop
          match p.own with | some (c, _) => s.ctxLose c .poison | none => s
        else s.modDie x (fun d => {d with posted := d.posted.map (fun q =>
          if q.tag = tag && q.hart = h then {q with data := some (p.answerBytes data)} else q)})
      (s.adapterIssue x).replayDie x
    | none => s.modTrellis (fun t => {t with rspDisc := t.rspDisc + 1})

/-- CORE_RESPONSE. -/
def execCoreResponse (h : Hart) (tag : BitVec 12) (st : Status) (poison : Bool) (data : List Sector) (s : State) : Res :=
  .next (s.coreResponse h tag.toNat st poison data)

/-- HOST_STORE_ANSWER: the answer of a retired store; any but OK loses the context with ERRRESP (R601). Signals and
arrivals that waited for it go on (R133, R270), and the site adapter issues what it held back (R269). -/
def execHostStoreAnswer (h : Hart) (tag : BitVec 12) (st : Status) (s : State) : Res :=
  let x := hartSite h
  .next (match (s.dieOf x).posted.find? (fun p => p.tag = tag.toNat && p.hart = h && p.wr && p.sent) with
    | none => s.modTrellis (fun t => {t with rspDisc := t.rspDisc + 1})
    | some p =>
      let s := s.modDie x (fun d => {d with posted := d.posted.filter (fun q => q.tag ≠ tag.toNat || q.hart ≠ h)})
      let s := if !s.current p.own then s.countStale p.own
        else match st, p.own with
          | .ok, _ => s.releaseFor h tag.toNat
          | _, some (c, _) => s.ctxLose c .errresp
          | _, none => s.releaseFor h tag.toNat
      (s.adapterIssue x).replay h)

end Sys2Proof.Machine
end

