-- ==== Sys2Proof/Machine/FloatArith.lean ====
section
/-! DEFINITION. IEEE 754 arithmetic on codes as the standard vector floating-point instructions perform it (R37, R69,
R70, R78, R83, R97): every operation is exact on `XV` and rounds once. Each answers a code and the flags of `fflags`:
NX 1, UF 2, OF 4, DZ 8, NV 16. What R97 leaves to the RISC-V F, D and V extensions is taken from them (PRESUMED, log 7):
a result is tiny after rounding, NaN operands that are signalling set NV. -/

namespace Sys2Proof.Machine

/-- The rounding mode of an `frm` value; 5 to 7 name none. -/
def rmOf : Nat → Option RM
  | 0 => some .rne
  | 1 => some .rtz
  | 2 => some .rdn
  | 3 => some .rup
  | 4 => some .rmm
  | _ => none

/-- Bits of a code. -/
def FFmt.width (f : FFmt) : Nat := 1 + f.eb + f.mb

/-- A signalling NaN: the top mantissa bit is 0. -/
def FFmt.isSnan (f : FFmt) (c : Nat) : Bool := (f.decode c).isNan && !bit c (f.mb - 1)

/-- Flags of operands that are signalling NaNs. -/
def FFmt.nvOf (f : FFmt) (cs : List Nat) : Nat := if cs.any f.isSnan then 16 else 0

/-- Whether ± (n / d) × 2^e, n > 0, lies below the smallest normal number after rounding to f's precision with no bound
on the exponent. -/
def FFmt.tiny (f : FFmt) (rm : RM) (neg : Bool) (n d : Nat) (e : Int) : Bool :=
  let k := ilog2Q n d + e
  let emin : Int := 1 - f.bias
  if emin ≤ k then false
  else if k < emin - 1 then true
  else
    let (a, b) := scaleNat n d (e - (k - f.mb))
    roundNat rm neg a b < 2 ^ (f.mb + 1)

/-- Whether n / d × 2^e differs from m × 2^q. -/
def inexactQ (n d : Nat) (e : Int) (m : Nat) (q : Int) : Bool :=
  let (a, b) := scaleNat n d (e - q)
  a ≠ m * b

/-- ± (n / d) × 2^e rounded, with its flags. -/
def FFmt.roundFlags (f : FFmt) (rm : RM) (neg : Bool) (n d : Nat) (e : Int) : Nat × Nat :=
  if n = 0 then (f.signBit neg, 0)
  else
    let (m, q) := f.roundQ rm neg n d e
    if f.exceeds m q then (f.overflow rm neg, 5)
    else
      let nx := inexactQ n d e m q
      (f.code neg m q, if nx then (if f.tiny rm neg n d e then 3 else 1) else 0)

/-- A value rounded into f. -/
def FFmt.ofXV (f : FFmt) (rm : RM) : XV → Nat × Nat
  | .nan => (f.cnan, 0)
  | .inf s => (f.infCode s, 0)
  | .fin s n e => f.roundFlags rm s n 1 e

/-- Whether a value carries a minus sign. -/
def XV.isNeg : XV → Bool
  | .nan => false
  | .inf s => s
  | .fin s _ _ => s

/-- The exact sum, with the sign that an exact zero takes from the rounding mode (R70). -/
def XV.addR (rm : RM) (a b : XV) : XV :=
  match a.add b with
  | .fin _ 0 _ => .fin (if a.isNeg = b.isNeg then a.isNeg else rm = .rdn) 0 0
  | r => r

/-- A result that is NaN of operands none of which is: invalid. -/
def FFmt.invalid (f : FFmt) (r : XV) (cs : List Nat) : Nat :=
  if r.isNan && !(cs.any (fun c => (f.decode c).isNan)) then 16 else f.nvOf cs

/-- A result and the flags of its operands with those of its rounding. -/
def FFmt.answer (f g : FFmt) (rm : RM) (r : XV) (cs : List Nat) : Nat × Nat :=
  let (c, fl) := g.ofXV rm r
  (c, fl ||| f.invalid r cs)

/-- a + b, a − b, a × b of codes of f, rounded into g (f itself, or the format twice as wide). -/
def FFmt.add (f g : FFmt) (rm : RM) (a b : Nat) : Nat × Nat :=
  f.answer g rm ((f.decode a).addR rm (f.decode b)) [a, b]
def FFmt.sub (f g : FFmt) (rm : RM) (a b : Nat) : Nat × Nat :=
  f.answer g rm ((f.decode a).addR rm (f.decode b).neg) [a, b]
def FFmt.mul (f g : FFmt) (rm : RM) (a b : Nat) : Nat × Nat :=
  f.answer g rm ((f.decode a).mul (f.decode b)) [a, b]

/-- ± (a × b) ± c with one rounding: a and b codes of f, c and the result codes of g. Infinity times zero is invalid
whatever c is. -/
def FFmt.fma (f g : FFmt) (rm : RM) (negP negC : Bool) (a b c : Nat) : Nat × Nat :=
  let p := (f.decode a).mul (f.decode b)
  let z := g.decode c
  let r := (if negP then p.neg else p).addR rm (if negC then z.neg else z)
  let anyNan := (f.decode a).isNan || (f.decode b).isNan
  let bad := (p.isNan && !anyNan) || (r.isNan && !(anyNan || z.isNan))
  let (v, fl) := g.ofXV rm r
  (v, fl ||| f.nvOf [a, b] ||| g.nvOf [c] ||| (if bad then 16 else 0))

/-- a ÷ b. -/
def FFmt.div (f : FFmt) (rm : RM) (a b : Nat) : Nat × Nat :=
  match f.decode a, f.decode b with
  | .nan, _ => (f.cnan, f.nvOf [a, b])
  | _, .nan => (f.cnan, f.nvOf [a, b])
  | .inf _, .inf _ => (f.cnan, 16)
  | .inf s, .fin t _ _ => (f.infCode (xor s t), 0)
  | .fin s _ _, .inf t => (f.signBit (xor s t), 0)
  | .fin s n e, .fin t m q =>
    if m = 0 then (if n = 0 then (f.cnan, 16) else (f.infCode (xor s t), 8))
    else f.roundFlags rm (xor s t) n m (e - q)

/-- √a: the integer root of the mantissa widened, with a bit below it that says whether it is exact. -/
def FFmt.sqrt (f : FFmt) (rm : RM) (a : Nat) : Nat × Nat :=
  match f.decode a with
  | .nan => (f.cnan, f.nvOf [a])
  | .inf s => if s then (f.cnan, 16) else (f.infCode false, 0)
  | .fin s n e =>
    if n = 0 then (f.signBit s, 0)
    else if s then (f.cnan, 16)
    else
      let k := f.mb + 4
      let (n, e) := if e % 2 = 0 then (n, e) else (2 * n, e - 1)
      let r := isqrt 96 (n * 4 ^ k)
      f.roundFlags rm false (2 * r + b2n (decide (r * r ≠ n * 4 ^ k))) 1 (e / 2 - k - 1)

/-- The smaller or the larger: −0 is below +0, a number is preferred to a NaN. -/
def FFmt.minMax (f : FFmt) (max : Bool) (a b : Nat) : Nat × Nat :=
  let x := f.decode a
  let y := f.decode b
  let below := x.lt y || (x.isZero && y.isZero && x.isNeg)
  (if x.isNan && y.isNan then f.cnan else if x.isNan then b else if y.isNan then a
    else if below = max then b else a, f.nvOf [a, b])

/-- A sign from b: its own, the opposite, or the two signs' exclusive or. -/
def FFmt.sgnj (f : FFmt) (kind a b : Nat) : Nat :=
  let p := f.eb + f.mb
  let s := match kind with | 0 => bit b p | 1 => !bit b p | _ => xor (bit a p) (bit b p)
  a % 2 ^ p + f.signBit s

/-- a = b, quiet. -/
def FFmt.eq (f : FFmt) (a b : Nat) : Bool × Nat :=
  let x := f.decode a
  let y := f.decode b
  (!x.isNan && !y.isNan && !x.lt y && !y.lt x, f.nvOf [a, b])
/-- a < b and a ≤ b, signalling. -/
def FFmt.lt (f : FFmt) (a b : Nat) : Bool × Nat :=
  let x := f.decode a
  let y := f.decode b
  (x.lt y, if x.isNan || y.isNan then 16 else 0)
def FFmt.le (f : FFmt) (a b : Nat) : Bool × Nat :=
  let x := f.decode a
  let y := f.decode b
  (!x.isNan && !y.isNan && !y.lt x, if x.isNan || y.isNan then 16 else 0)

/-- The class of a code as one bit of ten. -/
def FFmt.classify (f : FFmt) (a : Nat) : Nat :=
  match f.decode a with
  | .nan => if f.isSnan a then 0x100 else 0x200
  | .inf s => if s then 0x001 else 0x080
  | .fin s n _ =>
    if n = 0 then (if s then 0x008 else 0x010)
    else if n < 2 ^ f.mb then (if s then 0x004 else 0x020)
    else if s then 0x002 else 0x040

/-- A value into a w-bit integer: out of range it saturates and is invalid; NaN gives the largest. -/
def FFmt.toInt (f : FFmt) (rm : RM) (w : Nat) (signed : Bool) (a : Nat) : Nat × Nat :=
  let lo : Int := if signed then -(2 ^ (w - 1)) else 0
  let hi : Int := if signed then 2 ^ (w - 1) - 1 else 2 ^ w - 1
  match f.decode a with
  | .nan => (intCode w hi, 16)
  | .inf s => (intCode w (if s then lo else hi), 16)
  | .fin s n e =>
    let (x, y) := scaleNat n 1 e
    let r := roundNat rm s x y
    let v : Int := if s then -(r : Int) else r
    if v < lo then (intCode w lo, 16)
    else if hi < v then (intCode w hi, 16)
    else (intCode w v, if x = r * y then 0 else 1)

/-- A w-bit integer into f. -/
def FFmt.ofInt (f : FFmt) (rm : RM) (w : Nat) (signed : Bool) (a : Nat) : Nat × Nat :=
  f.ofXV rm (.ofInt (if signed then intOf w a else ((a % 2 ^ w : Nat) : Int)))

/-- A code of f into g. -/
def FFmt.cvt (f g : FFmt) (rm : RM) (a : Nat) : Nat × Nat :=
  f.answer g rm (f.decode a) [a]

/-- A code of f into g rounded to odd: the value cut, its last bit set where anything was cut off. -/
def FFmt.cvtOdd (f g : FFmt) (a : Nat) : Nat × Nat :=
  match f.decode a with
  | .fin s n e =>
    if n = 0 then (g.signBit s, 0)
    else
      let (m, q) := g.roundQ .rtz s n 1 e
      if g.exceeds m q then (g.maxCode s, 5)
      else
        let nx := inexactQ n 1 e m q
        (g.code s (m ||| b2n nx) q,
          if nx then (if ilog2Q n 1 + e < 1 - g.bias then 3 else 1) else 0)
  | x => f.answer g .rtz x [a]

/-- Exponent field and mantissa of a finite nonzero code, a subnormal one brought to the form 1.m with an exponent of 0 or
less. -/
def FFmt.normal (f : FFmt) (a : Nat) : Int × Nat :=
  let m := a % 2 ^ f.mb
  let ex := (a >>> f.mb) % 2 ^ f.eb
  if ex ≠ 0 then (ex, m)
  else
    let up := f.mb - Nat.log2 m
    (1 - (up : Int), m <<< up % 2 ^ f.mb)

/-- `vfrec7`: the reciprocal to 7 bits. The V extension's table holds, for the interval of each 7-bit index, the
reciprocal of its midpoint. -/
def FFmt.rec7 (f : FFmt) (rm : RM) (a : Nat) : Nat × Nat :=
  match f.decode a with
  | .nan => (f.cnan, f.nvOf [a])
  | .inf s => (f.signBit s, 0)
  | .fin s n _ =>
    if n = 0 then (f.infCode s, 8)
    else
      let (ex, m) := f.normal a
      if ex < -1 then (f.overflow rm s, 5)
      else
        let d := 257 + 2 * (m >>> (f.mb - 7))
        let sig := ((2 * (65536 - 128 * d) + d) / (2 * d)) <<< (f.mb - 7)
        let out := 2 * f.bias - 1 - ex
        let sub := (sig >>> 1) ||| 2 ^ (f.mb - 1)
        (f.signBit s + (if out = 0 then sub else if out < 0 then sub >>> 1 else (out.toNat <<< f.mb) + sig), 0)

/-- `vfrsqrt7`: the reciprocal square root to 7 bits, by the table of midpoints likewise. -/
def FFmt.rsqrt7 (f : FFmt) (a : Nat) : Nat × Nat :=
  match f.decode a with
  | .nan => (f.cnan, f.nvOf [a])
  | .inf s => if s then (f.cnan, 16) else (0, 0)
  | .fin s n _ =>
    if n = 0 then (f.infCode s, 8)
    else if s then (f.cnan, 16)
    else
      let (ex, m) := f.normal a
      let x := (129 + 2 * (m >>> (f.mb - 6))) * (if ex % 2 = 0 then 2 else 1)
      let sig := ((isqrt 13 (2 ^ 25 / x) - 255) / 2) <<< (f.mb - 7)
      ((((3 * f.bias - 1 - ex) / 2).toNat <<< f.mb) + sig, 0)

end Sys2Proof.Machine
end

