-- ==== Sys2Proof/Machine/VectorArith.lean ====
section
/-! DEFINITION. The arithmetic of the standard vector instructions, element by element (R37, R97, R100): integer, fixed
point and floating point. R97 names the ratified V extension, Zvfh, Zvfbfmin and Zvfbfwma and leaves their meaning to
them (PRESUMED, log 7). An element function answers the value and the flags it raises: `vxsat` as 1 for fixed point,
`fflags` for floating point. -/

namespace Sys2Proof.Machine

/-- The fields of a word of opcode 0x57: funct6, the unmasked bit, vs2, the field of vs1, rs1 or the immediate, funct3,
vd. -/
structure VWord where
  f6 : Nat
  vm : Bool
  vs2 : Nat
  s1 : Nat
  f3 : Nat
  vd : Nat
  deriving DecidableEq, Repr

def vword (w : BitVec 32) : VWord :=
  let n := w.toNat
  ⟨bits n 31 26, bit n 25, bits n 24 20, bits n 19 15, bits n 14 12, bits n 11 7⟩

/-! ### Integer and fixed-point elements -/

/-- v ÷ 2^d under the fixed-point rounding mode `vxrm`: to nearest up, to nearest even, down, to odd. -/
def roundOff (vxrm : Nat) (v : Int) (d : Nat) : Int :=
  let q := v / 2 ^ d
  let r := (v % 2 ^ d).toNat
  let up : Bool := match vxrm with
    | 0 => d ≠ 0 && 2 ^ d ≤ 2 * r
    | 1 => d ≠ 0 && (2 ^ d < 2 * r || (2 ^ d = 2 * r && q % 2 = 1))
    | 2 => false
    | _ => r ≠ 0 && q % 2 = 0
  if up then q + 1 else q

/-- A number saturated to w bits, signed or unsigned, and whether it was. -/
def clip (w : Nat) (signed : Bool) (v : Int) : Nat × Nat :=
  let lo : Int := if signed then -(2 ^ (w - 1)) else 0
  let hi : Int := if signed then 2 ^ (w - 1) - 1 else 2 ^ w - 1
  if v < lo then (intCode w lo, 1) else if hi < v then (intCode w hi, 1) else (intCode w v, 0)

/-- A w-bit number read signed or unsigned. -/
def asInt (signed : Bool) (w a : Nat) : Int := if signed then intOf w a else ((a % 2 ^ w : Nat) : Int)

/-- Quotient and remainder of the M extension's rules: a division by 0 gives all ones and the dividend, the signed
overflow the dividend and 0. -/
def vdivide (signed rem : Bool) (w a b : Nat) : Nat :=
  let x := asInt signed w a
  let y := asInt signed w b
  if y = 0 then (if rem then intCode w x else 2 ^ w - 1)
  else intCode w (if rem then x.tmod y else x.tdiv y)

/-- OPIVV, OPIVX, OPIVI of single width: a from vs2, b the other source. -/
def vopI (f6 w vxrm a b : Nat) : Option (Nat × Nat) :=
  let sa := intOf w a
  let sb := intOf w b
  let sh := b % w
  match f6 with
  | 0x00 => some (intCode w (a + b), 0)
  | 0x02 => some (intCode w (a - b : Int), 0)
  | 0x03 => some (intCode w (b - a : Int), 0)
  | 0x04 => some (min a b, 0)
  | 0x05 => some (if sb < sa then b else a, 0)
  | 0x06 => some (max a b, 0)
  | 0x07 => some (if sa < sb then b else a, 0)
  | 0x09 => some (a &&& b, 0)
  | 0x0A => some (a ||| b, 0)
  | 0x0B => some (a ^^^ b, 0)
  | 0x20 => some (clip w false (a + b : Int))
  | 0x21 => some (clip w true (sa + sb))
  | 0x22 => some (clip w false (a - b : Int))
  | 0x23 => some (clip w true (sa - sb))
  | 0x25 => some (a <<< sh % 2 ^ w, 0)
  | 0x27 => some (clip w true (roundOff vxrm (sa * sb) (w - 1)))
  | 0x28 => some (a >>> sh, 0)
  | 0x29 => some (intCode w (sa / 2 ^ sh), 0)
  | 0x2A => some (intCode w (roundOff vxrm a sh), 0)
  | 0x2B => some (intCode w (roundOff vxrm sa sh), 0)
  | _ => none

/-- The source forms that an OPI operation has: vector, scalar, immediate. -/
def opiForms (f6 : Nat) : Bool × Bool × Bool :=
  if [0x02, 0x04, 0x05, 0x06, 0x07, 0x12, 0x13, 0x1A, 0x1B, 0x22, 0x23, 0x27].contains f6 then (true, true, false)
  else if [0x03, 0x0F, 0x1E, 0x1F].contains f6 then (false, true, true)
  else if [0x30, 0x31].contains f6 then (true, false, false)
  else (true, true, true)

/-- Whether the immediate of an OPIVI operation is unsigned: shifts, slides, gathers, narrowing clips. -/
def opiUnsigned (f6 : Nat) : Bool :=
  [0x0C, 0x0E, 0x0F, 0x25, 0x27, 0x28, 0x29, 0x2A, 0x2B, 0x2C, 0x2D, 0x2E, 0x2F].contains f6

/-- Integer comparisons: equal, not equal, below, at most, above. -/
def vcmpI (f6 w a b : Nat) : Option Bool :=
  let sa := intOf w a
  let sb := intOf w b
  match f6 with
  | 0x18 => some (a = b)
  | 0x19 => some (a ≠ b)
  | 0x1A => some (a < b)
  | 0x1B => some (sa < sb)
  | 0x1C => some (a ≤ b)
  | 0x1D => some (sa ≤ sb)
  | 0x1E => some (b < a)
  | 0x1F => some (sb < sa)
  | _ => none

/-- Narrowing shifts and clips: a has twice the width. -/
def vnarrowI (f6 w vxrm a b : Nat) : Option (Nat × Nat) :=
  let sh := b % (2 * w)
  match f6 with
  | 0x2C => some ((a >>> sh) % 2 ^ w, 0)
  | 0x2D => some (intCode w (intOf (2 * w) a / 2 ^ sh), 0)
  | 0x2E => some (clip w false (roundOff vxrm a sh))
  | 0x2F => some (clip w true (roundOff vxrm (intOf (2 * w) a) sh))
  | _ => none

/-- OPMVV and OPMVX of single width; d is the old element of vd. -/
def vopM (f6 w vxrm a b d : Nat) : Option (Nat × Nat) :=
  let sa := intOf w a
  let sb := intOf w b
  match f6 with
  | 0x08 => some (intCode w (roundOff vxrm (a + b : Int) 1), 0)
  | 0x09 => some (intCode w (roundOff vxrm (sa + sb) 1), 0)
  | 0x0A => some (intCode w (roundOff vxrm (a - b : Int) 1), 0)
  | 0x0B => some (intCode w (roundOff vxrm (sa - sb) 1), 0)
  | 0x20 => some (vdivide false false w a b, 0)
  | 0x21 => some (vdivide true false w a b, 0)
  | 0x22 => some (vdivide false true w a b, 0)
  | 0x23 => some (vdivide true true w a b, 0)
  | 0x24 => some (a * b / 2 ^ w, 0)
  | 0x25 => some (a * b % 2 ^ w, 0)
  | 0x26 => some (intCode w (sa * b / 2 ^ w), 0)
  | 0x27 => some (intCode w (sa * sb / 2 ^ w), 0)
  | 0x29 => some (intCode w (b * d + a : Int), 0)
  | 0x2B => some (intCode w (a - b * d : Int), 0)
  | 0x2D => some (intCode w (a * b + d : Int), 0)
  | 0x2F => some (intCode w (d - a * b : Int), 0)
  | _ => none

/-- Widening operations on sources of w bits into 2w; a is from vs2, already as wide as vd in the `.w` forms. -/
def vwideM (f6 w a b d : Nat) : Option Nat :=
  let w2 := 2 * w
  let sa := intOf w a
  let sb := intOf w b
  match f6 with
  | 0x30 => some (intCode w2 (a + b : Int))
  | 0x31 => some (intCode w2 (sa + sb))
  | 0x32 => some (intCode w2 (a - b : Int))
  | 0x33 => some (intCode w2 (sa - sb))
  | 0x34 => some (intCode w2 (a + b : Int))
  | 0x35 => some (intCode w2 (intOf w2 a + sb))
  | 0x36 => some (intCode w2 (a - b : Int))
  | 0x37 => some (intCode w2 (intOf w2 a - sb))
  | 0x38 => some (a * b)
  | 0x3A => some (intCode w2 (sa * b))
  | 0x3B => some (intCode w2 (sa * sb))
  | 0x3C => some (intCode w2 (a * b + d : Int))
  | 0x3D => some (intCode w2 (sa * sb + d))
  | 0x3E => some (intCode w2 (sa * b + d))
  | 0x3F => some (intCode w2 (a * sb + d))
  | _ => none

/-- One step of an integer reduction on w bits. -/
def vredI (f6 w a b : Nat) : Option Nat :=
  match f6 with
  | 0 => some ((a + b) % 2 ^ w)
  | 1 => some (a &&& b)
  | 2 => some (a ||| b)
  | 3 => some (a ^^^ b)
  | 4 => some (min a b)
  | 5 => some (if intOf w b < intOf w a then b else a)
  | 6 => some (max a b)
  | 7 => some (if intOf w a < intOf w b then b else a)
  | _ => none

/-- The mask operations on a bit a of vs2 and b of vs1. -/
def vlogic (f6 : Nat) (a b : Bool) : Option Bool :=
  match f6 with
  | 0x18 => some (a && !b)
  | 0x19 => some (a && b)
  | 0x1A => some (a || b)
  | 0x1B => some (xor a b)
  | 0x1C => some (a || !b)
  | 0x1D => some !(a && b)
  | 0x1E => some !(a || b)
  | 0x1F => some (a == b)
  | _ => none

/-! ### Floating-point elements -/

/-- The floating-point format of an element width: FP16 by Zvfh, FP32, FP64 (R97). -/
def fpOf : Nat → Option FFmt
  | 16 => some fp16
  | 32 => some fp32
  | 64 => some fp64
  | _ => none

/-- OPFVV and OPFVF of single width; `vv` says that the second source is a vector. -/
def vopF (f6 : Nat) (vv : Bool) (f : FFmt) (rm : RM) (a b d : Nat) : Option (Nat × Nat) :=
  match f6 with
  | 0x00 => some (f.add f rm a b)
  | 0x02 => some (f.sub f rm a b)
  | 0x04 => some (f.minMax false a b)
  | 0x06 => some (f.minMax true a b)
  | 0x08 => some (f.sgnj 0 a b, 0)
  | 0x09 => some (f.sgnj 1 a b, 0)
  | 0x0A => some (f.sgnj 2 a b, 0)
  | 0x20 => some (f.div rm a b)
  | 0x21 => if vv then none else some (f.div rm b a)
  | 0x24 => some (f.mul f rm a b)
  | 0x27 => if vv then none else some (f.sub f rm b a)
  | 0x28 => some (f.fma f rm false false b d a)
  | 0x29 => some (f.fma f rm true true b d a)
  | 0x2A => some (f.fma f rm false true b d a)
  | 0x2B => some (f.fma f rm true false b d a)
  | 0x2C => some (f.fma f rm false false a b d)
  | 0x2D => some (f.fma f rm true true a b d)
  | 0x2E => some (f.fma f rm false true a b d)
  | 0x2F => some (f.fma f rm true false a b d)
  | _ => none

/-- Comparisons into a mask. -/
def vcmpF (f6 : Nat) (vv : Bool) (f : FFmt) (a b : Nat) : Option (Bool × Nat) :=
  match f6 with
  | 0x18 => some (f.eq a b)
  | 0x19 => some (f.le a b)
  | 0x1B => some (f.lt a b)
  | 0x1C => some (!(f.eq a b).1, (f.eq a b).2)
  | 0x1D => if vv then none else some (f.lt b a)
  | 0x1F => if vv then none else some (f.le b a)
  | _ => none

/-- Widening operations: f the format of the sources, g that of the result and, in the `.w` forms, of vs2. BF16 sources
take part in `vfwmaccbf16` only (R97). -/
def vwideF (f6 : Nat) (f g : FFmt) (rm : RM) (a b d : Nat) : Option (Nat × Nat) :=
  match f6 with
  | 0x30 => some (f.add g rm a b)
  | 0x32 => some (f.sub g rm a b)
  | 0x34 => some (let (x, _) := f.cvt g rm b; let (y, fl) := g.add g rm a x; (y, fl ||| f.nvOf [b]))
  | 0x36 => some (let (x, _) := f.cvt g rm b; let (y, fl) := g.sub g rm a x; (y, fl ||| f.nvOf [b]))
  | 0x38 => some (f.mul g rm a b)
  | 0x3B => if f = fp16 then some (bf16.fma g rm false false a b d) else none
  | 0x3C => some (f.fma g rm false false a b d)
  | 0x3D => some (f.fma g rm true true a b d)
  | 0x3E => some (f.fma g rm false true a b d)
  | 0x3F => some (f.fma g rm true false a b d)
  | _ => none

/-- `vfsqrt`, `vfrsqrt7`, `vfrec7`, `vfclass`. -/
def vunaryF (k : Nat) (f : FFmt) (rm : RM) (a : Nat) : Option (Nat × Nat) :=
  match k with
  | 0x00 => some (f.sqrt rm a)
  | 0x04 => some (f.rsqrt7 a)
  | 0x05 => some (f.rec7 rm a)
  | 0x10 => some (f.classify a, 0)
  | _ => none

/-- The conversions of VFUNARY0 on an element of the source, w the SEW: single width 0x0–0x7, widening 0x8–0xF,
narrowing 0x10–0x1F. -/
def vcvt (k w : Nat) (rm : RM) (a : Nat) : Option (Nat × Nat) :=
  match k with
  | 0x00 => (fpOf w).map (fun f => f.toInt rm w false a)
  | 0x01 => (fpOf w).map (fun f => f.toInt rm w true a)
  | 0x02 => (fpOf w).map (fun f => f.ofInt rm w false a)
  | 0x03 => (fpOf w).map (fun f => f.ofInt rm w true a)
  | 0x06 => (fpOf w).map (fun f => f.toInt .rtz w false a)
  | 0x07 => (fpOf w).map (fun f => f.toInt .rtz w true a)
  | 0x08 => (fpOf w).map (fun f => f.toInt rm (2 * w) false a)
  | 0x09 => (fpOf w).map (fun f => f.toInt rm (2 * w) true a)
  | 0x0A => (fpOf (2 * w)).map (fun g => g.ofInt rm w false a)
  | 0x0B => (fpOf (2 * w)).map (fun g => g.ofInt rm w true a)
  | 0x0C => (fpOf w).bind (fun f => (fpOf (2 * w)).map (fun g => f.cvt g rm a))
  | 0x0D => if w = 16 then some (bf16.cvt fp32 rm a) else none
  | 0x0E => (fpOf w).map (fun f => f.toInt .rtz (2 * w) false a)
  | 0x0F => (fpOf w).map (fun f => f.toInt .rtz (2 * w) true a)
  | 0x10 => (fpOf (2 * w)).map (fun f => f.toInt rm w false a)
  | 0x11 => (fpOf (2 * w)).map (fun f => f.toInt rm w true a)
  | 0x12 => (fpOf w).map (fun g => g.ofInt rm (2 * w) false a)
  | 0x13 => (fpOf w).map (fun g => g.ofInt rm (2 * w) true a)
  | 0x14 => (fpOf w).bind (fun g => (fpOf (2 * w)).map (fun f => f.cvt g rm a))
  | 0x15 => (fpOf w).bind (fun g => (fpOf (2 * w)).map (fun f => f.cvtOdd g a))
  | 0x16 => (fpOf (2 * w)).map (fun f => f.toInt .rtz w false a)
  | 0x17 => (fpOf (2 * w)).map (fun f => f.toInt .rtz w true a)
  | 0x1D => if w = 16 then some (fp32.cvt bf16 rm a) else none
  | _ => none

end Sys2Proof.Machine
end

