-- ==== Sys2Proof/Machine/Vector.lean ====
section
/-! DEFINITION. The standard vector instructions (R37, R97, R100, R101, R122): every word of opcode 0x57 is read into the
register groups it takes and what it does to the thread; a word that V 1.0, Zvfh, Zvfbfmin and Zvfbfwma do not define, or
reserve, raises an illegal-instruction exception (R97; the encodings are the extension's, PRESUMED, log 7). -/

namespace Sys2Proof.Machine

/-! ### Configuration -/

/-- Elements of a group of 8 × LMUL = l8 at SEW 8 × 2^sew; R100 puts the least VLMAX at 8 (log 7). -/
def vlmaxOf (sew l8 : Nat) : Nat := max 8 (256 / 2 ^ sew * l8 / 8)

/-- VLMAX now. -/
def Thread.vlmax (t : Thread) : Nat := vlmaxOf t.vsew (lmul8 t.vlmul)

/-- The length given for an AVL: AVL itself, VLMAX, or between them a value from half of AVL, rounded up, to VLMAX. -/
def vlFor (avl vlmax : Nat) : Nat :=
  if avl ≤ vlmax then avl
  else if 2 * vlmax ≤ avl then vlmax
  else (avl + 1) / 2 + Config.vlChoice avl vlmax % (vlmax - (avl + 1) / 2 + 1)

/-- The outcome of `vset{i}vl{i}`: `vtype` as asked for, every SEW of 8 to 64 with every LMUL of 1/8 to 8 (R100), else
vill; `avl` none keeps `vl`, which a change of VLMAX does not allow. -/
def Thread.setvl (t : Thread) (rd : RegNo) (avl : Option Nat) (vtype : Nat) : Thread :=
  let sew := bits vtype 5 3
  let l8 := lmul8 (bits vtype 2 0)
  let n := vlmaxOf sew l8
  let ok := vtype < 256 && sew ≤ 3 && l8 ≠ 0 && (avl.isSome || (!t.vill && t.vlmax = n))
  let vl := if ok then (match avl with | some a => vlFor a n | none => t.vlen) else 0
  ((((t.setCsr Csr.vtype (if ok then BitVec.ofNat 64 vtype else 0x8000000000000000)).setCsr Csr.vl (BitVec.ofNat 64 vl)).setCsr
    Csr.vstart 0).setX rd (BitVec.ofNat 64 vl)).dirtyV

/-- The three forms of the instruction. -/
def Thread.setvlWord (t : Thread) (w : BitVec 32) : Option Thread :=
  let n := w.toNat
  let r := rword w
  let rd := regNo r.rd
  let avl := if r.rs1 ≠ 0 then some (t.xr (regNo r.rs1)).toNat else if r.rd ≠ 0 then some (2 ^ 64 - 1) else none
  if !bit n 31 then some (t.setvl rd avl (bits n 30 20))
  else if bit n 30 then some (t.setvl rd (some r.rs1) (bits n 29 20))
  else if r.f7 = 0x40 then some (t.setvl rd avl (t.xr (regNo r.rs2)).toNat)
  else none

/-! ### Register groups -/

/-- Which overlap of destination and sources is allowed: as `VGrp.over` says, none, any. -/
inductive VOverlap where
  | widths | none | any
  deriving DecidableEq, Repr

/-- What a vector instruction takes and does. -/
structure VPlan where
  dst : List VGrp := []                -- written
  src : List VGrp := []                -- read, the mask v0 apart
  overlap : VOverlap := .widths
  start0 : Bool := false               -- vstart must be 0
  maskable : Bool := true              -- the masked form exists
  run : Thread → Thread                -- its effect

/-- Whether the groups, the mask and `vstart` are as the extension demands; a source register read with two element
widths, the mask's among them, is reserved. -/
def VPlan.legal (p : VPlan) (t : Thread) (vm : Bool) : Bool :=
  let src := if vm then p.src else VGrp.mask 0 :: p.src
  (p.dst ++ p.src).all VGrp.ok && (p.maskable || vm) && (!p.start0 || t.vstart = 0)
    && p.dst.all (fun d =>
        (match p.overlap with
          | .widths => p.src.all d.over && (vm || d.eew = 1 || !d.meets (.mask 0))
          | .none => src.all (fun s => !d.meets s)
          | .any => true))
    && src.all (fun a => src.all (fun b => a.eew = b.eew || !a.meets b))

/-! ### Elements -/

/-- Body elements from `vstart` on that the mask leaves active. -/
def Thread.vbody (t : Thread) (vm : Bool) : List Nat :=
  (List.range t.vlen).filter (fun i => t.vstart ≤ i && (vm || t.vmask i))

/-- Flags accrued: `fcsr.fflags` (R83), or `vxsat`. -/
def Thread.vaccrue (t : Thread) (fp : Bool) (fl : Nat) : Thread :=
  if fl = 0 then t
  else if fp then (t.setCsr Csr.fcsr (t.csrRaw Csr.fcsr ||| BitVec.ofNat 64 (fl % 32))).dirtyF
  else t.setCsr Csr.vxsat (t.csrRaw Csr.vxsat ||| BitVec.ofNat 64 (fl % 2))

/-- The elements `is` of n bytes of v[vd] replaced; every other one is undisturbed (R100). -/
def Thread.vput (t : Thread) (fp : Bool) (vd n : Nat) (is : List Nat) (f : Nat → Nat × Nat) : Thread :=
  let r := is.map (fun i => (i, f i))
  (r.foldl (fun acc p => acc.setVelem vd n p.1 p.2.1) t).vaccrue fp (r.foldl (fun a p => a ||| p.2.2) 0)

/-- The mask bits `is` of v[vd] replaced. -/
def Thread.vputMask (t : Thread) (vd : Nat) (is : List Nat) (f : Nat → Bool × Nat) : Thread :=
  let r := is.map (fun i => (i, f i))
  let m := r.foldl (fun m p => m - b2n (m.testBit p.1) * 2 ^ p.1 + b2n p.2.1 * 2 ^ p.1) (t.vr vd).toNat
  (t.setV vd (BitVec.ofNat 2048 m)).vaccrue true (r.foldl (fun a p => a ||| p.2.2) 0)

/-- f[n] as an operand of w bits: a narrower value must be NaN-boxed, else it reads as the canonical NaN. -/
def Thread.unbox (t : Thread) (n w : Nat) : Nat :=
  let v := (t.fr (regNo n)).toNat
  if w = 64 then v
  else if v >>> w = 2 ^ (64 - w) - 1 then v % 2 ^ w
  else match fpOf w with | some f => f.cnan | none => 0

/-- Element i of w bits of the second source: a vector's, the immediate, x[rs1] or f[rs1]. -/
def Thread.vs1 (t : Thread) (v : VWord) (w i : Nat) : Nat :=
  match v.f3 with
  | 3 => if opiUnsigned v.f6 then v.s1 else intCode w (intOf 5 v.s1)
  | 4 | 6 => (t.xr (regNo v.s1)).toNat % 2 ^ w
  | 5 => t.unbox v.s1 w
  | _ => t.velem v.s1 (w / 8) i

/-- An offset or index: the immediate or the whole of x[rs1]. -/
def Thread.voffset (t : Thread) (v : VWord) : Nat := if v.f3 = 3 then v.s1 else (t.xr (regNo v.s1)).toNat

/-- What an instruction needs besides its word: SEW in bits, 8 × LMUL. -/
def Thread.vw (t : Thread) : Nat := 8 * 2 ^ t.vsew
def Thread.vl8 (t : Thread) : Nat := lmul8 t.vlmul

/-- The groups of SEW and LMUL, and of twice both. -/
def Thread.grp (t : Thread) (r : Nat) : VGrp := ⟨r, t.vl8, t.vw⟩
def Thread.grp2 (t : Thread) (r : Nat) : VGrp := ⟨r, 2 * t.vl8, 2 * t.vw⟩
/-- The second source's group where it is a vector. -/
def Thread.src1 (t : Thread) (v : VWord) : List VGrp := if v.f3 ≤ 2 then [t.grp v.s1] else []

/-- A slide up by `off`: element i takes element i − off, the elements below stay. -/
def Thread.slideUp (t : Thread) (v : VWord) (off : Nat) (low : Nat → Nat) (start : Nat) : VPlan :=
  let n := t.vw / 8
  { dst := [t.grp v.vd], src := [t.grp v.vs2], overlap := .none
    run := fun t => t.vput false v.vd n ((t.vbody v.vm).filter (fun i => start ≤ i))
      (fun i => (if off ≤ i then t.velem v.vs2 n (i - off) else low i, 0)) }

/-- A slide down by `off`: element i takes element i + off, or what `high` says. -/
def Thread.slideDown (t : Thread) (v : VWord) (off : Nat) (high : Nat → Option Nat) : VPlan :=
  let n := t.vw / 8
  { dst := [t.grp v.vd], src := [t.grp v.vs2]
    run := fun t => t.vput false v.vd n (t.vbody v.vm) (fun i => (match high i with
      | some x => x
      | none => if i + off < t.vlmax then t.velem v.vs2 n (i + off) else 0, 0)) }

/-- A gather: element i takes the element of vs2 that `idx` names, 0 past VLMAX. -/
def Thread.gather (t : Thread) (v : VWord) (src : List VGrp) (idx : Nat → Nat) : VPlan :=
  let n := t.vw / 8
  { dst := [t.grp v.vd], src := t.grp v.vs2 :: src, overlap := .none
    run := fun t => t.vput false v.vd n (t.vbody v.vm)
      (fun i => (if idx i < t.vlmax then t.velem v.vs2 n (idx i) else 0, 0)) }

/-- A reduction: the scalar in element 0 of vs1 combined with the active elements of vs2 into element 0 of vd; w is the
scalar's width. -/
def Thread.reduce (t : Thread) (v : VWord) (fp : Bool) (w : Nat) (f : Nat → List Nat → Nat × Nat) : VPlan :=
  { dst := [.one v.vd w], src := [t.grp v.vs2, .one v.s1 w], overlap := .any, start0 := true
    run := fun t => if t.vlen = 0 then t
      else t.vput fp v.vd (w / 8) [0]
        (fun _ => f (t.velem v.s1 (w / 8) 0) ((t.vbody v.vm).map (t.velem v.vs2 (t.vw / 8)))) }

/-! ### The integer instructions -/

/-- OPIVV, OPIVX, OPIVI. -/
def Thread.vplanI (t : Thread) (v : VWord) : Option VPlan :=
  let w := t.vw
  let n := w / 8
  let rm := (t.csrRaw Csr.vxrm).toNat % 4
  let a := t.velem v.vs2 n
  let b := t.vs1 v w
  let forms := opiForms v.f6
  let src := t.grp v.vs2 :: t.src1 v
  let carry := fun i => b2n (!v.vm && t.vmask i)
  if !(match v.f3 with | 0 => forms.1 | 4 => forms.2.1 | _ => forms.2.2 || v.f6 = 0x27) then none
  else match v.f6 with
  | 0x0C => some (if v.f3 = 0 then t.gather v (t.src1 v) b else t.gather v [] (fun _ => t.voffset v))
  | 0x0E =>
    some (if v.f3 = 0 then t.gather v [⟨v.s1, if t.vl8 * 16 % w = 0 then t.vl8 * 16 / w else 0, 16⟩]
            (t.velem v.s1 2)
      else t.slideUp v (t.voffset v) (fun _ => 0) (t.voffset v))
  | 0x0F => some (t.slideDown v (t.voffset v) (fun _ => none))
  | 0x10 | 0x12 =>
    if v.vm then none
    else some { dst := [t.grp v.vd], src := src
                run := fun t => t.vput false v.vd n (t.vbody true) (fun i =>
                  (intCode w (if v.f6 = 0x10 then a i + b i + carry i else (a i : Int) - b i - carry i), 0)) }
  | 0x11 | 0x13 =>
    some { dst := [.mask v.vd], src := src
           run := fun t => t.vputMask v.vd (t.vbody true) (fun i =>
             (if v.f6 = 0x11 then decide (2 ^ w ≤ a i + b i + carry i) else decide (a i < b i + carry i), 0)) }
  | 0x17 =>
    if v.vm && v.vs2 ≠ 0 then none
    else some { dst := [t.grp v.vd], src := if v.vm then t.src1 v else src
                run := fun t => t.vput false v.vd n (t.vbody true)
                  (fun i => (if v.vm || t.vmask i then b i else a i, 0)) }
  | 0x27 =>
    if v.f3 = 3 then
      -- vmv1r.v, vmv2r.v, vmv4r.v, vmv8r.v
      if [0, 1, 3, 7].contains v.s1 then
        some { dst := [⟨v.vd, 8 * (v.s1 + 1), w⟩], src := [⟨v.vs2, 8 * (v.s1 + 1), w⟩], maskable := false
               run := fun t => t.vput false v.vd n
                 ((List.range ((v.s1 + 1) * 256 / n)).filter (fun i => t.vstart ≤ i)) (fun i => (a i, 0)) }
      else none
    else some { dst := [t.grp v.vd], src := src
                run := fun t => t.vput false v.vd n (t.vbody v.vm)
                  (fun i => (vopI v.f6 w rm (a i) (b i)).getD (0, 0)) }
  | 0x30 | 0x31 =>
    some (t.reduce v false (2 * w) (fun s xs =>
      (xs.foldl (fun acc x => intCode (2 * w) ((acc : Int) + asInt (v.f6 = 0x31) w x)) s, 0)))
  | _ =>
    if (vopI v.f6 w rm 0 0).isSome then
      some { dst := [t.grp v.vd], src := src
             run := fun t => t.vput false v.vd n (t.vbody v.vm) (fun i => (vopI v.f6 w rm (a i) (b i)).getD (0, 0)) }
    else if (vcmpI v.f6 w 0 0).isSome then
      some { dst := [.mask v.vd], src := src
             run := fun t => t.vputMask v.vd (t.vbody v.vm) (fun i => ((vcmpI v.f6 w (a i) (b i)).getD false, 0)) }
    else if (vnarrowI v.f6 w rm 0 0).isSome then
      some { dst := [t.grp v.vd], src := t.grp2 v.vs2 :: t.src1 v
             run := fun t => t.vput false v.vd n (t.vbody v.vm)
               (fun i => (vnarrowI v.f6 w rm (t.velem v.vs2 (2 * n) i) (b i)).getD (0, 0)) }
    else none

/-- The first active element of a mask that is set. -/
def Thread.vfirst (t : Thread) (v : VWord) : Option Nat := (t.vbody v.vm).find? (fun i => (t.vr v.vs2).getLsbD i)

/-- VWXUNARY0 and VRXUNARY0: `vmv.x.s`, `vcpop.m`, `vfirst.m`, `vmv.s.x`. -/
def Thread.vplanXunary (t : Thread) (v : VWord) : Option VPlan :=
  let w := t.vw
  let rd := regNo v.vd
  if v.f3 = 6 then
    if v.vs2 ≠ 0 then none
    else some { dst := [.one v.vd w], maskable := false
                run := fun t => if t.vlen ≤ t.vstart then t else t.vput false v.vd (w / 8) [0] (fun i => (t.vs1 v w i, 0)) }
  else match v.s1 with
  | 0x00 => some { src := [.one v.vs2 w], maskable := false
                   run := fun t => t.setX rd (BitVec.ofInt 64 (intOf w (t.velem v.vs2 (w / 8) 0))) }
  | 0x10 => some { src := [.mask v.vs2], start0 := true
                   run := fun t => t.setX rd (BitVec.ofNat 64 ((t.vbody v.vm).countP (fun i => (t.vr v.vs2).getLsbD i))) }
  | 0x11 => some { src := [.mask v.vs2], start0 := true
                   run := fun t => t.setX rd (match t.vfirst v with | some i => BitVec.ofNat 64 i | none => -1) }
  | _ => none

/-- VXUNARY0: `vzext` and `vsext` of an eighth, a quarter, a half of SEW. -/
def Thread.vplanExt (t : Thread) (v : VWord) : Option VPlan :=
  let k := match v.s1 with | 2 | 3 => 8 | 4 | 5 => 4 | 6 | 7 => 2 | _ => 0
  let w := t.vw / k
  if v.f3 ≠ 2 || k = 0 || w < 8 then none
  else some { dst := [t.grp v.vd], src := [⟨v.vs2, t.vl8 / k, w⟩]
              run := fun t => t.vput false v.vd (t.vw / 8) (t.vbody v.vm)
                (fun i => (intCode t.vw (asInt (v.s1 % 2 = 1) w (t.velem v.vs2 (w / 8) i)), 0)) }

/-- VMUNARY0: `vmsbf`, `vmsof`, `vmsif`, `viota`, `vid`. -/
def Thread.vplanMunary (t : Thread) (v : VWord) : Option VPlan :=
  let set := fun (t : Thread) i => (t.vr v.vs2).getLsbD i
  let first := fun (f : Option Nat → Nat → Bool) =>
    some ({ dst := [.mask v.vd], src := [.mask v.vs2], overlap := .none, start0 := true
            run := fun t => t.vputMask v.vd (t.vbody v.vm) (fun i => (f (t.vfirst v) i, 0)) } : VPlan)
  if v.f3 ≠ 2 then none
  else match v.s1 with
  | 0x01 => first (fun k i => match k with | some j => decide (i < j) | none => true)
  | 0x02 => first (fun k i => k = some i)
  | 0x03 => first (fun k i => match k with | some j => decide (i ≤ j) | none => true)
  | 0x10 => some { dst := [t.grp v.vd], src := [.mask v.vs2], overlap := .none, start0 := true
                   run := fun t => t.vput false v.vd (t.vw / 8) (t.vbody v.vm)
                     (fun i => ((t.vbody v.vm).countP (fun j => j < i && set t j), 0)) }
  | 0x11 => if v.vs2 ≠ 0 then none
    else some { dst := [t.grp v.vd], overlap := .none
                run := fun t => t.vput false v.vd (t.vw / 8) (t.vbody v.vm) (fun i => (i, 0)) }
  | _ => none

/-- `vcompress.vm`: the elements whose bit of vs1 is set, packed from element 0. -/
def Thread.vcompress (t : Thread) (v : VWord) : VPlan :=
  let n := t.vw / 8
  { dst := [t.grp v.vd], src := [t.grp v.vs2, .mask v.s1], overlap := .none, start0 := true, maskable := false
    run := fun t =>
      let is := (List.range t.vlen).filter (fun i => (t.vr v.s1).getLsbD i)
      t.vput false v.vd n (List.range is.length) (fun j => (t.velem v.vs2 n (is.getD j 0), 0)) }

/-- OPMVV, OPMVX. -/
def Thread.vplanM (t : Thread) (v : VWord) : Option VPlan :=
  let w := t.vw
  let n := w / 8
  let vv := v.f3 = 2
  let rm := (t.csrRaw Csr.vxrm).toNat % 4
  let b := t.vs1 v w
  let acc := [0x29, 0x2B, 0x2D, 0x2F, 0x3C, 0x3D, 0x3E, 0x3F].contains v.f6
  match v.f6 with
  | 0x0E => if vv then none else some (t.slideUp v 1 b 0)
  | 0x0F => if vv then none else some (t.slideDown v 1 (fun i => if i + 1 = t.vlen then some (b i) else none))
  | 0x10 => t.vplanXunary v
  | 0x12 => t.vplanExt v
  | 0x14 => t.vplanMunary v
  | 0x17 => if vv then some (t.vcompress v) else none
  | f6 =>
    if (vredI f6 w 0 0).isSome then
      if vv then some (t.reduce v false w (fun s xs => (xs.foldl (fun acc x => (vredI f6 w acc x).getD 0) s, 0))) else none
    else if (vlogic f6 false false).isSome then
      if vv then
        some { dst := [.mask v.vd], src := [.mask v.vs2, .mask v.s1], maskable := false
               run := fun t => t.vputMask v.vd (t.vbody true)
                 (fun i => ((vlogic f6 ((t.vr v.vs2).getLsbD i) ((t.vr v.s1).getLsbD i)).getD false, 0)) }
      else none
    else if (vopM f6 w rm 0 0 0).isSome then
      some { dst := [t.grp v.vd], src := t.grp v.vs2 :: t.src1 v ++ (if acc then [t.grp v.vd] else [])
             run := fun t => t.vput false v.vd n (t.vbody v.vm)
               (fun i => (vopM f6 w rm (t.velem v.vs2 n i) (b i) (t.velem v.vd n i)).getD (0, 0)) }
    else if (vwideM f6 w 0 0 0).isSome && !(f6 = 0x3E && vv) then
      let wide := 0x34 ≤ f6 && f6 ≤ 0x37
      some { dst := [t.grp2 v.vd]
             src := (if wide then t.grp2 v.vs2 else t.grp v.vs2) :: t.src1 v ++ (if acc then [t.grp2 v.vd] else [])
             run := fun t => t.vput false v.vd (2 * n) (t.vbody v.vm)
               (fun i => ((vwideM f6 w (t.velem v.vs2 (if wide then 2 * n else n) i) (b i) (t.velem v.vd (2 * n) i)).getD 0, 0)) }
    else none

/-! ### The floating-point instructions -/

/-- An unordered sum of the scalar and the active elements: the tree is not fixed, but a function of `vtype`, `vl` and the
operands (R96); a NaN operand gives the canonical NaN (R69), no active element the scalar. -/
def Thread.fsumAny (t : Thread) (v : VWord) (f g : FFmt) (s : Nat) : Nat × Nat :=
  let els := (List.range t.vlen).map (fun i =>
    if v.vm || t.vmask i then some (t.velem v.vs2 (t.vw / 8) i) else none)
  let frm := bits (t.csrRaw Csr.fcsr).toNat 7 5
  let (c, fl) := Config.fsumTree (t.csrRaw Csr.vtype).toNat frm g.width s els
  let nan := (g.decode s).isNan || els.any (fun o => match o with | some x => (f.decode x).isNan | none => false)
  if nan then (g.cnan, fl % 32)
  else if els.all Option.isNone then (s, 0)
  else (c % 2 ^ g.width, fl % 32)

/-- A reduction step with its flags. -/
def fredStep (op : Nat → Nat → Nat × Nat) (acc : Nat × Nat) (x : Nat) : Nat × Nat :=
  let (c, fl) := op acc.1 x
  (c, acc.2 ||| fl)

/-- The reductions: unordered and ordered sums of one width and of twice the width, minimum, maximum. -/
def Thread.vplanFred (t : Thread) (v : VWord) (rm : RM) : Option VPlan :=
  let w := t.vw
  if v.f3 ≠ 1 then none
  else match fpOf w, v.f6 with
  | some f, 0x01 => some (t.reduce v true w (fun s _ => t.fsumAny v f f s))
  | some f, 0x03 => some (t.reduce v true w (fun s xs => xs.foldl (fredStep (f.add f rm)) (s, 0)))
  | some f, 0x05 => some (t.reduce v true w (fun s xs => xs.foldl (fredStep (f.minMax false)) (s, 0)))
  | some f, 0x07 => some (t.reduce v true w (fun s xs => xs.foldl (fredStep (f.minMax true)) (s, 0)))
  | some f, 0x31 => (fpOf (2 * w)).map (fun g => t.reduce v true (2 * w) (fun s _ => t.fsumAny v f g s))
  | some f, 0x33 => (fpOf (2 * w)).map (fun g => t.reduce v true (2 * w) (fun s xs =>
      xs.foldl (fredStep (fun a x =>
        let (y, _) := f.cvt g rm x
        let (c, fl) := g.add g rm a y
        (c, fl ||| f.nvOf [x]))) (s, 0)))
  | _, _ => none

/-- VFUNARY0: the conversions of one width, widening and narrowing. -/
def Thread.vplanCvt (t : Thread) (v : VWord) (rm : RM) : Option VPlan :=
  let n := t.vw / 8
  let sn := if v.s1 < 0x10 then n else 2 * n
  let dn := if 0x08 ≤ v.s1 && v.s1 < 0x10 then 2 * n else n
  if v.f3 ≠ 1 || (vcvt v.s1 t.vw rm 0).isNone then none
  else some { dst := [if dn = n then t.grp v.vd else t.grp2 v.vd], src := [if sn = n then t.grp v.vs2 else t.grp2 v.vs2]
              run := fun t => t.vput true v.vd dn (t.vbody v.vm)
                (fun i => (vcvt v.s1 t.vw rm (t.velem v.vs2 sn i)).getD (0, 0)) }

/-- OPFVV, OPFVF. -/
def Thread.vplanF (t : Thread) (v : VWord) (rm : RM) : Option VPlan :=
  let w := t.vw
  let n := w / 8
  let vv := v.f3 = 1
  let a := t.velem v.vs2 n
  let b := t.vs1 v w
  let src := t.grp v.vs2 :: t.src1 v
  if v.f6 = 0x12 then t.vplanCvt v rm
  else match fpOf w with
  | none => none
  | some f =>
    match v.f6 with
    | 0x01 | 0x03 | 0x05 | 0x07 | 0x31 | 0x33 => t.vplanFred v rm
    | 0x0E => if vv then none else some (t.slideUp v 1 b 0)
    | 0x0F => if vv then none else some (t.slideDown v 1 (fun i => if i + 1 = t.vlen then some (b i) else none))
    | 0x10 =>
      if vv then
        if v.s1 ≠ 0 then none
        else some { src := [.one v.vs2 w], maskable := false
                    run := fun t => (t.setF (regNo v.vd) (BitVec.ofNat 64 (a 0 + (2 ^ 64 - 2 ^ w)))).dirtyF }
      else if v.vs2 ≠ 0 then none
      else some { dst := [.one v.vd w], maskable := false
                  run := fun t => if t.vlen ≤ t.vstart then t else t.vput false v.vd n [0] (fun i => (b i, 0)) }
    | 0x13 =>
      if !vv || (vunaryF v.s1 f rm 0).isNone then none
      else some { dst := [t.grp v.vd], src := [t.grp v.vs2]
                  run := fun t => t.vput true v.vd n (t.vbody v.vm) (fun i => (vunaryF v.s1 f rm (a i)).getD (0, 0)) }
    | 0x17 =>
      if vv || (v.vm && v.vs2 ≠ 0) then none
      else some { dst := [t.grp v.vd], src := if v.vm then [] else [t.grp v.vs2]
                  run := fun t => t.vput false v.vd n (t.vbody true) (fun i => (if v.vm || t.vmask i then b i else a i, 0)) }
    | f6 =>
      if (vopF f6 vv f rm 0 0 0).isSome then
        some { dst := [t.grp v.vd], src := src ++ (if 0x28 ≤ f6 && f6 ≤ 0x2F then [t.grp v.vd] else [])
               run := fun t => t.vput true v.vd n (t.vbody v.vm)
                 (fun i => (vopF f6 vv f rm (a i) (b i) (t.velem v.vd n i)).getD (0, 0)) }
      else if (vcmpF f6 vv f 0 0).isSome then
        some { dst := [.mask v.vd], src := src
               run := fun t => t.vputMask v.vd (t.vbody v.vm) (fun i => (vcmpF f6 vv f (a i) (b i)).getD (false, 0)) }
      else match fpOf (2 * w) with
      | none => none
      | some g =>
        -- the scalar of vfwmaccbf16.vf is a BF16 value
        let b := if f6 = 0x3B && !vv then (fun _ =>
            let x := (t.fr (regNo v.s1)).toNat
            if x >>> 16 = 2 ^ 48 - 1 then x % 2 ^ 16 else bf16.cnan) else b
        let wide := f6 = 0x34 || f6 = 0x36
        if (vwideF f6 f g rm 0 0 0).isSome then
          some { dst := [t.grp2 v.vd]
                 src := (if wide then t.grp2 v.vs2 else t.grp v.vs2) :: t.src1 v ++ (if 0x3B ≤ f6 then [t.grp2 v.vd] else [])
                 run := fun t => t.vput true v.vd (2 * n) (t.vbody v.vm) (fun i =>
                   (vwideF f6 f g rm (t.velem v.vs2 (if wide then 2 * n else n) i) (b i) (t.velem v.vd (2 * n) i)).getD (0, 0)) }
        else none

/-! ### One instruction -/

/-- The plan of a word under the current `vtype`; a floating-point one needs the unit on and a rounding mode. -/
def Thread.vplan (t : Thread) (v : VWord) : Option VPlan :=
  match v.f3 with
  | 0 | 3 | 4 => t.vplanI v
  | 2 | 6 => t.vplanM v
  | 1 | 5 => if t.csrBits Csr.mstatus 14 13 = 0 then none
    else (rmOf (bits (t.csrRaw Csr.fcsr).toNat 7 5)).bind (t.vplanF v)
  | _ => none

/-- A vector instruction's effect on its thread; none where it raises an illegal-instruction exception. -/
def Thread.vinstr (t : Thread) (w : BitVec 32) : Option Thread :=
  let v := vword w
  if (rword w).op ≠ 0x57 || t.csrBits Csr.mstatus 10 9 = 0 then none
  else if v.f3 = 7 then t.setvlWord w
  else if t.vill then none
  else (t.vplan v).bind (fun p => if p.legal t v.vm then some ((p.run t).setCsr Csr.vstart 0).dirtyV else none)

/-- Vector registers an instruction reads and writes (R122). -/
def Thread.vinstrRegs (t : Thread) (w : BitVec 32) : List Nat × List Nat :=
  let v := vword w
  match t.vplan v with
  | some p => ((p.src.flatMap VGrp.regs) ++ (if v.vm then [] else [0]), p.dst.flatMap VGrp.regs)
  | none => ([], [])

/-- A vector instruction issued: it waits for the press to release its registers (R122), then takes effect or traps. -/
def State.vecExec (s : State) (h : Hart) (w : BitVec 32) : State :=
  let t := s.thrOf h
  let (rs, ws) := t.vinstrRegs w
  if (s.coreOf (hartCore h)).vregBusy (hartThr h) rs ws then s.modThr h (fun t => {t with wait := .vector w})
  else match t.vinstr w with
    | some t' => s.modThr h (fun _ => {t' with wait := .none}.adv .four)
    | none => (s.modThr h (fun t => {t with wait := .none})).trapIllegal h

/-- VECTOR_INSTR. -/
def execVectorInstr (h : Hart) (w : BitVec 32) (s : State) : Res := s.issue h (fun s => s.vecExec h w)

end Sys2Proof.Machine
end

