-- ==== Sys2Proof/Machine/Convert.lean ====
section
/-! DEFINITION. Conversion instructions (R124–R127) and the issue, start and completion of press and decanter
instructions (R112–R122, R145–R153). -/

namespace Sys2Proof.Machine

/-! ### Conversion instructions -/

/-- Fields of a conversion word (R124). -/
structure CWord where
  rm : Nat
  sat : Bool
  op : Nat
  vs2 : Nat
  rs1 : Nat
  fmt : Nat
  vd : Nat
  deriving DecidableEq, Repr

def cword (w : BitVec 32) : CWord :=
  let n := w.toNat
  ⟨bits n 31 29, bit n 28, bits n 27 25, bits n 24 20, bits n 19 15, bits n 14 12, bits n 11 7⟩

/-- The rounding mode of a conversion; none for a reserved one (R124), and none, so illegal, where `rm` takes 5 to 7 from
`fcsr.frm` (DESIGN CHOICE, log 44: R127 and R136 do not name the case). -/
def convRm (frm : Nat) (rm : Nat) : Option RM :=
  rmOf (if rm = 7 then frm else rm)

/-- Formats of R126. -/
def convFmt : Nat → Option OFmt
  | 0 => some ⟨.fp bf16, false⟩
  | 1 => some ⟨.fp fp16, false⟩
  | 2 => some ⟨.fp e4m3, false⟩
  | 3 => some ⟨.fp e5m2, false⟩
  | 4 => some ⟨.int 8, false⟩
  | 5 => some ⟨.int 4, false⟩
  | _ => none
def convMx : Nat → Option OFmt
  | 0 => some ⟨.fp e4m3, true⟩
  | 1 => some ⟨.fp e5m2, true⟩
  | 2 => some ⟨.fp e3m2, true⟩
  | 3 => some ⟨.fp e2m3, true⟩
  | 4 => some ⟨.fp e2m1, true⟩
  | 5 => some ⟨.int 8, true⟩
  | _ => none

/-- A group of g registers as one number, and written back. -/
def Thread.vnum (t : Thread) (r g : Nat) : Nat := packNat 2048 ((List.range g).map (fun i => (t.vr ((r + i) % 32)).toNat))
def Thread.setVnum (t : Thread) (r g v : Nat) : Thread :=
  (List.range g).foldl (fun t i => t.setV ((r + i) % 32) (BitVec.ofNat 2048 (v >>> (2048 * i)))) t
/-- The low n bits of a group replaced; the rest is left undisturbed (R127), the upper half of a last byte that holds one INT4
element too (DESIGN CHOICE, log 44: the rule speaks of bytes). -/
def Thread.putLow (t : Thread) (r g n v : Nat) : Thread :=
  let old := t.vnum r g
  t.setVnum r g (old - old % 2 ^ n + v % 2 ^ n)

/-- What a conversion word does to a thread: none where R127 makes it illegal. `mx` is the licence for MX formats. A field
[19:15] that the operation does not use is ignored (DESIGN CHOICE, log 44: R124 does not say). -/
def Thread.convert (t : Thread) (mx : Bool) (w : BitVec 32) : Option (Thread × PFlags) :=
  let c := cword w
  let g := groupRegs (lmul8 t.vlmul)
  let vl := t.vlen
  let isMx := 3 ≤ c.op && c.op ≤ 5
  let frm := t.csrBits Csr.fcsr 7 5
  match convRm frm c.rm, (if isMx then convMx c.fmt else convFmt c.fmt) with
  | some rm, some f =>
    let wide := c.op = 0 && (c.fmt = 0 || c.fmt = 1)
    let over1 := (c.op = 4 || c.op = 5) && c.vd ≤ c.rs1 && c.rs1 < c.vd + g
    let ok := (rword w).op = 0x2B && c.op ≤ 5 && !t.vill && t.vsew = 2 && t.vstart = 0 && c.vd % g = 0 && c.vs2 % g = 0
      && ((c.op ≠ 4 && c.op ≠ 5) || c.rs1 % g = 0) && (!isMx || (vl % 32 = 0 && mx)) && (wide || rm = .rne || rm = .rtz)
      && (c.op ≠ 1 || c.fmt = 4 || c.fmt = 5) && c.vd ≠ c.vs2 && !over1 && t.csrBits Csr.mstatus 10 9 ≠ 0
    if !ok then none
    else
      let src := t.vnum c.vs2 g
      let e32 := (List.range vl).map (fun i => fp32.decode (unpackAt 32 src i))
      let done := fun (n v : Nat) (fl : PFlags) => some ((t.putLow c.vd g n v).dirtyV, fl)
      let pack := fun (rs : List (Nat × PFlags)) (wd : Nat) =>
        done (wd * vl) (packNat wd (rs.map (·.1))) (rs.foldl (fun a p => a.or p.2) {})
      match c.op with
      | 0 => pack (e32.map (f.el.narrow rm c.sat)) f.bits
      | 1 =>
        let n := (t.xr (regNo c.rs1)).toNat % 32
        pack ((List.range vl).map (fun i => shiftInt f.bits rm (intOf 32 (unpackAt 32 src i)) n)) f.bits
      | 2 =>
        pack ((List.range vl).map (fun i =>
          let code := unpackAt f.bits src i
          match f.el with
          | .int w => (intCode 32 (intOf w code), ({} : PFlags))
          | .fp _ => f.widen rm c.sat 127 code)) 32
      | 3 =>
        let rs := (List.range (vl / 32)).map (fun j => f.mxScale c.sat ((e32.drop (32 * j)).take 32))
        done (8 * (vl / 32)) (packNat 8 (rs.map (·.1))) (rs.foldl (fun a p => a.or p.2) {})
      | 4 =>
        let scales := (t.vr c.rs1).toNat
        pack ((List.range vl).map (fun i =>
          let sc := unpackAt 8 scales (i / 32)
          if sc = 0xFF then (0, ({} : PFlags)) else f.mxElem rm ((sc : Int) - 127) (fp32.decode (unpackAt 32 src i)))) f.bits
      | _ =>
        let scales := (t.vr c.rs1).toNat
        pack ((List.range vl).map (fun i => f.widen rm c.sat (unpackAt 8 scales (i / 32)) (unpackAt f.bits src i))) 32
  | _, _ => none

/-- Vector registers a conversion reads and writes (R122). -/
def Thread.convRegs (t : Thread) (w : BitVec 32) : List Nat × List Nat :=
  let c := cword w
  let g := groupRegs (lmul8 t.vlmul)
  let grp := fun (r : Nat) => (List.range g).map (fun i => (r + i) % 32)
  (grp c.vs2 ++ (if c.op = 4 || c.op = 5 then [c.rs1] else []), grp c.vd)

/-- A conversion issued: it traps, waits for the press to release its registers, or takes effect and accrues its flags
in `pstat` (R83, R124). -/
def State.convExec (s : State) (h : Hart) (w : BitVec 32) : State :=
  let t := s.thrOf h
  match t.convert (bit s.boot.feat.toNat 2) w with
  | none => s.trapThr h .illegal w.toNat
  | some (t', fl) =>
    let (rs, ws) := t.convRegs w
    let c := s.coreOf (hartCore h)
    if c.vregBusy (hartThr h) rs ws then s.modThr h (fun t => {t with wait := .convert w})
    else s.modCore (hartCore h) (fun c =>
      {c with pstat := c.pstat.or fl}.setThread (hartThr h) ({t' with wait := .none}.adv .four))

/-- `vpack.f` -/
def execVpackF (h : Hart) (w : BitVec 32) (s : State) : Res := s.issue h (fun s => s.convExec h w)
/-- `vpack.x` -/
def execVpackX (h : Hart) (w : BitVec 32) (s : State) : Res := s.issue h (fun s => s.convExec h w)
/-- `vunpack` -/
def execVunpack (h : Hart) (w : BitVec 32) (s : State) : Res := s.issue h (fun s => s.convExec h w)
/-- `vmxscl` -/
def execVmxscl (h : Hart) (w : BitVec 32) (s : State) : Res := s.issue h (fun s => s.convExec h w)
/-- `vmxenc` -/
def execVmxenc (h : Hart) (w : BitVec 32) (s : State) : Res := s.issue h (fun s => s.convExec h w)
/-- `vmxdec` -/
def execVmxdec (h : Hart) (w : BitVec 32) (s : State) : Res := s.issue h (fun s => s.convExec h w)

/-! ### Press and decanter instructions -/

/-- Whether the licence permits an instruction (R475). -/
def pressLicensed (feat : Nat) (k : PKind) (e : PEntry) : Bool :=
  let mxCode := fun (f : Nat) => 6 ≤ f && f ≤ 0xB
  (bit feat 0 || !k.isDec)
  && (bit feat 1 || (match k with | .mac _ => !e.sp | _ => true))
  && (bit feat 2 || (match k with
      | .mac _ | .macv _ => !mxCode e.afmt && !mxCode e.bfmt
      | .stc => !mxCode ((rword e.w).f7 % 16)
      | .dinit | .dkv | .dfin | .dsave | .dload => !(2 ≤ e.kvfmt && e.kvfmt ≤ 5)
      | _ => true))

/-- A word of custom-0 or custom-3 issued (R103, R118, R136). -/
def State.pressExec (s : State) (h : Hart) (w : BitVec 32) : State :=
  s.modCore (hartCore h) (fun c =>
    let t := hartThr h
    match pkind w with
    | none => c.setThread t ((c.thread t).trap .illegal (w.setWidth 64))
    | some .wait => c.pwait t
    | some k =>
      if pressLicensed s.boot.feat.toNat k (capture c t w) then c.issue t k w
      else c.setThread t ((c.thread t).trap .illegal (w.setWidth 64)))

/-- `pmac` -/
def execPmac (h : Hart) (w : BitVec 32) (s : State) : Res := s.issue h (fun s => s.pressExec h w)
/-- `pmacz` -/
def execPmacz (h : Hart) (w : BitVec 32) (s : State) : Res := s.issue h (fun s => s.pressExec h w)
/-- `pmacv` -/
def execPmacv (h : Hart) (w : BitVec 32) (s : State) : Res := s.issue h (fun s => s.pressExec h w)
/-- `pmaczv` -/
def execPmaczv (h : Hart) (w : BitVec 32) (s : State) : Res := s.issue h (fun s => s.pressExec h w)
/-- `pzero` -/
def execPzero (h : Hart) (w : BitVec 32) (s : State) : Res := s.issue h (fun s => s.pressExec h w)
/-- `pld` -/
def execPld (h : Hart) (w : BitVec 32) (s : State) : Res := s.issue h (fun s => s.pressExec h w)
/-- `pst` -/
def execPst (h : Hart) (w : BitVec 32) (s : State) : Res := s.issue h (fun s => s.pressExec h w)
/-- `prdv` -/
def execPrdv (h : Hart) (w : BitVec 32) (s : State) : Res := s.issue h (fun s => s.pressExec h w)
/-- `pwrv` -/
def execPwrv (h : Hart) (w : BitVec 32) (s : State) : Res := s.issue h (fun s => s.pressExec h w)
/-- `pstc` -/
def execPstc (h : Hart) (w : BitVec 32) (s : State) : Res := s.issue h (fun s => s.pressExec h w)
/-- `pwait` -/
def execPwait (h : Hart) (w : BitVec 32) (s : State) : Res := s.issue h (fun s => s.pressExec h w)
/-- `dinit` -/
def execDinit (h : Hart) (w : BitVec 32) (s : State) : Res := s.issue h (fun s => s.pressExec h w)
/-- `dkv` -/
def execDkv (h : Hart) (w : BitVec 32) (s : State) : Res := s.issue h (fun s => s.pressExec h w)
/-- `dfin` -/
def execDfin (h : Hart) (w : BitVec 32) (s : State) : Res := s.issue h (fun s => s.pressExec h w)
/-- `dsave` -/
def execDsave (h : Hart) (w : BitVec 32) (s : State) : Res := s.issue h (fun s => s.pressExec h w)
/-- `dload` -/
def execDload (h : Hart) (w : BitVec 32) (s : State) : Res := s.issue h (fun s => s.pressExec h w)

/-- PRESS_INSTR_START (R120, R150): the first entry not yet started starts when it may. -/
def execPressInstrStart (c : CoreId) (s : State) : Res :=
  .next (if s.siteHalted (c.val / 256) then s else s.modCore c.val Core.pressStart)

/-- Threads that wait for the press go on when they can: `pwait`, stalled issues, register waits (R36, R117, R122). -/
def State.pressWake (s : State) (c : Nat) : State :=
  let core := s.coreOf c
  if core.saving || s.siteHalted (c / 256) then s else
  -- pwait
  let s := s.modCore c (fun co => {co with thr := co.thr.map (fun t =>
    (t.1, match t.2.wait with
      | .press n => if co.queue.all (fun e => n ≤ e.seq) then {t.2 with wait := .none}.adv .four else t.2
      | _ => t.2))})
  -- issues stalled on a full queue, in the order in which they stalled
  let s := core.stalled.foldl (fun s t =>
    let h := coreHart c t.val
    match (s.thrOf h).wait with
    | .pressIssue w =>
      (match pkind w with
      | some k =>
        if (s.coreOf c).room k then
          (s.modCore c (fun co => {co.setThread t {co.thread t with wait := .none} with
            stalled := co.stalled.filter (· ≠ t)})).pressExec h w
        else s
      | none => s)
    | _ => s) s
  -- register waits
  (List.finRange 4).foldl (fun s t =>
    let h := coreHart c t.val
    match (s.thrOf h).wait with
    | .vector w => s.vecExec h w
    | .convert w => s.convExec h w
    | .mem _ => s.replay h
    | _ => s) s

/-- PRESS_INSTR_COMPLETE: entry i of the queue completes, when it has started and no earlier entry holds its port
(R121); its results, its flags, and the threads that waited for it. -/
def execPressInstrComplete (c : CoreId) (i : Fin 16) (s : State) : Res :=
  let core := s.coreOf c.val
  .next (if s.siteHalted (c.val / 256) then s else match mayComplete core.queue i.val with
    | none => s
    | some e =>
      let s := s.modCore c.val (fun co =>
        let co := pressEffect co s.freeCtr e
        {co with queue := co.queue.filter (fun q => q.seq ≠ e.seq)})
      let s := if pkind e.w = some .dkv then s.coreEvent c.val 0x0B 1 else s
      s.bump.pressWake c.val)

end Sys2Proof.Machine
end

