-- ==== Sys2Proof/Machine/Barrier.lean ====
section
/-! DEFINITION. Barrier and fence instructions, and the barrier fabric (R49–R53, R129–R134, R376, R377). -/

namespace Sys2Proof.Machine

/-! ### Channels -/

/-- Whether the slice of the context on a core owns a channel (R49, R416). -/
def State.ownsChan (s : State) (c : Nat) (ch : Nat) : Bool :=
  match s.coreSlice c with
  | some sl => (s.sliceOf sl).bmask.getLsbD ch
  | none => false

/-- A channel an instruction may name (R130). -/
def State.chanOk (s : State) (h : Hart) (v : Nat) : Bool :=
  v < 256 && (s.barOf v).armed && s.ownsChan (hartCore h) v

/-- The phase bit a die's threads see. -/
def Die.phase (d : Die) (ch : Nat) : Bool := tget 0 d.barPh ch = 1

/-- One arrival made (R50, R130): the phase recorded, and whether the channel is broken, by this arrival too (DESIGN
CHOICE, log 44). While the thread has unanswered host-window or hub-register writes the arrival is counted only after
them (R133, R270). -/
def State.arrive (s : State) (h : Hart) (ch : Nat) : Bool × Bool × State :=
  let ph := (s.dieOf (hartSite h)).phase ch
  if (s.barOf ch).broken then (ph, true, s.modThr h (fun t => {t with lbBrk := true}))
  else
    let s := s.modThr h (fun t => {t with lbChan := BitVec.ofNat 8 ch, lbArr := false, lbPh := ph, lbBrk := false})
    match (s.dieOf (hartSite h)).writesOf h with
    | [] => let s := s.countArrival h ch; (ph, (s.barOf ch).broken, s)
    | ts => (ph, false, s.modDie (hartSite h) (fun d => {d with held := d.held ++ [(⟨h, ts, .arrival ch⟩ : HeldRel)]}))

/-- The fields of a barrier or fence word, when it is the instruction with this funct3 (R129). -/
def barWord (w : BitVec 32) (f3 : Nat) : Option RWord :=
  let r := rword w
  let noRs2 := f3 = 0 || f3 = 1 || f3 = 6
  if r.op = 0x5B && r.f7 = 0 && r.f3 = f3 && (!noRs2 || r.rs2 = 0) && (f3 ≠ 4 || r.rd = 0) then some r else none

/-- A thread waits until a channel's phase differs from a recorded bit, or breaks (R130). -/
def State.barWait (s : State) (h : Hart) (rd : RegNo) (ch : Nat) (ph : Bool) : State :=
  if (s.barOf ch).broken then s.modThr h (fun t => {t.setX rd 2 with lbBrk := true, lbArr := false, barIn := false}.adv .four)
  else if (s.dieOf (hartSite h)).phase ch ≠ ph then
    s.modThr h (fun t =>
      {t.setX rd 1 with lbArr := if t.lbChan.toNat = ch then false else t.lbArr, lbBrk := false, barIn := false}.adv .four)
  else s.modThr h (fun t => {t with wait := .barrier .four rd ch ph})

/-- The instruction's word and its channel checked, then its effect (R103, R130). -/
def State.barInstr (s : State) (h : Hart) (w : BitVec 32) (f3 : Nat) (f : RWord → Nat → State) : State :=
  match barWord w f3 with
  | none => s.trapThr h .illegal w.toNat
  | some r =>
    let ch := ((s.thrOf h).xr (regNo r.rs1)).toNat
    if s.chanOk h ch then f r ch else s.trapThr h .illegalBarrier ch

/-- `barw`: arrives and waits; a thread that was saved inside it resumes as `barwp` (R131). -/
def execBarw (h : Hart) (w : BitVec 32) (s : State) : Res :=
  s.issue h (fun s => s.barInstr h w 0 (fun r ch =>
    let t := s.thrOf h
    if t.barIn && t.lbChan.toNat = ch then s.barWait h (regNo r.rd) ch t.lbPh
    else
      let (ph, broken, s) := s.arrive h ch
      if broken then s.modThr h (fun t => (t.setX (regNo r.rd) 2).adv .four)
      else s.modThr h (fun t => {t with wait := .barrier .four (regNo r.rd) ch ph, barIn := true})))

/-- `bara`: arrives without waiting. -/
def execBara (h : Hart) (w : BitVec 32) (s : State) : Res :=
  s.issue h (fun s => s.barInstr h w 1 (fun r ch =>
    let (ph, broken, s) := s.arrive h ch
    s.modThr h (fun t => (t.setX (regNo r.rd) (BitVec.ofNat 64 (b2n ph + 2 * b2n broken))).adv .four)))

/-- `bart`: tests the phase. -/
def execBart (h : Hart) (w : BitVec 32) (s : State) : Res :=
  s.issue h (fun s => s.barInstr h w 2 (fun r ch =>
    let rec' := bit ((s.thrOf h).xr (regNo r.rs2)).toNat 0
    let broken := (s.barOf ch).broken
    let v : Word := if broken then 2 else if (s.dieOf (hartSite h)).phase ch = rec' then 0 else 1
    s.modThr h (fun t => {t.setX (regNo r.rd) v with lbBrk := broken}.adv .four)))

/-- `barwp`: waits for the phase. -/
def execBarwp (h : Hart) (w : BitVec 32) (s : State) : Res :=
  s.issue h (fun s => s.barInstr h w 3 (fun r ch =>
    s.barWait h (regNo r.rd) ch (bit ((s.thrOf h).xr (regNo r.rs2)).toNat 0)))

/-! ### The fabric (R49, R50) -/

/-- A channel armed: the number of dies in the package combiner, each die's number of threads, phase 0. Cores and
grafts are refused. -/
def execBarrierArm (who : Who) (chan : Byte) (locals : List (Site × Fin 1025)) (s : State) : Res :=
  match who with
  | .core _ | .graft _ => .next (s.emit (.regAck who .refused 0))
  | _ =>
    let ch := chan.toNat
    let ls := locals.filter (fun p => p.2.val ≠ 0)
    let s := (List.finRange 16).foldl (fun s x =>
      let n := match ls.find? (fun p => p.1 = x) with | some p => p.2.val | none => 0
      s.modDie x.val (fun d => { d with
        barLocal := tput d.barLocal ch n, barCount := tput d.barCount ch 0, barPh := tput d.barPh ch 0 })) s
    let sites := (List.finRange 16).filter (fun x => ls.any (fun p => p.1 = x))
    .next (s.modBar ch (fun _ => {armed := true, dies := sites.length, msgs := [], phase := false, broken := false, ctxs := []}))

/-- The package combiner receives a die's arrival; with every die in, the phase is inverted and releases go out. -/
def execBarrierArrivalMsg (chan : Byte) (x : Site) (s : State) : Res :=
  let ch := chan.toNat
  let b := s.barOf ch
  .next (if !b.armed || b.broken || b.msgs.contains x then s
    else
      let msgs := b.msgs ++ [x]
      if msgs.length < b.dies then s.modBar ch (fun b => {b with msgs := msgs})
      else
        let s := s.modBar ch (fun b => {b with msgs := [], phase := !b.phase})
        msgs.foldl (fun s y => s.emit (.barRelease ch y (!b.phase))) s)

/-- A thread of the die released. -/
def Thread.release (t : Thread) (ch : Nat) (ph : Bool) : Thread :=
  let t := if t.lbChan.toNat = ch && t.lbPh ≠ ph then {t with lbArr := false} else t
  match t.wait with
  | .barrier n rd c p => if c = ch && p ≠ ph then ({t with wait := .none, barIn := false}.setX rd 1).adv n else t
  | _ => t

/-- A die receives a release: its phase follows, its count is reset, its waiting threads go on. -/
def execBarrierRelease (chan : Byte) (x : Site) (phase : Bool) (s : State) : Res :=
  let ch := chan.toNat
  .next (if (s.dieOf x.val).phase ch = phase then s
    else s.modDie x.val (fun d => { d with
      barPh := tput d.barPh ch (b2n phase), barCount := tput d.barCount ch 0,
      core := d.core.map (fun c => (c.1, {c.2 with thr := c.2.thr.map (fun t => (t.1, t.2.release ch phase))})) }))

/-! ### Fence instructions (R132–R134, R377) -/

/-- A fence the context on a core may name under a map of 256 pages (R132, R377). -/
def State.fenceOk (s : State) (h : Hart) (v : Nat) (wait : Bool) : Bool :=
  match (s.coreOf (hartCore h)).ctx with
  | none => false
  | some x =>
    let c := s.ctxOf x.val
    v < 65536 && (if wait then c.fwmap else c.fsmap).getLsbD (v / 256)

/-- The instruction's word and its fence checked, then its effect. -/
def State.fenceInstr (s : State) (h : Hart) (w : BitVec 32) (f3 : Nat) (f : RWord → Nat → State) : State :=
  match barWord w f3 with
  | none => s.trapThr h .illegal w.toNat
  | some r =>
    let n := ((s.thrOf h).xr (regNo r.rs1)).toNat
    if s.fenceOk h n (f3 ≠ 4) then f r n else s.trapThr h .fenceAccess n

/-- `fsig`: the signal is sent once the thread's earlier host-window and hub-register writes are answered; its other
accesses are performed when they retire (R133). It takes effect at the fence store by FENCE_SIGNAL. -/
def execFsig (h : Hart) (w : BitVec 32) (s : State) : Res :=
  s.issue h (fun s => s.fenceInstr h w 4 (fun r n =>
    let v := (s.thrOf h).xr (regNo r.rs2)
    (match (s.dieOf (hartSite h)).writesOf h with
      | [] => s.releaseDo h (.signal n v)
      | ts => s.modDie (hartSite h) (fun d => {d with held := d.held ++ [(⟨h, ts, .signal n v⟩ : HeldRel)]})).modThr h (·.adv .four)))

/-- `fwait` (R377). -/
def execFwait (h : Hart) (w : BitVec 32) (s : State) : Res :=
  s.issue h (fun s => s.fenceInstr h w 5 (fun r n =>
    let target := (s.thrOf h).xr (regNo r.rs2)
    let sl := (s.coreSlice (hartCore h)).getD 64
    match (s.fenceOf n).waitResult sl target with
    | some v => s.modThr h (fun t => (t.setX (regNo r.rd) (BitVec.ofNat 64 v)).adv .four)
    | none => s.modThr h (fun t => {t with wait := .fence (regNo r.rd) n target})))

/-- `fread` -/
def execFread (h : Hart) (w : BitVec 32) (s : State) : Res :=
  s.issue h (fun s => s.fenceInstr h w 6 (fun r n =>
    s.modThr h (fun t => (t.setX (regNo r.rd) (s.fenceOf n).value).adv .four)))

/-- A signal reaches the fence store (R376): from a thread, from a graft, or from the hub. One into the reserved range
loses the signalling context. A thread's signal that waits for its earlier writes has not been sent yet (R133). -/
def execFenceSignal (src : Who) (f : FenceId) (v : Word) (s : State) : Res :=
  let ctx := match src with
    | .core h => (s.coreOf (hartCore h)).ctx.map (·.val)
    | .graft x => if (s.gateOf x.val).fen then some (s.gateOf x.val).fctx.val else none
    | _ => none
  let early : Bool := match src with
    | .core h => (s.dieOf (hartSite h)).held.any (fun q => q.hart = h && q.what = .signal f.val v)
    | _ => false
  .next (if early then s else match src, ctx with
    | .core _, none | .graft _, none => s.modHub (fun h => {h with sigDisc := h.sigDisc + 1})
    | _, some x =>
      let s' := s.fenceSig f.val (some (s.ctxOf x).slice.val) v
      if fenceReserved v then s'.ctxLose x .fenceval else s'
    | _, none => s.fenceSig f.val none v)

end Sys2Proof.Machine
end

