-- ==== Sys2Proof/Machine/Coherence.lean ====
section
/-! DEFINITION. The requests of the home agents and the secondary requests of the caching agents (R253–R265, R209,
R535). -/

namespace Sys2Proof.Machine

/-! ### Requests at a home agent -/

/-- Rights of a request by its sender (R185, R186). -/
def niRights (src : NI) : Rights := {mgmt := niMgmt src.toNat}

/-- The status a request gets before it is taken, and the address that gave it. -/
def State.reqStatus (s : State) (r : HomeReq) (wr : Bool) : Status × Nat :=
  (r.homeLines.map (fun l => (s.memStatus (niRights r.q.src) wr (64 * l) r.q.kslot.val, 64 * l))).foldl
    (fun a p => if a.1 = .ok then p else a) (.ok, r.q.pa.toNat)

/-- The memory NI a request reaches (R221). -/
def homeNi (r : HReq) : Nat := memNi (r.pa.toNat / 2 ^ 36) (r.pa.toNat % 2 ^ 36)

/-- A request recorded at its memory NI (R240). -/
def State.homeRecord (s : State) (r : HReq) (op : TOp) : State := s.recordReq (homeNi r) r.src r.tag r.len op r.pa.toNat

/-- A request answered without being performed: by the bung of its NI, or by the home agent, which counts what it refuses at
`pa`. -/
def State.homeDeny (s : State) (r : HomeReq) (st : Status) (pa : Nat) : State :=
  match st with
  | .bunged =>
    ((s.turnAway (homeNi r.q) (s.asSent (homeNi r.q) r.q.src r.q.tag r.q.len r.op r.q.pa.toNat) .bunged).bungCount (homeNi r.q) 1).wbFree r
  | .refused => ((s.homeRecord r.q r.op).homeAnswer r st []).refuse (niRights r.q.src) pa r.q.kslot.val
  | _ => (s.homeRecord r.q r.op).homeAnswer r st []

/-- A request reaches the home agent of its cask: denied, or recorded and submitted (R221, R240, R259). -/
def State.homeRequest (s : State) (r : HomeReq) (wr : Bool) : State :=
  match s.reqStatus r wr with
  | (.ok, _) => (s.homeRecord r.q r.op).homeSubmit (r.q.pa.toNat / 2 ^ 36) r
  | (st, a) => s.homeDeny r st a

/-- RD. -/
def execRd (r : HReq) (s : State) : Res := .next (s.homeRequest ⟨.rd, r, [], 0, 0, false⟩ false)
/-- RDS. -/
def execRds (r : HReq) (s : State) : Res := .next (s.homeRequest ⟨.rds, r, [], 0, 0, false⟩ false)
/-- RDX. -/
def execRdx (r : HReq) (s : State) : Res := .next (s.homeRequest ⟨.rdx, r, [], 0, 0, false⟩ false)
/-- WR: at a cask address performed as WRI. -/
def execWr (r : HReq) (data : List Sector) (s : State) : Res := .next (s.homeRequest ⟨.wr, r, data, 0, 0, false⟩ true)
/-- WRI. -/
def execWri (r : HReq) (data : List Sector) (s : State) : Res := .next (s.homeRequest ⟨.wri, r, data, 0, 0, false⟩ true)
/-- WRP: the byte enables and one sector. -/
def execWrp (r : HReq) (mask : List Word) (data : List Sector) (s : State) : Res :=
  .next (s.homeRequest ⟨.wrp, r, data, nth 0 mask 0, 0, false⟩ true)
/-- WRPOI. -/
def execWrpoi (r : HReq) (s : State) : Res := .next (s.homeRequest ⟨.wrpoi, r, [], 0, 0, false⟩ true)
/-- STASH. -/
def execStash (r : HReq) (data : List Sector) (s : State) : Res := .next (s.homeRequest ⟨.stash, r, data, 0, 0, false⟩ true)
/-- AMO: a refused operation writes nothing (R264). -/
def execAmo (r : HReq) (operand : Sector) (s : State) : Res :=
  let q : HomeReq := ⟨.amo, r, [operand], 0, 0, false⟩
  .next (if (amoApply operand 0).isNone then
      match s.reqStatus q true with
      | (.ok, _) => s.homeDeny q .refused r.pa.toNat
      | (st, a) => s.homeDeny q st a
    else s.homeRequest q true)

/-- A WB: the sector is written when the sender is the recorded M holder, else discarded; the answer waits for the
responses of a transaction that blocks the line, and the entry, without holders, stays as long (R259, R262). -/
def State.writeBack (s : State) (r : HReq) (v : Sector) : State :=
  let q : HomeReq := ⟨.wb, r, [v], 0, 0, false⟩
  match s.reqStatus q true with
  | (.ok, _) =>
    let pa := r.pa.toNat
    let k := pa / 2 ^ 36
    let line := pa / 64
    let s := (s.homeRecord r .wb).dirCheck k line
    let s := if (s.caskOf k).dirBad line then s.purgeLine k line (List.finRange 16) else s
    let blocked := (s.caskOf k).blocked line
    let holder := match (s.caskOf k).dirFind line, niSiteOf r.src.toNat with
      | some (_, e), some x => e.m && e.holders.getLsbD x
      | _, _ => false
    let s := if !holder then s
      else
        (s.arrayWrite pa (fun _ c a => c.writeSector a r.kslot.val v)).modCask k (fun c =>
          if blocked then c.dirRecord line true 0 else c.dirDel line)
    if blocked then
      s.modCask k (fun c => {c with txns := c.txns.map (fun t => if t.lines.contains line then {t with wbs := t.wbs ++ [r]} else t)})
    else s.wbAnswer r
  | (st, a) => s.homeDeny q st a

/-- WB. -/
def execWb (src : NI) (r : WbReq) (data : List Sector) (s : State) : Res :=
  .next (s.writeBack ⟨r.pa, 0, r.kslot, src, r.tag⟩ (sectorAt data 0))

/-- TRACE: answered OK; the record goes into its sink's ring, or is discarded and counted (R535). -/
def State.traceWrite (s : State) (n : Nat) (v : Sector) : State :=
  let k := s.sinkOf n
  let size := 2 ^ (k.lgsz.toNat - 6)
  let put := fun (s : State) (k : Sink) => {s with obs := {s.obs with sink := tput s.obs.sink n k}}
  if !s.obs.en.getLsbD 2 || !k.sen then put s {k with nrej := satAdd 0xFFFFFFFF k.nrej 1}
  else if !k.wrap && size ≤ k.nrec then put s {k with nfull := satAdd 0xFFFFFFFF k.nfull 1}
  else
    let (_, s) := s.agentWrite {} .wri (64 * (k.base.toNat + k.nrec % size)) 0 (BitVec.allOnes 64) v
    put s {k with nrec := k.nrec + 1}

/-- TRACE. -/
def execTrace (r : HReq) (sink : Fin 4) (record : Sector) (s : State) : Res :=
  .next (if s.bunged (homeNi r) then s.homeDeny ⟨.trace, r, [record], 0, 0, false⟩ .bunged r.pa.toNat
    else ((s.homeRecord r .trace).traceWrite sink.val record).answer (homeNi r) r.src.toNat r.tag.toNat .ok [])

/-! ### Secondary requests at a caching agent (R260, R263) -/

/-- A snoop read or push of a line not held, counted at its cask (R258). -/
def State.snpOddCount (s : State) (line : Nat) : State := s.modCask (caskIdOf line).val (fun c => {c with snpOdd := c.snpOdd + 1})

/-- A caching agent's answer: over its die link, where its request came by it (R218, R225, R260). -/
def State.snoopAnswer (s : State) (x : Site) (op : TOp) (line : Nat) (data : Option (Sector × Bool)) : State :=
  let ni := niSite x.val (l2Module (64 * line))
  let home := memNi (64 * line / 2 ^ 36) (64 * line % 2 ^ 36)
  let s := s.emit (.snoopRsp x (64 * line) .ok data)
  match (s.niOf ni).record.find? (fun u => u.src.toNat = home && u.op = op && u.addr.toNat = line) with
  | some u => s.dieAnswer ni u .ok data.toList
  | none => s

/-- A secondary request served by a die. -/
def State.snoopServe (s : State) (x : Site) (op : TOp) (line : Nat) (push : Sector) : State :=
  let s := s.dieEvent x.val 0x22 1
  let d := s.dieOf x.val
  let held : Option (Sector × Bool) :=
    match tfind d.l2 line with
    | some l => some (l.data, l.pois)
    | none => (tfind d.wbbuf line).map (fun l => (l.data, l.pois))
  let line' := fun (s : State) =>
    match held with
    | some (v, p) => s.snoopAnswer x op line (some (if p then 0 else v, p))
    | none => (s.snoopAnswer x op line (some (0, true))).snpOddCount line
  match op with
  | .rd => line' s
  | .rds =>
    line' (s.modDie x.val (fun d => match tfind d.l2 line with
      | some l => {d with l2 := tput d.l2 line {l with st := .s}}
      | none => d))
  | .rdx =>
    let inM : Bool := match tfind d.l2 line with | some l => decide (l.st = .m) | none => false
    let s := match held with
      | some (v, p) => if inM then {s with inflight := tput s.inflight line ⟨.m, v, p, 0⟩} else s
      | none => s
    line' (s.modDie x.val (fun d => d.dropLine line))
  | .stash =>
    (s.modDie x.val (fun d => match tfind d.l2 line with
      | some l => if l.st = .s then {d.dropResv line with l2 := tput d.l2 line {l with data := push, pois := false}} else d
      | none => d)).snoopAnswer x op line none
  | _ => (s.modDie x.val (fun d => d.dropLine line)).snoopAnswer x op line none

/-- A secondary request reaches a site: its bung answers, its graft is asked, or its die serves or defers it. -/
def State.snoopArrive (s : State) (x : Site) (op : TOp) (pa : Nat) (push : Sector) : State :=
  let line := pa / 64
  let ni := niSite x.val (l2Module pa)
  let d := s.dieOf x.val
  if s.bunged ni then (s.emit (.snoopRsp x (64 * line) .bunged none)).bungCount ni 1
  else if s.isGraft x.val then
    if (s.gateOf x.val).cache then s.snoopGraft x op line push else s.emit (.snoopRsp x (64 * line) .ok none)
  else if d.miss.any (fun m => m.line = line) || d.pinned.any (fun p => p.1 = line) || d.deferred.any (fun q => q.line = line) then
    s.modDie x.val (fun d => {d with deferred := d.deferred ++ [⟨op, line, push⟩]})
  else s.snoopServe x op line push

/-- SNP INV. -/
def execSnpInv (x : Site) (pa : PA) (s : State) : Res := .next (s.snoopArrive x .snp pa.toNat 0)
/-- Snoop RD. -/
def execSnoopRd (x : Site) (pa : PA) (s : State) : Res := .next (s.snoopArrive x .rd pa.toNat 0)
/-- Snoop RDS. -/
def execSnoopRds (x : Site) (pa : PA) (s : State) : Res := .next (s.snoopArrive x .rds pa.toNat 0)
/-- Snoop RDX. -/
def execSnoopRdx (x : Site) (pa : PA) (s : State) : Res := .next (s.snoopArrive x .rdx pa.toNat 0)
/-- STASH push. -/
def execStashPush (x : Site) (pa : PA) (data : Sector) (s : State) : Res := .next (s.snoopArrive x .stash pa.toNat data)

/-- DEFERRED_SNOOP_RELEASE: the hold on a line ends and its deferred requests are served in order; not while a read of
the line is outstanding (R263). -/
def execDeferredSnoopRelease (x : Site) (pa : PA) (s : State) : Res :=
  let line := pa.toNat / 64
  let d := s.dieOf x.val
  .next (if d.miss.any (fun m => m.line = line) then s
    else
      let ds := d.deferred.filter (fun q => q.line = line)
      let s := s.modDie x.val (fun d => { d with
        pinned := d.pinned.filter (fun p => p.1 ≠ line), deferred := d.deferred.filter (fun q => q.line ≠ line) })
      ds.foldl (fun s q => s.snoopServe x q.op q.line q.data) s)

/-- SECONDARY_RESPONSE. -/
def execSecondaryResponse (k : CaskId) (pa : PA) (x : Site) (st : Status) (data : Option (Sector × Bool)) (s : State) : Res :=
  .next (s.secondary k.val (pa.toNat / 64) x st data)

/-- REDIRECT_RESPONSE: the copy's response replaces the poisoned one, or the primary's is delivered; a read sent to the
copy first, while a heal runs, goes to the primary when the copy refuses it (R209). -/
def execRedirectResponse (k : CaskId) (src : NI) (tag : BitVec 12) (st : Status) (data : List (Sector × Bool)) (s : State) :
    Res :=
  .next (match (s.caskOf k.val).redirs.find? (fun d => d.r.q.src = src && d.r.q.tag = tag) with
    | none => s.modTrellis (fun t => {t with rspDisc := t.rspDisc + 1})
    | some d =>
      let s := s.modCask k.val (fun c => {c with redirs := c.redirs.erase d})
      if d.first then
        if st = .ok then s.homeAnswer d.r .ok data
        else
          let (vs, s) := s.plainRead k.val d.r
          (s.charge d.r.q.pa.toNat (d.r.q.len.val + 1) false).homeAnswer d.r .ok vs
      else if st = .ok && !(data.any (·.2)) then s.homeAnswer d.r .ok data
      else s.homeAnswer d.r .ok d.data)

end Sys2Proof.Machine
end

