-- ==== Sys2Proof/Machine/Graft.lean ====
section
/-! DEFINITION. The graft gates (R317–R338): rules, requests from and into a graft, violations, fencing, admission. -/

namespace Sys2Proof.Machine

/-! ### State of a site -/

/-- Capability word i as read (R319). -/
def Gate.word (g : Gate) (i : Nat) : Nat := (tget 0 g.cap i).toNat
def Gate.tgt (g : Gate) : Bool := bit (g.word 2) 1
def State.populated (s : State) (x : Nat) : Bool := s.fuses.populated.getLsbD x
/-- OD 0x29ss.01. -/
def State.graftStatus (s : State) (x : Nat) : GraftSt :=
  if !s.isGraft x then .bambipin else if !s.populated x then .unpopulated else (s.gateOf x).st

/-- A discarded rule write or refused aperture request (OD 0x29ss.0E). -/
def State.gateDiscard (s : State) (x : Nat) : State := s.modGate x (fun g => {g with odDisc := g.odDisc + 1})

/-- A site's result in OD 0x2E01 (R480). -/
def State.siteResult (s : State) (i r : Nat) : State :=
  let o := tget 0 s.boot.site i
  {s with boot := {s.boot with site := tput s.boot.site i (o / 16 * 16 + r)}}

/-- A graft site fenced (R332): no requests, bungs engaged, its lines gone, its domain powered down. -/
def State.graftFence (s : State) (x : Site) (cause : Nat) : State :=
  let s := (s.emit (.sideband (linkId x.val) false 0x22 0x100)).emit (.sideband (linkId x.val) false 0x05 5)
  let s := (s.siteFence x (0x2900 + x.val)).siteOff x
  (s.modGate x.val (fun g => {g with cause := cause, setting := tput g.setting 5 0})).siteResult x.val 10

/-! ### Violations (R331, R332) -/

/-- A violation counted and captured; `vlim` of them in a second fence the site. -/
def State.violate (s : State) (x : Site) (code : Nat) (op tag addr : Nat) : State :=
  let s := s.modGate x.val (fun g => { g with
    nvio := BitVec.ofNat 32 (satAdd 0xFFFFFFFF g.nvio.toNat 1), odVio := g.odVio + 1, vioSec := g.vioSec + 1,
    gvio := if g.gvio.getLsbD 63 then g.gvio ||| BitVec.ofNat 64 (2 ^ 62)
      else BitVec.ofNat 64 (code + 16 * op + 256 * tag + 2 ^ 20 * addr + 2 ^ 63) })
  let g := s.gateOf x.val
  if g.vlim ≠ 0 && g.vlim.toNat ≤ g.vioSec then s.graftFence x 16 else s

/-- A violating request answered REFUSED. -/
def State.refuseGraft (s : State) (x : Site) (q : GReq) (code opc : Nat) : State :=
  (s.graftReply x.val q.m.val q.tag.toNat q.op q.len.val .refused []).violate x code opc q.tag.toNat q.addr.toNat

/-! ### Rules (R321–R323) -/

def Rule.en (r : Rule) : Bool := r.w0.getLsbD 0
def Rule.kind (r : Rule) : Nat := bits r.w0.toNat 7 6
def Rule.lsz (r : Rule) : Nat := bits r.w0.toNat 13 8
def Rule.ctx (r : Rule) : Nat := bits r.w0.toNat 27 16
def Rule.kslot (r : Rule) : Nat := bits r.w0.toNat 33 28

/-- The lowest-numbered rule that matches a graft address. -/
def Gate.matchRule (g : Gate) (a : Nat) : Option (Nat × Rule) :=
  g.rule.find? (fun r => r.2.en && a / 2 ^ r.2.lsz = r.2.w1.toNat / 2 ^ r.2.lsz)

/-- Whether a rule permits an op, whatever its target (R329). -/
def Rule.permits (r : Rule) (cache : Bool) (op : TOp) : Bool :=
  let b := fun (n : Nat) => r.w0.getLsbD n
  match op with
  | .rd => b 1
  | .rds | .rdx | .wb => b 4 && cache
  | .wr | .wrp | .wrpoi => b 2
  | .amo => b 3
  | _ => false

/-- The op a request is issued as (R329). -/
def Rule.issuedAs (r : Rule) (op : TOp) (host : Bool) : TOp :=
  match op with
  | .wr => if host then .wr else if r.w0.getLsbD 5 then .stash else .wri
  | op => op

/-- Ops a graft may send at all. -/
def graftOp : TOp → Bool
  | .rd | .rds | .rdx | .wr | .wrp | .wrpoi | .wb | .amo | .msg => true
  | _ => false

/-! ### Requests from a graft (R325, R329, R331) -/

/-- Where a sector of a request goes. -/
inductive GTarget where
  | cask (pa kslot : Nat)
  | host (iova : Nat)
  | fault (c : XCause) (ipa : Nat) (wlk : Bool)
  deriving DecidableEq, Repr

def accOf : TOp → Acc
  | .rd | .rds => .read
  | .amo => .amo
  | _ => .write

/-- Targets of the sectors of a request; the first fault ends the list. -/
def State.gateTargets (s : State) (x : Nat) (r : Rule) (op : TOp) (t n : Nat) : List GTarget × State :=
  (List.range n).foldl (fun (acc, s) i =>
    if acc.any (fun g => match g with | .fault _ _ _ => true | _ => false) then (acc, s)
    else if r.kind = 1 then (acc ++ [.cask (t + 64 * i) r.kslot], s)
    else match State.translate s (.unit (96 + x)) r.ctx (t + 64 * i) (accOf op) with
      | (.cask pa k, s) => (acc ++ [.cask pa k], s)
      | (.host iova, s) => (acc ++ [.host iova], s)
      | (.fault c i w, s) => (acc ++ [.fault c i w], s)
      | (.walk _, s) => (acc ++ [.fault .walkerr 0 false], s)) (([] : List GTarget), s)

/-- A packet of a graft's request: where it goes, its sectors − 1, its payload. -/
structure GPacket where
  target : GTarget
  len : Nat
  data : List Sector
  deriving DecidableEq, Repr

/-- The packets of a request by its targets: one where they lie together, else one per sector. -/
def gatePackets (q : GReq) (ts : List GTarget) : List GPacket :=
  let ns := List.zip (List.range ts.length) ts
  match ts with
  | [] => []
  | t :: _ =>
    let next : Nat → GTarget := fun i => match t with
      | .cask p k => .cask (p + 64 * i) k
      | .host p => .host (p + 64 * i)
      | f => f
    if ns.all (fun e => decide (e.2 = next e.1)) then [⟨t, q.len.val, q.data⟩]
    else ns.map (fun e => ⟨e.2, 0, [sectorAt q.data e.1]⟩)

/-- n tags of an NI that are neither outstanding, nor quarantined, nor held. -/
def State.freshTags (s : State) (ni n : Nat) : List (BitVec 12) :=
  let i := s.niOf ni
  let used := (i.tags.map (·.tag) ++ i.quar ++ i.held.map (·.1.tag)).map (·.toNat)
  ((List.range n).foldl (fun ts _ => ts ++ [freeNum (used ++ ts)]) []).map (BitVec.ofNat 12)

/-- One packet of a graft's request, under its own tag (R329). -/
def State.gatePacket (s : State) (src : Nat) (op : TOp) (r : Rule) (p : GPacket) (tag : BitVec 12) : State :=
  let sl := (s.ctxOf r.ctx).slice.val
  let send := fun (op : TOp) (dst pa qual : Nat) =>
    let q : NReq := ⟨op, .bulk, ⟨p.len % 4, Nat.mod_lt _ (by decide)⟩, BitVec.ofNat 10 dst, BitVec.ofNat 42 (pa / 64),
      BitVec.ofNat 6 qual, tag, false⟩
    let q := s.nreqOf src q
    (s.emit (.req src q.dst.toNat op pa p.len tag.toNat qual p.data [])).submit src q false p.data
  match p.target with
  | .cask pa k => send (r.issuedAs op false) 0x80 pa k
  | .host iova => send (r.issuedAs op true) (niEp (s.sliceOf sl).ep 0) iova sl
  | .fault _ _ _ => s

/-- A request of a graft put into the trellis through its module's NI: it is outstanding until each of its packets is
answered. -/
def State.gateSend (s : State) (x : Site) (q : GReq) (r : Rule) (ts : List GTarget) : State :=
  let src := niSite x.val q.m.val
  let ps := gatePackets q ts
  let tags := s.freshTags src ps.length
  let s := s.modGate x.val (fun g => {g with out := g.out ++ [⟨q.m, q.tag, q.op, q.len, tags.map (⟨·, none⟩)⟩]})
  (List.zip ps tags).foldl (fun s p => s.gatePacket src q.op r p.1 p.2) s

/-- A request that passes the gate. -/
def State.gatePass (s : State) (x : Site) (q : GReq) (i : Nat) (r : Rule) : State :=
  let opc := q.op.code
  let hits := {r with hits := BitVec.ofNat 32 (satAdd 0xFFFFFFFF r.hits.toNat 1)}
  let t := r.w2.toNat + (64 * q.addr.toNat - r.w1.toNat)
  let n := if q.op = .wrp || q.op = .wb || q.op = .amo then 1 else q.len.val + 1
  let s := s.modGate x.val (fun g => {g with rule := tput g.rule i hits})
  let (ts, s) := s.gateTargets x.val r q.op t n
  match ts.getLast? with
  | some (.fault c ipa w) =>
    let s := s.recordFault (s.mkFault r.ctx 2 x.val c (accOf q.op) (t + 64 * (ts.length - 1)) ipa w (64 * n) (64 * (ts.length - 1)))
    let s := s.modGate x.val (fun g => {g with nflt := BitVec.ofNat 16 (satAdd 0xFFFF g.nflt.toNat 1)})
    let s := s.graftReply x.val q.m.val q.tag.toNat q.op q.len.val .refused []
    if c = .walkpoi then s.ctxLose r.ctx .poison else s
  | _ =>
    let host := ts.any (fun t => match t with | .host _ => true | _ => false)
    if host && (q.op = .amo || q.op = .rds || q.op = .rdx || q.op = .wb) then s.refuseGraft x q 2 opc
    else s.gateSend x q r ts

/-- A request of a graft at its gate. -/
def State.graftRequest (s : State) (x : Site) (q : GReq) : State :=
  let g := s.gateOf x.val
  let opc := q.op.code
  if !graftOp q.op || q.sec || tget 0 g.setting 5 = 0 then s.refuseGraft x q 3 opc
    else if g.maxout.toNat + 1 ≤ g.out.length then s.refuseGraft x q 5 opc
    else match q.op, q.fence with
      | .msg, some (f, v) =>
        let sl := (s.ctxOf g.fctx.val).slice.val
        let case := (s.fenceOf f.toNat).sigCase (some sl) v
        if !g.fen then s.refuseGraft x q 6 opc
        else
          let s := s.fenceSig f.toNat (some sl) v
          match case with
          | .reserved => (s.refuseGraft x q 6 opc).ctxLose g.fctx.val .fenceval
          | .discarded => s.refuseGraft x q 6 opc
          | _ => s.graftReply x.val q.m.val q.tag.toNat .msg 0 .ok []
      | .msg, none => s.refuseGraft x q 3 opc
      | _, _ =>
        match g.matchRule (64 * q.addr.toNat) with
        | none => s.refuseGraft x q 1 opc
        | some (i, r) => if r.permits g.cache q.op then s.gatePass x q i r else s.refuseGraft x q 2 opc

/-- Whether a request is beyond the credits of its module's link while none are returned (R297, R331): those of the 512
commands and the 512 sectors that its fellows have not used. -/
def Gate.beyond (g : Gate) (q : GReq) : Bool :=
  let ks := (q :: g.kept).filter (fun k => k.m = q.m && k.op ≠ .msg)
  q.op ≠ .msg && (512 < ks.length || 512 < (ks.map (fun k => k.data.length)).foldl (· + ·) 0)

/-- GRAFT_REQUEST. What arrives while a freeze withholds the graft's credits waits at the gate (R335). -/
def execGraftRequest (x : Site) (q : GReq) (s : State) : Res :=
  let g := s.gateOf x.val
  .next (if !s.isGraft x.val then s
    else if !g.held then s.graftRequest x q
    else if g.beyond q then s.refuseGraft x q 4 q.op.code
    else s.modGate x.val (fun g => {g with kept := g.kept ++ [q]}))

/-- Credits return: the totals of every module go on, and what waited at the gate passes in order (R335). -/
def State.gateResume (s : State) (x : Site) : State :=
  let ks := (s.gateOf x.val).kept
  let s := s.modGate x.val (fun g => {g with held := false, kept := []})
  let s := (List.range 8).foldl (fun s m => s.modDir x.val m true (fun d =>
    {d with freedCmd := d.freedCmd + d.owedCmd, freedSec := d.freedSec + d.owedSec, owedCmd := 0, owedSec := 0})) s
  ks.foldl (fun s q => s.graftRequest x q) s

/-! ### Requests into a graft (R326–R328) -/

/-- A request of the trellis sent on into its graft, under a tag of the gate's own. -/
def State.apertureSend (s : State) (x : Site) (q : NReq) (src : NI) (data : List Sector) : State :=
  let a := 64 * q.addr.toNat % 2 ^ 32
  let m := modId (s.moduleFor x.val (bits a 10 8))
  let t := (s.gateOf x.val).nextTag
  (s.modGate x.val (fun g => {g with into := g.into ++ [⟨m, BitVec.ofNat 12 t, q.tag, src, q.op, q.len, none, bits a 10 8⟩]})).intoGraft
    x m q.op t a q.len.val data

/-- A request that waited for one of the 4,096 places of its gate goes into the graft (R328). -/
def State.apertureNext (s : State) (x : Site) : State :=
  let g := s.gateOf x.val
  match g.waitIn with
  | [] => s
  | (q, src, data) :: ws =>
    if 4096 ≤ g.into.length then s
    else (s.modGate x.val (fun g => {g with waitIn := ws})).apertureSend x q src data

/-- The answer to a request into a graft, or to a snoop. -/
def State.answerInto (s : State) (x : Site) (i : IntoGraft) (st : Status) (data : List (Sector × Bool)) : State :=
  match i.snoop with
  | some (_, line) =>
    let s := s.emit (.snoopRsp x (64 * line) st (if i.op = .snp || i.op = .stash then none else data.head?))
    let ni := niSite x.val (l2Module (64 * line))
    match (s.niOf ni).record.find? (fun u => u.src = i.src && u.op = i.op && u.addr.toNat = line) with
    | some u => s.answerAs ni u st data
    | none => s
  | none => s.answer (niSite x.val i.ni) i.src.toNat i.rtag.toNat st data

/-- GRAFT_RESPONSE. -/
def execGraftResponse (x : Site) (m : Fin 8) (tag : BitVec 12) (st : Status) (data : List (Sector × Bool)) (s : State) : Res :=
  let g := s.gateOf x.val
  .next (if !s.isGraft x.val then s
    else match g.into.find? (fun i => i.m = m && i.tag = tag) with
      | some i => ((s.modGate x.val (fun g => {g with into := g.into.erase i})).answerInto x i st data).apertureNext x
      | none =>
        if g.late.contains (m, tag) then s.modGate x.val (fun g => {g with late := g.late.erase (m, tag)})
        else s.violate x 7 0 tag.toNat 0)

/-- APERTURE_REQUEST. -/
def execApertureRequest (x : Site) (q : NReq) (src : NI) (data : List Sector) (s : State) : Res :=
  let g := s.gateOf x.val
  let a := 64 * q.addr.toNat % 2 ^ 32
  let ni := niSite x.val (bits a 10 8)
  let u := s.asSent ni src q.tag q.len q.op (64 * q.addr.toNat)
  let ok := g.adm && g.tgt && a < 2 ^ bits (g.word 2) 37 32
    && (q.op = .rd || q.op = .wr || q.op = .wrp || q.op = .amo)
    && (niMgmt src.toNat || (g.bound && q.qual.toNat = g.slice.val))
  .next (if !s.isGraft x.val then s.turnAway ni u .noowner
    else if s.bunged ni then (s.turnAway ni u .bunged).bungCount ni 1
    else if !ok then ((s.recordAs ni u).answer ni src.toNat q.tag.toNat .refused []).gateDiscard x.val
    else if 4096 ≤ g.into.length then
      (s.recordAs ni u).modGate x.val (fun g => {g with waitIn := g.waitIn ++ [(q, src, data)]})
    else (s.recordAs ni u).apertureSend x q src data)

/-- GRAFT_ANSWER_OVERDUE: sixteen in a second fence the site. -/
def execGraftAnswerOverdue (x : Site) (m : Fin 8) (tag : BitVec 12) (s : State) : Res :=
  .next (match (s.gateOf x.val).into.find? (fun i => i.m = m && i.tag = tag) with
    | none => s
    | some i =>
      let s := (s.modGate x.val (fun g => { g with
        into := g.into.erase i, late := g.late ++ [(m, tag)], novd := BitVec.ofNat 16 (satAdd 0xFFFF g.novd.toNat 1),
        odOvd := g.odOvd + 1, ovdSec := g.ovdSec + 1 })).answerInto x i .bunged []
      let s := s.apertureNext x
      if 16 ≤ (s.gateOf x.val).ovdSec then s.graftFence x 17 else s)

/-! ### Registers (R323, R324, R330) -/

/-- A rule with a word written; reserved bits stay 0 and `hits` starts again when `en` is set. -/
def Rule.wrote (r : Rule) (word : Nat) (v : Word) : Rule :=
  match word with
  | 0 => {r with w0 := v &&& 0x3FFFF3FFF, hits := if !r.en && v.getLsbD 0 then 0 else r.hits}
  | 1 => {r with w1 := v &&& 0x0000FFFFFFFFF000}
  | 2 => {r with w2 := v &&& 0x000FFFFFFFFFF000}
  | _ => r

/-- Whether a rule may be in force (R323). -/
def State.ruleOk (s : State) (g : Gate) (r : Rule) (mgmt : Bool) : Bool :=
  12 ≤ r.lsz && r.lsz ≤ 47 && r.w1.toNat % 2 ^ r.lsz = 0 && r.w2.toNat % 2 ^ r.lsz = 0
    && ((r.kind = 1 && mgmt && r.w2.toNat < 2 ^ 48)
      || (r.kind = 0 && g.bound && (s.ctxOf r.ctx).state ≠ .free && (s.ctxOf r.ctx).slice = g.slice))

/-- GATE_RULE_WRITE. -/
def execGateRuleWrite (who : Who) (x : Site) (rule : Fin 16) (word : Fin 4) (v : Word) (s : State) : Res :=
  let g := s.gateOf x.val
  let r := (g.ruleOf rule.val).wrote word.val v
  .next (s.atOwner who (niService (fieldOfSite x.val) 3) (fun s =>
    if !(who.mgmt || who.driver) then s.ack who .refused
    else if (who.driver && !g.bound) || (r.en && !s.ruleOk g r who.mgmt) then (s.gateDiscard x.val).ack who .ok
    else (s.modGate x.val (fun g => {g with rule := tput g.rule rule.val r})).ack who .ok))

/-- GATE_CTL_WRITE. -/
def execGateCtlWrite (who : Who) (x : Site) (v : Word) (s : State) : Res :=
  let n := v.toNat
  let sl : SliceId := ⟨bits n 7 2 % 64, Nat.mod_lt _ (by decide)⟩
  .next (s.mgmtWrite who (fun s =>
    if (s.gateOf x.val).bound && (s.gateOf x.val).slice ≠ sl then s.gateDiscard x.val
    else
      let s := s.modGate x.val (fun g => { g with
        slice := sl, bound := bit n 8, fctx := ⟨bits n 33 22 % 4096, Nat.mod_lt _ (by decide)⟩, fen := bit n 34,
        vlim := BitVec.ofNat 16 (n >>> 35),
        rule := if bit n 8 then g.rule else g.rule.map (fun r => (r.1, {r.2 with w0 := r.2.w0 &&& ~~~1})) })
      if bit n 8 then s else s.gateResume x))

/-! ### Fencing and seconds (R332) -/

/-- GRAFT_FENCE: cause 0 violations, 1 overdue, 2 power, 3 reports missing. -/
def execGraftFence (x : Site) (cause : Fin 8) (s : State) : Res :=
  .next (if s.isGraft x.val && s.populated x.val then s.graftFence x (if cause.val < 4 then 16 + cause.val else 0) else s)

/-- GRAFT_SECOND_END. -/
def execGraftSecondEnd (x : Site) (s : State) : Res :=
  let g := s.gateOf x.val
  let s := s.modGate x.val (fun g => {g with vioSec := 0, ovdSec := 0})
  .next (if !s.isGraft x.val then s
    else if g.vlim ≠ 0 && g.vlim.toNat ≤ g.vioSec then s.graftFence x 16
    else if 16 ≤ g.ovdSec then s.graftFence x 17
    else s)

/-! ### Admission (R319, R336, R337) -/

/-- The capability block is whole and in range (R319). -/
def blockOk (ws : List Word) : Bool :=
  let n := ws.length
  let w := fun (i : Nat) => (nth 0 ws i).toNat
  8 ≤ n && n ≤ 256 && nth 0 ws (n - 1) = (ws.take (n - 1)).foldl (· ^^^ ·) 0
    && 1 ≤ bits (w 0) 15 0 && bits (w 0) 63 48 = 0
    && 1 ≤ bits (w 1) 10 8 && bits (w 1) 10 8 ≤ 4 && bits (w 1) 63 12 = 0
    && bits (w 2) 15 3 = 0 && 1 ≤ bits (w 2) 28 16 && bits (w 2) 28 16 ≤ 4096 && bits (w 2) 31 29 = 0 && bits (w 2) 63 38 = 0
    && (!bit (w 2) 1 || (12 ≤ bits (w 2) 37 32 && bits (w 2) 37 32 ≤ 32 && bits (w 4) 31 0 % 4096 = 0
        && bits (w 4) 31 0 + 4096 ≤ 2 ^ bits (w 2) 37 32))
    && bits (w 3) 15 0 ≤ 1600 && bits (w 3) 31 16 ≤ bits (w 3) 15 0 && bits (w 3) 47 32 ≤ bits (w 3) 31 16
    && bits (w 3) 59 48 ≤ 800 && bits (w 3) 63 60 = 0 && bits (w 4) 63 32 = 0
    && (bits (w 0) 15 0 ≠ 1 || (ws.drop 7).dropLast.all (· = 0))

/-- Every module of a die has finished training. -/
def State.allSettled (s : State) (a : Nat) : Bool :=
  (List.range (linkModules a)).all (fun m => (s.modOf a m).st = .up || (s.modOf a m).st = .absent)

/-- The failure code of an admission's evidence, 0 when it passes (R336). Step 5 goes by the configurations the modules
trained to. -/
def State.admissionCode (s : State) (x : Nat) (e : AdmEvidence) : Nat :=
  let w := fun (i : Nat) => (nth 0 e.words i).toNat
  let ms := (List.range 8).map (s.modOf x)
  if e.identKind ≠ 1 then 1
  else if bits (w 0) 47 16 ≠ tget 0 s.fuses.graftId x then 2
  else if e.major ≠ 1 then 3
  else if !blockOk e.words then 4
  else if bits (w 1) 7 0 ≠ 0xFF || ms.any (fun m => bits (w 1) 10 8 < m.rx.spd.val || (m.rx.half && !bit (w 1) 11)) then 5
  else if !e.settingsOk then 6
  else if e.rounds.length ≠ 16 || e.rounds.any (fun r => !r.2 || 11 * bits (w 3) 31 16 < 10 * r.1.toNat) then 7
  else if bit (w 2) 1 && !e.selfTestOk then 8
  else if bit (w 2) 0 && !e.snoopOk then 9
  else if !e.goOk then 6
  else 0

/-- What an admission leaves in the cellar book of the graft's block and versions (R338, R480). -/
def State.admissionSeen (s : State) (x : Site) (e : AdmEvidence) : State :=
  let minor := min e.minor.toNat 2
  let s := s.modGate x.val (fun g => { g with
    cap := List.zip (List.range 7) (fit 0 7 e.words), odAdm := g.odAdm + 1 })
  let v := tget 0 s.boot.site x.val % 16 + 16 * e.major.toNat + 2 ^ 12 * minor + 2 ^ 20 * e.rev.toNat
  {s with boot := {s.boot with site := tput s.boot.site x.val v}}

/-- A graft admitted (R336 step 10). -/
def State.admitSite (s : State) (x : Site) (e : AdmEvidence) : State :=
  let w2 := (nth 0 e.words 2).toNat
  let sets := [(1, x.val), (2, min e.minor.toNat 2), (3, b2n (bit w2 0)), (4, bits w2 28 16), (5, 1)]
  let s := sets.foldl (fun s p => s.emit (.sideband (linkId x.val) false 0x05 (p.1 + 2 ^ 16 * p.2))) s
  let s := s.modGate x.val (fun g => { g with
    adm := true, fenced := false, bound := false, st := .admitted, cause := 0, cache := bit w2 0, maxout := BitVec.ofNat 12 (bits w2 28 16 - 1),
    rule := g.rule.map (fun r => (r.1, {r.2 with w0 := r.2.w0 &&& ~~~1})), vlim := 4096, nvio := 0, out := [], powered := true,
    setting := sets.foldl (fun t p => tput t p.1 p.2) g.setting })
  let s := (s.modLink x.val (fun l => {l with fenced := false})).siteResult x.val 0
  (s.nisReady (.site x)).bungFree (.site x)

/-- Whether an admission runs at a site (R336): a populated graft's, once its modules have trained. -/
def State.admitting (s : State) (x : Nat) : Bool :=
  s.isGraft x && s.populated x && (s.gateOf x).st = .admitting && s.allSettled x

/-- ADMISSION: without the licence's feature the site is fenced untried (R475). -/
def execAdmission (x : Site) (e : AdmEvidence) (s : State) : Res :=
  .next (if !s.admitting x.val then s
    else if !s.boot.feat.getLsbD 3 then (s.graftFence x 0).siteResult x.val 9
    else
      let s' := s.admissionSeen x e
      match s.admissionCode x.val e with
      | 0 => s'.admitSite x e
      | c => s'.graftFence x c)

/-- The failure code of an admission step (R336). -/
def stepCode (n : Nat) : Nat := if n = 10 then 6 else n

/-- ADMISSION_STEP_TIMEOUT. -/
def execAdmissionStepTimeout (x : Site) (step : Fin 16) (s : State) : Res :=
  .next (if !s.admitting x.val || step.val = 0 || 10 < step.val then s
    else (s.modGate x.val (fun g => {g with odAdm := g.odAdm + 1})).graftFence x (stepCode step.val))

/-- A fenced graft site powered again for admission. -/
def State.graftReadmit (s : State) (x : Site) : State :=
  let s := s.modGate x.val (fun g => {g with st := .admitting, fenced := false, powered := true, setting := [], cause := 0})
  s.modLink x.val (fun l => { l with
    fenced := false, retried := false, fenceMask := 0, mod := l.mod.map (fun m => (m.1, {m.2 with st := .idle})) })

/-- GRAFT_READMIT: only while the site is fenced. -/
def execGraftReadmit (x : Site) (s : State) : Res :=
  .next (if s.isGraft x.val && s.populated x.val && (s.gateOf x.val).fenced then s.graftReadmit x else s)

end Sys2Proof.Machine
end

