-- ==== Sys2Proof/Machine/CoreSpares.lean ====
section
/-! DEFINITION. Cluster maps, spare cores and core tests (R54–R61), the die clock and its zones (R62–R64, R510), L2 tag
errors (R46, R267). -/

namespace Sys2Proof.Machine

/-! ### Cluster maps -/

/-- The physical core that serves a position (R54). -/
def Cluster.serving (c : Cluster) (pos : Nat) : Nat := if c.subEn && c.subPos.toNat = pos then 16 else pos
def Cluster.isRetired (c : Cluster) (phys : Nat) : Bool := c.retired.getLsbD phys
/-- The spare may be brought in. -/
def Cluster.spareFree (c : Cluster) : Bool := c.spareOk && !c.subEn
/-- A working core serves a position (R58). -/
def Cluster.works (c : Cluster) (pos : Nat) : Bool :=
  !(c.posLost && c.lostPos.toNat = pos) && !c.isRetired (c.serving pos)
/-- A position that takes contexts: a working core serves it and no test runs on that core (R58, R61). -/
def Cluster.usable (c : Cluster) (pos : Nat) : Bool := c.works pos && c.testing ≠ some (c.serving pos)

/-- `CLMAPn` as read (R54). -/
def Cluster.reg (c : Cluster) : Nat :=
  c.subPos.toNat + 2 ^ 4 * b2n c.subEn + 2 ^ 5 * b2n c.spareOk + 2 ^ 6 * b2n c.posLost + 2 ^ 7 * c.lostPos.toNat
    + 2 ^ 11 * c.retired.toNat

/-- A position without a working core and without a spare is lost (R58). -/
def Cluster.settle (c : Cluster) : Cluster :=
  match (List.range 16).find? (fun p => c.isRetired (c.serving p)) with
  | some p => if c.spareFree then c else {c with posLost := true, lostPos := BitVec.ofNat 4 p}
  | none => c

def posCore (x cl pos : Nat) : Nat := 256 * x + 16 * cl + pos
def coreIdOf (c : Nat) : CoreId := ⟨c % 4096, Nat.mod_lt _ (by decide)⟩

/-- Wear of a die after its spares changed (R546). -/
def State.spareWear (s : State) (x cl : Nat) : State :=
  let c := s.clusterOf x cl
  if c.posLost then (s.wear (dieSite x) 3).logEvent 3 (dieSite x) (0x2310 + x) (16 * cl + c.lostPos.toNat) 0
  else if !c.spareFree then s.wear (dieSite x) 2 else s

/-- A core retired for good and recorded (R55, R58). -/
def State.retireCore (s : State) (x cl phys : Nat) : State :=
  let s := s.modCluster x cl (fun c =>
    ({ c with retired := c.retired ||| BitVec.ofNat 17 (2 ^ phys), spareOk := c.spareOk && phys ≠ 16 }).settle)
  let key := 272 * x + 17 * cl + phys
  let s := {s with boot := {s.boot with coreRec := if s.boot.coreRec.contains key then s.boot.coreRec else s.boot.coreRec ++ [key]}}
  s.spareWear x cl

/-- A core retired at a bring-up: the spare, where it is free, takes its position (R57, R58, R470, R553). -/
def State.retireSubst (s : State) (x cl phys : Nat) : State :=
  let s := s.retireCore x cl phys
  if phys < 16 && (s.clusterOf x cl).spareFree then
    s.modCluster x cl (fun c => {c with subPos := BitVec.ofNat 4 phys, subEn := true})
  else s

/-- `CLRET` with `go` (R54). A context loaded on the core is lost with cause LINK (DESIGN CHOICE, log 22). -/
def State.clret (s : State) (x : Nat) (v : Nat) : State :=
  let cl := bits v 3 0
  let phys := bits v 8 4
  if bit v 9 && phys ≤ 16 then
    let c := s.clusterOf x cl
    let s := (List.range 16).foldl (fun s p =>
      if c.serving p = phys then
        match (s.coreOf (posCore x cl p)).ctx with | some i => s.ctxLose i.val .link | none => s
      else s) s
    s.retireCore x cl phys
  else s

/-- CLRET. -/
def execClret (who : Who) (x : Site) (v : Word) (s : State) : Res :=
  .next (s.mgmtWrite who (fun s => if s.isGraft x.val then s else s.clret x.val v.toNat))

/-- A write of `CLMAPn` (R56). -/
def State.clmapWrite (s : State) (x n : Nat) (v : Nat) : State :=
  let c := s.clusterOf x n
  let c' := {c with subPos := BitVec.ofNat 4 v, subEn := bit v 4}
  let bad := (List.range 16).any (fun p => c.serving p ≠ c'.serving p &&
    ((s.coreOf (posCore x n p)).ctx.isSome || c.isRetired (c'.serving p)))
  if (bit v 4 && !c.spareOk) || bad then s.modDie x (fun d => {d with clmapDisc := d.clmapDisc + 1})
  else s.modCluster x n (fun _ => c')

/-- CLMAPn. -/
def execClmapWrite (who : Who) (x : Site) (n : Fin 16) (v : Word) (s : State) : Res :=
  .next (s.mgmtWrite who (fun s => if s.isGraft x.val then s else s.clmapWrite x.val n.val v.toNat))

/-! ### Substitution (R59, R60) -/

/-- A loaded context's save begins: issue stops on its four threads (R123, R367). -/
def State.saveBegin (s : State) (p : CoreId) (x : Nat) (why : SaveWhy) : State :=
  (s.modCore p.val (fun c => {c with saving := true})).modCtx x (fun c => {c with saving := some why})

/-- Whether a frozen slice whose state has not been bottled owns a cluster (R60, R425). -/
def State.clusterFrozen (s : State) (x cl : Nat) : Bool :=
  s.hub.slice.any (fun e =>
    (e.2.state = .freezing || (e.2.state = .frozen && !e.2.bottled)) && e.2.cmask.getLsbD (16 * x + cl))

/-- A core in the delivery of firmware: 272 × site + 17 × cluster + physical index. -/
def coreKey (x cl phys : Nat) : Nat := 272 * x + 17 * cl + phys
/-- The bitmap of a core with every block of the image (R551). -/
def State.wholeImage (s : State) : BitVec 128 := BitVec.ofNat 128 (2 ^ s.avail.blockN - 1)

/-- A core's bitmap lacks blocks, and the core is not retired (R552, R553). -/
def State.fwLacks (s : State) (k : Nat) : Bool :=
  !(s.clusterOf (k / 272) (k % 272 / 17)).isRetired (k % 17)
    && (tget 0 s.avail.blocks k).toNat % 2 ^ s.avail.blockN ≠ 2 ^ s.avail.blockN - 1

/-- A substitution's state, shown in the book unless it is a test's (R503). -/
def State.substSet (s : State) (x cl : Nat) (st : SubstSt) (test : Bool) (res : Nat) : State :=
  let s := s.modCluster x cl (fun c => {c with subst := st})
  if test then s else s.modDie x (fun d => {d with substRes := res})

/-- The substitution of a position goes on to the spare: the firmware image is sent to it by unicast, and its self-test
follows; or the request waits for a frozen slice (R59, R60). -/
def State.substGo (s : State) (x cl : Nat) (pos : Fin 16) (test : Bool) : State :=
  if s.clusterFrozen x cl then s.substSet x cl (.pendingThaw pos test) test 1
  else
    let k := coreKey x cl 16
    let s := (s.substSet x cl (.selftest pos test) test 2).emit (.firmware k s.wholeImage)
    {s with avail := {s.avail with blocks := tdel s.avail.blocks k}}

/-- A substitution request: none while another runs on the site; 5 when the spare is in use or retired (R504). -/
def State.substStart (s : State) (x cl : Nat) (pos : Fin 16) : State :=
  let d := s.dieOf x
  let c := s.clusterOf x cl
  if d.substRes = 1 || d.substRes = 2 || c.subst ≠ .idle then s
  else if !c.spareFree then s.modDie x (fun d => {d with substRes := 5})
  else s.substGo x cl pos false

/-- The spare takes a position, or gives it back after a test; then the worn core is retired, or the freed core is
tested (R59, R61). -/
def State.substSwap (s : State) (x cl : Nat) : State :=
  let stopped := fun (s : State) (pos : Fin 16) (f : Core → Core) =>
    s.modCore (posCore x cl pos.val) (fun c => f {c with cycflg := c.cycflg ||| 8})
  match (s.clusterOf x cl).subst with
  | .saving pos test =>
    if s.clusterFrozen x cl then s.substSet x cl (.ready pos test) test 1
    else
    let s := stopped (s.modCluster x cl (fun c => { c with
      subPos := BitVec.ofNat 4 pos.val, subEn := true, subst := .idle, testing := if test then some pos.val else none })) pos Core.octSwap
    if test then s
    else
      let s := s.modDie x (fun d => {d with substRes := 3})
      let s := s.retireCore x cl pos.val
      s.logEvent 1 (dieSite x) (0x2310 + x) (16 * cl + pos.val) 0
  | .back pos => if s.clusterFrozen x cl then s else stopped (s.modCluster x cl (fun c => {c with subEn := false, subst := .idle})) pos Core.octBack
  | _ => s

/-- The position's context is saved first, when one is loaded and no frozen slice's; a save under way is used (R59, R60). -/
def State.substSave (s : State) (x cl : Nat) (pos : Fin 16) : State :=
  let p := coreIdOf (posCore x cl pos.val)
  match (s.coreOf p.val).ctx with
  | none => s.substSwap x cl
  | some i =>
    if (s.ctxOf i.val).saving.isSome then s
    else if s.clusterFrozen x cl then s.substSwap x cl
    else s.saveBegin p i.val .substitute

/-- Substitutions that waited for a frozen slice go on: it was thawed, or its state bottled (R60). -/
def State.substThaw (s : State) : State :=
  s.die.foldl (fun s d => d.2.cluster.foldl (fun s c =>
    if s.clusterFrozen d.1 c.1 then s
    else match c.2.subst with
      | .pendingThaw pos test => s.substGo d.1 c.1 pos test
      | .ready pos test => (s.substSet d.1 c.1 (.saving pos test) test 2).substSave d.1 c.1 pos
      | .back pos => s.substSave d.1 c.1 pos
      | _ => s) s) s

/-- SPARE_SUBSTITUTE. -/
def execSpareSubstitute (x : Site) (cl pos : Fin 16) (s : State) : Res :=
  .next (if s.isGraft x.val then s else s.substStart x.val cl.val pos)

/-- SPARE_SELFTEST_DONE: the spare's received-block bitmap is checked and its self-test has ended. The swap proceeds, or the
spare is retired and the worn core stays (R59, R60; that an incomplete bitmap counts as a failed test is a DESIGN CHOICE,
log 44); it waits on a halted site (R539). -/
def execSpareSelftestDone (x : Site) (cl : Fin 16) (r : SelftestOut) (s : State) : Res :=
  let k := coreKey x.val cl.val 16
  .next (if s.siteHalted x.val then s else match (s.clusterOf x.val cl.val).subst with
    | .selftest pos test =>
      let s : State := {s with avail := {s.avail with blocks := tput s.avail.blocks k r.got}}
      if r.pass && !s.fwLacks k then
        (s.modCluster x.val cl.val (fun c => {c with subst := .saving pos test})).substSave x.val cl.val pos
      else
        let s := s.modCluster x.val cl.val (fun c => {c with subst := .idle})
        let s := if test then s else s.modDie x.val (fun d => {d with substRes := 6})
        s.retireCore x.val cl.val 16
    | _ => s)

/-- CORE_TEST_DUE: an idle core is tested where it is; one whose position holds a context is tested behind the spare
(R61). -/
def execCoreTestDue (x : Site) (cl pos : Fin 16) (s : State) : Res :=
  let c := s.clusterOf x.val cl.val
  .next (if s.isGraft x.val || s.siteHalted x.val || c.testing.isSome || c.subst ≠ .idle || c.isRetired (c.serving pos.val) then s
    else if (s.coreOf (posCore x.val cl.val pos.val)).ctx.isNone then
      s.modCluster x.val cl.val (fun c => {c with testing := some (c.serving pos.val)})
    else if c.spareFree then s.substGo x.val cl.val pos true
    else s)

/-- CORE_TEST_DONE: a stand-in moves back; a failing core is retired and the spare stays, or is brought in (R61, R545). -/
def execCoreTestDone (x : Site) (cl : Fin 16) (pass : Bool) (s : State) : Res :=
  .next (if s.siteHalted x.val then s else match (s.clusterOf x.val cl.val).testing with
    | none => s
    | some ph =>
      let c := s.clusterOf x.val cl.val
      let pos : Fin 16 := ⟨ph % 16, Nat.mod_lt _ (by decide)⟩
      let standIn := ph < 16 && c.subEn && c.subPos.toNat = ph
      let s := s.modCluster x.val cl.val (fun c => {c with testing := none})
      if pass then
        if standIn then
          (s.modCluster x.val cl.val (fun c => {c with subst := .back pos})).substSave x.val cl.val pos
        else s
      else
        let s := s.retireCore x.val cl.val ph
        if ph < 16 && !standIn && s.book.autoSpare then s.substStart x.val cl.val pos else s)

/-! ### Clock and zones (R62–R64, R510) -/

/-- Bits of `cycflg` set on every core of a die (R522). -/
def Die.flagAll (d : Die) (b : BitVec 5) : Die :=
  (List.range 256).foldl (fun d n => d.modCore n (fun c => {c with cycflg := c.cycflg ||| b})) d

/-- The clock divisor set; a change is flagged (R62, R522). -/
def Die.setN (d : Die) (n : Nat) : Die := if d.n = n then d else ({d with n := n}).flagAll 2

/-- ZONE_SAMPLE: trip at 100 °C, critical at 110 °C (R64, R513). -/
def execZoneSample (x : Site) (temps : List Int) (s : State) : Res :=
  .next (if s.isGraft x.val then s
    else
      let ts := fit (0 : Int) 8 temps
      let hot := ts.foldl max (nth 0 ts 0)
      let s := s.modDie x.val (fun d => {d with zone := List.zip (List.range 8) ts})
      let s := s.modPow (dieSite x.val) (fun p => {p with temp := hot})
      if 1100 ≤ hot then ((s.dieCritical (dieSite x.val)).siteFence x 0x2F01).siteOff x
      else
        let s := s.dieCool (dieSite x.val)
        if 1000 ≤ hot then s.modDie x.val (fun d => {(d.setN 8).flagAll 4 with tripped := true})
        else if hot ≤ 950 then s.modDie x.val (fun d => {d with tripped := false})
        else s)

/-- GOVERNOR_EVAL: n is lowered as the power model requires, which the manual does not give, and raised by at most one
step; a zone above 95 °C lowers it; a trip holds it at 8 (R510, R513). -/
def execGovernorEval (x : Site) (s : State) : Res :=
  .next (if s.isGraft x.val then s
    else
      let d := s.dieOf x.val
      let hot := d.zone.any (fun z => 950 < z.2)
      let top := if d.tripped then 8 else if hot then max 8 (d.n - 1) else min 16 (d.n + 1)
      let n := 8 + Config.freeNat s.freeCtr 3 % (top - 7)
      s.bump.modDie x.val (fun d => d.setN n))

/-- DROOP_STRETCH: the cores of a row had a cycle stretched (R63, R522). -/
def execDroopStretch (x : Site) (row : Fin 8) (s : State) : Res :=
  .next (if s.isGraft x.val then s
    else s.modDie x.val (fun d => (List.range 32).foldl (fun d i =>
      d.modCore (32 * row.val + i) (fun c => {c with cycflg := c.cycflg ||| 1})) d))

/-! ### L2 tag errors (R46, R267) -/

/-- Whether a line falls in a bank and set of an L2 (R45). That PA[21:10] is the set is a DESIGN CHOICE (log 44): the rule gives
the bank's hash and the number of sets, and no index. -/
def inL2Set (line bank set : Nat) : Bool := l2Bank (64 * line) = bank && bits (64 * line) 21 10 = set
def lineCask (line : Nat) : Nat := 64 * line / 2 ^ 36

/-- L2_TAG_ERROR: counted when corrected; else the entry hit, one of the set's, is invalidated and reported to its
cask. Every line of that cask the die holds in the set reads as poisoned from then on. -/
def execL2TagError (x : Site) (bank : Fin 16) (set : BitVec 12) (uncorrectable : Bool) (s : State) : Res :=
  .next (if s.isGraft x.val then s
    else if !uncorrectable then s.modDie x.val (fun d => {d with tagCorr := d.tagCorr + 1})
    else
      let ls := ((s.dieOf x.val).l2.filter (fun l => inL2Set l.1 bank.val set.toNat)).map (·.1)
      if ls.isEmpty then s
      else
        let k := lineCask (nth 0 ls (Config.freeNat s.freeCtr 4 % ls.length)) % 12
        let s := s.bump.modDie x.val (fun d =>
          (ls.filter (fun l => lineCask l = k)).foldl Die.dropLine {d with l2bad := (bank.val, set.toNat + 4096 * k) :: d.l2bad})
        s.emit (.tagReport ⟨k % 12, Nat.mod_lt _ (by decide)⟩ x bank.val set.toNat))

/-- L2_TAG_REPORT: every entry of the cask that records the die in that bank and set: its other holders are
invalidated, its line poisoned and counted, the entry freed; the line is blocked meanwhile (R261). -/
def execL2TagReport (k : CaskId) (x : Site) (bank : Fin 16) (set : BitVec 12) (s : State) : Res :=
  let es := ((s.caskOf k.val).dir.filter (fun p =>
    p.2.holders.getLsbD x.val && inL2Set p.2.line bank.val set.toNat)).map (·.2)
  let s := es.foldl (fun s e =>
    let others := (holdersOf e.holders).filter (· ≠ x)
    if (s.caskOf k.val).blocked e.line then
      (s.sendSnoops k.val e.line (others.map (·, .snp)) none).poisonLine e.line true |>.modCask k.val (fun c => c.dirDel e.line)
    else s.purgeLine k.val e.line others) s
  .next (s.modDie x.val (fun d => {d with l2bad := d.l2bad.filter (· ≠ (bank.val, set.toNat + 4096 * k.val))}))

end Sys2Proof.Machine
end

