-- ==== Sys2Proof/Machine/ContextMove.lean ====
section
/-! DEFINITION. Moving contexts (R66, R67, R366, R367): which positions a context may take, whom it preempts, saving
and loading. -/

namespace Sys2Proof.Machine

/-! ### Positions (R366) -/

def posCluster (p : Nat) : Nat := p / 16 % 16

/-- The site of a core. -/
def siteOf (c : CoreId) : Site := ⟨c.val / 256 % 16, Nat.mod_lt _ (by decide)⟩

/-- A position that takes a new context: its site is in service and its core works and is not held by an abort
(R58, R307, R308, R380). -/
def State.posFree (s : State) (p : Nat) : Bool :=
  let x := p / 256
  let c := s.clusterOf x (posCluster p)
  !s.isGraft x && !(s.linkOf x).fenced && !(s.linkOf x).failing && !s.bunged (niSite x 0) && (s.coreOf p).ctx.isNone
    && !s.hub.posHeld.contains (coreIdOf p) && c.usable (p % 16)

/-- Whether a position belongs to a context's slice and lies on a site it may run on (R366, R417). -/
def State.posAllowed (s : State) (x p : Nat) : Bool :=
  let c := s.ctxOf x
  c.smask.getLsbD (p / 256) && (s.sliceOf c.slice.val).cmask.getLsbD (16 * (p / 256) + posCluster p)

/-- A context that the machinery may place: wanting, LIVE, its slice ACTIVE and before any freeze tick (R366, R425). -/
def State.placeable (s : State) (x : Nat) : Bool :=
  let c := s.ctxOf x
  let sl := s.sliceOf c.slice.val
  c.state = .live && c.want.isSome && c.pos.isNone && sl.state = .active && !sl.ticked

/-- Free positions a context may take. -/
def State.freeFor (s : State) (x : Nat) : List Nat := (List.range 4096).filter (fun p => s.posAllowed x p && s.posFree p)

/-- A loaded context is idle: so for 100 µs, and its four threads still wait for an interrupt (R366 rule 2). -/
def State.idleNow (s : State) (x : Nat) : Bool :=
  let c := s.ctxOf x
  match c.pos with
  | some p => c.idle && (List.finRange 4).all (fun t =>
      let th := (s.coreOf p.val).thread t
      th.wfi && (th.csrRaw Csr.mip &&& th.csrRaw Csr.mie) = 0)
  | none => false

/-- Loaded contexts on positions a context may take, not yet being saved. -/
def State.loadedFor (s : State) (x : Nat) : List (Nat × Ctx) :=
  s.hub.ctx.filter (fun c => match c.2.pos with
    | some p => c.2.saving.isNone && c.2.state = .live && s.posAllowed x p.val
    | none => false)

/-- The context loaded longest. -/
def longest (cs : List (Nat × Ctx)) : Option Nat :=
  (cs.foldl (fun (a : Option (Nat × Nat)) c => match a with
    | none => some (c.1, c.2.loadedAt)
    | some b => if c.2.loadedAt < b.2 then some (c.1, c.2.loadedAt) else some b) none).map (·.1)

/-- The context a wanting one preempts (R366 rules 3 and 4); which of several idle ones is not fixed. -/
def State.victimFor (s : State) (x : Nat) : Option Nat :=
  let pr := (s.ctxOf x).prio.toNat
  let cs := s.loadedFor x
  let idle := cs.filter (fun c => s.idleNow c.1)
  if !idle.isEmpty then (idle[Config.freeNat s.freeCtr 6 % idle.length]?).map (·.1)
  else
    let lower := fun (n : Nat) => cs.filter (fun c => c.2.prio.toNat = n)
    match (List.range pr).findSome? (fun n => longest (lower n)) with
    | some v => some v
    | none => longest ((lower pr).filter (fun c => c.2.quantum))

/-- Whether a wanting context comes before another in the order of service (R366 rule 6). -/
def Ctx.before (a b : Ctx) : Bool :=
  match a.want, b.want with
  | some i, some j => b.prio.toNat < a.prio.toNat || (a.prio = b.prio && i < j)
  | _, _ => false

/-- Whether a context can be served now. -/
def State.servable (s : State) (x : Nat) : Bool :=
  s.placeable x && (!(s.freeFor x).isEmpty || (s.victimFor x).isSome)

/-- CONTEXT_SCHEDULE: a wanting context that none served before it is given a free position, whose core is told to load
it, or preempts. -/
def execContextSchedule (x : CtxId) (s : State) : Res :=
  .next (if !s.placeable x.val || s.hub.ctx.any (fun c => c.2.before (s.ctxOf x.val) && s.servable c.1) then s
    else
      let fr := s.freeFor x.val
      match fr[Config.freeNat s.freeCtr 5 % fr.length]? with
      | some p => s.bump.emit (.ctl 2 [p, x.val])
      | none =>
        match s.victimFor x.val with
        | some v =>
          match (s.ctxOf v).pos with
          | some p => s.bump.saveBegin p v (.preempt (s.idleNow v))
          | none => s
        | none => s)

/-! ### Save -/

/-- A core has every response it waits for, to misses, to accesses outside the casks and to translation requests, and its
press queue is empty (R67, R123). -/
def State.quiet (s : State) (p : Nat) : Bool :=
  let d := s.dieOf (p / 256)
  (s.coreOf p).queue.isEmpty && d.miss.all (fun m => hartCore m.hart ≠ p)
    && d.posted.all (fun q => hartCore q.hart ≠ p || q.data.isSome) && s.hub.walks.all (fun w => hartCore w.hart ≠ p)

/-- A substitution that waits for its position to be empty goes on (R59, R60). -/
def State.substNext (s : State) (p : Nat) : State :=
  match (s.clusterOf (p / 256) (posCluster p)).subst with
  | .saving pos _ | .back pos => if pos.val = p % 16 then s.substSwap (p / 256) (posCluster p) else s
  | _ => s

/-- Whether a substitution waits for a position. -/
def State.substWaits (s : State) (p : Nat) : Bool :=
  match (s.clusterOf (p / 256) (posCluster p)).subst with
  | .saving pos _ | .back pos => pos.val = p % 16
  | _ => false

/-- What follows a completed save: a substitution swaps and loads the context again; otherwise it wants again, or
waits for a doorbell or a thaw, as the reason for the save says (R60, R366 rule 5, R425). -/
def State.saved (s : State) (p : CoreId) (x : Nat) (why : SaveWhy) : State :=
  let subst := s.substWaits p.val
  let s := s.substNext p.val
  let s := match why with | .command b => s.cmdEnd b.val 0 | _ => s
  let sl := s.sliceOf (s.ctxOf x).slice.val
  if sl.state ≠ .active then
    match why with
    | .freeze | .substitute => s.modCtx x (fun c => {c with thawWant := true})
    | .preempt false => s.wantNow x
    | _ => s
  else if subst && !(s.linkOf (p.val / 256)).failing then s.loadCtx p ⟨x % 4096, Nat.mod_lt _ (by decide)⟩
  else match why with
    | .preempt false | .substitute | .freeze => s.wantNow x
    | _ => s

/-- CONTEXT_SAVE: once the core is quiet, its image is written and the position left; not while its site is halted (R539);
the context is lost when a write of the image is refused. -/
def execContextSave (c : CoreId) (s : State) : Res :=
  .next (match (s.coreOf c.val).ctx with
    | none => s
    | some x =>
      match (s.ctxOf x.val).saving with
      | none => s
      | some why =>
        if !s.quiet c.val || s.siteHalted (c.val / 256) then s
        else match s.saveImage c x with
          | (.ok, s) =>
            let s := (s.modCore c.val Core.unload).modDie (c.val / 256) (fun d =>
              {d with posted := d.posted.filter (fun q => hartCore q.hart ≠ c.val)})
            let s := s.modCtx x.val (fun k => {k with pos := none, saving := none, idle := false, npre := k.npre + 1})
            (s.saved c x.val why).failureReset (siteOf c)
          | (_, s) => ((s.ctxLose x.val .image).substNext c.val).failureReset (siteOf c))

/-- CONTEXT_LOAD: a wanting context that may take the free position is loaded on it. -/
def execContextLoad (c : CoreId) (x : CtxId) (s : State) : Res :=
  .next (if s.placeable x.val && s.posAllowed x.val c.val && s.posFree c.val then s.loadCtx c x else s)

/-- CONTEXT_IDLE: the four threads have been in `wfi` for 100 µs. -/
def execContextIdle (c : CoreId) (s : State) : Res :=
  .next (match (s.coreOf c.val).ctx with
    | some x => s.modCtx x.val (fun k => {k with idle := true})
    | none => s)

/-- CONTEXT_QUANTUM_END: 2 ms since the load. -/
def execContextQuantumEnd (c : CoreId) (s : State) : Res :=
  .next (match (s.coreOf c.val).ctx with
    | some x => s.modCtx x.val (fun k => {k with quantum := true})
    | none => s)

/-- PREEMPT_TIMEOUT: a context still being saved is lost with cause PREEMPT, and a substitution proceeds (R60, R367). -/
def execPreemptTimeout (c : CoreId) (s : State) : Res :=
  .next (match (s.coreOf c.val).ctx with
    | some x =>
      if (s.ctxOf x.val).saving.isSome && !s.siteHalted (c.val / 256) then
        ((s.ctxLose x.val .preempt).substNext c.val).failureReset (siteOf c)
      else s
    | none => s)

end Sys2Proof.Machine
end

