-- ==== Sys2Proof/Machine/Halt.lean ====
section
/-! DEFINITION. Debug halt and resume (R537–R539). -/

namespace Sys2Proof.Machine

/-- A trigger: the Bambipin sites of `smask` stop; while any site is halted it is ignored and counted (R538). A halt
is noted for attestation (R447). -/
def State.haltTrigger (s : State) : State :=
  if s.obs.halted ≠ 0 then {s with obs := {s.obs with ignored := s.obs.ignored + 1}}
  else
    let sites := (List.range 16).filter (fun x => s.obs.smask.getLsbD x && !s.isGraft x)
    let recs := sites.foldl (fun t x => tmod {} t x (fun (r : HaltRec) => { r with
      tstop := s.time.now, smear := Config.freeNat s.freeCtr (16 + x) % 65, unl := !s.time.tlock })) s.obs.rec'
    let flag : BitVec 3 := if sites.isEmpty then 0 else 2
    { s.bump with
      obs := {s.obs with halted := sites.foldl (fun m x => m ||| siteBit x) 0, rec' := recs},
      sec := {s.sec with sticky := s.sec.sticky ||| flag} }

/-- A resume: every halted site runs again, and `stop` is set in each of its cores (R522, R538). -/
def State.haltResume (s : State) : State :=
  let sites := (List.range 16).filter (fun x => s.obs.halted.getLsbD x)
  let s := {s with obs := { s.obs with
    halted := 0, rec' := sites.foldl (fun t x => tmod {} t x (fun (r : HaltRec) => {r with tres := s.time.now})) s.obs.rec' }}
  sites.foldl (fun s x => s.modDie x (fun d => d.flagAll 8)) s

/-- A write of `HLTCTL`: `smask` unless a site is halted, then `go`, then `res` (R538). -/
def State.hltctlWrite (s : State) (v : Nat) : State :=
  let s := if s.obs.halted ≠ 0 then s else {s with obs := {s.obs with smask := BitVec.ofNat 16 v}}
  let s := if bit v 16 then s.haltTrigger else s
  if bit v 17 then s.haltResume else s

/-- HALT. -/
def execHalt (s : State) : Res := .next s.haltTrigger
/-- RESUME. -/
def execResume (s : State) : Res := .next s.haltResume

end Sys2Proof.Machine
end

