-- ==== Sys2Proof/Machine/Regulator.lean ====
section
/-! DEFINITION. Bandwidth regulation (R275–R289): budgets and credits of the NIs, owner table and shares of the casks,
the window end. -/

namespace Sys2Proof.Machine

/-! ### Budgets and credits -/

/-- A window ends for a class (R278, R281, R282). -/
def NiCls.windowEnd (v : NiCls) : NiCls :=
  let (b, d) := v.pend.getD (v.budget, v.dcap)
  let cr := min v.credit 0 + (b.toNat : Int)
  { v with budget := b, dcap := d, pend := none, credit := max cr (-((d.toNat * b.toNat : Nat) : Int)),
           nover := if v.credit ≤ 0 then v.nover + 1 else v.nover,
           last := BitVec.ofNat 24 (min v.cur 0xFFFFFF), cur := 0 }

/-- A window ends for a cask: counts cleared, share writes in force (R284, R285). -/
def Cask.windowEnd (c : Cask) : Cask :=
  {c with served := [], cycle := [], turns := [], share := c.sharePend.foldl (fun t p => tput t p.1 p.2) c.share, sharePend := []}

/-- REGULATOR_WINDOW_END. -/
def execRegulatorWindowEnd (s : State) : Res :=
  .next { s with
    trellis := { s.trellis with
      windows := s.trellis.windows + 1,
      ni := s.trellis.ni.map (fun n => (n.1, {n.2 with cls := n.2.cls.map (fun c => (c.1, c.2.windowEnd))})) },
    cask := s.cask.map (fun c => (c.1, c.2.windowEnd)) }

/-- A regulator register write discarded and counted (OD 0x2700.01). -/
def State.regDiscard (s : State) : State := s.modTrellis (fun t => {t with regDisc := t.regDisc + 1})

/-- A budget for a class of an NI from the next window end (R281); OBS budgets of other NIs read 0 (R279). -/
def State.budgetWrite (s : State) (n c : Nat) (v : Nat) : State :=
  if c = 4 && !isTaster n then s
  else if c = 4 && 120 < bits v 15 0 then s.regDiscard
  else s.setCls n c {s.niCls n c with pend := some (BitVec.ofNat 16 v, BitVec.ofNat 3 (v >>> 16))}

/-- BUDGET_WRITE. -/
def execBudgetWrite (who : Who) (ni : NI) (c : Fin 5) (v : Word) (s : State) : Res :=
  .next (s.mgmtWrite who (fun s => if niExists ni.toNat then s.budgetWrite ni.toNat c.val v.toNat else s))

/-! ### Owners and shares -/

/-- A register write by the driver writer, a hub controller or MGD; anyone else is refused. -/
def State.driverWrite (s : State) (who : Who) (f : State → State) : State :=
  if who.mgmt || who.driver then (f s).ack who .ok else s.ack who .refused

/-- An owner-table byte (R283). -/
def State.ownerWrite (s : State) (k g v : Nat) : State :=
  if 23040 ≤ g then s
  else if bits v 7 6 = 3 then s.regDiscard
  else s.modCask k (fun c => {c with owner := tput c.owner g (BitVec.ofNat 8 v)})

/-- OWNER_WRITE. -/
def execOwnerWrite (who : Who) (k : CaskId) (g : BitVec 15) (v : Word) (s : State) : Res :=
  .next (s.atOwner who (niService (fieldOfCask k.val) 3) (fun s => s.driverWrite who (fun s => s.ownerWrite k.val g.toNat v.toNat)))

/-- A share from the next window end (R284). -/
def State.shareWrite (s : State) (k a v : Nat) : State :=
  if 64 < a then s
  else if 27200 < bits v 15 0 then s.regDiscard
  else s.modCask k (fun c => {c with sharePend := tput c.sharePend a (bits v 16 0)})

/-- SHARE_WRITE. -/
def execShareWrite (who : Who) (k : CaskId) (a : BitVec 7) (v : Word) (s : State) : Res :=
  .next (s.atOwner who (niService (fieldOfCask k.val) 3) (fun s => s.driverWrite who (fun s => s.shareWrite k.val a.toNat v.toNat)))

end Sys2Proof.Machine
end

