-- ==== Sys2Proof/Machine/TrellisCmds.lean ====
section
/-! DEFINITION. The trellis (R216, R222–R250, R529–R533): routes and route tables, injection, tags, tasters,
buffers and arbitration, reception and delivery, bungs, link health. -/

namespace Sys2Proof.Machine

/-! ### Routes (R230, R231) -/

/-- The legs of a route: count and direction. -/
def legs (r : Nat) : List (Nat × Nat) := (List.range 4).map (fun i => (bits r (6 * i + 3) (6 * i), bits r (6 * i + 5) (6 * i + 4)))
def routeOfLegs (ls : List (Nat × Nat)) : Nat := ls.foldr (fun l r => l.1 + 16 * l.2 + 64 * r) 0

/-- A leg turns as R231 allows: a west leg first only, no repeat, no reversal, zero legs last. -/
def turnsOk : List (Nat × Nat) → Bool
  | a :: b :: ls =>
    (b.1 = 0 || (a.1 ≠ 0 && b.2 ≠ 3 && a.2 ≠ b.2 && (a.2 + 2) % 4 ≠ b.2)) && turnsOk (b :: ls)
  | _ => true

/-- The links a route takes from a router, each as its receiving router and input direction, and where it ends; none
when it leaves the mesh. -/
def routePath (r0 : Nat) (ls : List (Nat × Nat)) : Option (Nat × List (Nat × Nat)) :=
  ls.foldl (fun a l => (List.range l.1).foldl (fun a _ => match a with
    | none => none
    | some (r, path) => (neighbour r l.2).map (fun r' => (r', path ++ [(r', (l.2 + 2) % 4)]))) a) (some (r0, []))

def linkKey (r p d : Nat) : Nat := 16 * r + 4 * p + d
def State.lnk (s : State) (r p d : Nat) : Lnk := tget {} s.trellis.link (linkKey r p d)
def State.modLnk (s : State) (r p d : Nat) (f : Lnk → Lnk) : State :=
  s.modTrellis (fun t => {t with link := tmod {} t.link (linkKey r p d) f})

/-- A route from one NI to another is valid on a set of planes (R231). -/
def State.routeValid (s : State) (src dst route : Nat) (planes : List Nat) : Bool :=
  match niPort src, niPort dst with
  | some (r0, _), some (r1, _) =>
    turnsOk (legs route) && (match routePath r0 (legs route) with
      | some (r, path) => r = r1 && path.all (fun l => planes.all (fun p => (s.lnk l.1 p l.2).insvc))
      | none => false)
  | _, _ => false

/-! ### Route tables (R232–R234) -/

/-- Whether an entry may be written (R233). -/
def State.routeOk (s : State) (ni d v : Nat) : Bool :=
  entryForce v ≠ 3 && (!bit v 51 ||
    (s.routeValid ni d (bits v 23 0) (entryPlanes v) && s.routeValid ni d (bits v 47 24) (entryPlanes v)))

/-- An entry in force: no change of it waits any longer, and the requests held for one go out in order (R234). -/
def State.routeApply (s : State) (ni d : Nat) (v : Word) : State :=
  let hs := (s.niOf ni).held.filter (fun h => h.1.dst.toNat = d)
  hs.foldl (fun s h => s.sendReq ni h.1 h.2.1 h.2.2)
    ((s.putRoute ni d v).modNi ni (fun i => { i with
      change := tdel i.change d, held := i.held.filter (fun h => h.1.dst.toNat ≠ d) }))

/-- An accepted entry: in force at once, or, where it changes the route or plane in use while requests to the
destination are unanswered, once they are (R234). -/
def State.routeSet (s : State) (ni d : Nat) (v : Word) : State :=
  let o := s.routeOf ni d
  let n := v.toNat
  let moves := bit n 51 && (entrySel o ≠ entrySel n || entryForce o ≠ entryForce n || !bit o 51)
  if moves && (s.niOf ni).tags.any (fun t => t.dst.toNat = d) then
    s.modNi ni (fun i => {i with change := tput i.change d v})
  else s.routeApply ni d v

/-- An entry write: set, or discarded and counted. -/
def State.routeWrite (s : State) (ni d : Nat) (v : Nat) : State :=
  let v := v % 2 ^ 52
  if s.routeOk ni d v then s.routeSet ni d (BitVec.ofNat 64 v)
  else s.modTrellis (fun t => {t with routeDisc := t.routeDisc + 1})

/-- ROUTE_ENTRY_WRITE. -/
def execRouteEntryWrite (who : Who) (ni d : NI) (v : Word) (s : State) : Res :=
  .next (s.mgmtWrite who (fun s => if niExists ni.toNat then s.routeWrite ni.toNat d.toNat v.toNat else s))

/-! ### Injection, tags (R218, R221, R234, R238, R239) -/

/-- NI_INJECT. -/
def execNiInject (ni : NI) (q : NReq) (data : List Sector) (s : State) : Res :=
  .next (if niExists ni.toNat then s.inject ni.toNat q false data else s)

/-- ROUTE_CHANGE_APPLY: once no earlier request to the destination is unanswered, the new route applies and the held
requests go out in order. -/
def execRouteChangeApply (ni d : NI) (s : State) : Res :=
  let i := s.niOf ni.toNat
  .next (match tfind i.change d.toNat with
    | none => s
    | some v => if i.tags.any (fun t => t.dst = d) then s else s.routeApply ni.toNat d.toNat v)

/-- TAG_TIMEOUT. -/
def execTagTimeout (ni : NI) (tag : BitVec 12) (s : State) : Res :=
  .next (match (s.niOf ni.toNat).tags.find? (fun t => t.tag = tag) with
    | none => s
    | some t =>
      let s := s.modNi ni.toNat (fun i => {i with tags := i.tags.erase t, quar := i.quar ++ [tag]})
      let s := s.modTrellis (fun t => {t with timeouts := t.timeouts + 1})
      (s.logEvent 2 dieHub 0x2500 ni.toNat tag.toNat).localDone ni.toNat t .timeout)

/-- TAG_QUARANTINE_END. -/
def execTagQuarantineEnd (ni : NI) (tag : BitVec 12) (s : State) : Res :=
  .next (s.modNi ni.toNat (fun i => {i with quar := i.quar.filter (· ≠ tag)}))

/-! ### Tasters (R529–R533) -/

/-- A trace entry (R532). `hns` is not fixed. -/
def State.traceEntry (s : State) (kind plane input eport flt h0 h1 : Nat) : List Word :=
  [s.time.now,
   BitVec.ofNat 64 (Config.freeNat s.freeCtr 10 % 2 + 2 * b2n (!s.time.tlock) + 4 * kind + 32 * plane + 128 * input
     + 1024 * eport + 2 ^ 14 * flt),
   BitVec.ofNat 64 h0, BitVec.ofNat 64 h1]

/-- A packet matches filter n of a taster (R531). -/
def Taster.hit (t : Taster) (n plane input h0 h1 : Nat) : Bool :=
  let w := fun (i : Nat) => (tget 0 t.filt (4 * n + i)).toNat
  let f := w 0
  let rsp := bit h0 55
  bit f 55 && bit f input && bit f (5 + plane) && bits h0 30 28 < 4 && bit f (9 + bits h0 30 28) && bit f (13 + bits h1 3 0)
    && (bits f 30 29 = 0 || bits f 30 29 = (if rsp then 2 else 1))
    && (bits h0 41 32 ^^^ bits f 40 31) &&& bits f 50 41 = 0
    && (if rsp then bits (w 2) 41 0 = 0 else (bits h1 53 12 ^^^ bits (w 1) 41 0) &&& bits (w 2) 41 0 = 0)

/-- One filter's look at a packet: its count, and whether it traces it. -/
def Taster.look (t : Taster) (n plane input h0 h1 : Nat) : Bool × Taster :=
  if t.hit n plane input h0 h1 then
    let c := satAdd 0xFFFFFFFF (bits (tget 0 t.filt (4 * n + 3)).toNat 31 0) 1
    (c % 2 ^ bits (tget 0 t.filt (4 * n)).toNat 54 51 = 0, {t with filt := tput t.filt (4 * n + 3) (BitVec.ofNat 64 c)})
  else (false, t)

/-- A packet passes a router's taster. -/
def State.taste (s : State) (r plane input h0 h1 : Nat) : State :=
  let t := s.tasterOf r
  if !s.obs.en.getLsbD 1 || !t.ctl.getLsbD 0 then s
  else
    let (ms, t) := (List.range 4).foldl (fun (a : List Nat × Taster) n =>
      let (m, t) := a.2.look n plane input h0 h1
      (if m then a.1 ++ [n] else a.1, t)) ([], t)
    let ep := if input = 4 then ((niPort (bits h0 41 32)).getD (0, 0)).2 else 0
    match ms with
    | [] => {s with obs := {s.obs with taster := tput s.obs.taster r t}}
    | n :: _ =>
      let es := [s.traceEntry 1 plane input ep n h0 h1]
        ++ (if t.ctl.getLsbD 3 then [s.traceEntry 3 plane input ep n 0 0] else [])
      let s := {s.bump with obs := {s.obs with taster := tput s.obs.taster r {t with held := t.held ++ es}}}
      if t.ctl.getLsbD 3 then s.haltTrigger else s

/-- A record's 64 B: its two entries (R533). -/
def recordSector (es : List (List Word)) : Sector := BitVec.ofNat 512 (es.flatten.foldr (fun w n => w.toNat + 2 ^ 64 * n) 0)

/-- TASTER_RECORD_SEND: a record of two entries, or of one after 1 µs, as far as the OBS budget admits it; the first
record after a drop carries a drop marker. -/
def execTasterRecordSend (i : RouterId) (s : State) : Res :=
  let t := s.tasterOf i.val
  let ni := niTaster i.val
  .next (if t.held.isEmpty then s
    else
      let n := if 0 < t.dropped then 1 else min 2 t.held.length
      let empty : List Word := [0, 0, 0, 0]
      let rec' := if 0 < t.dropped then [s.traceEntry 2 0 0 0 0 (t.dropped % 2 ^ 32) 0, nth empty t.held 0]
        else [nth empty t.held 0, nth empty t.held 1]
      let sink := bits t.ctl.toNat 2 1
      let pa := 64 * (s.sinkOf sink).base.toNat
      let put := fun (s : State) (t : Taster) => {s with obs := {s.obs with taster := tput s.obs.taster i.val t}}
      let dst := niMem (pa / 2 ^ 36) 0
      let v := s.niCls ni 4
      let here := bit (s.routeOf ni dst) 51
      if here && (v.priority 4 1).isNone then
        put (s.setCls ni 4 (v.charge 4 1)) {t with held := t.held.drop n, dropped := t.dropped + n,
                                                   ndrop := BitVec.ofNat 32 (satAdd 0xFFFFFFFF t.ndrop.toNat n)}
      else
        -- the request's `qual` names the sink (DESIGN CHOICE, log 44)
        let s := s.ask ni dst .trace 0 pa sink [recordSector rec']
        if !here then put s {t with held := t.held.drop n}
        else (put s.bump {t with held := t.held.drop n, dropped := 0,
                                 nent := BitVec.ofNat 32 (satAdd 0xFFFFFFFF t.nent.toNat n)}).emit (.traceRec i sink rec'))

/-! ### Link health (R248, R249) -/

/-- Times within the second before now. -/
def lastSecond (now : Nat) (ts : List Nat) : List Nat := ts.filter (fun t => now < t + 10 ^ 9)

/-- n corrected halves, or pattern mismatches, of a link now: 64, or 4, within a second make it unfit. -/
def Lnk.corrected (l : Lnk) (now n : Nat) : Lnk :=
  let ts := lastSecond now l.corrAt ++ List.replicate n now
  {l with hcorr := BitVec.ofNat 16 (satAdd 0xFFFF l.hcorr.toNat n), corrAt := ts, unfit := l.unfit || decide (64 ≤ ts.length)}
def Lnk.mismatched (l : Lnk) (now : Nat) : Lnk :=
  let ts := lastSecond now l.misAt ++ [now]
  {l with pmis := BitVec.ofNat 16 (satAdd 0xFFFF l.pmis.toNat 1), misAt := ts, unfit := l.unfit || decide (4 ≤ ts.length)}
/-- An uncorrectable half of a link makes it unfit. -/
def Lnk.uncorrected (l : Lnk) : Lnk := {l with hunc := BitVec.ofNat 16 (satAdd 0xFFFF l.hunc.toNat 1), unfit := true}

/-- Corrected halves counted, per link and for the package (R248–R250, R547). -/
def State.hdrCorrected (s : State) (r p input n : Nat) : State :=
  if n = 0 then s
  else
    let s := s.modTrellis (fun t => {t with hCorr := t.hCorr + n})
    let s := if input < 4 then s.modLnk r p input (fun l => l.corrected s.now n) else s
    s.logEvent 1 dieHub 0x2500 (linkKey r p input) n

/-- An uncorrectable half counted. -/
def State.hdrBad (s : State) (r p input : Nat) : State :=
  (if input < 4 then s.modLnk r p input Lnk.uncorrected else s).logEvent 2 dieHub 0x2500 (linkKey r p input) 0

/-! ### Delivery (R221, R227, R229, R240, R242) -/

/-- The NI at a router's eport (R220). -/
def portNi (r e : Nat) : Option Nat := (List.range 0x2C0).find? (fun n => niPort n = some (r, e))

/-- The request of a header. -/
def hdrReq (p h0 h1 : Nat) : Unanswered :=
  ⟨BitVec.ofNat 10 (bits h0 41 32), BitVec.ofNat 12 (bits h0 53 42), ⟨bits h1 5 4 % 4, Nat.mod_lt _ (by decide)⟩, topOf (bits h1 3 0),
    clsOf (bits h0 30 28), decide (p % 2 = 1), BitVec.ofNat 42 (bits h1 53 12), 0⟩

/-- The payload of a response with its poison bits. -/
def rspData (h1 : Nat) (data : List Sector) : List (Sector × Bool) :=
  (List.zip (List.range data.length) data).map (fun d => (d.2, bit h1 (9 + d.1)))

/-- A response at its NI: absorbed by the bung, discarded where nobody waits for it, else it completes its tag. -/
def State.rspArrive (s : State) (n h0 h1 : Nat) (data : List Sector) : State :=
  if s.bunged n then s.bungCount n 1
  else match (s.niOf n).tags.find? (fun t => t.tag.toNat = bits h0 53 42) with
    | none => s.modTrellis (fun t => {t with rspDisc := t.rspDisc + 1})
    | some t =>
      let done := s.modNi n (fun i => {i with tags := i.tags.erase t})
      if bit h0 54 then done.localDone n t .hdrerr
      else if bits h1 22 13 ≠ n then s.modTrellis (fun t => {t with rspDisc := t.rspDisc + 1})
      else done.handRsp n t (statusOf (bits h1 8 6)) (rspData h1 data)

/-- A request handed to its endpoint: over the die link of a linked die, but a graft's gate takes it itself. -/
def State.handReq (s : State) (n h0 h1 : Nat) (data : List Sector) : State :=
  match niLink n, (s.niOf n).record.find? (fun u => u.src.toNat = bits h0 41 32 && u.tag.toNat = bits h0 53 42) with
  | some (a, m), some u =>
    if a < 16 && s.isGraft a then s
    else s.linkSend a (s.moduleFor a m) false ⟨frameHalf0 (bits h0 30 28) false (bits h1 3 0) (bits h1 5 4) u.ltag.toNat 0 0
      (bit h1 54) (!data.isEmpty), frameHalf1 (bits h1 53 12) (bits h1 11 6), data⟩
  | _, _ => s

/-- A request at its NI: answered there when its bung is engaged, its half 1 bad or its address another's, else recorded
and handed on. -/
def State.reqArrive (s : State) (n p h0 h1 : Nat) (data : List Sector) : State :=
  let u := hdrReq p h0 h1
  if s.bunged n then (s.turnAway n u .bunged).bungCount n 1
  else if bit h0 54 then s.turnAway n u .hdrerr
  else if isTaster n || !s.ownsAddr n u.op (bit h1 54) u.addr.toNat then s.turnAway n u .noowner
  else (s.recordAs n u).handReq n h0 h1 data

/-- A packet at its eport. -/
def State.deliver (s : State) (r p h0 h1 : Nat) (data : List Sector) : State :=
  let e := bits h0 27 24
  match portNi r e with
  | none => s
  | some n =>
    let s := s.emit (.packet (routerId r) (planeOf p) (outLocal e) (codeHalf h0) (codeHalf h1) data)
    if bit h0 55 then s.rspArrive n h0 h1 data else s.reqArrive n p h0 h1 data

/-! ### Buffers and arbitration (R235–R237) -/

/-- Where a packet leaves a router: the direction of its first leg that is not used up, else its eport (R230). -/
def outputOf (h0 : Nat) : Nat :=
  match (List.range 4).find? (fun i => bits h0 (6 * i + 3) (6 * i) ≠ 0) with
  | some i => bits h0 (6 * i + 5) (6 * i + 4)
  | none => outLocal (bits h0 27 24)
/-- Half 0 with one hop of that leg consumed. -/
def hopped (h0 : Nat) : Nat :=
  match (List.range 4).find? (fun i => bits h0 (6 * i + 3) (6 * i) ≠ 0) with
  | some i => h0 - 2 ^ (6 * i)
  | none => h0

/-- Flits of a packet, and of a list of packets (R222). -/
def Pkt.flits (k : Pkt) : Nat := if 2 < k.data.length then 2 else 1
def flitsOf (ks : List Pkt) : Nat := (ks.map Pkt.flits).foldl (· + ·) 0

/-- Depth of a mesh port's input buffer in flits: 2.5 times as much at a field seam. -/
def bufDepth (p vc : Nat) (seam : Bool) : Nat :=
  let d := if 2 ≤ p then 24 else match vc with | 0 => 4 | 1 => 16 | _ => 8
  if seam then 5 * d / 2 else d

/-- Flits sent towards a VC's buffer and still there. -/
def Trellis.filled (t : Trellis) (w p vc : Nat) : Nat :=
  flitsOf ((tget [] t.wire w).filter (fun k => vcOf p k.h0 k.h1 = vc)) + flitsOf (tget [] t.buf (3 * w + vc))

/-- Whether an output takes a packet now: the next router has credit for it; an NI takes every response, and a request
while fewer than 4,096 are unanswered (R235, R238). -/
def State.takes (s : State) (r p : Nat) (k : Pkt) : Bool :=
  let o := outputOf k.h0
  if o < 4 then
    match neighbour r o with
    | none => true
    | some r' =>
      let vc := vcOf p k.h0 k.h1
      s.trellis.filled (wireKey r' ((o + 2) % 4) p) p vc + k.flits
        ≤ bufDepth p vc (decide (fieldOfRouter r ≠ fieldOfRouter r'))
  else match portNi r (o - 4) with
    | some n => bit k.h0 55 || s.bunged n || (s.niOf n).record.length < 4096
    | none => true

/-- The head of an input buffer, with the buffer's number. -/
structure Head where
  key : Nat
  pkt : Pkt
  deriving DecidableEq, Repr

def Head.router (h : Head) : Nat := h.key / 240
def Head.plane (h : Head) : Nat := h.key / 3 % 4
/-- The output it waits for. -/
def Head.out (h : Head) : Nat := 80 * h.router + 4 * outputOf h.pkt.h0 + h.plane
def Head.vc (h : Head) : Nat := h.key % 3

/-- The heads that could leave now. -/
def State.movable (s : State) : List Head :=
  s.trellis.buf.filterMap (fun b => match b.2 with
    | k :: _ => if s.takes (b.1 / 240) (b.1 / 3 % 4) k then some ⟨b.1, k⟩ else none
    | [] => none)

/-- Round robin: the first buffer after the one served last. -/
def nextRound (last : Nat) (hs : List Head) : Option Head :=
  match hs.find? (fun h => last < h.key) with | some h => some h | none => hs.head?

/-- The head that has waited longest. -/
def oldest : List Head → Option Head
  | [] => none
  | h :: l => match oldest l with | some g => if g.pkt.since < h.pkt.since then some g else some h | none => some h

/-- An output's choice: a packet 512 cycles (256 ns) at the head of its VC, oldest first; then VC0; then `pri` = 1; then
`pri` = 0; round robin within each (R236). -/
def choose (now last : Nat) (hs : List Head) : Option Head :=
  let aged := hs.filter (fun h => h.pkt.since + 256 ≤ now)
  let vc0 := hs.filter (fun h => h.vc = 0)
  let high := hs.filter (fun h => bit h.pkt.h0 31)
  if !aged.isEmpty then oldest aged
  else if !vc0.isEmpty then nextRound last vc0
  else if !high.isEmpty then nextRound last high
  else nextRound last hs

/-- A buffer's head taken out; the packet behind it waits at the head from now on. -/
def Trellis.pop (t : Trellis) (key now : Nat) : Trellis :=
  match tget [] t.buf key with
  | _ :: k :: l => {t with buf := tput t.buf key ({k with since := now} :: l)}
  | _ => {t with buf := tdel t.buf key}

/-- A packet leaves its router: over a link, or into its eport. A packet routed over the mesh edge is lost. -/
def State.leave (s : State) (h : Head) : State :=
  let r := h.router
  let p := h.plane
  let k := h.pkt
  let o := outputOf k.h0
  let s := s.modTrellis (fun t => {t.pop h.key s.now with rr := tput t.rr h.out h.key})
  if o < 4 then
    match neighbour r o with
    | none => s
    | some r' =>
      let h0 := hopped k.h0
      (s.modTrellis (fun t => {t with
        wire := tmod [] t.wire (wireKey r' ((o + 2) % 4) p) (· ++ [{k with h0 := h0, since := s.now}])})).emit
        (.packet (routerId r) (planeOf p) o (codeHalf h0) (codeHalf k.h1) k.data)
  else s.deliver r p k.h0 k.h1 k.data

/-- Packets leave their routers, one after another, while an output can take one. -/
def State.trellisGo : Nat → State → State
  | 0, s => s
  | n + 1, s =>
    match s.movable with
    | [] => s
    | h :: hs =>
      match choose s.now (tget 0 s.trellis.rr h.out) ((h :: hs).filter (fun g => g.out = h.out)) with
      | some g => State.trellisGo n (s.leave g)
      | none => s

/-- Packets in input buffers. -/
def Trellis.waiting (t : Trellis) : Nat := (t.buf.map (fun b => b.2.length)).foldl (· + ·) 0

/-- Every packet that can leave its router does. -/
def State.trellisRun (s : State) : State := s.trellisGo s.trellis.waiting

/-! ### Reception (R229) -/

/-- Whether a half seen at a receiver is the half sent, but for as many bit errors as the code can tell (R228). -/
def sameHalf (sent : Nat) (seen : Word) : Bool :=
  ((List.range 64).filter (fun i => (codeHalf sent ^^^ seen).getLsbD i)).length ≤ 2

/-- The packet sent that a receiver sees. -/
def Pkt.seenAs (k : Pkt) (h0 h1 : Word) (data : List Sector) : Bool :=
  sameHalf k.h0 h0 && sameHalf k.h1 h1 && k.data.length = data.length

/-- The wires of an input: a link's one, or those of the 16 eports. -/
def inputWires (r input p : Nat) : List Nat :=
  if input < 4 then [wireKey r input p] else (List.range 16).map (fun e => wireKey r (4 + e) p)

/-- A packet received: its halves corrected and counted, shown to the taster, put into the buffer of its VC. -/
def State.receive (s : State) (r p input : Nat) (h0 h1 : Word) (data : List Sector) : State :=
  let (a, ea) := decodeHalf h0
  let (b, eb) := decodeHalf h1
  let s := s.hdrCorrected r p input (b2n (decide (ea = .corrected)) + b2n (decide (eb = .corrected)))
  if ea = .bad then (s.modTrellis (fun t => {t with h0Disc := t.h0Disc + 1})).hdrBad r p input
  else
    let s := if eb = .bad then (s.modTrellis (fun t => {t with hbadFwd := t.hbadFwd + 1})).hdrBad r p input else s
    let a := if eb = .bad then a ||| 2 ^ 54 else a
    let s := s.taste r p input a b
    let i := if input < 4 then input else 4 + eportOf (bits a 41 32)
    s.modTrellis (fun t => {t with buf := tmod [] t.buf (3 * wireKey r i p + vcOf p a b) (· ++ [⟨a, b, data, s.now⟩])})

/-- ROUTER_RECEIVE: the packet is the one sent first of those still on the input's wire, as the wire delivers it; where
nothing was sent it is taken as it comes (DESIGN CHOICE, log 44). -/
def execRouterReceive (r : RouterId) (p : Plane) (input : Fin 5) (h0 h1 : Word) (payload : List Sector) (s : State) : Res :=
  let ws := (inputWires r.val input.val p.val).filter (fun w => !(tget [] s.trellis.wire w).isEmpty)
  .next (if ws.isEmpty then (s.receive r.val p.val input.val h0 h1 payload).trellisRun
    else match ws.find? (fun w => (tget [] s.trellis.wire w).head?.any (·.seenAs h0 h1 payload)) with
      | none => s
      | some w =>
        let rest := (tget [] s.trellis.wire w).drop 1
        ((s.modTrellis (fun t => {t with wire := if rest.isEmpty then tdel t.wire w else tput t.wire w rest})).receive r.val p.val
          input.val h0 h1 payload).trellisRun)

/-! ### Bungs and resets (R241–R244) -/

/-- BUNG_REG_WRITE. -/
def execBungRegWrite (who : Who) (ni : NI) (v : Word) (s : State) : Res :=
  .next (s.mgmtWrite who (fun s =>
    if !niExists ni.toNat then s
    else
      let s := s.modNi ni.toNat (fun i => {i with hold := v.getLsbD 1})
      if v.getLsbD 1 then s.bungEngage ni.toNat else s))

/-- BUNG_RELEASE. -/
def execBungRelease (ni : NI) (s : State) : Res := .next (s.bungRelease ni.toNat)

/-! ### Retirement (R249) -/

/-- Every route of up to four legs between two routers that R231's turns allow. -/
def routesBetween (r0 r1 : Nat) : List Nat :=
  let x0 := r0 % 12
  let y0 := r0 / 12
  let x1 := r1 % 12
  let y1 := r1 / 12
  let v := fun (a b : Nat) => if b ≤ a then (a - b, 0) else (b - a, 2)
  let es := fun (w : Nat) => x1 - (x0 - w)
  let ws := (List.range (x0 + 1)).filter (fun w => x0 - w ≤ x1)
  let all := ws.flatMap (fun w =>
    let e := es w
    let pre := if w = 0 then [] else [(w, 3)]
    ((List.range 16).map (fun ym => pre ++ [v y0 ym, (e, 1), v ym y1]))
    ++ ((List.range (e + 1)).map (fun e1 => pre ++ [(e1, 1), v y0 y1, (e - e1, 1)]))
    ++ (if w = 0 then (List.range (e + 1)).flatMap (fun e1 => (List.range 16).flatMap (fun ym =>
          [[(e1, 1), v y0 ym, (e - e1, 1), v ym y1], [v y0 ym, (e1, 1), v ym y1, (e - e1, 1)]])) else []))
  all.map (fun ls => routeOfLegs (ls.filter (fun l => l.1 ≠ 0)))

/-- An entry rewritten to avoid a link on a plane: by another valid route, which one is not fixed, or by the other plane
of the pair (R249). -/
def State.reroute (s : State) (ni d v r p dir : Nat) : Nat :=
  let r0 := ((niPort ni).getD (0, 0)).1
  let r1 := ((niPort d).getD (0, 0)).1
  let uses := fun (route : Nat) => match routePath r0 (legs route) with
    | some (_, path) => path.contains (r, dir)
    | none => false
  if !bit v 51 || !(entryPlanes v).contains p || !uses (entrySel v) then v
  else
    let cs := (routesBetween r0 r1).filter (fun c => !uses c && s.routeValid ni d c (entryPlanes v))
    match cs[Config.freeNat s.freeCtr (1024 * ni + d) % cs.length]? with
    | some c =>
      if bit v 48 then v - 2 ^ 24 * bits v 47 24 + 2 ^ 24 * c else v - bits v 23 0 + c
    | none => v % 2 ^ 49 + 2 ^ 49 * (if p % 2 = 0 then 2 else 1) + 2 ^ 51

/-- A router with every mesh link, into it and out of it, retired on every plane: its endpoints are fenced (R249). -/
def State.cutOff (s : State) (r : Nat) : State :=
  let live := (List.range 4).any (fun p => (List.range 4).any (fun d => match neighbour r d with
    | some r' => (s.lnk r p d).insvc || (s.lnk r' p ((d + 2) % 4)).insvc
    | none => false))
  if live then s
  else
    ((List.range 0x2C0).filter (fun n => (niPort n).any (fun a => a.1 = r))).foldl (fun s n =>
      if n < 0x80 then
        let x : Site := ⟨n / 8 % 16, Nat.mod_lt _ (by decide)⟩
        if (s.linkOf x.val).fenced then s else s.siteFence x 0x2500
      else if n < 0xE0 then
        let k : CaskId := ⟨(n - 0x80) / 8 % 12, Nat.mod_lt _ (by decide)⟩
        if (s.caskOf k.val).fenced then s else s.caskFence k 0x2500
      else (s.modNi n (fun i => {i with hold := true})).bungEngage n) s

/-- Route-table entries and waiting changes of them rewritten to avoid a link on a plane (R249). -/
def State.rerouteAll (s : State) (r p d : Nat) : State :=
  let s := s.trellis.route.foldl (fun s e =>
    let v := s.reroute (e.1 / 1024) (e.1 % 1024) e.2.toNat r p d
    if v = e.2.toNat || thas (s.niOf (e.1 / 1024)).change (e.1 % 1024) then s
    else s.routeSet (e.1 / 1024) (e.1 % 1024) (BitVec.ofNat 64 v)) s
  s.trellis.ni.foldl (fun s n => n.2.change.foldl (fun s c =>
    s.modNi n.1 (fun i => {i with change := tput i.change c.1 (BitVec.ofNat 64 (s.reroute n.1 c.1 c.2.toNat r p d))})) s) s

/-- A link retired on one plane (R249). -/
def State.linkRetire (s : State) (r p d : Nat) : State :=
  if (neighbour r d).isNone || !(s.lnk r p d).insvc then s
  else
    let s := (s.rerouteAll r p d).bump.modLnk r p d (fun l => {l with insvc := false})
    let s := s.modTrellis (fun t => {t with retired := t.retired ++ [linkKey r p d]})
    ((s.logEvent 1 dieHub 0x2500 (linkKey r p d) 0).cutOff r).cutOff ((neighbour r d).getD r)

/-- LINK_RETIRE: of a link seen to be unfit. -/
def execLinkRetire (r : RouterId) (p : Plane) (d : Dir) (s : State) : Res :=
  .next (if (s.lnk r.val p.val d.val).unfit then s.linkRetire r.val p.val d.val else s)

/-- LINK_HEALTH_WINDOW_END: the link is judged, and what is older than a second no longer counts. -/
def execLinkHealthWindowEnd (r : RouterId) (p : Plane) (d : Dir) (s : State) : Res :=
  let s' := s.modLnk r.val p.val d.val (fun l =>
    {l with corrAt := lastSecond s.now l.corrAt, misAt := lastSecond s.now l.misAt})
  .next (if (s.lnk r.val p.val d.val).unfit then s'.linkRetire r.val p.val d.val else s')

/-- IDLE_PATTERN_CHECK. -/
def execIdlePatternCheck (r : RouterId) (p : Plane) (d : Dir) (ok : Bool) (s : State) : Res :=
  .next (if ok || (neighbour r.val d.val).isNone then s
    else (s.modTrellis (fun t => {t with patMis := t.patMis + 1})).modLnk r.val p.val d.val (fun l => l.mismatched s.now))

end Sys2Proof.Machine
end

