-- ==== Sys2Proof/Machine/DieLink.lean ====
section
/-! DEFINITION. The die links (R292–R316): frames, lost frames, sideband messages, training, judgement. -/

namespace Sys2Proof.Machine

/-! ### Dies and modules -/

/-- The die index (subindex of OD 0x2E01 − 1) of a link block. -/
def linkDie (a : Nat) : Nat := if a < 16 then a else 12 + a
/-- The domain of a link block. -/
def linkDomain (a : Nat) : Domain :=
  if a < 16 then .site ⟨a % 16, Nat.mod_lt _ (by decide)⟩ else if a = 16 then .ep .ioa else if a = 17 then .ep .iob else .mgd
/-- The width a direction trained at (R294, R303). -/
def LinkDir.width (d : LinkDir) (a : Nat) : Nat := (if a < 16 then 64 else 16) / (if d.half then 2 else 1)

/-! ### Receiving frames (R295–R298, R309, R314) -/

def sat16 (v : BitVec 16) (n : Nat) : BitVec 16 := BitVec.ofNat 16 (satAdd 0xFFFF v.toNat n)
def sat8 (v : Byte) (n : Nat) : Byte := BitVec.ofNat 8 (satAdd 0xFF v.toNat n)

/-- The bit of a half that was corrected. -/
def correctedBit (h : Word) : Nat := (codeHalf (decodeHalf h).1 ^^^ h).toNat.log2

/-- A corrected half of a control word, its bit counted to its lane. -/
def State.laneCorrected (s : State) (a m : Nat) (toHub : Bool) (pos : Nat) : State :=
  let now := s.now / 10 ^ 9
  (s.modDir a m toHub (fun d =>
    let l := pos % d.width a
    let sec := if d.sec.1 = now then d.sec.2 else []
    { d with corr := sat16 d.corr 1, odCorr := d.odCorr + 1, lcnt := tmod 0 d.lcnt l (fun c => sat16 c 1),
             sec := (now, tmod 0 sec l (· + 1)), hour := tmod 0 d.hour l (· + 1) })).logEvent 1 (linkDie a) (0x2810 + a) m 0

/-- n frames or entries lost, and LOST sent for each (R298, R301). -/
def State.lostSend (s : State) (a m : Nat) (toHub : Bool) (lost : List (Nat × Nat)) : State :=
  let minor := match (s.linkOf a).ident with | some i => i.2.2.1 | none => 2
  let s := s.modDir a m toHub (fun d => {d with lost := sat16 d.lost lost.length, odUnc := d.odUnc + lost.length})
  lost.foldl (fun s l => s.emit (.sideband (linkId a) (!toHub) 0x21 (m + 8 * l.1 + 2 ^ 15 * (if minor = 0 then 31 else l.2)))) s

/-- An uncorrectable half counted: evidence for an urgent retrain (R311). -/
def State.halfBad (s : State) (a m : Nat) (toHub : Bool) : State :=
  ((s.modDir a m toHub (fun d => {d with unc := sat16 d.unc 1, odUnc := d.odUnc + 1})).modMod a m
    (fun x => {x with urgent := x.urgent + 1})).logEvent 2 (linkDie a) (0x2810 + a) m 0

/-- A receiver takes a command out of its buffers: the credits of a primary request are freed, unless its graft's freeze
withholds them (R297, R335); a response frees what its request held at the other end. -/
def State.takeOut (s : State) (a m : Nat) (toHub : Bool) (h0 n : Nat) : State :=
  let held := toHub && s.isGraft a && (s.gateOf a).held
  let n := BitVec.ofNat 10 n
  let tag := BitVec.ofNat 12 (bits h0 23 12)
  match creditOf h0 with
  | .primary => s.modDir a m toHub (fun d =>
      if held then {d with owedCmd := d.owedCmd + 1, owedSec := d.owedSec + n}
      else {d with freedCmd := d.freedCmd + 1, freedSec := d.freedSec + n})
  | .free => (s.modDir a m (!toHub) (fun d =>
      {d with ctlTags := d.ctlTags.erase tag, secTags := d.secTags.erase tag})).linkDrain a m (!toHub)
  | _ => s

/-- The NI of a die that takes a request in from one of its modules: by the address, where the module carries another's work
too (R306, R316). -/
def State.niOn (s : State) (a m : Nat) (op : TOp) (pa : Nat) : Nat :=
  let own := if a < 16 then l2Module pa else if a < 18 then bits pa 9 8 else 0
  linkNi a (if op ≠ .msg && s.moduleFor a own = m then own else m)

/-- A die's request as its frame carries it. Of what kind its target is, its class says; a message of a die is for the
translation service of the address in it (R221, R295, R395). -/
def frameReq (a h0 h1 : Nat) (data : List Sector) : NReq :=
  let op := topOf (bits h0 9 6)
  let w := (nth 0 data 0).toNat
  let dst := if op = .msg then niService (tcBank (bits w 63 0) (bits w 75 64)) 0
    else if a < 16 && bits h0 4 2 = 3 then niEp .ioa 0 else 0x80
  ⟨op, .bulk, ⟨bits h0 11 10 % 4, Nat.mod_lt _ (by decide)⟩, BitVec.ofNat 10 dst, BitVec.ofNat 42 h1, BitVec.ofNat 6 (bits h1 47 42),
    BitVec.ofNat 12 (bits h0 23 12), false⟩

/-- The unanswered request of the trellis that a module's link names by a tag, with its NI. -/
def State.linkEntry (s : State) (a m : Nat) (tag : Nat) : Option (Nat × Unanswered) :=
  (s.nisOn a m).findSome? (fun n => ((s.niOf n).record.find? (fun u => u.ltag.toNat = tag)).map (n, ·))

/-- What the adapter makes of a die's command: a request, or the response to one, of the trellis (R296, R298). -/
def State.adapterTake (s : State) (a m : Nat) (h0 h1 : Nat) (data : List Sector) (hbad : Bool) : State :=
  if bit h0 5 then
    match s.linkEntry a m (bits h0 23 12) with
    | none => s
    | some (n, u) =>
      (s.modNi n (fun i => {i with record := i.record.erase u})).respond n u (statusOf (bits h0 30 28))
        ((List.zip (List.range data.length) data).map (fun d => (d.2, bit h0 (24 + d.1)))) hbad
  else
    let q := frameReq a h0 h1 data
    s.inject (s.niOn a m q.op (64 * q.addr.toNat)) q hbad data

/-- What a die answers by itself: a request whose half 1 is bad (R229), a SNP of a reserved type, which changes nothing
(R260). -/
def State.dieTake (s : State) (a m : Nat) (h0 h1 : Nat) (hbad : Bool) : State :=
  if bit h0 5 then s
  else match s.linkEntry a m (bits h0 23 12) with
    | none => s
    | some (n, u) =>
      if hbad then s.dieAnswer n u .hdrerr []
      else if u.op = .snp && bits h1 47 42 ≠ 0 then (s.snpOddCount u.addr.toNat).dieAnswer n u .ok []
      else s

/-- A command handed on in order (R296): to the adapter's NIs or to the die; a graft's go to its gate, or to the graft. -/
def State.handOn (s : State) (a m : Nat) (toHub : Bool) (h0 h1 : Nat) (data : List Sector) (hbad : Bool) : State :=
  let s := (s.takeOut a m toHub h0 data.length).emit (.frameCmd (linkId a) (modId m) toHub h0 h1 data hbad)
  if a < 16 && s.isGraft a then s
  else if toHub then s.adapterTake a m h0 h1 data hbad
  else s.dieTake a m h0 h1 hbad

/-- Entry j of a CMD frame: its halves as words. -/
def frameEntry (payload : List Sector) (j : Nat) : Word × Word :=
  let v := (sectorAt payload (j / 4)).toNat >>> (128 * (j % 4))
  (BitVec.ofNat 64 v, BitVec.ofNat 64 (v >>> 64))

/-- One entry of a CMD frame (R298). -/
def State.takeEntry (s : State) (a m : Nat) (toHub : Bool) (seq j : Nat) (e : Word × Word) : State :=
  let (h0, e0) := decodeHalf e.1
  let (h1, e1) := decodeHalf e.2
  let n := b2n (decide (e0 = .corrected)) + b2n (decide (e1 = .corrected))
  let s := if n = 0 then s else s.modDir a m toHub (fun d => {d with ecorr := sat8 d.ecorr n, odCorr := d.odCorr + n})
  if e0 = .bad then (s.halfBad a m toHub).lostSend a m toHub [(seq, j)]
  else
    let s := if e1 = .bad then s.halfBad a m toHub else s
    if h0 % 4 = 2 then s.handOn a m toHub h0 h1 [] (decide (e1 = .bad)) else s

/-- FRAME_RECEIVE: by the receiver of a direction of a module that is up. -/
def execFrameReceive (a : LinkId) (m : Fin 8) (toHub : Bool) (cw0 cw1 : Word) (payload : List Sector) (s : State) : Res :=
  let d := s.dirOf a.val m.val toHub
  let (h0, e0) := decodeHalf cw0
  let (h1, e1) := decodeHalf cw1
  let next := match d.rxSeq with | some q => q + 1 | none => BitVec.ofNat 12 (256 * bits h0 55 52 + bits h1 55 48)
  .next (if (s.modOf a.val m.val).st = .idle || (s.modOf a.val m.val).st = .absent then s
    else
      let s := if e0 = .corrected then s.laneCorrected a.val m.val toHub (correctedBit cw0) else s
      let s := if e1 = .corrected then s.laneCorrected a.val m.val toHub (64 + correctedBit cw1) else s
      if e0 = .bad then
        ((s.halfBad a.val m.val toHub).modDir a.val m.val toHub (fun d => {d with rxSeq := some next})).lostSend a.val m.val
          toHub [(next.toNat, 31)]
      else
        let s := if e1 = .bad then s.halfBad a.val m.val toHub else s
        let seq : BitVec 12 := if e1 = .bad then next else BitVec.ofNat 12 (256 * bits h0 55 52 + bits h1 55 48)
        let gap := (List.range (seq - next).toNat).map (fun i => ((next + BitVec.ofNat 12 i).toNat, 31))
        let gap := if d.rxSeq.isNone then [] else gap
        let s := if gap.isEmpty then s else s.lostSend a.val m.val toHub gap
        let s := s.modDir a.val m.val toHub (fun d => { d with
          rxSeq := some seq, ccmd := BitVec.ofNat 10 (bits h0 41 32), csec := BitVec.ofNat 10 (bits h0 51 42) })
        let s := s.linkDrain a.val m.val (!toHub)
        match h0 % 4 with
        | 1 => s.handOn a.val m.val toHub (h0 % 2 ^ 32) (h1 % 2 ^ 48) (payload.take (bits h0 11 10 + 1)) (decide (e1 = .bad))
        | 2 =>
          let s := s.handOn a.val m.val toHub (h0 % 2 ^ 32) (h1 % 2 ^ 48) [] (decide (e1 = .bad))
          (List.range 16).foldl (fun s j => s.takeEntry a.val m.val toHub seq.toNat j (frameEntry payload j)) s
        | _ => s)

/-! ### Lost commands at their sender (R299) -/

/-- What a sender does for one lost command. -/
def State.lostCommand (s : State) (a m : Nat) (toHub : Bool) (c : LinkCmd) : State :=
  let s := s.modDir a m toHub (·.unsent c)
  if c.data.isEmpty then s.linkSend a m toHub c
  else if bit c.h0 5 then
    s.linkSend a m toHub ⟨c.h0 - 2 ^ 24 * bits c.h0 27 24 + 2 ^ 24 * 15, c.h1, c.data.map (fun _ => 0)⟩
  else
    -- a request with data is answered HDRERR to its own requester
    let ni := linkNi a m
    if toHub then s.emit (.rsp ni ni c.tag.toNat .hdrerr [])
    else if a < 16 && s.isGraft a then
      match (s.gateOf a).into.find? (fun i => i.m.val = m && i.tag = c.tag) with
      | some i =>
        let x : Site := ⟨a % 16, Nat.mod_lt _ (by decide)⟩
        ((s.modGate a (fun g => {g with into := g.into.erase i})).answerInto x i .hdrerr []).apertureNext x
      | none => s
    else match s.linkEntry a m c.tag.toNat with
      | some (n, u) => (s.emit (.rsp n u.src.toNat u.tag.toNat .hdrerr [])).answerAs n u .hdrerr []
      | none => s

/-- LOST: frames or entries of the direction `toHub` were lost; the message names the module. -/
def execLost (a : LinkId) (_m : Fin 8) (toHub : Bool) (w : Word) (s : State) : Res :=
  let n := w.toNat
  let m := bits n 2 0
  let e := bits n 19 15
  .next (match (s.dirOf a.val m toHub).hist.find? (fun f => f.1.toNat = bits n 14 3) with
    | none => s
    | some f => if e = 31 then s.lostCommand a.val m toHub f.2 else s)

/-! ### Sideband messages (R301, R302, R466, R469) -/

/-- The kind a die's IDENT must name. -/
def State.expectKind (s : State) (a : Nat) : Nat := if a < 16 then b2n (s.isGraft a) else a - 14

/-- An endpoint's die that does not come up is fenced, and its endpoint stays down (R316, R466). -/
def State.epGone (s : State) (e : Ep) (code : Nat) : State :=
  let s := ((s.bungAll (.ep e)).nisDown (.ep e)).modEp e (fun h => {h with linkUp := false, started := false})
  ((s.modLink (16 + e.code) (fun l => {l with fenced := true})).wear (dieEp e) 3).logEvent 3 (dieEp e) code e.code 0

/-- A die that must not join: fenced, with its result (R466, R469). -/
def State.rejectDie (s : State) (a r : Nat) : State :=
  let s := s.siteResult (linkDie a) r
  match linkDomain a with
  | .site x => s.siteFence x (0x2810 + a)
  | .ep e => s.epGone e (0x2810 + a)
  | d => (s.bungAll d).wear (linkDie a) 3

/-- IDENT. A die that joins is told the minor version in force (R469). -/
def execIdent (a : LinkId) (w : Word) (s : State) : Res :=
  let n := w.toNat
  let i := linkDie a.val
  let s := s.modLink a.val (fun l => { l with
    ident := some (bits n 3 0, bits n 11 4, bits n 19 12, bits n 31 20, bits n 47 32), idreqs := 0 })
  let v := tget 0 s.boot.site i % 16 + 16 * bits n 11 4 + 2 ^ 12 * min (bits n 19 12) 2 + 2 ^ 20 * bits n 31 20
  let s := {s with boot := {s.boot with site := tput s.boot.site i v}}
  .next (if s.expectKind a.val = 1 then s      -- admission decides
    else if bits n 3 0 ≠ s.expectKind a.val then s.rejectDie a.val 4
    else if 1 < bits n 11 4 then s.rejectDie a.val 5
    else if bits n 11 4 < 1 then s.rejectDie a.val 6
    else s.emit (.sideband a false 0x05 (2 + 2 ^ 16 * min (bits n 19 12) 2)))

/-- IDREQ: the die answers IDENT; its versions and revision are its own. -/
def execIdreq (a : LinkId) (s : State) : Res :=
  .next (if a.val < 16 && s.isGraft a.val && !s.populated a.val then s
    else s.bump.emit (.sideband a true 0x01 (s.expectKind a.val + 16 * (Config.freeNat s.freeCtr 11 % 2 ^ 44))))

/-- IDENT_TIMEOUT: IDREQ up to three times; then the test path, which a dead die does not answer. -/
def execIdentTimeout (a : LinkId) (s : State) : Res :=
  let l := s.linkOf a.val
  .next (if l.ident.isSome then s
    else if l.idreqs < 3 then (s.modLink a.val (fun l => {l with idreqs := l.idreqs + 1})).emit (.sideband a false 0x02 0)
    else if a.val < 16 && s.isGraft a.val then s
    else if a.val = 18 then {s with boot := {s.boot with cause := 3}, power := {s.power with fault := true}}
    else s.bump.rejectDie a.val (if Config.byteChoice s.freeCtr 12 then 2 else 3))

/-- CAPRD: the graft returns the word, which is its own. The hub has one outstanding at a time (R302). -/
def execCaprd (x : Site) (idx : Byte) (s : State) : Res :=
  .next (if !s.isGraft x.val || !s.populated x.val || (s.linkOf x.val).caprd.isSome then s
    else
      let s' := s.bump.modLink x.val (fun l => {l with caprd := some idx.toNat})
      s'.emit (.sideband (linkId x.val) true 0x04 (Config.freeNat s.freeCtr (64 + idx.toNat) % 2 ^ 64)))

/-- CAPDAT: the answer to the outstanding CAPRD. -/
def execCapdat (x : Site) (w : Word) (s : State) : Res :=
  .next (match (s.linkOf x.val).caprd with
    | none => s
    | some i =>
      (s.modLink x.val (fun l => {l with caprd := none})).modGate x.val (fun g => {g with cap := tput g.cap i w}))

/-- CAPSET: the graft takes a setting it knows, and acknowledges it with 0 otherwise; whether it accepts a known one is
its own. A Bambipin die accepts `pver` (R469). -/
def execCapset (x : Site) (w : Word) (s : State) : Res :=
  let i := bits w.toNat 15 0
  let known := 1 ≤ i && i ≤ 5
  .next (if s.isGraft x.val && !s.populated x.val then s
    else
      let ok := if s.isGraft x.val then known && Config.byteChoice s.freeCtr i else i = 2
      (s.bump.modGate x.val (fun g => if ok then {g with setting := tput g.setting i (bits w.toNat 63 16)} else g)).emit
        (.sideband (linkId x.val) true 0x06 (i + 2 ^ 16 * b2n ok)))

/-- CAPACK: a setting not accepted fails the admission (R320). -/
def execCapack (x : Site) (w : Word) (s : State) : Res :=
  .next (if s.isGraft x.val && (s.gateOf x.val).st = .admitting && !w.getLsbD 16 then s.graftFence x 6 else s)

/-- FENCE, at a die. -/
def execSidebandFence (a : LinkId) (w : Word) (s : State) : Res :=
  .next (s.modLink a.val (fun l => {l with fenceMask := BitVec.ofNat 9 w.toNat}))

/-- REMAP, at a die. -/
def execRemap (a : LinkId) (w : Word) (s : State) : Res :=
  .next (s.modLink a.val (fun l => {l with remap := BitVec.ofNat 8 w.toNat}))

/-- Codes of R301 by direction. -/
def sidebandKnown (toHub : Bool) (c : Nat) : Bool :=
  if toHub then [0x01, 0x04, 0x06, 0x11, 0x20, 0x21].contains c
  else [0x02, 0x03, 0x05, 0x10, 0x20, 0x21, 0x22, 0x23].contains c

/-- UNKNOWN_SIDEBAND_MESSAGE. -/
def execUnknownSidebandMessage (a : LinkId) (m : Fin 8) (toHub : Bool) (code : Byte) (s : State) : Res :=
  .next (if sidebandKnown toHub code.toNat then s
    else s.modDir a.val m.val toHub (fun d => {d with unk := sat8 d.unk 1}))

/-! ### Training (R303–R308, R316) -/

/-- Absent modules of a die. -/
def State.absentMask (s : State) (a : Nat) : Nat :=
  (List.range (linkModules a)).foldl (fun w m => if (s.modOf a m).st = .absent then w + 2 ^ m else w) 0

/-- A module without a configuration. -/
def Module.gone (m : Module) : Module := {m with st := .absent, rx := {m.rx with spd := 0}, tx := {m.tx with spd := 0}}
/-- A direction as a training after a reset finds it: nothing sent is unanswered, nothing waits. -/
def LinkDir.started (d : LinkDir) : LinkDir := {d with ctlTags := [], secTags := [], wait := []}

/-- LINK_TRAIN: a module named absent by REMAP stays so and its partner carries it; any other trains. -/
def execLinkTrain (a : LinkId) (m : Fin 8) (s : State) : Res :=
  let off := a.val < 16 && (s.linkOf a.val).remap.getLsbD m.val
  let carry := a.val < 16 && (s.linkOf a.val).remap.getLsbD (m.val ^^^ 1)
  .next (if linkModules a.val ≤ m.val then s
    else s.modMod a.val m.val (fun x =>
      let x := {x with rx := {x.rx with carry := carry}, tx := {x.tx with carry := carry}}
      if off then x.gone
      else match x.st with
        | .up | .retraining => {x with st := .retraining}
        | _ => { x with st := .training, step := 0, judged := [], rx := x.rx.started, tx := x.tx.started }))

/-- A direction as a training leaves it: totals and sequence start again; a change of configuration starts its counts and
a new baseline (R297, R310, R314). -/
def LinkDir.trained (d : LinkDir) (r : TrainResult) (u : BitVec 4) (l : BitVec 28) (changed : Bool) : LinkDir :=
  { d with spd := r.spd, half := r.half, hsel := r.hsel, stvuse := u, stvlane := l, txSeq := 0, rxSeq := none, hist := [],
           ccmd := 0, csec := 0, freedCmd := 0, freedSec := 0, owedCmd := 0, owedSec := 0, sentCmd := 0, sentSec := 0, lcnt := if changed then [] else d.lcnt,
           base := d.base || changed, baseln := if changed then none else d.baseln }

/-- The rate a die's modules start at: 32 GT/s, MGD's 16 GT/s (R303). -/
def topRate (a : Nat) : Nat := if a = 18 then 3 else 4

/-- A module with a configuration (R303): the step it stands at counts from the highest. -/
def Module.trained (m : Module) (a : Nat) (r : TrainResult) : Module :=
  let ch := m.rx.spd ≠ r.spd || m.rx.half ≠ r.half || m.rx.hsel ≠ r.hsel || m.rx.stvuse ≠ r.stvuse || m.rx.stvlane ≠ r.stvlane
    || m.tx.stvuse ≠ r.txUse || m.tx.stvlane ≠ r.txLane
  { m with st := .up, rx := m.rx.trained r r.stvuse r.stvlane ch, tx := m.tx.trained r r.txUse r.txLane ch,
           urgent := if ch then 0 else m.urgent, step := 2 * (topRate a - r.spd.val) + b2n r.half }

/-! ### Acceptance and repair (R303–R305) -/

/-- A lane meets every criterion (R304). -/
def lanePasses (l : LaneMeas) : Bool := 15 ≤ l.timing && 150 ≤ l.volts && l.errs = 0

/-- Lanes of half h of a die's module, and its staves: a standard package has none (R305). -/
def halfLanes (a h : Nat) : List Nat := let n := if a < 16 then 32 else 8; (List.range n).map (n * h + ·)
def halfStaves (a h : Nat) : List Nat := if a < 16 then [2 * h, 2 * h + 1] else []

/-- A half of a direction repaired: each failing or judged lane on a stave of the half that passes; none when they do not
suffice. A lane without a measurement fails. -/
def repairHalf (a h : Nat) (ms : List LaneMeas) (judged : List Nat) : Option (List (Nat × Nat)) :=
  let good := fun (i : Nat) => (match ms[i]? with | some l => lanePasses l | none => false) && !judged.contains i
  let n := if a < 16 then 64 else 16
  let bad := (halfLanes a h).filter (fun l => !good l)
  let staves := (halfStaves a h).filter (fun i => good (n + i))
  if bad.length ≤ staves.length then some (List.zip staves bad) else none

/-- Halves of a direction repaired. -/
def repairDir (a : Nat) (hs : List Nat) (ms : List LaneMeas) (judged : List Nat) : Option (List (Nat × Nat)) :=
  hs.foldl (fun r h => match r, repairHalf a h ms judged with
    | some ps, some qs => some (ps ++ qs)
    | _, _ => none) (some [])

/-- Staves in use and the lanes they replace, as `DLCFG` holds them (R314). -/
def staveUse (ps : List (Nat × Nat)) : BitVec 4 := BitVec.ofNat 4 (ps.foldl (fun n p => n + 2 ^ p.1) 0)
def staveLane (ps : List (Nat × Nat)) : BitVec 28 := BitVec.ofNat 28 (ps.foldl (fun n p => n + p.2 * 2 ^ (7 * p.1)) 0)

/-- What a configuration step comes to, as tried: both directions pass at its rate, in full or in one half, the lower where
either does (DESIGN CHOICE, log 44). -/
def Module.tryStep (x : Module) (a n : Nat) (t : TrainTry) : Option TrainResult :=
  let spd := topRate a - n / 2
  let j := fun (d : Bool) => (x.judged.filter (fun p => p.1 = d)).map (·.2)
  let go := fun (hs : List Nat) (hsel : Bool) =>
    match repairDir a hs t.rx (j true), repairDir a hs t.tx (j false) with
    | some r, some t =>
      some (⟨⟨spd % 5, Nat.mod_lt _ (by decide)⟩, decide (n % 2 = 1), hsel, staveUse r, staveLane r, staveUse t, staveLane t⟩ : TrainResult)
    | _, _ => none
  if spd = 0 then none
  else if n % 2 = 0 then go [0, 1] false
  else match go [0] false with | some r => some r | none => go [1] true

/-- The first configuration from a step on that passes (R303). -/
def Module.outcome (x : Module) (a n : Nat) : List TrainTry → Option TrainResult
  | [] => none
  | t :: ts => match x.tryStep a n t with | some r => some r | none => x.outcome a (n + 1) ts

/-- A compute site all of whose modules have finished training (R306, R307, R469): fenced, trained once more, sent REMAP
for its next training, or ready. -/
def State.siteSettled (s : State) (x : Site) : State :=
  let l := s.linkOf x.val
  let abs := s.absentMask x.val
  let pair := (List.range 4).any (fun i => bits abs (2 * i + 1) (2 * i) = 3)
  let old := match l.ident with | some i => i.2.2.1 < 2 | none => false
  let idle := fun (s : State) => s.modLink x.val (fun l => {l with mod := l.mod.map (fun m => (m.1, {m.2 with st := .idle}))})
  if pair || (abs ≠ 0 && old) then
    if l.retried || (abs ≠ 0 && old && !pair) then (s.siteFence x (0x2810 + x.val)).siteResult x.val 7
    else idle ((s.siteCut x).modLink x.val (fun l => {l with retried := true}))
  else
    let s := if abs = 0 then s else s.wear (dieSite x.val) 3
    let s := s.modLink x.val (fun l => {l with retried := false})
    if abs ≠ l.remap.toNat then s.emit (.sideband (linkId x.val) false 0x23 abs)
    else if s.isGraft x.val then s.modGate x.val (fun g => if g.adm || g.fenced then g else {g with st := .admitting})
    else
      let s := s.nisReady (.site x)
      if l.recovering then (s.bungFree (.site x)).modLink x.val (fun l => {l with recovering := false}) else s

/-- A die all of whose modules have finished training (R307, R316). -/
def State.dieSettled (s : State) (a : Nat) : State :=
  if !s.allSettled a || (s.linkOf a).fenced then s
  else match linkDomain a with
    | .site x => s.siteSettled x
    | d =>
      if s.absentMask a = 2 ^ linkModules a - 1 then
        let s := s.siteResult (linkDie a) 7
        match d with
        | .ep e => s.epGone e (0x2810 + a)
        | _ => {s.wear (linkDie a) 3 with boot := {s.boot with cause := 3}}
      else
        let s := s.nisReady d
        if (s.linkOf a).recovering then (s.bungFree d).modLink a (fun l => {l with recovering := false}) else s

/-- A module's training has ended: what it kept back is sent (R312). -/
def State.trainEnd (s : State) (a m : Nat) (r : Option TrainResult) : State :=
  match r with
  | some t => ((s.modMod a m (·.trained a t)).linkDrain a m true).linkDrain a m false
  | none => s.modMod a m Module.gone

/-- LINK_TRAIN_DONE: only of a module that trains: the configurations tried, in order, from the highest, or in a retrain
from the one it stands at (R303, R312). A module that fails a retrain in service is taken up by MODULE_FAILURE. -/
def execLinkTrainDone (a : LinkId) (m : Fin 8) (tries : List TrainTry) (s : State) : Res :=
  let x := s.modOf a.val m.val
  let s' := s.trainEnd a.val m.val (x.outcome a.val x.step tries)
  .next (match x.st with
    | .training => s'.dieSettled a.val
    | .retraining => s'
    | _ => s)

/-! ### Judgement (R309–R313) -/

/-- The hour limit of a lane (R310). -/
def LinkDir.hourLimit (d : LinkDir) (l : Nat) : Nat := match d.baseln with | some b => max 16 (8 * tget 0 b l) | none => 16

/-- A retrain begun: one module of a die at a time, so that judged lanes wait while another one retrains; one already
retraining merges it (R312). Judged lanes are replaced whatever they measure (R311). -/
def State.beginRetrain (s : State) (a m step : Nat) (judged : List (Bool × Nat)) : State :=
  let busy := (List.range (linkModules a)).any (fun i => (s.modOf a i).st = .retraining)
  if (s.modOf a m).st ≠ .up then s
  else if busy then s.modMod a m (fun x => {x with judged := x.judged ++ judged.filter (fun j => !x.judged.contains j)})
  else
    (s.modMod a m (fun x => {x with st := .retraining, step := x.step + step, judged := x.judged ++ judged})).emit
      (.sideband (linkId a) false 0x20 (m + 8))

/-- A logical lane's number at full width: at half width the half in use counts (R314). -/
def LinkDir.fullLane (d : LinkDir) (a lane : Nat) : Nat := lane + (if d.half && d.hsel then (if a < 16 then 32 else 8) else 0)
/-- What carries a logical lane: the lane, or from 64 on the stave that replaces it. -/
def LinkDir.carrier (d : LinkDir) (a lane : Nat) : Nat :=
  let l := d.fullLane a lane
  match (List.range 4).find? (fun i => d.stvuse.getLsbD i && bits d.stvlane.toNat (7 * i + 6) (7 * i) = l) with
  | some i => 64 + i
  | none => l
/-- A lane judged when no stave of its half is free: the module steps on (R311). -/
def LinkDir.staveStep (d : LinkDir) (a : Nat) (lane : Nat) : Nat :=
  let h := d.fullLane a lane / 32
  if 16 ≤ a then 1 else if bits d.stvuse.toNat (2 * h + 1) (2 * h) = 3 then 1 else 0

/-- RETRAIN, in either direction: a request is acknowledged and the module retrains; an acknowledgement stops frames for its
training. -/
def execRetrain (a : LinkId) (toHub : Bool) (w : Word) (s : State) : Res :=
  let n := w.toNat
  let m := bits n 2 0
  .next (if (s.modOf a.val m).st = .up || (s.modOf a.val m).st = .retraining then
      let s := s.modMod a.val m (fun x => {x with st := .retraining})
      if bit n 3 then s.emit (.sideband a (!toHub) 0x20 m) else s
    else s)

/-- LANE_CORRECTED_THRESHOLD: the cellar master is signalled. -/
def execLaneCorrectedThreshold (a : LinkId) (m : Fin 8) (toHub : Bool) (lane : Fin 68) (s : State) : Res :=
  let d := s.dirOf a.val m.val toHub
  .next (if 4 ≤ tget 0 d.sec.2 lane.val then
      (s.logEvent 1 (linkDie a.val) (0x2810 + a.val) m.val lane.val).emit (.event 1 [a.val, m.val, b2n toHub, lane.val])
    else s)

/-- LANE_HOUR_END: lanes above their hour limit are judged; the counts start again. -/
def execLaneHourEnd (a : LinkId) (m : Fin 8) (toHub : Bool) (s : State) : Res :=
  let d := s.dirOf a.val m.val toHub
  let sum := d.hour.foldl (fun n c => n + c.2) 0
  let worst := d.hour.find? (fun c => d.hourLimit c.1 < c.2)
  let s := s.modDir a.val m.val toHub (fun d => {d with hour := [], lastHour := sum})
  let s := s.modMod a.val m.val (fun x => {x with urgent := 0})
  .next (match worst with
    | some c => s.beginRetrain a.val m.val (d.staveStep a.val c.1) [(toHub, d.carrier a.val c.1)]
    | none => s)

/-- BASELINE_CAPTURED: the counts since the configuration began are its baseline. -/
def execBaselineCaptured (a : LinkId) (m : Fin 8) (toHub : Bool) (s : State) : Res :=
  .next (s.modDir a.val m.val toHub (fun d =>
    if d.base then {d with base := false, baseln := some (d.lcnt.map (fun c => (c.1, c.2.toNat)))} else d))

/-- JUDGED_RETRAIN: an urgent one keeps the configuration, unless it is the second of the hour. -/
def execJudgedRetrain (a : LinkId) (m : Fin 8) (urgent : Bool) (s : State) : Res :=
  let x := s.modOf a.val m.val
  let lanes := fun (d : LinkDir) =>
    ((d.sec.2.filter (fun c => 4 ≤ c.2)) ++ d.hour.filter (fun c => d.hourLimit c.1 < c.2)).map (·.1)
  let worst := fun (d : LinkDir) => (lanes d).any (fun l => d.staveStep a.val l = 1)
  let judged := fun (b : Bool) (d : LinkDir) => (lanes d).map (fun l => (b, d.carrier a.val l))
  .next (if urgent then s.beginRetrain a.val m.val (b2n (decide (2 ≤ x.urgent))) []
    else s.beginRetrain a.val m.val (b2n (worst x.rx || worst x.tx)) (judged true x.rx ++ judged false x.tx))

end Sys2Proof.Machine
end

