-- ==== Sys2Proof/Machine/Host.lean ====
section
/-! DEFINITION. The host endpoints (R339–R361): error reporting, host-window requests and their completions, the
aperture, doorbell writes, interrupts, resets. -/

namespace Sys2Proof.Machine

/-! ### Error reporting (R358); bit places of PCIe (PRESUMED, log 8) -/

/-- Bit of an error type in its status register, and whether it is uncorrectable. -/
def pcieErrPlace : PcieErr → Bool × Nat
  | .receiver => (false, 0) | .badTlp => (false, 6) | .badDllp => (false, 7) | .replayRollover => (false, 8)
  | .replayTimer => (false, 12) | .advisory => (false, 13) | .correctedInternal => (false, 14)
  | .headerLogOverflow => (false, 15)
  | .dataLinkProtocol => (true, 4) | .poisonedTlp => (true, 12) | .flowControl => (true, 13) | .cplTimeout => (true, 14)
  | .completerAbort => (true, 15) | .unexpectedCpl => (true, 16) | .receiverOverflow => (true, 17) | .malformed => (true, 18)
  | .unsupportedReq => (true, 20) | .uncorrectableInternal => (true, 22)

/-- The bits of the error types that can occur (R358). -/
def aerUncBits : Nat := 0x57F010
def aerCorBits : Nat := 0xF1C1

/-- A correctable error: recorded, and reported unless masked. -/
def State.aerCorrectable (s : State) (e : Ep) (b : Nat) : State :=
  let m := bit (s.epOf e).aerCorMask b
  let s := s.modEp e (fun h => {h with aerCor := h.aerCor ||| 2 ^ b})
  if m then s else s.emit (.pcieErr e 0)

/-- An error logged; `adv` for an Advisory Non-Fatal Error. The first unmasked uncorrectable error captures its header,
a further one is a Header Log Overflow. -/
def State.aer (s : State) (e : Ep) (x : PcieErr) (adv : Bool := false) : State :=
  match pcieErrPlace x with
  | (false, b) => s.aerCorrectable e b
  | (true, b) =>
    let h := s.epOf e
    let s := s.modEp e (fun h => {h with aerUnc := h.aerUnc ||| 2 ^ b})
    let s := if bit h.aerUncMask b then s
      else if h.aerFirst.isSome then s.aerCorrectable e 15
      else s.modEp e (fun h => {h with aerFirst := some x})
    if adv then s.aerCorrectable e 13
    else if bit h.aerUncMask b then s
    else s.emit (.pcieErr e (if bit h.aerSev b then 2 else 1))

/-! ### Counters (R345) -/

def satHalf (v : Half) : Half := BitVec.ofNat 32 (satAdd 0xFFFFFFFF v.toNat 1)
def State.cwDiscard (s : State) (e : Ep) : State := s.modEp e (fun h => {h with cwdisc := satHalf h.cwdisc})
def State.dbDrop (s : State) (e : Ep) : State := s.modEp e (fun h => {h with dbdisc := satHalf h.dbdisc})
def State.apRefuse (s : State) (e : Ep) : State := s.modEp e (fun h => {h with apref := satHalf h.apref})
def State.hostErr (s : State) (e : Ep) : State := s.modEp e (fun h => {h with hosterr := satHalf h.hosterr})

def epOther : Ep → Ep | .ioa => .iob | .iob => .ioa
/-- What `peer` of the other endpoint shows of this one (R345). -/
def HostEp.peerSeen (h : HostEp) : Bool := h.linkUp && h.bme
/-- A change at an endpoint; the other one's vector 0 fires when its `peer` changes (R356). -/
def State.epChange (s : State) (e : Ep) (f : State → State) : State :=
  let b := (s.epOf e).peerSeen
  let s := f s
  if (s.epOf e).peerSeen = b then s else s.msixTrigger (epOther e) 0

/-! ### Answers to host-window requests (R353) -/

/-- Data as the sectors of a response, each with its poison. -/
def hostSectors (iova : Nat) (data : List Byte) (poison : Bool) : List (Sector × Bool) :=
  (sectorsOf ((iova % 64 + data.length + 63) / 64) (List.replicate (iova % 64) 0 ++ data)).map (fun v => (if poison then 0 else v, poison))

/-- A host-window request answered on the trellis; data for the hub's own agents is kept until they use it. -/
def State.hostAnswer (s : State) (e : Ep) (q : HwReq) (st : Status) (data : List Byte) (poison : Bool) : State :=
  let ni := niEp e (bits q.iova.toNat 9 8)
  let s := s.answer ni q.src.toNat q.tag.toNat st (if q.wr || st ≠ .ok then [] else hostSectors q.iova.toNat data poison)
  if q.wr || (niSiteOf q.src.toNat).isSome then s
  else s.modHub (fun h =>
    let rest := h.hostRd.filter (fun x => decide (x.src ≠ q.src) || decide (x.iova ≠ q.iova.toNat))
    {h with hostRd := rest ++ [⟨q.src, q.iova.toNat, data, poison, st⟩]})

/-- HOSTERR, counted. -/
def State.hostFail (s : State) (e : Ep) (q : HwReq) : State := (s.hostErr e).hostAnswer e q .hosterr [] false

/-- Outcomes returned to the trellis in the order of the outbound queue: every one whose earlier ones are in (R351).
The first list is what stays. -/
def State.returnDone (e : Ep) : State → List Outb → State × List Outb
  | s, .req r :: l =>
    match r.sent, r.res with
    | true, some (st, d, p) =>
      State.returnDone e (if st = .ok then s.hostAnswer e r.r st d p else s.hostFail e r.r) l
    | _, _ => (s, .req r :: l)
  | s, l => (s, l)

/-- The answers that may go out go out, and the freed tags are used. -/
def State.hostReturn (s : State) (e : Ep) : State :=
  let (s, q) := State.returnDone e s (s.epOf e).outq
  (s.modEp e (fun h => {h with outq := q})).drainOut e

/-- An outcome recorded for every entry of a joined read; each takes its part of the data. -/
def giveData (lead : Nat) (st : Status) (poison : Bool) : List Byte → List Outb → List Outb
  | _, [] => []
  | d, .req r :: l =>
    if r.sent && r.lead = lead && r.res.isNone then
      .req {r with res := some (st, if poison then List.replicate r.r.len 0 else d.take r.r.len, poison)} :: giveData lead st poison (d.drop r.r.len) l
    else .req r :: giveData lead st poison d l
  | d, o :: l => o :: giveData lead st poison d l

/-- The sent read a completion names. -/
def HostEp.sentRead (h : HostEp) (id : Nat) : Option OutReq :=
  h.outq.findSome? (fun (o : Outb) => match o with
    | .req r => if r.sent && r.id = id && r.lead = id && r.res.isNone then some r else none
    | .msix _ => none)
/-- Bytes a joined read asked for. -/
def HostEp.joinedLen (h : HostEp) (id : Nat) : Nat :=
  h.outq.foldl (fun n (o : Outb) => match o with
    | .req r => if r.sent && r.lead = id then n + r.r.len else n
    | .msix _ => n) 0

/-- HOST_WINDOW_REQUEST. -/
def execHostWindowRequest (e : Ep) (q : HwReq) (s : State) : Res :=
  let ni := niEp e (bits q.iova.toNat 9 8)
  let cnt := (q.iova.toNat % 64 + q.len + 63) / 64
  let u := s.asSent ni q.src q.tag ⟨(cnt - 1) % 4, Nat.mod_lt _ (by decide)⟩ (if q.wr then .wr else .rd) q.iova.toNat
  .next (if s.bunged ni then (s.turnAway ni u .bunged).bungCount ni 1
    else
      let s := s.recordAs ni u
      if !(s.epOf e).takes then s.hostFail e q
      else if q.wr then (s.enqueueOut e q).hostAnswer e q .ok [] false
      else s.enqueueOut e q)

/-- HOST_COMPLETION. Bytes a completion lacks are free. -/
def execHostCompletion (e : Ep) (id : Nat) (k : CplKind) (data : List Byte) (s : State) : Res :=
  let h := s.epOf e
  .next (match h.sentRead id with
    | none => s.aer e .unexpectedCpl true
    | some _ =>
      let n := h.joinedLen id
      let s := match k with | .poisoned => s.aer e .poisonedTlp | _ => s
      let (data, s) := if data.length < n then (data ++ s.freeBytes (n - data.length), s.bump) else (data, s)
      let (st, p) := match k with
        | .success => (Status.ok, false)
        | .poisoned => (.ok, true)
        | .ur | .ca => (.hosterr, false)
      (s.modEp e (fun h => {h with outq := giveData id st p data h.outq})).hostReturn e)

/-- HOST_COMPLETION_TIMEOUT: a sent read meets the completion timeout, a waiting one the 55 ms limit. -/
def execHostCompletionTimeout (e : Ep) (id : Nat) (s : State) : Res :=
  let h := s.epOf e
  .next (match h.sentRead id with
    | some _ => ((s.aer e .cplTimeout).modEp e (fun h => {h with outq := giveData id .hosterr false [] h.outq})).hostReturn e
    | none =>
      match h.outq.findSome? (fun (o : Outb) => match o with
          | .req r => if r.id = id && !r.sent && !r.r.wr then some r else none
          | .msix _ => none) with
      | some r => (s.modEp e (fun h => {h with outq := h.outq.filter (fun o => o ≠ .req r)})).hostFail e r.r
      | none => s)


/-! ### Aperture (R346–R349, R355) -/

/-- SEGMENT_WRITE. -/
def State.segWrite (s : State) (e : Ep) (i : Nat) (v : Nat) : State :=
  if bit v 0 && (11 < bits v 47 36 || 44 < bits v 35 30) then s.cwDiscard e
  else s.modEp e (fun h => {h with seg := tput h.seg i (BitVec.ofNat 64 (bits v 7 0 + 2 ^ 30 * bits v 47 30))})

def execSegmentWrite (e : Ep) (i : Fin 64) (v : Word) (s : State) : Res := .next (s.segWrite e i.val v.toNat)

/-- The segment of an aperture offset and the address it gives (R347). -/
def HostEp.segOf (h : HostEp) (off : Nat) : Nat := (tget 0 h.seg (bits off 35 30)).toNat
def segPa (seg off : Nat) : Nat := bits seg 47 30 * 2 ^ 30 + off % 2 ^ 30

/-- Whose accesses an endpoint's aperture requests are. -/
def epRights (e : Ep) : Rights := {own := 97 + e.code, ni := niEp e 0}

/-- Bytes of a read by sector, each with its poison. -/
def State.apSectors (s : State) (e : Ep) (kslot pa n : Nat) : Status × List (List Byte × Bool) × State :=
  let cnt := if n = 0 then 0 else (pa % 64 + n + 63) / 64
  (List.range cnt).foldl (fun (st, acc, s) i =>
    let base := 64 * (pa / 64) + 64 * i
    let (st', v, s) := State.agentRead s (epRights e) base kslot
    let lo := max pa base
    let hi := min (pa + n) (base + 64)
    (if st = .ok then st' else st, acc ++ [(((sectorBytes v.1).drop (lo - base)).take (hi - lo), v.2)], s))
    (Status.ok, ([] : List (List Byte × Bool)), s)

/-- Completions of at most 512 B, split at 64 B boundaries, poison apart from good data (R347, R349). -/
def completions (l : List (List Byte × Bool)) : List (List Byte × Bool) :=
  l.foldl (fun acc p =>
    match acc.reverse with
    | (b, q) :: t => if q = p.2 && b.length + p.1.length ≤ 512 then (t.reverse ++ [(b ++ p.1, q)]) else acc ++ [p]
    | [] => [p]) []

/-- A host read completed with an error. -/
def State.cplErr (s : State) (e : Ep) (k : CplKind) : State :=
  (s.aer e (match k with | .ur => .unsupportedReq | _ => .completerAbort)).emit (.pcieCpl e k [])
/-- HOST_REQUEST_HUB_TIMEOUT: a read the hub has not answered completes as Completer Abort, one of the aperture counted
(R355). `id` is its place among the accesses that wait; a posted write is not completed. -/
def execHostRequestHubTimeout (e : Ep) (id : Nat) (s : State) : Res :=
  let gone := s.modEp e (fun h => {h with later := h.later.eraseIdx id})
  .next (match (s.epOf e).later[id]? with
    | some (.aperture _ _) => (gone.apRefuse e).cplErr e .ca
    | some (.control false _ _ _) => gone.cplErr e .ca
    | some _ => s
    | none => s.cplErr e .ca)

/-- A host write discarded and logged. -/
def State.wrErr (s : State) (e : Ep) (k : CplKind) : State :=
  match k with | .ur => s.aer e .unsupportedReq true | _ => s.aer e .completerAbort

/-- Whether an access of an endpoint waits: an earlier aperture write of it has not been performed (R272). -/
def State.hostWaits (s : State) (e : Ep) : Bool := s.agentWaits (97 + e.code) || !(s.epOf e).later.isEmpty
/-- An access put behind them. -/
def State.hostLater (s : State) (e : Ep) (a : HostAcc) : State := s.modEp e (fun h => {h with later := h.later ++ [a]})

/-- An aperture read performed. A request that gets no good answer completes the whole read as Completer Abort. -/
def State.apRead (s : State) (e : Ep) (off : BitVec 42) (len : Fin 4097) : State :=
  let h := s.epOf e
  let g := h.segOf off.toNat
  if h.stopped then (s.apRefuse e).cplErr e .ca
  else if !bit g 0 then (s.apRefuse e).cplErr e .ur
  else
    let (st, secs, s) := s.apSectors e (bits g 7 2) (segPa g off.toNat) len.val
    if st ≠ .ok then (s.apRefuse e).cplErr e .ca
    else (completions secs).foldl (fun s c =>
      if c.2 then (s.modEp e (fun h => {h with appois := satHalf h.appois})).emit (.pcieCpl e .poisoned (c.1.map (fun _ => 0)))
      else s.emit (.pcieCpl e .success c.1)) s

/-- APERTURE_READ. -/
def execApertureRead (e : Ep) (off : BitVec 42) (len : Fin 4097) (s : State) : Res :=
  .next (if !(s.epOf e).linkUp then s
    else if s.hostWaits e then s.hostLater e (.aperture off len) else s.apRead e off len)

/-- APERTURE_WRITE. A poisoned one is issued as WRPOI for its sectors (R358). -/
def execApertureWrite (e : Ep) (off : BitVec 42) (data : List Byte) (poisoned : Bool) (s : State) : Res :=
  let h := s.epOf e
  let g := h.segOf off.toNat
  let pa := segPa g off.toNat
  .next (if !h.linkUp then s
    else
      let s := if poisoned then s.aer e .poisonedTlp else s
      if h.stopped then (s.apRefuse e).wrErr e .ca
      else if !bit g 0 || bit g 1 then (s.apRefuse e).wrErr e .ur
      else
        let (st, s) := if poisoned then
            (List.range (if data.isEmpty then 0 else (pa % 64 + data.length + 63) / 64)).foldl (fun (st, s) i =>
              let (st', s) := State.agentWrite s (epRights e) .wrpoi (64 * (pa / 64) + 64 * i) (bits g 7 2) 0 0
              (if st = .ok then st' else st, s)) (Status.ok, s)
          else s.agentPut (epRights e) .wri (bits g 7 2) pa data
        if st = .ok then s else (s.apRefuse e).wrErr e .ca)

/-! ### Doorbell window (R350, R371) -/

/-- A doorbell write performed. A poisoned write is discarded like any other that is not a good one (DEDUCED). -/
def State.dbWrite (s : State) (e : Ep) (off : BitVec 26) (size : Fin 9) (data : Word) (poisoned : Bool) : State :=
  let h := s.epOf e
  let a := off.toNat
  if h.stopped || poisoned || !s.boot.ready || (size ≠ 4 && size ≠ 8) || a % size.val ≠ 0 then s.dbDrop e
  else
    let s := s.emit (.ctl 1 [a / 4096, a % 4096, data.toNat])
    if a % 4096 = 0 then s.ringDoorbell (a / 4096) (data.setWidth 32) (some e) else s

/-- DOORBELL_WRITE. -/
def execDoorbellWrite (e : Ep) (off : BitVec 26) (size : Fin 9) (data : Word) (poisoned : Bool) (s : State) : Res :=
  .next (if !(s.epOf e).linkUp then s
    else if s.hostWaits e then s.hostLater e (.doorbell off size data poisoned) else s.dbWrite e off size data poisoned)

/-! ### Interrupts (R357) -/

/-- Pending vectors whose masks are clear are sent. -/
def State.msixFlush (s : State) (e : Ep) : State :=
  let h := s.epOf e
  if h.fmask || !h.msixEn || !h.takes then s
  else (h.msix.filter (fun m => m.2.pend && !m.2.mask)).foldl (fun s m =>
    (s.modEp e (fun h => {h with msix := tput h.msix m.1 {m.2 with pend := false}})).msixTrigger e m.1) s

/-- MSIX_TRIGGER. -/
def execMsixTrigger (e : Ep) (vec : Fin 2048) (s : State) : Res := .next (s.msixTrigger e vec.val)

/-- MSIX_UNMASK. -/
def execMsixUnmask (e : Ep) (u : Unmask) (s : State) : Res :=
  let s := match u with
    | .vector v => s.modEp e (fun h => {h with msix := tmod {} h.msix v.val (fun m => {m with mask := false})})
    | .function => s.modEp e (fun h => {h with fmask := false})
  .next (s.msixFlush e)

/-! ### Link and resets (R353, R357, R359, R360) -/

/-- Traffic in flight when the link goes down or a reset begins: reads answered HOSTERR, writes lost, messages dropped. -/
def State.hostDrop (s : State) (e : Ep) : State :=
  let q := (s.epOf e).outq
  let s := s.modEp e (fun h => {h with outq := []})
  q.foldl (fun s (o : Outb) => match o with
    | .req r => if r.r.wr then s.modEp e (fun h => {h with wlost := satHalf h.wlost}) else s.hostFail e r.r
    | .msix _ => s) s

/-- HOST_LINK_DOWN. -/
def execHostLinkDown (e : Ep) (s : State) : Res :=
  .next (s.epChange e (fun s => (s.modEp e (fun h => {h with linkUp := false})).hostDrop e))

/-- The endpoint is out of reset and may be linked (R360, R585). -/
def State.epMayLink (s : State) (e : Ep) : Bool :=
  let h := s.epOf e
  h.started && !h.perst && !h.flr && !bit s.power.strap.toNat (1 + e.code)

/-- HOST_LINK_UP. -/
def execHostLinkUp (e : Ep) (s : State) : Res :=
  .next (if s.epMayLink e then s.epChange e (fun s => ((s.modEp e (fun h => {h with linkUp := true})).msixFlush e).drainOut e) else s)

/-- An endpoint reset: registers, configuration space, tables and mailbox at their reset values, then the traffic in
flight is dropped and counted (R357, R359). -/
def State.epReset (s : State) (e : Ep) (link perst : Bool) : State :=
  s.epChange e (fun s =>
    let h := s.epOf e
    let n : HostEp := { started := h.started, perst := h.perst || perst, flr := true, linkUp := h.linkUp && link, outq := h.outq, nextId := h.nextId }
    let s := s.modEp e (fun _ => n)
    { s.hostDrop e with book := { s.book with
        snap := s.book.snap.filter (fun x => decide (x.chan ≠ .mbox e)), xfer := s.book.xfer.filter (fun x => decide (x.chan ≠ .mbox e)) } })

/-- FUNDAMENTAL_RESET. -/
def execFundamentalReset (e : Ep) (s : State) : Res := .next (s.epReset e false true)
/-- HOT_RESET. -/
def execHotReset (e : Ep) (s : State) : Res := .next (s.epReset e false false)
/-- FLR. It is in progress until ENDPOINT_START. -/
def execFlr (e : Ep) (s : State) : Res := .next (s.epReset e true false)

/-- ENDPOINT_START: the PCIe reset land is deasserted, and a reset in progress ends if the cooper has started the
endpoint; it then trains (R360). -/
def execEndpointStart (e : Ep) (s : State) : Res :=
  let s := s.modEp e (fun h => {h with perst := false})
  .next (if (s.epOf e).started && !bit s.power.strap.toNat (1 + e.code) then
      s.epChange e (fun s => s.modEp e (fun h => {h with flr := false, linkUp := true}))
    else s)

/-- ENDPOINT_UNCORRECTABLE. -/
def State.epStop (s : State) (e : Ep) : State := (s.aer e .uncorrectableInternal).modEp e (fun h => {h with stopped := true})
def execEndpointUncorrectable (e : Ep) (s : State) : Res := .next (s.epStop e)

/-- PCIE_LINK_ERROR. -/
def execPcieLinkError (e : Ep) (err : PcieErr) (s : State) : Res :=
  .next (match err with
    | .uncorrectableInternal => s.epStop e
    | x => s.aer e x)

/-! ### Configuration space (R339, R351) -/

/-- The capability identifiers of an endpoint in their order: power management, PCI Express, MSI-X; the extended ones begin
at 0x100 with AER (R340; the numbers are PCIe's, PRESUMED, log 44). -/
def cfgCaps : List Nat := [0x01, 0x10, 0x11]
def cfgExtCaps : List (Nat × Nat) := [(0x100, 0x0001)]

/-- A doubleword of an endpoint's configuration header (R340): identities, revision and class, header type 0, subsystem, the
capabilities pointer, whose value the manual does not give, interrupt pin 0. -/
def State.cfgHeader (s : State) (e : Ep) (dw : Nat) : Nat :=
  match dw with
  | 0 => 0x1E7B + 2 ^ 16 * (0x4832 + e.code)
  | 2 => (s.dieRev (16 + e.code)) % 256 + 2 ^ 8 * 0x120000
  | 0xB => 0x1E7B + 2 ^ 16 * subsystemId s.fuses.code
  | 0xD => Config.freeNat 0 (0x340 + e.code) % 256
  | _ => 0

/-- HOST_CONFIG_WRITE. Reads that wait when Bus Master Enable falls are answered HOSTERR at once (R353). -/
def execHostConfigWrite (e : Ep) (f : CfgField) (v : Byte) (s : State) : Res :=
  let b := bit v.toNat 0
  .next (s.epChange e (fun s =>
    let s := s.modEp e (fun h => match f with
      | .busMaster => {h with bme := b}
      | .msixEnable => {h with msixEn := b}
      | .funcMask => {h with fmask := b}
      | .maxPayload => {h with maxPayload := v.toNat % 8}
      | .maxReadReq => {h with maxRead := v.toNat % 8}
      | .cplTimeout => {h with cplTo := v.toNat % 16}
      | .pasidEnable => {h with pasidEn := b}
      | .powerState => if v.toNat % 4 = 0 || v.toNat % 4 = 3 then {h with power := v.toNat % 4} else h
      | .aerUncStatus w => { h with
          aerUnc := h.aerUnc &&& (~~~w).toNat, aerFirst := h.aerFirst.filter (fun x => !w.getLsbD (pcieErrPlace x).2) }
      | .aerUncMask w => {h with aerUncMask := w.toNat &&& aerUncBits}
      | .aerSeverity w => {h with aerSev := w.toNat &&& aerUncBits}
      | .aerCorStatus w => {h with aerCor := h.aerCor &&& (~~~w).toNat}
      | .aerCorMask w => {h with aerCorMask := w.toNat &&& aerCorBits})
    let s := if (s.epOf e).bme then s else
      let waits := (s.epOf e).outq.filterMap (fun (o : Outb) => match o with
        | .req r => if !r.sent && !r.r.wr then some r else none
        | .msix _ => none)
      let s := s.modEp e (fun h => {h with outq := h.outq.filter (fun (o : Outb) => match o with
        | .req r => r.sent || r.r.wr
        | .msix _ => true)})
      waits.foldl (fun s (r : OutReq) => s.hostFail e r.r) s
    (s.msixFlush e).drainOut e))

end Sys2Proof.Machine
end

