-- ==== Sys2Proof/Machine/EngineOps.lean ====
section
/-! DEFINITION. Descriptors of the racking engines (R162–R168): fields, the checks before any access, element
conversion, reduction and merge. Functions of a descriptor's words and data only. -/

namespace Sys2Proof.Machine

/-! ### Fields (R162, R163) -/

def Desc.op (d : Desc) : Nat := bits (d.word 0) 3 0
def Desc.sfmt (d : Desc) : Nat := bits (d.word 0) 7 4
def Desc.dfmt (d : Desc) : Nat := bits (d.word 0) 11 8
def Desc.rm (d : Desc) : RM := if bit (d.word 0) 12 then .rtz else .rne
def Desc.satOn (d : Desc) : Bool := bit (d.word 0) 13
def Desc.ord (d : Desc) : Bool := bit (d.word 0) 14
def Desc.waits (d : Desc) : Bool := bit (d.word 0) 16
def Desc.crec (d : Desc) : Bool := bit (d.word 0) 17
def Desc.irq (d : Desc) : Bool := bit (d.word 0) 18
def Desc.sscr (d : Desc) : Bool := bit (d.word 0) 19
def Desc.dscr (d : Desc) : Bool := bit (d.word 0) 20
def Desc.tr (d : Desc) : Bool := bit (d.word 0) 21
def Desc.phys (d : Desc) : Bool := bit (d.word 0) 22
def Desc.acask (d : Desc) : Nat := bits (d.word 0) 26 23
def Desc.kslot (d : Desc) : Nat := bits (d.word 0) 32 27
def Desc.shift (d : Desc) : Nat := bits (d.word 0) 37 33
def Desc.srcA (d : Desc) : Nat := d.word 1
def Desc.dstA (d : Desc) : Nat := d.word 2
def Desc.sh (d : Desc) (hi lo : Nat) : Nat := bits (d.word 3) hi lo
def Desc.aux (d : Desc) : Nat := d.word 4
def Desc.sval (d : Desc) : Word := nth 0 d.w 5
def Desc.wval (d : Desc) : Word := nth 0 d.w 6
def Desc.tagF (d : Desc) : Nat := bits (d.word 7) 47 32
def Desc.isFw (d : Desc) : Bool := match d.src with | .firmware => true | .queue _ => false

/-! ### Formats (R165) -/

def isRaw (f : Nat) : Bool := f = 0xF
def isMxF (f : Nat) : Bool := 6 ≤ f && f ≤ 0xB
/-- Width of an element in bits; raw elements are bytes, or 2^`esz` B in TILE2D (R166). -/
def Desc.wbits (d : Desc) (f : Nat) : Nat :=
  match f with
  | 0xC => 32
  | 0xD => 32
  | 0xF => if d.op = 2 then 8 * 2 ^ d.sh 41 40 else 8
  | f => match fmtCode f with | some g => g.bits | none => 8
def Desc.ws (d : Desc) : Nat := d.wbits d.sfmt
def Desc.wd (d : Desc) : Nat := d.wbits d.dfmt
/-- Bytes of n elements of w bits. -/
def elemBytes (n w : Nat) : Nat := (n * w + 7) / 8

/-- Size of a KV block in bytes (R146). -/
def kvSize (k d : Nat) : Nat := match kvFmt k with | some f => (kvLayout f d).2.2.2 | none => 0

/-- Sources of REDUCE and MERGE. -/
def Desc.nsrc (d : Desc) : Nat := if d.op = 4 then d.sh 41 36 + 1 else d.sh 8 0 + 1
/-- Rows and head dimension of a MERGE (R166). -/
def Desc.mrows (d : Desc) : Nat := d.sh 13 9 + 1
def Desc.mdim (d : Desc) : Nat := 32 * (d.sh 16 14 + 1)
/-- Size of a partial record (R148). -/
def recSize (nr d : Nat) : Nat := nr * (4 * d + 4)
def Desc.mergeOut (d : Desc) : Nat :=
  match d.sh 18 17 with
  | 0 => recSize d.mrows d.mdim
  | 1 => 4 * d.mdim * d.mrows
  | _ => 2 * d.mdim * d.mrows

/-- Row length in elements, number of rows, source and destination strides of COPY, STRIDE, TILE2D, REDUCE. -/
def Desc.rowLen (d : Desc) : Nat := if d.op = 1 || d.op = 2 then d.sh 19 0 else d.sh 35 0
def Desc.nrow (d : Desc) : Nat := if d.op = 1 || d.op = 2 then d.sh 39 20 else 1
def Desc.sstr (d : Desc) : Nat := if d.op = 1 || d.op = 2 then bits d.aux 31 0 else 0
def Desc.dstr (d : Desc) : Nat := if d.op = 1 || d.op = 2 then bits d.aux 63 32 else 0

/-! ### Checks (R167, R475) -/

/-- An address field has a legal form (R164). -/
def Desc.formOk (d : Desc) (scr : Bool) (graft : Nat → Bool) (a : Nat) : Bool :=
  if scr then a < 2 ^ 31 && bits a 18 0 < 0x80000 && !graft (bits a 30 27)
  else if d.phys then a < 2 ^ 48 else a < 2 ^ 52

/-- Whether an address names a cask before translation: device virtual memory or a physical cask address (R159). -/
def Desc.inCask (d : Desc) (scr : Bool) (a : Nat) : Bool :=
  !scr && (if d.phys then a < 0xC000000000 else a < 0x7FFFFFFF00000)

/-- Bytes of the destination, from its lowest to its highest. -/
def Desc.dspan (d : Desc) : Nat :=
  match d.op with
  | 0 => elemBytes d.rowLen d.wd
  | 1 => (d.nrow - 1) * d.dstr + elemBytes d.rowLen d.wd
  | 2 => if d.tr then (d.rowLen - 1) * d.dstr + elemBytes d.nrow d.wd else (d.nrow - 1) * d.dstr + elemBytes d.rowLen d.wd
  | 3 => d.sh 35 0
  | 4 => elemBytes (d.sh 35 0) d.wd
  | 5 => d.mergeOut
  | 6 => d.sh 23 0 * kvSize (d.sh 29 27) (32 * (d.sh 32 30 + 1))
  | _ => 0
/-- Bytes of the source, from its lowest to its highest; 0 for the ops that take a list. -/
def Desc.sspan (d : Desc) : Nat :=
  match d.op with
  | 0 => elemBytes d.rowLen d.ws
  | 1 | 2 => (d.nrow - 1) * d.sstr + elemBytes d.rowLen d.ws
  | 6 => d.sh 23 0 * kvSize (d.sh 26 24) (32 * (d.sh 32 30 + 1))
  | _ => 0

/-- The descriptor passes the checks of R167; `feat` is the licence in force (R475). -/
def Desc.legal (d : Desc) (feat : Nat) (graft : Nat → Bool) : Bool :=
  let sf := d.sfmt
  let df := d.dfmt
  let raw := isRaw sf
  let mx := isMxF sf || isMxF df
  let lists := d.op = 4 || d.op = 5
  let shTop := match d.op with | 0 => 36 | 1 => 40 | 2 => 42 | 3 => 36 | 4 => 43 | 5 => 19 | 6 => 33 | _ => 0
  let common := d.op ≤ 7 && d.word 0 / 2 ^ 38 = 0 && d.word 7 / 2 ^ 48 = 0 && d.word 3 / 2 ^ shTop = 0
    && sf ≠ 0xE && df ≠ 0xE && (isRaw df = raw) && !(isMxF sf && isMxF df) && (!d.phys || d.isFw)
    && (bit feat 0 || (d.op ≠ 5 && d.op ≠ 6)) && (bit feat 2 || !mx) && (!mx || d.op = 0)
    && (d.aux = 0 || d.op = 1 || d.op = 2 || (d.op = 0 && mx))
  let own := match d.op with
    | 0 =>
      let scr := if isMxF df then d.dscr else d.sscr
      d.rowLen ≠ 0 && (!mx || (d.rowLen % 32 = 0 && d.formOk scr graft d.aux
        && (!scr || bits d.aux 18 0 + d.rowLen / 32 ≤ 0x80000)))
    | 1 => d.rowLen ≠ 0 && d.nrow ≠ 0
    | 2 => d.rowLen ≠ 0 && d.nrow ≠ 0 && (raw || d.sh 41 40 = 0) && !(d.tr && (d.ws = 4 || d.wd = 4)) && d.dspan ≤ 2 ^ 20
    | 3 => raw && d.sh 35 0 % 64 = 0 && d.dstA % 64 = 0
    | 4 => (sf = 0xC || sf = 0xD) && d.sh 41 36 ≠ 0 && d.sh 35 0 ≠ 0
    | 5 => raw && d.sh 8 0 ≠ 0 && d.sh 18 17 ≠ 3 && !bit (d.word 0) 12 && !d.satOn
    | 6 => raw && d.sh 26 24 ≤ 5 && d.sh 29 27 ≤ 5 && (bit feat 2 || (d.sh 26 24 ≤ 1 && d.sh 29 27 ≤ 1))
    | _ => raw
  let addrs := d.op = 7 ||
    ((d.op = 3 || d.formOk (d.sscr && !lists) graft d.srcA) && d.formOk d.dscr graft d.dstA
      && (!(d.sscr && !lists) || bits d.srcA 18 0 + d.sspan ≤ 0x80000) && (!d.dscr || bits d.dstA 18 0 + d.dspan ≤ 0x80000)
      && (d.acask ≤ 11 || (!d.phys && !d.dscr) || (!d.phys && !lists && d.op ≠ 3 && !d.sscr) || d.inCask d.dscr d.dstA || (!lists && d.op ≠ 3 && d.inCask d.sscr d.srcA)))
  common && own && addrs

/-! ### Conversion (R165) -/

/-- An exact widening between two formats sets no `uf` (R81). -/
def widens (sf df : Nat) : Bool := df = 0xC || ((sf = 0 || sf = 1) && (df = 2 || df = 3))

/-- A source element as an FP32-range value, with the flags of its widening (R81). -/
def Desc.widen (d : Desc) (scale code : Nat) : XV × PFlags :=
  match d.sfmt with
  | 0xC => (fp32.decode code, {})
  | 0xD => let (c, f) := fp32.narrow d.rm false (.ofInt (intOf 32 code)); (fp32.decode c, f)
  | f =>
    match fmtCode f with
    | some g =>
      (match g.el, g.mx with
        | .int w, false => (.ofInt (intOf w code), {})
        | _, _ => let (c, fl) := g.widen d.rm d.satOn scale code; (fp32.decode c, fl))
    | none => (.fin false code 0, {})

/-- Elements converted: destination codes, scale bytes of an MX destination, flags (R77, R79, R80, R165). Into INT32, which
R165 allows and no rule describes, an element is rounded with `rm` and saturated, setting `sat` (DESIGN CHOICE, log 44). -/
def Desc.convert (d : Desc) (codes : List Nat) (scales : Nat → Nat) : List Nat × List Nat × PFlags :=
  let orAll := fun (fs : List PFlags) => fs.foldl PFlags.or {}
  if isRaw d.sfmt || (d.sfmt = 0xD && d.dfmt = 0xD) then (codes, [], {})
  else if d.sfmt = 0xD && (d.dfmt = 4 || d.dfmt = 5) then
    let rs := codes.map (fun c => shiftInt d.wd d.rm (intOf 32 c) d.shift)
    (rs.map (·.1), [], orAll (rs.map (·.2)))
  else
    let vs := (List.zip (List.range codes.length) codes).map (fun p => d.widen (scales (p.1 / 32)) p.2)
    let fw := orAll (vs.map (·.2))
    let xs := vs.map (·.1)
    match d.dfmt with
    | 0xC =>
      -- exact (R81): an infinity stays one whatever `sat` is, and a NaN becomes the canonical one (R69)
      let rs := xs.map (fp32.narrow d.rm false)
      (rs.map (·.1), [], fw.or {orAll (rs.map (·.2)) with uf := false})
    | 0xD =>
      let rs := xs.map (toIntSat 32 d.rm)
      (rs.map (fun r => intCode 32 r.1), [], fw.or (orAll (rs.map (·.2))))
    | f =>
      match fmtCode f with
      | none => (codes, [], {})
      | some g =>
        if g.mx then
          let bs := (List.range (xs.length / 32)).map (fun i => g.mxEncode d.rm d.satOn ((xs.drop (32 * i)).take 32))
          ((bs.map (fun b => b.2.1)).flatten, bs.map (·.1), fw.or (orAll (bs.map (fun b => b.2.2))))
        else
          let rs := xs.map (g.el.narrow d.rm d.satOn)
          let fl := orAll (rs.map (·.2))
          (rs.map (·.1), [], fw.or (if widens d.sfmt d.dfmt then {fl with uf := false} else fl))

/-! ### REDUCE (R166) -/

/-- Two FP32 codes added with RNE. -/
def faddRne (a b : Nat) : Nat × PFlags := addF32 a b
/-- The larger of two FP32 codes: max(+0, −0) is +0, a NaN gives the canonical NaN and sets `nv`. -/
def fmaxCode (a b : Nat) : Nat × PFlags :=
  let x := fp32.decode a
  let y := fp32.decode b
  if x.isNan || y.isNan then (fp32.cnan, {nv := true})
  else if x.isZero && y.isZero then (if a = 0 || b = 0 then 0 else a, {})
  else (if x.lt y then b else a, {})
/-- Two INT32 codes added, wrapping (R87). -/
def iaddWrap (a b : Nat) : Nat × PFlags :=
  let s := intOf 32 a + intOf 32 b
  (intCode 32 s, {iov := s < -(2 ^ 31) || 2 ^ 31 ≤ s})
def imaxCode (a b : Nat) : Nat × PFlags := (if intOf 32 a < intOf 32 b then b else a, {})

/-- One element reduced. Two at a time are combined, which two being the order of arrival: not fixed (R96). -/
def combine (f : Nat → Nat → Nat × PFlags) (pick : Nat → Nat) : Nat → List Nat → PFlags → Nat × PFlags
  | 0, vs, fl => (nth 0 vs 0, fl)
  | n + 1, vs, fl =>
    if vs.length ≤ 1 then (nth 0 vs 0, fl)
    else
      let i := pick (2 * n) % vs.length
      let a := nth 0 vs i
      let vs := vs.eraseIdx i
      let j := pick (2 * n + 1) % vs.length
      let (c, g) := f a (nth 0 vs j)
      combine f pick n (c :: vs.eraseIdx j) (fl.or g)

/-- The operation of a REDUCE on two codes. -/
def Desc.redOp (d : Desc) (a b : Nat) : Nat × PFlags :=
  match decide (d.sfmt = 0xC), bit (d.word 3) 42 with
  | true, false => faddRne a b
  | true, true => fmaxCode a b
  | false, false => iaddWrap a b
  | false, true => imaxCode a b

/-! ### MERGE (R155) -/

/-- A row of a partial record: outputs and λ, as FP32 codes. -/
abbrev MRow := List Nat × Nat

/-- Two rows merged (R155). The differences λa − λm and λb − λm are rounded to FP32 under RNE before 2^x is taken (DESIGN
CHOICE, log 44: the pseudocode marks no rounding there). -/
def mergeRow (a b : MRow) : MRow :=
  let la := fp32.decode a.2
  let lb := fp32.decode b.2
  let nan := fun (c : Nat) => (fp32.decode c).isNan
  if la.isNan || lb.isNan || a.1.any nan || b.1.any nan then (a.1.map (fun _ => fp32.cnan), fp32.cnan)
  else if a.2 = ninf && b.2 = ninf then (a.1.map (fun _ => 0), ninf)
  else
    let lm := if la.lt lb then b.2 else a.2
    let sub := fun (l : Nat) => (rneF32 ((fp32.decode l).add (fp32.decode lm).neg)).1
    let wt := fun (l : Nat) => if l = ninf then 0 else exp2F32 (sub l)
    let wa := wt a.2
    let wb := wt b.2
    let w := (addF32 wa wb).1
    let o := (List.zip a.1 b.1).map (fun p =>
      let x := (mulF32 wa p.1).1
      let y := (rneF32 ((fp32.decode x).add ((fp32.decode wb).mul (fp32.decode p.2)))).1
      (divF32 (fp32.decode y) (fp32.decode w)).1)
    (o, (addF32 lm (log2F32 w)).1)

/-- A record's rows from its bytes (R148). -/
def recRows (nr d : Nat) (bs : List Byte) : List MRow :=
  let n := leNat bs
  (List.range nr).map (fun r => ((List.range d).map (fun j => unpackAt 32 n (d * r + j)), unpackAt 32 n (d * nr + r)))

/-- Records merged one after the other in an order of arrival that is not fixed (R96). -/
def mergeAll (pick : Nat → Nat) : Nat → List (List MRow) → List MRow → List MRow
  | 0, _, acc => acc
  | n + 1, rs, acc =>
    if rs.isEmpty then acc
    else
      let i := pick n % rs.length
      let r := nth [] rs i
      mergeAll pick n (rs.eraseIdx i) ((List.zip acc r).map (fun p => mergeRow p.1 p.2))

/-- The merged output's bytes and flags (R166). -/
def Desc.mergeBytes (d : Desc) (rows : List MRow) : List Byte × PFlags :=
  let cols := (rows.map (·.1)).flatten
  match d.sh 18 17 with
  | 0 => (leBytes d.mergeOut (packNat 32 (cols ++ rows.map (·.2))), {})
  | 1 => (leBytes d.mergeOut (packNat 32 cols), {})
  | _ =>
    let rs := cols.map (fun c => bf16.narrow .rne false (fp32.decode c))
    (leBytes d.mergeOut (packNat 16 (rs.map (·.1))), (rs.map (·.2)).foldl PFlags.or {})

/-! ### KVCVT (R146, R166) -/

/-- A KV block re-encoded: keys along d, values along tokens. -/
def Desc.kvBlock (d : Desc) (bs : List Byte) : List Byte × PFlags :=
  let hd := 32 * (d.sh 32 30 + 1)
  match kvFmt (d.sh 26 24), kvFmt (d.sh 29 27) with
  | some f, some g =>
    if d.sh 26 24 = d.sh 29 27 then (bs, {})
    else
      let part := fun (o n : Nat) => leNat ((bs.drop o).take n)
      let el := 32 * f.bits * hd
      let (ks, ve, vs, _) := kvLayout f hd
      -- 256 × d elements of one array, in storage order, in runs that share scale bytes
      let conv := fun (eo so : Nat) =>
        let es := part eo el
        let sc := part so (8 * hd)
        let ws := (List.range (256 * hd)).map (fun i =>
          f.widen d.rm d.satOn (if f.mx then unpackAt 8 sc (i / 32) else 127) (unpackAt f.bits es i))
        let fl := (ws.map (·.2)).foldl PFlags.or {}
        let xs := ws.map (fun w => fp32.decode w.1)
        if g.mx then
          let blk := (List.range (8 * hd)).map (fun i => g.mxEncode d.rm d.satOn ((xs.drop (32 * i)).take 32))
          (packNat g.bits ((blk.map (fun b => b.2.1)).flatten), packNat 8 (blk.map (·.1)),
            blk.foldl (fun a b => PFlags.or a b.2.2) fl)
        else
          let rs := xs.map (g.el.narrow d.rm d.satOn)
          (packNat g.bits (rs.map (·.1)), 0, rs.foldl (fun a r => PFlags.or a r.2) fl)
      let (ke, kc, kf) := conv 0 ks
      let (we, wc, wf) := conv ve vs
      let n := 32 * g.bits * hd
      let sb := fun (v : Nat) => if g.mx then leBytes (8 * hd) v else []
      (leBytes n ke ++ sb kc ++ leBytes n we ++ sb wc, kf.or wf)
  | _, _ => (bs, {})

end Sys2Proof.Machine
end

