-- ==== Sys2Proof/Machine/Racking.lean ====
section
/-! DEFINITION. The racking engines at work (R157–R161, R168–R181): dispatch, tiles, translation, completion. -/

namespace Sys2Proof.Machine

/-! ### Descriptors of a queue -/

def DescSrc.is (a b : DescSrc) : Bool := a = b
def State.descsOf (s : State) (src : DescSrc) : List Desc := s.hub.desc.filter (fun d => d.src = src)
/-- A descriptor replaced. -/
def State.setDesc (s : State) (d : Desc) : State :=
  s.modHub (fun h => {h with desc := h.desc.map (fun e => if e.id = d.id then d else e)})
/-- The descriptor an engine runs (R160). -/
def State.onEngine (s : State) (e : EngId) : Option Desc := s.hub.desc.find? (fun d => d.st = .running e)
/-- The context of a descriptor; none for firmware's. -/
def State.descCtx (s : State) (d : Desc) : Option Nat := d.queue.map (fun q => (s.queueOf q).ctx.val)
/-- The slice of a descriptor. -/
def State.descSlice (s : State) (d : Desc) : Option Nat := (s.descCtx d).map (fun x => (s.ctxOf x).slice.val)
/-- The slice of a descriptor has passed its freeze tick (R181). -/
def State.descFrozen (s : State) (d : Desc) : Bool :=
  match s.descSlice d with | some sl => (s.sliceOf sl).ticked | none => false
/-- The master NI of an engine (R219). -/
def engNi (e : EngId) : Nat := 0x80 + 8 * (e.val / 8) + 4 + e.val % 8 / 2

/-! ### Locating bytes (R164, R170, R173) -/

/-- Where a run of bytes lies. -/
inductive ELoc where
  | scr (core off : Nat)
  | mem (pa kslot : Nat)
  | host (iova : Nat)
  deriving DecidableEq, Repr

/-- A located run: its address as the descriptor names it, its length. -/
structure EPiece where
  loc : ELoc
  a : Nat
  len : Nat
  deriving DecidableEq, Repr

/-- Why a tile cannot go on. -/
inductive EStop where
  | fault (c : XCause) (ipa : Nat) (wlk : Bool) (va : Nat) (wr : Bool)
  | ended (status addr : Nat)
  | wait                       -- a position being saved or loaded, or host data not yet there
  deriving DecidableEq, Repr

/-- A position a scratch locator names. -/
def locCore (a : Nat) : Nat := 256 * bits a 30 27 + bits a 26 19

/-- A scratch position checked (R173, R174). -/
def State.scratchOk (s : State) (d : Desc) (a : Nat) : Option EStop :=
  let p := locCore a
  if (s.linkOf (p / 256)).fenced || s.bunged (niSite (p / 256) (p % 256 / 32))
      || !(s.clusterOf (p / 256) (p / 16 % 16)).works (p % 16) then some (.ended 4 a)
  else if d.isFw then none
  else match (s.coreOf p).ctx with
    | none => some (.ended 3 a)
    | some x =>
      if (s.ctxOf x.val).saving.isSome then some .wait
      else if some (s.ctxOf x.val).slice.val = s.descSlice d then none else some (.ended 3 a)

/-- The engine's micro-TLB. -/
def engTlb (e : EngId) : Tlb := .unit e.val

/-- A run of n bytes at an address located, page by page. -/
def State.eLocate (s : State) (d : Desc) (e : EngId) (wr scr : Bool) (a n : Nat) : Except EStop (List EPiece) × State :=
  if n = 0 then (.ok [], s)
  else if scr then
    match s.scratchOk d a with
    | some x => (.error x, s)
    | none => (.ok [⟨.scr (locCore a) (bits a 18 0), a, n⟩], s)
  else if d.phys then (.ok [⟨.mem a d.kslot, a, n⟩], s)
  else
    let x := (s.descCtx d).getD 0
    (List.range ((a % 4096 + n + 4095) / 4096)).foldl (fun (r, s) i =>
      match r with
      | .error x => (.error x, s)
      | .ok ps =>
        let lo := max a (4096 * (a / 4096 + i))
        let hi := min (a + n) (4096 * (a / 4096 + i) + 4096)
        match s.translate (engTlb e) x lo (if wr then .write else .read) with
        | (.cask pa k, s) => (.ok (ps ++ [⟨.mem pa k, lo, hi - lo⟩]), s)
        | (.host iova, s) => (.ok (ps ++ [⟨.host iova, lo, hi - lo⟩]), s)
        | (.fault c i w, s) => (.error (.fault c i w lo wr), s)
        | (.walk _, s) => (.error .wait, s)) (.ok [], s)

/-- Several runs located, destination runs first so that a write fault comes first (R405). -/
def State.eLocateAll (s : State) (d : Desc) (e : EngId) (wr scr : Bool) (rs : List (Nat × Nat)) :
    Except EStop (List EPiece) × State :=
  rs.foldl (fun (r, s) p =>
    match r with
    | .error x => (.error x, s)
    | .ok ps => match s.eLocate d e wr scr p.1 p.2 with
      | (.ok qs, s) => (.ok (ps ++ qs), s)
      | (.error x, s) => (.error x, s)) (.ok [], s)

/-! ### Reading and writing -/

/-- Chunks of 256 B of a host-window run. -/
def hostChunks (iova n : Nat) : List (Nat × Nat) :=
  (List.range ((iova % 256 + n + 255) / 256)).map (fun i =>
    let lo := max iova (256 * (iova / 256 + i))
    let hi := min (iova + n) (256 * (iova / 256 + i) + 256)
    (lo, hi - lo))

/-- Host data returned to an NI for a chunk. -/
def State.hostHas (s : State) (ni iova n : Nat) : Option HostData :=
  s.hub.hostRd.find? (fun h => h.src.toNat = ni && h.iova = iova && (h.data.length = n || h.st ≠ .ok || h.poison))

/-- Bytes of a host-window run for a hub agent, or the requests, charged at its NI, for what is not there yet. -/
def State.hostGet (s : State) (ni sl iova n : Nat) : Except EStop (List Byte) × State :=
  let cs := hostChunks iova n
  let lacking := cs.filter (fun c => (s.hostHas ni c.1 c.2).isNone)
  if lacking.isEmpty then
    let hs := cs.filterMap (fun c => s.hostHas ni c.1 c.2)
    let s := s.modHub (fun h => {h with hostRd := h.hostRd.filter (fun x => !hs.contains x)})
    match hs.find? (fun h => h.st ≠ .ok || h.poison) with
    | some h => (.error (.ended (if h.poison && h.st = .ok then 2 else 4) (h.iova + 2 ^ 51)), s)
    | none => (.ok (hs.flatMap (·.data)), s)
  else
    (.error .wait, lacking.foldl (fun s c =>
      (s.emit (.req ni (niEp (s.sliceOf sl).ep (bits c.1 9 8)) .rd c.1 c.2 0 sl [] [])).chargeNi ni .host
        ((c.1 % 64 + c.2 + 63) / 64)) s)

/-- Whose accesses a descriptor's are on an engine. -/
def State.descRights (s : State) (d : Desc) (e : EngId) : Rights :=
  {fw := d.phys, own := 1 + e.val, ni := engNi e, slice := (s.descSlice d).getD 64}

/-- The descriptor's address of the sector of a run that gave an error response (R174). -/
def State.failedAt (s : State) (rt : Rights) (wr : Bool) (p : EPiece) (pa k : Nat) : Nat :=
  let i := if s.inAperture pa then 0 else ((List.range ((pa % 64 + p.len + 63) / 64)).find? (fun i =>
    s.memStatus rt wr (64 * (pa / 64) + 64 * i) k ≠ .ok)).getD 0
  if i = 0 then p.a else p.a - pa % 64 + 64 * i

/-- Bytes of a located run. -/
def State.eRead (s : State) (d : Desc) (e : EngId) (p : EPiece) : Except EStop (List Byte) × State :=
  match p.loc with
  | .scr c o => (.ok ((s.coreOf c).scratch.readBytes o p.len), s.chargeNi (engNi e) .bulk ((o % 64 + p.len + 63) / 64))
  | .mem pa k =>
    let rt := s.descRights d e
    let at' := s.failedAt rt false p pa k
    let (st, poi, bs, s) := s.paGet rt k pa p.len
    if st ≠ .ok then (.error (.ended 4 at'), s)
    else if poi then
      -- `addr` names the poisoned sector
      let bad := ((List.range ((pa % 64 + p.len + 63) / 64)).find? (fun i =>
        (s.agentRead rt (64 * (pa / 64) + 64 * i) k).2.1.2)).getD 0
      (.error (.ended 2 (if bad = 0 then p.a else p.a - pa % 64 + 64 * bad)), s)
    else (.ok bs, s)
  | .host iova => s.hostGet (engNi e) ((s.descSlice d).getD 0) iova p.len

/-- Bytes of several runs, in order. -/
def State.eReadAll (s : State) (d : Desc) (e : EngId) (ps : List EPiece) : Except EStop (List Byte) × State :=
  ps.foldl (fun (r, s) p =>
    match r with
    | .error x => (.error x, s)
    | .ok bs => match s.eRead d e p with
      | (.ok cs, s) => (.ok (bs ++ cs), s)
      | (.error x, s) => (.error x, s)) (.ok [], s)

/-- Bytes written at a located run; an error response names the address (R174). -/
def State.eWrite (s : State) (d : Desc) (e : EngId) (p : EPiece) (bs : List Byte) : Option EStop × State :=
  match p.loc with
  | .scr c o =>
    (none, (s.modCore c (fun k => (k.storeBytes none o bs).breakScratch none o bs.length)).chargeNi (engNi e) .bulk
      ((o % 64 + bs.length + 63) / 64))
  | .mem pa k =>
    let rt := s.descRights d e
    let at' := s.failedAt rt true p pa k
    let (st, s) := s.paPut rt .wri k pa bs
    (if st = .ok then none else some (.ended 4 at'), s)
  | .host iova =>
    let (st, s) := (s.chargeNi (engNi e) .host ((iova % 64 + bs.length + 63) / 64)).hostPost ((s.descSlice d).getD 0) iova bs
    (if st = .ok then none else some (.ended 4 p.a), s)

/-- Bytes written over several runs in order. -/
def State.eWriteAll (s : State) (d : Desc) (e : EngId) (ps : List EPiece) (bs : List Byte) : Option EStop × State :=
  let (r, s, _) := ps.foldl (fun (r, s, bs) p =>
    let (x, s) := State.eWrite s d e p (bs.take p.len)
    ((match r with | some y => some y | none => x), s, bs.drop p.len)) ((none : Option EStop), s, bs)
  (r, s)

/-! ### Tiles (R169) -/

/-- The windows of 64 KiB that rows of a destination touch, ascending. -/
def Desc.windows (d : Desc) : List Nat :=
  let base := if d.dscr then bits d.dstA 18 0 else d.dstA
  let n := elemBytes d.rowLen d.wd
  let all := (List.range d.nrow).flatMap (fun r =>
    let lo := base + r * d.dstr
    (List.range ((lo % 65536 + n + 65535) / 65536)).map (fun i => lo / 65536 + i))
  (all.mergeSort (· ≤ ·)).foldl (fun ws w => if ws.getLast? = some w then ws else ws ++ [w]) []

/-- Number of tiles. -/
def Desc.tileCount (d : Desc) : Nat :=
  match d.op with
  | 0 | 1 | 4 => d.windows.length
  | 2 => 1
  | 3 => (d.dstA % 65536 + d.sh 35 0 + 65535) / 65536
  | 5 => 1
  | 6 => d.sh 23 0
  | _ => 0

/-- The bytes of row r that lie in a window, from the row's first byte (R169). -/
def Desc.winBytes (d : Desc) (r w : Nat) : Nat × Nat :=
  let base := (if d.dscr then bits d.dstA 18 0 else d.dstA) + r * d.dstr
  let n := elemBytes d.rowLen d.wd
  (min n (65536 * w - base), min n (65536 * (w + 1) - base))

/-- Elements of row r that have bytes in a window, MX blocks kept whole. -/
def Desc.inWindow (d : Desc) (r w : Nat) : Nat × Nat :=
  let (lo, hi) := d.winBytes r w
  let g := if isMxF d.sfmt || isMxF d.dfmt then 32 else if d.wd = 4 then 2 else 1
  (g * (8 * lo / (g * d.wd)), min d.rowLen (g * ((8 * hi + g * d.wd - 1) / (g * d.wd))))

/-- Rows and element ranges of tile i of COPY, STRIDE, TILE2D and REDUCE. -/
def Desc.tileRows (d : Desc) (i : Nat) : List (Nat × Nat × Nat) :=
  if d.op = 2 then (List.range d.nrow).map (fun r => (r, 0, d.rowLen))
  else
    let w := nth 0 d.windows i
    ((List.range d.nrow).map (fun r => let (a, b) := d.inWindow r w; (r, a, b))).filter (fun t => t.2.1 < t.2.2)

/-- The bytes that hold elements a to b of an array of w-bit elements at an address. -/
def elemRun (base a b w : Nat) : Nat × Nat := (base + a * w / 8, (b * w + 7) / 8 - a * w / 8)

/-- Destination bytes of tile i (`done`, R171), and its destination runs; scale arrays are not counted. -/
def Desc.dstRuns (d : Desc) (i : Nat) : List (Nat × Nat) :=
  match d.op with
  | 0 | 1 | 4 => (d.tileRows i).map (fun t =>
    let b := d.winBytes t.1 (nth 0 d.windows i)
    (d.dstA + t.1 * d.dstr + b.1, b.2 - b.1))
  | 2 =>
    if d.tr then (List.range d.rowLen).map (fun j => elemRun (d.dstA + j * d.dstr) 0 d.nrow d.wd)
    else (d.tileRows i).map (fun t => elemRun (d.dstA + t.1 * d.dstr) t.2.1 t.2.2 d.wd)
  | 3 =>
    let lo := max d.dstA (65536 * (d.dstA / 65536 + i))
    let hi := min (d.dstA + d.sh 35 0) (65536 * (d.dstA / 65536 + i) + 65536)
    [(lo, hi - lo)]
  | 5 => [(d.dstA, d.mergeOut)]
  | 6 => let z := kvSize (d.sh 29 27) (32 * (d.sh 32 30 + 1)); [(d.dstA + i * z, z)]
  | _ => []
def Desc.tileBytes (d : Desc) (i : Nat) : Nat := ((d.dstRuns i).map (·.2)).foldl (· + ·) 0
/-- Scale runs of a source in MX: those of its tile's blocks. -/
def Desc.scaleRun (d : Desc) (i : Nat) : List (Nat × Nat) :=
  (d.tileRows i).map (fun t => (d.aux + t.2.1 / 32, (t.2.2 - t.2.1) / 32))
/-- Blocks of a row of an MX destination whose first byte lies in a tile: their scales are written with it. -/
def Desc.ownBlocks (d : Desc) (i r : Nat) : Nat × Nat :=
  let b := d.winBytes r (nth 0 d.windows i)
  let z := 4 * d.wd
  ((b.1 + z - 1) / z, (b.2 + z - 1) / z)
/-- Scale runs of a destination in MX. -/
def Desc.scaleOut (d : Desc) (i : Nat) : List (Nat × Nat) :=
  (d.tileRows i).map (fun t => let b := d.ownBlocks i t.1; (d.aux + b.1, b.2 - b.1))
/-- Source runs of tile i, `list` being the source list of REDUCE and MERGE. -/
def Desc.srcRuns (d : Desc) (i : Nat) (list : List Nat) : List (Nat × Nat) :=
  match d.op with
  | 0 | 1 | 2 => (d.tileRows i).map (fun t => elemRun (d.srcA + t.1 * d.sstr) t.2.1 t.2.2 d.ws)
  | 4 => list.flatMap (fun a => (d.tileRows i).map (fun t => elemRun a t.2.1 t.2.2 d.ws))
  | 5 => list.map (fun a => (a, recSize d.mrows d.mdim))
  | 6 => let z := kvSize (d.sh 26 24) (32 * (d.sh 32 30 + 1)); [(d.srcA + i * z, z)]
  | _ => []

/-- Whether a byte of the descriptor's destination side is also a source byte, as its addresses name them: elements, the
scales of an MX source, the source list (R168). -/
def Desc.overlaps (d : Desc) (list : List Nat) (a : Nat) : Bool :=
  let hit := fun (lo n : Nat) => lo ≤ a && a < lo + n
  ((d.op = 4 || d.op = 5) && !d.dscr && hit d.srcA (8 * d.nsrc))
    || (isMxF d.sfmt && d.sscr = d.dscr && hit d.aux (d.rowLen / 32)) || (d.sscr = d.dscr && match d.op with
    | 0 => hit d.srcA (elemBytes d.rowLen d.ws)
    | 1 | 2 => (List.range d.nrow).any (fun r => hit (d.srcA + r * d.sstr) (elemBytes d.rowLen d.ws))
    | 4 => list.any (fun b => hit b (elemBytes d.rowLen d.ws))
    | 5 => list.any (fun b => hit b (recSize d.mrows d.mdim))
    | 6 => hit d.srcA d.sspan
    | _ => false)

/-- Elements unpacked from the bytes that hold elements a to b. -/
def unpackRun (a b w : Nat) (bs : List Byte) : List Nat :=
  let n := leNat bs
  (List.range (b - a)).map (fun i => (n >>> (a * w % 8 + i * w)) % 2 ^ w)

/-- Elements packed into bytes; the unused half of a last byte is not given. -/
def packRun (w : Nat) (free : Byte) (cs : List Nat) : List Byte :=
  let n := packNat w cs
  let k := cs.length * w
  leBytes ((k + 7) / 8) (if k % 8 = 0 then n else n + (free.toNat / 16) * 2 ^ k)

/-- A transposed matrix given by rows. -/
def transposeRows (m : List (List Nat)) (n : Nat) : List (List Nat) :=
  (List.range n).map (fun j => m.map (fun r => nth 0 r j))

/-- The source bytes of a tile cut by run. -/
def cutRuns (rs : List (Nat × Nat)) (bs : List Byte) : List (List Byte) :=
  (rs.foldl (fun (acc, bs) r => (acc ++ [bs.take r.2], bs.drop r.2)) (([] : List (List Byte)), bs)).1

/-- The destination bytes of a tile, its scale bytes and flags, from its source bytes and scale bytes. -/
def Desc.tileData (d : Desc) (ctr i : Nat) (list : List Nat) (src scl : List Byte) : List Byte × List Byte × PFlags :=
  let rows := d.tileRows i
  let free := Config.freeByte ctr 0
  let cut := cutRuns (d.srcRuns i list) src
  let rowCodes := (List.zip rows cut).map (fun p => unpackRun p.1.2.1 p.1.2.2 d.ws p.2)
  let orAll := fun (fs : List PFlags) => fs.foldl PFlags.or {}
  -- the bytes of a row's elements that lie in the tile's window
  let clip := fun (t : Nat × Nat × Nat) (bs : List Byte) =>
    let b := d.winBytes t.1 (nth 0 d.windows i)
    (bs.drop (b.1 - t.2.1 * d.wd / 8)).take (b.2 - b.1)
  match d.op with
  | 0 | 1 =>
    let scs := cutRuns (d.scaleRun i) scl
    let rs := (List.zip rowCodes (fit [] rowCodes.length scs)).map (fun p =>
      d.convert p.1 (fun k => (nth 0 p.2 k).toNat))
    (((List.zip rows rs).map (fun p => clip p.1 (packRun d.wd free p.2.1))).flatten,
      ((List.zip rows rs).flatMap (fun p =>
        let b := d.ownBlocks i p.1.1
        (p.2.2.1.drop (b.1 - p.1.2.1 / 32)).take (b.2 - b.1))).map (BitVec.ofNat 8),
      orAll (rs.map (fun r => r.2.2)))
  | 2 =>
    let rs := rowCodes.map (fun cs => d.convert cs (fun _ => 127))
    let m := rs.map (·.1)
    let m := if d.tr then transposeRows m d.rowLen else m
    ((m.map (packRun d.wd free)).flatten, [], orAll (rs.map (fun r => r.2.2)))
  | 3 => (List.replicate (d.tileBytes i) 0, [], {})
  | 4 =>
    match rows with
    | [] => ([], [], {})
    | t :: _ =>
      let cols := cut.map (unpackRun t.2.1 t.2.2 32)
      let vs := (List.range (t.2.2 - t.2.1)).map (fun j =>
        combine d.redOp (fun k => Config.freeNat ctr (128 * (t.2.1 + j) + k)) 64 (cols.map (fun c => nth 0 c j)) {})
      let (cs, _, fl) := d.convert (vs.map (·.1)) (fun _ => 127)
      (clip t (packRun d.wd free cs), [], (orAll (vs.map (·.2))).or fl)
  | 5 =>
    let rs := cut.map (recRows d.mrows d.mdim)
    let pick := fun (k : Nat) => Config.freeNat ctr k
    let i0 := pick 600 % rs.length
    let (bs, fl) := d.mergeBytes (mergeAll pick rs.length (rs.eraseIdx i0) (nth [] rs i0))
    (bs, [], fl)
  | 6 => let (bs, fl) := d.kvBlock src; (bs, [], fl)
  | _ => ([], [], {})

/-! ### A tile performed (R170–R174) -/

/-- Source bytes of several runs, as they were before the descriptor wrote over any of them (R168). -/
def State.eReadSrc (s : State) (d : Desc) (e : EngId) (ps : List EPiece) : Except EStop (List Byte) × State :=
  match s.eReadAll d e ps with
  | (.error x, s) => (.error x, s)
  | (.ok bs, s) =>
    let addrs := ps.flatMap (fun p => (List.range p.len).map (p.a + ·))
    (.ok (if d.orig.isEmpty then bs else (List.zip addrs bs).map (fun p => (tfind d.orig p.1).getD p.2)), s)

/-- What the overlapping bytes of a tile's destination hold, kept for the tiles that read them later (R168). -/
def State.eKeep (s : State) (d : Desc) (e : EngId) (list : List Nat) (ps : List EPiece) : Desc × State :=
  let addrs := ps.flatMap (fun p => (List.range p.len).map (p.a + ·))
  if !addrs.any (d.overlaps list) then (d, s)
  else match s.eReadAll d e ps with
    | (.error _, s) => (d, s)
    | (.ok bs, s) =>
      ({d with orig := (List.zip addrs bs).foldl (fun t p =>
        if d.overlaps list p.1 && !thas t p.1 then tput t p.1 p.2 else t) d.orig}, s)

/-- The source list of REDUCE and MERGE read: 8 B entries at `src` (R166). -/
def State.eList (s : State) (d : Desc) (e : EngId) : Except EStop (List Nat) × State :=
  if d.op = 4 || d.op = 5 then
    match s.eLocate d e false false d.srcA (8 * d.nsrc) with
    | (.error x, s) => (.error x, s)
    | (.ok ps, s) => match s.eReadSrc d e ps with
      | (.error x, s) => (.error x, s)
      | (.ok bs, s) => (.ok ((List.range d.nsrc).map (fun i => leNat ((bs.drop (8 * i)).take 8))), s)
  else (.ok [], s)

/-- Tile i: every page translated, then read, then written. -/
def State.eTile (s : State) (d : Desc) (e : EngId) (i : Nat) : Except EStop Desc × State :=
  match s.eList d e with
  | (.error x, s) => (.error x, s)
  | (.ok list, s) =>
    if list.any (fun a => !(d.formOk d.sscr s.isGraft a)) then (.error (.ended 1 0), s)
    else
    let mxd := isMxF d.dfmt
    let mxs := isMxF d.sfmt
    match s.eLocateAll d e true d.dscr (d.dstRuns i ++ if mxd then d.scaleOut i else []) with
    | (.error x, s) => (.error x, s)
    | (.ok dps, s) =>
      match s.eLocateAll d e false d.sscr (d.srcRuns i list ++ if mxs then d.scaleRun i else []) with
      | (.error x, s) => (.error x, s)
      | (.ok sps, s) =>
        match s.eReadSrc d e sps with
        | (.error x, s) => (.error x, s)
        | (.ok bs, s) =>
          let (kept, s) := s.eKeep d e list dps
          let n := ((d.srcRuns i list).map (·.2)).foldl (· + ·) 0
          let (out, sc, fl) := d.tileData s.freeCtr i list (bs.take n) (bs.drop n)
          let addrs := dps.flatMap (fun p => (List.range p.len).map (p.a + ·))
          let out := (List.zip addrs (out ++ sc)).map (fun p =>
            if d.overlaps list p.1 then Config.freeByte s.freeCtr p.1 else p.2)
          let (r, s) := s.bump.eWriteAll d e dps out
          match r with
          | some x => (.error x, s)
          | none => (.ok {kept with flags := kept.flags.or fl}, s)

/-- Every issued tile commits: its writes have been performed (R171). -/
def Desc.commitAll (d : Desc) : Desc :=
  { d with tiles := d.issued,
           done := (List.range (d.issued - d.tiles)).foldl (fun n i => n + d.tileBytes (d.tiles + i)) d.done }

/-- A descriptor ends with a status (R176). -/
def Desc.endWith (d : Desc) (status addr : Nat) : Desc := {d.commitAll with st := .ended, status := status, addr := addr}

/-- A tile's fault recorded with the tile's extent on the side of the fault (R170, R405). -/
def State.tileFault (s : State) (d : Desc) (e : EngId) (i : Nat) (c : XCause) (ipa : Nat) (wlk : Bool) (va : Nat) (wr : Bool) :
    State :=
  match s.descCtx d with
  | none => s
  | some x =>
    let list := match (s.eList d e).1 with | .ok l => l | .error _ => []
    let rs := if wr then d.dstRuns i else d.srcRuns i list
    let lo := rs.foldl (fun a r => min a r.1) va
    let hi := rs.foldl (fun a r => max a (r.1 + r.2)) (va + 1)
    let ext := hi - lo
    s.recordFault (s.mkFault x 1 e.val c (if wr then .write else .read) va ipa wlk (if 2 ^ 20 < ext then 0 else ext)
      (if 2 ^ 20 < ext then 0 else va - lo))

/-- The first fault translating a tile meets, if any. -/
def State.tileProbe (s : State) (d : Desc) (e : EngId) (i : Nat) : Option EStop × State :=
  match s.eLocateAll d e true d.dscr (d.dstRuns i) with
  | (.error x, s) => (some x, s)
  | (.ok _, s) => match s.eList d e with
    | (.error x, s) => (some x, s)
    | (.ok list, s) => match s.eLocateAll d e false d.sscr (d.srcRuns i list) with
      | (.error x, s) => (some x, s)
      | (.ok _, s) => (none, s)

/-- The anchor of a descriptor (R159): it has none, a cask, the cask `acask` names wrongly, or one that a fault of its
translation keeps open. -/
inductive Anchor where
  | any
  | cask (k : Nat)
  | bad
  | faults
  deriving DecidableEq, Repr

/-- The cask of an address, none where it is in no cask or its translation faults. -/
def State.addrCask (s : State) (d : Desc) (scr wr : Bool) (a : Nat) : Except Unit (Option Nat) × State :=
  if scr then (.ok none, s)
  else if d.phys then (.ok (if a < 0xC000000000 then some (a / 2 ^ 36) else none), s)
  else match s.translate .none' ((s.descCtx d).getD 0) a (if wr then .write else .read) with
    | (.cask pa _, s) => (.ok (if pa < 0xC000000000 then some (pa / 2 ^ 36) else none), s)
    | (.host _, s) => (.ok none, s)
    | (_, s) => (.error (), s)

/-- The anchor by the addresses named, in order, else by `acask`. -/
def State.anchorBy (s : State) (d : Desc) : List (Bool × Bool × Nat) → Anchor × State
  | [] => (if d.acask ≤ 11 then .cask d.acask else .bad, s)
  | (scr, wr, a) :: l =>
    match s.addrCask d scr wr a with
    | (.ok (some k), s) => (.cask k, s)
    | (.ok none, s) => s.anchorBy d l
    | (.error _, s) => (.faults, s)

/-- The anchor cask of a descriptor (R159). -/
def State.anchor (s : State) (d : Desc) : Anchor × State :=
  if d.op = 7 then (.any, s)
  else if d.op = 3 || d.op = 4 || d.op = 5 then s.anchorBy d [(d.dscr, true, d.dstA)]
  else s.anchorBy d [(d.sscr, false, d.srcA), (d.dscr, true, d.dstA)]

/-- Whether an anchor lets a cask's engines run the descriptor. -/
def Anchor.allows (a : Anchor) (k : Nat) : Bool := match a with | .cask c => c = k | _ => true

/-- Another descriptor waits for an engine's cask. -/
def State.engineWanted (s : State) (e : EngId) (d : Desc) : Bool :=
  s.hub.desc.any (fun f => f.id ≠ d.id && (f.st = .queued || f.st = .yielded) && (s.anchor f).1.allows (e.val / 8))

/-- An engine has run 16 tiles of a descriptor in turn while another waits: it yields (R160). -/
def State.mustYield (s : State) (e : EngId) (d : Desc) : Bool :=
  0 < d.issued - d.base && (d.issued - d.base) % 16 = 0 && s.engineWanted e d

/-- The next tile of the descriptor an engine runs, when its op is the one named: at most eight tiles are in flight, and
none is begun while a write of the engine waits at its home agent. A resolvable fault parks it, and the tiles already in
flight behind it record their faults too; anything else that stops it ends it. -/
def State.engineRun (s : State) (e : EngId) (op : Nat) : State :=
  match s.onEngine e with
  | none => s
  | some d =>
    if d.op ≠ op || s.descFrozen d || d.tileCount ≤ d.issued || 8 ≤ d.issued - d.tiles || s.agentWaits (1 + e.val) || s.mustYield e d then s
    else if s.bunged (engNi e) then s.setDesc (d.endWith 4 d.dstA)
    else
      match s.eTile d e d.issued with
      | (.ok d, s) => s.setDesc {d with issued := d.issued + 1}
      | (.error .wait, s) => s
      | (.error (.ended st a), s) => s.setDesc (d.endWith st a)
      | (.error (.fault c ipa w va wr), s) =>
        let s := s.tileFault d e d.issued c ipa w va wr
        if c = .walkpoi then
          match s.descCtx d with | some x => s.ctxLose x .poison | none => s
        else if c.fatal then s.setDesc (d.endWith 5 va)
        else
          let later := (List.range 7).map (d.issued + 1 + ·)
          let s := (later.filter (· < d.tileCount)).foldl (fun s i =>
            match s.tileProbe d e i with
            | (some (.fault c ipa w va wr), s) => if c.fatal then s else s.tileFault d e i c ipa w va wr
            | (_, s) => s) s
          s.setDesc {d.commitAll with st := .parked, addr := va}

/-- COPY. -/
def execCopy (e : EngId) (s : State) : Res := .next (s.engineRun e 0)
/-- STRIDE. -/
def execStride (e : EngId) (s : State) : Res := .next (s.engineRun e 1)
/-- TILE2D. -/
def execTile2d (e : EngId) (s : State) : Res := .next (s.engineRun e 2)
/-- ZERO. -/
def execZero (e : EngId) (s : State) : Res := .next (s.engineRun e 3)
/-- REDUCE. -/
def execReduce (e : EngId) (s : State) : Res := .next (s.engineRun e 4)
/-- MERGE. -/
def execMerge (e : EngId) (s : State) : Res := .next (s.engineRun e 5)
/-- KVCVT. -/
def execKvcvt (e : EngId) (s : State) : Res := .next (s.engineRun e 6)

/-- A descriptor without tiles ends at once. -/
def Desc.start (d : Desc) (e : EngId) : Desc :=
  if d.tileCount ≤ d.issued then d.endWith 0 0 else {d with st := .running e, base := d.issued}

/-- NOP: it has no tile, so the engine that runs it is done with it. -/
def execNop (e : EngId) (s : State) : Res :=
  .next (match s.onEngine e with
    | some d => if d.op = 7 && !s.descFrozen d then s.setDesc (d.endWith 0 0) else s
    | none => s)

/-- TILE_COMMIT: the oldest tile in flight commits; with the last the descriptor has ended OK (R171). -/
def execTileCommit (e : EngId) (s : State) : Res :=
  .next (match s.onEngine e with
    | some d =>
      if d.tiles < d.issued && !s.agentWaits (1 + e.val) then
        let d := {d with done := d.done + d.tileBytes d.tiles, tiles := d.tiles + 1}
        s.setDesc (if d.tileCount ≤ d.tiles then {d with st := .ended} else d)
      else s
    | none => s)

/-! ### Dispatch (R159–R161, R178) -/

/-- The fence maps a descriptor needs (R377). -/
def State.descFences (s : State) (d : Desc) : Bool :=
  match s.descCtx d with
  | none => true
  | some x =>
    let c := s.ctxOf x
    (!d.sig || c.fsmap.getLsbD (d.sfence / 256)) && (!d.waits || c.fwmap.getLsbD (d.wfence / 256))

/-- The descriptor of a source that dispatch may start: a yielded one first, else the first not yet started, unless
`ord` holds it behind an earlier one (R160, R163). -/
def State.nextDesc (s : State) (src : DescSrc) : Option Desc :=
  let ds := s.descsOf src
  match ds.find? (fun d => d.st = .yielded) with
  | some d => some d
  | none =>
    match ds.find? (fun d => d.st = .queued) with
    | some d => if d.ord && (match ds with | f :: _ => f.id ≠ d.id | [] => false) then none else some d
    | none => none

/-- Whether new descriptors of a source start: its queue is ON, or it is firmware's. A yielded or resumed one has
started already (R373, R379). -/
def State.srcStarts (s : State) (d : Desc) : Bool :=
  match d.queue with
  | some q => ((s.queueOf q).state = .on || d.st = .yielded) && (s.ctxOf (s.queueOf q).ctx.val).state = .live
  | none => true

/-- What the wait of a descriptor comes to: none while it lasts, 0 when it is over, 1 when its fence is abandoned (R178). -/
def State.descWait (s : State) (d : Desc) : Option Nat :=
  if d.st = .queued && d.waits then
    (s.fenceOf d.wfence).waitResult ((s.descSlice d).getD (s.fenceOf d.wfence).slice.val) d.wval
  else some 0

/-- Queue slots whose next descriptor could start on a cask's engines now, in order of number. -/
def State.readyQueues (s : State) (k : Nat) : List Nat :=
  let qs := (s.hub.desc.filterMap Desc.queue).foldl (fun (l : List Nat) q => if l.contains q then l else q :: l) []
  (qs.filter (fun q => match s.nextDesc (.queue ⟨q % 16384, Nat.mod_lt _ (by decide)⟩) with
    | some d => !s.descFrozen d && s.srcStarts d && s.descWait d = some 0 && (s.anchor d).1.allows k
    | none => false)).mergeSort (· ≤ ·)

/-- The dispatch weight of a queue slot: its slice's engine share, 0 counting as 1 (R416). -/
def State.queueShare (s : State) (q : Nat) : Nat := max 1 (s.sliceOf (s.ctxOf (s.queueOf q).ctx.val).slice.val).eshare.toNat

/-- The queue slot a cask serves next: round robin, each as often in turn as its share says (R160; DESIGN CHOICE, log 24). -/
def State.nextQueue (s : State) (k : Nat) : Option Nat :=
  let rs := s.readyQueues k
  match tfind s.hub.served k with
  | some (l, n) =>
    if rs.contains l && n < s.queueShare l then some l
    else match rs.find? (fun q => l < q) with | some q => some q | none => rs.head?
  | none => rs.head?

/-- A queue slot served by a cask. -/
def State.serveQueue (s : State) (k : Nat) (q : Option Nat) : State :=
  match q with
  | none => s
  | some q =>
    let n := match tfind s.hub.served k with | some (l, n) => if l = q && n < s.queueShare q then n + 1 else 1 | none => 1
    s.modHub (fun h => {h with served := tput h.served k (q, n)})

/-- A descriptor that may start on an engine: rejected where `acask` is used and names no cask (R167), else started on an
engine of its anchor cask, when its queue slot is the next one. -/
def State.descLaunch (s : State) (d : Desc) (e : EngId) : State :=
  let k := e.val / 8
  match s.anchor d with
  | (.bad, s') => s'.setDesc (d.endWith 1 0)
  | (.any, s') => s'.setDesc {d with st := .running e, base := d.issued}
  | (a, s') =>
    if a.allows k && (d.isFw || s.nextQueue k = d.queue) then (s'.setDesc (d.start e)).serveQueue k d.queue else s'

/-- The next ready descriptor of a source starts on a free engine, after its fence maps, its wait and its checks (R160,
R167, R178, R377). -/
def State.dispatch (s : State) (src : DescSrc) (e : EngId) : State :=
  match s.nextDesc src with
  | none => s
  | some d =>
    if (s.onEngine e).isSome || s.descFrozen d || !s.srcStarts d then s
    else if d.st = .queued && !s.descFences d then s.setDesc (d.endWith 3 0)
    else match s.descWait d with
      | none => s
      | some 0 => if d.st = .queued && !d.legal s.boot.feat.toNat s.isGraft then s.setDesc (d.endWith 1 0) else s.descLaunch d e
      | some _ => s.setDesc (d.endWith 6 0)

/-- Descriptors put into the firmware's submission queue (R158, log 24), whose first becomes ready. -/
def State.fwSubmit (s : State) (subs : List (List Word)) : State :=
  match s.hub.fwq ++ subs with
  | [] => s
  | w :: ws => s.modHub (fun h => { h with
      fwq := ws, descId := h.descId + 1,
      desc := h.desc ++ [⟨h.descId, .firmware, h.descId, fit 0 8 w, 0, .queued, 0, 0, 0, {}, 0, 0, false, 0, []⟩] })

/-- DESC_DISPATCH. -/
def execDescDispatch (src : DispatchSrc) (e : EngId) (s : State) : Res :=
  .next (match src with
    | .queue q => s.dispatch (.queue q) e
    | .firmware subs => (s.fwSubmit subs).dispatch .firmware e)

/-- ENGINE_YIELD: after 16 tiles, when another descriptor waits for the engine's cask (R160). -/
def execEngineYield (e : EngId) (s : State) : Res :=
  .next (match s.onEngine e with
    | some d => if s.mustYield e d && !s.agentWaits (1 + e.val) then s.setDesc {d.commitAll with st := .yielded} else s
    | none => s)

/-! ### Completion (R175–R177) -/

/-- The 32 B completion record. -/
def Desc.record (d : Desc) (now : Nat) (unl : Bool) : List Byte :=
  wordsBytes [d.tagF + 2 ^ 16 * d.vint.toNat + 2 ^ 32 * d.status + 2 ^ 40 * d.flags.toNat + 2 ^ 45 * b2n unl + 2 ^ 48 * d.op,
    d.done, d.addr, now]

/-- The signal of a descriptor (R177, R376). -/
def State.descSignal (s : State) (d : Desc) : State :=
  let s' := s.fenceSig d.sfence (s.descSlice d) d.sval
  if fenceReserved d.sval then match s.descCtx d with | some x => s'.ctxLose x .fenceval | none => s' else s'

/-- A queue's completed entry counted in `head`, or its failure (R370, R373). -/
def State.descCount (s : State) (q : Nat) (d : Desc) : State :=
  if d.status = 0 then (s.modQueue q (fun u => {u with head := u.head + 1})).statusLine q
  else (s.modQueue q (fun u => {u with failed := u.failed + 1})).queueErr q 1

/-- A drain ends when nothing of the queue is left: OFF, vintage advanced, the command ends (R379). -/
def State.drainEnd (s : State) (q : Nat) : State :=
  let u := s.queueOf q
  if u.state = .drain && s.hub.desc.all (fun d => d.queue ≠ some q) then
    let s := s.modQueue q (fun u => { u with
      state := .off, err := 0, vint := u.vint + 1, drainBlk := none, failed := 0, stalled := false, lineDue := false })
    let s := s.statusLine q
    match u.drainBlk with | some b => s.cmdEnd b.val 0 | none => s
  else s

/-- The steps of R177 for an ended descriptor at the front of its source. A stale vintage is discarded (R421). -/
def State.descFinish (s : State) (d : Desc) : State :=
  let s := s.modHub (fun h => {h with desc := h.desc.filter (fun f => f.id ≠ d.id)})
  match d.queue with
  | none => if d.sig && d.status = 0 then s.descSignal d else s
  | some q =>
    let u := s.queueOf q
    if u.vint ≠ d.vint then s.countStale (some (u.ctx.val, 0))
    else
      let slot := u.cbase.toNat + 32 * (d.ridx % 2 ^ (u.lgn.toNat + 4))
      let (r, s) := if d.status ≠ 0 || d.crec then s.qWrite u.ctx.val slot (d.record s.now (!s.time.tlock)) else (.done, s)
      match r with
      | .fault c i w =>
        -- a resolvable fault stalls the queue with the descriptor still to complete (R403)
        let s := s.queueFault q c .write slot i w 32
        if c.fatal then s else s.modHub (fun h => {h with desc := d :: h.desc})
      | .bad _ => ((s.queueErr q 6).descCount q d).drainEnd q
      | .done =>
        let s := if d.sig && d.status = 0 then s.descSignal d else s
        let s := if d.irq then s.raiseQueue q else s
        ((s.descCount q d).drainEnd q)

/-- DESC_COMPLETE: held while an earlier descriptor of the source is not complete, its queue is stalled, or its slice is
frozen (R161, R423). -/
def execDescComplete (src : DescSrc) (s : State) : Res :=
  .next (match s.descsOf src with
    | d :: _ =>
      let stalled := match d.queue with | some q => (s.queueOf q).stalled | none => false
      if d.st = .ended && !s.descFrozen d && !stalled then s.descFinish d else s
    | [] => s)

end Sys2Proof.Machine
end

