-- ==== Sys2Proof/Machine/Contexts.lean ====
section
/-! DEFINITION. Contexts, queues and fence objects: the commands of the command blocks, slot writes, doorbells, the ring
fetch, the end of an abort (R362–R382). -/

namespace Sys2Proof.Machine

/-! ### Command blocks (R379) -/

/-- `code` of a finished command. -/
inductive Code where
  | ok | badState | badArg | range
  deriving DecidableEq, Repr

def codeNum : Code → Nat | .ok => 0 | .badState => 1 | .badArg => 2 | .range => 3

/-- What a command comes to: it ends with a code, or goes on. -/
inductive CmdRes where
  | ends (c : Code)
  | goes
  deriving DecidableEq, Repr

/-- A command block takes a command. -/
def State.cmdStart (s : State) (b op idx : Nat) : State :=
  s.modHub (fun h => {h with cmd := tmod {} h.cmd b (fun c => {c with busy := true, cur := some (op, idx)})})

/-- A write of `CMD`: discarded while the block is busy, else run with its argument. -/
def State.cmdGo (s : State) (b op idx : Nat) (f : Word → State → CmdRes × State) : State :=
  let blk := s.cmdOf b
  if blk.busy then s.modHub (fun h => {h with cmdDisc := h.cmdDisc + 1})
  else
    match f blk.arg0 (s.cmdStart b op idx) with
    | (.ends c, s) => s.cmdEnd b (codeNum c)
    | (.goes, s) => s

/-- The save area lies in the usable range of one cask, 640 KiB from a multiple of 64 KiB (R365). -/
def saveAreaOk (sbase : Nat) : Bool :=
  match regionOf (65536 * sbase) with
  | .usable _ off => off + 0xA0000 ≤ usableEnd
  | _ => false

/-- Sites of a mask that hold no Bambipin die. -/
def State.badSites (s : State) (m : BitVec 16) : Bool := (List.range 16).any (fun x => m.getLsbD x && s.isGraft x)

def State.sliceFrozen (s : State) (sl : Nat) : Bool :=
  let st := (s.sliceOf sl).state
  st = .freezing || st = .frozen

def State.ctxCreate (x : Nat) (arg : Word) (s : State) : CmdRes × State :=
  let c := s.ctxOf x
  if c.smask = 0 || s.badSites c.smask || !saveAreaOk c.sbase.toNat then (.ends .badArg, s)
  else if c.state ≠ .free || (s.sliceOf c.slice.val).state ≠ .active then (.ends .badState, s)
  else
    let s := s.modCtx x (fun c => { c with
      state := .live, cause := 0, nload := 0, npre := 0, tchg := BitVec.ofNat 64 s.now, idle := false, quantum := false, barIn := 0 })
    (.ends .ok, if arg.getLsbD 0 then s.wantNow x else s)

/-- CTXCREATE. -/
def execCtxcreate (b : Fin 4) (x : CtxId) (s : State) : Res := .next (s.cmdGo b.val 1 x.val (State.ctxCreate x.val))

def State.ctxDestroy (b : Fin 4) (x : Nat) (s : State) : CmdRes × State :=
  let c := s.ctxOf x
  if (c.state ≠ .live && c.state ≠ .lost) || s.sliceFrozen c.slice.val then (.ends .badState, s)
  else (.goes, s.abortBegin x .free (some b))

/-- CTXDESTROY: ends with ABORT_STEPS_DONE. -/
def execCtxdestroy (b : Fin 4) (x : CtxId) (s : State) : Res :=
  .next (s.cmdGo b.val 2 x.val (fun _ s => s.ctxDestroy b x.val))

def State.ctxAbort (b : Fin 4) (x : Nat) (s : State) : CmdRes × State :=
  let c := s.ctxOf x
  if c.state ≠ .live || s.sliceFrozen c.slice.val then (.ends .badState, s)
  else (.goes, (s.logEvent 2 dieHub 0x2A00 x 1).abortBegin x (.lost .abort) (some b))

/-- CTXABORT: ends with ABORT_STEPS_DONE. -/
def execCtxabort (b : Fin 4) (x : CtxId) (s : State) : Res :=
  .next (s.cmdGo b.val 3 x.val (fun _ s => s.ctxAbort b x.val))

def State.ctxPreempt (b : Fin 4) (x : Nat) (s : State) : CmdRes × State :=
  let c := s.ctxOf x
  match c.state, c.pos with
  | .live, some p =>
    match c.saving with
    | none | some (.preempt _) => (.goes, s.saveBegin p x (.command b))
    | some _ => (.ends .ok, s)
  | _, _ => (.ends .badState, s)

/-- CTXPREEMPT: ends with CONTEXT_SAVE; at once when another command or a freeze is saving the context already. -/
def execCtxpreempt (b : Fin 4) (x : CtxId) (s : State) : Res :=
  .next (s.cmdGo b.val 4 x.val (fun _ s => s.ctxPreempt b x.val))

def State.qEnable (q : Nat) (s : State) : CmdRes × State :=
  let u := s.queueOf q
  if (u.kind ≠ 1 && u.kind ≠ 2) || 12 < u.lgn.toNat || u.rbase.toNat % 64 ≠ 0 || u.sline.toNat % 64 ≠ 0
      || (u.kind = 1 && u.cbase.toNat % 32 ≠ 0) then (.ends .badArg, s)
  else if u.state ≠ .off || (s.ctxOf u.ctx.val).state ≠ .live then (.ends .badState, s)
  else
    let s := s.modQueue q (fun u => { u with
      head := 0, tail := 0, fetched := 0, failed := 0, state := .on, err := 0, stalled := false, lineDue := false, frozenDb := 0 })
    (.ends .ok, s.statusLine q)

/-- QENABLE. -/
def execQenable (b : Fin 4) (q : QId) (s : State) : Res := .next (s.cmdGo b.val 5 q.val (fun _ s => s.qEnable q.val))

def State.qDisable (b : Fin 4) (q : Nat) (s : State) : CmdRes × State :=
  let u := s.queueOf q
  if u.state ≠ .on && u.state ≠ .error then (.ends .badState, s)
  else
    let s := s.modQueue q (fun u => {u with state := .drain, drainBlk := some b})
    let s := s.modHub (fun h => {h with desc := h.desc.filter (fun d => !(d.queue = some q && d.st = .queued))})
    (.goes, (s.statusLine q).drainEnd q)

/-- QDISABLE: ends when nothing started is left. -/
def execQdisable (b : Fin 4) (q : QId) (s : State) : Res := .next (s.cmdGo b.val 6 q.val (fun _ s => s.qDisable b q.val))

def State.qResume (q : Nat) (s : State) : CmdRes × State :=
  let u := s.queueOf q
  if u.state ≠ .error || u.err ≠ 1 then (.ends .badState, s)
  else
    let s := s.modQueue q (fun u => {u with state := .on, err := 0, head := u.head + BitVec.ofNat 32 u.failed, failed := 0})
    (.ends .ok, s.statusLine q)

/-- QRESUME: failed entries count as completed (R373). -/
def execQresume (b : Fin 4) (q : QId) (s : State) : Res := .next (s.cmdGo b.val 7 q.val (fun _ s => s.qResume q.val))

def State.fArm (f : Nat) (arg : Word) (s : State) : CmdRes × State :=
  let o := s.fenceOf f
  if fenceReserved arg then (.ends .range, s)
  else if o.armed && !o.aband then (.ends .badState, s)
  else (.ends .ok, ((s.modFence f (fun o => {o with value := arg, armed := true, aband := false})).fenceWake f).fenceEvent f)

/-- FARM. -/
def execFarm (b : Fin 4) (f : FenceId) (s : State) : Res := .next (s.cmdGo b.val 8 f.val (State.fArm f.val))

/-- FSIGNAL. -/
def execFsignal (b : Fin 4) (f : FenceId) (s : State) : Res :=
  .next (s.cmdGo b.val 9 f.val (fun v s => (.ends (if fenceReserved v then .range else .ok), s.fenceSig f.val none v)))

def State.fAbandon (f : Nat) (s : State) : CmdRes × State :=
  if (s.fenceOf f).armed then (.ends .ok, s.fenceAbandon f) else (.ends .badState, s)

/-- FABANDON. -/
def execFabandon (b : Fin 4) (f : FenceId) (s : State) : Res := .next (s.cmdGo b.val 10 f.val (fun _ s => s.fAbandon f.val))

/-- Whether a thread or a descriptor waits on a fence. -/
def State.fenceWaited (s : State) (f : Nat) : Bool :=
  s.die.any (fun d => d.2.core.any (fun c => c.2.thr.any (fun t =>
    match t.2.wait with | .fence _ n _ => decide (n = f) | _ => false)))
  || s.hub.desc.any (fun d => d.st = .queued && d.waits && d.wfence = f && s.nextDesc d.src = some d)

def State.fDisarm (f : Nat) (s : State) : CmdRes × State :=
  if !(s.fenceOf f).aband && s.fenceWaited f then (.ends .badState, s)
  else (.ends .ok, s.modFence f (fun o => {o with armed := false, pen := false}))

/-- FDISARM. -/
def execFdisarm (b : Fin 4) (f : FenceId) (s : State) : Res := .next (s.cmdGo b.val 11 f.val (fun _ s => s.fDisarm f.val))

/-! ### Slot writes (R362–R364, R369, R375) -/

/-- A register write that the host, hub controllers and MGD may make; `ok` says whether it is to a field the host may
write, else it is discarded and counted (R343, R362). -/
def State.hubWrite (s : State) (who : Who) (ok : Bool) (f : State → State) : State :=
  match who with
  | .core _ | .graft _ => s.ack who .refused
  | .host e => (if ok then f s else s.cwDiscard e).ack who .ok
  | _ => (if ok then f s else s).ack who .ok

/-- 64 bits of a map of 256 replaced. -/
def putWord (m : BitVec 256) (i : Nat) (v : Word) : BitVec 256 :=
  BitVec.ofNat 256 (m.toNat - bits m.toNat (64 * i + 63) (64 * i) * 2 ^ (64 * i) + v.toNat * 2 ^ (64 * i))

/-- Words of a context slot that software may write. -/
def Ctx.write (c : Ctx) (w : Nat) (v : Word) : Ctx :=
  let n := v.toNat
  match w with
  | 1 => if c.state ≠ .free then c else
      {c with slice := ⟨n % 64, Nat.mod_lt _ (by decide)⟩, prio := BitVec.ofNat 2 (n / 64), smask := BitVec.ofNat 16 (n / 256)}
  | 2 => if c.state ≠ .free then c else
      {c with skslot := ⟨n % 64, Nat.mod_lt _ (by decide)⟩, sbase := BitVec.ofNat 32 (n / 65536)}
  | 3 => if c.state ≠ .free then c else {c with s1root := v &&& 0xFFFFFFFFF003}
  | 4 | 5 | 6 | 7 => {c with fsmap := putWord c.fsmap (w - 4) v}
  | 8 | 9 | 10 | 11 => {c with fwmap := putWord c.fwmap (w - 8) v}
  | _ => c

/-- CONTEXT_SLOT_WRITE. -/
def execContextSlotWrite (who : Who) (x : CtxId) (word : Fin 16) (v : Word) (s : State) : Res :=
  .next (s.atOwner who (machineryNi x.val) (fun s =>
    s.hubWrite who (1 ≤ word.val && word.val ≤ 11) (fun s => s.modCtx x.val (fun c => c.write word.val v))))

/-- Words of a queue slot that software may write. -/
def Queue.write (u : Queue) (w : Nat) (v : Word) : Queue :=
  let n := v.toNat
  if u.state ≠ .off then u
  else match w with
    | 0 => { u with kind := BitVec.ofNat 2 n, ctx := ⟨n / 4 % 4096, Nat.mod_lt _ (by decide)⟩, lgn := BitVec.ofNat 4 (n / 2 ^ 14),
                    vec := ⟨n / 2 ^ 18 % 2048, Nat.mod_lt _ (by decide)⟩, thr := ⟨n / 2 ^ 29 % 4, Nat.mod_lt _ (by decide)⟩ }
    | 1 => {u with rbase := v}
    | 2 => {u with sline := v}
    | 3 => {u with cbase := v}
    | _ => u

/-- QUEUE_SLOT_WRITE. -/
def execQueueSlotWrite (who : Who) (q : QId) (word : Fin 8) (v : Word) (s : State) : Res :=
  .next (s.atOwner who (machineryNi q.val) (fun s =>
    s.hubWrite who (word.val ≤ 3) (fun s => s.modQueue q.val (fun u => u.write word.val v))))

/-- `FCFG` and `FEVT` of a fence object written; an event already due is raised at once (R378). -/
def State.fenceWrite (s : State) (f w : Nat) (v : Word) : State :=
  let n := v.toNat
  match w with
  | 1 =>
    (s.modFence f (fun o => { o with
      slice := if o.armed then o.slice else ⟨n % 64, Nat.mod_lt _ (by decide)⟩,
      prod := ⟨n / 256 % 4096, Nat.mod_lt _ (by decide)⟩, pen := bit n 20, evn := bit n 21,
      evec := ⟨n / 2 ^ 22 % 2048, Nat.mod_lt _ (by decide)⟩ })).fenceEvent f
  | 2 => s.modFence f (fun o => {o with evval := v})
  | _ => s

/-- FENCE_CFG_WRITE. -/
def execFenceCfgWrite (who : Who) (f : FenceId) (word : Fin 8) (v : Word) (s : State) : Res :=
  .next (s.atOwner who (niService (f.val % 4) 1) (fun s =>
    s.hubWrite who (word = 1 || word = 2) (fun s => s.fenceWrite f.val word.val v)))

/-! ### Doorbells (R371–R374) -/

/-- DOORBELL: a tail reaches the machinery. -/
def execDoorbell (q : QId) (tail : Half) (s : State) : Res := .next (s.ringDoorbell q.val tail none)

/-- Whether a core or graft may use a core doorbell (R374). -/
def State.ownsQueue (s : State) (who : Who) (q : Nat) : Bool :=
  match who with
  | .core h => (s.coreOf (hartCore h)).ctx = some (s.queueOf q).ctx
  | .graft x => (s.gateOf x.val).fctx = (s.queueOf q).ctx
  | _ => false

/-- CORE_DOORBELL. -/
def execCoreDoorbell (who : Who) (q : QId) (v : Word) (s : State) : Res :=
  .next (match who with
    | .core _ | .graft _ =>
      s.atOwner who (machineryNi q.val) (fun s =>
        (if s.ownsQueue who q.val then s.ringDoorbell q.val (v.setWidth 32) none else s.dbDiscard q.val none).ack who .ok)
    | _ => s.ack who .refused)

/-! ### Ring fetch (R196, R369, R372, R373) -/

/-- One ring entry taken: a descriptor for dispatch. -/
def State.takeEntryQ (s : State) (q : Nat) (bs : List Byte) : State :=
  let u := s.queueOf q
  let ws := (List.range 8).map (fun i => BitVec.ofNat 64 (leNat ((bs.drop (8 * i)).take 8)))
  (s.modQueue q (fun u => {u with fetched := u.fetched + 1})).modHub (fun h => { h with
    descId := h.descId + 1,
    desc := h.desc ++ [⟨h.descId, .queue ⟨q % 16384, Nat.mod_lt _ (by decide)⟩, u.fetched.toNat, ws, u.vint, .queued, 0, 0, 0, {}, 0, 0, false, 0, []⟩] })

/-- RING_ENTRY_FETCH: the next entry up to the tail. -/
def execRingEntryFetch (q : QId) (s : State) : Res :=
  let u := s.queueOf q.val
  let x := u.ctx.val
  let va := u.rbase.toNat + 64 * (u.fetched.toNat % 2 ^ (u.lgn.toNat + 4))
  .next (if u.state ≠ .on || u.kind ≠ 1 || u.stalled || u.fetched = u.tail || (s.ctxOf x).state ≠ .live || s.ctxFrozen x then s
    else match s.translate .none' x va .read with
      | (.fault c i w, s) => s.queueFault q.val c .read va i w 64
      | (.walk _, s) => s.queueErr q.val 6
      | (.cask pa k, s) =>
        let (st, poi, bs, s) := s.paGet (machinery q.val (s.ctxOf x).slice.val) k pa 64
        if st ≠ .ok then s.queueErr q.val 6 else if poi then s.queueErr q.val 3 else s.takeEntryQ q.val bs
      | (.host iova, s) =>
        match s.hostGet (machineryNi q.val) (s.ctxOf x).slice.val iova 64 with
        | (.ok bs, s) => s.takeEntryQ q.val bs
        | (.error (.ended 2 _), s) => s.queueErr q.val 3
        | (.error (.ended _ _), s) => s.queueErr q.val 6
        | (.error _, s) => s)

/-! ### The end of an abort (R380) -/

/-- No access of a core waits for its answer: its response buffers are free (R48, R380). -/
def State.buffersFree (s : State) (p : Nat) : Bool :=
  let d := s.dieOf (p / 256)
  d.miss.all (fun m => hartCore m.hart ≠ p) && d.posted.all (fun q => hartCore q.hart ≠ p || q.data.isSome)

/-- POSITION_RELEASE: every response buffer of the position is free. -/
def execPositionRelease (c : CoreId) (s : State) : Res :=
  .next (if s.hub.posHeld.contains c && s.buffersFree c.val then
      ((s.modHub (fun h => {h with posHeld := h.posHeld.erase c})).modCore c.val (fun k => {k with saving := false})).substNext c.val
    else s)

end Sys2Proof.Machine
end

