-- ==== Sys2Proof/Machine/TranslationCmds.lean ====
section
/-! DEFINITION. Translation commands (R394, R399–R413): a walk's table reads, fault batches, the fault queue registers,
invalidation, fault resolution. -/

namespace Sys2Proof.Machine

/-! ### Walks of threads (R394, R401) -/

/-- The next table read of a walk sent. -/
def State.walkSend (s : State) (id : Nat) (w : Walk) : State :=
  s.walkRead id w

/-- A walk that faults: a fault-only-first load ends before the element, anything else takes the lowest fault of its
pages (R100, R405). -/
def State.walkFault (s : State) (h : Hart) (w : Walk) (c : XCause) (ipa : Nat) (wlk : Bool) : State :=
  let t := s.thrOf h
  match t.wait with
  | .mem op =>
    let ps := op.pieces t
    match ps.find? (fun p => p.va ≤ w.va && w.va < p.va + max 1 p.len) with
    | none => s
    | some p =>
      let ff := match op with | .load _ _ (.v _ m) => m.ff && t.vstart < p.idx | _ => false
      if ff then (s.modThr h (fun t => t.setCsr Csr.vl (BitVec.ofNat 64 p.idx))).replay h
      else
        let (rs, s) := s.locateAll h op.acc ps
        let (p, c, i, k) := rs.foldl (fun (a : Piece × XCause × Nat × Bool) r =>
          match r.2 with
          | .fault c i k => if r.1.va < a.1.va then (r.1, c, i, k) else a
          | _ => a) (p, c, ipa, wlk)
        s.threadFault h op ps p c i k
  | _ => s

/-- A walk goes on, ends with a translation, or faults. -/
def State.walkTo (s : State) (q : ThreadWalk) (r : WalkRes) : State :=
  let gone := fun (s : State) => s.modHub (fun h => {h with walks := h.walks.filter (fun w => w.id ≠ q.id)})
  match s.walkSkip 26 r with
  | .read w => (s.modHub (fun h => {h with walks := h.walks.map (fun x => if x.id = q.id then {x with w := w} else x)})).walkSend q.id w
  | .done e => ((((gone s).tcFill e).tlbFill (.core (hartCore q.hart)) e)).replay q.hart
  | .fault c i k => (gone s).walkFault q.hart q.w c i k

/-- WALK_STEP: the answer to the outstanding table read of a walk. -/
def execWalkStep (id : Nat) (st : Status) (poison : Bool) (entry : Word) (s : State) : Res :=
  .next (match s.hub.walks.find? (fun w => w.id = id) with
    | none => s
    | some q =>
      let r := s.walkNext q.w st poison entry
      let s := match r with | .read _ => s.walkFill q.w entry | _ => s
      s.walkTo q r)

/-- Walks in the scope of an invalidation are discarded and restarted under new numbers (R401). -/
def State.walkRestart (s : State) (p : Walk → Bool) : State :=
  (s.hub.walks.filter (fun w => p w.w)).foldl (fun s q =>
    let n := s.hub.walkId
    let s := s.modHub (fun h => {h with
      walks := h.walks.map (fun x => if x.id = q.id then {x with id := n} else x), walkId := n + 1})
    s.walkTo {q with id := n} (s.walkBegin q.w.ctx q.w.va q.w.acc q.w.user)) s

/-! ### Fault queues (R407, R410) -/

/-- FAULT_BATCH_CLOSE. -/
def execFaultBatchClose (x : SliceId) (s : State) : Res := .next (s.batchClose x.val)

/-- A write to translation registers discarded and counted (OD 0x2B00.07). -/
def State.xDiscard (s : State) : State := s.modHub (fun h => {h with xDisc := h.xDisc + 1})

/-- A write of a fault queue block. -/
def State.fqWrite (s : State) (x w : Nat) (v : Word) : State :=
  let q := s.fqOf x
  let n := v.toNat
  match w with
  | 0 => if q.en then s.xDiscard else s.modFq x (fun q => {q with base := BitVec.ofNat 64 (bits n 6 0 + 2 ^ 18 * bits n 47 18)})
  | 1 =>
    let vec : Fin 2048 := ⟨n / 2 % 2048, Nat.mod_lt _ (by decide)⟩
    if q.en && bit n 0 && vec ≠ q.vec then s.xDiscard else s.modFq x (fun q => {q with en := bit n 0, vec := vec})
  | 2 =>
    let hd : Half := BitVec.ofNat 32 n
    if (hd - q.head).toNat ≤ q.used then s.modFq x (fun q => {q with head := hd}) else s.xDiscard
  | _ => s

/-- FAULT_QUEUE_WRITE. -/
def execFaultQueueWrite (who : Who) (x : SliceId) (word : Fin 8) (v : Word) (s : State) : Res :=
  .next (s.atOwner who (machineryNi x.val) (fun s => s.hubWrite who (word.val ≤ 2) (fun s => s.fqWrite x.val word.val v)))

/-! ### Commands (R399–R401, R412) -/

def State.xcmdEnd (s : State) (b code : Nat) : State :=
  s.modHub (fun h => {h with xcmd := tmod {} h.xcmd b (fun c => {c with busy := false, code := BitVec.ofNat 8 code, cur := none})})

/-- A translation command block takes a command. -/
def State.xcmdStart (s : State) (b op idx : Nat) : State :=
  s.modHub (fun h => {h with xcmd := tmod {} h.xcmd b (fun c => {c with busy := true, cur := some (op, idx)})})

/-- A write of `XCMD`: discarded while the block is busy, else run with its arguments. -/
def State.xcmdGo (s : State) (b op idx : Nat) (f : Nat → Nat → State → CmdRes × State) : State :=
  let blk := s.xcmdOf b
  if blk.busy then s.xDiscard
  else
    match f blk.arg0.toNat blk.arg1.toNat (s.xcmdStart b op idx) with
    | (.ends c, s) => s.xcmdEnd b (codeNum c)
    | (.goes, s) => s

/-- Slice of a context by number. -/
def State.sliceOfCtx (s : State) (x : Nat) : Nat := (s.ctxOf x).slice.val

/-- INVCTX: every entry of the context. -/
def State.invCtx (idx _a0 _a1 : Nat) (s : State) : CmdRes × State :=
  if 4096 ≤ idx then (.ends .badArg, s)
  else (.goes, (s.tlbDrop (fun e => e.ctx = idx) (fun e => !e.stage2 && e.owner = idx)).walkRestart (fun w => w.ctx = idx))

/-- A range in whole pages, not empty. -/
def rangeOk (a n : Nat) : Bool := a % 4096 = 0 && n % 4096 = 0 && n ≠ 0

/-- INVVA: entries of the context that overlap the range. -/
def State.invVa (idx a0 a1 : Nat) (s : State) : CmdRes × State :=
  if 4096 ≤ idx || !rangeOk a0 a1 then (.ends .badArg, s)
  else (.goes, (s.tlbDrop (fun e => e.ctx = idx && overlaps e.vpage e.lg a0 a1)
    (fun e => !e.stage2 && e.owner = idx && overlaps e.idx (lvlLg e.lvl) a0 a1)).walkRestart (fun w => w.ctx = idx && a0 ≤ w.va && w.va < a0 + a1))

/-- INVSLICE: entries of every context of the slice, and its stage-2 entries. -/
def State.invSlice (idx _a0 _a1 : Nat) (s : State) : CmdRes × State :=
  if 64 ≤ idx then (.ends .badArg, s)
  else (.goes, (s.tlbDrop (fun e => s.sliceOfCtx e.ctx = idx)
    (fun e => (if e.stage2 then e.owner else s.sliceOfCtx e.owner) = idx)).walkRestart (fun w => s.sliceOfCtx w.ctx = idx))

/-- INVIPA: entries of the slice whose stage-2 leaf or table entry overlaps the range. -/
def State.invIpa (idx a0 a1 : Nat) (s : State) : CmdRes × State :=
  if 64 ≤ idx || !rangeOk a0 a1 then (.ends .badArg, s)
  else (.goes, (s.tlbDrop (fun e => s.sliceOfCtx e.ctx = idx && e.leafMeets a0 a1)
    (fun e => (if e.stage2 then e.owner else s.sliceOfCtx e.owner) = idx && e.leafMeets a0 a1)).walkRestart (fun w => s.sliceOfCtx w.ctx = idx))

/-- INVALL. -/
def State.invAllCmd (_a0 _a1 : Nat) (s : State) : CmdRes × State :=
  (.goes, (s.tlbDrop (fun _ => true) (fun _ => true)).walkRestart (fun _ => true))

/-- INVCTX: ends with INVALIDATION_COMPLETE, as every invalidation does. -/
def execInvctx (b : Fin 4) (idx : BitVec 16) (s : State) : Res := .next (s.xcmdGo b.val 1 idx.toNat (State.invCtx idx.toNat))
/-- INVVA. -/
def execInvva (b : Fin 4) (idx : BitVec 16) (s : State) : Res := .next (s.xcmdGo b.val 2 idx.toNat (State.invVa idx.toNat))
/-- INVSLICE. -/
def execInvslice (b : Fin 4) (idx : BitVec 16) (s : State) : Res := .next (s.xcmdGo b.val 3 idx.toNat (State.invSlice idx.toNat))
/-- INVIPA. -/
def execInvipa (b : Fin 4) (idx : BitVec 16) (s : State) : Res := .next (s.xcmdGo b.val 4 idx.toNat (State.invIpa idx.toNat))
/-- INVALL. -/
def execInvall (b : Fin 4) (idx : BitVec 16) (s : State) : Res := .next (s.xcmdGo b.val 5 idx.toNat State.invAllCmd)

/-- INVALIDATION_COMPLETE: every access translated under a removed entry is performed or answered. -/
def execInvalidationComplete (b : Fin 4) (s : State) : Res :=
  .next (match (s.xcmdOf b.val).cur with
    | some _ => (s.xcmdEnd b.val 0).modHub (fun h => {h with invs := h.invs + 1})
    | none => s)

/-- Stalled accesses of a context's threads translate again. -/
def State.retryThreads (s : State) (x : Nat) : State :=
  match (s.ctxOf x).pos with
  | none => s
  | some p => (List.range 4).foldl (fun s t =>
      let h := coreHart p.val t
      match (s.thrOf h).wait with
      | .fault op => (s.modThr h (fun t => {t with wait := .none})).memExec h op
      | _ => s) s

/-- Stalled queues of a context go on: a status line that is due is written. -/
def State.retryQueue (s : State) (q : Nat) : State :=
  let due := (s.queueOf q).lineDue
  let s := s.modQueue q (fun u => {u with stalled := false, lineDue := false})
  if due then s.statusLine q else s

/-- XRESUME. -/
def State.xResume (idx a0 _a1 : Nat) (s : State) : CmdRes × State :=
  if 4096 ≤ idx || 2 < a0 then (.ends .badArg, s)
  else if (s.ctxOf idx).state ≠ .live || s.sliceFrozen (s.sliceOfCtx idx) then (.ends .badState, s)
  else
    let s := s.modHub (fun h => {h with keys := h.keys.filter (fun k => k.1 ≠ idx)})
    let s := s.modFq (s.sliceOfCtx idx) (fun q => {q with folded := q.folded.filter (fun f => f.first.ctx ≠ idx)})
    let mine := fun (s : State) (d : Desc) => s.descCtx d = some idx && d.st = .parked
    let stalled := (s.hub.queue.filter (fun q => q.2.ctx.val = idx && q.2.stalled)).map (·.1)
    let s : State := match a0 with
      | 0 =>
        let s := s.modHub (fun h => {h with desc := h.desc.map (fun d => if mine s d then {d with st := .yielded, addr := 0} else d)})
        (stalled.foldl State.retryQueue s).retryThreads idx
      | 1 =>
        let s := s.modHub (fun h => {h with desc := h.desc.map (fun d => if mine s d then d.endWith 5 d.addr else d)})
        let s := stalled.foldl (fun s q => (s.modQueue q (fun u => {u with stalled := false, lineDue := false})).queueErr q 4) s
        s.retryThreads idx
      | _ => s.ctxLose idx .xlate
    (.ends .ok, s)

/-- XRESUME. -/
def execXresume (b : Fin 4) (idx : BitVec 16) (s : State) : Res := .next (s.xcmdGo b.val 6 idx.toNat (State.xResume idx.toNat))

end Sys2Proof.Machine
end

