-- ==== Sys2Proof/Machine/RegRead.lean ====
section
/-! DEFINITION. Register words as they are read: context, queue, fence, slice, fault queue and command blocks, gates
(R321, R330, R363, R369, R375, R379, R399, R407, R416, R419). -/

namespace Sys2Proof.Machine

/-- Word i of a context slot (R363). -/
def Ctx.word (c : Ctx) (i : Nat) : Nat :=
  match i with
  | 0 =>
    let p := match c.pos with | some p => 4 + 8 * (p.val / 256) + 128 * (p.val % 256) | none => 0
    c.state.code + p + 2 ^ 16 * c.vint.toNat + 2 ^ 32 * c.cause.toNat + 2 ^ 40 * b2n c.pend
  | 1 => c.slice.val + 64 * c.prio.toNat + 256 * c.smask.toNat
  | 2 => c.skslot.val + 65536 * c.sbase.toNat
  | 3 => c.s1root.toNat
  | 4 | 5 | 6 | 7 => bits c.fsmap.toNat (64 * (i - 4) + 63) (64 * (i - 4))
  | 8 | 9 | 10 | 11 => bits c.fwmap.toNat (64 * (i - 8) + 63) (64 * (i - 8))
  | 12 => c.tchg.toNat
  | 13 => c.nload.toNat + 2 ^ 32 * c.npre.toNat
  | _ => 0

/-- `QPTR` and `QSTAT` (R369). -/
def Queue.ptr (u : Queue) : Nat := u.head.toNat + 2 ^ 32 * u.tail.toNat
def Queue.stat (u : Queue) : Nat := u.state.code + 2 ^ 16 * u.vint.toNat + 2 ^ 32 * u.err.toNat

/-- Word i of a queue slot (R369). -/
def Queue.word (u : Queue) (i : Nat) : Nat :=
  match i with
  | 0 => u.kind.toNat + 4 * u.ctx.val + 2 ^ 14 * u.lgn.toNat + 2 ^ 18 * u.vec.val + 2 ^ 29 * u.thr.val
  | 1 => u.rbase.toNat
  | 2 => u.sline.toNat
  | 3 => u.cbase.toNat
  | 4 => u.ptr
  | 5 => u.stat
  | 6 => u.ndb.toNat + 2 ^ 32 * u.ndisc.toNat
  | _ => 0

/-- Word i of a fence object (R375). -/
def Fence.word (f : Fence) (i : Nat) : Nat :=
  match i with
  | 0 => f.value.toNat
  | 1 => f.cfg.toNat
  | 2 => f.evval.toNat
  | 3 => f.cnt.toNat
  | _ => 0

/-- Word i of a fault queue block (R407). -/
def FaultQ.word (q : FaultQ) (i : Nat) : Nat :=
  match i with
  | 0 => q.base.toNat
  | 1 => b2n q.en + 2 * q.vec.val
  | 2 => q.head.toNat + 2 ^ 32 * q.tail.toNat
  | 3 => q.nrec.toNat + 2 ^ 32 * q.folded.length
  | _ => 0

/-- Contexts of a slice that are not FREE. -/
def State.sliceCtxs (s : State) (sl : Nat) : List Nat :=
  (s.hub.ctx.filter (fun c => c.2.slice.val = sl && c.2.state ≠ .free)).map (·.1)

/-- Word i of a slice entry (R416). -/
def State.sliceWord (s : State) (sl i : Nat) : Nat :=
  let e := s.sliceOf sl
  match i with
  | 0 => e.state.code + 8 * b2n e.unl
  | 1 => e.pasid.toNat + 2 ^ 20 * b2n e.pen + 2 ^ 21 * e.ep.code + 2 ^ 22 * e.eshare.toNat + 2 ^ 30 * e.gmask.toNat
  | 2 => e.s2root.toNat
  | 3 => e.ftick.toNat
  | 4 => e.nlate.toNat + 2 ^ 32 * (s.sliceCtxs sl).length
  | 8 | 9 | 10 | 11 => bits e.cmask.toNat (64 * (i - 8) + 63) (64 * (i - 8))
  | 12 | 13 | 14 | 15 => bits e.bmask.toNat (64 * (i - 12) + 63) (64 * (i - 12))
  | _ => 0

/-- Registers of a command block: argument 0, argument 1, status (R379, R399, R419). -/
def CmdBlk.stat (c : CmdBlk) : Nat := b2n c.busy + 256 * c.code.toNat + 65536 * c.need.toNat

/-- `GGCTL`, `GGSTAT`, `GGVIO` (R330). -/
def Gate.word0 (g : Gate) (i : Nat) : Nat :=
  match i with
  | 0 => b2n g.adm + 2 * b2n g.fenced + 4 * g.slice.val + 256 * b2n g.bound + 512 * b2n g.cache + 1024 * g.maxout.toNat
    + 2 ^ 22 * g.fctx.val + 2 ^ 34 * b2n g.fen + 2 ^ 35 * g.vlim.toNat
  | 1 => g.nvio.toNat + 2 ^ 32 * g.novd.toNat + 2 ^ 48 * g.nflt.toNat
  | 2 => g.gvio.toNat
  | _ => 0

/-- Word w of a rule (R321). -/
def Rule.word (r : Rule) (w : Nat) : Nat :=
  match w with
  | 0 => r.w0.toNat
  | 1 => r.w1.toNat
  | 2 => r.w2.toNat
  | _ => r.hits.toNat

end Sys2Proof.Machine
end

