-- ==== Sys2Proof/Machine/TwinCore.lean ====
section
/-! DEFINITION. What the rest of the package needs of the twin port: control frames sent, the FAILOVER that ends a
leader's service (R454, R557–R559, R564, R568). -/

namespace Sys2Proof.Machine

/-- The port may be used: a twin-kit package, licensed, not strapped off (R7, R475, R585). -/
def State.twinEnabled (s : State) : Bool := s.fuses.kit ≠ 0 && bit s.boot.feat.toNat 4 && !bit s.power.strap.toNat 7

/-- The direction-and-kind value of frames sent, and of frames received (R557): kind 1 DATA, 2 CTL. -/
def Twin.outKey (t : Twin) (kind : Nat) : Nat := b2n (!t.sideA) + 2 * kind
def Twin.inKey (t : Twin) (kind : Nat) : Nat := b2n t.sideA + 2 * kind

def State.modTwin (s : State) (f : Twin → Twin) : State := {s with twin := f s.twin}

/-- A control message sent under the session (R558, R559). -/
def State.twinCtl (s : State) (type : Nat) (body : List Byte) : State :=
  if s.twin.lanes && !s.twin.keys.isEmpty then
    let k := s.twin.outKey 2
    let n := tget 0 s.twin.txSeq k
    (s.modTwin (fun t => {t with txSeq := tput t.txSeq k (n + 1)})).emit (.twinCtl type body n)
  else s

/-- A change of role: the twin event vectors fire (R567). -/
def State.setRole (s : State) (r : Nat) : State :=
  if s.twin.role = r then s else (s.modTwin (fun t => {t with role := r})).raiseTwin

/-- FAILOVER goes out: after a class F fault once every slice is past its freeze tick, and the leader's service ends; in a
switchover once every slice is frozen and every push is done (R548, R564, R568). -/
def State.switchGo (s : State) : State :=
  match s.twin.switching with
  | none => s
  | some c =>
    let past := s.hub.slice.all (fun e => e.2.state ≠ .active && (e.2.state ≠ .freezing || e.2.ticked))
    let frozen := s.hub.slice.all (fun e => e.2.state ≠ .active && e.2.state ≠ .freezing)
    if s.twin.switchSent then s
    else if c = 2 then
      if past then ((s.modTwin (fun t => {t with switching := none})).twinCtl 5 (leBytes 1 2)).setRole 0 else s
    else if frozen && s.twin.push.isEmpty then (s.modTwin (fun t => {t with switchSent := true})).twinCtl 5 (leBytes 1 c)
    else s

end Sys2Proof.Machine
end

