-- ==== Sys2Proof/Machine/Slices.lean ====
section
/-! DEFINITION. Slices (R415–R435): commands, the slice entry, the freeze, bottle and uncork, reset and removal. -/

namespace Sys2Proof.Machine

/-! ### Command blocks (R419, R420) -/

/-- A slice table write or command write discarded (OD 0x2C00.05). -/
def State.sDiscard (s : State) : State := s.modHub (fun h => {h with sDisc := h.sDisc + 1})

def State.scmdEnd (s : State) (b code : Nat) : State :=
  s.modHub (fun h => {h with scmd := tmod {} h.scmd b (fun c => {c with busy := false, code := BitVec.ofNat 8 code, cur := none})})

/-- A slice command block takes a command. -/
def State.scmdStart (s : State) (b op idx : Nat) : State :=
  s.modHub (fun h => {h with scmd := tmod {} h.scmd b (fun c => {c with busy := true, cur := some (op, idx)})})

/-- A write of `SCMD`: discarded while the block is busy, else run with its arguments; it ends with a code or goes on. -/
def State.scmdGo (s : State) (b op idx : Nat) (f : Nat → Nat → State → Option Nat × State) : State :=
  let blk := s.scmdOf b
  if blk.busy then s.sDiscard
  else
    match f blk.arg0.toNat blk.arg1.toNat (s.scmdStart b op idx) with
    | (some c, s) => s.scmdEnd b c
    | (none, s) => s

/-- SLCREATE. -/
def State.slCreate (x : Nat) (s : State) : Option Nat × State :=
  if s.boot.nslice ≤ x then (some 2, s)
  else if (s.sliceOf x).state ≠ .free then (some 1, s)
  else (some 0, s.modSlice x (fun e => {e with state := .active}))
def execSlcreate (b : Fin 4) (x : SliceId) (s : State) : Res := .next (s.scmdGo b.val 1 x.val (fun _ _ s => s.slCreate x.val))

/-! ### Freeze and thaw (R422–R425) -/

/-- The first multiple of 1,000 ns at least 2,000 ns away (R423). -/
def freezeTickAt (now : Nat) : Nat := (now + 2999) / 1000 * 1000

/-- SLFREEZE: ends with FREEZE_COMPLETE. -/
def State.slFreeze (b : Fin 4) (x : Nat) (s : State) : Option Nat × State :=
  if (s.sliceOf x).state ≠ .active then (some 1, s)
  else (none, s.modSlice x (fun e => { e with
    state := .freezing, ticked := false, ftick := BitVec.ofNat 64 (freezeTickAt s.now), unl := !s.time.tlock, blk := some b }))
def execSlfreeze (b : Fin 4) (x : SliceId) (s : State) : Res := .next (s.scmdGo b.val 2 x.val (fun _ _ s => s.slFreeze b x.val))

/-- Grafts bound to a slice. -/
def State.boundGates (s : State) (x : Nat) : List Site :=
  (List.finRange 16).filter (fun g => (s.gateOf g.val).bound && (s.gateOf g.val).slice.val = x)
/-- Credits of the grafts bound to a slice withheld (R335). -/
def State.holdGates (s : State) (x : Nat) : State :=
  (s.boundGates x).foldl (fun s g => s.modGate g.val (fun t => {t with held := true})) s

/-- FREEZE_TICK: the open batch closes, every injection point stops, and the saves of the loaded contexts begin. -/
def execFreezeTick (x : SliceId) (s : State) : Res :=
  let e := s.sliceOf x.val
  .next (if e.state ≠ .freezing || e.ticked then s
    else
      let s := ((s.batchClose x.val).modSlice x.val (fun e => {e with ticked := true})).holdGates x.val
      ((s.sliceCtxs x.val).foldl (fun s c =>
        let k := s.ctxOf c
        match k.pos, k.saving with
        | some p, none => s.saveBegin p c .freeze
        | _, _ => s) s).switchGo)

/-- What a freeze waits for (R424): no context loaded, none being aborted, no host-window request of the slice at an
endpoint, no formed record unwritten that has room. -/
def State.frozenOk (s : State) (x : Nat) : Bool :=
  let out := fun (h : HostEp) => h.outq.any (fun (o : Outb) => match o with | .req r => decide (r.r.slice.val = x) | .msix _ => false)
  let q := s.fqOf x
  (s.sliceCtxs x).all (fun c => (s.ctxOf c).pos.isNone && (s.ctxOf c).state ≠ .abort) && !out s.ioa && !out s.iob
    && (q.batch.isEmpty || !q.en || 8192 ≤ q.used)

/-- FREEZE_COMPLETE. -/
def execFreezeComplete (x : SliceId) (s : State) : Res :=
  let e := s.sliceOf x.val
  .next (if e.state = .freezing && e.ticked && s.frozenOk x.val then
      let s := (s.modSlice x.val (fun e => {e with state := .frozen, blk := none})).modHub (fun h => {h with freezes := h.freezes + 1})
      (match e.blk with | some b => s.scmdEnd b.val 0 | none => s).switchGo
    else s)

/-- Queue slots of a slice's contexts that are not OFF. -/
def State.sliceQueues (s : State) (x : Nat) : List Nat :=
  (s.hub.queue.filter (fun q => q.2.state ≠ .off && (s.ctxOf q.2.ctx.val).slice.val = x)).map (·.1)

/-- SLTHAW: status lines are written, doorbells of the freeze wake their contexts, credits return, saved contexts want
again; held completions and dispatch go on of themselves. -/
def State.slThaw (x : Nat) (s : State) : Option Nat × State :=
  if (s.sliceOf x).state ≠ .frozen then (some 1, s)
  else
    let s := s.modSlice x (fun e => {e with state := .active, ticked := false, bottled := false})
    let s := (s.sliceQueues x).foldl State.statusLine s
    let s := (s.boundGates x).foldl State.gateResume s
    let s := (s.sliceCtxs x).foldl (fun s c =>
      let rung := s.hub.queue.any (fun q => q.2.ctx.val = c && q.2.kind = 2 && 0 < q.2.frozenDb)
      if (s.ctxOf c).thawWant || rung then (s.modCtx c (fun k => {k with thawWant := false})).wantNow c else s) s
    (some 0, s.substThaw)
def execSlthaw (b : Fin 4) (x : SliceId) (s : State) : Res := .next (s.scmdGo b.val 3 x.val (fun _ _ s => s.slThaw x.val))

/-! ### The slice entry (R416, R417) -/

/-- Bits of a mask. -/
def maskBits (n w : Nat) : List Nat := (List.range w).filter (fun i => bit n i)

/-- Whether another entry meets a condition. -/
def State.otherSlice (s : State) (x : Nat) (p : Slice → Bool) : Bool := s.hub.slice.any (fun e => e.1 ≠ x && p e.2)

/-- A graft bound to a slice, or set free with its rules cleared (R324, R417). -/
def State.bindGate (s : State) (g : Nat) (x : Option SliceId) : State :=
  match x with
  | some x => s.modGate g (fun t => {t with slice := x, bound := true})
  | none => (s.modGate g (fun t =>
      {t with bound := false, rule := t.rule.map (fun r => (r.1, {r.2 with w0 := r.2.w0 &&& ~~~1}))})).gateResume
      ⟨g % 16, Nat.mod_lt _ (by decide)⟩

/-- A write of `SLCFG`. -/
def State.slCfgWrite (s : State) (x : SliceId) (v : Nat) : State :=
  let e := s.sliceOf x.val
  let pasid := BitVec.ofNat 20 v
  let pen := bit v 20
  let ep : Ep := if bit v 21 then .iob else .ioa
  let gm := bits v 45 30
  let cold := pasid ≠ e.pasid || pen ≠ e.pen || ep ≠ e.ep
  let added := gm &&& (0xFFFF ^^^ e.gmask.toNat)
  let badG := (maskBits added 16).any (fun g =>
    !(s.gateOf g).adm || s.otherSlice x.val (fun o => o.gmask.getLsbD g) || ((s.gateOf g).bound && (s.gateOf g).slice ≠ x))
  if (cold && e.state ≠ .free && e.state ≠ .frozen)
      || (cold && pen && s.otherSlice x.val (fun o => o.pen && o.pasid = pasid))
      || (bits v 29 22 ≠ e.eshare.toNat && e.state = .resetting)
      || (gm ≠ e.gmask.toNat && ((e.state ≠ .active && e.state ≠ .frozen) || badG)) then s.sDiscard
  else
    let gone := e.gmask.toNat &&& (0xFFFF ^^^ gm)
    let s := s.modSlice x.val (fun e => { e with
      pasid := pasid, pen := pen, ep := ep, eshare := BitVec.ofNat 8 (bits v 29 22), gmask := BitVec.ofNat 16 gm })
    let s := (maskBits added 16).foldl (fun s g => (s.bindGate g (some x)).modGate g (fun t => {t with held := e.ticked})) s
    (maskBits gone 16).foldl (fun s g => s.bindGate g none) s

/-- A write of a `cmask` word: contexts on clusters taken away are preempted. -/
def State.slCluWrite (s : State) (x : Nat) (i : Nat) (v : Word) : State :=
  let e := s.sliceOf x
  let new := putWord e.cmask i v
  if new = e.cmask then s
  else if e.state = .resetting || s.otherSlice x (fun o => (o.cmask &&& (new &&& ~~~e.cmask)) ≠ 0) then s.sDiscard
  else
    let s := s.modSlice x (fun e => {e with cmask := new})
    (s.sliceCtxs x).foldl (fun s c =>
      match (s.ctxOf c).pos, (s.ctxOf c).saving with
      | some p, none => if new.getLsbD (p.val / 16) then s else s.saveBegin p c (.preempt (s.idleNow c))
      | _, _ => s) s

/-- A write of a `bmask` word: channels taken away break. -/
def State.slBarWrite (s : State) (x : Nat) (i : Nat) (v : Word) : State :=
  let e := s.sliceOf x
  let new := putWord e.bmask i v
  if new = e.bmask then s
  else if e.state = .resetting || s.otherSlice x (fun o => (o.bmask &&& (new &&& ~~~e.bmask)) ≠ 0) then s.sDiscard
  else
    let s := s.modSlice x (fun e => {e with bmask := new})
    (maskBits (e.bmask &&& ~~~new).toNat 256).foldl State.breakChan s

/-- The fields of `s2root`; the rest is reserved and reads 0 (R388, R16). -/
def s2rootMask : Word := 0x0000FFFFFFFFF07F

/-- A write of a slice entry's word. -/
def State.sliceWrite (s : State) (x : SliceId) (w : Nat) (v : Word) : State :=
  let e := s.sliceOf x.val
  match w with
  | 1 => s.slCfgWrite x v.toNat
  | 2 =>
    let v := v &&& s2rootMask
    if v = e.s2root then s else if e.state = .free || e.state = .frozen then s.modSlice x.val (fun e => {e with s2root := v}) else s.sDiscard
  | 8 | 9 | 10 | 11 => s.slCluWrite x.val (w - 8) v
  | 12 | 13 | 14 | 15 => s.slBarWrite x.val (w - 12) v
  | _ => s

/-- SLICE_ENTRY_WRITE. -/
def execSliceEntryWrite (who : Who) (x : SliceId) (word : Fin 16) (v : Word) (s : State) : Res :=
  .next (s.atOwner who (machineryNi x.val) (fun s =>
    s.hubWrite who (word = 1 || word = 2 || 8 ≤ word.val) (fun s => s.sliceWrite x word.val v)))

/-! ### Reset and removal (R433, R434) -/

/-- The last steps of a removal; nothing of the slice's fault batches stays in the hub's memory (R452). -/
def State.sliceClear (s : State) (x : Nat) : State :=
  let e := s.sliceOf x
  let s := s.batchClose x
  let s := (s.sliceQueues x).foldl (fun s q =>
    let b := (s.queueOf q).drainBlk
    let s := (s.modQueue q (fun u => {u with state := .off, err := 0, drainBlk := none, stalled := false, lineDue := false})).statusLine q
    match b with | some b => s.cmdEnd b.val 0 | none => s) s
  let s := (s.sliceCtxs x).foldl (fun s c =>
    s.modCtx c (fun k => {k with state := .free, cause := 0, tchg := BitVec.ofNat 64 s.now})) s
  let s := (s.hub.fence.filter (fun f => f.2.slice.val = x && f.2.armed)).foldl (fun s f =>
    s.modFence f.1 (fun o => {o with armed := false, pen := false})) s
  let s := (maskBits e.gmask.toNat 16).foldl (fun s g => s.bindGate g none) s
  let s := (maskBits e.bmask.toNat 256).foldl State.breakChan s
  let s := s.modSlice x (fun e => { e with
    gmask := 0, cmask := 0, bmask := 0, pen := false, s2root := e.s2root &&& ~~~1, state := .free })
  let s := s.modFq x (fun q => {q with en := false, batch := [], folded := []})
  (s.tlbDrop (fun t => s.sliceOfCtx t.ctx = x) (fun t => (if t.stage2 then t.owner else s.sliceOfCtx t.owner) = x)).walkRestart
    (fun w => s.sliceOfCtx w.ctx = x)

/-- A reset or removal ends once no context of the slice is being aborted. -/
def State.sliceResetEnd (s : State) (x : Nat) : State :=
  let e := s.sliceOf x
  if e.state = .resetting && (s.sliceCtxs x).all (fun c => (s.ctxOf c).state ≠ .abort) then
    let op : Option Nat := match e.blk with | some b => (s.scmdOf b.val).cur.map (·.1) | none => none
    let s := if op = some 7 then s.sliceClear x else s.modSlice x (fun e => {e with state := .active})
    let s := s.modSlice x (fun e => {e with blk := none})
    (match e.blk with | some b => s.scmdEnd b.val 0 | none => s).substThaw
  else s

/-- The steps of a reset: contexts lost, fences abandoned, channels broken, held work and fault state discarded. -/
def State.sliceReset (b : Fin 4) (x : Nat) (s : State) : Option Nat × State :=
  let e := s.sliceOf x
  if e.state ≠ .active && e.state ≠ .frozen then (some 1, s)
  else
    let s := (s.modSlice x (fun e => {e with state := .resetting, ticked := false, bottled := false, blk := some b}))
    let s := (s.boundGates x).foldl State.gateResume s
    let s := (s.sliceCtxs x).foldl (fun s c => s.ctxLose c .slice) s
    let s := (s.hub.fence.filter (fun f => f.2.slice.val = x && f.2.armed && !f.2.aband)).foldl (fun s f => s.fenceAbandon f.1) s
    let s := (maskBits e.bmask.toNat 256).foldl State.breakChan s
    let s := s.modHub (fun h => { h with
      desc := h.desc.filter (fun d => match d.queue with
        | some q => (s.ctxOf (s.queueOf q).ctx.val).slice.val ≠ x
        | none => true),
      keys := h.keys.filter (fun k => (s.ctxOf k.1).slice.val ≠ x) })
    let s := s.modFq x (fun q => {q with folded := []})
    (none, s.sliceResetEnd x)

/-- SLRESET. -/
def execSlreset (b : Fin 4) (x : SliceId) (s : State) : Res := .next (s.scmdGo b.val 6 x.val (fun _ _ s => s.sliceReset b x.val))
/-- SLREMOVE. -/
def execSlremove (b : Fin 4) (x : SliceId) (s : State) : Res := .next (s.scmdGo b.val 7 x.val (fun _ _ s => s.sliceReset b x.val))

/-- ABORT_STEPS_DONE: the last steps of the abort; a slice reset that waited for it goes on. -/
def execAbortStepsDone (x : CtxId) (s : State) : Res :=
  let sl := (s.ctxOf x.val).slice.val
  .next ((s.abortEnd x.val).sliceResetEnd sl)

end Sys2Proof.Machine
end

