-- ==== Sys2Proof/Machine/Bottle.lean ====
section
/-! DEFINITION. Bottling a slice and uncorking it (R426–R432). -/

namespace Sys2Proof.Machine

/-! ### The image (R427–R429) -/

/-- A record of n bytes from the words it begins with. -/
def recBytes (n : Nat) (ws : List Nat) : List Byte := fit 0 n (wordsBytes ws)

/-- `dstate` of a descriptor (R429): one that failed and has no record yet is run again from where it stands. -/
def Desc.dstate (d : Desc) : Nat :=
  match d.st with
  | .queued => 0
  | .running _ | .yielded => 1
  | .parked => 2
  | .ended => if d.status = 0 then 3 else if d.issued = 0 then 0 else 1

/-- Records of each section of a slice's image, and their size (R428). -/
def State.sections (s : State) (x : Nat) : List (Nat × List (List Byte)) :=
  let e := s.sliceOf x
  let ctxs := s.sliceCtxs x
  let queues := s.hub.queue.filter (fun q => q.2.kind ≠ 0 && ctxs.contains q.2.ctx.val)
  let fences := s.hub.fence.filter (fun f => f.2.slice.val = x && (f.2.armed || f.2.aband))
  let descs := s.hub.desc.filter (fun d => s.descSlice d = some x)
  let q := s.fqOf x
  [ (256, [recBytes 256 ((List.range 32).map (s.sliceWord x))]),
    (128, ctxs.map (fun c => recBytes 128 ((List.range 14).map (s.ctxOf c).word ++ [c]))),
    (64, queues.map (fun u => recBytes 64 ((List.range 7).map u.2.word ++ [u.1]))),
    (64, fences.map (fun f => recBytes 64 ((List.range 4).map f.2.word ++ [f.1]))),
    (128, descs.map (fun d => recBytes 128 ((List.range 8).map d.word
      ++ [d.queue.getD 0 + 2 ^ 32 * d.ridx, d.done, d.dstate + 256 * d.flags.toNat]))),
    (64, [recBytes 64 ((List.range 4).map q.word)]),
    (32, q.folded.map (fun f => wordsBytes (f.first.words 0 (some f.n)))),
    (16, (s.hub.keys.filter (fun k => (s.ctxOf k.1).slice.val = x)).map (fun k =>
      wordsBytes [k.1 + 2 ^ 16 * (s.ctxOf k.1).vint.toNat, 4096 * k.2])),
    (80, (maskBits e.bmask.toNat 256).map (fun c =>
      let b := s.barOf c
      recBytes 80 ([c + 2 ^ 8 * b2n b.armed + 2 ^ 9 * b2n b.phase + 2 ^ 10 * b2n b.broken + 2 ^ 11 * b.dies + 2 ^ 16 * b.msgs.length, 0]
        ++ (List.range 8).map (fun i =>
          let f := fun (y : Nat) => tget 0 (s.dieOf y).barLocal c + 2 ^ 11 * tget 0 (s.dieOf y).barCount c
          f (2 * i) + 2 ^ 32 * f (2 * i + 1))))),
    (528, (maskBits e.gmask.toNat 16).map (fun g =>
      let t := s.gateOf g
      recBytes 528 ([g, t.word0 0] ++ (List.range 64).map (fun i => (t.ruleOf (i / 4)).word (i % 4))))) ]

/-- Padding to the next 64 B boundary. -/
def pad64 (bs : List Byte) : List Byte := bs ++ List.replicate ((64 - bs.length % 64) % 64) 0

/-- The image: a header of 256 B, then the sections. -/
def State.bottle (s : State) (x : Nat) : List Byte :=
  let secs := s.sections x
  let (body, dir) := secs.foldl (fun (b, d) p =>
    (b ++ pad64 p.2.flatten, d ++ [256 + b.length + 2 ^ 32 * p.2.length])) (([] : List Byte), ([] : List Nat))
  let e := s.sliceOf x
  let hdr := [0x31454C54544F4253, 1 + 2 ^ 16 * x + 2 ^ 24 * b2n e.unl, e.ftick.toNat, 256 + body.length,
    s.fuses.serial.toNat % 2 ^ 64, s.boot.gen.toNat] ++ dir
  -- `ver`, `slice` and `flags` lie at 0x08, 0x0A and 0x0B
  recBytes 256 hdr ++ body

/-- An image address: 64 B aligned, `limit` bytes in one cask's usable range (R419). -/
def imageArgOk (a limit : Nat) : Bool :=
  match regionOf (a % 2 ^ 48) with
  | .usable _ off => a % 64 = 0 && a < 2 ^ 48 && off + limit ≤ usableEnd
  | _ => false

/-- SLBOTTLE; without the cuvée's feature it ends BADARG (R475). The code after a write that is answered with an error is free. -/
def State.slBottle (b : Fin 4) (x a0 a1 : Nat) (s : State) : Option Nat × State :=
  let limit := bits a1 63 32
  if !s.boot.feat.getLsbD 5 || !imageArgOk a0 limit then (some 2, s)
  else if (s.sliceOf x).state ≠ .frozen then (some 1, s)
  else
    let img := s.bottle x
    let need := fun (s : State) => s.modHub (fun h => {h with scmd := tmod {} h.scmd b.val (fun c => {c with need := BitVec.ofNat 32 img.length})})
    if limit < img.length then (some 3, need s)
    else
      let (st, s) := s.agentPut {} .wri (bits a1 5 0) a0 img
      if st = .ok then
        (some 0, (((need s).modHub (fun h => {h with images := h.images + 1})).modSlice x (fun e => {e with bottled := true})).substThaw)
      else (some (Config.freeNat s.freeCtr 16 % 5), (need s).bump)
def execSlbottle (b : Fin 4) (x : SliceId) (s : State) : Res := .next (s.scmdGo b.val 4 x.val (fun a0 a1 s => s.slBottle b x.val a0 a1))

/-! ### Uncork (R431, R432) -/

/-- A field of n bytes of an image. -/
def fld (img : List Byte) (o n : Nat) : Nat := leNat ((img.drop o).take n)

/-- The records of section i: their offsets. -/
def secRecs (img : List Byte) (i : Nat) : List Nat :=
  let size := nth 0 [256, 128, 64, 64, 128, 64, 32, 16, 80, 528] i
  let d := fld img (0x30 + 8 * i) 8
  (List.range (d / 2 ^ 32)).map (fun r => d % 2 ^ 32 + size * r)

/-- Sections lie inside the image. -/
def secsInside (img : List Byte) (len : Nat) : Bool :=
  (List.range 10).all (fun i =>
    let d := fld img (0x30 + 8 * i) 8
    d % 2 ^ 32 + nth 0 [256, 128, 64, 64, 128, 64, 32, 16, 80, 528] i * (d / 2 ^ 32) ≤ len)

/-- What keeps an image from being restored into a slice. -/
def State.imageBad (s : State) (x : Nat) (img : List Byte) : Bool :=
  let e := s.sliceOf x
  (secRecs img 1).any (fun o =>
    let c := fld img (o + 112) 8
    let m := bits (fld img (o + 8) 8) 23 8
    4096 ≤ c || (s.ctxOf c).state ≠ .free
      || (maskBits m 16).any (fun y => bits e.cmask.toNat (16 * y + 15) (16 * y) = 0))
  || (secRecs img 2).any (fun o => let q := fld img (o + 56) 2 % 16384; (s.queueOf q).state ≠ .off)
  || (secRecs img 3).any (fun o => let f := fld img (o + 32) 2; (s.fenceOf f).armed)
  || (secRecs img 8).any (fun o => let c := fld img o 1; !e.bmask.getLsbD c || (s.barOf c).armed)
  || (secRecs img 9).any (fun o => let g := fld img o 1 % 16; !e.gmask.getLsbD g)

/-- A context slot restored: its vintage is the slot's own plus 1. -/
def State.putCtx (s : State) (x : SliceId) (img : List Byte) (o : Nat) : State :=
  let w := fun (i : Nat) => BitVec.ofNat 64 (fld img (o + 8 * i) 8)
  let c := fld img (o + 112) 8 % 4096
  let st := (w 0).toNat % 4
  s.modCtx c (fun k =>
    let k := (List.range 11).foldl (fun (k : Ctx) i => k.write (i + 1) (w (i + 1))) {k with state := .free}
    { k with slice := x, state := if st = 1 then .live else if st = 0 then .free else .lost, vint := k.vint + 1,
             cause := if st = 3 then BitVec.ofNat 8 (bits (w 0).toNat 39 32) else if st = 2 then BitVec.ofNat 8 (LossCause.code .slice) else 0,
             pend := false, pos := none, want := none, idle := false, barIn := 0, saving := none, aborting := none, thawWant := decide (st = 1),
             tchg := w 12, nload := BitVec.ofNat 32 (w 13).toNat, npre := BitVec.ofNat 32 ((w 13).toNat / 2 ^ 32) })

def queueStateOf : Nat → QState | 0 => .off | 1 => .on | 2 => .error | _ => .drain

/-- A queue slot restored; what it has fetched follows from its descriptors. -/
def State.putQueue (s : State) (img : List Byte) (o : Nat) : State :=
  let w := fun (i : Nat) => BitVec.ofNat 64 (fld img (o + 8 * i) 8)
  let q := fld img (o + 56) 2 % 16384
  let rs := ((secRecs img 4).filter (fun d => fld img (d + 0x40) 2 = q)).map (fun d => fld img (d + 0x44) 4)
  let hd := (w 4).toNat % 2 ^ 32
  let err := bits (w 5).toNat 39 32
  let failed := match rs with
    | r :: _ => (r + 2 ^ 32 - hd) % 2 ^ 32
    | [] => b2n (decide (err = 1))
  let fetched := match rs.getLast? with | some r => r + 1 | none => hd + failed
  s.modQueue q (fun u =>
    let u := (List.range 4).foldl (fun (u : Queue) i => u.write i (w i)) {u with state := .off}
    { u with head := BitVec.ofNat 32 hd, tail := BitVec.ofNat 32 ((w 4).toNat / 2 ^ 32), state := queueStateOf ((w 5).toNat % 4),
             err := BitVec.ofNat 8 err, vint := u.vint + 1, ndb := BitVec.ofNat 32 (w 6).toNat,
             ndisc := BitVec.ofNat 32 ((w 6).toNat / 2 ^ 32), fetched := BitVec.ofNat 32 fetched, failed := failed,
             stalled := false, lineDue := false, frozenDb := 0, drainBlk := none })

/-- A fence object restored under the target slice. -/
def State.putFence (s : State) (x : SliceId) (img : List Byte) (o : Nat) : State :=
  let w := fun (i : Nat) => fld img (o + 8 * i) 8
  let f := fld img (o + 32) 2
  s.modFence f (fun _ => {
    value := BitVec.ofNat 64 (w 0), slice := x, armed := bit (w 1) 6, aband := bit (w 1) 7,
    prod := ⟨w 1 / 256 % 4096, Nat.mod_lt _ (by decide)⟩, pen := bit (w 1) 20, evn := bit (w 1) 21,
    evec := ⟨w 1 / 2 ^ 22 % 2048, Nat.mod_lt _ (by decide)⟩, evval := BitVec.ofNat 64 (w 2), stale := BitVec.ofNat 32 (w 3),
    nsig := BitVec.ofNat 32 (w 3 / 2 ^ 32) })

/-- Tiles whose bytes add up to `done`. -/
def Desc.tilesDone (d : Desc) : Nat → Nat → Nat → Nat
  | 0, i, _ => i
  | n + 1, i, left =>
    let b := d.tileBytes i
    if i < d.tileCount && b ≤ left && left ≠ 0 then d.tilesDone n (i + 1) (left - b) else i

/-- A descriptor restored, to resume at its first uncommitted tile. -/
def State.putDesc (s : State) (img : List Byte) (o : Nat) : State :=
  let q := fld img (o + 0x40) 2 % 16384
  let done := fld img (o + 0x48) 8
  let ds := fld img (o + 0x50) 1
  let d : Desc := {
    id := s.hub.descId, src := .queue ⟨q % 16384, Nat.mod_lt _ (by decide)⟩, ridx := fld img (o + 0x44) 4,
    w := (List.range 8).map (fun i => BitVec.ofNat 64 (fld img (o + 8 * i) 8)), vint := (s.queueOf q).vint,
    st := match ds with | 0 => .queued | 1 => .yielded | 2 => .parked | _ => .ended,
    issued := 0, tiles := 0, done := done, flags := PFlags.ofNat (fld img (o + 0x51) 1), status := 0, addr := 0, dropped := false,
    base := 0, orig := [] }
  let k := if ds = 3 then d.tileCount else d.tilesDone (d.tileCount + 1) 0 done
  s.modHub (fun h => {h with descId := h.descId + 1, desc := h.desc ++ [{d with tiles := k, issued := k}]})

/-- A folded fault record restored (R408, R411). -/
def foldedOf (x : Nat) (img : List Byte) (o : Nat) : Folded :=
  let w := fun (i : Nat) => fld img (o + 8 * i) 8
  { first := { ctx := bits (w 0) 11 0, kind := bits (w 0) 15 12, vint := bits (w 0) 31 16, cause := bits (w 0) 39 32, acc := bits (w 0) 41 40,
               fatal := bit (w 0) 43, wlk := bit (w 0) 44, who := bits (w 0) 63 48, addr := w 1, ipa := w 2, elen := 0, eoff := 0, slice := x },
    n := w 3 % 2 ^ 32 }

/-- The fault state restored: the queue's block, keys, folded records. -/
def State.putFaults (s : State) (x : Nat) (img : List Byte) : State :=
  let s := match secRecs img 5 with
    | o :: _ => s.modFq x (fun q => { q with
        base := BitVec.ofNat 64 (bits (fld img o 8) 6 0 + 2 ^ 18 * bits (fld img o 8) 47 18), en := bit (fld img (o + 8) 8) 0,
        vec := ⟨fld img (o + 8) 8 / 2 % 2048, Nat.mod_lt _ (by decide)⟩, head := BitVec.ofNat 32 (fld img (o + 16) 4),
        tail := BitVec.ofNat 32 (fld img (o + 20) 4), nrec := BitVec.ofNat 32 (fld img (o + 24) 4), batch := [],
        folded := (secRecs img 6).map (foldedOf x img) })
    | [] => s
  s.modHub (fun h => {h with keys := h.keys ++ (secRecs img 7).map (fun o => (fld img o 2 % 4096, fld img (o + 8) 8 / 4096))})

/-- A barrier channel's combiners restored. -/
def State.putBar (s : State) (img : List Byte) (o : Nat) : State :=
  let n := fld img o 8
  let c := n % 256
  let loc := fun (y : Nat) => fld img (o + 16 + 4 * y) 4
  let sites := (List.finRange 16).filter (fun y => loc y.val % 2 ^ 11 ≠ 0)
  let s := (List.finRange 16).foldl (fun s y => s.modDie y.val (fun d => { d with
    barLocal := tput d.barLocal c (loc y.val % 2 ^ 11), barCount := tput d.barCount c (bits (loc y.val) 21 11),
    barPh := tput d.barPh c (bits n 9 9) })) s
  let msgs := (sites.filter (fun y => loc y.val % 2 ^ 11 ≤ bits (loc y.val) 21 11)).take (bits n 20 16)
  s.modBar c (fun _ => ⟨bit n 8, bits n 15 11, msgs, bit n 9, bit n 10, []⟩)

/-- The contexts whose threads have arrived on a channel, as their images say (R52, R65); such a thread resumes its `barw`
without a second arrival (R131, log 16). -/
def State.putArrived (s : State) (c : Nat) : State :=
  let (k, base) := (s.ctxOf c).area
  let (_, _, bs, s) := s.agentBytes {} k (base + 0x9A200) 32
  (List.range 4).foldl (fun s t =>
    let n := fld bs (8 * t) 8
    if bit n 8 then (s.modBar (n % 256) (fun b => {b with ctxs := if b.ctxs.contains c then b.ctxs else c :: b.ctxs})).modCtx c
      (fun k => {k with barIn := k.barIn ||| BitVec.ofNat 4 (2 ^ t)}) else s) s

/-- A graft's rules, `fctx` and `fen` restored. -/
def State.putGate (s : State) (img : List Byte) (o : Nat) : State :=
  let ctl := fld img (o + 8) 8
  s.modGate (fld img o 1 % 16) (fun g => { g with
    fctx := ⟨bits ctl 33 22 % 4096, Nat.mod_lt _ (by decide)⟩, fen := bit ctl 34, held := true,
    rule := (List.range 16).map (fun i =>
      let w := fun (j : Nat) => BitVec.ofNat 64 (fld img (o + 16 + 32 * i + 8 * j) 8)
      (i, ⟨w 0, w 1, w 2, (w 3).setWidth 32⟩)) })

/-- The slice restored from an image. -/
def State.restoreSlice (s : State) (x : SliceId) (img : List Byte) : State :=
  let s := (secRecs img 1).foldl (fun s o => s.putCtx x img o) s
  let s := (secRecs img 2).foldl (fun s o => s.putQueue img o) s
  let s := (secRecs img 3).foldl (fun s o => s.putFence x img o) s
  let s := (secRecs img 4).foldl (fun s o => s.putDesc img o) s
  let s := s.putFaults x.val img
  let s := (secRecs img 8).foldl (fun s o => s.putBar img o) s
  let s := (s.sliceCtxs x.val).foldl State.putArrived s
  let s := (secRecs img 9).foldl (fun s o => s.putGate img o) s
  let s := s.modSlice x.val (fun e => {e with state := .frozen, ticked := true})
  s.modHub (fun h => {h with uncorks := h.uncorks + 1})

/-- SLUNCORK; without the feature BADARG. An image that cannot be read whole is a bad one. -/
def State.slUncork (x : SliceId) (a0 a1 : Nat) (s : State) : Option Nat × State :=
  let limit := bits a1 63 32
  let held := !(s.sliceCtxs x.val).isEmpty || !(s.sliceQueues x.val).isEmpty || s.hub.fence.any (fun f => f.2.slice = x && f.2.armed)
  if !s.boot.feat.getLsbD 5 || !imageArgOk a0 limit then (some 2, s)
  else if (s.sliceOf x.val).state ≠ .active || held then (some 1, s)
  else
    let (st, p, h, s) := s.agentBytes {} (bits a1 5 0) a0 256
    let len := fld h 0x18 8
    if st ≠ .ok || p || fld h 0 8 ≠ 0x31454C54544F4253 || fld h 8 2 ≠ 1 || limit < len || len < 256 then (some 4, s)
    else
      let (st, p, img, s) := s.agentBytes {} (bits a1 5 0) a0 len
      if st ≠ .ok || p || !secsInside img len || s.imageBad x.val img then (some 4, s)
      else (some 0, s.restoreSlice x img)
def execSluncork (b : Fin 4) (x : SliceId) (s : State) : Res := .next (s.scmdGo b.val 5 x.val (fun a0 a1 s => s.slUncork x a0 a1))

end Sys2Proof.Machine
end

