-- ==== Sys2Proof/Machine/SecurityCmds.lean ====
section
/-! DEFINITION. Security (R436–R457): version commit, attestation, key slots, buffer scrub. -/

namespace Sys2Proof.Machine

def State.modSec (s : State) (f : Security → Security) : State := {s with sec := f s.sec}
/-- A security write discarded (OD 0x2D00.01). -/
def State.secDiscard (s : State) : State := s.modSec (fun c => {c with disc := c.disc + 1})

/-! ### Version and revocation (R441) -/

/-- SECURITY_VERSION_COMMIT: a version commit when bits [7:0] are 0, else the revocation of key [10:8], 0–3 firmware, 4–7
licence (DESIGN CHOICE, log 30). -/
def State.versionCommit (s : State) (v : Nat) : State :=
  let k := bits v 10 8
  if bits v 7 0 = 0 then
    {s with fuses := {s.fuses with sver := max s.fuses.sver (min 64 s.boot.runSver)}}
  else if k = s.boot.runKey then s.secDiscard
  else if k < 4 then {s with fuses := {s.fuses with fwRevoke := s.fuses.fwRevoke ||| BitVec.ofNat 4 (2 ^ k)}}
  else {s with fuses := {s.fuses with licRevoke := s.fuses.licRevoke ||| BitVec.ofNat 4 (2 ^ (k - 4))}}

def execSecurityVersionCommit (v : Word) (s : State) : Res := .next (s.versionCommit v.toNat)

/-! ### Attestation (R443–R447) -/

def Security.chanOf (c : Security) (ch : Nat) : Attest := tget {} c.chan ch
def Security.setChan (c : Security) (ch : Nat) (f : Attest → Attest) : Security := {c with chan := tmod {} c.chan ch f}
/-- Signatures left (R443). -/
def Security.left (c : Security) : Nat := 2 ^ 30 - c.q

/-- A request names a slice that is not FREE or none, and its last bytes are 0 (R445). -/
def State.attestOk (s : State) (req : List Byte) : Bool :=
  let sl := (nth 0 req 32).toNat
  req.length = 40 && (req.drop 33).all (· = 0) && (sl = 0xFF || (sl < 64 && (s.sliceOf sl).state ≠ .free))

/-- A write of an attestation request on a channel; it replaces one not yet signed. -/
def State.attestRequest (s : State) (ch : Nat) (req : List Byte) : State :=
  let c := s.sec
  let finish := fun (st : Nat) => s.modSec (fun c => ({c with waiting := c.waiting.erase ch, ready := c.ready.erase ch}).setChan ch
    (fun a => {a with req := none, status := st}))
  if !s.attestOk req then finish 5
  else if c.left = 0 then finish 4
  else
    let queued := c.waiting.contains ch || c.ready.contains ch
    if !queued && c.bucket = 0 && 16 ≤ c.waiting.length then finish 3
    else s.modSec (fun c =>
      let c := c.setChan ch (fun a => {a with req := some req, status := 1})
      if queued then c
      else if c.bucket = 0 then {c with waiting := c.waiting ++ [ch]}
      else {c with bucket := c.bucket - 1, ready := c.ready ++ [ch]})

/-- ATTESTATION_REQUEST. -/
def execAttestationRequest (ch : Fin 4) (req : List Byte) (s : State) : Res :=
  .next (if ch.val = 0 then s else s.attestRequest ch.val req)

/-- The 32 bytes of a hash. -/
def hashBytes (h : BitVec 256) : List Byte := leBytes 32 h.toNat

/-- A slice entry with words 0, 3 and 4 read as 0. -/
def State.sliceImage (s : State) (sl : Nat) : List Byte :=
  wordsBytes ((List.range 32).map (fun i => if i = 0 || i = 3 || i = 4 then 0 else s.sliceWord sl i))

/-- The signed body of a report (R446, R447). -/
def State.reportBody (s : State) (req : List Byte) : List Byte :=
  let sl := (nth 0 req 32).toNat
  let flags := b2n (!s.time.tlock) + 2 * s.sec.sticky.toNat + 16 * b2n (s.obs.en ≠ 0)
  let mask := fun (p : Gate → Bool) => (List.range 16).foldl (fun n x => if s.isGraft x && p (s.gateOf x) then n + 2 ^ x else n) 0
  fit 0 256 (leBytes 8 0x545454414E55524A ++ leBytes 2 1 ++ leBytes 2 flags ++ leBytes 4 0 ++ req.take 32 ++ leBytes 8 s.now
    ++ leBytes 4 s.sec.q ++ leBytes 4 s.boot.gen.toNat ++ leBytes 16 s.fuses.serial.toNat ++ leBytes 8 s.fuses.kit.toNat
    ++ leBytes 8 s.boot.cuvee.toNat ++ hashBytes s.boot.runHash ++ hashBytes s.boot.licHash
    ++ leBytes 1 s.boot.runKey ++ leBytes 1 s.fuses.sver ++ leBytes 1 s.boot.runSver ++ leBytes 5 0 ++ leBytes 1 sl ++ leBytes 7 0
    ++ (if sl = 0xFF then leBytes 32 0 else hashBytes (Config.sha256 (s.sliceImage sl)))
    ++ leBytes 2 (mask (·.adm)) ++ leBytes 2 (mask (·.fenced)))

/-- ATTESTATION_SIGNED: the index is committed, then the report of the oldest request that may be signed is ready; it waits
while the next tree is not built. -/
def execAttestationSigned (s : State) : Res :=
  .next (match s.sec.ready with
    | [] => s
    | ch :: rest =>
      match (s.sec.chanOf ch).req with
      | none => s.modSec (fun c => {c with ready := rest})
      | some req =>
        if s.sec.left = 0 then s.modSec (fun c => ({c with ready := rest}).setChan ch (fun a => {a with req := none, status := 4}))
        else if 32768 * s.sec.trees ≤ s.sec.q then s
        else
          let body := s.reportBody req
          let rep := body ++ fit 0 5396 (Config.lmsSign s.sec.q body)
          let s := s.modSec (fun c => ({ c with
            q := c.q + 1, ready := rest, signed := (c.signed + 1) % 2 ^ 32,
            lowIdx := c.lowIdx || decide (2 ^ 30 - (c.q + 1) < 2 ^ 20) }).setChan ch
              (fun _ => {req := none, status := 2, report := rep}))
          s.emit (.event 2 [ch]))

/-- SIGN_BUCKET_REFILL: one signature more; the oldest waiting request takes it. -/
def execSignBucketRefill (s : State) : Res :=
  .next (s.modSec (fun c => match c.waiting with
    | ch :: rest => {c with waiting := rest, ready := c.ready ++ [ch]}
    | [] => {c with bucket := min 64 (c.bucket + 1)}))

/-- SIGN_TREE_BUILT: the tree after the one that serves. -/
def execSignTreeBuilt (s : State) : Res :=
  .next (s.modSec (fun c => if c.trees ≤ c.q / 32768 + 1 then {c with trees := c.trees + 1} else c))

/-! ### Key slots (R449, R450) -/

/-- A write of OD 0x2D20: none when it is discarded. -/
def KeySlot.write (k : KeySlot) (slot v : Nat) : Option KeySlot :=
  let t := v % 4
  let sweep := BitVec.ofNat 32 (bits v 34 3)
  if t = 3 || (slot = 0 && t ≠ 0) then none
  else match k.state.toNat, t with
    | 0, 0 => some k
    | 0, 1 => some {k with state := 1, sweep := sweep}
    | 1, 0 => some {k with state := 0, sweep := 0}
    | 1, 1 => some {k with sweep := sweep}
    | 1, 2 => if k.sweep = 0 then some {k with state := 2, pend := true} else none
    | 2, 0 => some {k with state := 0, sweep := 0}
    | 2, 2 => some k
    | _, _ => none

def State.setSlot (s : State) (i : Nat) (k : KeySlot) : State := s.modSec (fun c => {c with slot := tput c.slot i k})

/-- KEY_SLOT_WRITE. -/
def State.keyWrite (s : State) (i v : Nat) : State :=
  match (s.slotOf i).write i v with
  | some k => s.setSlot i k
  | none => s.secDiscard
def execKeySlotWrite (slot : Fin 64) (v : Word) (s : State) : Res := .next (s.keyWrite slot.val v.toNat)

/-- KEY_SLOT_SWEEP_SUB. -/
def State.keySub (s : State) (i v : Nat) : State :=
  let k := s.slotOf i
  if k.state = 1 && v ≤ k.sweep.toNat then s.setSlot i {k with sweep := k.sweep - BitVec.ofNat 32 v} else s.secDiscard
def execKeySlotSweepSub (slot : Fin 64) (v : Half) (s : State) : Res := .next (s.keySub slot.val v.toNat)

/-- KEY_SLOT_RETIRE_DRAINED. -/
def execKeySlotRetireDrained (slot : Fin 64) (s : State) : Res :=
  .next (s.setSlot slot.val {s.slotOf slot.val with pend := false})

/-! ### Scrub (R452) -/

/-- The endpoint whose mailbox goes with a channel. -/
def chanEp : Nat → Option Ep | 1 => some .ioa | 2 => some .iob | _ => none

/-- MGD_BUFFER_SCRUB: an attestation report and a mailbox response that are ready are overwritten with zeros. -/
def State.scrub (s : State) (ch : Nat) : State :=
  let s := if (s.sec.chanOf ch).status = 2 then s.modSec (fun c => c.setChan ch (fun a => {a with report := []})) else s
  match chanEp ch with
  | some e => s.modEp e (fun h => if h.mbox.done then {h with mbox := {h.mbox with rsp := []}} else h)
  | none => s
def execMgdBufferScrub (ch : Fin 4) (s : State) : Res := .next (s.scrub ch.val)

end Sys2Proof.Machine
end

