-- ==== Sys2Proof/Machine/Reset.lean ====
section
/-! DEFINITION. What lasts through a package reset (R458, R459, R477, R485), and the power-on reset. -/

namespace Sys2Proof.Machine

/-- The staves a pseudo-channel uses: its stored training configuration (R200, R458). -/
def Pc.lasting (p : Pc) : Pc := {dqStaves := p.dqStaves, caStave := p.caStave}
/-- What a cask's dies and service records keep (R200, R202–R204). -/
def Cask.lasting (c : Cask) : Cask :=
  { rowFused := c.rowFused, remap := c.remap, spareDead := c.spareDead, worn := c.worn,
    pc := (c.pc.filter (fun p => p.2.lasting ≠ {})).map (fun p => (p.1, p.2.lasting)) }

/-- The stored training configuration and baseline of a direction (R310, R458). -/
def LinkDir.lasting (d : LinkDir) : LinkDir :=
  {spd := d.spd, half := d.half, hsel := d.hsel, stvuse := d.stvuse, stvlane := d.stvlane, base := d.base, baseln := d.baseln}
def LinkDie.lasting (l : LinkDie) : LinkDie :=
  {mod := l.mod.map (fun m => (m.1, {rx := m.2.rx.lasting, tx := m.2.tx.lasting}))}

/-- The counts of a graft site's life (R338). -/
def Gate.lasting (g : Gate) : Gate := {odVio := g.odVio, odOvd := g.odOvd, odAdm := g.odAdm}

/-- Retired links stay out of service (R249). -/
def Trellis.lasting (t : Trellis) : Trellis :=
  {retired := t.retired, link := t.retired.foldl (fun l k => tput l k {insvc := false}) []}

/-- The persistent entries of the book, or their defaults when a restore is due (R497, R498, R502). -/
def Book.lasting (b : Book) : Book :=
  if b.restore then {}
  else
    let a := b.addrNew.getD (b.ip, b.plen, b.gateway)
    {ip := a.1, plen := a.2.1, gateway := a.2.2, autoSpare := b.autoSpare, testPeriod := b.testPeriod}
def Power.lasting (p : Power) (rest : Bool) : Power := if rest then {} else {cap := p.cap}
def Time.lasting (t : Time) (rest : Bool) : Time := if rest then {} else {domain := t.domain, holdLimit := t.holdLimit}
def Twin.lasting (t : Twin) (rest : Bool) : Twin :=
  if rest then {failovers := t.failovers} else {failovers := t.failovers, afo := t.afo, vecA := t.vecA, vecB := t.vecB}

/-- A die through a package reset (R55). -/
def Die.lasting (d : Die) : Die := {d.afterReset with substRes := 0, clmapDisc := 0}

/-- The package in power-on reset: every part at its reset value but for the fuses and the non-volatile store; `por`: the
land is low, and the straps read 0 (R458, R465, R584, R586). JTAG keeps its instruction (R593); the PCIe reset lands keep
their level. -/
def State.powerReset (s : State) (por : Bool) : State :=
  let r := s.book.restore
  { pending := s.pending, out := s.out, freeCtr := s.freeCtr, fuses := s.fuses,
    die := s.die.map (fun d => (d.1, d.2.lasting)), cask := s.cask.map (fun c => (c.1, c.2.lasting)),
    trellis := s.trellis.lasting, link := s.link.map (fun l => (l.1, l.2.lasting)), gate := s.gate.map (fun g => (g.1, g.2.lasting)),
    ioa := {perst := s.ioa.perst}, iob := {perst := s.iob.perst},
    sec := {q := s.sec.q, signed := s.sec.signed, trees := s.sec.q / 32768 + 1},
    boot := { nvImage := s.boot.nvImage, nvLicence := s.boot.nvLicence, cert := s.boot.cert, lseq := s.boot.lseq,
              coreRec := s.boot.coreRec },
    book := s.book.lasting,
    power := {s.power.lasting r with porLow := por, strap := if por then 0 else s.power.strap},
    time := s.time.lasting r, twin := s.twin.lasting r, obs := {jtag := {ir := s.obs.jtag.ir}},
    avail := {delivRetired := s.avail.delivRetired} }

/-- A cold bring-up begins: stage 1, the watchdog running (R462, R465). -/
def State.coldStart (s : State) (kind : Nat) : State :=
  {s with boot := {s.boot with running := true, stage := 1, kind := kind, startAt := s.now}}

end Sys2Proof.Machine
end

