-- ==== Sys2Proof/Machine/PowerTime.lean ====
section
/-! DEFINITION. The budget exchange (R506–R512), rail means (R499), the timebase and PTP (R515–R520). Powers are in units
of 0.1 W. -/

namespace Sys2Proof.Machine

/-! ### Limits of a die (R506) -/

/-- Whether the broker governs a site: a powered Bambipin die or an admitted graft (R508, R511). -/
def State.governed (s : State) (x : Nat) : Bool :=
  !(s.linkOf x).fenced && (if s.isGraft x then (s.gateOf x).adm else (s.gateOf x).powered)
def State.floorOf (s : State) (x : Nat) : Nat := if s.isGraft x then bits ((s.gateOf x).word 3) 47 32 else 900
def State.ceilOf (s : State) (x : Nat) : Nat := if s.isGraft x then min 1600 (bits ((s.gateOf x).word 3) 15 0) else 2000
def State.coldOf (s : State) (x : Nat) : Nat := if s.isGraft x then bits ((s.gateOf x).word 3) 31 16 else 1200
/-- The governed sites. -/
def State.governedSites (s : State) : List Nat := (List.range 16).filter (fun x => s.governed x)

/-! ### A die's side (R509) -/

/-- BUDGET: a powered die applies it. -/
def execBudget (x : Site) (w : Word) (s : State) : Res :=
  .next (if (s.gateOf x.val).powered then
      s.modLink x.val (fun l => {l with budget := BitVec.ofNat 16 w.toNat, bseq := BitVec.ofNat 8 (w.toNat >>> 16)})
    else s)

/-- BUDGET_MISSING_FALLBACK. -/
def execBudgetMissingFallback (x : Site) (s : State) : Res :=
  .next (if (s.gateOf x.val).powered then s.modLink x.val (fun l => {l with budget := BitVec.ofNat 16 (s.coldOf x.val)}) else s)

/-! ### The broker's side (R507, R508, R511, R512) -/

/-- An over-budget or missing-report event (R514). -/
def State.powEvent (s : State) (i : Nat) : State := s.modPow i (fun p => {p with events := satAdd 8191 p.events 1})

/-- BUDGET sent to a site, and in force with the broker. -/
def State.sendBudget (s : State) (x b : Nat) : State :=
  (s.modPow (dieSite x) (fun p => {p with budget := b})).emit (.sideband (linkId x) false 0x10 (b + 2 ^ 16 * s.power.bseq.toNat))

/-- The clamp of R512: every governed die at its floor, outside the regular period. -/
def State.clamp (s : State) : State :=
  let s := {s with power := {s.power with clamps := (s.power.clamps + 1) % 2 ^ 32, clamped := true}}
  s.governedSites.foldl (fun s x => s.sendBudget x (s.floorOf x)) s

/-- REPORT: one counts for each period; a graft's counts towards R333 when it echoes the sequence number; a graft 10 °C
over its trip temperature is fenced (R513). -/
def execReport (x : Site) (w : Word) (s : State) : Res :=
  let n := w.toNat
  let i := dieSite x.val
  let t : Int := if bit n 27 then (bits n 27 16 : Int) - 4096 else bits n 27 16
  let echo := bits n 39 32 = s.power.bseq.toNat
  .next (if !(s.gateOf x.val).powered then s
    else
      let s := s.modPow i (fun p => { p with
        reports := if p.got then p.reports else min 10000 (p.reports + 1), got := p.got || !s.isGraft x.val || echo,
        reported := bits n 15 0, trip := bit n 40, temp := t * 5 / 4, miss := 0 })
      if s.isGraft x.val && (bits ((s.gateOf x.val).word 3) 59 48 : Int) + 80 ≤ t then
        (s.dieCritical i).graftFence x 18
      else s)

/-- What a period's end says of one site's report and rails (R333, R512). -/
def State.judgePower (s : State) (x : Site) (m : PeriodMeas) : State :=
  let i := dieSite x.val
  let rail := tget 0 m.dies i
  let p := s.powOf i
  let above := 11 * p.budget < 10 * rail
  let miss := if p.got then 0 else p.miss + 1
  let overN := if above then p.overN + 1 else 0
  let s := s.modPow i (fun p => {p with measured := rail, miss := miss, overN := overN, hold := p.hold - 1})
  if s.isGraft x.val then
    if 10 ≤ overN then (s.powEvent i).graftFence x 18
    else if 10 ≤ miss then (s.powEvent i).graftFence x 19
    else s
  else
    let s := if overN = 10 then (s.powEvent i).modPow i (fun p => {p with overN := 0, hold := 1000}) else s
    if miss = 10 then s.powEvent i else s

/-- Floor and maximum of a site in the sum: both the same for a fixed demand, which a die in its cold interval, at its
cold budget for missing reports, or held at its floor has (R507, R511, R512). -/
def State.bounds (s : State) (x : Nat) : Nat × Nat :=
  let p := s.powOf (dieSite x)
  if p.reports < 10000 || 10 ≤ p.miss then (s.coldOf x, s.coldOf x)
  else if 0 < p.hold then (s.floorOf x, s.floorOf x)
  else (s.floorOf x, s.ceilOf x)

/-- A die's demand (R511 step 2). -/
def demandOf (lo hi reported : Nat) (pressing : Bool) : Nat := max lo (min hi (reported + if pressing then 400 else 50))

/-- The budgets of R511 steps 3–5 for (site, floor, maximum, demand, pressing). -/
def shareOut (pool : Int) (l : List (Nat × Nat × Nat × Nat × Bool)) : List (Nat × Nat) :=
  let sumD : Int := l.foldl (fun n d => n + (d.2.2.2.1 : Int)) 0
  let sumF : Int := l.foldl (fun n d => n + (d.2.1 : Int)) 0
  let k : Int := (l.filter (fun d => d.2.2.2.2)).length
  if sumD ≤ pool then
    l.map (fun d => (d.1, if d.2.2.2.2 then min d.2.2.1 (d.2.2.2.1 + ((pool - sumD) / k).toNat) else d.2.2.2.1))
  else
    let room := max 0 (pool - sumF)
    l.map (fun d => (d.1, d.2.1 + (((d.2.2.2.1 : Int) - d.2.1) * room / (sumD - sumF)).toNat))

/-- The pool of the next period (R511 step 1), less the excess of R512 and a tenth for each period of a hot hub (R513). -/
def State.poolOf (s : State) (m : PeriodMeas) : Int :=
  let rest : Nat := ((List.range 16).map (fun i => tget 0 m.dies (16 + i))).foldl (· + ·) 0
  let p : Int := (min 33000 (10 * s.power.cap) : Nat) - (rest : Int) - 330 - (m.package - 33000 : Nat)
  (List.range s.power.hubCut).foldl (fun p _ => p * 9 / 10) p

/-- The powers of a period kept for the means of R500. -/
def State.powerHist (s : State) (m : PeriodMeas) : State :=
  let s : State := (List.range 32).foldl (fun s i => s.modPow i (fun p => {p with hist := (tget 0 m.dies i :: p.hist).take 100})) s
  {s with power := {s.power with hist := (m.package :: s.power.hist).take 100}}

/-- BUDGET_PERIOD. -/
def execBudgetPeriod (m : PeriodMeas) (s : State) : Res :=
  let s := s.governedSites.foldl (fun s x => s.judgePower ⟨x % 16, Nat.mod_lt _ (by decide)⟩ m) s
  let s : State := (List.range 16).foldl (fun s i => s.modPow (16 + i) (fun p => {p with measured := tget 0 m.dies (16 + i)})) s
  let s := s.powerHist m
  let s : State := { s with power := { s.power with
    hubCut := if 1000 ≤ (s.powOf dieHub).temp then s.power.hubCut + 1 else 0, clamped := false, bseq := s.power.bseq + 1 } }
  let pool := s.poolOf m
  let s : State := {s with power := {s.power with pool := pool}}
  let l := s.governedSites.map (fun x =>
    let p := s.powOf (dieSite x)
    let b := s.bounds x
    let press := 95 * p.budget ≤ 100 * p.reported || p.trip
    (x, b.1, b.2, demandOf b.1 b.2 p.reported press, press))
  let s := l.foldl (fun s d => s.modPow (dieSite d.1) (fun p => {p with pressing := d.2.2.2.2, got := false})) s
  .next (if s.power.hubClamp then s.governedSites.foldl (fun s x => s.sendBudget x (s.floorOf x)) s
    else (shareOut pool l).foldl (fun s b => s.sendBudget b.1 b.2) s)

/-- RAIL_MEASURE_UPDATE: the means of the last millisecond; the last 1,000 currents of a rail are kept (R499). -/
def execRailMeasureUpdate (volts amps : List Nat) (s : State) : Res :=
  .next {s with book := { s.book with
    railV := List.zip (List.range 44) (fit 0 44 volts), railI := List.zip (List.range 44) (fit 0 44 amps),
    railMax := (List.range 44).map (fun j => (j, (nth 0 amps j :: tget [] s.book.railMax j).take 1000)) }}

/-! ### The timebase (R515, R516) -/

def State.modTime (s : State) (f : Time → Time) : State := {s with time := f s.time}

/-- `tlock` set or cleared: a change is stamped and raises vector 0 of both endpoints (R356, R520). -/
def State.setLock (s : State) (b : Bool) : State :=
  if s.time.tlock = b then s
  else (s.modTime (fun t => {t with tlock := b, acq := t.acq || b, lockAt := t.now})).raiseStatus

/-- A step forwards of n ns. -/
def State.timeStep (s : State) (n : Nat) : State :=
  s.modTime (fun t => {t with now := t.now + BitVec.ofNat 64 n, nstep := t.nstep + 1})

/-- TIMEBASE_STEP: a write of `TBSTEP`. -/
def execTimebaseStep (who : Who) (v : Word) (s : State) : Res :=
  .next (match who with
    | .mgd => (s.timeStep (bits v.toNat 62 0)).ack who .ok
    | _ => s.ack who .refused)

/-! ### PTP (R517–R520) -/

/-- ±500 ppm in units of 2^−40. -/
def rateMax : Int := 549755813

/-- The discipline at an offset (R518). The loop's gains are not given: its rate is free within the limit. -/
def State.discipline (s : State) (ofs : Int) : State :=
  if (!s.time.measured && 0 ≤ ofs) || 100000 < ofs then
    ((s.timeStep ofs.toNat).modTime (fun t => {t with run := 0, slew := false})).setLock false
  else if ofs < -100000 || (s.time.slew && ofs < -1000) then
    (s.modTime (fun t => {t with run := 0, slew := true, rate := BitVec.ofInt 32 (-rateMax)})).setLock false
  else
    let run := if -1000 ≤ ofs && ofs ≤ 1000 then s.time.run + 1 else 0
    let r := (Config.freeNat s.freeCtr 518 % 1099511627 : Int) - rateMax
    let s := s.bump.modTime (fun t => {t with run := run, slew := false, rate := BitVec.ofInt 32 r})
    if ofs < -10000 || 10000 < ofs then s.setLock false else if 16 ≤ run then s.setLock true else s

/-- PTP_OFFSET_MEASURE: it ends holdover. -/
def execPtpOffsetMeasure (m : PtpMeas) (s : State) : Res :=
  let s := s.modTime (fun t => { t with
    ofs := BitVec.ofInt 64 m.ofs, delay := m.delay, gm := m.gm, utc := m.utc, hold := false, port := 3 })
  .next ((s.discipline m.ofs).modTime (fun t => {t with measured := true}))

/-- PTP_HOLDOVER_ENTER: the rate holds its mean over the last 64 s. -/
def execPtpHoldoverEnter (meanRate : Half) (s : State) : Res :=
  .next (s.modTime (fun t => {t with hold := true, rate := meanRate, port := 4, run := 0}))

/-- PTP_HOLDOVER_LIMIT. -/
def execPtpHoldoverLimit (s : State) : Res := .next (if s.time.hold then s.setLock false else s)

/-- PTP_DOMAIN_WRITE: the port restarts in the listening state (R520). -/
def State.ptpDomain (s : State) (v : Byte) : State :=
  (s.modTime (fun t => {t with domain := v, port := 1, run := 0})).setLock false
def execPtpDomainWrite (v : Byte) (s : State) : Res := .next (s.ptpDomain v)

end Sys2Proof.Machine
end

