-- ==== Sys2Proof/Machine/Observe.lean ====
section
/-! DEFINITION. Observation (R523–R544): enablement, the observation cap, tasters, sinks, the counter table, JTAG but for
its register accesses. -/

namespace Sys2Proof.Machine

def State.modObs (s : State) (f : Observe → Observe) : State := {s with obs := f s.obs}

/-- What a write by command of entry `index` answers: its status is noted. -/
def odDone (index : Nat) (r : Nat × State) : State := r.2.emit (.event 16 [index, r.1])

/-! ### The observation cap (R290, R536) -/

def Taster.en (t : Taster) : Bool := t.ctl.getLsbD 0
def Taster.obsb (t : Taster) : Nat := bits t.ctl.toNat 14 8
/-- The memory NI a taster's records go to (R533). -/
def State.tasterDst (s : State) (t : Taster) : Nat := niMem ((s.sinkOf (bits t.ctl.toNat 2 1)).base.toNat / 2 ^ 30) 0

/-- The links a taster's records use, by router and direction, and the local port at their end: plane i mod 2 (R533). -/
def State.tasterPath (s : State) (i : Nat) (t : Taster) : List (Nat × Nat × Nat) :=
  let d := s.tasterDst t
  match routePath i (legs (entrySel (s.routeOf (niTaster i) d))) with
  | some (_, path) => (i % 2, 1000, d) :: path.map (fun l => (i % 2, l.1, l.2))
  | none => [(i % 2, 1000, d)]

/-- The load on the most loaded link of a set of tasters (OD 0x2702.00). -/
def State.obsLoad (s : State) (ts : Tab Taster) : Nat :=
  let loads : List ((Nat × Nat × Nat) × Nat) :=
    (ts.filter (fun t => t.2.en)).flatMap (fun t => (s.tasterPath t.1 t.2).map (fun l => (l, t.2.obsb)))
  (loads.map (fun l => ((loads.filter (fun k => k.1 = l.1)).map (·.2)).foldl (· + ·) 0)).foldl max 0

/-- An enabled taster's budget from the next window end, and its plane (R281, R533). -/
def State.tasterArm (s : State) (i : Nat) : State :=
  let t := s.tasterOf i
  let ni := niTaster i
  let d := s.tasterDst t
  let v := s.routeOf ni d
  let s := s.budgetWrite ni 4 t.obsb
  if bit v 51 then s.routeSet ni d (BitVec.ofNat 64 (v - 2 ^ 49 * bits v 50 49 + 2 ^ 49 * (1 + i % 2))) else s

/-- The enabled tasters, when tasting is on, get their budgets, and the load is noted (R291). -/
def State.tasterArmAll (s : State) : State :=
  let s := s.modTrellis (fun t => {t with obsMax := s.obsLoad s.obs.taster})
  (s.obs.taster.filter (fun t => t.2.en)).foldl (fun s t => s.tasterArm t.1) s

/-! ### Enablement (R523, R524, R536) -/

/-- A write of OD 0x3100.01: RANGE for a reserved bit, or when tasting fails the cap, which counts (R281). -/
def State.obsEnable (s : State) (v : Nat) : Nat × State :=
  if bits v 7 4 ≠ 0 then (6, s)
  else if bit v 1 && 120 < s.obsLoad s.obs.taster then (6, s.regDiscard)
  else
    let was := s.obs.en
    let flag : BitVec 3 := if bit v 1 || bit v 2 then 1 else 0
    let s := s.octSettle
    let s : State := {s with sec := {s.sec with sticky := s.sec.sticky ||| flag}}
    let s := s.modObs (fun o => { o with
      en := BitVec.ofNat 4 v, enAt := if was = BitVec.ofNat 4 v then o.enAt else s.time.now,
      xlptr := if bit v 3 && !was.getLsbD 3 then 0 else o.xlptr, xmsg := if bit v 3 && !was.getLsbD 3 then [] else o.xmsg })
    (0, if bit v 1 && !was.getLsbD 1 then s.tasterArmAll
      else if !bit v 1 && was.getLsbD 1 then
        (s.modTrellis (fun t => {t with obsMax := 0})) |> fun s =>
          (s.obs.taster.filter (fun t => t.2.en)).foldl (fun s t => s.budgetWrite (niTaster t.1) 4 0) s
      else s)

/-- OBS_ENABLE_WRITE. -/
def execObsEnableWrite (v : Byte) (s : State) : Res := .next (odDone 0x3100 (s.obsEnable v.toNat))

/-- A write of `TCTL`: RANGE when the set it makes fails the cap, or the budget asked for is not 1–120. -/
def State.tasterWrite (s : State) (i v : Nat) : Nat × State :=
  let old := s.tasterOf i
  let t := {old with ctl := BitVec.ofNat 15 (v - 16 * bits v 7 4)}
  let ts := tput s.obs.taster i t
  if t.en && t.obsb = 0 then (6, s)
  else if t.en && (120 < t.obsb || 120 < s.obsLoad ts) then (6, s.regDiscard)
  else
    let s := s.modObs (fun o => {o with taster := ts})
    (0, if !s.obs.en.getLsbD 1 then s
      else if t.en then s.tasterArmAll
      else (if old.en then s.budgetWrite (niTaster i) 4 0 else s).tasterArmAll)

/-- TASTER_CTL_WRITE. -/
def execTasterCtlWrite (i : RouterId) (v : Word) (s : State) : Res := .next (odDone 0x3110 (s.tasterWrite i.val v.toNat))

/-! ### Sinks (R534) -/

/-- A write of `SKBASE` and `SKCFG`: one that sets `sen` is discarded unless its ring fits. -/
def State.sinkWrite (s : State) (i base cfg : Nat) : State :=
  let lg := bits cfg 12 8
  let b := bits base 47 6
  let fits := 16 ≤ lg && lg ≤ 30 && (64 * b) % 2 ^ lg = 0 && (64 * b) / 2 ^ 36 < 12 && (64 * b) % 2 ^ 36 + 2 ^ lg ≤ usableEnd
  if bit cfg 0 && !fits then s
  else s.modObs (fun o => {o with sink := tmod {} o.sink i (fun k => { k with
    base := BitVec.ofNat 42 b, sen := bit cfg 0, wrap := bit cfg 1, lgsz := BitVec.ofNat 5 lg,
    nrec := if bit cfg 0 && !k.sen then 0 else k.nrec })})

/-- SINK_CFG_WRITE. -/
def execSinkCfgWrite (i : Fin 4) (base cfg : Word) (s : State) : Res := .next (s.sinkWrite i.val base.toNat cfg.toNat)

/-! ### The counter table (R528) -/

/-- The record of a core position. -/
def State.counterRecord (s : State) (g : Nat) : List Byte :=
  let c := s.coreOf g
  leBytes 8 s.now ++ (List.range 8).flatMap (fun i => leBytes 8 (tget 0 c.octr i).toNat)
    ++ leBytes 1 ((s.clusterOf (g / 256) (g / 16 % 16)).serving (g % 16) + 128 * b2n (!s.time.tlock))

/-- COUNTER_COPY: every core of the Bambipin sites. -/
def execCounterCopy (s : State) : Res :=
  let s := s.octSettle
  .next (s.modObs (fun o => {o with
    octab := ((List.range 4096).filter (fun g => !s.isGraft (g / 256))).map (fun g => (g, s.counterRecord g))}))

/-! ### JTAG (R541–R543) -/

/-- The instruction in force: codes not listed act as BYPASS (R541). -/
def jtagOp (ir : Nat) : Nat := if [0x01, 0x02, 0x03, 0x10, 0x11, 0x12].contains ir then ir else 0xFF

/-- JTAG_IR_UPDATE: an instruction other than IDCODE or BYPASS is noted for attestation (R447). -/
def execJtagIrUpdate (ir : Byte) (s : State) : Res :=
  let op := jtagOp ir.toNat
  let flag : BitVec 3 := if op = 1 || op = 0xFF then 0 else 4
  let s : State := {s with sec := {s.sec with sticky := s.sec.sticky ||| flag}}
  .next (s.modObs (fun o => {o with jtag := {o.jtag with ir := ir}}))

/-- JTAG_HALT: an update of HALT while it is the instruction, with the package out of reset. -/
def execJtagHalt (v : BitVec 18) (s : State) : Res :=
  .next (if jtagOp s.obs.jtag.ir.toNat = 0x11 && s.boot.running then s.hltctlWrite v.toNat else s)

end Sys2Proof.Machine
end

