-- ==== Sys2Proof/Machine/Twin.lean ====
section
/-! DEFINITION. The twin pair (R453, R454, R556–R570): pairing, heartbeats, the lease, mirror entries, pushes, journal,
restores, roles. Book statuses are those of R491. -/

namespace Sys2Proof.Machine

/-- Mirror protocol majors implemented (R570). -/
def mirrorMin : Nat := 1
def mirrorMax : Nat := 1

/-- The session's major with a partner of these: the highest common one (R570). -/
def commonMajor (vmin vmax : Nat) : Option Nat :=
  if max mirrorMin vmin ≤ min mirrorMax vmax then some (min mirrorMax vmax) else none

/-! ### Freezing every slice (R564, R568) -/

/-- SLFREEZE on every ACTIVE slice, with no command block that waits. -/
def State.freezeAll (s : State) : State :=
  (s.hub.slice.filter (fun e => e.2.state = .active)).foldl (fun s e => s.modSlice e.1 (fun e => { e with
    state := .freezing, ticked := false, ftick := BitVec.ofNat 64 (freezeTickAt s.now), unl := !s.time.tlock, blk := none })) s

/-! ### Pairing (R453, R557, R560) -/

/-- A pairing frame with a new nonce. -/
def State.pairSend (s : State) : State :=
  let n : BitVec 256 := BitVec.ofNat 256 (Config.freeNat s.freeCtr 453)
  (s.bump.modTwin (fun t => {t with nonce := n, sentConf := false, gotConf := false})).emit
    (.twinPair (leBytes 16 s.fuses.serial.toNat ++ leBytes 8 s.fuses.kit.toNat ++ hashBytes n ++ leBytes 1 mirrorMin ++ leBytes 1 mirrorMax))

/-- Pairing begins, when the port may be used, its lanes are up and the package is ready (R465). -/
def State.pairStart (s : State) : State :=
  if s.twinEnabled && s.twin.lanes && s.boot.ready then
    (s.modTwin (fun t => {t with st := .pairing, keys := [], newKeys := [], partner := none})).pairSend
  else s

/-- The four session keys (R453). -/
def State.twinKeys (s : State) (na nb : BitVec 256) : List (BitVec 256) :=
  [(0x42412D6C7463 : Nat), 0x41422D6C7463, 0x42412D746164, 0x41422D746164].map (fun l =>
    Config.hmac (hashBytes s.fuses.kt) (leBytes 6 l ++ hashBytes na ++ hashBytes nb ++ leBytes 8 s.fuses.kit.toNat))

/-- An attempt that fails: three in a row end it, counted (R8, R453, R570). -/
def State.pairFail (s : State) (finish : Bool) : State :=
  if finish || 3 ≤ s.twin.fails + 1 then
    let s : State := {s with sec := {s.sec with pairFail := BitVec.toNat (BitVec.ofNat 32 (s.sec.pairFail + 1))}}
    s.modTwin (fun t => { t with
      st := if t.st = .paired then .paired else .down, newKeys := [], keys := if t.st = .paired then t.keys else [], fails := 0,
      partner := if t.st = .paired then t.partner else none })
  else (s.modTwin (fun t => {t with fails := t.fails + 1})).pairSend

/-- PAIR. In a session it re-pairs: heartbeats go on under the old keys (R570). -/
def execPair (m : PairMsg) (s : State) : Res :=
  .next (if s.twin.st ≠ .pairing && s.twin.st ≠ .paired then s
    else match commonMajor m.vmin.toNat m.vmax.toNat with
      | none => s.pairFail true
      | some _ =>
        let s := if s.twin.st = .paired && s.twin.sentConf && s.twin.gotConf then s.pairSend else s
        let a := decide (s.fuses.serial.toNat < m.serial.toNat)
        let (na, nb) := if a then (s.twin.nonce, m.nonce) else (m.nonce, s.twin.nonce)
        let ks := s.twinKeys na nb
        let s := s.modTwin (fun t => {t with sideA := a, partner := some m, partVer := BitVec.ofNat 16 (256 * m.vmax.toNat)})
        let s := s.modTwin (fun t => if t.st = .paired then {t with newKeys := ks} else {t with keys := ks, txSeq := [], rxSeq := []})
        (s.twinCtl 1 (leBytes 8 s.fuses.kit.toNat ++ hashBytes na ++ hashBytes nb)).modTwin (fun t => {t with sentConf := true}))

/-- A control frame is taken: its tag verifies and its number is above the last one taken; else dropped and counted
(R454). -/
def State.ctlTake (s : State) (tagOk : Bool) (seq : Nat) : Bool × State :=
  let k := s.twin.inKey 2
  let fresh := match tfind s.twin.rxSeq k with | some n => decide (n < seq) | none => true
  if !s.twin.lanes || s.twin.st = .disabled then (false, s)
  else if tagOk && fresh && !s.twin.keys.isEmpty then (true, s.modTwin (fun t => {t with rxSeq := tput t.rxSeq k seq}))
  else (false, {s with sec := {s.sec with ctlDrop := s.sec.ctlDrop + 1}})

/-- Pairing completes: a package keeps its role; one with role 0 that has paired before becomes follower; the first
pairing's roles wait for the partner's heartbeat (R560, log 31). -/
def State.pairDone (s : State) : State :=
  let cable := Config.freeNat s.freeCtr 501 % 2 ^ 32
  let again := s.twin.paired1 && s.twin.role = 0
  let s := s.bump.modTwin (fun t => { t with
    st := .paired, fails := 0, pairedAt := s.time.now, partnerLost := false, miss := 0, landed := 0, acked := 0, sent := [],
    arriving := [], lostTags := [] })
  let s : State := {s with book := {s.book with cable := cable}}
  if again then s.setRole 2 else s

/-- CONFIRM. In a re-pairing it comes under the new keys, whose numbers start again. -/
def execConfirm (kit : Word) (na nb : BitVec 256) (tagOk : Bool) (seq : Nat) (s : State) : Res :=
  let (ok, s) := if s.twin.newKeys.isEmpty then s.ctlTake tagOk seq else (tagOk, s)
  let pn : BitVec 256 := match s.twin.partner with | some m => m.nonce | none => 0
  let mine := if s.twin.sideA then (s.twin.nonce, pn) else (pn, s.twin.nonce)
  .next (if s.twin.partner.isNone || (s.twin.st = .paired && s.twin.newKeys.isEmpty) then s
    else if !ok || kit ≠ s.fuses.kit || (na, nb) ≠ mine then s.pairFail false
    else
      let s := s.modTwin (fun t => {t with gotConf := true})
      if s.twin.st = .pairing && s.twin.sentConf then s.pairDone else s)

/-- TWIN_LINK_UP. -/
def execTwinLinkUp (s : State) : Res :=
  let s := s.modTwin (fun t => {t with lanes := true})
  .next (if s.twin.st = .down then s.pairStart else s)

/-- A push or restore ends: counted, reported; a push that is OK signals its fence; any other status raises the vectors
(R563, R567). -/
def State.pushEnd (s : State) (p : Push) (st : Nat) : State :=
  let s := s.modTwin (fun t => if p.restore then {t with push := t.push.erase p, lastRest := (p.tag, st)}
    else { t with
      push := t.push.erase p, lastPush := (p.tag, st),
      pushes := if st = 0 then t.pushes + 1 else t.pushes, acked := if st = 0 then t.acked + 1 else t.acked,
      partUnits := if st = 0 then tmod [] t.partUnits p.entry
          (fun u => u ++ ((List.range (p.len / 256)).map (· + p.off / 256)).filter (fun i => !u.contains i)) else t.partUnits })
  let s := if st = 0 then (if p.sig && !p.restore then s.fenceSig p.fence none p.fval else s) else s.raiseTwin
  s.switchGo

/-- Pushes and restores outstanding end with LOST. -/
def State.pushesLost (s : State) : State := s.twin.push.foldl (fun s p => s.pushEnd p 2) s

/-- The lanes go down: the session is gone, and what was outstanding is lost (DEDUCED). -/
def State.twinDown (s : State) : State :=
  let s := s.modTwin (fun t => {t with lanes := false})
  if s.twin.st = .disabled then s
  else
    let s := s.modTwin (fun t => {t with st := .down, keys := [], newKeys := [], partner := none, fails := 0})
    ({s with book := {s.book with cable := 0}} : State).pushesLost
/-- TWIN_LINK_DOWN. -/
def execTwinLinkDown (s : State) : Res := .next s.twinDown

/-! ### Heartbeats and the lease (R556, R558, R564, R565) -/

/-- Both heartbeats carry `afo` = 1. -/
def Twin.bothAfo (t : Twin) : Bool := t.afo && (match t.partHb with | some h => h.afo | none => false)
/-- The package's wear level (R546). -/
def State.packWear (s : State) : Nat := s.avail.wear.foldl (fun n w => max n w.2) 0

/-- HEARTBEAT_REFRESH. -/
def execHeartbeatRefresh (s : State) : Res :=
  .next (s.modTwin (fun t => { t with
    fresh := some s.now, hbState := if s.boot.warm then 1 else if t.switching.isSome then 2 else 0 }))

/-- HEARTBEAT_SEND: only in a session, and only with contents at most 1.5 ms old. A re-pairing's keys come into force
here. -/
def execHeartbeatSend (s : State) : Res :=
  .next (match s.twin.st, s.twin.fresh with
    | .paired, some f =>
      if f + 1500000 < s.now then s
      else
        let s := if !s.twin.newKeys.isEmpty && s.twin.gotConf && s.twin.sentConf then
          s.modTwin (fun t => {t with keys := t.newKeys, newKeys := [], txSeq := [], rxSeq := []}) else s
        let t := s.twin
        let s := s.xlogAdd 3 .ioa t.hbseq 0
        let s := s.twinCtl 2 (leBytes 4 t.hbseq ++ leBytes 8 s.now ++ leBytes 4 t.echo ++ leBytes 1 t.role ++ leBytes 1 s.packWear
          ++ leBytes 1 (b2n t.afo) ++ leBytes 1 t.hbState ++ leBytes 1 mirrorMin ++ leBytes 1 mirrorMax ++ leBytes 8 t.landed)
        s.modTwin (fun t => {t with hbseq := (t.hbseq + 1) % 2 ^ 32, sent := (t.sent ++ [(t.hbseq, s.time.ivl)]).drop (t.sent.length + 1 - 16)})
    | _, _ => s)

/-- Pushes whose PUSHACK was lost complete by the count of a heartbeat (R558). -/
def State.pushesByCount (s : State) : Nat → State
  | 0 => s
  | n + 1 => match s.twin.push.find? (fun p => !p.restore) with
    | some p => (s.pushEnd p 0).pushesByCount n
    | none => s

/-- HB: the echo extends the leader's lease; roles of a first pairing are settled; a partner in warm reset loses what it
held (R560, R564, R569). -/
def execHb (m : HbMsg) (tagOk : Bool) (seq : Nat) (s : State) : Res :=
  let (ok, s) := s.ctlTake tagOk seq
  .next (if !ok || s.twin.st ≠ .paired then s
    else
      let s := s.xlogAdd 4 .ioa m.hbseq.toNat 0
      let s := s.modTwin (fun t => { t with
        echo := m.hbseq.toNat, partHb := some m, gotHb := true, lastHb := s.time.ivl, partnerLost := false })
      let s := if s.twin.role = 0 && !s.twin.paired1 then
          s.setRole (if m.role = 0 && s.twin.sideA then 1 else 2) else s
      let s := s.modTwin (fun t => {t with paired1 := true})
      let s := match s.twin.sent.find? (fun x => x.1 = m.echo.toNat) with
        | some x => if s.twin.role = 1 && s.twin.bothAfo then
            s.modTwin (fun t => {t with lease := 1, leaseEnd := max t.leaseEnd (x.2 + 5000000), sent := t.sent.filter (fun y => x.2 ≤ y.2)})
          else s
        | none => s
      let s := if s.twin.bothAfo || s.twin.lease ≠ 1 then s else s.modTwin (fun t => {t with lease := 0})
      let s := s.pushesByCount (m.pushes.toNat - s.twin.acked)
      if m.state = 1 then (s.modTwin (fun t => {t with partUnits := []})).pushesLost else s)

/-- HEARTBEAT_CHECK: by a follower; the third miss in a row declares the partner lost, which is reported. -/
def execHeartbeatCheck (s : State) : Res :=
  .next (if s.twin.role ≠ 2 then s
    else if s.twin.gotHb then s.modTwin (fun t => {t with gotHb := false, miss := 0})
    else
      let s := s.modTwin (fun t => {t with miss := t.miss + 1, missed := t.missed + 1})
      if 3 ≤ s.twin.miss && !s.twin.partnerLost then (s.modTwin (fun t => {t with partnerLost := true})).raiseTwin else s)

/-- LEASE_EXPIRE: every slice freezes, role 0, class F (R547, R564). -/
def execLeaseExpire (s : State) : Res :=
  .next (if s.twin.role ≠ 1 || s.twin.lease ≠ 1 then s
    else
      let s := s.freezeAll.modTwin (fun t => {t with role := 0, lease := 2, switching := none})
      (s.faultOn.logEvent 4 dieHub 0x3002 0 0).raiseTwin)

/-- A follower becomes leader (R562, R564). -/
def State.promote (s : State) : State :=
  if s.twin.role = 2 then
    (s.modTwin (fun t => {t with failovers := (t.failovers + 1) % 2 ^ 32, switching := none, lease := 0})).setRole 1
  else s

/-- PROMOTION_TIMEOUT: 7 ms since the last heartbeat, under automatic failover. -/
def execPromotionTimeout (s : State) : Res := .next (if s.twin.bothAfo then s.promote else s)

/-- FAILOVER: the follower promotes itself at once and answers. -/
def execFailover (_cause : Fin 4) (tagOk : Bool) (seq : Nat) (s : State) : Res :=
  let (ok, s) := s.ctlTake tagOk seq
  .next (if ok && s.twin.role = 2 then s.promote.twinCtl 6 (leBytes 1 1) else s)

/-! ### Mirror entries (R561) -/

/-- Granules of an entry written in full (OD 0x3004). -/
def granules (units : List Nat) (ngran : Nat) : Nat :=
  ((List.range ngran).filter (fun g => decide (8192 ≤ (units.filter (fun u => u / 8192 = g)).length))).length
def entryGrans (w : Word) : Nat := bits w.toNat 62 48
def Twin.gransOf (t : Twin) (i : Nat) : Nat := granules (tget [] t.units i) (entryGrans (tget 0 t.entry i))

/-- An entry that may be enabled. -/
def State.mirrorOk (s : State) (i : Nat) (w : Word) : Bool :=
  1 ≤ entryGrans w && entryGrans w ≤ 23040 && rangeUsable (mirrorBase w) (mirrorSize w)
    && !s.twin.entry.any (fun e => e.1 ≠ i && bit e.2.toNat 0 && rangesMeet (mirrorBase w) (mirrorSize w) (mirrorBase e.2) (mirrorSize e.2))
    && !s.reserves.any (fun r => rangesMeet (mirrorBase w) (mirrorSize w) r.2.prim r.2.size || rangesMeet (mirrorBase w) (mirrorSize w) r.2.copy r.2.size)

/-- A write of a mirror entry; a range that moves starts its count again (DEDUCED). -/
def State.mirrorWrite (s : State) (i v : Nat) : Nat × State :=
  let w : Word := BitVec.ofNat 64 v &&& 0x7FFFFFFFFFE0007F
  if s.twin.push.any (fun p => p.entry = i) then (8, s)
  else if bit v 0 && !s.mirrorOk i w then (6, s)
  else
    let same := w.toNat / 128 = (tget 0 s.twin.entry i).toNat / 128
    (0, s.modTwin (fun t => { t with
      entry := tput t.entry i w, units := if same then t.units else tdel t.units i, partUnits := if same then t.partUnits else tdel t.partUnits i }))

/-- MIRROR_ENTRY_WRITE. -/
def execMirrorEntryWrite (i : Fin 64) (v : Word) (s : State) : Res := .next (odDone 0x3003 (s.mirrorWrite i.val v.toNat))

/-! ### Pushes and restores (R563) -/

/-- A paired leader. -/
def State.leads (s : State) : Bool := s.twin.st = .paired && s.twin.role = 1

/-- Data of a range sent as DATA frames of 256 B; a sector that cannot be read travels as poisoned (DEDUCED). -/
def State.sendRange (s : State) (entry off len tag : Nat) : State :=
  let w := tget 0 s.twin.entry entry
  let k := s.twin.outKey 1
  (List.range (len / 256)).foldl (fun s i =>
    let (pois, data, s) := (List.range 4).foldl (fun (a : Nat × List Sector × State) j =>
      let (st, v, s) := State.agentRead a.2.2 {twin := true} (mirrorBase w + off + 256 * i + 64 * j) (bits w.toNat 6 1)
      let bad := st ≠ .ok || v.2
      (if bad then a.1 + 2 ^ j else a.1, a.2.1 ++ [if bad then 0 else v.1], s)) (0, [], s)
    (s.modTwin (fun t => {t with txSeq := tmod 0 t.txSeq k (· + 1)})).emit (.twinData entry (off / 256 + i) pois tag data)) s

/-- Whether a range lies in an enabled entry. -/
def Twin.inEntry (t : Twin) (entry off len : Nat) : Bool :=
  let w := tget 0 t.entry entry
  entry < 64 && bit w.toNat 0 && off % 256 = 0 && len % 256 = 0 && off + len ≤ mirrorSize w

/-- A request of 40 B for a push or a restore: STATE, BUSY or RANGE, or accepted. -/
def State.pushRequest (s : State) (restore : Bool) (req : List Byte) : Nat × State :=
  let f := fun (o n : Nat) => leNat ((req.drop o).take n)
  let p : Push := ⟨s.twin.tag, restore, f 0 8, f 8 8, f 16 8, f 32 2, BitVec.ofNat 64 (f 24 8), bit (f 34 1) 0, 0⟩
  if !s.leads then (7, s)
  else if 16 ≤ s.twin.push.length then (8, s)
  else if req.length ≠ 40 || !s.twin.inEntry p.entry p.off p.len then (6, s)
  else
    let s := s.modTwin (fun t => {t with push := t.push ++ [p], tag := (t.tag + 1) % 16384})
    (0, if restore then s.twinCtl 7 (leBytes 1 p.entry ++ leBytes 8 p.off ++ leBytes 8 p.len ++ leBytes 2 p.tag)
      else s.sendRange p.entry p.off p.len p.tag)

/-- PUSH. -/
def execPush (req : List Byte) (s : State) : Res := .next (odDone 0x3005 (s.pushRequest false req))
/-- RESTORE. -/
def execRestore (req : List Byte) (s : State) : Res := .next (odDone 0x3007 (s.pushRequest true req))

/-- The four sectors of a DATA frame written: poisoned ones with WRPOI, the others with WRI (R563). -/
def State.landFrame (s : State) (entry moff pois : Nat) (data : List Sector) : State :=
  let w := tget 0 s.twin.entry entry
  (List.range 4).foldl (fun s j =>
    (State.agentWrite s {twin := true} (if bit pois j then .wrpoi else .wri) (mirrorBase w + 256 * moff + 64 * j)
      (bits w.toNat 6 1) 0 (nth 0 data j)).2) s

/-- PUSHACK sent. -/
def State.pushAck (s : State) (tag st : Nat) : State :=
  let n := tget 0 s.twin.arriving tag
  (s.modTwin (fun t => { t with
    arriving := tdel t.arriving tag, landed := if st = 0 then t.landed + 1 else t.landed,
    lostTags := if st = 0 then t.lostTags else tag :: t.lostTags.filter (· ≠ tag) })).twinCtl 3
    (leBytes 2 tag ++ leBytes 1 st ++ leBytes 8 n)

/-- TWIN_DATA: a frame of a push, on the follower, or of a restore, on the leader. Which frame is a push's last is not in
the frame: the acknowledgement follows a frame freely chosen (log 32). -/
def execTwinData (entry : Fin 64) (moff : Half) (pois : BitVec 4) (tag : BitVec 14) (data : List Sector) (gap : Bool) (s : State) : Res :=
  let n := moff.toNat
  let g := tag.toNat
  .next (if s.twin.st ≠ .paired then s
    else match s.twin.push.find? (fun p => p.restore && p.tag = g) with
      | some p =>
        if gap then s.pushEnd p 2
        else if !s.twin.inEntry entry.val (256 * n) 256 then s
        else
          let s := s.landFrame entry.val n pois.toNat data
          let p' := {p with got := p.got + 256}
          let s := s.modTwin (fun t => {t with push := t.push.map (fun q => if q = p then p' else q)})
          if p.len ≤ p'.got then s.pushEnd p' 0 else s
      | none =>
        if gap then s.pushAck g 2
        else if s.twin.lostTags.contains g then s
        else if s.twin.role ≠ 2 then s.pushAck g 3
        else if !s.twin.inEntry entry.val (256 * n) 256 then s.pushAck g 1
        else
          let last := Config.byteChoice s.freeCtr 563
          let s := (s.bump.landFrame entry.val n pois.toNat data).modTwin (fun t => { t with
            arriving := tmod 0 t.arriving g (· + 256),
            units := tmod [] t.units entry.val (fun u => if u.contains n then u else u ++ [n]) })
          if last then s.pushAck g 0 else s)

/-- PUSHACK. -/
def execPushack (tag : BitVec 14) (st : Fin 4) (_bytes : Word) (tagOk : Bool) (seq : Nat) (s : State) : Res :=
  let (ok, s) := s.ctlTake tagOk seq
  .next (if !ok then s
    else match s.twin.push.find? (fun p => p.tag = tag.toNat) with
      | some p => s.pushEnd p st.val
      | none => s)

/-- RESTREQ: the follower sends its range back; otherwise it says why not. -/
def execRestreq (entry : Fin 64) (off len : Word) (tag : BitVec 14) (tagOk : Bool) (seq : Nat) (s : State) : Res :=
  let (ok, s) := s.ctlTake tagOk seq
  .next (if !ok then s
    else if s.twin.role ≠ 2 then s.pushAck tag.toNat 3
    else if !s.twin.inEntry entry.val off.toNat len.toNat then s.pushAck tag.toNat 1
    else s.sendRange entry.val off.toNat len.toNat tag.toNat)

/-- A journal record written: by a paired leader, as for a push (DEDUCED); the data of every earlier push has been sent. -/
def State.journalSend (s : State) (rec' : Sector) : Nat × State :=
  if s.leads then (0, s.twinCtl 4 (sectorBytes rec')) else (7, s)
/-- JOURNAL_WRITE. -/
def execJournalWrite (rec' : Sector) (s : State) : Res := .next (odDone 0x3006 (s.journalSend rec'))

/-- JOURNAL: the follower keeps the last 256 records. -/
def execJournal (rec' : Sector) (tagOk : Bool) (seq : Nat) (s : State) : Res :=
  let (ok, s) := s.ctlTake tagOk seq
  .next (if ok && s.twin.role = 2 then
      s.modTwin (fun t => {t with journal := (t.journal ++ [rec']).drop (t.journal.length + 1 - 256), journalN := t.journalN + 1})
    else s)

/-! ### Switchover and upgrade (R568, R570) -/

/-- Every enabled entry is synchronised on the follower, as this package knows it (R561). -/
def State.synced (s : State) : Bool :=
  let us := if s.twin.role = 2 then s.twin.units else s.twin.partUnits
  s.twin.entry.all (fun e => !bit e.2.toNat 0 || granules (tget [] us e.1) (entryGrans e.2) = entryGrans e.2)

/-- A leader hands over: every slice freezes; FAILOVER follows when it may. -/
def State.handOver (s : State) (cause : Nat) : State :=
  (s.freezeAll.modTwin (fun t => {t with switching := some cause, switchSent := false})).switchGo

/-- A write of OD 0x3001.02. How a follower's request reaches the leader is not given: it stands until FAILOVER comes
(log 33). -/
def State.switchRequest (s : State) (v : Nat) : Nat × State :=
  if v ≠ 1 then (6, s)
  else if s.twin.switching.isSome then (8, s)
  else if s.twin.st ≠ .paired || s.twin.role = 0 || !s.synced then (7, s)
  else (0, if s.twin.role = 1 then s.handOver 1 else s.modTwin (fun t => {t with switching := some 1, switchSent := true}))

/-- SWITCHOVER. -/
def execSwitchover (v : Byte) (s : State) : Res := .next (odDone 0x3001 (s.switchRequest v.toNat))

/-- MIRROR_REPAIR_UPGRADE: the leader re-pairs when both heartbeats show a common major above the session's. -/
def execMirrorRepairUpgrade (s : State) : Res :=
  .next (match s.twin.partHb, s.twin.partner with
    | some h, some m =>
      let now := commonMajor m.vmin.toNat m.vmax.toNat
      let may := commonMajor h.vmin.toNat h.vmax.toNat
      if s.leads && s.twin.newKeys.isEmpty && now.getD 0 < may.getD 0 then s.pairSend else s
    | _, _ => s)

/-- A class F fault: logged, the fault output asserted; on a leader that can still send, every slice freezes and FAILOVER
follows its tick (R547, R548, R564). -/
def State.classF (s : State) (die code d0 : Nat) : State :=
  let s := s.faultOn.logEvent 4 die code d0 0
  if s.leads && s.twin.switching ≠ some 2 then s.handOver 2 else s

end Sys2Proof.Machine
end

