-- ==== Sys2Proof/Machine/Avail.lean ====
section
/-! DEFINITION. Faults, watchdogs, domain resets, temperatures, rails and reset lands (R246, R247, R308, R316, R512, R513,
R547–R550, R579–R587). -/

namespace Sys2Proof.Machine

/-! ### Domain resets (R246, R247) -/

/-- A companion die's link modules wait to train, and its bungs release when they have (R246). -/
def State.linkIdle (s : State) (a : Nat) : State :=
  s.modLink a (fun l => {l with ident := none, recovering := true, mod := l.mod.map (fun m => (m.1, {m.2 with st := .idle}))})

/-- An endpoint domain enters reset behind its bungs. IOA takes its twin port down; MGD loses what its firmware held. -/
def State.domainReset (s : State) : Domain → State
  | .site x => s.siteDomainReset x
  | .cask k => s.caskReset k
  | .ep e =>
    let s := (((s.bungAll (.ep e)).nisDown (.ep e)).epReset e false false).linkIdle (16 + e.code)
    match e with | .ioa => s.twinDown | .iob => s
  | .mgd =>
    let s := ((s.bungAll .mgd).nisDown .mgd).linkIdle 18
    { s with book := {s.book with xfer := [], snap := [], kept := []},
             sec := {s.sec with chan := [], waiting := [], ready := []}, twin := {s.twin with fresh := none} }

/-- ENDPOINT_DOMAIN_RESET. -/
def execEndpointDomainReset (d : Domain) (s : State) : Res := .next (s.domainReset d)

/-- PARTITION_RESET: every bung engages first, and none releases before every domain is ready (R247). -/
def execPartitionReset (ds : List Domain) (s : State) : Res :=
  let s := ds.foldl State.bungAll s
  let s := s.modTrellis (fun t => {t with parts := t.parts ++ [ds.flatMap domainNis]})
  .next (ds.foldl State.domainReset s)

/-! ### Fences of companion dies, module failure (R308, R316) -/

/-- An endpoint fenced until the next bring-up: its link goes down; IOA's twin port stops. -/
def State.epFence (s : State) (e : Ep) (code : Nat) : State :=
  let s := (s.bungAll (.ep e)).nisDown (.ep e)
  let s := s.epChange e (fun s => (s.modEp e (fun h => {h with linkUp := false, started := false})).hostDrop e)
  let s := s.modLink (16 + e.code) (fun l => {l with fenced := true})
  let s := match e with | .ioa => s.twinDown | .iob => s
  (s.wear (dieEp e) 3).logEvent 3 (dieEp e) code e.code 0

/-- MGD's only module is lost: before the package is ready it stays not ready; in service it runs on without management,
the fault output asserted by the hub (R316, R471, R547, R587). -/
def State.mgdLoss (s : State) : State :=
  if s.boot.ready then
    ({s with avail := {s.avail with mgdLost := true}} : State).faultOn.logEvent 4 dieMgd 0x2822 0 0
  else {s with boot := {s.boot with cause := 3}, power := {s.power with fault := true}}

/-- MODULE_FAILURE: of a module in service. On a compute site the contexts of its two clusters are lost, the others are
saved, REMAP names the absent modules, and the site's domain is reset when they are (R308). -/
def execModuleFailure (a : LinkId) (m : Fin 8) (s : State) : Res :=
  let x := s.modOf a.val m.val
  .next (if linkModules a.val ≤ m.val || (s.linkOf a.val).fenced then s
    else
      let s := s.modMod a.val m.val (fun _ => x.gone)
      match linkDomain a.val with
      | .site x =>
        let s := s.wear (dieSite x.val) 3
        let s := (s.loadedOn x.val).foldl (fun s c =>
          match (s.ctxOf c).pos with
          | some p =>
            if p.val / 32 % 8 = m.val then s.ctxLose c .link
            else if (s.ctxOf c).saving.isNone then s.saveBegin p c (.preempt false) else s
          | none => s) s
        ((s.emit (.sideband a false 0x23 (s.absentMask x.val))).modLink x.val (fun l => {l with failing := true})).failureReset x
      | .ep e => if s.absentMask a.val = 2 ^ linkModules a.val - 1 then s.epFence e (0x2810 + a.val) else s.wear (dieEp e) 3
      | .mgd => s.mgdLoss
      | .cask _ => s)

/-! ### Processors (R550) -/

/-- HUB_CONTROLLER_WATCHDOG: the core is reset and reloaded; the third expiry in an hour retires it. -/
def execHubControllerWatchdog (field n : Fin 4) (s : State) : Res :=
  let i := 4 * field.val + n.val
  .next (if s.avail.hubRetired.contains i then s
    else
      let ts := s.now :: (tget [] s.avail.hubExp i).filter (fun t => decide (s.now < t + 3600 * 10 ^ 9))
      let s : State := {s with avail := {s.avail with hubExp := tput s.avail.hubExp i ts}}
      if 3 ≤ ts.length then
        ({s with avail := {s.avail with hubRetired := s.avail.hubRetired ++ [i]}} : State).logEvent 3 dieHub 0x3020 i 0
      else s)

/-- MGD_WATCHDOG: both application cores are reset; what the cellar master held is gone, and heartbeats stop until it
refreshes them again. -/
def execMgdWatchdog (s : State) : Res :=
  .next { s with book := {s.book with xfer := [], snap := [], kept := []}, twin := {s.twin with fresh := none} }

/-- CLASS_F_FAULT. -/
def execClassFFault (code : BitVec 16) (die : Byte) (s : State) : Res := .next (s.classF (die.toNat - 1) code.toNat 0)

/-! ### Power-on reset (R579, R580, R583, R584) -/

/-- Internal power-on reset. -/
def State.holdReset (s : State) : State :=
  let s := s.powerReset s.power.porLow
  {s with power := {s.power with held := true}}

/-- POR_N_ASSERT. -/
def execPorNAssert (s : State) : Res :=
  let h := s.power.held
  let s := s.powerReset true
  .next {s with power := {s.power with held := h}}

/-- SYSCLK_LOSS. -/
def execSysclkLoss (s : State) : Res := .next s.holdReset

/-- INTERNAL_RESET_RELEASE: a cold bring-up follows, unless POR_N is low. -/
def execInternalResetRelease (s : State) : Res :=
  .next (if s.power.held then
      let s : State := {s with power := {s.power with held := false}}
      if s.power.porLow then s else s.coldStart 1
    else s)

/-- MANAGEMENT_LINK_UP: the PHY is out of its reset. -/
def execManagementLinkUp (s : State) : Res :=
  .next (if s.power.phyRst then s else {s with book := {s.book with mgmtUp := true}})

/-! ### Rails (R512, R576, R579) -/

/-- What a rail out of range in two samples in a row does. -/
def State.railFault (s : State) (j : Nat) : State :=
  let site := fun (s : State) (x : Nat) =>
    let x : Site := ⟨x % 16, Nat.mod_lt _ (by decide)⟩
    if (s.gateOf x.val).powered then
      if s.isGraft x.val then s.graftFence x 18 else (s.siteFence x 0x2000).siteOff x
    else s
  let cask := fun (s : State) (k : Nat) =>
    let k : CaskId := ⟨k % 12, Nat.mod_lt _ (by decide)⟩
    if (s.caskOf k.val).fenced then s else s.caskFence k 0x2000
  if j < 16 then site s j
  else if j < 20 then ((List.range 16).filter (fun x => fieldOfSite x = j - 16)).foldl site s
  else if 26 ≤ j && j < 34 then ((List.range 12).filter (fun k => fieldOfCask k = (j - 26) % 4)).foldl cask s
  else if j = 34 || j = 35 then ((List.range 12).foldl cask s).classF dieHub 0x2000 j
  else if j = 36 || j = 37 || j = 38 then s.epFence .ioa 0x2000
  else if j = 39 || j = 40 then s.epFence .iob 0x2000
  else s.holdReset

/-- Rails that are judged: none while POR_N is low, MGD's alone while the recovery loader runs (R579). -/
def State.railJudged (s : State) (j : Nat) : Bool := !s.power.porLow && (!s.boot.recovery || 41 ≤ j)

/-- RAIL_SAMPLE: a sample above 3,630 W clamps; a rail out twice in a row has its result. -/
def execRailSample (r : RailSample) (s : State) : Res :=
  let s := if 36300 < r.power && !s.power.clamped then s.clamp else s
  let out := (r.out.map (·.val)).filter (fun j => s.railJudged j)
  let twice := out.filter (fun j => s.power.railOut.contains j)
  let s : State := {s with power := {s.power with railOut := out}}
  .next (twice.foldl State.railFault s)

/-! ### Temperatures (R513) -/

/-- The hub at its critical temperature: every site and cask domain is powered down behind its bungs. -/
def State.hubCritical (s : State) : State :=
  let s := (List.range 16).foldl (fun s x => s.siteOff ⟨x % 16, Nat.mod_lt _ (by decide)⟩) s
  let s := (List.range 12).foldl (fun s k => s.caskReset ⟨k % 12, Nat.mod_lt _ (by decide)⟩) s
  s.classF dieHub 0x2F01 0

/-- DIE_TEMPERATURE_SAMPLE: of the hub, IOA, IOB or MGD, in 0.1 °C. -/
def execDieTemperatureSample (die : Fin 32) (temp : Int) (s : State) : Res :=
  let i := die.val
  .next (if i < 28 then s
    else
      let s := s.modPow i (fun p => {p with temp := temp})
      if i = dieHub then
        let was := s.power.critical.contains i
        let clamp := 1050 ≤ temp || (s.power.hubClamp && 1020 ≤ temp)
        let s := if clamp && !s.power.hubClamp then s.clamp else s
        let s : State := {s with power := {s.power with hubClamp := clamp}}
        if 1100 ≤ temp then (if was then s else (s.dieCritical i).hubCritical) else s.dieCool i
      else if 1100 ≤ temp then
        if s.power.critical.contains i then s else (s.dieCritical i).logEvent 3 i 0x2F01 0 0
      else s.dieCool i)

/-- A die whose domain is powered down has left its critical temperature. -/
def State.dieOff (s : State) (i : Nat) : Bool :=
  if i < 16 then !(s.gateOf i).powered else if i < 28 then (s.caskOf (i - 16)).fenced else false

/-- OVERTEMP_HOLD_END: a second after every die left its critical temperature. -/
def execOvertempHoldEnd (s : State) : Res :=
  let crit := s.power.critical.filter (fun i => !s.dieOff i)
  .next {s with power := {s.power with critical := crit, overtemp := s.power.overtemp && !crit.isEmpty}}

end Sys2Proof.Machine
end

