-- ==== Sys2Proof/Machine/Bringup.lean ====
section
/-! DEFINITION. Bring-up (R458–R480, R551–R553, R585): the image and licence checks, the recovery loader, the cooper's
stages, the warm reset, firmware delivery, ROLEACK. -/

namespace Sys2Proof.Machine

def State.modBoot (s : State) (f : Bringup → Bringup) : State := {s with boot := f s.boot}

/-! ### Images and licences (R460, R461, R473, R474) -/

/-- The number in n bytes at offset o. -/
def numAt (l : List Byte) (o n : Nat) : Nat := leNat ((l.drop o).take n)
/-- Whether n bytes at offset o are 0. -/
def zeroAt (l : List Byte) (o n : Nat) : Bool := ((l.drop o).take n).all (· = 0)

/-- The fused key a public key is, unless revoked (R440). -/
def keyIndex (hash : Tab (BitVec 256)) (revoke : BitVec 4) (key : List Byte) : Option Nat :=
  (List.range 4).find? (fun i => !revoke.getLsbD i && tget 0 hash i = Config.sha256 key)

/-- Components of an image: identifier, bytes, and the hash the table gives; none where one lies outside the image. -/
def imgComponents (img : List Byte) : Option (List (Nat × List Byte × BitVec 256)) :=
  (List.range (min 8 (numAt img 0x0B 1))).mapM (fun i =>
    let o := 0x20 + 48 * i
    let off := numAt img (o + 4) 4
    let len := numAt img (o + 8) 4
    if off + len ≤ numAt img 0x10 4 then
      some (numAt img o 4, (img.drop off).take len, BitVec.ofNat 256 (numAt img (o + 16) 32))
    else none)

/-- The first failing check of an image, 0 when it passes (R461). -/
def State.imageStep (s : State) (img : List Byte) : Nat :=
  let n := numAt img 0x0B 1
  let len := numAt img 0x10 4
  let key := (img.drop 0x1A0).take 60
  if numAt img 0 8 ≠ 0x31474D494E55524A || numAt img 8 2 ≠ 1 || 0x600000 < len || img.length < len
      || !zeroAt img 0x0C 4 || !zeroAt img 0x14 12 || !zeroAt img 0x1DC 36 || !zeroAt img 0x1714 2284
      || !(List.range 8).all (fun i => if i < n then zeroAt img (0x20 + 48 * i + 12) 4 else zeroAt img (0x20 + 48 * i) 48) then 1
  else if (keyIndex s.fuses.fwHash s.fuses.fwRevoke key).isNone then 2
  else if !Config.lmsVerify key (img.take 0x200) ((img.drop 0x200).take 5396) then 3
  else if numAt img 0x0A 1 < s.fuses.sver then 4
  else match imgComponents img with
    | none => 5
    | some cs =>
      if !cs.all (fun c => Config.sha256 c.2.1 = c.2.2) then 5
      else if n ≠ 4 || !([1, 2, 3, 4].all (fun i => cs.any (fun c => c.1 = i))) then 6
      else 0

/-- An image runs: its version, key and hash are shown (R480). -/
def State.runImage (s : State) (img : List Byte) : State :=
  s.modBoot (fun b => { b with
    runSver := numAt img 0x0A 1, runKey := (keyIndex s.fuses.fwHash s.fuses.fwRevoke ((img.drop 0x1A0).take 60)).getD 0,
    runHash := Config.sha256 (img.take (numAt img 0x10 4)), imgDirty := false })

/-- The base ordering code in its 16 bytes (R2, R12). -/
def ordText : OrdCode → Nat
  | .p16 => 0x3637352D3631502D32333834414A
  | .p12g4 => 0x3637352D34473231502D32333834414A
  | .p08g8 => 0x3637352D38473830502D32333834414A

/-- The first failing check of a licence, 0 when it passes (R474). -/
def State.licenceStep (s : State) (l : List Byte) : Nat :=
  let key := (l.drop 0x80).take 60
  let feat := numAt l 0x38 8
  let n := numAt l 0x40 1
  if l.length ≠ 5588 || numAt l 0 8 ≠ 0x455655434E55524A || numAt l 8 2 ≠ 1 || !zeroAt l 0x0A 2
      || !zeroAt l 0x41 63 || !zeroAt l 0xBC 4 then 1
  else if (keyIndex s.fuses.licHash s.fuses.licRevoke key).isNone then 2
  else if !Config.lmsVerify key (l.take 0xC0) (l.drop 0xC0) then 3
  else if numAt l 0x10 16 ≠ s.fuses.serial.toNat then 4
  else if numAt l 0x20 16 ≠ ordText s.fuses.code then 5
  else if numAt l 0x0C 4 < s.boot.lseq then 6
  else if 128 ≤ feat || (bit feat 3 && s.fuses.code.graftSites.isEmpty) || (bit feat 4 && s.fuses.kit = 0) || n = 0 || 64 < n then 7
  else 0

/-- The licence that is in force from this bring-up on: the stored one, or cuvée code 0 (R474). -/
def State.licenceApply (s : State) : State :=
  let l := s.boot.nvLicence
  let r := s.licenceStep l
  if r = 0 then
    s.modBoot (fun b => { b with
      cuvee := BitVec.ofNat 64 (numAt l 0x30 8), feat := BitVec.ofNat 64 (numAt l 0x38 8), nslice := numAt l 0x40 1,
      licBoot := 0, licHash := Config.sha256 l, licNew := false })
  else s.modBoot (fun b => {b with cuvee := 0, feat := 0, nslice := 1, licBoot := r, licHash := 0, licNew := false})

/-! ### Power-on reset, watchdog, recovery (R462, R463, R465, R585) -/

/-- The sampled straps as `PKSTRAP` shows them (R586). -/
def strapWord (t : Straps) : Nat :=
  b2n (!t.recoveryN) + 2 * b2n t.epaDis + 4 * b2n t.epbDis + 8 * b2n t.epaX8 + 16 * b2n t.epbX8 + 32 * b2n t.epaSris
    + 64 * b2n t.epbSris + 128 * b2n t.twinDis + 256 * b2n t.phyad0 + 512 * b2n t.phyad1 + 1024 * b2n t.tmode0 + 2048 * b2n t.tmode1

/-- POWER_ON_RESET: the edge of the land; it changes nothing while the land is high already. -/
def execPowerOnReset (straps : Straps) (s : State) : Res :=
  .next (if !s.power.porLow then s
    else
      let h := s.power.held
      let s := s.powerReset false
      let s : State := {s with power := {s.power with held := h, strap := BitVec.ofNat 64 (strapWord straps)}}
      if h then s else s.coldStart 1)

/-- A bring-up is under way (R465). -/
def State.bringing (s : State) : Bool := s.boot.running && !s.boot.ready && !s.boot.recovery

/-- COOPER_WATCHDOG_EXPIRE. -/
def execCooperWatchdogExpire (s : State) : Res :=
  .next (if s.bringing then
      let n := s.boot.wdog + 1
      ((s.powerReset false).coldStart 1).modBoot (fun b => {b with wdog := n})
    else s)

/-- The recovery loader takes the cooper's place: the fault output, MGD alone powered, no endpoint started. -/
def State.recover (s : State) : State :=
  let s := s.modBoot (fun b => {b with recovery := true, ready := false, warm := false})
  let s := s.faultOn
  {s with ioa := {s.ioa with started := false}, iob := {s.iob with started := false}}

/-- Whether the recovery loader runs in place of the cooper (R462). -/
def State.mustRecover (s : State) : Bool := bit s.power.strap.toNat 0 || 3 ≤ s.boot.wdog || s.imageStep s.boot.nvImage ≠ 0

/-- Stage 2: the image is checked, and the cooper starts or the loader does. -/
def State.imageStage (s : State) : State :=
  if s.mustRecover then
    (s.modBoot (fun b => {b with cause := if s.imageStep b.nvImage ≠ 0 then 2 else b.cause})).recover
  else (s.runImage s.boot.nvImage).modBoot (fun b => {b with cooper := true})

/-- RECOVERY_ENTER: before the cooper starts, in the cases of R462. -/
def execRecoveryEnter (s : State) : Res :=
  .next (if s.bringing && !s.boot.cooper && s.mustRecover then s.imageStage else s)

/-- The loader has a whole image: discarded, or programmed, after which the package resets as at power-on. -/
def State.loaderTake (s : State) (img : List Byte) : State :=
  let r := s.imageStep img
  if r = 0 then ((s.modBoot (fun b => {b with nvImage := img})).powerReset false).coldStart 3
  else (s.modBoot (fun b => {b with img := .rejected, imgFail := r})).modObs (fun o => {o with jtag := {o.jtag with loader := 5, buf := []}})

/-- LOADER_IMAGE_DELIVERED. -/
def execLoaderImageDelivered (img : Image) (s : State) : Res :=
  .next (if s.boot.recovery then s.loaderTake img else s)

/-- The loader's buffer as n bytes; words never stored read as bytes the manual does not give (R543). -/
def State.loaderBytes (s : State) (n : Nat) : List Byte :=
  ((List.range ((n + 3) / 4)).flatMap (fun i =>
    match tfind s.obs.jtag.buf i with
    | some w => leBytes 4 w
    | none => (List.range 4).map (fun j => Config.freeByte s.freeCtr (4 * i + j)))).take n

/-- JTAG_LOADER_WORD: BYPASS unless the loader runs. A length beyond the image region ends delivery rejected by R461. -/
def execJtagLoaderWord (idx data : Half) (s : State) : Res :=
  .next (if !s.boot.recovery || jtagOp s.obs.jtag.ir.toNat ≠ 0x12 then s
    else if idx = 0xFFFFFFFF then s.bump.loaderTake (s.loaderBytes (min data.toNat 0x600001))
    else s.modObs (fun o => {o with jtag := {o.jtag with buf := tput o.jtag.buf idx.toNat data.toNat, loader := 1}}))

/-! ### The cooper's stages (R465–R473) -/

def State.siteIds : List Site := (List.range 16).map (fun x => ⟨x % 16, Nat.mod_lt _ (by decide)⟩)
def State.caskIds : List CaskId := (List.range 12).map (fun k => ⟨k % 12, Nat.mod_lt _ (by decide)⟩)
def allDomains : List Domain := State.siteIds.map Domain.site ++ State.caskIds.map Domain.cask ++ [.ep .ioa, .ep .iob, .mgd]

/-- Whether a site carries a die (R5, R437). -/
def State.hasDie (s : State) (x : Nat) : Bool := !s.isGraft x || s.populated x
/-- Whether a domain is fenced. -/
def State.domainFenced (s : State) : Domain → Bool
  | .site x => (s.linkOf x.val).fenced || !s.hasDie x.val
  | .cask k => (s.caskOf k.val).fenced
  | .ep e => (s.linkOf (16 + e.code)).fenced
  | .mgd => false

/-- Stage 4: the domains are powered; governors run at their cold budgets. -/
def State.powerStage (s : State) : State :=
  State.siteIds.foldl (fun s x =>
    if !s.hasDie x.val then s
    else
      let s := s.modGate x.val (fun g => {g with powered := true, st := if s.isGraft x.val then .admitting else .bambipin})
      s.modPow x.val (fun p => {p with reports := 0, budget := s.coldOf x.val})) s

/-- A cask's base die reports over its management port (R466, R13): its identity and version are its own. One that reports
another kind, or nothing, or another major, is fenced with its result. -/
def State.caskReport (s : State) (k : CaskId) : State :=
  let f := Config.freeNat s.freeCtr (0x1300 + k.val)
  let r := nth 0 [0, 2, 3, 4, 5, 6] (f % 6)
  let major := match r with | 5 => 2 + f / 6 % 254 | 6 => 0 | _ => 1
  let id := if r = 2 || r = 3 then 0 else 16 * major + 2 ^ 12 * min (f / 2 ^ 16 % 256) 2 + 2 ^ 20 * (f / 2 ^ 24 % 4096)
  let s := s.modBoot (fun b => {b with site := tput b.site (dieCask k.val) (r + id)})
  if r = 0 then s else s.caskFence k 0x2E01

/-- Stage 5: a site without a die is fenced, result 1 (R466); the casks report. -/
def State.discoverStage (s : State) : State :=
  let s := (State.caskIds.foldl State.caskReport s).bump
  State.siteIds.foldl (fun s x =>
    if s.hasDie x.val then s else (s.modLink x.val (fun l => {l with fenced := true})).siteResult x.val 1) s

/-- The minor version in force on a site's link (R469). -/
def State.minorOf (s : State) (x : Nat) : Nat := match (s.linkOf x).ident with | some i => min i.2.2.1 2 | none => 2

/-- Stage 8: CAPSET `pver` to the Bambipin dies in service (R469, R320); the licence. -/
def State.versionStage (s : State) (lic : Bool) : State :=
  let s := State.siteIds.foldl (fun s x =>
    if s.isGraft x.val || (s.linkOf x.val).fenced then s
    else s.emit (.sideband (linkId x.val) false 0x05 (2 + 2 ^ 16 * s.minorOf x.val))) s
  if lic then s.licenceApply else s

/-- Stage 7: the trellis links that fail acceptance are retired (R468). -/
def State.acceptStage (s : State) : State :=
  ((Config.meshTests s.freeCtr).foldl (fun s l => if l.1 < 192 && l.2.1 < 4 && l.2.2 < 4 then s.linkRetire l.1 l.2.1 l.2.2 else s) s).bump

/-- The self-test of every core of the Bambipin dies in service: one that fails is retired (R55, R470, R478). -/
def State.coreTestStage (s : State) : State :=
  (Config.coreTests s.freeCtr).foldl (fun s k =>
    let x := k / 272
    if 16 ≤ x || s.isGraft x || (s.linkOf x).fenced || (s.clusterOf x (k % 272 / 17)).isRetired (k % 17) then s
    else s.retireSubst x (k % 272 / 17) (k % 17)) s

/-- The cask array test: a failing row is repaired or its frame retired, a failing lane replaced by a stave (R470). -/
def State.arrayTestStage (s : State) : State :=
  let eyes := Config.trainEyes s.freeCtr
  let s := (Config.rowTests s.freeCtr).foldl (fun s r =>
    if 12 ≤ r.1 || (s.caskOf r.1).fenced || spareEnd ≤ r.2 then s else s.rowRepair r.1 (placeOf r.2)) s
  (eyes.foldl State.eyeTrain s).bump

/-- Graft admission without the licence's feature: fenced untried, result 9 (R475). -/
def State.graftStage (s : State) : State :=
  if s.boot.feat.getLsbD 3 then s
  else State.siteIds.foldl (fun s x =>
    if s.isGraft x.val && s.populated x.val then (s.graftFence x 0).siteResult x.val 9 else s) s

/-- A cask filled with the marker and its usable range zeroed under slot 0, on spare frames where frames are retired
(R198, R203, R452). -/
def Cask.scrubbed (c : Cask) : Cask :=
  { c with mem := [], poisBase := false, health := [], ktag := [], filled := true,
           poisFlip := c.remap.flatMap (fun r => (List.range 1024).map (fun i => 1024 * r.2 + i)) }

/-- Stage 10. -/
def State.scrubStage (s : State) : State :=
  State.caskIds.foldl (fun s k =>
    if (s.caskOf k.val).fenced then s else (s.modCask k.val Cask.scrubbed).nisReady (.cask k)) s

/-- Wear levels again from the service records and what is fenced or absent (R546). -/
def State.wearAll (s : State) : State :=
  let s := State.caskIds.foldl (fun s k =>
    let s := s.caskJudge k.val
    if (s.caskOf k.val).fenced then s.wear (dieCask k.val) 3 else s) s
  State.siteIds.foldl (fun s x =>
    if !s.hasDie x.val then s
    else
      let s := if (s.linkOf x.val).fenced || s.absentMask x.val ≠ 0 then s.wear (dieSite x.val) 3 else s
      if s.isGraft x.val then s else (s.dieOf x.val).cluster.foldl (fun s c => s.spareWear x.val c.1) s) s

/-- The NIs of the hub's own blocks: controller cores, services, tasters (R219). -/
def hubNis : List Nat :=
  (List.range 16).map niHubctl ++ (List.range 16).map (fun i => niService (i / 4) (i % 4)) ++ (List.range 192).map niTaster

/-- Stage 12: casks are in service, results are noted, bungs release (R244). -/
def State.tableStage (s : State) : State :=
  let s := State.caskIds.foldl (fun s k =>
    if (s.caskOf k.val).fenced then
      if tget 0 s.boot.site (dieCask k.val) % 16 = 0 then s.siteResult (dieCask k.val) 7 else s
    else s.modCask k.val (fun c => {c with inService := true})) s
  let s := hubNis.foldl State.bungRelease s.wearAll
  (allDomains.filter (fun d => !s.domainFenced d)).foldl State.bungFree s

/-- The counts that run from ready are cleared (R205, R250, R315, R382, R414, R435). -/
def LinkDir.sinceReady (d : LinkDir) : LinkDir := {d with odCorr := 0, odUnc := 0}
def State.sinceReady (s : State) : State :=
  { s with
    cask := s.cask.map (fun c => (c.1, {c.2 with corr := 0, unc := 0})),
    trellis := {s.trellis with routeDisc := 0, h0Disc := 0, hbadFwd := 0, hCorr := 0, patMis := 0, timeouts := 0, rspDisc := 0},
    link := s.link.map (fun l => (l.1, {l.2 with mod := l.2.mod.map (fun m =>
      (m.1, {m.2 with rx := m.2.rx.sinceReady, tx := m.2.tx.sinceReady}))})),
    hub := { s.hub with
      lost := 0, recWritten := 0, folds := 0, suppressed := 0, fatals := 0, invs := 0, walksN := 0, xDisc := 0,
      freezes := 0, images := 0, uncorks := 0, stale := 0, sDisc := 0 } }

/-- The package is declared ready (R465, R478): `gen`, vector 0, counters since ready, pairing (R505, R447). -/
def State.declareReady (s : State) : State :=
  let now := s.now
  let s := s.modBoot (fun b => { b with
    ready := true, warm := false, cooper := true, stage := 13, gen := b.gen + 1, toReady := now - b.startAt, wdog := 0, cause := 0 })
  let s : State := { s with
    sec := {s.sec with sticky := 0}, book := {s.book with done := 0}, power := {s.power with clamps := 0} }
  let s := (s.sinceReady.modTwin (fun t => {t with missed := 0})).raiseStatus
  if !s.twinEnabled then s.modTwin (fun t => {t with st := .disabled})
  else if s.twin.st = .paired then s
  else (s.modTwin (fun t => {t with st := .down})).pairStart

/-- What the cooper does at the end of a stage. -/
def State.stageDone (s : State) (eyes : List Eye) : Nat → State
  | 1 => {s with power := {s.power with phyRst := false}}
  | 2 => s.imageStage
  | 3 => {s with ioa := {s.ioa with started := true}, iob := {s.iob with started := true}}
  | 4 => s.powerStage
  | 5 => s.discoverStage
  | 6 => eyes.foldl State.eyeTrain s
  | 7 => s.acceptStage
  | 8 => s.versionStage true
  | 9 => s.coreTestStage.arrayTestStage.graftStage
  | 10 => s.scrubStage
  | 12 => s.tableStage
  | _ => s

/-- The causes that keep the package from being ready, by the stage that finds them (R471). -/
def stageCause : Nat → Nat
  | 1 => 1
  | 4 => 4
  | 5 | 6 | 7 => 3
  | _ => 0

/-- COOPER_STAGE_DONE: the stage ends and the next is entered. A failure that R471 does not list changes nothing here: it
fences its part only. -/
def execCooperStageDone (r : StageOut) (s : State) : Res :=
  let n := s.boot.stage
  .next (if !s.bringing || s.boot.warm || s.boot.cause ≠ 0 || n = 0 || 13 < n then s
    else match r with
      | .ok eyes =>
        if n = 13 then s.declareReady
        else
          let s := s.stageDone eyes n
          if n = 2 && s.boot.recovery then s else s.modBoot (fun b => {b with stage := n + 1})
      | .failed c =>
        if c ≠ 0 && c = stageCause n then (s.modBoot (fun b => {b with cause := c, cooper := true})).faultOn else s)

/-! ### Warm reset (R477–R479, R569) -/

/-- The warm reset begins: `warm`, vector 0, every bung. -/
def State.warmStart (s : State) : State :=
  let s := s.modBoot (fun b => {b with warm := true, ready := false, kind := 2, startAt := s.now, warmHeld := false})
  allDomains.foldl State.bungAll ((s.raiseStatus.hostDrop .ioa).hostDrop .iob)

/-- A warm-reset request: ignored unless ready, held while an image is programmed; a paired leader whose entries are all
synchronised hands over first. -/
def State.warmRequest (s : State) : State :=
  if !s.boot.ready then s
  else if s.boot.img = .programming || s.boot.img = .busy then s.modBoot (fun b => {b with warmHeld := true})
  else if s.leads && s.twin.bothAfo && s.synced then
    if s.twin.switching.isSome then s.modBoot (fun b => {b with warmHeld := true})
    else (s.modBoot (fun b => {b with warmHeld := true})).handOver 3
  else s.warmStart

/-- WARM_RESET_REQUEST. -/
def execWarmResetRequest (_e : Ep) (s : State) : Res := .next s.warmRequest

/-- ROLEACK: an old leader that was told so becomes follower; a warm reset that waited for it proceeds. -/
def execRoleack (role : Fin 3) (tagOk : Bool) (seq : Nat) (s : State) : Res :=
  let (ok, s) := s.ctlTake tagOk seq
  .next (match s.twin.switching with
    | none => s
    | some _ =>
      if ok && s.twin.switchSent && role.val = 1 && s.twin.role = 1 then
        let s := (s.modTwin (fun t => {t with switching := none, switchSent := false, lease := 0})).setRole 2
        if s.boot.warmHeld then s.warmRequest else s
      else s)

/-- The package with everything reset that a warm reset does not keep (R477, R478). -/
def State.warmClear (s : State) : State :=
  let rest := s.book.restore
  let t := (s.pushesLost).twin
  let b := s.boot
  { pending := s.pending, out := s.pushesLost.out, freeCtr := s.freeCtr, fuses := s.fuses,
    die := s.die.map (fun d => (d.1, d.2.lasting)), cask := s.cask.map (fun c => (c.1, c.2.lasting)),
    trellis := s.trellis.lasting, link := s.link.map (fun l => (l.1, l.2.lasting)), gate := s.gate.map (fun g => (g.1, g.2.lasting)),
    ioa := {s.ioa with mbox := {}, outq := []}, iob := {s.iob with mbox := {}, outq := []},
    sec := {s.sec with chan := [], waiting := [], ready := [], slot := [], disc := 0, pairFail := 0, ctlDrop := 0},
    boot := { running := b.running, warm := b.warm, gen := b.gen, kind := b.kind, startAt := b.startAt, cooper := true, stage := 2,
              nvImage := b.nvImage, nvLicence := b.nvLicence, cert := b.cert, lseq := b.lseq, coreRec := b.coreRec,
              imgDirty := b.imgDirty, runSver := b.runSver, runKey := b.runKey, runHash := b.runHash, site := b.site,
              cuvee := b.cuvee, feat := b.feat, nslice := b.nslice, licBoot := b.licBoot, licHash := b.licHash, licNew := b.licNew },
    book := {s.book.lasting with mgmtUp := s.book.mgmtUp, cable := s.book.cable},
    power := { s.power.lasting rest with
               porLow := s.power.porLow, strap := s.power.strap, phyRst := s.power.phyRst,
               critical := s.power.critical, overtemp := s.power.overtemp, held := s.power.held },
    time := if rest then {s.time with domain := 0, holdLimit := 1000} else s.time,
    twin := { t with
              entry := [], units := [], partUnits := [], switching := none, switchSent := false, journal := [], journalN := 0,
              arriving := [], lostTags := [], lastPush := (0, 0), lastRest := (0, 0), pushes := 0, hbState := 1,
              afo := t.afo || rest, vecA := if rest then 0 else t.vecA, vecB := if rest then 0 else t.vecB },
    obs := {jtag := {ir := s.obs.jtag.ir}},
    avail := {delivRetired := s.avail.delivRetired, mgdLost := s.avail.mgdLost, blocks := [], blockN := 0} }

/-- Every module of a die trained again from its stored configuration; one without stays absent (R478). -/
def State.relink (s : State) (a : Nat) : State :=
  (List.range (linkModules a)).foldl (fun s m => s.modMod a m (fun y => {y with st := if y.rx.spd = 0 then .absent else .up})) s

/-- A site comes back over its stored configuration, unless the last bring-up fenced it (R478). -/
def State.warmSite (s : State) (x : Site) : State :=
  let r := tget 0 s.boot.site x.val % 16
  if !s.hasDie x.val || r ≠ 0 then s.modLink x.val (fun l => {l with fenced := true})
  else
    let s := s.relink x.val
    let s := s.modGate x.val (fun g => {g with powered := true, st := if s.isGraft x.val then .admitting else .bambipin})
    let s := s.modPow x.val (fun p => {p with budget := s.coldOf x.val})
    if s.isGraft x.val then s else s.nisReady (.site x)

/-- The companion dies' links come back. -/
def State.warmEp (s : State) (a : Nat) (d : Domain) : State := (s.relink a).nisReady d

/-- What a warm reset leaves, the companion dies that are fenced noted (R477). -/
def State.warmLeft (s : State) : State :=
  ((List.range 19).foldl (fun s a => if 16 ≤ a && (s.linkOf a).fenced then s.siteResult (linkDie a) 7 else s) s).warmClear

/-- A die whose IDENT is not the one of the last bring-up is fenced (R466, R478). -/
def State.warmIdents (s : State) : State :=
  (Config.identTests s.freeCtr).foldl (fun s x =>
    if 16 ≤ x || s.isGraft x || (s.linkOf x).fenced then s else s.rejectDie x 4) s

/-- The stages a warm reset runs through before the package is ready, casks of the list fenced as before (R478). -/
def State.warmBuild (s : State) (fencedK : List Nat) (eyes : List Eye) : State :=
  let s := if s.boot.imgDirty then s.runImage s.boot.nvImage else s
  let s := fencedK.foldl (fun s k => s.modCask k (fun c => {c with fenced := true})) s
  let s := eyes.foldl State.eyeTrain (State.siteIds.foldl State.warmSite s).warmIdents
  let s := ((s.warmEp 16 (.ep .ioa)).warmEp 17 (.ep .iob)).warmEp 18 .mgd
  let s := s.versionStage s.boot.licNew
  s.scrubStage.coreTestStage.graftStage.tableStage

/-- WARM_RESET: the whole fast path, for a request that stands; a changed image that fails its check leaves the package to
the recovery loader (DEDUCED). -/
def State.warmPath (s : State) (eyes : List Eye) : State :=
  let fencedK := (State.caskIds.filter (fun k => (s.caskOf k.val).fenced)).map (·.val)
  let s := s.warmLeft
  if s.boot.imgDirty && s.imageStep s.boot.nvImage ≠ 0 then (s.modBoot (fun b => {b with cause := 2, cooper := false})).recover
  else (s.warmBuild fencedK eyes).declareReady

/-- WARM_RESET: the eyes its training measures are free. -/
def execWarmReset (s : State) : Res :=
  let s := if s.boot.ready then s.warmRequest else s
  .next (if s.boot.warm then s.bump.warmPath (Config.trainEyes s.freeCtr) else s)

/-! ### Image and licence writes (R464, R476) -/

/-- IMAGE_WRITE: verified in the staging buffer; then the region is erased and programming starts. A second write while
one is in progress is refused and the status reads busy. -/
def State.imageTake (s : State) (img : List Byte) : Nat × State :=
  if s.boot.img = .programming || s.boot.img = .busy then (8, s.modBoot (fun b => {b with img := .busy}))
  else
    let r := s.imageStep img
    if r = 0 then (0, s.modBoot (fun b => {b with img := .programming, imgFail := 0, staged := img, nvImage := []}))
    else (0, s.modBoot (fun b => {b with img := .rejected, imgFail := r}))
def execImageWrite (img : Image) (s : State) : Res := .next (if s.boot.ready then odDone 0x2E02 (s.imageTake img) else s)

/-- IMAGE_PROGRAM_DONE: the region read back passes or fails; what it then holds is free. A held warm reset proceeds. -/
def execImageProgramDone (ok : Bool) (s : State) : Res :=
  .next (if s.boot.img ≠ .programming && s.boot.img ≠ .busy then s
    else
      let s := if ok then s.modBoot (fun b => {b with img := .done, imgFail := 0, nvImage := b.staged, staged := [], imgDirty := true})
        else
          let bad := s.freeBytes s.boot.staged.length
          s.bump.modBoot (fun b => {b with
            img := .rejected, imgFail := 1 + Config.freeNat s.freeCtr 461 % 6, nvImage := bad, staged := [], imgDirty := true})
      if s.boot.warmHeld && s.boot.ready then s.warmRequest else s)

/-- LICENCE_WRITE. -/
def State.licenceTake (s : State) (l : List Byte) : Nat × State :=
  let r := s.licenceStep l
  (0, if r = 0 then s.modBoot (fun b => {b with nvLicence := l, lseq := max b.lseq (numAt l 0x0C 4), licSt := 1, licFail := 0, licNew := true})
    else s.modBoot (fun b => {b with licSt := 2, licFail := r}))
def execLicenceWrite (lic : List Byte) (s : State) : Res := .next (if s.boot.ready then odDone 0x2E03 (s.licenceTake lic) else s)

/-! ### Firmware delivery (R551–R553) -/

/-- Cores of the Bambipin dies in service, spares first, by 272 × site + 17 × cluster + physical index. -/
def State.fwCores (s : State) : List Nat :=
  ((List.range 16).filter (fun x => !s.isGraft x && !(s.linkOf x).fenced)).flatMap (fun x =>
    (List.range 16).flatMap (fun cl => (16 :: List.range 16).map (fun p => 272 * x + 17 * cl + p)))

/-- FIRMWARE_BROADCAST: the manifest's hash goes twice to each die, then every block to every site; the cores' bitmaps. -/
def execFirmwareBroadcast (manifest : List Byte) (got : List (Nat × BitVec 128)) (s : State) : Res :=
  let dies := (List.range 16).filter (fun x => !s.isGraft x && !(s.linkOf x).fenced)
  .next (if s.boot.ready || !s.boot.running then s
    else
      let s := dies.foldl (fun s x => (s.emit (.event 20 [x])).emit (.event 20 [x])) s
      {s with avail := { s.avail with
        manifest := dies.map (fun x => (x, Config.sha256 manifest)), blockN := numAt manifest 0 4, rounds := 0,
        blocks := got.foldl (fun t p => tput t p.1 p.2) [] }})

/-- A core retired for failed delivery; the spare takes its position when its own image is whole (R553). -/
def State.fwRetire (s : State) (k : Nat) : State :=
  let s := s.retireSubst (k / 272) (k % 272 / 17) (k % 17)
  {s with avail := {s.avail with delivRetired := (s.avail.delivRetired + 1) % 2 ^ 32}}

/-- FIRMWARE_RESEND_ROUND: every missing block by unicast, then the bitmaps again; the third round retires. -/
def execFirmwareResendRound (got : List (Nat × BitVec 128)) (s : State) : Res :=
  .next (if s.boot.ready || !s.boot.running || 3 ≤ s.avail.rounds then s
    else
      let s := (s.fwCores.filter s.fwLacks).foldl (fun s k => s.emit (.firmware k (~~~(tget 0 s.avail.blocks k) &&& BitVec.ofNat 128 (2 ^ s.avail.blockN - 1)))) s
      let s : State := {s with avail := { s.avail with
        rounds := s.avail.rounds + 1, blocks := got.foldl (fun t p => tmod 0 t p.1 (· ||| p.2)) s.avail.blocks }}
      if s.avail.rounds = 3 then (s.fwCores.filter s.fwLacks).foldl State.fwRetire s else s)

end Sys2Proof.Machine
end

