-- ==== Sys2Proof/Machine/Dict.lean ====
section
/-! DEFINITION. The object dictionary of the cellar book: which entries there are, their attributes and values (R481–R505
and the entry tables of the other chapters). Values the manual leaves open are free (logs 34, 35). -/

namespace Sys2Proof.Machine

/-- An entry's attributes and value (R483, R484): type code, size, access 0 RO, 1 RW, 2 WO, 3 RWL, persistence 0
volatile, 1 persistent, 2 fused, 3 service record; a default the manual states; the value. -/
structure Ent where
  ty : Nat
  size : Nat
  acc : Nat := 0
  pers : Nat := 0
  dflt : Option Nat := none
  val : List Byte := []
  deriving DecidableEq, Repr

/-- UNSIGNED8, 16, 32, 64 (R483). -/
def tyU : Nat → Nat | 1 => 6 | 2 => 7 | 4 => 8 | _ => 9
/-- A read-only number of n bytes. -/
def entRo (n v : Nat) : Ent := {ty := tyU n, size := n, val := leBytes n v}
/-- A count that runs from ready: 0 after a cold bring-up. -/
def entCount (n v : Nat) : Ent := {entRo n v with dflt := some 0}
/-- A number that is written and read. -/
def entRw (n v pers : Nat) (d : Option Nat) : Ent := {ty := tyU n, size := n, acc := 1, pers := pers, dflt := d, val := leBytes n v}
/-- A write-only number. -/
def entWo (n : Nat) : Ent := {ty := tyU n, size := n, acc := 2}
/-- Octet strings. -/
def entOct (l : List Byte) : Ent := {ty := 13, size := l.length, val := l}
def entOctRw (l : List Byte) : Ent := {entOct l with acc := 1}
def entOctWo (n : Nat) : Ent := {ty := 13, size := n, acc := 2}
/-- A REAL32 by its code. -/
def entReal (code : Nat) : Ent := {ty := 10, size := 4, val := leBytes 4 code}

/-- ± n / d as FP32. -/
def realQ (neg : Bool) (n d : Nat) : Nat := if n = 0 then 0 else (fp32.narrowQ .rne false neg n d 0).1
/-- The mean of powers in 0.1 W, in W. -/
def realMean (l : List Nat) : Nat := realQ false (l.foldl (· + ·) 0) (10 * max 1 l.length)

/-! ### Structure (R481, R482) -/

/-- What an index holds: nothing, a single value, or a record with its highest subindex. -/
inductive OdShape where
  | none
  | single
  | record (hi : Nat)
  deriving DecidableEq, Repr

/-- The index's shape; a graft site has no core-spare record (R503) and no operator counters. -/
def State.odShape (s : State) (i : Nat) : OdShape :=
  if 0x2310 ≤ i && i ≤ 0x231F then if s.isGraft (i - 0x2310) then .none else .record 0x15
  else if 0x2400 ≤ i && i ≤ 0x2406 then .record 12
  else if 0x2600 ≤ i && i ≤ 0x2603 then .record 12
  else if 0x2810 ≤ i && i ≤ 0x2822 then .record (0x20 + linkModules (i - 0x2810))
  else if 0x2900 ≤ i && i ≤ 0x290F then .record 0x10
  else if 0x2D10 ≤ i && i ≤ 0x2D12 then .record 3
  else if 0x2D20 ≤ i && i ≤ 0x2D22 then .record 64
  else if 0x3110 ≤ i && i ≤ 0x3112 then .record 192
  else if 0x3120 ≤ i && i ≤ 0x3122 then .record 4
  else match i with
  | 0x1000 => .record 5 | 0x1100 => .record 6 | 0x1F00 => .record 6 | 0x1F01 => .single
  | 0x2000 => .record 44 | 0x2001 => .record 44 | 0x2002 => .record 44
  | 0x2010 => .record 32 | 0x2011 => .record 2 | 0x2012 => .record 32
  | 0x2020 => .record 4 | 0x2021 => .record 2 | 0x2022 => .record 2 | 0x2100 => .record 2
  | 0x2500 => .record 8 | 0x2700 => .record 1 | 0x2701 => .record 12 | 0x2702 => .single
  | 0x2A00 => .record 4 | 0x2B00 => .record 7 | 0x2C00 => .record 5
  | 0x2D00 => .record 6 | 0x2D01 => .single | 0x2D02 => .single | 0x2D30 => .record 2
  | 0x2E00 => .record 7 | 0x2E01 => .record 31 | 0x2E02 => .record 5 | 0x2E03 => .record 7
  | 0x2F00 => .record 3 | 0x2F01 => .record 31 | 0x2F10 => .record 7
  | 0x3000 => .record 8 | 0x3001 => .record 2 | 0x3002 => .record 3 | 0x3003 => .record 64 | 0x3004 => .record 64
  | 0x3005 => .record 3 | 0x3006 => .record 3 | 0x3007 => .record 2 | 0x3008 => .record 1
  | 0x3010 => .record 31 | 0x3011 => .single | 0x3012 => .record 2 | 0x3020 => .record 2
  | 0x3100 => .record 2 | 0x3130 => .record 16 | 0x3131 => .record 16 | 0x3140 => .record 4 | 0x3150 => .record 2
  | _ => .none

/-! ### Values -/

/-- Identity and the management port (R496, R497). -/
def State.odIdentity (s : State) (sub : Nat) : Option Ent :=
  match sub with
  | 1 => some {ty := 12, size := 16, pers := 2, val := leBytes 16 (ordText s.fuses.code)}
  | 2 => some {entOct (leBytes 16 s.fuses.serial.toNat) with pers := 2}
  | 3 => some {entRo 8 s.fuses.kit.toNat with pers := 2}
  | 4 => some (entRo 8 s.boot.cuvee.toNat)
  | 5 => some {entRo 2 (subsystemId s.fuses.code) with pers := 2}
  | _ => none

def State.odPort (s : State) (sub : Nat) : Option Ent :=
  let a := s.book.addrNew.getD (s.book.ip, s.book.plen, s.book.gateway)
  match sub with
  | 1 => some {entOct (2 :: (List.range 5).map (fun i => BitVec.ofNat 8 (s.fuses.serial.toNat >>> (8 * (4 - i))))) with pers := 2}
  | 2 => some (entRw 4 a.1.toNat 1 (some 0))
  | 3 => some (entRw 1 a.2.1.toNat 1 (some 24))
  | 4 => some (entRw 4 a.2.2.toNat 1 (some 0))
  | 5 => some {entRo 2 5757 with dflt := some 5757}
  | 6 => some (entCount 1 (b2n s.book.mgmtUp))
  | _ => none

/-- The book's own entries (R498). -/
def State.odBook (s : State) (sub : Nat) : Option Ent :=
  match sub with
  | 1 => some (entCount 8 s.book.done) | 2 => some (entRo 8 s.book.notOk) | 3 => some (entRo 8 s.book.repeated)
  | 4 => some (entRo 8 s.book.rwlDisc) | 5 => some (entRo 8 s.book.goDisc) | 6 => some (entRo 8 s.book.dgDisc)
  | _ => none

/-- A die that is fenced or unpowered, by code − 1 (R500). -/
def State.dieDark (s : State) (i : Nat) : Bool :=
  s.dieOff i || (i < 16 && (s.linkOf i).fenced) || (i = 28 && (s.linkOf 16).fenced) || (i = 29 && (s.linkOf 17).fenced)

/-- Measurements (R499–R501): index within 0x20xx. -/
def State.odMeasure (s : State) (i sub : Nat) : Option Ent :=
  let e : Ep := if sub % 2 = 1 then .ioa else .iob
  match i with
  | 0x2000 => some (entRo 4 (tget 0 s.book.railV (sub - 1)))
  | 0x2001 => some (entRo 4 (tget 0 s.book.railI (sub - 1)))
  | 0x2002 => some (entRo 4 ((tget [] s.book.railMax (sub - 1)).foldl max 0))
  | 0x2010 => some (entReal (if s.dieDark (sub - 1) then 0 else realMean (s.powOf (sub - 1)).hist))
  | 0x2011 => some (entReal (if sub = 1 then realMean s.power.hist else realQ false 3300 1))
  | 0x2012 =>
    let t := (s.powOf (sub - 1)).temp
    some (entReal (if s.dieDark (sub - 1) then fp32.cnan else realQ (decide (t < 0)) t.natAbs 10))
  | 0x2020 =>
    let v := Config.freeNat s.freeCtr (0x2020 + sub)
    some (if sub ≤ 2 then entReal (v % 2 ^ 32) else entRo 2 (v % 2 ^ 16))
  | 0x2021 =>
    let rt := if s.twin.st = .paired then s.book.cable else 0
    some (if sub = 1 then entRo 4 rt
      else entReal (if s.twin.st = .paired then realQ (decide (rt < 612)) (105 * ((rt - 612) + (612 - rt))) 1000 else 0))
  | 0x2022 =>
    let h := s.epOf e
    some (entRo 4 (h.maxPayload % 8 + 8 * (h.maxRead % 8) + 128 * b2n h.bme + 256 * b2n h.msixEn + 512 * b2n h.pasidEn))
  | 0x2100 => if sub = 1 then some {ty := 1, size := 1, acc := 1, pers := 1, dflt := some 1, val := leBytes 1 (b2n s.book.autoSpare)}
    else some (entRw 1 s.book.testPeriod 1 (some 24))
  | _ => none

/-- Core spares of a Bambipin site (R503). -/
def State.odSpares (s : State) (x sub : Nat) : Option Ent :=
  let cs := (List.range 16).map (s.clusterOf x)
  if sub ≤ 16 then some (entRo 4 (s.clusterOf x (sub - 1)).reg)
  else match sub with
  | 0x11 => some (entRo 1 (cs.filter (·.spareFree)).length)
  | 0x12 => some (entRo 1 (cs.filter (·.posLost)).length)
  | 0x13 => some (entWo 2)
  | 0x14 => some (entCount 1 (s.dieOf x).substRes)
  | 0x15 => some (entCount 8 (s.dieOf x).clmapDisc)
  | _ => none

/-- Casks and their home agents (R205, R258), regulators and trellis (R250, R291). -/
def State.odHub (s : State) (i sub : Nat) : Option Ent :=
  let c := s.caskOf (sub - 1)
  let t := s.trellis
  match i with
  | 0x2400 => some (entCount 8 c.corr)
  | 0x2401 => some (entCount 8 c.unc)
  | 0x2402 => some {entRo 4 c.rowsLeft with pers := 3}
  | 0x2403 => some {entRo 4 (c.sparesLeft + 2 ^ 31 * b2n c.worn) with pers := 3}
  | 0x2404 => some (entRo 4 ((c.pc.foldl (fun n p => n + p.2.dqStaves) 0) % 2 ^ 16
      + 2 ^ 16 * (c.pc.filter (fun p => p.2.caStave)).length + 2 ^ 31 * b2n c.fenced))
  | 0x2405 => some (entRo 8 c.redirects)
  | 0x2406 => some (entRo 8 c.refusedN)
  | 0x2600 => some (entRo 8 c.dirCorr)
  | 0x2601 => some (entRo 8 c.linesPois)
  | 0x2602 => some (entRo 8 c.waysFreed)
  | 0x2603 => some (entRo 8 c.snpOdd)
  | 0x2500 => (match sub with
    | 1 => some (entCount 8 t.routeDisc) | 2 => some (entCount 8 t.h0Disc) | 3 => some (entCount 8 t.hbadFwd)
    | 4 => some (entCount 8 t.hCorr) | 5 => some (entCount 8 t.patMis) | 6 => some (entCount 8 t.timeouts)
    | 7 => some (entCount 8 t.rspDisc)
    | _ => some {entRo 4 t.retired.length with pers := 3})
  | 0x2700 => some (entRo 8 t.regDisc)
  | 0x2701 => some (entRo 8 (c.ovr.foldl (fun n o => n + o.2.toNat) 0))
  | 0x2702 => some (entRo 4 t.obsMax)
  | _ => none

/-- `DLCFG` of a direction (R314). -/
def LinkDir.cfg (d : LinkDir) : Nat :=
  d.spd.val + 8 * b2n d.half + 16 * b2n d.hsel + 32 * b2n d.carry + 64 * b2n d.base + 2 ^ 8 * d.stvuse.toNat + 2 ^ 12 * d.stvlane.toNat
/-- `DLERR` of a direction (R314). -/
def LinkDir.errs (d : LinkDir) : Nat :=
  d.corr.toNat + 2 ^ 16 * d.unc.toNat + 2 ^ 32 * d.lost.toNat + 2 ^ 48 * d.ecorr.toNat + 2 ^ 56 * d.unk.toNat
/-- Highest baseline lane count of a direction (R315). -/
def LinkDir.topBase (d : LinkDir) : Nat := (d.baseln.getD []).foldl (fun n l => max n l.2) 0

/-- The die links (R315). -/
def State.odLink (s : State) (a sub : Nat) : Option Ent :=
  let m := (sub - 1) % 8
  let x := s.modOf a m
  if linkModules a ≤ m then none
  else match (sub - 1) / 8 with
  | 0 => some (entRo 8 x.rx.cfg)
  | 1 => some (entCount 8 (x.rx.odCorr + x.tx.odCorr))
  | 2 => some (entCount 8 (x.rx.odUnc + x.tx.odUnc))
  | 3 => some {entRo 4 (max x.rx.topBase x.tx.topBase) with pers := 3}
  | 4 => some (entReal (realQ false (16 * (x.rx.lastHour + x.tx.lastHour)) 1))
  | _ => none

/-- Graft sites (R338). -/
def State.odGraft (s : State) (x sub : Nat) : Option Ent :=
  let g := s.gateOf x
  let v := tget 0 s.boot.site x
  match sub with
  | 1 => some (entRo 1 (s.graftStatus x).code)
  | 2 => some (entRo 1 g.cause)
  | 3 => some (entRo 4 (bits (g.word 0) 47 16))
  | 4 => some (entRo 4 (bits v 11 4 + 2 ^ 8 * bits v 19 12 + 2 ^ 16 * bits v 31 20))
  | 0xC => some {entRo 8 g.odVio with pers := 3}
  | 0xD => some {entRo 8 g.odOvd with pers := 3}
  | 0xE => some (entRo 8 g.odDisc)
  | 0xF => some {entRo 4 g.odAdm with pers := 3}
  | 0x10 => some (entWo 1)
  | n => some (entRo 8 (g.word (n - 5)))

/-- Contexts, translation, slices (R382, R414, R435). -/
def State.odMachinery (s : State) (i sub : Nat) : Option Ent :=
  let h := s.hub
  let l : List Nat := match i with
    | 0x2A00 => [h.lost, h.sigReserved, h.sigDisc, h.cmdDisc]
    | 0x2B00 => [h.recWritten, h.folds, h.suppressed, h.fatals, h.invs, h.walksN, h.xDisc]
    | 0x2C00 => [h.freezes, h.images, h.uncorks, h.stale, h.sDisc]
    | _ => []
  some (if i = 0x2A00 && sub ≠ 1 then entRo 8 (nth 0 l (sub - 1)) else entCount 8 (nth 0 l (sub - 1)))

/-- The device certificate as manufactured: serial, kit, base ordering code (R12), the device's key and Stollidan's
signature (R442). -/
def State.certificate (s : State) : List Byte :=
  leBytes 8 0x545245434E55524A ++ leBytes 2 1 ++ leBytes 6 0 ++ leBytes 16 s.fuses.serial.toNat ++ leBytes 8 s.fuses.kit.toNat
    ++ leBytes 16 (ordText s.fuses.code) ++ fit 0 60 s.boot.cert ++ leBytes 12 0 ++ fit 0 5396 (s.boot.cert.drop 60)

/-- Security (R441–R457). -/
def State.odSecurity (s : State) (i sub : Nat) : Option Ent :=
  let c := s.sec
  let k := s.slotOf (sub - 1)
  match i with
  | 0x2D00 => (match sub with
    | 1 => some (entRo 8 c.disc) | 2 => some (entRo 4 c.left) | 3 => some (entRo 4 c.signed)
    | 4 => some {entRo 1 s.fuses.sver with pers := 2} | 5 => some (entRo 1 s.boot.runKey)
    | _ => some (entRo 1 (b2n c.lowIdx + 2 * c.sticky.toNat)))
  | 0x2D01 => some (entOct s.certificate)
  | 0x2D02 => some (entWo 4)
  | 0x2D10 => some (entOctWo 40)
  | 0x2D11 => some (entOct (fit 0 5652 (c.chanOf sub).report))
  | 0x2D12 => some (entCount 1 (c.chanOf sub).status)
  | 0x2D20 => some (entRw 8 (k.state.toNat + 4 * b2n k.pend + 8 * k.sweep.toNat) 0 (some 0))
  | 0x2D21 => some (entWo 4)
  | 0x2D22 => some (entCount 8 k.refusedN)
  | 0x2D30 => if sub = 1 then some (entRo 4 c.pairFail) else some (entRo 8 c.ctlDrop)
  | _ => none

/-- Bring-up (R480). -/
def State.odBringup (s : State) (i sub : Nat) : Option Ent :=
  let b := s.boot
  match i, sub with
  | 0x2E00, 1 => some (entRo 1 b.stage) | 0x2E00, 2 => some (entRo 8 b.toReady) | 0x2E00, 3 => some (entRo 1 b.cause)
  | 0x2E00, 4 => some (entRo 1 b.kind) | 0x2E00, 5 => some (entWo 1) | 0x2E00, 6 => some (entRo 1 b.wdog)
  | 0x2E00, _ => some (entRo 2 0x0102)
  | 0x2E01, _ => some (entRo 4 (tget 0 b.site (sub - 1)))
  | 0x2E02, 1 => some (entRo 1 b.runSver) | 0x2E02, 2 => some (entRo 1 b.runKey)
  | 0x2E02, 3 => some (entOct (hashBytes b.runHash)) | 0x2E02, 4 => some (entOctWo 6291456)
  | 0x2E02, _ => some (entCount 1 (b.img.code + 16 * b.imgFail))
  | 0x2E03, 1 => some (entOctWo 5588) | 0x2E03, 2 => some (entCount 1 (b.licSt + 16 * b.licFail))
  | 0x2E03, 3 => some (entRo 8 b.cuvee.toNat) | 0x2E03, 4 => some (entRo 8 b.feat.toNat) | 0x2E03, 5 => some (entRo 1 b.nslice)
  | 0x2E03, 6 => some (entRo 1 b.licBoot) | 0x2E03, _ => some {entRo 4 b.lseq with pers := 3}
  | _, _ => none

/-- Power, timebase and PTP (R514, R520). -/
def State.odPower (s : State) (i sub : Nat) : Option Ent :=
  let p := s.powOf (sub - 1)
  let t := s.time
  match i, sub with
  | 0x2F00, 1 => some (entRw 2 s.power.cap 1 (some 3300))
  | 0x2F00, 2 => some (entReal (realQ (decide (s.power.pool < 0)) s.power.pool.natAbs 10))
  | 0x2F00, _ => some (entCount 4 s.power.clamps)
  | 0x2F01, _ => some (entRo 4 (if s.governed (sub - 1) && sub ≤ 16 then
      p.budget % 2 ^ 16 + 2 ^ 16 * b2n (decide (p.reports < 10000)) + 2 ^ 17 * b2n p.pressing + 2 ^ 18 * b2n p.trip + 2 ^ 19 * p.events
    else 2 ^ 19 * p.events))
  | 0x2F10, 1 => some (entRw 1 t.domain.toNat 1 (some 0))
  | 0x2F10, 2 => some (entRw 4 t.holdLimit 1 (some 1000))
  | 0x2F10, 3 => some (entRo 1 t.port)
  | 0x2F10, 4 => some (entOct (leBytes 8 t.gm.toNat))
  | 0x2F10, 5 => some {entRo 8 t.delay.toNat with ty := 5}
  | 0x2F10, 6 => some {entRo 2 t.utc.toNat with ty := 3}
  | 0x2F10, _ => some (entRo 8 t.lockAt.toNat)
  | _, _ => none

/-- The minor of a mirror protocol version: not given (log 35). -/
def mirrorMinor : Nat := Config.freeNat 0 0x3000 % 256
/-- Last push or restore ended, with those outstanding (R572). -/
def State.odPushes (s : State) (restore : Bool) : Nat :=
  let l := if restore then s.twin.lastRest else s.twin.lastPush
  l.1 % 2 ^ 14 + 2 ^ 16 * (l.2 % 16) + 2 ^ 20 * (s.twin.push.filter (fun p => p.restore = restore)).length

/-- The event log as a ring of 256 records (R549). -/
def State.logRing (s : State) : List Byte :=
  let a := s.avail
  let first := a.logN - a.log.length
  (List.range 256).flatMap (fun i =>
    let j := (i + 256 * a.logN - first) % 256
    fit 0 32 (wordsBytes ((nth [] a.log j).map BitVec.toNat)))

/-- Twin and availability (R505, R561–R572). -/
def State.odTwin (s : State) (i sub : Nat) : Option Ent :=
  let t := s.twin
  match i, sub with
  | 0x3000, 1 => some (entRo 1 t.st.code)
  | 0x3000, 2 => some (entOct (leBytes 16 (match t.st, t.partner with | .paired, some p => p.serial.toNat | _, _ => 0)))
  | 0x3000, 3 => some (entRo 1 t.role)
  | 0x3000, 4 => some (entRo 2 (256 * mirrorMax + mirrorMinor))
  | 0x3000, 5 => some (entRo 2 t.partVer.toNat)
  | 0x3000, 6 => some (entRo 8 t.pairedAt.toNat)
  | 0x3000, 7 => some (entCount 8 t.missed)
  | 0x3000, _ => some {entRo 4 t.failovers with pers := 3}
  | 0x3001, 1 => some {ty := 1, size := 1, acc := 1, pers := 1, dflt := some 1, val := leBytes 1 (b2n t.afo)}
  | 0x3001, _ => some (entWo 1)
  | 0x3002, 1 => some (entRo 1 t.lease)
  | 0x3002, 2 => some (entRw 2 t.vecA 1 none)
  | 0x3002, _ => some (entRw 2 t.vecB 1 none)
  | 0x3003, _ => some (entRw 8 (tget 0 t.entry (sub - 1)).toNat 0 none)
  | 0x3004, _ => some (entRo 4 (granules (tget [] (if t.role = 2 then t.units else t.partUnits) (sub - 1))
      (entryGrans (tget 0 t.entry (sub - 1)))))
  | 0x3005, 1 => some (entOctWo 40)
  | 0x3005, 2 => some (entRo 4 (s.odPushes false))
  | 0x3005, _ => some (entRo 8 t.pushes)
  | 0x3006, 1 => some (entOctWo 64)
  | 0x3006, 2 => some (entOct (fit 0 16384 (t.journal.flatMap sectorBytes)))
  | 0x3006, _ => some (entRo 8 t.journalN)
  | 0x3007, 1 => some (entOctWo 40)
  | 0x3007, _ => some (entRo 4 (s.odPushes true))
  | 0x3008, _ => some (entRo 2 (match t.st, t.partner with
      | .paired, some p => (match commonMajor p.vmin.toNat p.vmax.toNat with | some v => 256 * v + mirrorMinor | none => 0)
      | _, _ => 0))
  | 0x3010, _ => some (entRo 1 (tget 0 s.avail.wear (sub - 1)))
  | 0x3011, _ => some (entRo 1 s.packWear)
  | 0x3012, 1 => some (entRo 4 s.avail.rounds)
  | 0x3012, _ => some (entRo 4 s.avail.delivRetired)
  | 0x3020, 1 => some (entOct s.logRing)
  | 0x3020, _ => some (entRo 8 s.avail.logN)
  | _, _ => none

/-- `SKCFG`, `SKFULL` (R534); `HLTSM` (R538). -/
def Sink.cfg (k : Sink) : Nat := b2n k.sen + 2 * b2n k.wrap + 256 * k.lgsz.toNat
def Sink.full (k : Sink) : Nat := k.nfull % 2 ^ 32 + 2 ^ 32 * (k.nrej % 2 ^ 32)
def HaltRec.sm (r : HaltRec) : Nat := r.smear % 128 + 128 * b2n r.unl
/-- `TCNT` (R529). -/
def Taster.cnt (t : Taster) : Nat := t.nent.toNat + 2 ^ 32 * t.ndrop.toNat

/-- Observation and debug (R544). -/
def State.odObserve (s : State) (i sub : Nat) : Option Ent :=
  let o := s.obs
  let t := s.tasterOf (sub - 1)
  let k := s.sinkOf (sub - 1)
  let cores := List.range 256
  match i, sub with
  | 0x3100, 1 => some (entRw 1 o.en.toNat 0 (some 0))
  | 0x3100, _ => some (entRo 8 o.enAt.toNat)
  | 0x3110, _ => some (entRw 8 t.ctl.toNat 0 (some 0))
  | 0x3111, _ => some (entOctRw (wordsBytes ((List.range 16).map (fun w => (tget 0 t.filt w).toNat))))
  | 0x3112, _ => some (entRo 8 t.cnt)
  | 0x3120, _ => some (entOctRw (wordsBytes [64 * k.base.toNat, k.cfg]))
  | 0x3121, _ => some (entOct (wordsBytes [k.nrec, k.full]))
  | 0x3122, _ => some {ty := 13, size := 2 ^ k.lgsz.toNat}
  | 0x3130, _ => if s.isGraft (sub - 1) then none
    else some (entOctRw (wordsBytes (cores.map (fun c => ((s.dieOf (sub - 1)).coreOf c).ocsel.toNat))))
  | 0x3131, _ => if s.isGraft (sub - 1) then none
    else some (entOct (wordsBytes (cores.flatMap (fun c =>
      (List.range 8).map (fun j => (tget 0 ((s.dieOf (sub - 1)).coreOf c).wornCounts j).toNat)))))
  | 0x3140, 1 => some (entRw 2 o.smask.toNat 0 none)
  | 0x3140, 2 => some (entWo 1)
  | 0x3140, 3 => some (entOct (wordsBytes ((List.range 16).flatMap (fun x =>
      let r := tget ({} : HaltRec) o.rec' x
      [r.tstop.toNat, r.tres.toNat, r.sm, 0]))))
  | 0x3140, _ => some (entRo 4 o.ignored)
  | 0x3150, 1 => some (entOct ((List.range 4096).flatMap (fun n => fit 0 32 (wordsBytes ((tget [] o.xlog n).map BitVec.toNat)))))
  | 0x3150, _ => some (entRo 4 o.xlptr)
  | _, _ => none

/-- The value of an index at a subindex its shape has. -/
def State.odValue (s : State) (i sub : Nat) : Option Ent :=
  match i / 256 with
  | 0x10 => s.odIdentity sub
  | 0x11 => s.odPort sub
  | 0x1F => if i = 0x1F01 then some (entWo 1) else s.odBook sub
  | 0x20 | 0x21 => s.odMeasure i sub
  | 0x23 => s.odSpares (i - 0x2310) sub
  | 0x24 | 0x25 | 0x26 | 0x27 => s.odHub i sub
  | 0x28 => s.odLink (i - 0x2810) sub
  | 0x29 => s.odGraft (i - 0x2900) sub
  | 0x2A | 0x2B | 0x2C => s.odMachinery i sub
  | 0x2D => s.odSecurity i sub
  | 0x2E => s.odBringup i sub
  | 0x2F => s.odPower i sub
  | 0x30 => s.odTwin i sub
  | 0x31 => s.odObserve i sub
  | _ => none

/-- What a lookup finds: no such index, no such subindex, or the entry (R481, R482). -/
inductive Found where
  | noEnt
  | noSub
  | ent (e : Ent)
  deriving DecidableEq, Repr

def State.odFind (s : State) (i sub : Nat) : Found :=
  match s.odShape i with
  | .none => if 0x2310 ≤ i && i ≤ 0x231F then .noSub else .noEnt
  | .single => if sub = 0 then (match s.odValue i 0 with | some e => .ent e | none => .noSub) else .noSub
  | .record hi =>
    if sub = 0 then .ent {entRo 1 hi with dflt := some hi}
    else if hi < sub then .noSub
    else match s.odValue i sub with | some e => .ent e | none => .noSub

/-- The indices that are present, ascending, with their highest subindex (R488). -/
def State.odList (s : State) (first : Nat) : List (Nat × Nat) :=
  ((List.range (0x3151 - 0x1000)).map (0x1000 + ·)).filterMap (fun i =>
    if i < first then none
    else match s.odShape i with | .none => none | .single => some (i, 0) | .record hi => some (i, hi))

/-- The default an entry reports: the one stated, else free bytes (log 35). -/
def Ent.default (e : Ent) (i sub : Nat) : List Byte :=
  match e.dflt with
  | some v => leBytes e.size v
  | none => (List.range e.size).map (fun b => Config.freeByte 0 (2 ^ 32 * i + 2 ^ 16 * sub + b))

end Sys2Proof.Machine
end

