-- ==== Sys2Proof/Machine/CellarBook.lean ====
section
/-! DEFINITION. The cellar book as it serves requests: writes of every entry, READ, WRITE, DESC, LIST, the mailbox
(R484–R498, R504, R599). -/

namespace Sys2Proof.Machine

/-! ### Writes of entries -/

/-- A value for a condition, or RANGE (R491, R599). -/
def odSet (ok : Bool) (f : State → State) (s : State) : Nat × State := if ok then (0, f s) else (6, s)

/-- A management address entry as written, not yet in force (R497). -/
def State.addrWrite (s : State) (sub v : Nat) : Nat × State :=
  let a := s.book.addrNew.getD (s.book.ip, s.book.plen, s.book.gateway)
  let put := fun (a : Half × Byte × Half) => ({s with book := {s.book with addrNew := some a}} : State)
  match sub with
  | 2 => (0, put (BitVec.ofNat 32 v, a.2.1, a.2.2))
  | 3 => if 8 ≤ v && v ≤ 30 then (0, put (a.1, BitVec.ofNat 8 v, a.2.2)) else (6, s)
  | _ => (0, put (a.1, a.2.1, BitVec.ofNat 32 v))

/-- OD 0x1F01.00. -/
def State.restoreWrite (s : State) (v : Nat) : Nat × State :=
  odSet (v = 1) (fun s => {s with book := {s.book with restore := true}}) s

/-- OD 0x231s.13 (R503, R504): BUSY also while the cluster's own substitution, a test's among them, is in progress (R60). -/
def State.substWrite (s : State) (x v : Nat) : Nat × State :=
  if bits v 15 8 ≠ 0 then (6, s)
  else if (s.dieOf x).substRes = 1 || (s.dieOf x).substRes = 2 || (s.clusterOf x (bits v 7 4)).subst ≠ .idle then (8, s)
  else (0, s.substStart x (bits v 7 4) ⟨v % 16, Nat.mod_lt _ (by decide)⟩)

/-- OD 0x2E00.05 (R480): a warm reset, or in recovery a cold one. -/
def State.resetWrite (s : State) (v : Nat) : Nat × State :=
  odSet (v = 1) (fun s => if s.boot.recovery then (s.powerReset false).coldStart 3 else s.warmRequest) s

/-- OD 0x29ss.10: a site that is not fenced ends with STATE (R336, R338). -/
def State.readmitWrite (s : State) (x v : Nat) : Nat × State :=
  if v ≠ 1 then (6, s)
  else if s.graftStatus x ≠ .fenced then (7, s)
  else (0, s.graftReadmit ⟨x % 16, Nat.mod_lt _ (by decide)⟩)

/-- OD 0x3140: `smask` while no site is halted (R538), halt and resume. -/
def State.haltWrite (s : State) (sub v : Nat) : Nat × State :=
  match sub with
  | 1 => if s.obs.halted ≠ 0 then (7, s) else (0, s.modObs (fun o => {o with smask := BitVec.ofNat 16 v}))
  | _ => if v = 1 then (0, s.haltTrigger) else if v = 2 then (0, s.haltResume) else (6, s)

/-- Filters 0–3 of a taster: words 0–2 of each (R530, R544). -/
def Taster.filters (t : Taster) (d : List Byte) : Taster :=
  { t with filt := (List.range 16).foldl (fun f w =>
      let v := numAt d (8 * w) 8
      match w % 4 with
      | 0 => tput f w (BitVec.ofNat 64 (bits v 55 0))
      | 3 => f
      | _ => tput f w (BitVec.ofNat 64 (bits v 41 0))) t.filt }

/-- `OCSEL` of every core of a site (R527, R544). -/
def State.ocselWrite (s : State) (x : Nat) (d : List Byte) : State :=
  (List.range 256).foldl (fun (s : State) c => s.modCore (256 * x + c) (fun k => {k with ocsel := BitVec.ofNat 64 (numAt d (8 * c) 8)})) s.octSettle

/-- A value written whole to an entry that may be written: its status and effect. -/
def State.odWrite (s : State) (i sub : Nat) (d : List Byte) : Nat × State :=
  let v := leNat d
  let book := fun (f : Book → Book) (s : State) => ({s with book := f s.book} : State)
  if 0x2310 ≤ i && i ≤ 0x231F then s.substWrite (i - 0x2310) v
  else if 0x2900 ≤ i && i ≤ 0x290F then s.readmitWrite (i - 0x2900) v
  else match i, sub with
  | 0x1100, _ => s.addrWrite sub v
  | 0x1F01, _ => s.restoreWrite v
  | 0x2100, 1 => odSet (v ≤ 1) (book (fun b => {b with autoSpare := v = 1})) s
  | 0x2100, _ => odSet (1 ≤ v && v ≤ 24) (book (fun b => {b with testPeriod := v})) s
  | 0x2D02, _ => (0, s.versionCommit v)
  | 0x2D10, _ => (0, s.attestRequest sub d)
  | 0x2D20, _ => (0, s.keyWrite (sub - 1) v)
  | 0x2D21, _ => (0, s.keySub (sub - 1) v)
  | 0x2E00, _ => s.resetWrite v
  | 0x2E02, _ => if s.boot.recovery then (0, s.loaderTake d) else s.imageTake d
  | 0x2E03, _ => s.licenceTake d
  | 0x2F00, _ => odSet (1500 ≤ v && v ≤ 3300) (fun s => {s with power := {s.power with cap := v}}) s
  | 0x2F10, 1 => (0, s.ptpDomain (BitVec.ofNat 8 v))
  | 0x2F10, _ => odSet (v ≤ 86400) (fun s => s.modTime (fun t => {t with holdLimit := v})) s
  | 0x3001, 1 => odSet (v ≤ 1) (fun s => s.modTwin (fun t => {t with afo := v = 1})) s
  | 0x3001, _ => s.switchRequest v
  | 0x3002, 2 => odSet (v = 0 || (2 ≤ v && v ≤ 2047)) (fun s => s.modTwin (fun t => {t with vecA := v})) s
  | 0x3002, _ => odSet (v = 0 || (2 ≤ v && v ≤ 2047)) (fun s => s.modTwin (fun t => {t with vecB := v})) s
  | 0x3003, _ => s.mirrorWrite (sub - 1) v
  | 0x3005, _ => s.pushRequest false d
  | 0x3006, _ => s.journalSend (BitVec.ofNat 512 v)
  | 0x3007, _ => s.pushRequest true d
  | 0x3100, _ => s.obsEnable v
  | 0x3110, _ => s.tasterWrite (sub - 1) v
  | 0x3111, _ => (0, s.modObs (fun o => {o with taster := tmod {} o.taster (sub - 1) (·.filters d)}))
  | 0x3120, _ => (0, s.sinkWrite (sub - 1) (numAt d 0 8) (numAt d 8 8))
  | 0x3130, _ => (0, s.ocselWrite (sub - 1) d)
  | 0x3140, _ => s.haltWrite sub v
  | _, _ => (0, s)

/-- RESTORE_DEFAULTS. -/
def execRestoreDefaults (v : Byte) (s : State) : Res := .next (odDone 0x1F01 (s.restoreWrite v.toNat))

/-- SUBSTITUTION_REQUEST: absent at a graft site. -/
def execSubstitutionRequest (x : Site) (v : BitVec 16) (s : State) : Res :=
  .next (odDone (0x2310 + x.val) (if s.isGraft x.val then (3, s) else s.substWrite x.val v.toNat))

/-! ### Channels (R486, R490, R492) -/

def chanNet : CbChan → Bool | .net _ _ => true | .mbox _ => false
/-- The segment limit (R489). -/
def chanLimit (ch : CbChan) : Nat := if chanNet ch then 1024 else 16384

/-- MGMT_ADDRESS_APPLY: transfers and snapshots of the network are discarded (R497). -/
def execMgmtAddressApply (s : State) : Res :=
  .next (match s.book.addrNew with
    | none => s
    | some a => { s with book := { s.book with
        ip := a.1, plen := a.2.1, gateway := a.2.2, addrNew := none,
        xfer := s.book.xfer.filter (fun x => !chanNet x.chan), snap := s.book.snap.filter (fun x => !chanNet x.chan) } })

/-- TRANSFER_EXPIRE. -/
def execTransferExpire (index : BitVec 16) (sub : Byte) (s : State) : Res :=
  .next {s with book := {s.book with xfer := s.book.xfer.filter (fun x => !(x.index = index.toNat && x.sub = sub.toNat))}}

/-- What a request comes to: status, `total`, data. -/
structure Answer where
  st : Nat
  total : Nat
  data : List Byte := []

/-- A `total` the manual does not give: in an error's answer, and in that of a LIST. -/
def State.noTotal (s : State) : Nat := Config.freeNat s.freeCtr 487 % 2 ^ 32

/-- The 24 B header of a response (R487). -/
def respHeader (op : Nat) (r : CbReq) (a : Answer) : List Byte :=
  leBytes 2 0x4243 ++ leBytes 1 1 ++ leBytes 1 (op + 128) ++ leBytes 4 r.txid.toNat ++ leBytes 2 r.index.toNat ++ leBytes 1 r.sub.toNat
    ++ leBytes 1 a.st ++ leBytes 4 r.offset.toNat ++ leBytes 4 a.data.length ++ leBytes 4 a.total

/-- A response in the mailbox: `busy` clears, `done` is set, vector 1 (R494, R495). -/
def State.mboxAnswer (s : State) (e : Ep) (op : Nat) (r : CbReq) (a : Answer) : State :=
  let s := s.modEp e (fun h => { h with mbox := { h.mbox with
    busy := false, done := true, rsp := h.mbox.rsp.writeBytes 0 (respHeader op r a ++ a.data) } })
  if (s.epOf e).mbox.irqen then s.msixTrigger e 1 else s

/-- A response: sent, kept for the network, counted (R491, R492, R498). The recovery loader only sends it. -/
def State.bookAnswer (s : State) (ch : CbChan) (op : Nat) (r : CbReq) (a : Answer) : State :=
  let s := s.emit (.book ch op r.txid.toNat r.index.toNat r.sub.toNat a.st r.offset.toNat a.total a.data)
  let k : Kept := ⟨ch, r.txid, op, r.index.toNat, r.sub.toNat, r.offset.toNat, a.st, a.data, a.total, s.now⟩
  let s : State := {s with book := { s.book with
    done := if a.st = 0 && s.boot.ready then s.book.done + 1 else s.book.done,
    notOk := if a.st = 0 then s.book.notOk else s.book.notOk + 1,
    kept := if chanNet ch then (k :: s.book.kept).take 64 else s.book.kept }}
  match ch with
  | .mbox e => s.mboxAnswer e op r a
  | .net _ _ => s

/-- A datagram that is discarded (R492): no whole header, a wrong `magic`, or a `length` that disagrees with its size. -/
def cbMalformed (r : CbReq) (wr : Bool) : Bool :=
  r.dlen < 24 || r.magic ≠ 0x4243 || r.dlen ≠ 24 + (if wr then r.length.toNat else 0)

/-- A kept response that a request matches (R492). -/
def State.keptFor (s : State) (ch : CbChan) (r : CbReq) : Option Kept :=
  s.book.kept.find? (fun k => k.chan = ch && k.txid = r.txid && s.now < k.at' + 2000000000)

/-- Whether anyone serves the book (R463, R472): the cooper or cellar master over a working link to MGD, or the recovery loader. -/
def State.bookServed (s : State) : Bool := s.boot.running && ((s.boot.cooper && !s.avail.mgdLost) || s.boot.recovery)

/-- What the cooper or the recovery loader refuses (R463, R472). -/
def State.notReady (s : State) (op i sub : Nat) : Bool :=
  if s.boot.recovery then
    !((op = 1 && (i = 0x1000 || i = 0x2E00 || i = 0x2E02)) || (op = 2 && ((i = 0x2E02 && sub = 4) || (i = 0x2E00 && sub = 5))))
  else !s.boot.ready && !((op = 1 || op = 3) && (i = 0x1000 || (0x2E00 ≤ i && i ≤ 0x2E03)))

/-- A request taken, performed and answered. A mailbox request is performed while its mailbox is busy. -/
def State.bookTake (s : State) (ch : CbChan) (op : Nat) (r : CbReq) (f : State → Answer × State) : State :=
  let open' := fun (s : State) =>
    let (a, s') := if r.ver ≠ 1 || (op = 2 && chanLimit ch < r.length.toNat) then (({st := 1, total := s.noTotal} : Answer), s)
      else if s.notReady op r.index.toNat r.sub.toNat then ({st := 11, total := s.noTotal}, s)
      else f s
    let s' := s'.bump
    if s.boot.recovery then s'.emit (.book ch op r.txid.toNat r.index.toNat r.sub.toNat a.st r.offset.toNat a.total a.data)
    else s'.bookAnswer ch op r a
  match ch with
  | .mbox e => if (s.epOf e).mbox.busy then open' s else s
  | .net _ _ =>
    if !s.bookServed then s
    else if cbMalformed r (op = 2) then {s with book := {s.book with dgDisc := s.book.dgDisc + 1}}
    else match s.keptFor ch r with
      | some k => ({s with book := {s.book with repeated := s.book.repeated + 1}} : State).emit
          (.book ch k.op k.txid.toNat k.index k.sub k.status k.offset k.total k.data)
      | none => open' s

/-! ### READ (R488, R490) -/

/-- Bytes of a sink's ring, read live (R544). -/
def State.ringBytes (s : State) (i off n : Nat) : List Byte × State :=
  let (st, p, bs, s) := s.agentBytes {} 0 (64 * (s.sinkOf i).base.toNat + off) n
  if st = .ok && !p then (bs, s) else (s.freeBytes n, s)

/-- A snapshot kept: one per mailbox, 16 on the network. -/
def keepSnap (l : List Snapshot) (x : Snapshot) : List Snapshot :=
  let l := x :: l.filter (fun y => y.chan ≠ x.chan)
  l.filter (fun y => !chanNet y.chan) ++ (l.filter (fun y => chanNet y.chan)).take 16

def State.bookRead (s : State) (ch : CbChan) (r : CbReq) : Answer × State :=
  let i := r.index.toNat
  let sub := r.sub.toNat
  let off := r.offset.toNat
  let n := if r.length = 0 then chanLimit ch else min r.length.toNat (chanLimit ch)
  let s := if i = 0x3131 then s.octSettle else s
  match s.odFind i sub with
  | .noEnt => ({st := 2, total := s.noTotal}, s)
  | .noSub => ({st := 3, total := s.noTotal}, s)
  | .ent e =>
    if e.acc = 2 then ({st := 4, total := s.noTotal}, s)
    else if e.size ≤ off then ({st := 6, total := e.size}, s)
    else if i = 0x3122 && sub ≠ 0 then
      let (bs, s) := s.ringBytes (sub - 1) off (min n (e.size - off))
      ({st := 0, total := e.size, data := bs}, s)
    else if off = 0 then
      ({st := 0, total := e.size, data := e.val.take n},
        ({s with book := {s.book with snap := keepSnap s.book.snap ⟨ch, i, sub, e.val, s.now⟩}} : State))
    else match s.book.snap.find? (fun x => x.chan = ch && x.index = i && x.sub = sub && s.now < x.at' + 1000000000) with
      | some x => ({st := 0, total := e.size, data := (x.data.drop off).take n}, s)
      | none => ({st := 10, total := s.noTotal}, s)

/-- READ. -/
def execRead (ch : CbChan) (r : CbReq) (s : State) : Res := .next (s.bookTake ch 1 r (fun s => s.bookRead ch r))

/-! ### WRITE (R489) -/

/-- A segment of a value larger than the limit. -/
def State.segTake (s : State) (ch : CbChan) (r : CbReq) (d : List Byte) : Nat × State :=
  let i := r.index.toNat
  let sub := r.sub.toNat
  let mine := fun (x : Transfer) => x.index = i && x.sub = sub
  let put := fun (s : State) (l : List Transfer) => ({s with book := {s.book with xfer := l}} : State)
  if r.offset = 0 then
    if i = 0x2E02 && (s.boot.img = .programming || s.boot.img = .busy) then s.imageTake []
    else (0, put s (⟨i, sub, ch, r.total.toNat, d, s.now⟩ :: s.book.xfer.filter (fun x => !mine x)))
  else match s.book.xfer.find? (fun x => mine x && x.chan = ch) with
    | none => (10, s)
    | some x =>
      if r.offset.toNat ≠ x.data.length then (9, s)
      else if x.total < x.data.length + d.length then (1, s)
      else
        let all := x.data ++ d
        let rest := s.book.xfer.filter (fun y => !mine y)
        if all.length = x.total then (put s rest).odWrite i sub all
        else (0, put s ({x with data := all, at' := s.now} :: rest))

def State.bookWrite (s : State) (ch : CbChan) (r : CbReq) : Answer × State :=
  let i := r.index.toNat
  let sub := r.sub.toNat
  let d := fit 0 r.length.toNat r.data
  let bad := fun (st : Nat) (s : State) => (({st := st, total := r.total.toNat} : Answer), s)
  match s.odFind i sub with
  | .noEnt => bad 2 s
  | .noSub => bad 3 s
  | .ent e =>
    if e.acc = 0 then bad 4 s
    else if e.acc = 3 && s.boot.ready then bad 7 {s with book := {s.book with rwlDisc := s.book.rwlDisc + 1}}
    else if r.total.toNat ≠ e.size then bad 5 s
    else
      let (st, s) := if chanLimit ch < e.size then s.segTake ch r d
        else if r.offset ≠ 0 then (9, s)
        else if d.length ≠ e.size then (1, s)
        else s.odWrite i sub d
      bad st s

/-- WRITE. -/
def execWrite (ch : CbChan) (r : CbReq) (s : State) : Res := .next (s.bookTake ch 2 r (fun s => s.bookWrite ch r))

/-! ### DESC and LIST (R488) -/

def State.bookDesc (s : State) (r : CbReq) : Answer × State :=
  let i := r.index.toNat
  let sub := r.sub.toNat
  match s.odFind i sub with
  | .noEnt => ({st := 2, total := s.noTotal}, s)
  | .noSub => ({st := 3, total := s.noTotal}, s)
  | .ent e =>
    ({st := 0, total := e.size, data := leBytes 1 e.ty ++ leBytes 1 e.acc ++ leBytes 1 e.pers ++ leBytes 1 0 ++ leBytes 4 e.size
        ++ (if e.size ≤ 64 then e.default i sub else [])}, s)

/-- DESC. -/
def execDesc (ch : CbChan) (r : CbReq) (s : State) : Res := .next (s.bookTake ch 3 r (fun s => s.bookDesc r))

def State.bookList (s : State) (ch : CbChan) (r : CbReq) : Answer × State :=
  ({st := 0, total := s.noTotal,
    data := ((s.odList r.index.toNat).take (chanLimit ch / 4)).flatMap (fun p => leBytes 2 p.1 ++ leBytes 1 p.2 ++ leBytes 1 0)}, s)

/-- LIST. -/
def execList (ch : CbChan) (r : CbReq) (s : State) : Res := .next (s.bookTake ch 4 r (fun s => s.bookList ch r))

/-! ### The mailbox (R494, R495) -/

/-- The header in the request area, and the data its `length` names (R487). -/
def Mailbox.header (m : Mailbox) : CbReq :=
  let n := fun (o k : Nat) => m.req.readNat o k
  { magic := BitVec.ofNat 16 (n 0 2), ver := BitVec.ofNat 8 (n 2 1), txid := BitVec.ofNat 32 (n 4 4), index := BitVec.ofNat 16 (n 8 2),
    sub := BitVec.ofNat 8 (n 0xA 1), offset := BitVec.ofNat 32 (n 0xC 4), length := BitVec.ofNat 32 (n 0x10 4),
    total := BitVec.ofNat 32 (n 0x14 4), data := m.req.readBytes 24 (min 16384 (n 0x10 4)), dlen := 24 }

/-- `go`: discarded while busy. A request that the network would discard, or without a valid `ver` or `op`, is answered
BADREQ at once; any other waits, busy, for the cellar master. -/
def State.mailboxGo (s : State) (e : Ep) : State :=
  let m := (s.epOf e).mbox
  if m.busy then {s with book := {s.book with goDisc := s.book.goDisc + 1}}
  else
    let s := s.modEp e (fun h => {h with mbox := {h.mbox with busy := true}})
    let r := m.header
    let op := m.req.readNat 3 1
    if r.magic ≠ 0x4243 || 16384 < r.length.toNat || r.ver ≠ 1 || op = 0 || 4 < op then
      (s.bookAnswer (.mbox e) op r {st := 1, total := s.noTotal}).bump
    else (s.emit (.event 17 [e.code, op]))

/-- MAILBOX_GO. -/
def execMailboxGo (e : Ep) (s : State) : Res := .next (s.mailboxGo e)

end Sys2Proof.Machine
end

