-- ==== Sys2Proof/Machine/HubRegs.lean ====
section
/-! DEFINITION. Registers reached by address: the hub's register map, the host control window, JTAG, die management space
(R16, R54, R206, R212, R232–R289, R314, R321, R330, R342–R345, R362, R399, R415, R494, R516, R524, R542, R586). -/

namespace Sys2Proof.Machine

/-- A step's next state. -/
def resState (r : Res) (s : State) : State := match r with | .next t => t | _ => s

/-! ### The map -/

/-- An 8 B hub register, or two words of a table. -/
inductive HReg where
  | strap
  | tb (w : Nat)
  | route (n d : Nat)
  | lnk (r p d w : Nat)
  | bung (n : Nat)
  | budget (n c : Nat)
  | ctr (n c w : Nat)
  | share (k a : Nat)
  | shareCtr (k a w : Nat)
  | owner (k g : Nat)
  | dl (a m w : Nat)
  | gate (x w : Nat)
  | rule (x i w : Nat)
  | tg (k p w : Nat)
  | reserve (i : Nat) (hi : Bool)
  | dir (k i : Nat)
  | ctx (c w : Nat)
  | queue (q w : Nat)
  | fence (f w : Nat)
  | cmd (b w : Nat)
  | bell (q : Nat)
  | fq (x w : Nat)
  | xcmd (b w : Nat)
  | slice (x w : Nat)
  | scmd (b w : Nat)
  | taster (i w : Nat)
  | sink (i w : Nat)
  | hlt
  | hltRec (x w : Nat)
  | xlptr
  | octab (g w : Nat)
  | xring (n w : Nat)
  | reserved
  /-- a reserved place among the registers that only the host, hub controllers and MGD use -/
  | reservedHub
  deriving DecidableEq, Repr

/-- Registers of the blocks of contexts, queues, fences (R362), translation (R399, R407) and slices (R415). -/
def machineryAt (o : Nat) : HReg :=
  let w := o / 8
  if o < 0x50080000 then .ctx ((o - 0x50000000) / 128) (w % 16)
  else if 0x50100000 ≤ o && o < 0x50200000 then .queue ((o - 0x50100000) / 64) (w % 8)
  else if 0x50200000 ≤ o && o < 0x50400000 then .fence ((o - 0x50200000) / 32) (w % 4)
  else if 0x50400000 ≤ o && o < 0x50400100 then .cmd ((o - 0x50400000) / 64) (w % 8)
  else if 0x50410000 ≤ o && o < 0x50430000 then .bell ((o - 0x50410000) / 8)
  else if 0x60000000 ≤ o && o < 0x60001000 then .fq ((o - 0x60000000) / 64) (w % 8)
  else if 0x60001000 ≤ o && o < 0x60001100 then .xcmd ((o - 0x60001000) / 64) (w % 8)
  else if 0x70000000 ≤ o && o < 0x70004000 then .slice ((o - 0x70000000) / 256) (w % 32)
  else if 0x70008000 ≤ o && o < 0x70008100 then .scmd ((o - 0x70008000) / 64) (w % 8)
  else .reservedHub

/-- Observation registers (R528–R540). -/
def observeAt (o : Nat) : HReg :=
  let w := o / 8
  let i := (o - 0x80000000) / 4096
  if i < 192 then (let v := o % 4096 / 8; if (4 ≤ v && v < 20) || v = 0 || v = 20 then .taster i v else .reservedHub)
  else if 0x80F00000 ≤ o && o < 0x80F00100 then .sink ((o - 0x80F00000) / 64) (w % 8)
  else if o = 0x80F80000 then .hlt
  else if 0x80F80040 ≤ o && o < 0x80F80240 then .hltRec ((o - 0x80F80040) / 32) ((o - 0x80F80040) / 8 % 4)
  else if o = 0x80F80400 then .xlptr
  else if 0x81000000 ≤ o && o < 0x81080000 then .octab ((o - 0x81000000) / 128) (w % 16)
  else if 0x81800000 ≤ o && o < 0x81820000 then .xring ((o - 0x81800000) / 32) (w % 4)
  else .reservedHub

/-- A cask's registers: shares and their counters within 4 KiB (R284, R289). -/
def shareAt (k o : Nat) : HReg :=
  if o < 0x208 then .share k (o / 8)
  else if 0x400 ≤ o && o < 0x810 then .shareCtr k ((o - 0x400) / 16) (o / 8 % 2)
  else .reserved

/-- A gate's registers within 4 KiB (R321, R330). -/
def gateAt (x o : Nat) : HReg :=
  if o < 0x18 then .gate x (o / 8)
  else if 0x100 ≤ o && o < 0x300 then .rule x ((o - 0x100) / 32) (o / 8 % 4)
  else .reserved

/-- The register at an offset from 0xF0_0000_0000. -/
def hubAt (o : Nat) : HReg :=
  if 0x80000000 ≤ o then observeAt o
  else if 0x50000000 ≤ o then machineryAt o
  else if 0x40000000 ≤ o then (if o < 0x4C000000 then .dir ((o - 0x40000000) / 2 ^ 24) (o % 2 ^ 24 / 8) else .reserved)
  else if 0x30000000 ≤ o then (if o < 0x30002000 then .reserve ((o - 0x30000000) / 16) (decide (o / 8 % 2 = 1)) else .reserved)
  else if 0x20000000 ≤ o then
    let p := o % 2 ^ 20 / 256
    if o < 0x20C00000 && p < 32 && o % 256 < 0x40 then .tg ((o - 0x20000000) / 2 ^ 20) p (o % 256 / 8) else .reserved
  else if 0x17000000 ≤ o then (if o < 0x17010000 then gateAt ((o - 0x17000000) / 4096) (o % 4096) else .reserved)
  else if 0x16000000 ≤ o then
    let a := (o - 0x16000000) / 4096
    if a < 19 && o % 4096 / 512 < linkModules a then .dl a (o % 4096 / 512) (o % 512 / 8) else .reserved
  else if 0x15000000 ≤ o then
    if o < 0x15C00000 && o % 2 ^ 20 < 23040 then .owner ((o - 0x15000000) / 2 ^ 20) (o % 2 ^ 20) else .reserved
  else if 0x14000000 ≤ o then (if o < 0x1400C000 then shareAt ((o - 0x14000000) / 4096) (o % 4096) else .reserved)
  else if 0x13100000 ≤ o then
    let n := (o - 0x13100000) / 256
    if niExists n && o % 256 / 32 < 5 then .ctr n (o % 256 / 32) (o / 8 % 4) else .reserved
  else if 0x13000000 ≤ o then
    let n := (o - 0x13000000) / 64
    if niExists n && o % 64 / 8 < 5 then .budget n (o % 64 / 8) else .reserved
  else if 0x12000000 ≤ o then
    let n := (o - 0x12000000) / 64
    if niExists n && o % 64 = 0 then .bung n else .reserved
  else if 0x11000000 ≤ o then
    let q := o % 4096
    if (o - 0x11000000) / 4096 < 192 && 0x100 ≤ q && q < 0x300 && q % 32 < 16 then
      .lnk ((o - 0x11000000) / 4096) ((q - 0x100) / 128) ((q - 0x100) / 32 % 4) (q % 32 / 8)
    else .reserved
  else if 0x10000000 ≤ o then
    let n := (o - 0x10000000) / 8192
    if niExists n then .route n (o % 8192 / 8) else .reserved
  else if 0x01000000 ≤ o && o < 0x01000028 then .tb ((o - 0x01000000) / 8)
  else if o = 0 then .strap
  else .reserved

/-! ### Reads -/

/-- Who may read a register. -/
def HReg.readable (r : HReg) (who : Who) : Bool :=
  match r with
  | .strap | .route _ _ | .lnk _ _ _ _ | .dl _ _ _ | .dir _ _ | .tg _ _ _ => who.mgmt
  | .tb _ | .bung _ | .reserved => true
  | .bell _ => !who.mgmt
  | _ => who.mgmt || who.driver

/-- `TBSTAT`, a bung register, `TGSTAT`, the words of a reserve-copy entry. -/
def Time.stat (t : Time) : Nat := b2n t.tlock + 2 * b2n t.hold + 4 * b2n t.acq + 2 ^ 32 * t.nstep.toNat
def Ni.bungReg (n : Ni) : Nat := b2n n.eng + 2 * b2n n.hold + 2 ^ 16 * n.record.length + 2 ^ 32 * n.absorbed.toNat
def Tg.stat (t : Tg) : Nat := b2n t.busy + 2 * b2n t.done + 4 * b2n t.fail + 8 * b2n t.refused
def Reserve.word (r : Reserve) (hi : Bool) : Nat :=
  if hi then 2 ^ 21 * r.cbase.toNat + 2 ^ 48 * r.hits.toNat
  else r.mode.toNat + 4 * b2n r.gran + 32 * r.kslot.toNat + 2 ^ 21 * r.pbase.toNat

/-- Word w of a traffic generator's block (R212). -/
def Tg.word (t : Tg) (w : Nat) : Nat :=
  match w with
  | 0 => t.ctl.toNat | 1 => t.seed.toNat | 2 => t.base.toNat | 3 => t.len.toNat
  | 4 => t.stat | 5 => t.nerr.toNat | 6 => t.fsec.toNat | _ => t.lanes.toNat

/-- Word w of a link block, of a die-link block, of a class's counters (R248, R282, R314). -/
def Lnk.word (l : Lnk) (present : Bool) (w : Nat) : Nat :=
  if w = 0 then b2n present + 2 * b2n l.insvc else l.hcorr.toNat + 2 ^ 16 * l.hunc.toNat + 2 ^ 32 * l.pmis.toNat
def LinkDir.word (d : LinkDir) (w : Nat) : Nat :=
  if w = 0 then d.cfg else if w = 1 then d.errs
  else if w < 8 then 0
  else (List.range 4).foldl (fun n i => n + 2 ^ (16 * i) * (tget 0 d.lcnt (4 * (w - 8) + i)).toNat) 0
def NiCls.word (v : NiCls) (w : Nat) : Nat :=
  match w with
  | 0 => v.chg.toNat | 1 => v.low.toNat | 2 => v.last.toNat + 2 ^ 24 * v.nover.toNat | _ => (BitVec.ofInt 32 v.credit).toNat

/-- A directory entry as read (R255): a way kept for a line whose transaction is to record a holder reads as free; one whose check state is bad reads as the manual does not say. -/
def State.dirWord (s : State) (k i : Nat) : Nat :=
  let c := s.caskOf k
  match tfind c.dir i with
  | none => (codeHalf 0).toNat
  | some e =>
    if e.holders = 0 then (codeHalf 0).toNat
    else
    let info := (if e.m then 2 else 1) + 4 * e.holders.toNat + 2 ^ 18 * bits (lineOff e.line) 35 23 + 2 ^ 31 * b2n (c.blocked e.line)
    if e.err = .ok then (codeHalf info).toNat else Config.freeNat s.freeCtr (2 ^ 32 + i) % 2 ^ 64

/-- The value of a register. Fields that are only written, and reserved ones, read 0. -/
def State.hubValue (s : State) (r : HReg) : Nat :=
  match r with
  | .strap => s.power.strap.toNat
  | .tb w => (match w with | 0 => s.time.now.toNat | 1 => s.time.stat | 2 => s.time.ofs.toNat | 3 => s.time.rate.toNat | _ => 0)
  | .route n d => s.routeOf n d
  | .lnk r p d w => (s.lnk r p d).word (neighbour r d).isSome w
  | .bung n => (s.niOf n).bungReg
  | .budget n c => (s.niCls n c).budget.toNat + 2 ^ 16 * (s.niCls n c).dcap.toNat
  | .ctr n c w => (s.niCls n c).word w
  | .share k a => tget 0 (s.caskOf k).share a
  | .shareCtr k a w => (if w = 0 then tget 0 (s.caskOf k).srv a else tget 0 (s.caskOf k).ovr a).toNat
  | .owner k g => leNat ((List.range 8).map (fun i => tget 0 (s.caskOf k).owner (g + i)))
  | .dl a m w => (s.dirOf a m true).word w
  | .gate x w => (s.gateOf x).word0 w
  | .rule x i w => ((s.gateOf x).ruleOf i).word w
  | .tg k p w => ((s.caskOf k).pcOf p).tg.word w
  | .reserve i hi => (s.resOf i).word hi
  | .dir k i => s.dirWord k i
  | .ctx c w => (s.ctxOf c).word w
  | .queue q w => (s.queueOf q).word w
  | .fence f w => (s.fenceOf f).word w
  | .cmd b w => (match w with | 1 => (s.cmdOf b).arg0.toNat | 2 => (s.cmdOf b).stat | _ => 0)
  | .fq x w => (s.fqOf x).word w
  | .xcmd b w => (match w with
    | 1 => (s.xcmdOf b).arg0.toNat | 2 => (s.xcmdOf b).arg1.toNat | 3 => (s.xcmdOf b).stat | _ => 0)
  | .slice x w => s.sliceWord x w
  | .scmd b w => (match w with
    | 1 => (s.scmdOf b).arg0.toNat | 2 => (s.scmdOf b).arg1.toNat | 3 => (s.scmdOf b).stat | _ => 0)
  | .taster i w => (match w with
    | 0 => (s.tasterOf i).ctl.toNat | 20 => (s.tasterOf i).cnt | _ => (tget 0 (s.tasterOf i).filt (w - 4)).toNat)
  | .sink i w => (match w with
    | 0 => 64 * (s.sinkOf i).base.toNat | 1 => (s.sinkOf i).cfg | 2 => (s.sinkOf i).nrec | 3 => (s.sinkOf i).full | _ => 0)
  | .hlt => s.obs.smask.toNat + 2 ^ 18 * b2n (decide (s.obs.halted ≠ 0))
  | .hltRec x w =>
    let h := tget ({} : HaltRec) s.obs.rec' x
    (match w with | 0 => h.tstop.toNat | 1 => h.tres.toNat | 2 => h.sm | _ => 0)
  | .xlptr => s.obs.xlptr
  | .octab g w => numAt (tget [] s.obs.octab g) (8 * w) 8
  | .xring n w => (nth 0 (tget [] s.obs.xlog n) w).toNat
  | .bell _ | .reserved | .reservedHub => 0

/-- A register read: its status and value. -/
def State.hubGet (s : State) (who : Who) (r : HReg) : Status × Nat :=
  if r.readable who then (.ok, s.hubValue r % 2 ^ 64) else (.refused, 0)

/-! ### Writes -/

/-- A write that only hub controllers and MGD may make and that changes nothing, or is discarded. -/
def State.roWrite (s : State) (who : Who) : State := s.mgmtWrite who (fun s => s)

/-- A write of `CMD` (R379): a reserved `op` or an `idx` outside its kind ends with BADARG. -/
def State.cmdWrite (s : State) (b v : Nat) : State :=
  let bb : Fin 4 := Fin.ofNat 4 b
  let op := bits v 3 0
  let i := bits v 19 4
  let c : CtxId := Fin.ofNat 4096 i
  let q : QId := Fin.ofNat 16384 i
  let f : FenceId := Fin.ofNat 65536 i
  let bad := s.cmdGo b op i (fun _ s => (.ends .badArg, s))
  if op = 0 || 11 < op || (op ≤ 4 && 4096 ≤ i) || (5 ≤ op && op ≤ 7 && 16384 ≤ i) then bad
  else resState (match op with
    | 1 => execCtxcreate bb c s | 2 => execCtxdestroy bb c s | 3 => execCtxabort bb c s | 4 => execCtxpreempt bb c s
    | 5 => execQenable bb q s | 6 => execQdisable bb q s | 7 => execQresume bb q s
    | 8 => execFarm bb f s | 9 => execFsignal bb f s | 10 => execFabandon bb f s | _ => execFdisarm bb f s) s

/-- A write of `XCMD` (R399, R400). -/
def State.xcmdWrite (s : State) (b v : Nat) : State :=
  let bb : Fin 4 := Fin.ofNat 4 b
  let i := BitVec.ofNat 16 (bits v 19 4)
  resState (match bits v 3 0 with
    | 1 => execInvctx bb i s | 2 => execInvva bb i s | 3 => execInvslice bb i s | 4 => execInvipa bb i s
    | 5 => execInvall bb i s | 6 => execXresume bb i s
    | op => .next (s.xcmdGo b op i.toNat (fun _ _ s => (.ends .badArg, s)))) s

/-- A write of `SCMD` (R419, R420). -/
def State.scmdWrite (s : State) (b v : Nat) : State :=
  let bb : Fin 4 := Fin.ofNat 4 b
  let x : SliceId := Fin.ofNat 64 (bits v 9 4)
  resState (match bits v 3 0 with
    | 1 => execSlcreate bb x s | 2 => execSlfreeze bb x s | 3 => execSlthaw bb x s | 4 => execSlbottle bb x s
    | 5 => execSluncork bb x s | 6 => execSlreset bb x s | 7 => execSlremove bb x s
    | op => .next (s.scmdGo b op x.val (fun _ _ s => (some 2, s)))) s

/-- Arguments of the slice command blocks: bits [31:6] of `SCMDARG1` are reserved and read 0 (R419, R16). -/
def CmdBlk.sargs (c : CmdBlk) (w : Nat) (v : Word) : CmdBlk :=
  match w with | 1 => {c with arg0 := v} | 2 => {c with arg1 := v &&& 0xFFFFFFFF0000003F} | _ => c

/-- Arguments of the command blocks. -/
def CmdBlk.args (c : CmdBlk) (w : Nat) (v : Word) : CmdBlk := match w with | 1 => {c with arg0 := v} | 2 => {c with arg1 := v} | _ => c

/-- `TBRATE` within ±500 ppm (R516). -/
def rateOf (v : Nat) : Half := BitVec.ofInt 32 (max (-rateMax) (min rateMax (intOf 32 (v % 2 ^ 32))))

/-- A word of a traffic generator written: `start` and `stop`, the settings, W1C of `TGSTAT` (R212). -/
def State.tgWrite (s : State) (who : Who) (k p w v : Nat) : State :=
  let kk : CaskId := Fin.ofNat 12 k
  let pp : Fin 32 := Fin.ofNat 32 p
  let put := fun (f : Tg → Tg) => s.mgmtWrite who (fun s => s.modCask k (fun c => c.modPc p (fun q => {q with tg := f q.tg})))
  match w with
  | 0 =>
    if bit v 8 then resState (execTgStart who kk pp (BitVec.ofNat 8 v) s) s
    else if bit v 9 then resState (execTgStop who kk pp (put (fun t => {t with ctl := BitVec.ofNat 8 v}))) s
    else put (fun t => {t with ctl := BitVec.ofNat 8 v})
  | 1 => put (fun t => {t with seed := BitVec.ofNat 31 v})
  | 2 => put (fun t => {t with base := BitVec.ofNat 25 v})
  | 3 => put (fun t => {t with len := BitVec.ofNat 25 v})
  | 4 => put (fun t => {t with done := t.done && !bit v 1, fail := t.fail && !bit v 2, refused := t.refused && !bit v 3})
  | _ => s.roWrite who

/-- Observation registers: written by hub controllers and MGD (R524). -/
def State.observeWrite (s : State) (who : Who) (r : HReg) (v : Nat) : State :=
  s.mgmtWrite who (fun s => match r with
    | .taster i 0 => (s.tasterWrite i v).2
    | .taster i w =>
      if w = 20 || w % 4 = 3 then s
      else s.modObs (fun o => {o with taster := tmod {} o.taster i (fun t =>
        {t with filt := tput t.filt (w - 4) (BitVec.ofNat 64 (if w % 4 = 0 then bits v 55 0 else bits v 41 0))})})
    | .sink i 0 => s.sinkWrite i v (s.sinkOf i).cfg
    | .sink i 1 => s.sinkWrite i (64 * (s.sinkOf i).base.toNat) v
    | .hlt => s.hltctlWrite v
    | _ => s)

/-- A register write of 8 B. -/
def State.hubPut (s : State) (who : Who) (r : HReg) (v : Nat) : State :=
  let w64 : Word := BitVec.ofNat 64 v
  let go := fun (x : Res) => resState x s
  let args := fun (w : Nat) (t : Tab CmdBlk) (b : Nat) => tmod ({} : CmdBlk) t b (fun c => c.args w w64)
  match r with
  | .tb w => (match who, w with
    | .mgd, 3 => (s.modTime (fun t => {t with rate := rateOf v})).ack who .ok
    | .mgd, 4 => go (execTimebaseStep who w64 s)
    | .mgd, _ => s.ack who .ok
    | _, _ => s.ack who .refused)
  | .route n d => go (execRouteEntryWrite who (BitVec.ofNat 10 n) (BitVec.ofNat 10 d) w64 s)
  | .lnk r p d 0 => s.mgmtWrite who (fun s => s.modLnk r p d (fun l => {l with insvc := bit v 1}))
  | .bung n => go (execBungRegWrite who (BitVec.ofNat 10 n) w64 s)
  | .budget n c => go (execBudgetWrite who (BitVec.ofNat 10 n) (Fin.ofNat 5 c) w64 s)
  | .share k a => go (execShareWrite who (Fin.ofNat 12 k) (BitVec.ofNat 7 a) w64 s)
  | .owner k g => s.driverWrite who (fun s => (List.range 8).foldl (fun s i => s.ownerWrite k (g + i) (v / 2 ^ (8 * i) % 256)) s)
  | .gate x 0 => go (execGateCtlWrite who (Fin.ofNat 16 x) w64 s)
  | .gate x 2 => s.mgmtWrite who (fun s => if bit v 63 then s.modGate x (fun g => {g with gvio := g.gvio &&& 0x7FFFFFFFFFFFFFFF}) else s)
  | .rule x i w => go (execGateRuleWrite who (Fin.ofNat 16 x) (Fin.ofNat 16 i) (Fin.ofNat 4 w) w64 s)
  | .tg k p w => s.tgWrite who k p w v
  | .reserve i hi => go (execReserveCopyWrite who (Fin.ofNat 512 i) hi w64 s)
  | .ctx c w => go (execContextSlotWrite who (Fin.ofNat 4096 c) (Fin.ofNat 16 w) w64 s)
  | .queue q w => go (execQueueSlotWrite who (Fin.ofNat 16384 q) (Fin.ofNat 8 w) w64 s)
  | .fence f w => go (execFenceCfgWrite who (Fin.ofNat 65536 f) (Fin.ofNat 8 w) w64 s)
  | .cmd b w => s.hubWrite who (w ≤ 1) (fun s =>
      if w = 0 then s.cmdWrite b v else s.modHub (fun h => {h with cmd := args 1 h.cmd b}))
  | .bell q => go (execCoreDoorbell who (Fin.ofNat 16384 q) w64 s)
  | .fq x w => go (execFaultQueueWrite who (Fin.ofNat 64 x) (Fin.ofNat 8 w) w64 s)
  | .xcmd b w => s.hubWrite who (w ≤ 2) (fun s =>
      if w = 0 then s.xcmdWrite b v else s.modHub (fun h => {h with xcmd := args w h.xcmd b}))
  | .slice x w =>
      if w < 16 then go (execSliceEntryWrite who (Fin.ofNat 64 x) (Fin.ofNat 16 w) w64 s) else s.hubWrite who false (fun s => s)
  | .scmd b w => s.hubWrite who (w ≤ 2) (fun s =>
      if w = 0 then s.scmdWrite b v else s.modHub (fun h => {h with scmd := tmod ({} : CmdBlk) h.scmd b (fun c => c.sargs w w64)}))
  | .taster _ _ | .sink _ _ | .hlt => s.observeWrite who r v
  | .reservedHub => s.hubWrite who false (fun s => s)
  | .reserved => s.ack who .ok
  | .shareCtr _ _ _ => s.driverWrite who (fun s => s)
  | _ => s.roWrite who

/-! ### The host control window (R342–R345) -/

/-- The hub offset of a control-window offset; none outside the hub-backed regions. -/
def windowHub (off : Nat) : Option Nat :=
  let at' := fun (lo size base : Nat) => if lo ≤ off && off < lo + size then some (base + (off - lo)) else none
  (at' 0x100000 0x1000000 0x50000000) <|> (at' 0x1100000 0x1000000 0x60000000) <|> (at' 0x2100000 0x100000 0x70000000)
    <|> (at' 0x2200000 0x200000 0x13000000) <|> (at' 0x2400000 0x10000 0x14000000) <|> (at' 0x2500000 0x10000 0x17000000)
    <|> (at' 0x2600000 0x2000 0x30000000) <|> (at' 0x3000000 0xC00000 0x15000000) <|> (at' 0x4000000 0x2000000 0x80000000)

/-- A register the host may only read, and reserved places (R342, R343, R362, R524). -/
def HReg.hostRo (r : HReg) : Bool :=
  match r with
  | .budget _ _ | .ctr _ _ _ | .shareCtr _ _ _ | .gate _ _ | .taster _ _ | .sink _ _ | .hlt | .hltRec _ _ | .xlptr
  | .octab _ _ | .xring _ _ | .reserved | .bell _ => true
  | .rule _ _ w => decide (3 ≤ w)
  | _ => false

/-- Nothing but reserved bits: a read is answered 0 and counted. -/
def HReg.void (r : HReg) : Bool := match r with | .reserved | .reservedHub | .bell _ => true | _ => false

/-- A value written in part: the other half keeps the register's value, or writes 0 to bits that act when 1 (R343). -/
def halfInto (keep : Nat) (upper : Bool) (v : Nat) : Nat :=
  if upper then keep % 2 ^ 32 + 2 ^ 32 * (v % 2 ^ 32) else v % 2 ^ 32 + 2 ^ 32 * (keep / 2 ^ 32)

/-- A write of a hub register by the host. -/
def State.hostHubWrite (s : State) (e : Ep) (r : HReg) (v : Nat) : State :=
  if r.hostRo then (s.cwDiscard e).ack (.host e) .ok else s.hubPut (.host e) r v

/-- An 8 B word of the endpoint's own regions as read: value, and whether it is reserved (R345, R346, R356, R494). -/
def State.epWord (s : State) (e : Ep) (o : Nat) : Nat × Bool :=
  let h := s.epOf e
  let m := h.mbox
  if o < 0x1000 then match o with
    | 0x00 => (b2n s.boot.ready + 2 * b2n s.time.tlock + 4 * e.code + 8 * b2n (s.epOf (epOther e)).peerSeen + 16 * b2n s.boot.warm
        + 2 ^ 32 * s.boot.gen.toNat, false)
    | 0x08 => (s.time.now.toNat, false)
    | 0x10 => (0, false)
    | 0x18 => (h.cwdisc.toNat + 2 ^ 32 * h.dbdisc.toNat, false)
    | 0x20 => (h.apref.toNat + 2 ^ 32 * h.appois.toNat, false)
    | 0x28 => (h.hosterr.toNat + 2 ^ 32 * h.wlost.toNat, false)
    | _ => (0, true)
  else if o < 0x1200 then ((tget 0 h.seg ((o - 0x1000) / 8)).toNat, false)
  else if 0x10000 ≤ o && o < 0x18000 then
    let x := h.msixOf ((o - 0x10000) / 16)
    (if o / 8 % 2 = 0 then x.addr.toNat else x.data.toNat + 2 ^ 32 * b2n x.mask, false)
  else if 0x18000 ≤ o && o < 0x18100 then
    ((List.range 64).foldl (fun n i => n + 2 ^ i * b2n (h.msixOf (8 * (o - 0x18000) + i)).pend) 0, false)
  else if 0x20000 ≤ o && o < 0x30000 then
    let a := o - 0x20000
    if a = 0 then (0, false)
    else if a = 8 then (b2n m.busy + 2 * b2n m.done + 4 * b2n m.irqen, false)
    else if 0x1000 ≤ a && a < 0x5018 then (m.req.readNat (a - 0x1000) 8, false)
    else if 0x8000 ≤ a && a < 0xC018 then (m.rsp.readNat (a - 0x8000) 8, false)
    else (0, true)
  else (0, true)

/-- A write of an MSI-X table word; unmasked, a pending vector is sent (R356, R357). -/
def State.msixWrite (s : State) (e : Ep) (o v : Nat) : State :=
  let s := s.modEp e (fun h => {h with msix := tmod {} h.msix ((o - 0x10000) / 16) (fun m =>
    if o / 8 % 2 = 0 then {m with addr := BitVec.ofNat 64 v}
    else {m with data := BitVec.ofNat 32 v, mask := bit v 32})})
  s.msixFlush e

/-- A write of the endpoint's own regions, `part` of an 8 B word. -/
def State.epWrite (s : State) (e : Ep) (o : Nat) (v : Nat) (part : Option Bool) : State :=
  let keep := (s.epWord e o).1
  let full := match part with | none => v | some u => halfInto keep u v
  let acts := match part with | none => v | some u => halfInto 0 u v
  let a := o - 0x20000
  if o = 0x10 then (if bit acts 0 then s.warmRequest else s)
  else if 0x1000 ≤ o && o < 0x1200 then s.segWrite e ((o - 0x1000) / 8) full
  else if 0x10000 ≤ o && o < 0x18000 then s.msixWrite e o full
  else if o = 0x20000 then (if bit acts 0 then s.mailboxGo e else s)
  else if o = 0x20008 then s.modEp e (fun h => {h with mbox := {h.mbox with done := h.mbox.done && !bit acts 1, irqen := bit full 2}})
  else if 0x21000 ≤ o && o < 0x25018 then s.modEp e (fun h => {h with mbox := {h.mbox with req := h.mbox.req.writeNat (a - 0x1000) 8 full}})
  else s.cwDiscard e

/-- A completed read. -/
def State.cplData (s : State) (e : Ep) (size v : Nat) : State := s.emit (.pcieCpl e .success (leBytes size v))

/-- The part of an 8 B word that an access of 4 B names. -/
def partOf (size off : Nat) (v : Nat) : Nat := if size = 4 then v / 2 ^ (8 * (off % 8)) % 2 ^ 32 else v

/-- A read of the control window (R343, R344). One that its owner's bung answers completes as Completer Abort (DESIGN
CHOICE, log 44). -/
def State.cwRead (s : State) (e : Ep) (off size : Nat) : State :=
  let o := off / 8 * 8
  match windowHub o with
  | some h =>
    let r := hubAt h
    if !s.boot.ready || (s.epOf e).flr || r.void then (s.cwDiscard e).cplData e size 0
    else if s.bunged (hubOwner h) then s.cplErr e .ca
    else s.cplData e size (partOf size off (s.hubGet (.host e) r).2)
  | none =>
    let (v, res) := s.epWord e o
    (if res then s.cwDiscard e else s).cplData e size (partOf size off v)

/-- A write of the control window. A 4 B write to the upper half of a command register names no command. -/
def State.cwWrite (s : State) (e : Ep) (off size v : Nat) : State :=
  let o := off / 8 * 8
  let part := if size = 8 then none else some (decide (off % 8 = 4))
  match windowHub o with
  | some h =>
    let r := hubAt h
    if !s.boot.ready || (s.epOf e).flr then s.cwDiscard e
    else if s.bunged (hubOwner h) then s.ack (.host e) .bunged
    else match part with
      | none => s.hostHubWrite e r v
      | some u =>
        match u, r with
        | true, .cmd _ 0 | true, .xcmd _ 0 | true, .scmd _ 0 => s.ack (.host e) .ok
        | _, _ => s.hostHubWrite e r (halfInto (s.hubValue r) u v)
  | none => s.epWrite e o v part

/-- A control-window access performed: of 4 B or 8 B, naturally aligned; any other ends as Unsupported Request. An endpoint
that has stopped completes it as Completer Abort (R358). -/
def State.cwAccess (s : State) (e : Ep) (wr : Bool) (off : BitVec 27) (size : Fin 9) (data : Word) : State :=
  let a := off.toNat
  if (s.epOf e).stopped then (if wr then (s.cwDiscard e).wrErr e .ca else s.cplErr e .ca)
  else if (size ≠ 4 && size ≠ 8) || a % size.val ≠ 0 then (if wr then (s.cwDiscard e).wrErr e .ur else s.cplErr e .ur)
  else if wr then s.cwWrite e a size.val data.toNat
  else s.cwRead e a size.val

/-- HOST_CONTROL_ACCESS. A read does not pass a write that waits (R272; PCIe). -/
def execHostControlAccess (e : Ep) (wr : Bool) (off : BitVec 27) (size : Fin 9) (data : Word) (s : State) : Res :=
  .next (if !(s.epOf e).linkUp then s
    else if (wr && s.hostWaits e) || !(s.epOf e).later.isEmpty then s.hostLater e (.control wr off size data)
    else s.cwAccess e wr off size data)

/-- Accesses that waited are performed in order, once the aperture writes before them are. -/
def State.hostGo (s : State) (e : Ep) : State :=
  if s.agentWaits (97 + e.code) then s
  else
    let l := (s.epOf e).later
    l.foldl (fun s a => match a with
      | .control wr off size data => s.cwAccess e wr off size data
      | .doorbell off size data poisoned => s.dbWrite e off size data poisoned
      | .aperture off len => s.apRead e off len) (s.modEp e (fun h => {h with later := []}))

/-! ### Plain register writes, JTAG, die management space -/

/-- A write in a die's management space (R54, R314, R527). -/
def State.diePut (s : State) (who : Who) (x : Site) (o v : Nat) : State :=
  let w : Word := BitVec.ofNat 64 v
  if 0x400 ≤ o && o < 0x440 then resState (execClmapWrite who x (Fin.ofNat 16 ((o - 0x400) / 4)) w s) s
  else if o = 0x440 then resState (execClret who x w s) s
  else if 0x10000 ≤ o && o < 0x18000 && o % 0x80 = 0 then
    s.mgmtWrite who (fun s => if s.isGraft x.val then s else s.octSettle.modCore (256 * x.val + (o - 0x10000) / 0x80) (fun c => {c with ocsel := w}))
  else s.roWrite who

/-- REGISTER_WRITE: of 8 B. A host reaches its own endpoint's registers and the hub's regions of its control window. -/
def execRegisterWrite (who : Who) (r : RegAddr) (v : Word) (s : State) : Res :=
  .next (match r with
    | .hub pa =>
      let o := pa.toNat - 0xF000000000
      if pa.toNat < 0xF000000000 then s.ack who .refused
      else match who with
        | .host e => s.atOwner who (hubOwner o) (fun s => s.hostHubWrite e (hubAt (o / 8 * 8)) v.toNat)
        | _ => s.atOwner who (hubOwner o) (fun s => s.hubPut who (hubAt (o / 8 * 8)) v.toNat)
    | .epctl e off => if who = .host e then s.epWrite e (off.toNat / 8 * 8) v.toNat none else s.ack who .refused
    | .die x off => s.diePut who x off.toNat v.toNat)

/-- JTAG_REGACC: an update of REGACC with `go`, as MGD (R542). -/
def execJtagRegacc (wr : Bool) (pa : PA) (data : Word) (s : State) : Res :=
  let o := (pa.toNat - 0xF000000000) / 8 * 8
  let done := fun (st : Status) (v : Nat) (s : State) =>
    s.modObs (fun o => {o with jtag := {o.jtag with busy := false, status := st.code, rdata := BitVec.ofNat 64 v}})
  .next (if jtagOp s.obs.jtag.ir.toNat ≠ 0x10 || !s.boot.running then s
    else if pa.toNat < 0xF000000000 then done .refused 0 s
    else if wr then done (match hubAt o with | .bell _ => .refused | _ => .ok) 0 (s.hubPut .mgd (hubAt o) data.toNat)
    else
      let (st, v) := s.hubGet .mgd (hubAt o)
      done st v s)

end Sys2Proof.Machine
end

