-- ==== Sys2Proof/Machine/Dispatch.lean ====
section
/-! DEFINITION. The effect of each command on everything but the queue: one arm per command, each calling its meaning. -/

namespace Sys2Proof.Machine

def exec (i : Instr) (s : State) : Host.Outcome State Fault Refusal :=
  match i with
  | .load h n rs1 imm dst => Sys2Proof.Machine.execLoad h n rs1 imm dst s
  | .store h n rs1 imm src => Sys2Proof.Machine.execStore h n rs1 imm src s
  | .lr h rd rs1 dbl => Sys2Proof.Machine.execLr h rd rs1 dbl s
  | .sc h rd rs1 rs2 dbl => Sys2Proof.Machine.execSc h rd rs1 rs2 dbl s
  | .threadAmo h rd rs1 rs2 op dbl => Sys2Proof.Machine.execThreadAmo h rd rs1 rs2 op dbl s
  | .fence h pred succ => Sys2Proof.Machine.execFence h pred succ s
  | .fenceI h => Sys2Proof.Machine.execFenceI h s
  | .wfi h => Sys2Proof.Machine.execWfi h s
  | .vectorInstr h w => Sys2Proof.Machine.execVectorInstr h w s
  | .csrAccess h op rd src csr => Sys2Proof.Machine.execCsrAccess h op rd src csr s
  | .pstatWrite h op rd src => Sys2Proof.Machine.execPstatWrite h op rd src s
  | .cycflgWrite h op rd src => Sys2Proof.Machine.execCycflgWrite h op rd src s
  | .mhpmeventWrite h op rd src n => Sys2Proof.Machine.execMhpmeventWrite h op rd src n s
  | .pmpcfgWrite h op rd src n => Sys2Proof.Machine.execPmpcfgWrite h op rd src n s
  | .lipendWrite h n t v => Sys2Proof.Machine.execLipendWrite h n t v s
  | .ltcmpWrite h n t v => Sys2Proof.Machine.execLtcmpWrite h n t v s
  | .coreLocalAccess h n kind off lg rd v => Sys2Proof.Machine.execCoreLocalAccess h n kind off lg rd v s
  | .localTimerMatch h => Sys2Proof.Machine.execLocalTimerMatch h s
  | .threadInterrupt h => Sys2Proof.Machine.execThreadInterrupt h s
  | .coreResponse h tag st poison data => Sys2Proof.Machine.execCoreResponse h tag st poison data s
  | .hostStoreAnswer h tag st => Sys2Proof.Machine.execHostStoreAnswer h tag st s
  | .pmac h w => Sys2Proof.Machine.execPmac h w s
  | .pmacz h w => Sys2Proof.Machine.execPmacz h w s
  | .pmacv h w => Sys2Proof.Machine.execPmacv h w s
  | .pmaczv h w => Sys2Proof.Machine.execPmaczv h w s
  | .pzero h w => Sys2Proof.Machine.execPzero h w s
  | .pld h w => Sys2Proof.Machine.execPld h w s
  | .pst h w => Sys2Proof.Machine.execPst h w s
  | .prdv h w => Sys2Proof.Machine.execPrdv h w s
  | .pwrv h w => Sys2Proof.Machine.execPwrv h w s
  | .pstc h w => Sys2Proof.Machine.execPstc h w s
  | .pwait h w => Sys2Proof.Machine.execPwait h w s
  | .pressInstrStart c => Sys2Proof.Machine.execPressInstrStart c s
  | .pressInstrComplete c n => Sys2Proof.Machine.execPressInstrComplete c n s
  | .vpackF h w => Sys2Proof.Machine.execVpackF h w s
  | .vpackX h w => Sys2Proof.Machine.execVpackX h w s
  | .vunpack h w => Sys2Proof.Machine.execVunpack h w s
  | .vmxscl h w => Sys2Proof.Machine.execVmxscl h w s
  | .vmxenc h w => Sys2Proof.Machine.execVmxenc h w s
  | .vmxdec h w => Sys2Proof.Machine.execVmxdec h w s
  | .dinit h w => Sys2Proof.Machine.execDinit h w s
  | .dkv h w => Sys2Proof.Machine.execDkv h w s
  | .dfin h w => Sys2Proof.Machine.execDfin h w s
  | .dsave h w => Sys2Proof.Machine.execDsave h w s
  | .dload h w => Sys2Proof.Machine.execDload h w s
  | .barw h w => Sys2Proof.Machine.execBarw h w s
  | .bara h w => Sys2Proof.Machine.execBara h w s
  | .bart h w => Sys2Proof.Machine.execBart h w s
  | .barwp h w => Sys2Proof.Machine.execBarwp h w s
  | .barrierArm who chan locals => Sys2Proof.Machine.execBarrierArm who chan locals s
  | .barrierArrivalMsg chan si => Sys2Proof.Machine.execBarrierArrivalMsg chan si s
  | .barrierRelease chan si phase => Sys2Proof.Machine.execBarrierRelease chan si phase s
  | .fsig h w => Sys2Proof.Machine.execFsig h w s
  | .fwait h w => Sys2Proof.Machine.execFwait h w s
  | .fread h w => Sys2Proof.Machine.execFread h w s
  | .clret who si v => Sys2Proof.Machine.execClret who si v s
  | .clmapWrite who si n v => Sys2Proof.Machine.execClmapWrite who si n v s
  | .spareSubstitute si cl pos => Sys2Proof.Machine.execSpareSubstitute si cl pos s
  | .spareSelftestDone si cl r => Sys2Proof.Machine.execSpareSelftestDone si cl r s
  | .coreTestDue si cl pos => Sys2Proof.Machine.execCoreTestDue si cl pos s
  | .coreTestDone si cl pass => Sys2Proof.Machine.execCoreTestDone si cl pass s
  | .zoneSample si temps => Sys2Proof.Machine.execZoneSample si temps s
  | .governorEval si => Sys2Proof.Machine.execGovernorEval si s
  | .droopStretch si row => Sys2Proof.Machine.execDroopStretch si row s
  | .l2TagError si bank set uncorrectable => Sys2Proof.Machine.execL2TagError si bank set uncorrectable s
  | .l2TagReport k si bank set => Sys2Proof.Machine.execL2TagReport k si bank set s
  | .contextSave c => Sys2Proof.Machine.execContextSave c s
  | .contextLoad c x => Sys2Proof.Machine.execContextLoad c x s
  | .contextSchedule x => Sys2Proof.Machine.execContextSchedule x s
  | .contextIdle c => Sys2Proof.Machine.execContextIdle c s
  | .contextQuantumEnd c => Sys2Proof.Machine.execContextQuantumEnd c s
  | .preemptTimeout c => Sys2Proof.Machine.execPreemptTimeout c s
  | .copy e => Sys2Proof.Machine.execCopy e s
  | .stride e => Sys2Proof.Machine.execStride e s
  | .tile2d e => Sys2Proof.Machine.execTile2d e s
  | .zero e => Sys2Proof.Machine.execZero e s
  | .reduce e => Sys2Proof.Machine.execReduce e s
  | .merge e => Sys2Proof.Machine.execMerge e s
  | .kvcvt e => Sys2Proof.Machine.execKvcvt e s
  | .nop e => Sys2Proof.Machine.execNop e s
  | .descDispatch src e => Sys2Proof.Machine.execDescDispatch src e s
  | .engineYield e => Sys2Proof.Machine.execEngineYield e s
  | .tileCommit e => Sys2Proof.Machine.execTileCommit e s
  | .descComplete src => Sys2Proof.Machine.execDescComplete src s
  | .rd r => Sys2Proof.Machine.execRd r s
  | .rds r => Sys2Proof.Machine.execRds r s
  | .rdx r => Sys2Proof.Machine.execRdx r s
  | .wr r data => Sys2Proof.Machine.execWr r data s
  | .wri r data => Sys2Proof.Machine.execWri r data s
  | .wrp r mask data => Sys2Proof.Machine.execWrp r mask data s
  | .wrpoi r => Sys2Proof.Machine.execWrpoi r s
  | .stash r data => Sys2Proof.Machine.execStash r data s
  | .wb src r data => Sys2Proof.Machine.execWb src r data s
  | .amo r operand => Sys2Proof.Machine.execAmo r operand s
  | .trace r sink record => Sys2Proof.Machine.execTrace r sink record s
  | .snpInv si pa => Sys2Proof.Machine.execSnpInv si pa s
  | .snoopRd si pa => Sys2Proof.Machine.execSnoopRd si pa s
  | .snoopRds si pa => Sys2Proof.Machine.execSnoopRds si pa s
  | .snoopRdx si pa => Sys2Proof.Machine.execSnoopRdx si pa s
  | .stashPush si pa data => Sys2Proof.Machine.execStashPush si pa data s
  | .deferredSnoopRelease si pa => Sys2Proof.Machine.execDeferredSnoopRelease si pa s
  | .secondaryResponse k pa si st data => Sys2Proof.Machine.execSecondaryResponse k pa si st data s
  | .redirectResponse k src tag st data => Sys2Proof.Machine.execRedirectResponse k src tag st data s
  | .heal entry off copyOk => Sys2Proof.Machine.execHeal entry off copyOk s
  | .reserveCopyWrite who entry hi v => Sys2Proof.Machine.execReserveCopyWrite who entry hi v s
  | .refreshDue k pc rank bank => Sys2Proof.Machine.execRefreshDue k pc rank bank s
  | .caskTempSample k temp => Sys2Proof.Machine.execCaskTempSample k temp s
  | .caskCycle k pc => Sys2Proof.Machine.execCaskCycle k pc s
  | .dqMarginSample k pc lane margin => Sys2Proof.Machine.execDqMarginSample k pc lane margin s
  | .caParityError k pc lane => Sys2Proof.Machine.execCaParityError k pc lane s
  | .rowRepair k pc rank bank row => Sys2Proof.Machine.execRowRepair k pc rank bank row s
  | .frameRetire k frame => Sys2Proof.Machine.execFrameRetire k frame s
  | .caskPoisonFillDone k => Sys2Proof.Machine.execCaskPoisonFillDone k s
  | .tgStart who k pc ctl => Sys2Proof.Machine.execTgStart who k pc ctl s
  | .tgStop who k pc => Sys2Proof.Machine.execTgStop who k pc s
  | .tgRunEnd k pc => Sys2Proof.Machine.execTgRunEnd k pc s
  | .routerReceive r p input h0 h1 payload => Sys2Proof.Machine.execRouterReceive r p input h0 h1 payload s
  | .tasterRecordSend n => Sys2Proof.Machine.execTasterRecordSend n s
  | .routeEntryWrite who ni d v => Sys2Proof.Machine.execRouteEntryWrite who ni d v s
  | .routeChangeApply ni d => Sys2Proof.Machine.execRouteChangeApply ni d s
  | .tagTimeout ni tag => Sys2Proof.Machine.execTagTimeout ni tag s
  | .tagQuarantineEnd ni tag => Sys2Proof.Machine.execTagQuarantineEnd ni tag s
  | .bungRegWrite who ni v => Sys2Proof.Machine.execBungRegWrite who ni v s
  | .bungRelease ni => Sys2Proof.Machine.execBungRelease ni s
  | .endpointDomainReset d => Sys2Proof.Machine.execEndpointDomainReset d s
  | .partitionReset ds => Sys2Proof.Machine.execPartitionReset ds s
  | .linkRetire r p d => Sys2Proof.Machine.execLinkRetire r p d s
  | .linkHealthWindowEnd r p d => Sys2Proof.Machine.execLinkHealthWindowEnd r p d s
  | .regulatorWindowEnd => Sys2Proof.Machine.execRegulatorWindowEnd s
  | .niInject ni q data => Sys2Proof.Machine.execNiInject ni q data s
  | .budgetWrite who ni c v => Sys2Proof.Machine.execBudgetWrite who ni c v s
  | .ownerWrite who k g v => Sys2Proof.Machine.execOwnerWrite who k g v s
  | .shareWrite who k a v => Sys2Proof.Machine.execShareWrite who k a v s
  | .frameReceive a m toHub cw0 cw1 payload => Sys2Proof.Machine.execFrameReceive a m toHub cw0 cw1 payload s
  | .ident a w => Sys2Proof.Machine.execIdent a w s
  | .idreq a => Sys2Proof.Machine.execIdreq a s
  | .identTimeout a => Sys2Proof.Machine.execIdentTimeout a s
  | .caprd si idx => Sys2Proof.Machine.execCaprd si idx s
  | .capdat si w => Sys2Proof.Machine.execCapdat si w s
  | .capset si w => Sys2Proof.Machine.execCapset si w s
  | .capack si w => Sys2Proof.Machine.execCapack si w s
  | .budget si w => Sys2Proof.Machine.execBudget si w s
  | .report si w => Sys2Proof.Machine.execReport si w s
  | .retrain a toHub w => Sys2Proof.Machine.execRetrain a toHub w s
  | .lost a m toHub w => Sys2Proof.Machine.execLost a m toHub w s
  | .sidebandFence a w => Sys2Proof.Machine.execSidebandFence a w s
  | .remap a w => Sys2Proof.Machine.execRemap a w s
  | .linkTrain a m => Sys2Proof.Machine.execLinkTrain a m s
  | .linkTrainDone a m tries => Sys2Proof.Machine.execLinkTrainDone a m tries s
  | .laneCorrectedThreshold a m toHub lane => Sys2Proof.Machine.execLaneCorrectedThreshold a m toHub lane s
  | .laneHourEnd a m toHub => Sys2Proof.Machine.execLaneHourEnd a m toHub s
  | .baselineCaptured a m toHub => Sys2Proof.Machine.execBaselineCaptured a m toHub s
  | .judgedRetrain a m urgent => Sys2Proof.Machine.execJudgedRetrain a m urgent s
  | .moduleFailure a m => Sys2Proof.Machine.execModuleFailure a m s
  | .graftRequest si q => Sys2Proof.Machine.execGraftRequest si q s
  | .graftResponse si m tag st data => Sys2Proof.Machine.execGraftResponse si m tag st data s
  | .apertureRequest si q src data => Sys2Proof.Machine.execApertureRequest si q src data s
  | .graftAnswerOverdue si m tag => Sys2Proof.Machine.execGraftAnswerOverdue si m tag s
  | .gateRuleWrite who si rule word v => Sys2Proof.Machine.execGateRuleWrite who si rule word v s
  | .gateCtlWrite who si v => Sys2Proof.Machine.execGateCtlWrite who si v s
  | .graftFence si cause => Sys2Proof.Machine.execGraftFence si cause s
  | .graftSecondEnd si => Sys2Proof.Machine.execGraftSecondEnd si s
  | .admission si e => Sys2Proof.Machine.execAdmission si e s
  | .admissionStepTimeout si step => Sys2Proof.Machine.execAdmissionStepTimeout si step s
  | .graftReadmit si => Sys2Proof.Machine.execGraftReadmit si s
  | .hostControlAccess e wr off size data => Sys2Proof.Machine.execHostControlAccess e wr off size data s
  | .segmentWrite e n v => Sys2Proof.Machine.execSegmentWrite e n v s
  | .apertureRead e off len => Sys2Proof.Machine.execApertureRead e off len s
  | .apertureWrite e off data poisoned => Sys2Proof.Machine.execApertureWrite e off data poisoned s
  | .doorbellWrite e off size data poisoned => Sys2Proof.Machine.execDoorbellWrite e off size data poisoned s
  | .warmResetRequest e => Sys2Proof.Machine.execWarmResetRequest e s
  | .hostWindowRequest e q => Sys2Proof.Machine.execHostWindowRequest e q s
  | .hostCompletion e id k data => Sys2Proof.Machine.execHostCompletion e id k data s
  | .hostCompletionTimeout e id => Sys2Proof.Machine.execHostCompletionTimeout e id s
  | .hostRequestHubTimeout e id => Sys2Proof.Machine.execHostRequestHubTimeout e id s
  | .msixTrigger e vec => Sys2Proof.Machine.execMsixTrigger e vec s
  | .msixUnmask e u => Sys2Proof.Machine.execMsixUnmask e u s
  | .hostLinkDown e => Sys2Proof.Machine.execHostLinkDown e s
  | .fundamentalReset e => Sys2Proof.Machine.execFundamentalReset e s
  | .hotReset e => Sys2Proof.Machine.execHotReset e s
  | .flr e => Sys2Proof.Machine.execFlr e s
  | .endpointStart e => Sys2Proof.Machine.execEndpointStart e s
  | .endpointUncorrectable e => Sys2Proof.Machine.execEndpointUncorrectable e s
  | .ctxcreate b x => Sys2Proof.Machine.execCtxcreate b x s
  | .ctxdestroy b x => Sys2Proof.Machine.execCtxdestroy b x s
  | .ctxabort b x => Sys2Proof.Machine.execCtxabort b x s
  | .ctxpreempt b x => Sys2Proof.Machine.execCtxpreempt b x s
  | .qenable b q => Sys2Proof.Machine.execQenable b q s
  | .qdisable b q => Sys2Proof.Machine.execQdisable b q s
  | .qresume b q => Sys2Proof.Machine.execQresume b q s
  | .farm b f => Sys2Proof.Machine.execFarm b f s
  | .fsignal b f => Sys2Proof.Machine.execFsignal b f s
  | .fabandon b f => Sys2Proof.Machine.execFabandon b f s
  | .fdisarm b f => Sys2Proof.Machine.execFdisarm b f s
  | .contextSlotWrite who x word v => Sys2Proof.Machine.execContextSlotWrite who x word v s
  | .queueSlotWrite who q word v => Sys2Proof.Machine.execQueueSlotWrite who q word v s
  | .fenceCfgWrite who f word v => Sys2Proof.Machine.execFenceCfgWrite who f word v s
  | .doorbell q tail => Sys2Proof.Machine.execDoorbell q tail s
  | .coreDoorbell who q v => Sys2Proof.Machine.execCoreDoorbell who q v s
  | .ringEntryFetch q => Sys2Proof.Machine.execRingEntryFetch q s
  | .fenceSignal src f v => Sys2Proof.Machine.execFenceSignal src f v s
  | .abortStepsDone x => Sys2Proof.Machine.execAbortStepsDone x s
  | .positionRelease c => Sys2Proof.Machine.execPositionRelease c s
  | .walkStep id st poison entry => Sys2Proof.Machine.execWalkStep id st poison entry s
  | .faultBatchClose si => Sys2Proof.Machine.execFaultBatchClose si s
  | .faultQueueWrite who si word v => Sys2Proof.Machine.execFaultQueueWrite who si word v s
  | .invctx b idx => Sys2Proof.Machine.execInvctx b idx s
  | .invva b idx => Sys2Proof.Machine.execInvva b idx s
  | .invslice b idx => Sys2Proof.Machine.execInvslice b idx s
  | .invipa b idx => Sys2Proof.Machine.execInvipa b idx s
  | .invall b idx => Sys2Proof.Machine.execInvall b idx s
  | .xresume b idx => Sys2Proof.Machine.execXresume b idx s
  | .invalidationComplete b => Sys2Proof.Machine.execInvalidationComplete b s
  | .slcreate b si => Sys2Proof.Machine.execSlcreate b si s
  | .slfreeze b si => Sys2Proof.Machine.execSlfreeze b si s
  | .slthaw b si => Sys2Proof.Machine.execSlthaw b si s
  | .slbottle b si => Sys2Proof.Machine.execSlbottle b si s
  | .sluncork b si => Sys2Proof.Machine.execSluncork b si s
  | .slreset b si => Sys2Proof.Machine.execSlreset b si s
  | .slremove b si => Sys2Proof.Machine.execSlremove b si s
  | .sliceEntryWrite who si word v => Sys2Proof.Machine.execSliceEntryWrite who si word v s
  | .freezeTick si => Sys2Proof.Machine.execFreezeTick si s
  | .freezeComplete si => Sys2Proof.Machine.execFreezeComplete si s
  | .securityVersionCommit v => Sys2Proof.Machine.execSecurityVersionCommit v s
  | .attestationRequest ch req => Sys2Proof.Machine.execAttestationRequest ch req s
  | .attestationSigned => Sys2Proof.Machine.execAttestationSigned s
  | .signBucketRefill => Sys2Proof.Machine.execSignBucketRefill s
  | .signTreeBuilt => Sys2Proof.Machine.execSignTreeBuilt s
  | .keySlotWrite slot v => Sys2Proof.Machine.execKeySlotWrite slot v s
  | .keySlotSweepSub slot v => Sys2Proof.Machine.execKeySlotSweepSub slot v s
  | .keySlotRetireDrained slot => Sys2Proof.Machine.execKeySlotRetireDrained slot s
  | .powerOnReset straps => Sys2Proof.Machine.execPowerOnReset straps s
  | .cooperStageDone r => Sys2Proof.Machine.execCooperStageDone r s
  | .cooperWatchdogExpire => Sys2Proof.Machine.execCooperWatchdogExpire s
  | .recoveryEnter => Sys2Proof.Machine.execRecoveryEnter s
  | .loaderImageDelivered img => Sys2Proof.Machine.execLoaderImageDelivered img s
  | .imageWrite img => Sys2Proof.Machine.execImageWrite img s
  | .imageProgramDone ok => Sys2Proof.Machine.execImageProgramDone ok s
  | .licenceWrite lic => Sys2Proof.Machine.execLicenceWrite lic s
  | .warmReset => Sys2Proof.Machine.execWarmReset s
  | .firmwareBroadcast manifest got => Sys2Proof.Machine.execFirmwareBroadcast manifest got s
  | .firmwareResendRound got => Sys2Proof.Machine.execFirmwareResendRound got s
  | .read ch r => Sys2Proof.Machine.execRead ch r s
  | .write ch r => Sys2Proof.Machine.execWrite ch r s
  | .desc ch r => Sys2Proof.Machine.execDesc ch r s
  | .list ch r => Sys2Proof.Machine.execList ch r s
  | .mailboxGo e => Sys2Proof.Machine.execMailboxGo e s
  | .transferExpire index sub => Sys2Proof.Machine.execTransferExpire index sub s
  | .mgmtAddressApply => Sys2Proof.Machine.execMgmtAddressApply s
  | .restoreDefaults v => Sys2Proof.Machine.execRestoreDefaults v s
  | .railMeasureUpdate volts amps => Sys2Proof.Machine.execRailMeasureUpdate volts amps s
  | .substitutionRequest si v => Sys2Proof.Machine.execSubstitutionRequest si v s
  | .budgetPeriod m => Sys2Proof.Machine.execBudgetPeriod m s
  | .budgetMissingFallback si => Sys2Proof.Machine.execBudgetMissingFallback si s
  | .railSample r => Sys2Proof.Machine.execRailSample r s
  | .timebaseStep who v => Sys2Proof.Machine.execTimebaseStep who v s
  | .ptpOffsetMeasure m => Sys2Proof.Machine.execPtpOffsetMeasure m s
  | .ptpHoldoverEnter meanRate => Sys2Proof.Machine.execPtpHoldoverEnter meanRate s
  | .ptpHoldoverLimit => Sys2Proof.Machine.execPtpHoldoverLimit s
  | .ptpDomainWrite v => Sys2Proof.Machine.execPtpDomainWrite v s
  | .obsEnableWrite v => Sys2Proof.Machine.execObsEnableWrite v s
  | .tasterCtlWrite n v => Sys2Proof.Machine.execTasterCtlWrite n v s
  | .sinkCfgWrite n base cfg => Sys2Proof.Machine.execSinkCfgWrite n base cfg s
  | .counterCopy => Sys2Proof.Machine.execCounterCopy s
  | .halt => Sys2Proof.Machine.execHalt s
  | .resume => Sys2Proof.Machine.execResume s
  | .jtagRegacc wr pa data => Sys2Proof.Machine.execJtagRegacc wr pa data s
  | .jtagHalt v => Sys2Proof.Machine.execJtagHalt v s
  | .jtagLoaderWord idx data => Sys2Proof.Machine.execJtagLoaderWord idx data s
  | .hubControllerWatchdog field n => Sys2Proof.Machine.execHubControllerWatchdog field n s
  | .mgdWatchdog => Sys2Proof.Machine.execMgdWatchdog s
  | .classFFault code die => Sys2Proof.Machine.execClassFFault code die s
  | .sysclkLoss => Sys2Proof.Machine.execSysclkLoss s
  | .heartbeatRefresh => Sys2Proof.Machine.execHeartbeatRefresh s
  | .heartbeatSend => Sys2Proof.Machine.execHeartbeatSend s
  | .pair m => Sys2Proof.Machine.execPair m s
  | .confirm kit na nb tagOk seq => Sys2Proof.Machine.execConfirm kit na nb tagOk seq s
  | .hb m tagOk seq => Sys2Proof.Machine.execHb m tagOk seq s
  | .twinData entry moff pois tag data gap => Sys2Proof.Machine.execTwinData entry moff pois tag data gap s
  | .pushack tag st bytes tagOk seq => Sys2Proof.Machine.execPushack tag st bytes tagOk seq s
  | .journal rec tagOk seq => Sys2Proof.Machine.execJournal rec tagOk seq s
  | .failover cause tagOk seq => Sys2Proof.Machine.execFailover cause tagOk seq s
  | .roleack role tagOk seq => Sys2Proof.Machine.execRoleack role tagOk seq s
  | .restreq entry off len tag tagOk seq => Sys2Proof.Machine.execRestreq entry off len tag tagOk seq s
  | .heartbeatCheck => Sys2Proof.Machine.execHeartbeatCheck s
  | .leaseExpire => Sys2Proof.Machine.execLeaseExpire s
  | .promotionTimeout => Sys2Proof.Machine.execPromotionTimeout s
  | .mirrorEntryWrite n v => Sys2Proof.Machine.execMirrorEntryWrite n v s
  | .push req => Sys2Proof.Machine.execPush req s
  | .journalWrite rec => Sys2Proof.Machine.execJournalWrite rec s
  | .restore req => Sys2Proof.Machine.execRestore req s
  | .switchover v => Sys2Proof.Machine.execSwitchover v s
  | .mirrorRepairUpgrade => Sys2Proof.Machine.execMirrorRepairUpgrade s
  | .registerWrite who r v => Sys2Proof.Machine.execRegisterWrite who r v s
  | .porNAssert => Sys2Proof.Machine.execPorNAssert s
  | .internalResetRelease => Sys2Proof.Machine.execInternalResetRelease s
  | .hostConfigWrite e f v => Sys2Proof.Machine.execHostConfigWrite e f v s
  | .hostLinkUp e => Sys2Proof.Machine.execHostLinkUp e s
  | .pcieLinkError e err => Sys2Proof.Machine.execPcieLinkError e err s
  | .twinLinkUp => Sys2Proof.Machine.execTwinLinkUp s
  | .twinLinkDown => Sys2Proof.Machine.execTwinLinkDown s
  | .managementLinkUp => Sys2Proof.Machine.execManagementLinkUp s
  | .dieTemperatureSample die temp => Sys2Proof.Machine.execDieTemperatureSample die temp s
  | .overtempHoldEnd => Sys2Proof.Machine.execOvertempHoldEnd s
  | .mgdBufferScrub ch => Sys2Proof.Machine.execMgdBufferScrub ch s
  | .idlePatternCheck r p d ok => Sys2Proof.Machine.execIdlePatternCheck r p d ok s
  | .jtagIrUpdate ir => Sys2Proof.Machine.execJtagIrUpdate ir s
  | .unknownSidebandMessage a m toHub code => Sys2Proof.Machine.execUnknownSidebandMessage a m toHub code s

end Sys2Proof.Machine
end

