-- ==== Sys2Proof/Machine/Tick.lean ====
section
/-! DEFINITION. What happens when a nanosecond passes with no command waiting. -/

namespace Sys2Proof.Machine

/-- The timebase and the port engine's interval counter advance by a nanosecond (R515, R565). -/
def State.timeOn (s : State) : State := {s with time := {s.time with now := s.time.now + 1, ivl := s.time.ivl + 1}}

/-- One nanosecond while the package runs: time advances, packets that aged leave their routers (R236), and the host
accesses that waited for an aperture write follow it (R272). Every other effect of time is a command of its own (DESIGN
CHOICE, log 6). -/
def State.tick (s : State) : State :=
  if s.boot.running then ((s.timeOn.trellisRun).hostGo .ioa).hostGo .iob else s

end Sys2Proof.Machine
end

