-- ==== Sys2Proof/Machine/Step.lean ====
section
/-! DEFINITION. One step of the package: the command at the front of the queue, or a tick of its clock. -/

namespace Sys2Proof.Machine

/-- The command at the front, run with the rest of the queue; on an empty queue one nanosecond passes (log 6). -/
def step (s : State) : Host.Outcome State Fault Refusal :=
  match s.pending with
  | [] => .next s.tick
  | c :: rest => exec c {s with pending := rest}

/-- The state with the command a word spells put at the front of its queue. -/
def State.withFetchWord (s : State) (nbits w : Nat) : State :=
  match Sys2Proof.decodeTableWord nbits w with
  | some c => {s with pending := c :: s.pending}
  | none => s

end Sys2Proof.Machine
end

