-- ==== Sys2Proof/Safety.lean ====
section
/-! DEFINITION. The terms the statements use: a step that answers a next state, an access that finds everything it
needs, and what a command leaves unchanged. -/

namespace Sys2Proof.Machine

/-- A step that neither faults nor is refused. -/
abbrev Runs (s t : State) : Prop := step s = .next t

/-- The access `op` of thread h finds in `s` all it needs: the thread issues, no press entry holds its registers, an
atomic is aligned, its pieces are located (in state `s'`, after the translation caches were used) at `ls`, all in scratch
or in cask lines that the die holds (in M where the access needs it), and no byte read is poisoned (R98, R122, R254,
R268). -/
structure Ready (s : State) (h : Hart) (op : MemOp) (ls : List LPiece) (s' : State) : Prop where
  issues : s.canIssue h = true
  regs : (s.coreOf (hartCore h)).vregBusy (hartThr h) (op.vregs (s.thrOf h)).1 (op.vregs (s.thrOf h)).2 = false
  aligned : op.atomic = true → ∀ p ∈ op.pieces (s.thrOf h), p.va % op.size = 0
  located : s.locateAll h op.acc (op.pieces (s.thrOf h)) = (ls.map (fun l => (l.1, .loc l.2)), s')
  plain : ∀ l ∈ ls, l.2.posted = false ∧ ∀ o, l.2 ≠ .reg o
  held : ∀ l ∈ pieceLines ls, ∃ ln, tfind (s'.dieOf (hartSite h)).l2 l.1 = some ln ∧ (op.excl = true → ln.st = .m)
  clean : (s'.gather h ls).2 = false

/-- Every memory of the package has its canonical form. -/
def State.Canonical (s : State) : Prop :=
  (∀ d ∈ s.die, ∀ c ∈ d.2.core, c.2.scratch.wf) ∧ (∀ k ∈ s.cask, k.2.mem.wf)
    ∧ ∀ e, (s.epOf e).mbox.req.wf ∧ (s.epOf e).mbox.rsp.wf

/-- No located piece covers byte `a` of the scratch. -/
def Clear (ls : List LPiece) (a : Nat) : Prop := ∀ l ∈ ls, ∀ o, l.2 = .scratch o → a < o ∨ o + l.1.len ≤ a

/-- Every thread but one is as it was. -/
def OtherThreads (s t : State) (h : Hart) : Prop := ∀ g, g ≠ h → t.thrOf g = s.thrOf g

/-- The bytes every core's scratch and every die's L2 lines hold are as they were. -/
def MemorySame (s t : State) : Prop :=
  (∀ c, (t.coreOf c).scratch = (s.coreOf c).scratch) ∧ (∀ x, (t.dieOf x).l2 = (s.dieOf x).l2) ∧ t.cask = s.cask

/-- A request that its home agent takes and can perform alone: it is granted, lies in a cask's usable range, waits behind
no blocked line and no parked request, no caching agent holds any of its lines, no reserve copy stands behind them, and
its sender's bung is open (R186, R209, R259, R261, R266). -/
structure Alone (s : State) (r : HomeReq) (wr : Bool) : Prop where
  granted : (s.reqStatus r wr).1 = .ok
  usable : ∀ l ∈ r.homeLines, regionOf (64 * l) = .usable (r.q.pa.toNat / 2 ^ 36) (64 * l % 2 ^ 36)
  unblocked : (s.caskOf (r.q.pa.toNat / 2 ^ 36)).mustPark r = false
  answering : s.bunged r.q.src.toNat = false ∧ r.q.src ≠ agentNi
  unheld : ∀ l ∈ r.homeLines, (s.caskOf (r.q.pa.toNat / 2 ^ 36)).dirFind l = none
  uncopied : s.primaryOf r.q.pa.toNat = none ∧ ∀ l ∈ r.homeLines, s.primaryOf (64 * l) = none

/-- One more message of a kind left. -/
def Sent (s t : State) (m : Msg) : Prop := t.out.count m = s.out.count m + 1
/-- One response to a request left its home agent (R227). -/
def Answered (s t : State) (r : HReq) (st : Status) (data : List (Sector × Bool)) : Prop :=
  Sent s t (.rsp (homeNi r) r.src.toNat r.tag.toNat st data)

/-- The cask and the sector of an address. -/
def State.caskAt (s : State) (pa : PA) : Cask := s.caskOf (pa.toNat / 2 ^ 36)
def secOf (pa : PA) : Nat := pa.toNat % 2 ^ 36 / 64

/-- A die takes a secondary request for the line of an address at once: no bung, no read of the line outstanding, no hold
on it (R263). -/
def State.servesNow (s : State) (x : Site) (pa : PA) : Prop :=
  s.bunged (niSite x.val (l2Module pa.toNat)) = false ∧ s.isGraft x.val = false
    ∧ (∀ m ∈ (s.dieOf x.val).miss, m.line ≠ pa.toNat / 64) ∧ (∀ p ∈ (s.dieOf x.val).pinned, p.1 ≠ pa.toNat / 64)
    ∧ ∀ q ∈ (s.dieOf x.val).deferred, q.line ≠ pa.toNat / 64

/-- A request of the cellar book that its channel takes and the package's state lets be performed: the cooper or the
cellar master serves it, it is well formed, of version 1 and within the segment limit, and no kept response matches it
(R486, R489, R491, R492). -/
structure State.BookTakes (s : State) (ch : CbChan) (op : Nat) (r : CbReq) : Prop where
  version : r.ver = 1
  fits : op = 2 → r.length.toNat ≤ chanLimit ch
  ready : s.notReady op r.index.toNat r.sub.toNat = false
  cooper : s.boot.recovery = false
  waiting : ∀ e, ch = .mbox e → (s.epOf e).mbox.busy = true
  served : ∀ a p, ch = .net a p → s.bookServed = true ∧ cbMalformed r (op = 2) = false ∧ s.keptFor ch r = none

/-- The book's answer to a request was sent. -/
def BookSaid (t : State) (ch : CbChan) (op : Nat) (r : CbReq) (st total : Nat) (data : List Byte) : Prop :=
  .book ch op r.txid.toNat r.index.toNat r.sub.toNat st r.offset.toNat total data ∈ t.out

/-- A twin control frame is taken: the lanes are up, a session has its keys, its tag verifies, and its number is above the
last one taken (R454). -/
structure State.TwinTakes (s : State) (tagOk : Bool) (seq : Nat) : Prop where
  lanes : s.twin.lanes = true
  enabled : s.twin.st ≠ .disabled
  keyed : s.twin.keys ≠ []
  tag : tagOk = true
  fresh : ∀ n, tfind s.twin.rxSeq (s.twin.inKey 2) = some n → n < seq

end Sys2Proof.Machine
end

