-- ==== Sys2Proof/Certificates/Slice0/Obligations.lean ====
section
/-! DEFINITION. The statements for the provers. -/

open Sys2Proof Sys2Proof.Machine

/-- The press and decanter commands. -/
def pressRows : List (Hart → BitVec 32 → Instr) :=
  [.pmac, .pmacz, .pmacv, .pmaczv, .pzero, .pld, .pst, .prdv, .pwrv, .pstc, .dinit, .dkv, .dfin, .dsave, .dload]
/-- The conversion commands. -/
def convRows : List (Hart → BitVec 32 → Instr) := [.vpackF, .vpackX, .vunpack, .vmxscl, .vmxenc, .vmxdec]

/-- The engine commands with the `op` each performs. -/
def engineRows : List ((EngId → Instr) × Nat) :=
  [(.copy, 0), (.stride, 1), (.tile2d, 2), (.zero, 3), (.reduce, 4), (.merge, 5), (.kvcvt, 6)]

/-- The commands of the context, queue and fence command blocks with their `op`. -/
def cmdRows (b : Fin 4) (x : CtxId) (q : QId) (f : FenceId) : List Instr :=
  [.ctxcreate b x, .ctxdestroy b x, .ctxabort b x, .ctxpreempt b x, .qenable b q, .qdisable b q, .qresume b q, .farm b f,
   .fsignal b f, .fabandon b f, .fdisarm b f]

/-- A step on a waiting command is that command's effect with the rest of the queue. -/
def Obligations.StepRunsFront : Prop :=
  ∀ (c : Instr) (rest : List Instr) (s : State), s.pending = c :: rest →
    Machine.step s = exec c {s with pending := rest}

/-- A step with no command waiting lets one nanosecond pass while the package runs (the model's choice, log 6): the
timebase advances, then packets leave their routers and the host accesses that waited go on; where nothing of these
waits, nothing else changes. No command of the table faults or is refused: each answers a next state in every state of
the package. -/
def Obligations.StepsComplete : Prop :=
  (∀ s : State, s.pending = [] →
    let u := {s with time := {s.time with now := s.time.now + 1, ivl := s.time.ivl + 1}}
    (s.boot.running = false → Machine.step s = .next s)
    ∧ (s.boot.running = true → Machine.step s = .next ((u.trellisRun.hostGo .ioa).hostGo .iob))
    ∧ (s.boot.running = true → (∀ b ∈ s.trellis.buf, b.2 = []) → s.ioa.later = [] → s.iob.later = [] →
        Machine.step s = .next u))
  ∧ (∀ (c : Instr) (s : State), ∃ t, exec c s = .next t)

/-- A command leaves the queue of waiting commands alone, so a step on a waiting command takes exactly that one. -/
def Obligations.QueueKept : Prop :=
  ∀ (c : Instr) (s t : State), exec c s = .next t → t.pending = s.pending

/-- Every memory of the package keeps its canonical form in every step: strictly rising addresses, no entry equal to
what an unlisted address reads as. -/
def Obligations.MemoryCanonical : Prop :=
  ∀ s t : State, s.Canonical → Machine.step s = .next t → t.Canonical

/-- Reset leaves every memory in its canonical form. The state after reset: the block waits in power-on reset with
nothing pending and nothing sent; the timebase reads 0 and is not locked; no observation, no halt, no role; every
context and slice is FREE, every queue OFF, no fence armed, no command block busy, and the sticky flags are clear
(R84, R345, R369, R375, R416, R419, R447, R515, R523, R538). -/
def Obligations.ResetState : Prop :=
  (State.reset.Canonical)
  ∧ (let s := State.reset
  s.pending = [] ∧ s.out = [] ∧ s.boot.ready = false ∧ s.boot.running = false ∧ s.boot.gen = 0 ∧ s.time.now = 0
    ∧ s.time.tlock = false ∧ s.obs.en = 0 ∧ s.obs.halted = 0 ∧ s.obs.smask = 0 ∧ s.twin.role = 0
    ∧ (∀ c, (s.coreOf c).pstat.toNat = 0) ∧ (∀ x, (s.ctxOf x).state = .free) ∧ (∀ q, (s.queueOf q).state = .off)
    ∧ (∀ f, (s.fenceOf f).armed = false ∧ (s.fenceOf f).value = 0) ∧ (∀ x, (s.sliceOf x).state = .free)
    ∧ (∀ b, (s.cmdOf b).busy = false ∧ (s.xcmdOf b).busy = false ∧ (s.scmdOf b).busy = false)
    ∧ (∀ i, (s.slotOf i).state = 0 ∧ (s.slotOf i).pend = false) ∧ s.sec.sticky = 0 ∧ s.power.fault = false)

/-- LOAD, STORE, LR, SC and AMO with everything at hand retire at once (R98, R99, R268): a load writes its destination
from the bytes read; a store writes its bytes; LR reserves; SC stores and answers 0 while it holds the reservation,
else answers 1; an AMO answers the old value and stores the new one. A store, SC or AMO that retires leaves alone
every scratch byte outside the bytes it stores to, every other core's scratch, every line it does not store to, every
other die's lines and the casks. A store of a register of 2^lg B to scratch, within one page: each of its bytes reads
back as stored (R14, R98). -/
def Obligations.LoadsAndStores : Prop :=
  (∀ (h : Hart) (n : ILen) (rd rs1 rs2 : RegNo) (imm : BitVec 12) (s s' : State) (ls : List LPiece),
    let t := s.thrOf h
    let bs := (s'.gather h ls).1
    (∀ dst, dst ≠ .fetch → t.loadLegal dst = true → Ready s h (.load n (t.addr rs1 imm) dst) ls s' →
      exec (.load h n rs1 imm dst) s = .next (((s'.retireMem h n (·.loadResult dst bs)).unpin h ls).modDie (hartSite h)
        (fun d => {d with posted := d.posted.filter (fun p => !(p.hart = h && !p.wr))})))
    ∧ (∀ src, t.storeLegal src = true → Ready s h (.store n (t.addr rs1 imm) src) ls s' →
      exec (.store h n rs1 imm src) s = .next
        (((s'.scatter h ls ((s'.thrOf h).storeBytes src)).retireMem h n (storeAfter src)).unpin h ls))
    ∧ (∀ dbl, Ready s h (.lr rd dbl (t.xr rs1).toNat) ls s' →
      exec (.lr h rd rs1 dbl) s = .next (s'.retireMem h .four (fun t =>
        {t.setX rd (extend (if dbl then 3 else 2) true (leNat bs)) with resv := firstKey ls})))
    ∧ (∀ dbl, Ready s h (.sc rd rs2 dbl (t.xr rs1).toNat) ls s' → (s'.thrOf h).resv = firstKey ls →
      exec (.sc h rd rs1 rs2 dbl) s = .next
        (((s'.scatter h ls (leBytes (if dbl then 8 else 4) ((s'.thrOf h).xr rs2).toNat)).retireMem h .four
          (fun t => {t.setX rd 0 with resv := none})).unpinAll h))
    ∧ (∀ dbl, Ready s h (.sc rd rs2 dbl (t.xr rs1).toNat) ls s' → (s'.thrOf h).resv ≠ firstKey ls →
      exec (.sc h rd rs1 rs2 dbl) s = .next
        ((s'.retireMem h .four (fun t => {t.setX rd 1 with resv := none})).unpinAll h))
    ∧ (∀ op dbl, Ready s h (.amo rd rs2 op dbl (t.xr rs1).toNat) ls s' →
      let w := if dbl then 8 else 4
      exec (.threadAmo h rd rs1 rs2 op dbl) s = .next
        (((s'.scatter h ls (leBytes w (amoValue op (8 * w) (leNat bs) (((s'.thrOf h).xr rs2).toNat % 2 ^ (8 * w))))).retireMem
          h .four (fun t => t.setX rd (extend (if dbl then 3 else 2) true (leNat bs)))).unpin h ls)))
  ∧ (∀ (h : Hart) (op : MemOp) (s s' : State) (ls : List LPiece), op.acc ≠ .read → op.acc ≠ .fetch → Ready s h op ls s' →
    let t := s.memExec h op
    (∀ c a, c ≠ hartCore h ∨ Clear ls a → (t.coreOf c).scratch.read a = (s'.coreOf c).scratch.read a)
    ∧ (∀ x l, x ≠ hartSite h ∨ (∀ p ∈ pieceLines ls, p.1 ≠ l) → tfind (t.dieOf x).l2 l = tfind (s'.dieOf x).l2 l)
    ∧ t.cask = s'.cask)
  ∧ (∀ (h : Hart) (n : ILen) (rs1 rs2 : RegNo) (lg : Fin 4) (imm : BitVec 12) (s : State) (i : Nat),
    let va := ((s.thrOf h).addr rs1 imm)
    let off := va - 0x7FFFFFFF00000
    s.canIssue h = true → (s.thrOf h).pmpOk .write va (2 ^ lg.val) = true →
    0x7FFFFFFF00000 ≤ va → va + 2 ^ lg.val ≤ 0x7FFFFFFF80000 → va % 4096 + 2 ^ lg.val ≤ 4096 →
    (s.coreOf (hartCore h)).scratch.wf → i < 2 ^ lg.val →
    ∃ t, exec (.store h n rs1 imm (.x rs2 lg)) s = .next t
      ∧ (t.coreOf (hartCore h)).scratch.read (off + i) = BitVec.ofNat 8 (((s.thrOf h).xr rs2).toNat / 2 ^ (8 * i)))

/-- FENCE retires at once unless it orders earlier host-window or hub-register writes still to be answered; FENCE.I
retires at once; WFI suspends the thread where it may (R43, R273, R603). A CSR instruction on a register that is no
counter, where it is legal: the old value goes to rd, the instruction retires, and the register takes the value the
instruction makes of it. `cycflg` clears the bits that are 1 in the source operand; in machine mode `mhpmevent` keeps
a thread or core event code and takes 0 for any other, and a `pmpcfg` byte stays when it is locked or when the value
has W without R, where the instruction writes; elsewhere these two are illegal instructions (R105, R522, R526, R603).
The core-local registers (R43): a store to the thread's own `LIPEND` with bit 16 set clears the doorbell; a store to
`LTCMP` sets the timer and its pending bit; an 8 B load reads the register; an access that breaks the rules takes the
access fault of its kind. -/
def Obligations.ThreadControl : Prop :=
  (∀ (h : Hart) (pred succ : BitVec 4) (s : State), s.canIssue h = true →
    (pred.toNat / 4 = 0 ∨ (s.dieOf (hartSite h)).posted.any (fun p => p.hart = h && p.wr) = false →
      exec (.fence h pred succ) s = .next (s.modThr h (·.adv .four)))
    ∧ (pred.toNat / 4 ≠ 0 → (s.dieOf (hartSite h)).posted.any (fun p => p.hart = h && p.wr) = true →
      exec (.fence h pred succ) s = .next (s.modThr h (fun t => {t with wait := .ordered})))
    ∧ exec (.fenceI h) s = .next (s.modThr h (·.adv .four))
    ∧ ((s.thrOf h).priv ≠ 0 → ¬((s.thrOf h).priv = 1 ∧ (s.thrOf h).csrBits Csr.mstatus 21 21 = 1) →
      ∃ t, exec (.wfi h) s = .next t ∧ t.thrOf h = ({s.thrOf h with wfi := true}.adv .four).wake ∧ OtherThreads s t h
        ∧ MemorySame s t))
  ∧ (∀ (h : Hart) (op : CsrOp) (rd : RegNo) (src : CsrSrc) (csr : BitVec 12) (s : State),
    s.canIssue h = true → csrCounts csr.toNat = false → (s.thrOf h).csrLegal csr.toNat (csrWrites op src) = true →
    exec (.csrAccess h op rd src csr) s = .next (s.modCore (hartCore h) (fun c =>
      let old := c.csrRead (hartThr h) h (s.dieRev (hartSite h)) s.now csr.toNat
      let v := (s.thrOf h).csrOperand src
      let c := c.setThread (hartThr h) (((c.thread (hartThr h)).setX rd old).adv .four)
      if csrWrites op src then c.csrWrite (hartThr h) csr.toNat (csrNew op old v) v else c)))
  ∧ (∀ (h : Hart) (op : CsrOp) (rd : RegNo) (src : CsrSrc) (i : Fin 16) (j : Fin 2) (s : State),
    let v := (s.thrOf h).csrOperand src
    let c := s.coreOf (hartCore h)
    let ev := (s.thrOf h).csrRaw (0x323 + i.val)
    let cfg := (s.thrOf h).csrRaw (0x3A0 + 2 * j.val)
    let new := csrNew op ev v
    s.canIssue h = true →
    (∃ t, exec (.cycflgWrite h op rd src) s = .next t ∧ (t.coreOf (hartCore h)).cycflg = c.cycflg &&& ~~~(v.setWidth 5))
    ∧ ((s.thrOf h).priv = 3 →
      (∃ t, exec (.mhpmeventWrite h op rd src i) s = .next t ∧ (t.thrOf h).csrRaw (0x323 + i.val) =
        if csrWrites op src then (if new.toNat % 256 ≤ 0x12 then BitVec.ofNat 64 (new.toNat % 256) else 0) else ev)
      ∧ (∃ t, exec (.pmpcfgWrite h op rd src j) s = .next t ∧ (t.thrOf h).csrRaw (0x3A0 + 2 * j.val) =
        if csrWrites op src then pmpcfgWrite cfg (csrNew op cfg v) else cfg))
    ∧ ((s.thrOf h).priv.toNat < 3 → exec (.mhpmeventWrite h op rd src i) s = .next (s.trapIllegal h)
      ∧ exec (.pmpcfgWrite h op rd src j) s = .next (s.trapIllegal h)))
  ∧ (∀ (h : Hart) (n : ILen) (off : BitVec 16) (lg : Fin 4) (rd : RegNo) (v : Word) (s : State), s.canIssue h = true →
    exec (.lipendWrite h n (hartThr h) v) s = .next ((s.modThr h (fun t =>
        if v.getLsbD 16 then {t.setCsr Csr.mip (t.csrRaw Csr.mip &&& ~~~0x10000) with lqNq := 0} else t)).modThr h (·.adv n))
    ∧ exec (.ltcmpWrite h n (hartThr h) v) s = .next ((s.modThr h (fun t =>
        if s.now < v.toNat then {t with ltcmp := v}.setCsr Csr.mip (t.csrRaw Csr.mip &&& ~~~0x20000)
        else ({t with ltcmp := v}.setCsr Csr.mip (t.csrRaw Csr.mip ||| 0x20000)).wake)).modThr h (·.adv n))
    ∧ (lg.val = 3 → off.toNat % 8 = 0 → off.toNat < 0x200 →
        exec (.coreLocalAccess h n .load off lg rd v) s = .next (s.modThr h (fun t =>
          (t.setX rd ((s.coreOf (hartCore h)).localRead s.now off.toNat)).adv n)))
    ∧ (∀ kind, kind = .amo ∨ kind = .vstore ∨ (kind = .store ∧ (lg.val ≠ 3 ∨ off.toNat % 8 ≠ 0 ∨ 0x200 ≤ off.toNat)) →
        exec (.coreLocalAccess h n kind off lg rd v) s =
          .next (s.modThr h (fun t => t.trap .storeAccess (BitVec.ofNat 64 (0x7FFFFFFF80000 + off.toNat)))))
    ∧ (∀ kind, kind = .vload ∨ (kind = .load ∧ (lg.val ≠ 3 ∨ off.toNat % 8 ≠ 0 ∨ 0x200 ≤ off.toNat)) →
        exec (.coreLocalAccess h n kind off lg rd v) s =
          .next (s.modThr h (fun t => t.trap .loadAccess (BitVec.ofNat 64 (0x7FFFFFFF80000 + off.toNat))))))

/-- Every CSR instruction that writes `pstat`, register or immediate, in every mode, clears exactly the bits that are
1 in its source operand and leaves the others (R105). -/
def Obligations.PstatClears : Prop :=
  ∀ (h : Hart) (op : CsrOp) (rd : RegNo) (src : CsrSrc) (i : Nat) (s : State), s.canIssue h = true → i < 64 →
    let v := (s.thrOf h).csrOperand src
    ∃ t, exec (.pstatWrite h op rd src) s = .next t ∧ (t.coreOf (hartCore h)).pstat.toNat.testBit i
      = ((s.coreOf (hartCore h)).pstat.toNat.testBit i && !v.getLsbD i)

/-- The local timer's match sets bit 17 of `mip` and ends a `wfi` it enables; an enabled interrupt enters its handler
with the cause and the pc saved. A match before its time changes no thread and no memory, and a thread without an
enabled interrupt is left alone (R43, R135, R602). A response with OK brings the line a thread asked for into its
die's L2, in M where it was asked for in M, and the request is no longer outstanding; any other status ends the access
that still waits for the line with its access fault. A host-window or hub-register read's answer OK is kept for the
read that waits for it; a response for nothing outstanding is counted. A retired store's answer OK takes the store off
the die's list, and what waited for it alone goes on; any other status loses its context with ERRRESP (R48, R254,
R268, R601). -/
def Obligations.TimersAndResponses : Prop :=
  (∀ (h : Hart) (s : State),
    ((s.thrOf h).ltcmp.toNat ≤ s.now →
      exec (.localTimerMatch h) s = .next (s.modThr h (fun t => (t.setCsr Csr.mip (t.csrRaw Csr.mip ||| 0x20000)).wake)))
    ∧ (s.now < (s.thrOf h).ltcmp.toNat → ∃ t, exec (.localTimerMatch h) s = .next t ∧ (∀ g, t.thrOf g = s.thrOf g)
        ∧ MemorySame s t)
    ∧ ((s.thrOf h).irqPick s.now = none → exec (.threadInterrupt h) s = .next s)
    ∧ (∀ i, (s.thrOf h).irqPick s.now = some i → (s.thrOf h).wait = .none → s.siteHalted (hartSite h) = false →
        (s.coreOf (hartCore h)).saving = false →
        ∃ t, exec (.threadInterrupt h) s = .next t ∧ t.thrOf h = (s.thrOf h).enterTrap true i 0
          ∧ (if bit ((s.thrOf h).csrRaw Csr.mideleg).toNat i && (s.thrOf h).priv ≠ 3
             then (t.thrOf h).priv = 1 ∧ (t.thrOf h).csrRaw Csr.sepc = (s.thrOf h).pc
               ∧ (t.thrOf h).csrRaw Csr.scause = BitVec.ofNat 64 (i + 2 ^ 63)
             else (t.thrOf h).priv = 3 ∧ (t.thrOf h).csrRaw Csr.mepc = (s.thrOf h).pc
               ∧ (t.thrOf h).csrRaw Csr.mcause = BitVec.ofNat 64 (i + 2 ^ 63))
          ∧ OtherThreads s t h ∧ MemorySame s t))
  ∧ (∀ (h : Hart) (tag : BitVec 12) (st : Status) (poison : Bool) (v : Sector) (s : State),
    let x := hartSite h
    let d := s.dieOf x
    let drop := fun (d : Die) => {d with posted := d.posted.filter (fun q => q.tag ≠ tag.toNat || q.hart ≠ h)}
    (∀ m, d.miss.find? (fun m => m.tag = tag.toNat && m.hart = h) = some m → (∀ g, (s.thrOf g).wait = .none) →
      ∃ t, exec (.coreResponse h tag .ok poison [v]) s = .next t
        ∧ (∃ ln, tfind (t.dieOf x).l2 m.line = some ln ∧ ln.data = v ∧ (ln.st = if m.excl then .m else .s)
            ∧ (poison = true → ln.pois = true))
        ∧ (∀ q ∈ (t.dieOf x).miss, ¬(q.tag = tag.toNat ∧ q.hart = h)))
    ∧ (∀ m op, d.miss.find? (fun m => m.tag = tag.toNat && m.hart = h) = some m → st ≠ .ok → m.live = true →
      s.current m.own = true → (s.thrOf h).wait = .mem op → (∀ g, g ≠ h → (s.thrOf g).wait = .none) →
      ∃ t, exec (.coreResponse h tag st poison [v]) s = .next t
        ∧ t.thrOf h = (s.thrOf h).trap op.fault (BitVec.ofNat 64 m.va) ∧ (t.dieOf x).l2 = d.l2)
    ∧ (∀ p, d.miss.find? (fun m => m.tag = tag.toNat && m.hart = h) = none →
      d.posted.find? (fun p => p.tag = tag.toNat && p.hart = h && !p.wr && p.sent && p.data.isNone) = some p →
      s.current p.own = true → p.live = true → (∀ g, (s.thrOf g).wait = .none) →
      ∃ t, exec (.coreResponse h tag .ok false [v]) s = .next t
        ∧ ∃ r ∈ (t.dieOf x).posted, r.tag = tag.toNat ∧ r.hart = h ∧ r.data = some (p.answerBytes [v]))
    ∧ (d.miss.find? (fun m => m.tag = tag.toNat && m.hart = h) = none →
      d.posted.find? (fun p => p.tag = tag.toNat && p.hart = h && !p.wr && p.sent && p.data.isNone) = none →
      exec (.coreResponse h tag st poison [v]) s = .next (s.modTrellis (fun t => {t with rspDisc := t.rspDisc + 1})))
    ∧ (∀ p, d.posted.find? (fun p => p.tag = tag.toNat && p.hart = h && p.wr && p.sent) = some p →
      s.current p.own = true →
      exec (.hostStoreAnswer h tag .ok) s =
        .next ((((s.modDie x drop).releaseFor h tag.toNat).adapterIssue x).replay h)
      ∧ (∀ c n, st ≠ .ok → p.own = some (c, n) → exec (.hostStoreAnswer h tag st) s =
        .next ((((s.modDie x drop).ctxLose c .errresp).adapterIssue x).replay h))
      ∧ ((s.thrOf h).wait = .none → d.held = [] → (∀ q ∈ d.posted, q.sent = true) →
        exec (.hostStoreAnswer h tag .ok) s = .next (s.modDie x (fun d => {drop d with held := []}))))
    ∧ (d.posted.find? (fun p => p.tag = tag.toNat && p.hart = h && p.wr && p.sent) = none →
      exec (.hostStoreAnswer h tag st) s = .next (s.modTrellis (fun t => {t with rspDisc := t.rspDisc + 1}))))

/-- A press or decanter instruction that raises nothing enters the queue, with its registers and CSRs captured, and
retires; with the queue full (or four `dkv` in it, for a `dkv`) its thread stalls and nothing enters (R38, R118,
R151). An exception of a press or decanter instruction is taken at issue and precisely: nothing enters the queue
(R118, R136). `pwait` retires with an empty queue, and otherwise waits for every entry that entered before it (R117). -/
def Obligations.PressIssues : Prop :=
  (∀ (row : Hart → BitVec 32 → Instr), row ∈ pressRows → ∀ (h : Hart) (w : BitVec 32) (k : PKind) (s : State),
    let c := s.coreOf (hartCore h)
    let e := capture c (hartThr h) w
    s.canIssue h = true → pkind w = some k → k ≠ .wait → pressLicensed s.boot.feat.toNat k e = true →
    pressCheck k e = none →
    (c.room k = true → exec (row h w) s = .next (s.modCore (hartCore h) (fun c =>
      { c.setThread (hartThr h) ({c.thread (hartThr h) with wait := .none}.adv .four) with
        queue := c.queue ++ [e], pseq := c.pseq + 1 })))
    ∧ (c.room k = false → exec (row h w) s = .next (s.modCore (hartCore h) (fun c =>
      { c.setThread (hartThr h) {c.thread (hartThr h) with wait := .pressIssue w} with
        stalled := c.stalled.filter (· ≠ hartThr h) ++ [hartThr h] }))))
  ∧ (∀ (row : Hart → BitVec 32 → Instr), row ∈ pressRows → ∀ (h : Hart) (w : BitVec 32) (k : PKind) (s : State)
    (cause : Cause) (v : Word),
    let c := s.coreOf (hartCore h)
    s.canIssue h = true → pkind w = some k → k ≠ .wait →
    pressLicensed s.boot.feat.toNat k (capture c (hartThr h) w) = true →
    pressCheck k (capture c (hartThr h) w) = some (cause, v) →
    exec (row h w) s = .next (s.modThr h (fun t => t.trap cause v)))
  ∧ (∀ (h : Hart) (w : BitVec 32) (s : State), s.canIssue h = true → pkind w = some .wait →
    let c := s.coreOf (hartCore h)
    (c.queue = [] → exec (.pwait h w) s = .next (s.modThr h (·.adv .four)))
    ∧ (c.queue ≠ [] → exec (.pwait h w) s = .next (s.modThr h (fun t => {t with wait := .press c.pseq}))))

/-- The first entry not yet started starts when it may, and no other entry changes; a started entry whose port no
earlier entry holds completes: its effect is put into the core and it leaves the queue (R120, R121). What a completed
`pzero` does: every element of its tile is 0, every element of another tile is as it was, and nothing else of the core
changes (R108, R112). -/
def Obligations.PressRuns : Prop :=
  (∀ (c : CoreId) (s : State), s.siteHalted (c.val / 256) = false →
    (∀ (before : List PEntry) (e : PEntry) (rest : List PEntry), (s.coreOf c.val).queue = before ++ e :: rest →
      (∀ b ∈ before, b.started = true) → e.started = false → mayStart before e = true →
      exec (.pressInstrStart c) s = .next (s.modCore c.val (fun k => {k with queue := before ++ {e with started := true} :: rest})))
    ∧ (∀ (i : Fin 16) (e : PEntry), mayComplete (s.coreOf c.val).queue i.val = some e →
      let u := s.modCore c.val (fun k =>
        let k := pressEffect k s.freeCtr e
        {k with queue := k.queue.filter (fun q => q.seq ≠ e.seq)})
      exec (.pressInstrComplete c i) s =
        .next ((if pkind e.w = some .dkv then u.coreEvent c.val 0x0B 1 else u).bump.pressWake c.val)))
  ∧ (∀ (c : Core) (ctr : Nat) (e : PEntry) (i : Nat), pkind e.w = some .zero →
    tget 0 (pressEffect c ctr e).tile i = (if i / 1024 = (rword e.w).rd ∧ i < 8192 then 0 else tget 0 c.tile i)
    ∧ pressEffect c ctr e = {c with tile := (pressEffect c ctr e).tile})

/-- Each product of 8-bit integers is added to the accumulator modulo 2^32, and a wrap sets `iov`; the result does not
depend on the order; fewer than 131,072 products from 0 never wrap, and as many full-scale ones do (R87). -/
def Obligations.IntegerAccumulation : Prop :=
  ∀ (acc : Nat) (prods other : List Int), acc < 2 ^ 32 →
    (∀ p ∈ prods, ∃ a b : Int, p = a * b ∧ -128 ≤ a ∧ a ≤ 127 ∧ -128 ≤ b ∧ b ≤ 127) →
    let r := accI32 acc prods
    r.1 = ((acc : Int) + prods.sum).emod (2 ^ 32)
    ∧ (r.2.iov = false ↔ ∀ n, n ≤ prods.length → -(2 ^ 31) ≤ intOf 32 acc + (prods.take n).sum
        ∧ intOf 32 acc + (prods.take n).sum < 2 ^ 31)
    ∧ (other.Perm prods → (accI32 acc other).1 = r.1)
    ∧ (acc = 0 → prods.length < 131072 → r.2.iov = false)
    ∧ (accI32 0 (List.replicate 131072 16384)).2.iov = true

/-- A conversion instruction that raises nothing writes its result, accrues its flags in `pstat` and retires (R83,
R124–R128). A standard vector instruction that is defined and that no press entry holds up takes its effect on its
thread alone and retires; one that is not defined is an illegal instruction (R37, R97, R122). -/
def Obligations.ConversionsAndVectors : Prop :=
  (∀ (row : Hart → BitVec 32 → Instr), row ∈ convRows → ∀ (h : Hart) (w : BitVec 32) (t' : Thread) (fl : PFlags) (s : State),
    s.canIssue h = true → (s.thrOf h).convert (bit s.boot.feat.toNat 2) w = some (t', fl) →
    (s.coreOf (hartCore h)).vregBusy (hartThr h) ((s.thrOf h).convRegs w).1 ((s.thrOf h).convRegs w).2 = false →
    exec (row h w) s = .next (s.modCore (hartCore h) (fun c =>
      {c with pstat := c.pstat.or fl}.setThread (hartThr h) ({t' with wait := .none}.adv .four))))
  ∧ (∀ (h : Hart) (w : BitVec 32) (s : State), s.canIssue h = true →
    (s.coreOf (hartCore h)).vregBusy (hartThr h) ((s.thrOf h).vinstrRegs w).1 ((s.thrOf h).vinstrRegs w).2 = false →
    (∀ t', (s.thrOf h).vinstr w = some t' →
      exec (.vectorInstr h w) s = .next (s.modThr h (fun _ => {t' with wait := .none}.adv .four)))
    ∧ ((s.thrOf h).vinstr w = none → exec (.vectorInstr h w) s = .next ((s.modThr h (fun t => {t with wait := .none})).trapIllegal h)))

/-- `barw` and `bara` count one arrival on an armed channel that is not broken, record it in `LBAR`, and send the
die's arrival with its last local thread; `barw` then waits, `bara` answers the phase and retires. While the thread
has unanswered host-window or hub-register writes, the arrival is held and nothing is counted or sent (R49, R50,
R129–R131, R133, R270). `bart` answers 2 on a broken channel, else whether the phase has left the one asked for;
`barwp` answers 1 and retires once it has, and waits until then (R129, R130). Arming sets the number of dies, each
die's number of threads and phase 0; the last die's arrival inverts the phase and sends every die its release; a
release sets its die's phase, restarts its count and lets its waiting threads go on (R49, R50). -/
def Obligations.Barriers : Prop :=
  (∀ (h : Hart) (w : BitVec 32) (r : RWord) (s : State),
    let x := hartSite h
    let ch := ((s.thrOf h).xr (regNo r.rs1)).toNat
    let n := tget 0 (s.dieOf x).barCount ch + 1
    let last := tget 0 (s.dieOf x).barLocal ch
    let ph := (s.dieOf x).phase ch
    let arrived := {s.thrOf h with lbChan := BitVec.ofNat 8 ch, lbArr := true, lbPh := ph, lbBrk := false}
    s.canIssue h = true → s.chanOk h ch = true → ((s.thrOf h).barIn && (s.thrOf h).lbChan.toNat = ch) = false →
    (s.barOf ch).broken = false → n ≤ last →
    (barWord w 0 = some r → (s.dieOf x).writesOf h = [] →
      ∃ t, exec (.barw h w) s = .next t ∧ tget 0 (t.dieOf x).barCount ch = n
      ∧ t.thrOf h = {arrived with wait := .barrier .four (regNo r.rd) ch ph, barIn := true}
      ∧ OtherThreads s t h ∧ MemorySame s t
      ∧ t.out = if n = last then .barArrive ch ⟨x % 16, Nat.mod_lt _ (by decide)⟩ :: s.out else s.out)
    ∧ (barWord w 1 = some r → (s.dieOf x).writesOf h = [] →
      ∃ t, exec (.bara h w) s = .next t ∧ tget 0 (t.dieOf x).barCount ch = n
      ∧ t.thrOf h = (arrived.setX (regNo r.rd) (BitVec.ofNat 64 (b2n ph))).adv .four ∧ OtherThreads s t h ∧ MemorySame s t
      ∧ t.out = if n = last then .barArrive ch ⟨x % 16, Nat.mod_lt _ (by decide)⟩ :: s.out else s.out)
    ∧ (barWord w 0 = some r → (s.dieOf x).writesOf h ≠ [] →
      ∃ t, exec (.barw h w) s = .next t ∧ (t.dieOf x).barCount = (s.dieOf x).barCount ∧ t.out = s.out
      ∧ (t.dieOf x).held = (s.dieOf x).held ++ [⟨h, (s.dieOf x).writesOf h, .arrival ch⟩]
      ∧ t.thrOf h = {arrived with lbArr := false, wait := .barrier .four (regNo r.rd) ch ph, barIn := true}))
  ∧ (∀ (h : Hart) (w : BitVec 32) (r : RWord) (s : State),
    let ch := ((s.thrOf h).xr (regNo r.rs1)).toNat
    let asked := bit ((s.thrOf h).xr (regNo r.rs2)).toNat 0
    let ph := (s.dieOf (hartSite h)).phase ch
    s.canIssue h = true → s.chanOk h ch = true →
    (barWord w 2 = some r → exec (.bart h w) s = .next (s.modThr h (fun t =>
      {t.setX (regNo r.rd) (if (s.barOf ch).broken then 2 else if ph = asked then 0 else 1) with
        lbBrk := (s.barOf ch).broken}.adv .four)))
    ∧ (barWord w 3 = some r → (s.barOf ch).broken = false → ph ≠ asked → exec (.barwp h w) s = .next (s.modThr h (fun t =>
      {t.setX (regNo r.rd) 1 with
        lbArr := if t.lbChan.toNat = ch then false else t.lbArr, lbBrk := false, barIn := false}.adv .four)))
    ∧ (barWord w 3 = some r → (s.barOf ch).broken = false → ph = asked →
      exec (.barwp h w) s = .next (s.modThr h (fun t => {t with wait := .barrier .four (regNo r.rd) ch asked}))))
  ∧ (∀ (chan : Byte) (x : Site) (s : State),
    let ch := chan.toNat
    (∀ (who : Who) (locals : List (Site × Fin 1025)), who.mgmt = true ∨ who.driver = true → ∃ t,
      exec (.barrierArm who chan locals) s = .next t ∧ (t.barOf ch).armed = true ∧ (t.barOf ch).phase = false
        ∧ (t.barOf ch).broken = false ∧ (t.barOf ch).msgs = []
        ∧ ∀ y : Site, tget 0 (t.dieOf y.val).barLocal ch =
            (((locals.filter (fun p => p.2.val ≠ 0)).find? (fun p => p.1 = y)).map (·.2.val)).getD 0
          ∧ tget 0 (t.dieOf y.val).barCount ch = 0 ∧ tget 0 (t.dieOf y.val).barPh ch = 0)
    ∧ ((s.barOf ch).armed = true → (s.barOf ch).broken = false → (s.barOf ch).msgs.contains x = false →
        ((s.barOf ch).msgs.length + 1 < (s.barOf ch).dies → exec (.barrierArrivalMsg chan x) s =
          .next (s.modBar ch (fun b => {b with msgs := (s.barOf ch).msgs ++ [x]})))
        ∧ ((s.barOf ch).dies ≤ (s.barOf ch).msgs.length + 1 → ∃ t, exec (.barrierArrivalMsg chan x) s = .next t
            ∧ t.barOf ch = {s.barOf ch with msgs := [], phase := !(s.barOf ch).phase}
            ∧ t.out = ((s.barOf ch).msgs ++ [x]).reverse.map (fun y => .barRelease ch y (!(s.barOf ch).phase)) ++ s.out))
    ∧ (∀ phase, (s.dieOf x.val).phase ch ≠ phase → exec (.barrierRelease chan x phase) s = .next (s.modDie x.val (fun d => { d with
        barPh := tput d.barPh ch (b2n phase), barCount := tput d.barCount ch 0,
        core := d.core.map (fun c => (c.1, {c.2 with thr := c.2.thr.map (fun t => (t.1, t.2.release ch phase))})) }))))

/-- `fsig` retires, its signal sent at once or, while the thread has unanswered host-window or hub-register writes,
held until they are answered; `fread` answers the fence's value, `fwait` answers 0 once the value has reached the
target, 1 on a fence abandoned, disarmed or of another slice, and waits otherwise (R132–R134, R377). What a signal
from a hub processor does to a fence (R376): a value in the reserved range and a signal to a fence that is not armed
or abandoned are counted and discarded; a value not above the fence's is counted as stale; a higher one is taken,
waiters go on and a due event is raised. -/
def Obligations.Fences : Prop :=
  (∀ (h : Hart) (w : BitVec 32) (r : RWord) (s : State),
    let n := ((s.thrOf h).xr (regNo r.rs1)).toNat
    let target := (s.thrOf h).xr (regNo r.rs2)
    let sl := (s.coreSlice (hartCore h)).getD 64
    s.canIssue h = true →
    (barWord w 4 = some r → s.fenceOk h n false = true → (s.dieOf (hartSite h)).writesOf h = [] →
      exec (.fsig h w) s = .next ((s.emit (.ctl 1 [n, target.toNat, h.val])).modThr h (·.adv .four)))
    ∧ (barWord w 4 = some r → s.fenceOk h n false = true → (s.dieOf (hartSite h)).writesOf h ≠ [] →
      exec (.fsig h w) s = .next ((s.modDie (hartSite h) (fun d => {
        d with held := d.held ++ [⟨h, (s.dieOf (hartSite h)).writesOf h, .signal n target⟩]})).modThr h (·.adv .four)))
    ∧ (barWord w 6 = some r → s.fenceOk h n true = true →
      exec (.fread h w) s = .next (s.modThr h (fun t => (t.setX (regNo r.rd) (s.fenceOf n).value).adv .four)))
    ∧ (barWord w 5 = some r → s.fenceOk h n true = true →
      (target.toNat ≤ (s.fenceOf n).value.toNat → fenceReserved target = false →
        exec (.fwait h w) s = .next (s.modThr h (fun t => (t.setX (regNo r.rd) 0).adv .four)))
      ∧ ((s.fenceOf n).value.toNat < target.toNat →
          (s.fenceOf n).aband = true ∨ (s.fenceOf n).armed = false ∨ (s.fenceOf n).slice.val ≠ sl →
        exec (.fwait h w) s = .next (s.modThr h (fun t => (t.setX (regNo r.rd) 1).adv .four)))
      ∧ ((s.fenceOf n).value.toNat < target.toNat → (s.fenceOf n).aband = false → (s.fenceOf n).armed = true →
          (s.fenceOf n).slice.val = sl →
        exec (.fwait h w) s = .next (s.modThr h (fun t => {t with wait := .fence (regNo r.rd) n target})))))
  ∧ (∀ (f : FenceId) (v : Word) (s : State),
    let o := s.fenceOf f.val
    (fenceReserved v = true → exec (.fenceSignal .hubctl f v) s = .next (s.modHub (fun h => {h with sigReserved := h.sigReserved + 1})))
    ∧ (fenceReserved v = false → o.armed = false ∨ o.aband = true →
        exec (.fenceSignal .hubctl f v) s = .next (s.modHub (fun h => {h with sigDisc := h.sigDisc + 1})))
    ∧ (fenceReserved v = false → o.armed = true → o.aband = false → v.toNat ≤ o.value.toNat →
        exec (.fenceSignal .hubctl f v) s =
          .next (s.modFence f.val (fun f => {f with stale := BitVec.ofNat 32 (satAdd 0xFFFFFFFF f.stale.toNat 1)})))
    ∧ (fenceReserved v = false → o.armed = true → o.aband = false → o.value.toNat < v.toNat → ∃ t,
        exec (.fenceSignal .hubctl f v) s = .next t ∧ (t.fenceOf f.val).value = v ∧ (t.fenceOf f.val).nsig = o.nsig + 1
        ∧ (∀ g, g ≠ f.val → t.fenceOf g = s.fenceOf g)))

/-- `CLRET` and `CLMAPn` written by a hub processor or MGD (R54–R58): `CLRET` with `go` retires the core named;
`CLMAPn` moves the map where no loaded context and no retired core stands in the way, and is discarded and counted
otherwise; anyone else's write is refused and changes nothing. A substitution request with a free spare sends the
spare the firmware image and awaits its bitmap and self-test, or, with a frozen slice on the cluster, waits for its
thaw; a spare that received every block and passes takes an empty position, which the worn core then leaves for good;
one that lacks a block or fails is retired and the worn core stays (R59, R60, R504). An idle core is tested where it
is; a core that passes in its place is released, and one that fails is retired (R61). -/
def Obligations.Clusters : Prop :=
  (∀ (who : Who) (x : Site) (n : Fin 16) (v : Word) (s : State), s.isGraft x.val = false →
    let c := s.clusterOf x.val n.val
    let c' := {c with subPos := BitVec.ofNat 4 v.toNat, subEn := bit v.toNat 4}
    let barred := (bit v.toNat 4 && !c.spareOk) || (List.range 16).any (fun p => c.serving p ≠ c'.serving p &&
      ((s.coreOf (posCore x.val n.val p)).ctx.isSome || c.isRetired (c'.serving p)))
    (who.mgmt = true →
      (bit v.toNat 9 = true → bits v.toNat 8 4 ≤ 16 → ∃ t, exec (.clret who x v) s = .next t
        ∧ (t.clusterOf x.val (bits v.toNat 3 0)).isRetired (bits v.toNat 8 4) = true)
      ∧ (barred = false → exec (.clmapWrite who x n v) s = .next ((s.modCluster x.val n.val (fun _ => c')).ack who .ok))
      ∧ (barred = true → exec (.clmapWrite who x n v) s =
          .next ((s.modDie x.val (fun d => {d with clmapDisc := d.clmapDisc + 1})).ack who .ok)))
    ∧ (who.mgmt = false → exec (.clret who x v) s = .next (s.ack who .refused)
      ∧ exec (.clmapWrite who x n v) s = .next (s.ack who .refused)))
  ∧ (∀ (x : Site) (cl pos : Fin 16) (got : BitVec 128) (s : State), s.isGraft x.val = false →
    let c := s.clusterOf x.val cl.val
    let k := coreKey x.val cl.val 16
    ((s.dieOf x.val).substRes ≠ 1 → (s.dieOf x.val).substRes ≠ 2 → c.subst = .idle → c.spareFree = true →
      (s.clusterFrozen x.val cl.val = false → ∃ t, exec (.spareSubstitute x cl pos) s = .next t
        ∧ (t.clusterOf x.val cl.val).subst = .selftest pos false ∧ (t.dieOf x.val).substRes = 2
        ∧ t.out = .firmware k s.wholeImage :: s.out ∧ tget 0 t.avail.blocks k = 0)
      ∧ (s.clusterFrozen x.val cl.val = true → ∃ t, exec (.spareSubstitute x cl pos) s = .next t
        ∧ (t.clusterOf x.val cl.val).subst = .pendingThaw pos false ∧ (t.dieOf x.val).substRes = 1 ∧ t.out = s.out))
    ∧ (s.siteHalted x.val = false → c.subst = .selftest pos false →
      ((s.coreOf (posCore x.val cl.val pos.val)).ctx = none → s.clusterFrozen x.val cl.val = false →
        got.toNat % 2 ^ s.avail.blockN = 2 ^ s.avail.blockN - 1 → ∃ t, exec (.spareSelftestDone x cl ⟨got, true⟩) s = .next t
        ∧ (t.clusterOf x.val cl.val).subPos.toNat = pos.val ∧ (t.clusterOf x.val cl.val).subEn = true
        ∧ (t.clusterOf x.val cl.val).isRetired pos.val = true ∧ (t.dieOf x.val).substRes = 3)
      ∧ (∀ pass, pass = false ∨ (c.isRetired 16 = false ∧ got.toNat % 2 ^ s.avail.blockN ≠ 2 ^ s.avail.blockN - 1) →
        ∃ t, exec (.spareSelftestDone x cl ⟨got, pass⟩) s = .next t ∧ (t.clusterOf x.val cl.val).isRetired 16 = true
        ∧ (t.clusterOf x.val cl.val).subst = .idle ∧ (t.dieOf x.val).substRes = 6)))
  ∧ (∀ (x : Site) (cl pos : Fin 16) (s : State),
    let c := s.clusterOf x.val cl.val
    (s.isGraft x.val = false → s.siteHalted x.val = false → c.testing = none → c.subst = .idle →
      c.isRetired (c.serving pos.val) = false → (s.coreOf (posCore x.val cl.val pos.val)).ctx = none →
      exec (.coreTestDue x cl pos) s = .next (s.modCluster x.val cl.val (fun k => {k with testing := some (c.serving pos.val)})))
    ∧ (∀ ph, s.siteHalted x.val = false → c.testing = some ph → c.subEn = false → ph ≤ 16 →
      exec (.coreTestDone x cl true) s = .next (s.modCluster x.val cl.val (fun k => {k with testing := none}))
      ∧ ∃ t, exec (.coreTestDone x cl false) s = .next t ∧ (t.clusterOf x.val cl.val).isRetired ph = true
          ∧ (t.clusterOf x.val cl.val).testing = none))

/-- A zone at 100 °C or above, and below 110 °C, forces n = 8 and flags `trip` in every core's `cycflg`; with all
zones at or below 95 °C the forcing ends; a zone at 110 °C or above takes the die out of use (R64, R513). The governor
keeps n from 8 to 16 and raises it by at most one step; a zone above 95 °C lowers it where it can be lowered, and a
trip holds it at 8 (R510, R513). A stretch flags `str` in the cores of its row and in no other core; a corrected tag
error is counted; an uncorrectable one takes the lines of one cask out of the set and is reported to it; its home
agent then keeps no entry for the set that records the die (R46, R63, R267, R522). -/
def Obligations.DieConditions : Prop :=
  (∀ (x : Site) (temps : List Int) (s : State), s.isGraft x.val = false → temps.length = 8 →
    let hot := temps.foldl max (nth 0 temps 0)
    (1000 ≤ hot → hot < 1100 → ∃ t, exec (.zoneSample x temps) s = .next t ∧ (t.dieOf x.val).n = 8
      ∧ (t.dieOf x.val).tripped = true ∧ ∀ i, i < 256 → ((t.dieOf x.val).coreOf i).cycflg.getLsbD 2 = true)
    ∧ (hot ≤ 950 → ∃ t, exec (.zoneSample x temps) s = .next t ∧ (t.dieOf x.val).tripped = false
      ∧ (t.dieOf x.val).n = (s.dieOf x.val).n)
    ∧ (1100 ≤ hot → s.power.critical.contains (dieSite x.val) = false → ∃ t, exec (.zoneSample x temps) s = .next t
      ∧ (t.gateOf x.val).powered = false
      ∧ (t.linkOf x.val).fenced = true ∧ t.power.overtemp = true))
  ∧ (∀ (x : Site) (s : State), s.isGraft x.val = false → 8 ≤ (s.dieOf x.val).n → (s.dieOf x.val).n ≤ 16 →
    ∃ t, exec (.governorEval x) s = .next t ∧ 8 ≤ (t.dieOf x.val).n ∧ (t.dieOf x.val).n ≤ 16
      ∧ (t.dieOf x.val).n ≤ (s.dieOf x.val).n + 1
      ∧ ((s.dieOf x.val).tripped = true → (t.dieOf x.val).n = 8)
      ∧ ((s.dieOf x.val).zone.any (fun z => 950 < z.2) = true → (s.dieOf x.val).n = 8 ∨ (t.dieOf x.val).n < (s.dieOf x.val).n))
  ∧ (∀ (x : Site) (row : Fin 8) (bank : Fin 16) (set : BitVec 12) (k : CaskId) (s : State),
    (s.isGraft x.val = false → ∃ t, exec (.droopStretch x row) s = .next t ∧ ∀ i, i < 256 →
      ((t.dieOf x.val).coreOf i).cycflg =
        if i / 32 = row.val then ((s.dieOf x.val).coreOf i).cycflg ||| 1 else ((s.dieOf x.val).coreOf i).cycflg)
    ∧ (s.isGraft x.val = false →
      exec (.l2TagError x bank set false) s = .next (s.modDie x.val (fun d => {d with tagCorr := d.tagCorr + 1})))
    ∧ (s.isGraft x.val = false → (∃ l ∈ (s.dieOf x.val).l2, inL2Set l.1 bank.val set.toNat = true) → ∃ t c,
      exec (.l2TagError x bank set true) s = .next t ∧ t.out = .tagReport c x bank.val set.toNat :: s.out
        ∧ (∃ l ∈ (s.dieOf x.val).l2, inL2Set l.1 bank.val set.toNat = true ∧ lineCask l.1 % 12 = c.val)
        ∧ (bank.val, set.toNat + 4096 * c.val) ∈ (t.dieOf x.val).l2bad)
    ∧ (∃ t, exec (.l2TagReport k x bank set) s = .next t
      ∧ (bank.val, set.toNat + 4096 * k.val) ∉ (t.dieOf x.val).l2bad))

/-- A wanting context that none served before it is given a free position, whose core is told to load it; with none
free it preempts, and the preempted context's save begins (R366). A context that may take a free position is loaded on
it when its image reads well: it is on the position, no longer wants, and the load is counted; the core holds it,
issues again, and every core state comes from the image (R65, R66). A context whose core is quiet and whose image is
written leaves its position, and the save is counted; a save still under way when its time is out loses the context
with cause PREEMPT (R67, R367). A loaded context whose threads have been idle for 100 µs is noted idle; one whose
quantum has ended is noted so (R366). -/
def Obligations.ContextMoves : Prop :=
  (∀ (x : CtxId) (s : State), s.placeable x.val = true →
    s.hub.ctx.any (fun c => c.2.before (s.ctxOf x.val) && s.servable c.1) = false →
    (s.freeFor x.val ≠ [] → ∃ p ∈ s.freeFor x.val, exec (.contextSchedule x) s = .next (s.bump.emit (.ctl 2 [p, x.val])))
    ∧ (∀ v p, s.freeFor x.val = [] → s.victimFor x.val = some v → (s.ctxOf v).pos = some p →
        exec (.contextSchedule x) s = .next (s.bump.saveBegin p v (.preempt (s.idleNow v)))))
  ∧ (∀ (c : CoreId) (x : CtxId) (s : State),
    let a := s.agentBytes (machinery x.val 64) (s.ctxOf x.val).area.1 (s.ctxOf x.val).area.2 0xA0000
    let u := a.2.2.2
    s.placeable x.val = true → s.posAllowed x.val c.val = true → s.posFree c.val = true →
    a.1 = .ok → a.2.1 = false → (List.range 4).any (fun t => (nth 0 a.2.2.1 (0x984A0 + 0x800 * t)).toNat % 4 = 2) = false →
    ∃ t, exec (.contextLoad c x) s = .next t
      ∧ (t.ctxOf x.val).pos = some c ∧ (t.ctxOf x.val).want = none ∧ (t.ctxOf x.val).nload = (u.ctxOf x.val).nload + 1
      ∧ (t.coreOf c.val).ctx = some x ∧ (t.coreOf c.val).saving = false
      ∧ (t.coreOf c.val).scratch = (imageCore (u.coreOf c.val) a.2.2.1 x).scratch
      ∧ (t.coreOf c.val).tile = (imageCore (u.coreOf c.val) a.2.2.1 x).tile)
  ∧ (∀ (c : CoreId) (x : CtxId) (why : SaveWhy) (s u : State),
    (s.coreOf c.val).ctx = some x → (s.ctxOf x.val).saving = some why → s.siteHalted (c.val / 256) = false →
    (s.quiet c.val = true → s.saveImage c x = (.ok, u) →
      exec (.contextSave c) s = .next (((((u.modCore c.val Core.unload).modDie (c.val / 256) (fun d =>
          {d with posted := d.posted.filter (fun q => hartCore q.hart ≠ c.val)})).modCtx x.val (fun k =>
        {k with pos := none, saving := none, idle := false, npre := k.npre + 1})).saved c x.val why).failureReset (siteOf c)))
    ∧ exec (.preemptTimeout c) s = .next (((s.ctxLose x.val .preempt).substNext c.val).failureReset (siteOf c)))
  ∧ (∀ (c : CoreId) (x : CtxId) (s : State), (s.coreOf c.val).ctx = some x →
    exec (.contextIdle c) s = .next (s.modCtx x.val (fun k => {k with idle := true}))
    ∧ exec (.contextQuantumEnd c) s = .next (s.modCtx x.val (fun k => {k with quantum := true})))

/-- The next tile of a running descriptor is issued and its flags accrued, once its pages are translated, its source
read and its destination written; with eight tiles in flight, or none left, or a write of the engine still waiting at
its home agent, nothing happens (R170–R174). The oldest tile in flight commits and its bytes are counted, unless a
write of the engine still waits at its home agent; with the last one the descriptor ends; a NOP, which has no tile,
ends at once; after sixteen tiles in turn, while another descriptor waits for its cask, an engine yields (R160, R171,
R176). The next descriptor of a queue starts on a free engine of its anchor cask, when its queue is the next one in
the round, once its fence maps permit it, its wait has ended and its fields are legal; one with illegal fields or an
anchor that names no cask ends with status 1, one that its fence maps do not permit with status 3, one whose fence is
abandoned with status 6; one that still waits stays. What the firmware submits is dispatched in the same way
(R158–R160, R167, R176, R178, R377). An ended descriptor at the front of its source completes, unless its slice is
frozen or its queue stalled: one of firmware's leaves, and its signal is sent where it asks for one and ended OK
(R161, R177). -/
def Obligations.Engines : Prop :=
  (∀ (row : (EngId → Instr) × Nat), row ∈ engineRows → ∀ (e : EngId) (d d' : Desc) (s u : State),
    s.onEngine e = some d → d.op = row.2 → s.descFrozen d = false → s.mustYield e d = false →
    (d.issued < d.tileCount → d.issued - d.tiles < 8 → s.agentWaits (1 + e.val) = false → s.bunged (engNi e) = false →
      s.eTile d e d.issued = (.ok d', u) → exec (row.1 e) s = .next (u.setDesc {d' with issued := d'.issued + 1}))
    ∧ (d.tileCount ≤ d.issued ∨ 8 ≤ d.issued - d.tiles ∨ s.agentWaits (1 + e.val) = true → exec (row.1 e) s = .next s))
  ∧ (∀ (e : EngId) (d : Desc) (s : State), s.onEngine e = some d →
    (d.tiles < d.issued → d.tiles + 1 < d.tileCount → s.agentWaits (1 + e.val) = false → exec (.tileCommit e) s =
      .next (s.setDesc {d with done := d.done + d.tileBytes d.tiles, tiles := d.tiles + 1}))
    ∧ (d.tiles < d.issued → d.tileCount ≤ d.tiles + 1 → s.agentWaits (1 + e.val) = false → exec (.tileCommit e) s =
      .next (s.setDesc {d with done := d.done + d.tileBytes d.tiles, tiles := d.tiles + 1, st := .ended}))
    ∧ (s.agentWaits (1 + e.val) = true → exec (.tileCommit e) s = .next s ∧ exec (.engineYield e) s = .next s)
    ∧ (d.op = 7 → s.descFrozen d = false → exec (.nop e) s = .next (s.setDesc (d.endWith 0 0)))
    ∧ (0 < d.issued - d.base → (d.issued - d.base) % 16 = 0 → s.engineWanted e d = true →
      s.agentWaits (1 + e.val) = false →
      exec (.engineYield e) s = .next (s.setDesc {d.commitAll with st := .yielded})))
  ∧ (∀ (q : QId) (e : EngId) (fw : List (List Word)) (d : Desc) (s u : State),
    let cmd : Instr := .descDispatch (.queue q) e
    (s.nextDesc (.queue q) = some d → s.onEngine e = none → s.descFrozen d = false → s.srcStarts d = true →
      d.st = .queued →
      (s.descFences d = false → exec cmd s = .next (s.setDesc (d.endWith 3 0)))
      ∧ (s.descFences d = true →
        (s.descWait d = none → exec cmd s = .next s)
        ∧ (s.descWait d = some 1 → exec cmd s = .next (s.setDesc (d.endWith 6 0)))
        ∧ (s.descWait d = some 0 →
          (d.legal s.boot.feat.toNat s.isGraft = false → exec cmd s = .next (s.setDesc (d.endWith 1 0)))
          ∧ (d.legal s.boot.feat.toNat s.isGraft = true →
            (s.anchor d = (.bad, u) → exec cmd s = .next (u.setDesc (d.endWith 1 0)))
            ∧ (s.anchor d = (.any, u) → exec cmd s = .next (u.setDesc {d with st := .running e, base := d.issued}))
            ∧ (∀ a, s.anchor d = (a, u) → a = .cask (e.val / 8) ∨ a = .faults → s.nextQueue (e.val / 8) = d.queue →
                exec cmd s = .next ((u.setDesc (d.start e)).serveQueue (e.val / 8) d.queue))))))
    ∧ (∀ w ws, s.hub.fwq ++ fw = w :: ws →
      let n : Desc := ⟨s.hub.descId, .firmware, s.hub.descId, fit 0 8 w, 0, .queued, 0, 0, 0, {}, 0, 0, false, 0, []⟩
      let z := s.modHub (fun h => {h with fwq := ws, descId := h.descId + 1, desc := h.desc ++ [n]})
      s.descsOf .firmware = [] → z.onEngine e = none → n.waits = false → n.legal s.boot.feat.toNat s.isGraft = true →
      z.anchor n = (.cask (e.val / 8), u) → exec (.descDispatch (.firmware fw) e) s = .next (u.setDesc (n.start e))))
  ∧ (∀ (src : DescSrc) (d : Desc) (ds : List Desc) (s : State),
    s.descsOf src = d :: ds → d.st = .ended → s.descFrozen d = false →
    (∀ q, d.queue = some q → (s.queueOf q).stalled = false) →
    exec (.descComplete src) s = .next (s.descFinish d)
    ∧ (d.queue = none → ∃ t, exec (.descComplete src) s = .next t
        ∧ (d.sig = false ∨ d.status ≠ 0 → t = s.modHub (fun h => {h with desc := h.desc.filter (fun f => f.id ≠ d.id)}))
        ∧ (d.sig = true → d.status = 0 →
            t = (s.modHub (fun h => {h with desc := h.desc.filter (fun f => f.id ≠ d.id)})).descSignal d)))

/-- RD, RDS and RDX of lines nobody holds: answered OK, each sector with the array's bytes, or 0 and poisoned; read
through key slot 0, a sector written under another slot gives the bytes stored, not those written; RD leaves the
directory alone, RDS records the caching requester as an S holder and RDX as the M holder (R193, R194, R259). -/
def Obligations.HomeReads : Prop :=
  ∀ (row : (HReq → Instr) × TOp), row ∈ [((.rd : HReq → Instr), TOp.rd), (.rds, .rds), (.rdx, .rdx)] →
    ∀ (q : HReq) (x : Site) (s : State),
    let r : HomeReq := ⟨row.2, q, [], 0, 0, false⟩
    let c := s.caskAt q.pa
    Alone s r false → niSiteOf q.src.toNat = some x.val → s.caching x.val = true →
    (∀ l ∈ r.lines, (c.freeWay l).isSome) →
    ∃ t data, exec (row.1 q) s = .next t ∧ Answered s t q .ok data ∧ data.length = q.len.val + 1
      ∧ (∀ i, i ≤ q.len.val → let a := c.loc (64 * (q.pa.toNat / 64 + i) % 2 ^ 36 / 64)
          (c.poisoned a = true → nth (0, false) data i = (0, true))
          ∧ (c.poisoned a = false → tget 0 c.ktag a = q.kslot.val → nth (0, false) data i = (c.raw a, false))
          ∧ (c.poisoned a = false → tget 0 c.ktag a ≠ q.kslot.val → q.kslot.val = 0 →
              nth (0, false) data i = (c.stored (q.pa.toNat / 2 ^ 36) a, false)))
      ∧ (t.caskAt q.pa).mem = c.mem
      ∧ (row.2 = .rd → (t.caskAt q.pa).dir = c.dir)
      ∧ (row.2 ≠ .rd → ∀ l ∈ r.lines, ((t.caskAt q.pa).dirFind l).map (fun e => (e.2.m, e.2.holders)) =
          some (decide (row.2 = .rdx), siteBit x.val))

/-- WR, WRI and STASH of lines nobody holds: answered OK, and each sector of the request reads back as the data given
for it under the request's key slot, the poison marker gone; WRPOI leaves the marker in each, and frees its sender's
write-back buffer. No entry is left in the directory, and no other byte of the array changes (R195, R199, R259). WRP
merges the enabled bytes into a sector that is not poisoned, leaves a poisoned one alone and, with every byte enabled,
replaces it whole; AMO answers the old value of its operand field and stores the new one, answers poison on a poisoned
sector, and refuses a reserved operation, size or offset, writing nothing then (R190, R195, R264). A WB from the
recorded M holder writes its sector and frees the line's entry; from any other agent it changes no sector; both are
answered OK and free the sender's write-back buffer, and so does a WB that its NI's bung or the home agent turns away.
A TRACE is answered OK; its record is taken into the sink's ring where tracing and the sink are on and there is room,
and counted as rejected or as full otherwise (R254, R259, R262, R535). -/
def Obligations.HomeWrites : Prop :=
  (∀ (q : HReq) (data : List Sector) (s : State),
    let c := s.caskAt q.pa
    let k := q.pa.toNat / 2 ^ 36
    let sec := fun i => 64 * (q.pa.toNat / 64 + i) % 2 ^ 36 / 64
    let others := fun (t : State) => ∀ b, (∀ i, i ≤ q.len.val → b < 64 * c.loc (sec i) ∨ 64 * c.loc (sec i) + 64 ≤ b) →
      (t.caskAt q.pa).mem.read b = c.mem.read b
    c.mem.wf → (∀ i j, i ≤ q.len.val → j ≤ q.len.val → c.loc (sec i) = c.loc (sec j) → i = j) →
    (∀ row ∈ [((.wr : HReq → List Sector → Instr), TOp.wr), (.wri, .wri), (.stash, .stash)],
      Alone s ⟨row.2, q, data, 0, 0, false⟩ true →
      ∃ t, exec (row.1 q data) s = .next t ∧ Answered s t q .ok []
        ∧ (∀ i, i ≤ q.len.val → (t.caskAt q.pa).readSector k (sec i) q.kslot.val = (sectorAt data i, false)
          ∧ (t.caskAt q.pa).dirFind (q.pa.toNat / 64 + i) = none) ∧ others t)
    ∧ (Alone s ⟨.wrpoi, q, [], 0, 0, false⟩ true →
      ∃ t, exec (.wrpoi q) s = .next t ∧ Answered s t q .ok []
        ∧ (∀ i, i ≤ q.len.val → (t.caskAt q.pa).readSector k (sec i) q.kslot.val = (0, true)
          ∧ (t.caskAt q.pa).dirFind (q.pa.toNat / 64 + i) = none) ∧ others t
        ∧ ∀ x : Site, niSiteOf q.src.toNat = some x.val → tfind (t.dieOf x.val).wbbuf (q.pa.toNat / 64) = none))
  ∧ (∀ (q : HReq) (mask : List Word) (data : List Sector) (operand : Sector) (s : State),
    let c := s.caskAt q.pa
    let k := q.pa.toNat / 2 ^ 36
    let a := c.loc (secOf q.pa)
    let ks := q.kslot.val
    c.mem.wf →
    (Alone s ⟨.wrp, q, data, nth 0 mask 0, 0, false⟩ true → ∃ t, exec (.wrp q mask data) s = .next t ∧ Answered s t q .ok []
      ∧ (c.poisoned a = true → nth 0 mask 0 ≠ BitVec.allOnes 64 →
          (t.caskAt q.pa).mem = c.mem ∧ (t.caskAt q.pa).poisoned a = true)
      ∧ (nth 0 mask 0 = BitVec.allOnes 64 → (t.caskAt q.pa).readSector k (secOf q.pa) ks = (sectorAt data 0, false))
      ∧ (c.poisoned a = false → tget 0 c.ktag a = ks → (t.caskAt q.pa).readSector k (secOf q.pa) ks =
          (mergeSector (c.raw a) (sectorAt data 0) (nth 0 mask 0), false)))
    ∧ (Alone s ⟨.amo, q, [operand], 0, 0, false⟩ true → amoApply operand 0 ≠ none → ∃ t, exec (.amo q operand) s = .next t
      ∧ (c.poisoned a = true → Answered s t q .ok [(0, true)] ∧ (t.caskAt q.pa).mem = c.mem)
      ∧ ∀ old new, c.poisoned a = false → tget 0 c.ktag a = ks → amoApply operand (c.raw a) = some (old, new) →
          Answered s t q .ok [(BitVec.ofNat 512 old, false)]
          ∧ (t.caskAt q.pa).readSector k (secOf q.pa) ks = (new, false))
    ∧ ((s.reqStatus ⟨.amo, q, [operand], 0, 0, false⟩ true).1 = .ok → amoApply operand 0 = none → q.src ≠ agentNi → ∃ t,
        exec (.amo q operand) s = .next t ∧ Answered s t q .refused [] ∧ ∀ k, (t.caskOf k).mem = (s.caskOf k).mem))
  ∧ (∀ (q : HReq) (data : List Sector) (x : Site) (sink : Fin 4) (rec : Sector) (s : State),
    let c := s.caskAt q.pa
    let line := q.pa.toNat / 64
    let w : HomeReq := ⟨.wb, q, [sectorAt data 0], 0, 0, false⟩
    let k := s.sinkOf sink.val
    let sinkNow := fun (f : Sink) => {s.obs with sink := tput s.obs.sink sink.val f}
    (niSiteOf q.src.toNat = some x.val → q.len = 0 →
      ((s.reqStatus w true).1 = .ok → c.mem.wf →
        regionOf q.pa.toNat = .usable (q.pa.toNat / 2 ^ 36) (q.pa.toNat % 2 ^ 36) → c.blocked line = false →
        c.dirBad line = false →
        ∃ t, exec (.wb q.src ⟨q.pa, q.kslot, q.tag⟩ data) s = .next t ∧ Answered s t q .ok [] ∧ tfind (t.dieOf x.val).wbbuf line = none
          ∧ (∀ i e, c.dirFind line = some (i, e) → e.m = true → e.holders.getLsbD x.val = true →
              (t.caskAt q.pa).dirFind line = none
              ∧ (t.caskAt q.pa).readSector (q.pa.toNat / 2 ^ 36) (secOf q.pa) q.kslot.val = (sectorAt data 0, false))
          ∧ (c.dirFind line = none → (t.caskAt q.pa).mem = c.mem))
      ∧ ((s.reqStatus w true).1 ≠ .ok →
        ∃ t, exec (.wb q.src ⟨q.pa, q.kslot, q.tag⟩ data) s = .next t ∧ Answered s t q (s.reqStatus w true).1 []
          ∧ tfind (t.dieOf x.val).wbbuf line = none ∧ ∀ k, (t.caskOf k).mem = (s.caskOf k).mem))
    ∧ (s.bunged (homeNi q) = true → ∃ t, exec (.trace q sink rec) s = .next t ∧ Answered s t q .bunged [] ∧ t.obs = s.obs)
    ∧ (s.bunged (homeNi q) = false →
      (s.obs.en.getLsbD 2 = false ∨ k.sen = false → ∃ t, exec (.trace q sink rec) s = .next t ∧ Answered s t q .ok []
        ∧ t.obs = sinkNow {k with nrej := satAdd 0xFFFFFFFF k.nrej 1} ∧ t.cask = s.cask)
      ∧ (s.obs.en.getLsbD 2 = true → k.sen = true → k.wrap = false → 2 ^ (k.lgsz.toNat - 6) ≤ k.nrec →
        ∃ t, exec (.trace q sink rec) s = .next t ∧ Answered s t q .ok []
          ∧ t.obs = sinkNow {k with nfull := satAdd 0xFFFFFFFF k.nfull 1} ∧ t.cask = s.cask)
      ∧ (s.obs.en.getLsbD 2 = true → k.sen = true → k.wrap = true ∨ k.nrec < 2 ^ (k.lgsz.toNat - 6) →
        ∃ t, exec (.trace q sink rec) s = .next t ∧ Answered s t q .ok [] ∧ t.sinkOf sink.val = {k with nrec := k.nrec + 1}
          ∧ t.cask = ((s.homeRecord q .trace).agentWrite {} .wri (64 * (k.base.toNat + k.nrec % 2 ^ (k.lgsz.toNat - 6))) 0
              (BitVec.allOnes 64) rec).2.cask)))

/-- What a die does with a secondary request for a line its L2 holds: SNP INV drops it, snoop RD returns it, snoop RDS
returns it and keeps it in S, snoop RDX returns it and drops it, a STASH push replaces the data of an S copy; no other
line of the die changes. A snoop read of a line the die holds nowhere is answered poisoned and counted (R260). A
secondary request for a line whose read is outstanding is deferred; the release serves the deferred requests of the
line in order, and does nothing while the read is outstanding; behind an engaged bung the request is answered BUNGED
and counted (R243, R260, R263). A secondary response that a transaction waits for is taken from its list: a snooped
line is kept for the transaction, one not returned is poisoned in the array and counted, an invalidation not carried
out removes its holder; with the last response the transaction ends. A response that none waits for changes no cask
(R260, R261, R265). -/
def Obligations.CachingAgents : Prop :=
  (∀ (x : Site) (pa : PA) (push : Sector) (l : Line) (s : State),
    let line := pa.toNat / 64
    let given := Msg.snoopRsp x (64 * line) .ok (some (if l.pois then 0 else l.data, l.pois))
    let rest := fun (t : State) => ∀ m, m ≠ line → tfind (t.dieOf x.val).l2 m = tfind (s.dieOf x.val).l2 m
    s.servesNow x pa →
    (tfind (s.dieOf x.val).l2 line = some l →
      (∃ t, exec (.snpInv x pa) s = .next t ∧ Sent s t (.snoopRsp x (64 * line) .ok none)
        ∧ tfind (t.dieOf x.val).l2 line = none ∧ rest t ∧ (t.dieOf x.val).wbbuf = (s.dieOf x.val).wbbuf)
      ∧ (∃ t, exec (.snoopRd x pa) s = .next t ∧ Sent s t given ∧ (t.dieOf x.val).l2 = (s.dieOf x.val).l2)
      ∧ (∃ t, exec (.snoopRds x pa) s = .next t ∧ Sent s t given
        ∧ tfind (t.dieOf x.val).l2 line = some {l with st := .s} ∧ rest t)
      ∧ (∃ t, exec (.snoopRdx x pa) s = .next t ∧ Sent s t given
        ∧ tfind (t.dieOf x.val).l2 line = none ∧ rest t)
      ∧ (∃ t, exec (.stashPush x pa push) s = .next t ∧ Sent s t (.snoopRsp x (64 * line) .ok none)
        ∧ tfind (t.dieOf x.val).l2 line = some (if l.st = .s then {l with data := push, pois := false} else l) ∧ rest t))
    ∧ (tfind (s.dieOf x.val).l2 line = none → tfind (s.dieOf x.val).wbbuf line = none →
      (∀ c ∈ [Instr.snoopRd x pa, .snoopRds x pa, .snoopRdx x pa], ∃ t, exec c s = .next t
        ∧ Sent s t (.snoopRsp x (64 * line) .ok (some (0, true)))
        ∧ (t.caskOf (caskIdOf line).val).snpOdd = (s.caskOf (caskIdOf line).val).snpOdd + 1)
      ∧ ∃ t, exec (.stashPush x pa push) s = .next t ∧ Sent s t (.snoopRsp x (64 * line) .ok none)
        ∧ tfind (t.dieOf x.val).l2 line = none))
  ∧ (∀ (x : Site) (pa : PA) (s : State),
    let line := pa.toNat / 64
    let ni := niSite x.val (l2Module pa.toNat)
    (s.bunged ni = true → exec (.snpInv x pa) s = .next ((s.emit (.snoopRsp x (64 * line) .bunged none)).bungCount ni 1))
    ∧ (s.bunged ni = false → s.isGraft x.val = false → (s.dieOf x.val).miss.any (fun m => m.line = line) = true →
      exec (.snpInv x pa) s = .next (s.modDie x.val (fun d => {d with deferred := d.deferred ++ [⟨.snp, line, 0⟩]}))
      ∧ exec (.deferredSnoopRelease x pa) s = .next s)
    ∧ ((s.dieOf x.val).miss.any (fun m => m.line = line) = false → exec (.deferredSnoopRelease x pa) s = .next
      (((s.dieOf x.val).deferred.filter (fun q => q.line = line)).foldl (fun s q => s.snoopServe x q.op q.line q.data)
        (s.modDie x.val (fun d => { d with
          pinned := d.pinned.filter (fun p => p.1 ≠ line), deferred := d.deferred.filter (fun q => q.line ≠ line) })))))
  ∧ (∀ (k : CaskId) (pa : PA) (x : Site) (s : State),
    let line := pa.toNat / 64
    let u := s.landed line
    ((s.caskOf k.val).awaiting line x = none → ∀ st data, exec (.secondaryResponse k pa x st data) s = .next u)
    ∧ (∀ t, (s.caskOf k.val).awaiting line x = some t →
      (∀ v p, t.readsFrom line x = true →
        exec (.secondaryResponse k pa x .ok (some (v, p))) s = .next (u.txnOn k.val t (t.took line x [(line, v, p)])))
      ∧ (∀ st data, t.readsFrom line x = true → st ≠ .ok → exec (.secondaryResponse k pa x st data) s =
          .next ((u.poisonLine line true).txnOn k.val t (t.took line x [(line, 0, true)])))
      ∧ (∀ data, t.readsFrom line x = false →
          exec (.secondaryResponse k pa x .ok data) s = .next (u.txnOn k.val t (t.took line x [])))
      ∧ (∀ st data, t.readsFrom line x = false → st ≠ .ok → exec (.secondaryResponse k pa x st data) s =
          .next ((u.modCask k.val (·.dropHolder line x)).txnOn k.val t (t.took line x []))))
    ∧ (∀ t t' : Txn, t'.await.isEmpty = false → ((s.txnOn k.val t t').caskOf k.val).txns =
        (s.caskOf k.val).txns.map (fun w => if w.lines = t.lines then t' else w)))

/-- A copy's clean answer is delivered in place of the poisoned one, a copy's poisoned or failed answer is not; a read
sent to the copy first gets what the copy answered, or goes to the primary when the copy did not answer OK; an answer
nobody waits for is counted. A heal without a spare frame sends every read to the copy; any other heal ends with the
redirects on again. A reserve-copy entry takes a write that R207 allows and counts one it does not (R206, R207,
R209–R211). -/
def Obligations.ReserveCopies : Prop :=
  ∀ (s : State),
    (∀ (k : CaskId) (src : NI) (tag : BitVec 12) (st : Status) (data : List (Sector × Bool)),
      ((s.caskOf k.val).redirs.find? (fun d => d.r.q.src = src && d.r.q.tag = tag) = none →
        exec (.redirectResponse k src tag st data) s = .next (s.modTrellis (fun t => {t with rspDisc := t.rspDisc + 1})))
      ∧ ∀ d, (s.caskOf k.val).redirs.find? (fun d => d.r.q.src = src && d.r.q.tag = tag) = some d →
        let u := s.modCask k.val (fun c => {c with redirs := c.redirs.erase d})
        let v := u.plainRead k.val d.r
        (d.first = false → exec (.redirectResponse k src tag st data) s =
          .next (u.homeAnswer d.r .ok (if st = .ok ∧ data.any (·.2) = false then data else d.data)))
        ∧ (d.first = true → st = .ok → exec (.redirectResponse k src tag st data) s = .next (u.homeAnswer d.r .ok data))
        ∧ (d.first = true → st ≠ .ok → exec (.redirectResponse k src tag st data) s =
          .next ((v.2.charge d.r.q.pa.toNat (d.r.q.len.val + 1) false).homeAnswer d.r .ok v.1)))
    ∧ (∀ (i : Fin 512) (off : BitVec 32) (ok : Bool),
      let r := s.resOf i.val
      let pa := r.prim + off.toNat
      (r.mode = 0 ∨ r.size ≤ off.toNat → exec (.heal i off ok) s = .next s)
      ∧ (r.mode ≠ 0 → off.toNat < r.size → (s.caskOf (pa / 2 ^ 36)).sparesLeft = 0 → ∃ t, exec (.heal i off ok) s = .next t
          ∧ (t.resOf i.val).mode = 2)
      ∧ (r.mode ≠ 0 → off.toNat < r.size → (s.caskOf (pa / 2 ^ 36)).sparesLeft ≠ 0 →
          exec (.heal i off ok) s = .next (s.healRange i.val off.toNat ok)
          ∧ ((s.healRange i.val off.toNat ok).resOf i.val).mode = 1))
    ∧ (∀ (who : Who) (i : Fin 512) (hi : Bool) (v : Word),
      let r := (s.resOf i.val).wrote hi v.toNat
      (who.mgmt = false → s.bunged (niService 0 3) = true →
        exec (.reserveCopyWrite who i hi v) s = .next (s.ack who .bunged))
      ∧ (who.mgmt = true ∨ (who.driver = true ∧ s.bunged (niService 0 3) = false) →
        (r.mode = 0 ∨ s.reserveOk i.val r = true → exec (.reserveCopyWrite who i hi v) s =
          .next ({s with reserve := tput s.reserve i.val r}.ack who .ok))
        ∧ (r.mode ≠ 0 → s.reserveOk i.val r = false → r.prim / 2 ^ 36 < 12 → exec (.reserveCopyWrite who i hi v) s =
          .next ((s.modCask (r.prim / 2 ^ 36) (fun c => {c with refusedN := c.refusedN + 1})).ack who .ok)))
      ∧ (who.mgmt = false → who.driver = false → s.bunged (niService 0 3) = false →
        exec (.reserveCopyWrite who i hi v) s = .next (s.ack who .refused)))

/-- A per-bank refresh is counted and closes the row of its bank and of no other; a temperature sample sets the
refresh interval, halved from 85 °C and restored after 100 samples below 83 °C, and from 100 °C the cask is fenced and
the over-temperature output asserted (R192, R513). A channel controller's cycle with a request to serve takes one of
the requests it may serve next out of its queue and counts it to its account, in the cycle's own count, which the
controllers see when the cycle ends; it keeps the row open while requests to it wait, and touches no other bank's row;
while the cask is throttled it rests every other cycle; with no request it rests. A request that has waited 2 µs goes
before all others, and within share before over it (R189, R285, R513). `start` runs the generator, with its registers
as they are then, where R213 allows it, and flags the refusal where it does not; `stop` asks a running one to end; a
run that ends is done, and a looping one goes on until it was stopped; anyone but a hub processor or MGD is refused
(R212–R214). -/
def Obligations.CaskService : Prop :=
  (∀ (k : CaskId) (pc rank : Fin 32) (bank : Fin 16) (temp : Int) (s : State),
    let c := s.caskOf k.val
    let run := if temp < 830 then c.coolRun + 1 else 0
    (rank.val < 3 → ∃ t, exec (.refreshDue k pc rank bank) s = .next t
      ∧ tget 0 ((t.caskOf k.val).pcOf pc.val).refreshed (16 * rank.val + bank.val) =
          tget 0 (c.pcOf pc.val).refreshed (16 * rank.val + bank.val) + 1
      ∧ tfind ((t.caskOf k.val).pcOf pc.val).openRow (16 * rank.val + bank.val) = none
      ∧ (∀ b, b ≠ 16 * rank.val + bank.val →
          tfind ((t.caskOf k.val).pcOf pc.val).openRow b = tfind (c.pcOf pc.val).openRow b)
      ∧ (t.caskOf k.val).mem = c.mem)
    ∧ (temp < 1000 → ∃ t, exec (.caskTempSample k temp) s = .next t ∧ (t.caskOf k.val).temp = temp
      ∧ (t.caskOf k.val).coolRun = run
      ∧ (t.caskOf k.val).fastRefresh = (decide (850 ≤ temp) || (c.fastRefresh && decide (run < 100)))
      ∧ (t.caskOf k.val).fenced = c.fenced)
    ∧ (1000 ≤ temp → s.power.critical.contains (dieCask k.val) = false → ∃ t, exec (.caskTempSample k temp) s = .next t
      ∧ (t.caskOf k.val).fenced = true ∧ t.power.overtemp = true))
  ∧ (∀ (k : CaskId) (pc : Fin 32) (s : State),
    let u := s.modCask k.val (·.turn pc.val)
    let c := u.caskOf k.val
    let p := c.pcOf pc.val
    let rest := u.modCask k.val (fun c => c.modPc pc.val (fun p => {p with beat := false}))
    (c.nextReqs p s.now = [] → exec (.caskCycle k pc) s = .next rest)
    ∧ (c.nextReqs p s.now ≠ [] → thas s.power.caskThr k.val = true → p.beat = true →
        exec (.caskCycle k pc) s = .next rest)
    ∧ (c.nextReqs p s.now ≠ [] → thas s.power.caskThr k.val = false ∨ p.beat = false → ∃ r ∈ c.nextReqs p s.now, ∃ t,
        exec (.caskCycle k pc) s = .next t ∧ ((t.caskOf k.val).pcOf pc.val).queue = p.queue.erase r
        ∧ tget 0 (t.caskOf k.val).srv r.account = tget 0 c.srv r.account + 1
        ∧ tget 0 (t.caskOf k.val).cycle r.account = tget 0 c.cycle r.account + 1 ∧ (t.caskOf k.val).served = c.served
        ∧ (∀ b, b ≠ (c.rowOf r).1 → tfind ((t.caskOf k.val).pcOf pc.val).openRow b = tfind p.openRow b)
        ∧ ((p.queue.erase r).any (fun q => c.rowOf q = c.rowOf r) = true → tfind p.openRow (c.rowOf r).1 = none →
            tfind ((t.caskOf k.val).pcOf pc.val).openRow (c.rowOf r).1 = some ((c.rowOf r).2, 1))
        ∧ (t.caskOf k.val).mem = c.mem)
    ∧ (∀ r ∈ c.nextReqs p s.now, 2000 ≤ s.now - r.arrived ∨
        ((∀ q ∈ schedulable p.queue, s.now - q.arrived < 2000)
          ∧ (c.overShare r.account = true → ∀ q ∈ schedulable p.queue, c.overShare q.account = true))))
  ∧ (∀ (who : Who) (k : CaskId) (pc : Fin 32) (ctl : Byte) (s : State),
    let c := s.caskOf k.val
    let tg := (c.pcOf pc.val).tg
    (who.mgmt = true → ∃ t, exec (.tgStart who k pc ctl) s = .next t ∧ t.out = .regAck who .ok 0 :: s.out
      ∧ ((t.caskOf k.val).pcOf pc.val).tg =
          if c.tgRefused pc.val tg ctl.toNat then {tg with ctl := ctl, refused := true}
          else {tg with ctl := ctl, busy := true, stopping := false, nerr := 0, run := ⟨ctl, tg.seed, tg.base, tg.len⟩})
    ∧ (who.mgmt = true → ∃ t, exec (.tgStop who k pc) s = .next t
      ∧ ((t.caskOf k.val).pcOf pc.val).tg = {tg with stopping := tg.stopping || tg.busy})
    ∧ (who.mgmt = false → exec (.tgStart who k pc ctl) s = .next (s.ack who .refused)
      ∧ exec (.tgStop who k pc) s = .next (s.ack who .refused))
    ∧ (tg.busy = false ∨ (bit tg.run.ctl.toNat 7 = true ∧ tg.stopping = false) → exec (.tgRunEnd k pc) s = .next s)
    ∧ (tg.busy = true → bit tg.run.ctl.toNat 7 = false ∨ tg.stopping = true → ∃ t, exec (.tgRunEnd k pc) s = .next t
      ∧ ((t.caskOf k.val).pcOf pc.val).tg.busy = false ∧ ((t.caskOf k.val).pcOf pc.val).tg.done = true))

/-- A margin below 15 % takes a DQ stave of a cask in service with spare frames, and fences the cask that has no stave
left; the sixteenth CA error of a lane within a second takes the CA stave (R200, R201, R204). Retiring a usable frame
maps it onto a spare frame that was free, or marks the cask worn when none is unused; a row with an uncorrectable
sector or four reports within 24 h is fused, in a bank with spare rows, and no other row; a cask whose fill is done
reads as poison everywhere and its NIs report ready (R194, R198, R202–R204, R244). -/
def Obligations.CaskRepairs : Prop :=
  (∀ (k : CaskId) (pc : Fin 32) (lane : Fin 66) (ca : Fin 8) (margin : Nat) (s : State),
    let c := s.caskOf k.val
    let p := c.pcOf pc.val
    let es := (ca.val, s.now) :: p.caErr.filter (fun e => s.now < e.2 + 10 ^ 9)
    let n := (es.filter (fun e => e.1 = ca.val)).length
    c.inService = true → c.fenced = false →
    (c.sparesLeft ≠ 0 →
      (15 ≤ margin → exec (.dqMarginSample k pc lane margin) s = .next s)
      ∧ (margin < 15 → p.dqStaves < 2 → ∃ t, exec (.dqMarginSample k pc lane margin) s = .next t
          ∧ ((t.caskOf k.val).pcOf pc.val).dqStaves = p.dqStaves + 1)
      ∧ (margin < 15 → 2 ≤ p.dqStaves → ∃ t, exec (.dqMarginSample k pc lane margin) s = .next t
          ∧ (t.caskOf k.val).fenced = true))
    ∧ (c.sparesLeft = 0 → ∃ t, exec (.dqMarginSample k pc lane margin) s = .next t ∧ (t.caskOf k.val).worn = true)
    ∧ (n < 16 → exec (.caParityError k pc ca) s =
        .next (s.modCask k.val (fun c => c.modPc pc.val (fun p => {p with caErr := es}))))
    ∧ (16 ≤ n → p.caStave = false → ∃ t, exec (.caParityError k pc ca) s = .next t
        ∧ ((t.caskOf k.val).pcOf pc.val).caStave = true))
  ∧ (∀ (k : CaskId) (s : State),
    let c := s.caskOf k.val
    (∀ frame : BitVec 20, (spareBase ≤ frame.toNat → exec (.frameRetire k frame) s = .next s)
      ∧ (frame.toNat < spareBase → c.spareChoices ≠ [] → ∃ t f, exec (.frameRetire k frame) s = .next t
          ∧ f ∈ c.spareChoices ∧ tfind (t.caskOf k.val).remap frame.toNat = some f)
      ∧ (frame.toNat < spareBase → c.spareChoices = [] → ∃ t, exec (.frameRetire k frame) s = .next t
          ∧ (t.caskOf k.val).worn = (c.worn || decide (c.sparesLeft = 0)) ∧ (t.caskOf k.val).remap = c.remap))
    ∧ (∀ (pc rank : Fin 32) (bank : Fin 16) (row : BitVec 14),
      let p : Place := ⟨pc.val, rank.val, bank.val, row.toNat, 0⟩
      (3 ≤ rank.val ∨ c.rowDue (rowKey p) s.now = false → exec (.rowRepair k pc rank bank row) s = .next s)
      ∧ (rank.val < 3 → c.rowDue (rowKey p) s.now = true → c.sparesLeft ≠ 0 → c.bankUsed (bankKey p) < 8 → ∃ t,
          exec (.rowRepair k pc rank bank row) s = .next t ∧ rowKey p ∈ (t.caskOf k.val).rowFused
          ∧ (t.caskOf k.val).remap = c.remap))
    ∧ (c.filled = true ∨ c.fenced = true → exec (.caskPoisonFillDone k) s = .next s)
    ∧ (c.filled = false → c.fenced = false → ∃ t, exec (.caskPoisonFillDone k) s = .next t
      ∧ (t.caskOf k.val).filled = true ∧ (∀ sec, (t.caskOf k.val).poisoned sec = true)
      ∧ ∀ j, j < 8 → (t.niOf (0x80 + 8 * k.val + j)).ready = true))

/-- The header code: every half encoded decodes to its info bits without error, any single wrong bit is corrected, two
wrong bits among bits 62:0 are found uncorrectable, and neither all zeros nor all ones is a codeword (R228). -/
def Obligations.HeaderCode : Prop :=
  (∀ info : BitVec 56, decodeHalf (codeHalf info.toNat) = (info.toNat, .good)
    ∧ (∀ i, i < 64 → decodeHalf (codeHalf info.toNat ^^^ BitVec.ofNat 64 (2 ^ i)) = (info.toNat, .corrected))
    ∧ (∀ i j, i < j → j < 63 →
        (decodeHalf (codeHalf info.toNat ^^^ BitVec.ofNat 64 (2 ^ i) ^^^ BitVec.ofNat 64 (2 ^ j))).2 = .bad))
  ∧ (decodeHalf 0).2 ≠ .good ∧ (decodeHalf (BitVec.allOnes 64)).2 ≠ .good

/-- A write of a route entry is discarded and counted when it sets `valid` while either route is invalid for a plane
the entry can select, or sets `pforce` to 3; no other write is, and so never one that clears `valid` alone (R233). -/
def Obligations.RouteEntryGuards : Prop :=
  ∀ (who : Who) (ni d : NI) (v : Word) (s : State), niExists ni.toNat = true → who.mgmt = true →
    let w := v.toNat % 2 ^ 52
    let valid := fun (r : Nat) => s.routeValid ni.toNat d.toNat r (entryPlanes w)
    let barred := (w.testBit 51 = true ∧ (valid (bits w 23 0) = false ∨ valid (bits w 47 24) = false)) ∨ bits w 50 49 = 3
    (barred → exec (.routeEntryWrite who ni d v) s =
      .next ((s.modTrellis (fun t => {t with routeDisc := t.routeDisc + 1})).ack who .ok))
    ∧ (¬ barred → ∃ t, exec (.routeEntryWrite who ni d v) s = .next t ∧ t.trellis.routeDisc = s.trellis.routeDisc
      ∧ (t.routeOf ni.toNat d.toNat = w ∨ tfind (t.niOf ni.toNat).change d.toNat = some (BitVec.ofNat 64 w)))
    ∧ (w.testBit 51 = false → bits w 50 49 ≠ 3 → ¬ barred)

/-- A router takes the packet its wire delivers next into the buffer of its VC and, with nothing else waiting, sends
it on: over the link of its first leg that is not used up, one hop less to go, while the next router has credit for
it; without credit it stays. Half 0 uncorrectable, it is discarded and counted, and its link is unfit. At its eport a
request meets the bung's BUNGED, counted, is answered HDRERR or NOOWNER, or is delivered and recorded; a response
completes its tag. Of the packets at the heads of their VCs that wait for an output, one that has waited 256 ns goes
first, then VC0, then `pri` 1 (R217, R229, R230, R235–R238, R240, R242, R249). A route entry written by a hub
processor or MGD is in force at once, waits while requests to its destination are unanswered where it moves them,
leaves no request held for another, and is discarded and counted where it is not valid; a waiting one comes into
force, and the held requests leave, once nothing to the destination is unanswered (R232–R234). -/
def Obligations.Routing : Prop :=
  ((∀ (r : RouterId) (p : Plane) (input : Fin 5) (a b : BitVec 56) (wr : Nat) (ks : List Pkt) (k : Pkt) (s : State),
    let h0 := codeHalf a.toNat
    let h1 := codeHalf b.toNat
    let vc := vcOf p.val a.toNat b.toNat
    let key := 3 * wireKey r.val (if input.val < 4 then input.val else 4 + eportOf (bits a.toNat 41 32)) p.val + vc
    let go := fun (w : Word) => exec (.routerReceive r p input w h1 k.data) s
    let leg := (List.range 4).find? (fun i => bits a.toNat (6 * i + 3) (6 * i) ≠ 0)
    s.obs.en.getLsbD 1 = false → s.trellis.buf = [] → k.h0 = a.toNat → k.h1 = b.toNat →
    tget [] s.trellis.wire wr = k :: ks →
    ((inputWires r.val input.val p.val).find? (fun w => (tget [] s.trellis.wire w).head?.any (·.seenAs h0 h1 k.data)) =
      some wr →
      (∀ i, leg = some i → let d := bits a.toNat (6 * i + 5) (6 * i + 4)
        (∀ r', neighbour r.val d = some r' →
          let next := wireKey r' ((d + 2) % 4) p.val
          let room := bufDepth p.val vc (decide (fieldOfRouter r.val ≠ fieldOfRouter r'))
          (s.trellis.filled next p.val vc + k.flits ≤ room → ∃ t, go h0 = .next t ∧ t.trellis.buf = []
            ∧ tget [] t.trellis.wire wr = ks
            ∧ t.out = .packet r p d (codeHalf (a.toNat - 2 ^ (6 * i))) (codeHalf b.toNat) k.data :: s.out
            ∧ tget [] t.trellis.wire next =
                tget [] s.trellis.wire next ++ [{k with h0 := a.toNat - 2 ^ (6 * i), since := s.now}])
          ∧ (room < s.trellis.filled next p.val vc + k.flits → ∃ t, go h0 = .next t ∧ t.out = s.out
            ∧ tget [] t.trellis.buf key = [{k with since := s.now}] ∧ tget [] t.trellis.wire wr = ks))
        ∧ (neighbour r.val d = none → ∃ t, go h0 = .next t ∧ t.out = s.out ∧ t.trellis.buf = []))
      ∧ (∀ n, leg = none → portNi r.val (bits a.toNat 27 24) = some n →
        let src := bits a.toNat 41 32
        let tag := bits a.toNat 53 42
        let owns := s.ownsAddr n (topOf (bits b.toNat 3 0)) (bit b.toNat 54) (bits b.toNat 53 12)
        (bit a.toNat 55 = false →
          (s.bunged n = true → ∃ t, go h0 = .next t ∧ Sent s t (.rsp n src tag .bunged [])
            ∧ (t.niOf n).absorbed = BitVec.ofNat 32 (satAdd 0xFFFFFFFF (s.niOf n).absorbed.toNat 1))
          ∧ (s.bunged n = false → (s.niOf n).record.length < 4096 →
            (bit a.toNat 54 = true → ∃ t, go h0 = .next t ∧ Sent s t (.rsp n src tag .hdrerr []))
            ∧ (bit a.toNat 54 = false → isTaster n = true ∨ owns = false → ∃ t, go h0 = .next t
              ∧ Sent s t (.rsp n src tag .noowner []))
            ∧ (bit a.toNat 54 = false → isTaster n = false → owns = true → ∃ t, go h0 = .next t
              ∧ Sent s t (.packet r p (outLocal (bits a.toNat 27 24)) h0 h1 k.data)
              ∧ ∃ u ∈ (t.niOf n).record, u.src.toNat = src ∧ u.tag.toNat = tag)))
        ∧ (bit a.toNat 55 = true →
          (s.bunged n = true → ∃ t, go h0 = .next t
            ∧ (t.niOf n).absorbed = BitVec.ofNat 32 (satAdd 0xFFFFFFFF (s.niOf n).absorbed.toNat 1))
          ∧ (s.bunged n = false → ∀ o, (s.niOf n).tags.find? (fun o => o.tag.toNat = tag) = some o → bit a.toNat 54 = false →
            bits b.toNat 22 13 = n → ∃ t, go h0 = .next t ∧ (t.niOf n).tags = (s.niOf n).tags.erase o))))
    ∧ (∀ w, (decodeHalf w).2 = .bad →
      (inputWires r.val input.val p.val).find? (fun x => (tget [] s.trellis.wire x).head?.any (·.seenAs w h1 k.data)) =
        some wr →
      ∃ t, go w = .next t ∧ t.trellis.h0Disc = s.trellis.h0Disc + 1 ∧ t.out = s.out ∧ t.trellis.buf = []
        ∧ (input.val < 4 → (t.lnk r.val p.val input.val).unfit = true)))
  ∧ (∀ (now last : Nat) (hs : List Head) (h : Head), choose now last hs = some h →
      h ∈ hs ∧ ((∃ g ∈ hs, g.pkt.since + 256 ≤ now) → h.pkt.since + 256 ≤ now ∧ ∀ g ∈ hs, h.pkt.since ≤ g.pkt.since)
      ∧ ((∀ g ∈ hs, now < g.pkt.since + 256) → ((∃ g ∈ hs, g.vc = 0) → h.vc = 0)
        ∧ ((∀ g ∈ hs, g.vc ≠ 0) → (∃ g ∈ hs, bit g.pkt.h0 31 = true) → bit h.pkt.h0 31 = true)))
  ∧ (∀ s : State, ∀ h ∈ s.movable, ∃ l, (h.key, h.pkt :: l) ∈ s.trellis.buf))
  ∧ (∀ (who : Who) (ni d : NI) (v : Word) (s : State), niExists ni.toNat = true →
    let w := v.toNat % 2 ^ 52
    let o := s.routeOf ni.toNat d.toNat
    let moves := bit w 51 && (entrySel o ≠ entrySel w || entryForce o ≠ entryForce w || !bit o 51)
    let busy := (s.niOf ni.toNat).tags.any (fun t => t.dst = d)
    (who.mgmt = true →
      (s.routeOk ni.toNat d.toNat w = true → moves = false ∨ busy = false → ∃ t, exec (.routeEntryWrite who ni d v) s = .next t
        ∧ t.routeOf ni.toNat d.toNat = w ∧ tfind (t.niOf ni.toNat).change d.toNat = none
        ∧ ∀ h ∈ (t.niOf ni.toNat).held, h.1.dst ≠ d)
      ∧ (s.routeOk ni.toNat d.toNat w = true → moves = true → busy = true → ∃ t,
        exec (.routeEntryWrite who ni d v) s = .next t ∧ t.routeOf ni.toNat d.toNat = o
        ∧ tfind (t.niOf ni.toNat).change d.toNat = some (BitVec.ofNat 64 w))
      ∧ (s.routeOk ni.toNat d.toNat w = false → exec (.routeEntryWrite who ni d v) s =
        .next ((s.modTrellis (fun t => {t with routeDisc := t.routeDisc + 1})).ack who .ok)))
    ∧ (who.mgmt = false → exec (.routeEntryWrite who ni d v) s = .next (s.ack who .refused))
    ∧ (∀ e, tfind (s.niOf ni.toNat).change d.toNat = some e →
      (busy = true → exec (.routeChangeApply ni d) s = .next s)
      ∧ (busy = false → exec (.routeChangeApply ni d) s =
        .next (((s.niOf ni.toNat).held.filter (fun h => h.1.dst = d)).foldl (fun s h => s.sendReq ni.toNat h.1 h.2.1 h.2.2)
          ((s.putRoute ni.toNat d.toNat e).modNi ni.toNat (fun i => { i with
            change := tdel i.change d.toNat, held := i.held.filter (fun h => h.1.dst ≠ d) }))))))

/-- A request with a tag of its own goes to the NI its address names, in the class of its kind, on its destination's
route with the header R223 and R224 give it, its tag outstanding, its sectors charged; without a route it is answered
UNREACH; while the route changes it is held; a request of class OBS without credit is dropped. A tag not answered in
time is quarantined, and its answer is TIMEOUT (R218, R221, R223, R224, R232, R234, R239, R276, R279). A bung engaged
by `hold` answers BUNGED to every request its endpoint has not answered, and stays engaged while the endpoint is not
ready or `hold` is 1 (the hub's own blocks, 0x0F0 on, are always ready); a domain reset leaves its NIs bunged and not
ready, with no tag outstanding; in a partition every bung engages (R242–R247). -/
def Obligations.Injection : Prop :=
  (∀ (ni : NI) (a : NReq) (data : List Sector) (s : State),
    let q := s.nreqOf ni.toNat a
    let i := s.niOf ni.toNat
    let e := s.routeOf ni.toNat q.dst.toNat
    let c := q.cls.code
    let v := s.niCls ni.toNat c
    let plane := entryPlane e (q.addr.getLsbD 2)
    let wr := wireKey ((niPort ni.toNat).getD (0, 0)).1 (4 + ((niPort ni.toNat).getD (0, 0)).2) plane
    let h0 := fun pri => pktHalf0 (entrySel e) (eportOf q.dst.toNat) c pri ni.toNat a.tag.toNat false
    let free := niExists ni.toNat = true ∧ (∀ t ∈ i.tags, t.tag ≠ a.tag) ∧ a.tag ∉ i.quar ∧ (∀ h ∈ i.held, h.1.tag ≠ a.tag)
    (q.op = a.op ∧ q.tag = a.tag ∧ q.addr = a.addr ∧ q.sec = niMemory ni.toNat)
    ∧ (a.op = .msg ∨ a.op = .regrd ∨ a.op = .regwr → q.cls = .ctl)
    ∧ (a.op = .trace → q.cls = .obs) ∧ (a.op = .rds ∨ a.op = .rdx → niHost ni.toNat = false → niHost q.dst.toNat = false → q.cls = .coh)
    ∧ (a.op = .rd ∨ a.op = .wri → niHost ni.toNat = true → q.cls = .host)
    ∧ (free → thas i.change q.dst.toNat = true → exec (.niInject ni a data) s =
      .next (s.modNi ni.toNat (fun i => {i with held := i.held ++ [(q, false, data)]})))
    ∧ (free → thas i.change q.dst.toNat = false → bit e 51 = false → ∃ t, exec (.niInject ni a data) s = .next t
      ∧ Sent s t (.rsp q.dst.toNat ni.toNat a.tag.toNat .unreach []) ∧ (t.niOf ni.toNat).tags = i.tags)
    ∧ (free → thas i.change q.dst.toNat = false → bit e 51 = true → v.priority c (q.len.val + 1) = none →
      exec (.niInject ni a data) s = .next (s.setCls ni.toNat c (v.charge c (q.len.val + 1))))
    ∧ (∀ pri, free → thas i.change q.dst.toNat = false → bit e 51 = true → v.priority c (q.len.val + 1) = some pri →
      ∃ t, exec (.niInject ni a data) s = .next t ∧ ⟨a.tag, q.dst, q.op, q.len⟩ ∈ (t.niOf ni.toNat).tags
        ∧ t.niCls ni.toNat c = v.charge c (q.len.val + 1)
        ∧ tget [] t.trellis.wire wr =
            tget [] s.trellis.wire wr ++ [⟨h0 pri, reqHalf1 q, fit 0 (reqSectors q.op q.len.val) data, s.now⟩]
        ∧ t.out = .packet (routerId ((niPort ni.toNat).getD (0, 0)).1) (planeOf plane) outInject
            (codeHalf (h0 pri)) (codeHalf (reqHalf1 q)) (fit 0 (reqSectors q.op q.len.val) data) :: s.out)
    ∧ (∀ t ∈ i.tags, t.tag = a.tag → ∃ u, exec (.tagTimeout ni a.tag) s = .next u
        ∧ a.tag ∈ (u.niOf ni.toNat).quar ∧ u.trellis.timeouts = s.trellis.timeouts + 1
        ∧ ∃ d : NI, Sent s u (.rsp d.toNat ni.toNat a.tag.toNat .timeout []))
    ∧ (∃ u, exec (.tagQuarantineEnd ni a.tag) s = .next u ∧ a.tag ∉ (u.niOf ni.toNat).quar))
  ∧ (∀ (who : Who) (ni : NI) (v : Word) (d : Domain) (ds : List Domain) (s : State), niExists ni.toNat = true →
    let i := s.niOf ni.toNat
    (who.mgmt = true → v.getLsbD 1 = true → i.eng = false → ∃ t, exec (.bungRegWrite who ni v) s = .next t
      ∧ (t.niOf ni.toNat).eng = true ∧ (t.niOf ni.toNat).hold = true ∧ (t.niOf ni.toNat).record = []
      ∧ ∀ u ∈ i.record, .rsp ni.toNat u.src.toNat u.tag.toNat .bunged [] ∈ t.out)
    ∧ (who.mgmt = true → v.getLsbD 1 = false → exec (.bungRegWrite who ni v) s =
      .next ((s.modNi ni.toNat (fun i => {i with hold := false})).ack who .ok))
    ∧ (who.mgmt = false → exec (.bungRegWrite who ni v) s = .next (s.ack who .refused))
    ∧ ((i.ready = false ∧ ni.toNat < 0xF0) ∨ i.hold = true → exec (.bungRelease ni) s = .next s)
    ∧ (i.ready = true ∨ 0xF0 ≤ ni.toNat → i.hold = false → s.trellis.parts = [] → ∃ t, exec (.bungRelease ni) s = .next t
      ∧ (t.niOf ni.toNat).eng = false)
    ∧ (∃ t, exec (.endpointDomainReset d) s = .next t ∧ ∀ n ∈ domainNis d, (t.niOf n).eng = true ∧ (t.niOf n).ready = false
      ∧ (t.niOf n).tags = [])
    ∧ (∃ t, exec (.partitionReset ds) s = .next t ∧ ∀ d ∈ ds, ∀ n ∈ domainNis d, (t.niOf n).eng = true ∧ (t.niOf n).ready = false))

/-- A link seen unfit is retired by its command and at the window's end: it is out of service and named; any other
stays, and only the mismatches and corrected halves of the last second count on. A mismatch of the idle pattern is
counted, and the fourth within a second makes its link unfit (R248–R250). A budget waits for the window end, when the
credit is what is left of it below zero plus the budget, at least −`dcap` × budget; shares come into force then, and
every served count starts again; an owner byte is in force at once; values out of range are discarded and counted; a
write behind its owner's bung is answered BUNGED (R25, R277, R278, R281–R285, R600). A taster's record of two entries
goes out as a TRACE request of its NI, class OBS, within the OBS budget; where the budget has no credit its entries
are dropped and counted (R251, R279, R532, R533). -/
def Obligations.TrellisWatch : Prop :=
  (∀ (r : RouterId) (p : Plane) (d : Dir) (s : State),
    let l := s.lnk r.val p.val d.val
    let kept := s.modLnk r.val p.val d.val (fun l => {l with corrAt := lastSecond s.now l.corrAt, misAt := lastSecond s.now l.misAt})
    let ms := l.misAt.filter (fun t => s.now < t + 10 ^ 9) ++ [s.now]
    ((neighbour r.val d.val).isSome → l.insvc = true → l.unfit = true →
      (∃ t, exec (.linkRetire r p d) s = .next t
        ∧ (t.lnk r.val p.val d.val).insvc = false ∧ linkKey r.val p.val d.val ∈ t.trellis.retired)
      ∧ ∃ t, exec (.linkHealthWindowEnd r p d) s = .next t
        ∧ (t.lnk r.val p.val d.val).insvc = false ∧ linkKey r.val p.val d.val ∈ t.trellis.retired)
    ∧ ((neighbour r.val d.val).isNone ∨ l.insvc = false ∨ l.unfit = false → exec (.linkRetire r p d) s = .next s)
    ∧ (l.unfit = false → exec (.linkHealthWindowEnd r p d) s = .next kept)
    ∧ (exec (.idlePatternCheck r p d true) s = .next s)
    ∧ ((neighbour r.val d.val).isSome → ∃ t, exec (.idlePatternCheck r p d false) s = .next t
      ∧ t.trellis.patMis = s.trellis.patMis + 1
      ∧ t.lnk r.val p.val d.val = {l with
          pmis := BitVec.ofNat 16 (satAdd 0xFFFF l.pmis.toNat 1), misAt := ms, unfit := l.unfit || decide (4 ≤ ms.length)}))
  ∧ (∀ (who : Who) (ni : NI) (c : Fin 5) (k : CaskId) (g : BitVec 15) (a : BitVec 7) (v : Word) (s : State),
    niExists ni.toNat = true →
    (who.mgmt = true → c.val ≠ 4 → ∃ t, exec (.budgetWrite who ni c v) s = .next t
      ∧ t.niCls ni.toNat c.val = {s.niCls ni.toNat c.val with
          pend := some (BitVec.ofNat 16 v.toNat, BitVec.ofNat 3 (v.toNat >>> 16))})
    ∧ (who.mgmt = true → c.val = 4 → isTaster ni.toNat = true → 120 < bits v.toNat 15 0 → exec (.budgetWrite who ni c v) s =
      .next (s.regDiscard.ack who .ok))
    ∧ (who.mgmt = true ∨ (who.driver = true ∧ s.bunged (niService (fieldOfCask k.val) 3) = false) →
      (g.toNat < 23040 → bits v.toNat 7 6 ≠ 3 → ∃ t, exec (.ownerWrite who k g v) s = .next t
        ∧ tget 0 (t.caskOf k.val).owner g.toNat = BitVec.ofNat 8 v.toNat)
      ∧ (g.toNat < 23040 → bits v.toNat 7 6 = 3 → exec (.ownerWrite who k g v) s = .next (s.regDiscard.ack who .ok))
      ∧ (a.toNat ≤ 64 → bits v.toNat 15 0 ≤ 27200 → ∃ t, exec (.shareWrite who k a v) s = .next t
        ∧ tfind (t.caskOf k.val).sharePend a.toNat = some (bits v.toNat 16 0)
        ∧ (t.caskOf k.val).share = (s.caskOf k.val).share)
      ∧ (a.toNat ≤ 64 → 27200 < bits v.toNat 15 0 → exec (.shareWrite who k a v) s = .next (s.regDiscard.ack who .ok)))
    ∧ (who.mgmt = false → exec (.budgetWrite who ni c v) s = .next (s.ack who .refused)
      ∧ (who.driver = false → s.bunged (niService (fieldOfCask k.val) 3) = false →
        exec (.ownerWrite who k g v) s = .next (s.ack who .refused)
        ∧ exec (.shareWrite who k a v) s = .next (s.ack who .refused))
      ∧ (s.bunged (niService (fieldOfCask k.val) 3) = true →
        exec (.ownerWrite who k g v) s = .next (s.ack who .bunged)
        ∧ exec (.shareWrite who k a v) s = .next (s.ack who .bunged)))
    ∧ (∃ t, exec .regulatorWindowEnd s = .next t ∧ t.trellis.windows = s.trellis.windows + 1
      ∧ (t.caskOf k.val).served = [] ∧ (t.caskOf k.val).sharePend = []
      ∧ ∀ i w, tfind s.trellis.ni ni.toNat = some i → tfind i.cls c.val = some w →
          (t.niCls ni.toNat c.val).budget = (w.pend.getD (w.budget, w.dcap)).1
          ∧ (t.niCls ni.toNat c.val).credit = max (min w.credit 0 + ((t.niCls ni.toNat c.val).budget.toNat : Int))
              (-(((t.niCls ni.toNat c.val).dcap.toNat * (t.niCls ni.toNat c.val).budget.toNat : Nat) : Int))))
  ∧ (∀ (i : RouterId) (s : State),
    let t := s.tasterOf i.val
    let ni := niTaster i.val
    let v := s.niCls ni 4
    let sink := bits t.ctl.toNat 2 1
    let base := (s.sinkOf sink).base.toNat
    let d := niMem (base / 2 ^ 30) 0
    let e := s.routeOf ni d
    let n := min 2 t.held.length
    let rc := [nth [0, 0, 0, 0] t.held 0, nth [0, 0, 0, 0] t.held 1]
    let q := s.nreqOf ni ⟨.trace, .bulk, 0, BitVec.ofNat 10 d, BitVec.ofNat 42 base, BitVec.ofNat 6 sink, s.freshTag ni, false⟩
    (t.held = [] → exec (.tasterRecordSend i) s = .next s)
    ∧ (t.held ≠ [] → t.dropped = 0 → bit e 51 = true → thas (s.niOf ni).change d = false →
      q.cls = .obs
      ∧ (∀ b, v.priority 4 1 = some b → b = false ∧ ∃ u, exec (.tasterRecordSend i) s = .next u
        ∧ u.out = .traceRec i sink rc :: .packet (routerId ((niPort ni).getD (0, 0)).1) (planeOf (entryPlane e (q.addr.getLsbD 2)))
            outInject (codeHalf (pktHalf0 (entrySel e) (eportOf d) 4 false ni q.tag.toNat false)) (codeHalf (reqHalf1 q))
            [recordSector rc] :: s.out
        ∧ (u.tasterOf i.val).held = t.held.drop n)
      ∧ (v.priority 4 1 = none → ∃ u, exec (.tasterRecordSend i) s = .next u ∧ u.out = s.out
        ∧ (u.tasterOf i.val).held = t.held.drop n ∧ (u.tasterOf i.val).dropped = n)))

/-- A frame in order whose halves are good takes its sequence number and its running totals and hands its command on;
one with half 0 uncorrectable, and every one that is missing before it, is reported LOST; a module that is idle or
absent takes none. A LOST for a frame of the sender's history sends its command again, a response with data as poison,
and answers a request with data HDRERR; without that frame it changes nothing (R295–R299, R301). -/
def Obligations.FramesReceived : Prop :=
  ∀ (a : LinkId) (m : Fin 8) (toHub : Bool) (c0 c1 : Word) (payload : List Sector) (q : BitVec 12) (h0 h1 : Nat) (s : State),
    let d := s.dirOf a.val m.val toHub
    let st := (s.modOf a.val m.val).st
    let seq : BitVec 12 := BitVec.ofNat 12 (256 * bits h0 55 52 + bits h1 55 48)
    let lost := fun (n : BitVec 12) => Msg.sideband a (!toHub) 0x21 (m.val + 8 * n.toNat + 2 ^ 15 * 31)
    let u := (s.modDir a.val m.val toHub (fun d => { d with
      rxSeq := some seq, ccmd := BitVec.ofNat 10 (bits h0 41 32), csec := BitVec.ofNat 10 (bits h0 51 42) })).linkDrain
        a.val m.val (!toHub)
    let cmd := fun (data : List Sector) => Msg.frameCmd a m toHub (h0 % 2 ^ 32) (h1 % 2 ^ 48) data false
    let first := u.handOn a.val m.val toHub (h0 % 2 ^ 32) (h1 % 2 ^ 48)
    (st = .idle ∨ st = .absent → exec (.frameReceive a m toHub c0 c1 payload) s = .next s)
    ∧ (st ≠ .idle → st ≠ .absent → d.rxSeq = some q → decodeHalf c1 = (h1, .good) →
      (decodeHalf c0 = (h0, .good) → seq = q + 1 →
        (h0 % 4 = 0 → exec (.frameReceive a m toHub c0 c1 payload) s = .next u)
        ∧ (h0 % 4 = 1 → let data := payload.take (bits h0 11 10 + 1)
          exec (.frameReceive a m toHub c0 c1 payload) s = .next (first data false) ∧ Sent u (first data false) (cmd data)
          ∧ ((first data false).dirOf a.val m.val toHub).rxSeq = some seq)
        ∧ (h0 % 4 = 2 → exec (.frameReceive a m toHub c0 c1 payload) s = .next ((List.range 16).foldl (fun s j =>
            s.takeEntry a.val m.val toHub seq.toNat j (frameEntry payload j)) (first [] false)) ∧ Sent u (first [] false) (cmd [])))
      ∧ (decodeHalf c0 = (h0, .good) → seq = q + 2 → ∃ t, exec (.frameReceive a m toHub c0 c1 payload) s = .next t
        ∧ (t.dirOf a.val m.val toHub).rxSeq = some seq ∧ lost (q + 1) ∈ t.out)
      ∧ ((decodeHalf c0).2 = .bad → ∃ t, exec (.frameReceive a m toHub c0 c1 payload) s = .next t
        ∧ (t.dirOf a.val m.val toHub).rxSeq = some (q + 1) ∧ t.out = lost (q + 1) :: s.out))
    ∧ (∀ w : Word, let n := bits w.toNat 2 0
      let hist := (s.dirOf a.val n toHub).hist
      ((∀ f ∈ hist, f.1.toNat ≠ bits w.toNat 14 3) ∨ bits w.toNat 19 15 ≠ 31 → exec (.lost a m toHub w) s = .next s)
      ∧ (∀ f, hist.find? (fun f => f.1.toNat = bits w.toNat 14 3) = some f → bits w.toNat 19 15 = 31 →
        let v := s.modDir a.val n toHub (·.unsent f.2)
        (f.2.data = [] → exec (.lost a m toHub w) s = .next (v.linkSend a.val n toHub f.2))
        ∧ (f.2.data ≠ [] → bit f.2.h0 5 = true → exec (.lost a m toHub w) s = .next (v.linkSend a.val n toHub
            ⟨f.2.h0 - 2 ^ 24 * bits f.2.h0 27 24 + 2 ^ 24 * 15, f.2.h1, f.2.data.map (fun _ => 0)⟩))
        ∧ (f.2.data ≠ [] → bit f.2.h0 5 = false → toHub = true → exec (.lost a m toHub w) s =
            .next (v.emit (.rsp (linkNi a.val n) (linkNi a.val n) f.2.tag.toNat .hdrerr [])))))

/-- IDENT is kept, and a Bambipin die that joins is told the minor version in force; one whose kind or major version
is not the one expected is fenced with its result. A die not heard of is asked three times, then tested and fenced,
which for MGD asserts the fault output (R301, R466, R469). CAPRD, one at a time, is answered by CAPDAT, which is kept
at the word asked for; a setting the graft does not know is acknowledged with 0; a setting not accepted fails the
admission with cause 6 (R302, R319, R320). What a die does with BUDGET, FENCE and REMAP, with no budget for 10 ms, and
with a message it does not know; a REPORT is kept for the broker's period (R301, R306, R333, R509, R512). -/
def Obligations.Sideband : Prop :=
  (∀ (a : LinkId) (w : Word) (s : State),
    let n := w.toNat
    let i := linkDie a.val
    let kept := some (bits n 3 0, bits n 11 4, bits n 19 12, bits n 31 20, bits n 47 32)
    (∃ t, exec (.ident a w) s = .next t ∧ (s.expectKind a.val = 1 ∨ (bits n 3 0 = s.expectKind a.val ∧ bits n 11 4 = 1) →
        (t.linkOf a.val).ident = kept ∧ (t.linkOf a.val).idreqs = 0
        ∧ t.out = if s.expectKind a.val = 1 then s.out else .sideband a false 0x05 (2 + 2 ^ 16 * min (bits n 19 12) 2) :: s.out))
    ∧ (∀ x : Site, a.val = x.val → s.expectKind a.val ≠ 1 → bits n 3 0 ≠ s.expectKind a.val ∨ bits n 11 4 ≠ 1 → ∃ t,
        exec (.ident a w) s = .next t ∧ (t.linkOf a.val).fenced = true
        ∧ tget 0 t.boot.site i % 16 =
            if bits n 3 0 ≠ s.expectKind a.val then 4 else if 1 < bits n 11 4 then 5 else 6)
    ∧ ((s.linkOf a.val).ident.isSome → exec (.identTimeout a) s = .next s)
    ∧ ((s.linkOf a.val).ident = none → (s.linkOf a.val).idreqs < 3 → exec (.identTimeout a) s = .next ((s.modLink a.val
        (fun l => {l with idreqs := l.idreqs + 1})).emit (.sideband a false 0x02 0)))
    ∧ ((s.linkOf a.val).ident = none → 3 ≤ (s.linkOf a.val).idreqs → a.val = 18 → ∃ t, exec (.identTimeout a) s = .next t
        ∧ t.boot.cause = 3 ∧ t.power.fault = true)
    ∧ (∀ x : Site, a.val = x.val → (s.linkOf a.val).ident = none → 3 ≤ (s.linkOf a.val).idreqs → s.isGraft x.val = false →
        ∃ t, exec (.identTimeout a) s = .next t ∧ (t.linkOf a.val).fenced = true
        ∧ (tget 0 t.boot.site i % 16 = 2 ∨ tget 0 t.boot.site i % 16 = 3))
    ∧ (a.val < 16 → s.isGraft a.val = false → ∃ v, exec (.idreq a) s = .next (s.bump.emit (.sideband a true 0x01 (16 * v)))))
  ∧ (∀ (x : Site) (idx : Byte) (w : Word) (s : State),
    (s.isGraft x.val = true → s.populated x.val = true →
      ((s.linkOf x.val).caprd = none → ∃ v, exec (.caprd x idx) s = .next ((s.bump.modLink x.val (fun l =>
          {l with caprd := some idx.toNat})).emit (.sideband (linkId x.val) true 0x04 v)))
      ∧ ((s.linkOf x.val).caprd ≠ none → exec (.caprd x idx) s = .next s)
      ∧ (bits w.toNat 15 0 = 0 ∨ 5 < bits w.toNat 15 0 → ∃ t, exec (.capset x w) s = .next t
          ∧ (t.gateOf x.val).setting = (s.gateOf x.val).setting
          ∧ t.out = .sideband (linkId x.val) true 0x06 (bits w.toNat 15 0) :: s.out)
      ∧ (1 ≤ bits w.toNat 15 0 → bits w.toNat 15 0 ≤ 5 → ∃ t ok, exec (.capset x w) s = .next t
          ∧ t.out = .sideband (linkId x.val) true 0x06 (bits w.toNat 15 0 + 2 ^ 16 * b2n ok) :: s.out
          ∧ (t.gateOf x.val).setting = if ok = true then tput (s.gateOf x.val).setting (bits w.toNat 15 0) (bits w.toNat 63 16)
              else (s.gateOf x.val).setting))
    ∧ (s.isGraft x.val = false → bits w.toNat 15 0 = 2 → ∃ t, exec (.capset x w) s = .next t
          ∧ t.out = .sideband (linkId x.val) true 0x06 (2 + 2 ^ 16) :: s.out)
    ∧ (∀ i, (s.linkOf x.val).caprd = some i → exec (.capdat x w) s = .next ((s.modLink x.val (fun l => {l with caprd := none})).modGate
        x.val (fun g => {g with cap := tput g.cap i w})))
    ∧ ((s.linkOf x.val).caprd = none → exec (.capdat x w) s = .next s)
    ∧ (s.isGraft x.val = true → (s.gateOf x.val).st = .admitting → w.getLsbD 16 = false →
        exec (.capack x w) s = .next (s.graftFence x 6))
    ∧ (w.getLsbD 16 = true → exec (.capack x w) s = .next s))
  ∧ (∀ (a : LinkId) (x : Site) (m : Fin 8) (toHub : Bool) (code : Byte) (w : Word) (s : State),
    ((s.gateOf x.val).powered = true →
      exec (.budget x w) s = .next (s.modLink x.val (fun l => { l with
        budget := BitVec.ofNat 16 w.toNat, bseq := BitVec.ofNat 8 (w.toNat >>> 16) }))
      ∧ exec (.budgetMissingFallback x) s = .next (s.modLink x.val (fun l => {l with budget := BitVec.ofNat 16 (s.coldOf x.val)}))
      ∧ (s.isGraft x.val = false → ∃ t, exec (.report x w) s = .next t ∧ (t.powOf (dieSite x.val)).got = true
        ∧ (t.powOf (dieSite x.val)).reported = bits w.toNat 15 0 ∧ (t.powOf (dieSite x.val)).trip = bit w.toNat 40
        ∧ (t.powOf (dieSite x.val)).miss = 0))
    ∧ ((s.gateOf x.val).powered = false → exec (.budget x w) s = .next s ∧ exec (.report x w) s = .next s
      ∧ exec (.budgetMissingFallback x) s = .next s)
    ∧ exec (.sidebandFence a w) s = .next (s.modLink a.val (fun l => {l with fenceMask := BitVec.ofNat 9 w.toNat}))
    ∧ exec (.remap a w) s = .next (s.modLink a.val (fun l => {l with remap := BitVec.ofNat 8 w.toNat}))
    ∧ (sidebandKnown toHub code.toNat = true → exec (.unknownSidebandMessage a m toHub code) s = .next s)
    ∧ (sidebandKnown toHub code.toNat = false → exec (.unknownSidebandMessage a m toHub code) s =
        .next (s.modDir a.val m.val toHub (fun d => {d with unk := sat8 d.unk 1}))))

/-- A module trains unless REMAP names it absent; with the first configuration tried that passes it is up at that
rate, its sequence numbers starting again, without one it is absent. A configuration's rate is at most the die's, and
a standard package uses no stave; a module whose lanes all pass at the highest rate has it at full width. A retrain
asked for is acknowledged; only one module of a die retrains at a time (R292, R303–R306, R312). Four corrected bits of
a lane within a second signal the cellar master; an hour's end keeps the hour's sum, starts the counts again and
retrains for a lane above its limit; a baseline is the counts of its configuration's first hour; a module failing in
service is absent, REMAP naming it on a compute site, whose other contexts are saved and whose domain is reset once
none is loaded (R308–R311, R313). -/
def Obligations.LinkTraining : Prop :=
  (∀ (a : LinkId) (m : Fin 8) (tries : List TrainTry) (urgent toHub : Bool) (w : Word) (s : State), m.val < linkModules a.val →
    let x := s.modOf a.val m.val
    let off := decide (a.val < 16) && (s.linkOf a.val).remap.getLsbD m.val
    let lanes := if a.val < 16 then 64 else 16
    let found := x.outcome a.val x.step tries
    let after := fun (r : TrainResult) => ((s.modMod a.val m.val (·.trained a.val r)).linkDrain a.val m.val true).linkDrain
      a.val m.val false
    (off = true → ∃ t, exec (.linkTrain a m) s = .next t ∧ (t.modOf a.val m.val).st = .absent)
    ∧ (off = false → ∃ t, exec (.linkTrain a m) s = .next t
        ∧ (t.modOf a.val m.val).st = if x.st = .up ∨ x.st = .retraining then .retraining else .training)
    ∧ (∀ r, found = some r →
      (r.spd.val ≤ topRate a.val ∧ r.spd.val ≠ 0 ∧ (16 ≤ a.val → r.stvuse = 0 ∧ r.txUse = 0))
      ∧ ((x.trained a.val r).st = .up ∧ (x.trained a.val r).rx.spd = r.spd ∧ (x.trained a.val r).rx.rxSeq = none)
      ∧ (x.st = .retraining → exec (.linkTrainDone a m tries) s = .next (after r))
      ∧ (x.st = .training → exec (.linkTrainDone a m tries) s = .next ((after r).dieSettled a.val)))
    ∧ (found = none →
      (x.st = .retraining → exec (.linkTrainDone a m tries) s = .next (s.modMod a.val m.val (·.gone)))
      ∧ (x.st = .training → exec (.linkTrainDone a m tries) s = .next ((s.modMod a.val m.val (·.gone)).dieSettled a.val)))
    ∧ (∀ t ts, tries = t :: ts → x.step = 0 → x.judged = [] →
      t.rx.length = lanes → t.tx.length = lanes → (∀ l ∈ t.rx ++ t.tx, 15 ≤ l.timing ∧ 150 ≤ l.volts ∧ l.errs = 0) →
      ∃ r, found = some r ∧ r.spd.val = topRate a.val ∧ r.half = false ∧ r.stvuse = 0 ∧ r.txUse = 0)
    ∧ (x.st = .idle ∨ x.st = .up ∨ x.st = .absent → exec (.linkTrainDone a m tries) s = .next s)
    ∧ (x.st ≠ .up ∨ (List.range (linkModules a.val)).any (fun i => (s.modOf a.val i).st = .retraining) = true →
        exec (.judgedRetrain a m urgent) s = .next s)
    ∧ (x.st = .up → (List.range (linkModules a.val)).any (fun i => (s.modOf a.val i).st = .retraining) = false → ∃ t,
        exec (.judgedRetrain a m urgent) s = .next t ∧ (t.modOf a.val m.val).st = .retraining
        ∧ t.out = .sideband a false 0x20 (m.val + 8) :: s.out)
    ∧ (bits w.toNat 2 0 = m.val → x.st = .up →
        (bit w.toNat 3 = true → exec (.retrain a toHub w) s =
          .next ((s.modMod a.val m.val (fun x => {x with st := .retraining})).emit (.sideband a (!toHub) 0x20 m.val)))
        ∧ (bit w.toNat 3 = false → exec (.retrain a toHub w) s =
          .next (s.modMod a.val m.val (fun x => {x with st := .retraining})))))
  ∧ (∀ (a : LinkId) (m : Fin 8) (toHub : Bool) (lane : Fin 68) (s : State),
    let d := s.dirOf a.val m.val toHub
    (tget 0 d.sec.2 lane.val < 4 → exec (.laneCorrectedThreshold a m toHub lane) s = .next s)
    ∧ (4 ≤ tget 0 d.sec.2 lane.val → ∃ t, exec (.laneCorrectedThreshold a m toHub lane) s = .next t
      ∧ t.out = .event 1 [a.val, m.val, b2n toHub, lane.val] :: s.out)
    ∧ (∃ t, exec (.laneHourEnd a m toHub) s = .next t ∧ (t.dirOf a.val m.val toHub).hour = []
      ∧ (t.dirOf a.val m.val toHub).lastHour = d.hour.foldl (fun n c => n + c.2) 0
      ∧ ((∀ c ∈ d.hour, c.2 ≤ d.hourLimit c.1) → (t.modOf a.val m.val).st = (s.modOf a.val m.val).st))
    ∧ (d.base = true → ∃ t, exec (.baselineCaptured a m toHub) s = .next t
      ∧ (t.dirOf a.val m.val toHub).baseln = some (d.lcnt.map (fun c => (c.1, c.2.toNat)))
      ∧ (t.dirOf a.val m.val toHub).base = false)
    ∧ (m.val < linkModules a.val → (s.linkOf a.val).fenced = false → ∀ x : Site, a.val = x.val → ∃ t,
      exec (.moduleFailure a m) s = .next t
      ∧ .sideband a false 0x23 ((s.modMod a.val m.val (·.gone)).absentMask x.val) ∈ t.out
      ∧ (s.loadedOn x.val = [] → (t.linkOf a.val).recovering = true ∧ (t.linkOf a.val).failing = false
          ∧ ∀ n ∈ domainNis (.site x), (t.niOf n).eng = true ∧ (t.niOf n).ready = false)
      ∧ (∀ c ∈ s.loadedOn x.val, ∀ p, (s.ctxOf c).pos = some p → p.val / 32 % 8 ≠ m.val →
          (t.linkOf a.val).failing = true ∧ (t.modOf a.val m.val).st = .absent ∧ (t.ctxOf c).saving.isSome = true)))

/-- A graft's request that breaks a rule of the gate is answered REFUSED and counted as a violation with its code; a
fence signal in its own slice is answered OK; a request of a rule that permits it passes the gate. While a freeze
withholds the graft's credits its requests wait, and one beyond them is refused (R297, R325, R329, R331, R335). A
graft's answer to a request into it is passed on and no longer awaited, and makes room for one that waits; an answer
to nothing is a violation; a late one is swallowed. A request into a graft's aperture goes in when its sender may use
it and fewer than 4,096 are in flight, waits when they are as many, is REFUSED and counted when its sender may not,
and BUNGED at an engaged bung; an overdue one is answered BUNGED, and the sixteenth of a second fences the site (R25,
R326–R328, R331). -/
def Obligations.GraftTraffic : Prop :=
  (∀ (x : Site) (q : GReq) (s : State),
    let g := s.gateOf x.val
    let refused := fun (code : Nat) => exec (.graftRequest x q) s = .next (s.refuseGraft x q code q.op.code)
    let open' := s.isGraft x.val = true ∧ g.held = false ∧ graftOp q.op = true ∧ q.sec = false ∧ tget 0 g.setting 5 ≠ 0
    (s.isGraft x.val = false → exec (.graftRequest x q) s = .next s)
    ∧ (s.isGraft x.val = true → g.held = true →
      (g.beyond q = false → exec (.graftRequest x q) s = .next (s.modGate x.val (fun g => {g with kept := g.kept ++ [q]})))
      ∧ (g.beyond q = true → refused 4))
    ∧ (s.isGraft x.val = true → g.held = false → graftOp q.op = false ∨ q.sec = true ∨ tget 0 g.setting 5 = 0 → refused 3)
    ∧ (open' → g.maxout.toNat + 1 ≤ g.out.length → refused 5)
    ∧ (open' → g.out.length ≤ g.maxout.toNat → q.op ≠ .msg →
      (g.matchRule (64 * q.addr.toNat) = none → refused 1)
      ∧ ∀ i r, g.matchRule (64 * q.addr.toNat) = some (i, r) →
        (r.permits g.cache q.op = false → refused 2)
        ∧ (r.permits g.cache q.op = true → exec (.graftRequest x q) s = .next (s.gatePass x q i r)))
    ∧ (open' → g.out.length ≤ g.maxout.toNat → q.op = .msg → q.fence = none → refused 3)
    ∧ (∀ f v, open' → g.out.length ≤ g.maxout.toNat → q.op = .msg → q.fence = some (f, v) →
      (g.fen = false → refused 6)
      ∧ (g.fen = true → fenceReserved v = false →
        (s.fenceOf f.toNat).sigCase (some (s.ctxOf g.fctx.val).slice.val) v ≠ .discarded →
        exec (.graftRequest x q) s = .next
          ((s.fenceSig f.toNat (some (s.ctxOf g.fctx.val).slice.val) v).graftReply x.val q.m.val q.tag.toNat .msg 0 .ok [])))
    ∧ (∃ t, s.refuseGraft x q 3 q.op.code = t ∧ (g.vlim = 0 →
        Sent s t (.graftRsp x q.m q.tag.toNat .refused []) ∧ (t.gateOf x.val).odVio = g.odVio + 1)))
  ∧ (∀ (x : Site) (m : Fin 8) (tag : BitVec 12) (q : NReq) (src : NI) (data : List Sector) (s : State),
    let g := s.gateOf x.val
    let a := 64 * q.addr.toNat % 2 ^ 32
    let ni := niSite x.val (bits a 10 8)
    let u := s.asSent ni src q.tag q.len q.op (64 * q.addr.toNat)
    let allowed := g.adm && g.tgt && a < 2 ^ bits (g.word 2) 37 32
      && (q.op = .rd || q.op = .wr || q.op = .wrp || q.op = .amo)
      && (niMgmt src.toNat || (g.bound && q.qual.toNat = g.slice.val))
    (s.isGraft x.val = true → ∀ st d,
      (∀ i, g.into.find? (fun i => i.m = m && i.tag = tag) = some i → exec (.graftResponse x m tag st d) s =
        .next (((s.modGate x.val (fun g => {g with into := g.into.erase i})).answerInto x i st d).apertureNext x))
      ∧ (g.into.find? (fun i => i.m = m && i.tag = tag) = none →
        (g.late.contains (m, tag) = true → exec (.graftResponse x m tag st d) s =
          .next (s.modGate x.val (fun g => {g with late := g.late.erase (m, tag)})))
        ∧ (g.late.contains (m, tag) = false → exec (.graftResponse x m tag st d) s = .next (s.violate x 7 0 tag.toNat 0))))
    ∧ (s.isGraft x.val = false → exec (.apertureRequest x q src data) s = .next (s.turnAway ni u .noowner))
    ∧ (s.isGraft x.val = true → s.bunged ni = true → exec (.apertureRequest x q src data) s =
      .next ((s.turnAway ni u .bunged).bungCount ni 1))
    ∧ (s.isGraft x.val = true → s.bunged ni = false → allowed = false → exec (.apertureRequest x q src data) s =
      .next (((s.recordAs ni u).answer ni src.toNat q.tag.toNat .refused []).gateDiscard x.val))
    ∧ (s.isGraft x.val = true → s.bunged ni = false → allowed = true →
      (g.into.length < 4096 → ∃ t, exec (.apertureRequest x q src data) s = .next t
        ∧ Sent s t (.toGraft x (modId (s.moduleFor x.val (bits a 10 8))) q.op g.nextTag a q.len.val data)
        ∧ (t.gateOf x.val).into.length = g.into.length + 1)
      ∧ (4096 ≤ g.into.length → ∃ t, exec (.apertureRequest x q src data) s = .next t
        ∧ (t.gateOf x.val).waitIn = g.waitIn ++ [(q, src, data)] ∧ (t.gateOf x.val).into = g.into))
    ∧ (∀ i, g.into.find? (fun i => i.m = m && i.tag = tag) = some i → ∃ t, exec (.graftAnswerOverdue x m tag) s = .next t
      ∧ (g.ovdSec < 15 → (m, tag) ∈ (t.gateOf x.val).late ∧ (t.gateOf x.val).odOvd = g.odOvd + 1
        ∧ (g.waitIn = [] → (t.gateOf x.val).into = g.into.erase i))
      ∧ (15 ≤ g.ovdSec → (t.gateOf x.val).fenced = true ∧ (t.gateOf x.val).cause = 17)))

/-- A rule is written by a hub processor, MGD or the bound driver where it stands, and discarded and counted where it
may not; the gate's control word is written by a hub processor or MGD, and moves no bound gate to another slice; its
`bound` cleared ends a freeze's hold; a second's end judges the violations and overdue answers of the second
(R322–R324, R330, R332, R335). An admission runs at a populated graft site whose modules have trained, and at no
other. One whose evidence passes every step admits the graft: its bungs open, its settings stand, it has no binding,
its violation limit is 4,096; one that fails, or a step that takes too long, fences the site with the step's code; a
fenced site can be taken up again (R319, R332, R336, R337, R475). -/
def Obligations.GraftControl : Prop :=
  (∀ (who : Who) (x : Site) (rule : Fin 16) (word : Fin 4) (v : Word) (s : State),
    let g := s.gateOf x.val
    let r := (g.ruleOf rule.val).wrote word.val v
    let stands := (who.driver = false ∨ g.bound = true) ∧ (r.en = false ∨ s.ruleOk g r who.mgmt = true)
    let sl := bits v.toNat 7 2 % 64
    let zero := s.modGate x.val (fun g => {g with vioSec := 0, ovdSec := 0})
    let shut := s.bunged (niService (fieldOfSite x.val) 3)
    (who.mgmt = true ∨ (who.driver = true ∧ shut = false) →
      (stands → exec (.gateRuleWrite who x rule word v) s =
        .next ((s.modGate x.val (fun g => {g with rule := tput g.rule rule.val r})).ack who .ok))
      ∧ (¬ stands → exec (.gateRuleWrite who x rule word v) s = .next ((s.gateDiscard x.val).ack who .ok)))
    ∧ (who.mgmt = false → exec (.gateCtlWrite who x v) s = .next (s.ack who .refused)
      ∧ (who.driver = true → shut = true → exec (.gateRuleWrite who x rule word v) s = .next (s.ack who .bunged))
      ∧ (who.driver = false → shut = false → exec (.gateRuleWrite who x rule word v) s = .next (s.ack who .refused)))
    ∧ (who.mgmt = true → g.bound = true → g.slice.val ≠ sl → exec (.gateCtlWrite who x v) s =
        .next ((s.gateDiscard x.val).ack who .ok))
    ∧ (who.mgmt = true → g.bound = false ∨ g.slice.val = sl → ∃ t, exec (.gateCtlWrite who x v) s = .next t
      ∧ (t.gateOf x.val).slice.val = sl ∧ (t.gateOf x.val).bound = bit v.toNat 8 ∧ (t.gateOf x.val).fen = bit v.toNat 34
      ∧ (t.gateOf x.val).vlim.toNat = bits v.toNat 50 35
      ∧ (bit v.toNat 8 = false → ∀ p ∈ (t.gateOf x.val).rule, p.2.en = false)
      ∧ (bit v.toNat 8 = false → g.kept = [] → (t.gateOf x.val).held = false))
    ∧ (s.isGraft x.val = true →
      (g.vlim ≠ 0 → g.vlim.toNat ≤ g.vioSec → exec (.graftSecondEnd x) s = .next (zero.graftFence x 16))
      ∧ (g.vioSec < g.vlim.toNat → 16 ≤ g.ovdSec → exec (.graftSecondEnd x) s = .next (zero.graftFence x 17))
      ∧ (g.vioSec < g.vlim.toNat → g.ovdSec < 16 → exec (.graftSecondEnd x) s = .next zero)))
  ∧ (∀ (x : Site) (e : AdmEvidence) (step : Fin 16) (cause : Fin 8) (s : State),
    let g := s.gateOf x.val
    s.isGraft x.val = true → s.populated x.val = true →
    (s.admitting x.val = true → s.boot.feat.getLsbD 3 = true → s.admissionCode x.val e = 0 → ∃ t, exec (.admission x e) s = .next t
      ∧ (t.gateOf x.val).adm = true ∧ (t.gateOf x.val).bound = false ∧ (t.gateOf x.val).st = .admitted ∧ (t.gateOf x.val).vlim = 4096
      ∧ (t.gateOf x.val).cache = bit (nth 0 e.words 2).toNat 0
      ∧ (t.gateOf x.val).maxout.toNat = (bits (nth 0 e.words 2).toNat 28 16 - 1) % 4096
      ∧ (t.linkOf x.val).fenced = false
      ∧ ∀ p ∈ ([(1, x.val), (2, min e.minor.toNat 2), (3, b2n (bit (nth 0 e.words 2).toNat 0)),
          (4, bits (nth 0 e.words 2).toNat 28 16), (5, 1)] : List (Nat × Nat)),
        .sideband (linkId x.val) false 0x05 (p.1 + 2 ^ 16 * p.2) ∈ t.out)
    ∧ (s.admitting x.val = true → s.boot.feat.getLsbD 3 = true → s.admissionCode x.val e ≠ 0 → ∃ t, exec (.admission x e) s = .next t
      ∧ (t.gateOf x.val).adm = false ∧ (t.gateOf x.val).st = .fenced ∧ (t.gateOf x.val).cause = s.admissionCode x.val e)
    ∧ (s.admitting x.val = true → s.boot.feat.getLsbD 3 = false → ∃ t, exec (.admission x e) s = .next t
      ∧ (t.gateOf x.val).fenced = true ∧ tget 0 t.boot.site x.val % 16 = 9)
    ∧ (s.admitting x.val = true → 1 ≤ step.val → step.val ≤ 10 → ∃ t, exec (.admissionStepTimeout x step) s = .next t
      ∧ (t.gateOf x.val).st = .fenced ∧ (t.gateOf x.val).cause = stepCode step.val)
    ∧ (s.admitting x.val = false → exec (.admission x e) s = .next s ∧ exec (.admissionStepTimeout x step) s = .next s)
    ∧ (cause.val < 4 → ∃ t, exec (.graftFence x cause) s = .next t ∧ (t.gateOf x.val).fenced = true
      ∧ (t.gateOf x.val).powered = false ∧ (t.gateOf x.val).cause = 16 + cause.val
      ∧ ∀ j, j < 8 → (t.niOf (niSite x.val j)).eng = true)
    ∧ (g.fenced = true → ∃ t, exec (.graftReadmit x) s = .next t ∧ (t.gateOf x.val).st = .admitting
      ∧ (t.gateOf x.val).powered = true ∧ (t.linkOf x.val).fenced = false)
    ∧ (g.fenced = false → exec (.graftReadmit x) s = .next s))

/-- A host's access to the control window: nothing with the link down; a write waits for the endpoint's earlier
aperture writes, and nothing passes what waits; Completer Abort when the endpoint has stopped; Unsupported Request
when it is not 4 B or 8 B and aligned; a read of a hub register answers its value, or 0 counted as discarded before
bring-up ends; a segment entry outside the casks or above key slot 44 is discarded and counted (R272, R343–R347,
R358). A register write of 8 B goes to the register its address names: below the hub's registers it is refused; a hub
processor, MGD or a core writes it with its own rights; a host's write to what it may only read is discarded and
counted; one behind the bung of the NI that owns the register is answered BUNGED; a host writes only its own
endpoint's window (R16, R342, R343, R600). -/
def Obligations.RegisterAccess : Prop :=
  (∀ (e : Ep) (wr : Bool) (off : BitVec 27) (size : Fin 9) (data : Word) (i : Fin 64) (s : State),
    let h := s.epOf e
    let go := exec (.hostControlAccess e wr off size data) s
    let fits := (size = 4 ∨ size = 8) ∧ off.toNat % size.val = 0
    let waits := (wr && s.hostWaits e) || !h.later.isEmpty
    let up := h.linkUp = true ∧ waits = false
    (h.linkUp = false → go = .next s)
    ∧ (h.linkUp = true → waits = true → go = .next (s.hostLater e (.control wr off size data)))
    ∧ (up → h.stopped = true →
        go = .next (if wr then (s.cwDiscard e).wrErr e .ca else s.cplErr e .ca))
    ∧ (up → h.stopped = false → ¬ fits →
        go = .next (if wr then (s.cwDiscard e).wrErr e .ur else s.cplErr e .ur))
    ∧ (up → h.stopped = false → fits → wr = true → go = .next (s.cwWrite e off.toNat size.val data.toNat))
    ∧ (∀ o, up → h.stopped = false → fits → wr = false → windowHub (off.toNat / 8 * 8) = some o →
        (s.boot.ready = true → h.flr = false → (hubAt o).void = false →
          (s.bunged (hubOwner o) = false → go = .next (s.emit (.pcieCpl e .success
            (leBytes size.val (partOf size.val off.toNat (s.hubGet (.host e) (hubAt o)).2)))))
          ∧ (s.bunged (hubOwner o) = true → go = .next (s.cplErr e .ca)))
        ∧ (s.boot.ready = false → go = .next ((s.cwDiscard e).emit (.pcieCpl e .success (leBytes size.val 0)))))
    ∧ (let bad := bit data.toNat 0 && (11 < bits data.toNat 47 36 || 44 < bits data.toNat 35 30)
      (bad = true → exec (.segmentWrite e i data) s = .next (s.cwDiscard e))
      ∧ (bad = false → exec (.segmentWrite e i data) s = .next (s.modEp e (fun h =>
          {h with seg := tput h.seg i.val (BitVec.ofNat 64 (bits data.toNat 7 0 + 2 ^ 30 * bits data.toNat 47 30))})))))
  ∧ (∀ (who : Who) (pa : PA) (e : Ep) (off : BitVec 27) (o : BitVec 20) (x : Site) (v : Word) (s : State),
    let r := hubAt ((pa.toNat - 0xF000000000) / 8 * 8)
    let shut := s.bunged (hubOwner (pa.toNat - 0xF000000000))
    (pa.toNat < 0xF000000000 → exec (.registerWrite who (.hub pa) v) s = .next (s.ack who .refused))
    ∧ (0xF000000000 ≤ pa.toNat → shut = true → who.mgmt = false →
        exec (.registerWrite who (.hub pa) v) s = .next (s.ack who .bunged))
    ∧ (0xF000000000 ≤ pa.toNat → (∀ e, who ≠ .host e) → shut = false ∨ who.mgmt = true →
        exec (.registerWrite who (.hub pa) v) s = .next (s.hubPut who r v.toNat))
    ∧ (0xF000000000 ≤ pa.toNat → shut = false → r.hostRo = true →
        exec (.registerWrite (.host e) (.hub pa) v) s = .next ((s.cwDiscard e).ack (.host e) .ok))
    ∧ (0xF000000000 ≤ pa.toNat → shut = false → r.hostRo = false →
        exec (.registerWrite (.host e) (.hub pa) v) s = .next (s.hubPut (.host e) r v.toNat))
    ∧ exec (.registerWrite (.host e) (.epctl e off) v) s = .next (s.epWrite e (off.toNat / 8 * 8) v.toNat none)
    ∧ (who ≠ .host e → exec (.registerWrite who (.epctl e off) v) s = .next (s.ack who .refused))
    ∧ (∀ n : Fin 16, o.toNat = 0x400 + 4 * n.val →
        exec (.registerWrite who (.die x o) v) s = exec (.clmapWrite who x n v) s))

/-- An aperture access whose segment is not enabled, or a write to one that is read-only: a read completes as
Unsupported Request, once the endpoint's writes before it are performed; a write is discarded and logged as one, no
cask changes, and `apref` counts it (R348). -/
def Obligations.ApertureRefusals : Prop :=
  ∀ (e : Ep) (off : BitVec 42) (len : Fin 4097) (data : List Byte) (poisoned : Bool) (s : State),
    let h := s.epOf e
    let g := h.segOf off.toNat
    let counted := fun (t : State) => t.cask = s.cask ∧ t.die = s.die ∧ (t.epOf e).apref = satHalf h.apref
    h.linkUp = true → h.stopped = false →
    (g.testBit 0 = false → counted (s.apRead e off len) ∧ Msg.pcieCpl e .ur [] ∈ (s.apRead e off len).out)
    ∧ (s.hostWaits e = false → exec (.apertureRead e off len) s = .next (s.apRead e off len))
    ∧ (s.hostWaits e = true → exec (.apertureRead e off len) s = .next (s.hostLater e (.aperture off len)))
    ∧ (g.testBit 0 = false ∨ g.testBit 1 = true → ∃ t, exec (.apertureWrite e off data poisoned) s = .next t ∧ counted t
      ∧ (t.epOf e).aerUnc.testBit 20 = true)

/-- An aperture access without an enabled segment ends as Unsupported Request and on a stopped endpoint as Completer
Abort, counted in `apref`; a read whose sectors are all granted is completed in order with their bytes, poison apart,
and one behind the endpoint's unperformed writes waits; a write goes to the address its segment gives (R272,
R346–R349, R355, R358). A doorbell write rings its queue for its own endpoint's host, and is discarded and counted
when the endpoint has stopped, before bring-up ends, and when it is poisoned or of the wrong size; it passes no
unperformed aperture write; a warm reset asked for is taken up as R461 says (R272, R344, R350, R371). A host-window
request behind an engaged bung is answered BUNGED; where the endpoint takes none in, HOSTERR; a write is answered OK
once it is queued, a read when its completion comes: with its bytes, HOSTERR on an error or a timeout (R351–R353,
R358). A host's read that the hub has not answered in time completes as Completer Abort (R355). A vector that is
masked, or whose endpoint sends none, becomes pending; with every mask open it leaves as a message with its entry's
address and data; unmasking sends what is pending (R356, R357). -/
def Obligations.HostAccesses : Prop :=
  (∀ (e : Ep) (off : BitVec 42) (len : Fin 4097) (data : List Byte) (s : State),
    let h := s.epOf e
    let g := h.segOf off.toNat
    let pa := segPa g off.toNat
    let now := s.hostWaits e = false
    (h.linkUp = false → exec (.apertureRead e off len) s = .next s ∧ exec (.apertureWrite e off data false) s = .next s)
    ∧ (h.linkUp = true → s.hostWaits e = true →
        exec (.apertureRead e off len) s = .next (s.hostLater e (.aperture off len)))
    ∧ (h.linkUp = true → h.stopped = true → (now → exec (.apertureRead e off len) s = .next ((s.apRefuse e).cplErr e .ca))
        ∧ exec (.apertureWrite e off data false) s = .next ((s.apRefuse e).wrErr e .ca))
    ∧ (h.linkUp = true → h.stopped = false → bit g 0 = false →
        (now → exec (.apertureRead e off len) s = .next ((s.apRefuse e).cplErr e .ur))
        ∧ exec (.apertureWrite e off data false) s = .next ((s.apRefuse e).wrErr e .ur))
    ∧ (h.linkUp = true → h.stopped = false → bit g 0 = true →
      (
        let a := s.apSectors e (bits g 7 2) pa len.val
        (now → a.1 ≠ .ok → exec (.apertureRead e off len) s = .next ((a.2.2.apRefuse e).cplErr e .ca))
        ∧ (now → a.1 = .ok → (∀ c ∈ a.2.1, c.2 = false) → ∃ t, exec (.apertureRead e off len) s = .next t
          ∧ t.out = ((completions a.2.1).map (fun c => Msg.pcieCpl e .success c.1)).reverse ++ a.2.2.out))
      ∧ (bit g 1 = true → exec (.apertureWrite e off data false) s = .next ((s.apRefuse e).wrErr e .ur))
      ∧ (bit g 1 = false →
        let b := s.agentPut (epRights e) .wri (bits g 7 2) pa data
        (b.1 = .ok → exec (.apertureWrite e off data false) s = .next b.2)
        ∧ (b.1 ≠ .ok → exec (.apertureWrite e off data false) s = .next ((b.2.apRefuse e).wrErr e .ca)))))
  ∧ (∀ (e : Ep) (off : BitVec 26) (size : Fin 9) (data : Word) (s : State),
    let h := s.epOf e
    let fits := (size = 4 ∨ size = 8) ∧ off.toNat % size.val = 0
    let rung := s.emit (.ctl 1 [off.toNat / 4096, off.toNat % 4096, data.toNat])
    let up := h.linkUp = true ∧ s.hostWaits e = false
    (h.linkUp = false → exec (.doorbellWrite e off size data false) s = .next s)
    ∧ (h.linkUp = true → s.hostWaits e = true → ∀ p,
        exec (.doorbellWrite e off size data p) s = .next (s.hostLater e (.doorbell off size data p)))
    ∧ (up → h.stopped = true ∨ s.boot.ready = false ∨ ¬ fits →
        exec (.doorbellWrite e off size data false) s = .next (s.dbDrop e))
    ∧ (up → exec (.doorbellWrite e off size data true) s = .next (s.dbDrop e))
    ∧ (up → h.stopped = false → s.boot.ready = true → fits →
      (off.toNat % 4096 = 0 → exec (.doorbellWrite e off size data false) s =
        .next (rung.ringDoorbell (off.toNat / 4096) (data.setWidth 32) (some e)))
      ∧ (off.toNat % 4096 ≠ 0 → exec (.doorbellWrite e off size data false) s = .next rung))
    ∧ exec (.warmResetRequest e) s = .next s.warmRequest)
  ∧ (∀ (e : Ep) (q : HwReq) (id : Nat) (s : State),
    let h := s.epOf e
    let ni := niEp e (bits q.iova.toNat 9 8)
    let cnt := (q.iova.toNat % 64 + q.len + 63) / 64
    let w := s.asSent ni q.src q.tag ⟨(cnt - 1) % 4, Nat.mod_lt _ (by decide)⟩ (if q.wr then .wr else .rd) q.iova.toNat
    let u := s.recordAs ni w
    (s.bunged ni = true → exec (.hostWindowRequest e q) s = .next ((s.turnAway ni w .bunged).bungCount ni 1))
    ∧ (s.bunged ni = false →
      (h.takes = false → exec (.hostWindowRequest e q) s = .next (u.hostFail e q))
      ∧ (h.takes = true → exec (.hostWindowRequest e q) s =
        .next (if q.wr then (u.enqueueOut e q).hostAnswer e q .ok [] false else u.enqueueOut e q)))
    ∧ (∀ k data, h.sentRead id = none → exec (.hostCompletion e id k data) s = .next (s.aer e .unexpectedCpl true))
    ∧ (∀ r data, h.sentRead id = some r → data.length = h.joinedLen id →
      exec (.hostCompletion e id .success data) s =
        .next ((s.modEp e (fun h => {h with outq := giveData id .ok false data h.outq})).hostReturn e)
      ∧ exec (.hostCompletion e id .ur data) s =
        .next ((s.modEp e (fun h => {h with outq := giveData id .hosterr false data h.outq})).hostReturn e)
      ∧ exec (.hostCompletionTimeout e id) s = .next
        (((s.aer e .cplTimeout).modEp e (fun h => {h with outq := giveData id .hosterr false [] h.outq})).hostReturn e))
    ∧ (h.outq = [] → exec (.hostCompletionTimeout e id) s = .next s)
    ∧ (h.later[id]? = none → exec (.hostRequestHubTimeout e id) s = .next ((s.aer e .completerAbort).emit (.pcieCpl e .ca [])))
    ∧ (∀ off len, h.later[id]? = some (.aperture off len) → ∃ t, exec (.hostRequestHubTimeout e id) s = .next t
      ∧ t.out.head? = some (.pcieCpl e .ca []) ∧ (t.epOf e).apref = satHalf h.apref ∧ (t.epOf e).later = h.later.eraseIdx id)
    ∧ (∀ off size v, h.later[id]? = some (.control true off size v) → exec (.hostRequestHubTimeout e id) s = .next s))
  ∧ (∀ (e : Ep) (vec : Fin 2048) (s : State),
    let h := s.epOf e
    let m := h.msixOf vec.val
    (h.fmask = true ∨ m.mask = true ∨ h.msixEn = false ∨ h.takes = false → exec (.msixTrigger e vec) s =
      .next (s.modEp e (fun h => {h with msix := tput h.msix vec.val {m with pend := true}})))
    ∧ (h.fmask = false → m.mask = false → h.msixEn = true → h.takes = true → h.stopped = false → h.outq = [] →
      ∃ t, exec (.msixTrigger e vec) s = .next t ∧ t.out = .msix e m.addr.toNat m.data.toNat :: s.out
        ∧ (t.epOf e).outq = [])
    ∧ (∃ t, exec (.msixUnmask e (.vector vec)) s = .next t ∧ ((t.epOf e).msixOf vec.val).mask = false
      ∧ (h.fmask = false → h.msixEn = true → h.takes = true → ((t.epOf e).msixOf vec.val).pend = false))
    ∧ (∃ t, exec (.msixUnmask e .function) s = .next t ∧ (t.epOf e).fmask = false))

/-- The link of an endpoint comes up only when it is started, out of reset and not strapped off; going down answers
the reads waiting and counts the writes lost; an endpoint reset clears its registers and its queue; starting ends a
reset in progress; an uncorrectable internal error stops the endpoint (R353, R357–R360, R585). A configuration write
takes its field; with Bus Master Enable off, the reads that wait are answered; an error is logged at its bit and
reported by message unless masked; the configuration header identifies the endpoint (R339, R340, R353, R358). -/
def Obligations.Endpoints : Prop :=
  (∀ (e : Ep) (s : State),
    let h := s.epOf e
    (s.epMayLink e = false → exec (.hostLinkUp e) s = .next s)
    ∧ (s.epMayLink e = true → ∃ t, exec (.hostLinkUp e) s = .next t ∧ (t.epOf e).linkUp = true)
    ∧ (∃ t, exec (.hostLinkDown e) s = .next t ∧ (t.epOf e).linkUp = false ∧ (t.epOf e).outq = [])
    ∧ (∀ c ∈ [(Instr.fundamentalReset e, true), (.hotReset e, false), (.flr e, false)], ∃ t, exec c.1 s = .next t
      ∧ (t.epOf e).flr = true ∧ (t.epOf e).bme = false ∧ (t.epOf e).msixEn = false ∧ (t.epOf e).seg = []
      ∧ (t.epOf e).mbox.busy = false ∧ (t.epOf e).perst = (h.perst || c.2) ∧ (t.epOf e).outq = [] ∧ (t.epOf e).stopped = false)
    ∧ (∃ t, exec (.flr e) s = .next t ∧ (t.epOf e).linkUp = h.linkUp)
    ∧ (h.started = true → bit s.power.strap.toNat (1 + e.code) = false → ∃ t, exec (.endpointStart e) s = .next t
      ∧ (t.epOf e).flr = false ∧ (t.epOf e).linkUp = true ∧ (t.epOf e).perst = false)
    ∧ (∀ c ∈ [Instr.endpointUncorrectable e, .pcieLinkError e .uncorrectableInternal], ∃ t, exec c s = .next t
      ∧ (t.epOf e).stopped = true ∧ bit (t.epOf e).aerUnc 22 = true))
  ∧ (∀ (e : Ep) (v : Byte) (s : State),
    (∃ t, exec (.hostConfigWrite e .busMaster v) s = .next t ∧ (t.epOf e).bme = bit v.toNat 0
      ∧ (bit v.toNat 0 = false → ∀ r, Outb.req r ∈ (t.epOf e).outq → r.sent = true ∨ r.r.wr = true))
    ∧ (∃ t, exec (.hostConfigWrite e .msixEnable v) s = .next t ∧ (t.epOf e).msixEn = bit v.toNat 0)
    ∧ (∃ t, exec (.hostConfigWrite e .funcMask v) s = .next t ∧ (t.epOf e).fmask = bit v.toNat 0)
    ∧ (∃ t, exec (.hostConfigWrite e .pasidEnable v) s = .next t ∧ (t.epOf e).pasidEn = bit v.toNat 0)
    ∧ (∃ t, exec (.hostConfigWrite e .maxPayload v) s = .next t ∧ (t.epOf e).maxPayload = v.toNat % 8)
    ∧ (∃ t, exec (.hostConfigWrite e .maxReadReq v) s = .next t ∧ (t.epOf e).maxRead = v.toNat % 8)
    ∧ (∀ w, (∃ t, exec (.hostConfigWrite e (.aerUncStatus w) v) s = .next t
        ∧ (t.epOf e).aerUnc = (s.epOf e).aerUnc &&& (~~~w).toNat
        ∧ ∀ err, (s.epOf e).aerFirst = some err → (t.epOf e).aerFirst = if w.getLsbD (pcieErrPlace err).2 then none else some err)
      ∧ (∃ t, exec (.hostConfigWrite e (.aerUncMask w) v) s = .next t ∧ (t.epOf e).aerUncMask = w.toNat &&& 0x57F010)
      ∧ (∃ t, exec (.hostConfigWrite e (.aerSeverity w) v) s = .next t ∧ (t.epOf e).aerSev = w.toNat &&& 0x57F010)
      ∧ (∃ t, exec (.hostConfigWrite e (.aerCorMask w) v) s = .next t ∧ (t.epOf e).aerCorMask = w.toNat &&& 0xF1C1))
    ∧ s.cfgHeader e 0 = 0x1E7B + 2 ^ 16 * (0x4832 + e.code)
    ∧ bits (s.cfgHeader e 2) 31 8 = 0x120000 ∧ bits (s.cfgHeader e 2) 7 0 = bits (s.dieRev (16 + e.code)) 7 0
    ∧ bits (s.cfgHeader e 0xB) 15 0 = 0x1E7B ∧ s.cfgHeader e 0xB / 2 ^ 16 = subsystemId s.fuses.code
    ∧ bits (s.cfgHeader e 3) 23 16 = 0 ∧ bits (s.cfgHeader e 0xF) 15 8 = 0 ∧ cfgCaps = [1, 0x10, 0x11]
    ∧ (∀ err b, pcieErrPlace err = (false, b) → exec (.pcieLinkError e err) s = .next (s.aerCorrectable e b))
    ∧ (∀ err b, err ≠ .uncorrectableInternal → pcieErrPlace err = (true, b) → bit (s.epOf e).aerUncMask b = false →
        (s.epOf e).aerFirst = none → ∃ t, exec (.pcieLinkError e err) s = .next t
        ∧ (t.epOf e).aerFirst = some err ∧ (t.epOf e).aerUnc = (s.epOf e).aerUnc ||| 2 ^ b
        ∧ t.out = .pcieErr e (if bit (s.epOf e).aerSev b then 2 else 1) :: s.out))

/-- A command given to a busy block is discarded and counted. CTXCREATE makes a FREE slot with legal fields LIVE; the
commands on contexts begin what they name on a context in the right state and otherwise end with BADSTATE or BADARG at
once (R363–R365, R379, R380). QENABLE turns an OFF queue with legal fields ON, empty; QDISABLE drains one that is ON
or in ERROR; QRESUME takes one in ERROR with cause DESC past its failed entries; each writes the status line; in any
other state they end with BADSTATE (R369, R370, R373, R379). FARM arms a fence that is not armed, or was abandoned,
with a value outside the reserved range; FSIGNAL signals it; FABANDON abandons an armed one; FDISARM disarms one that
nothing waits on or that is abandoned (R375–R379). -/
def Obligations.MachineryCommands : Prop :=
  (∀ (b : Fin 4) (x : CtxId) (q : QId) (f : FenceId) (s : State),
    let blk := s.cmdOf b.val
    let c := s.ctxOf x.val
    let legal := c.smask ≠ 0 ∧ s.badSites c.smask = false ∧ saveAreaOk c.sbase.toNat = true
    let ended := fun (op code : Nat) => (s.cmdStart b.val op x.val).cmdEnd b.val code
    let frozen := s.sliceFrozen c.slice.val
    (blk.busy = true → ∀ i ∈ cmdRows b x q f, exec i s = .next (s.modHub (fun h => {h with cmdDisc := h.cmdDisc + 1})))
    ∧ (blk.busy = false →
      (¬ legal → exec (.ctxcreate b x) s = .next (ended 1 2))
      ∧ (legal → c.state ≠ .free ∨ (s.sliceOf c.slice.val).state ≠ .active → exec (.ctxcreate b x) s = .next (ended 1 1))
      ∧ (legal → c.state = .free → (s.sliceOf c.slice.val).state = .active → ∃ t, exec (.ctxcreate b x) s = .next t
        ∧ (t.ctxOf x.val).state = .live ∧ (t.ctxOf x.val).cause = 0 ∧ (t.ctxOf x.val).nload = 0 ∧ (t.ctxOf x.val).npre = 0
        ∧ (blk.arg0.getLsbD 0 = true → c.want = none → c.pos = none → (t.ctxOf x.val).want = some s.hub.wantSeq)
        ∧ (t.cmdOf b.val).busy = false ∧ (t.cmdOf b.val).code = 0)
      ∧ (c.state = .live ∨ c.state = .lost → frozen = false → exec (.ctxdestroy b x) s =
        .next ((s.cmdStart b.val 2 x.val).abortBegin x.val .free (some b)))
      ∧ ((c.state ≠ .live ∧ c.state ≠ .lost) ∨ frozen = true → exec (.ctxdestroy b x) s = .next (ended 2 1))
      ∧ (c.state = .live → frozen = false → exec (.ctxabort b x) s =
        .next (((s.cmdStart b.val 3 x.val).logEvent 2 dieHub 0x2A00 x.val 1).abortBegin x.val (.lost .abort) (some b)))
      ∧ (c.state ≠ .live ∨ frozen = true → exec (.ctxabort b x) s = .next (ended 3 1))
      ∧ (∀ p, c.state = .live → c.pos = some p → c.saving = none → exec (.ctxpreempt b x) s =
        .next ((s.cmdStart b.val 4 x.val).saveBegin p x.val (.command b)))
      ∧ (c.state ≠ .live ∨ c.pos = none → exec (.ctxpreempt b x) s = .next (ended 4 1))))
  ∧ (∀ (b : Fin 4) (q : QId) (s : State), (s.cmdOf b.val).busy = false →
    let u := s.queueOf q.val
    let legal := (u.kind = 1 ∨ u.kind = 2) ∧ u.lgn.toNat ≤ 12 ∧ u.rbase.toNat % 64 = 0 ∧ u.sline.toNat % 64 = 0
      ∧ (u.kind = 1 → u.cbase.toNat % 32 = 0)
    let owner := (s.ctxOf u.ctx.val).state
    (¬ legal → exec (.qenable b q) s = .next ((s.cmdStart b.val 5 q.val).cmdEnd b.val 2))
    ∧ (legal → u.state ≠ .off ∨ owner ≠ .live → exec (.qenable b q) s = .next ((s.cmdStart b.val 5 q.val).cmdEnd b.val 1))
    ∧ (legal → u.state = .off → owner = .live → exec (.qenable b q) s =
      .next ((((s.cmdStart b.val 5 q.val).modQueue q.val (fun u => { u with
        head := 0, tail := 0, fetched := 0, failed := 0, state := .on, err := 0, stalled := false, lineDue := false,
        frozenDb := 0 })).statusLine q.val).cmdEnd b.val 0))
    ∧ (u.state = .on ∨ u.state = .error → exec (.qdisable b q) s =
      .next (((((s.cmdStart b.val 6 q.val).modQueue q.val (fun u => {u with state := .drain, drainBlk := some b})).modHub
        (fun h => {h with desc := h.desc.filter (fun d => !(d.queue = some q.val && d.st = .queued))})).statusLine q.val).drainEnd
        q.val))
    ∧ (u.state ≠ .on → u.state ≠ .error → exec (.qdisable b q) s = .next ((s.cmdStart b.val 6 q.val).cmdEnd b.val 1))
    ∧ (u.state = .error → u.err = 1 → exec (.qresume b q) s =
      .next ((((s.cmdStart b.val 7 q.val).modQueue q.val (fun u => { u with
        state := .on, err := 0, head := u.head + BitVec.ofNat 32 u.failed, failed := 0 })).statusLine q.val).cmdEnd b.val 0))
    ∧ (u.state ≠ .error ∨ u.err ≠ 1 → exec (.qresume b q) s = .next ((s.cmdStart b.val 7 q.val).cmdEnd b.val 1)))
  ∧ (∀ (b : Fin 4) (f : FenceId) (s : State), (s.cmdOf b.val).busy = false →
    let o := s.fenceOf f.val
    let v := (s.cmdOf b.val).arg0
    let u := fun (op : Nat) => s.cmdStart b.val op f.val
    (fenceReserved v = true → exec (.farm b f) s = .next ((u 8).cmdEnd b.val 3))
    ∧ (fenceReserved v = false → o.armed = true → o.aband = false → exec (.farm b f) s = .next ((u 8).cmdEnd b.val 1))
    ∧ (fenceReserved v = false → o.armed = false ∨ o.aband = true → ∃ t, exec (.farm b f) s = .next t
      ∧ (t.fenceOf f.val).value = v ∧ (t.fenceOf f.val).armed = true ∧ (t.fenceOf f.val).aband = false
      ∧ (t.cmdOf b.val).busy = false ∧ (t.cmdOf b.val).code = 0)
    ∧ exec (.fsignal b f) s = .next (((u 9).fenceSig f.val none v).cmdEnd b.val (if fenceReserved v then 3 else 0))
    ∧ (o.armed = true → exec (.fabandon b f) s = .next (((u 10).fenceAbandon f.val).cmdEnd b.val 0)
      ∧ (((u 10).fenceAbandon f.val).fenceOf f.val).aband = true)
    ∧ (o.armed = false → exec (.fabandon b f) s = .next ((u 10).cmdEnd b.val 1))
    ∧ (o.aband = false → s.fenceWaited f.val = true → exec (.fdisarm b f) s = .next ((u 11).cmdEnd b.val 1))
    ∧ (o.aband = true ∨ s.fenceWaited f.val = false → exec (.fdisarm b f) s =
      .next (((u 11).modFence f.val (fun o => {o with armed := false, pen := false})).cmdEnd b.val 0)))

/-- Slots of contexts, queues and fences are written by the host, hub processors and MGD: a word the host may not
write is discarded and counted; a core or graft is refused; behind the bung of the NI that owns the slot it is
answered BUNGED (R600). A context's slice, sites, save area and root change only while it is FREE, a queue's fields
only while it is OFF, a fence's slice only while it is not armed (R343, R362–R364, R369, R375). A doorbell to a queue
that is not ON, or of a context that is not LIVE, and one that moves the tail back, is discarded and counted; one past
the ring ends the queue with OVERRUN; any other moves the tail. A core rings only the queues of its own context; an
entry is fetched from the ring in order, by the NI of the controller that owns the queue (R369, R371, R372, R374,
R600). The last steps of an abort leave the context FREE when it was destroyed and LOST with its cause otherwise, and
end the command; a position held by an abort is released once its buffers are free (R363, R380). -/
def Obligations.MachineryRegisters : Prop :=
  (∀ (e : Ep) (h : Hart) (x : CtxId) (q : QId) (f : FenceId) (i : Fin 16) (j : Fin 8) (v : Word) (s : State),
    let c := s.ctxOf x.val
    let u := s.queueOf q.val
    let o := s.fenceOf f.val
    let guarded := fun (c : Who → Instr) (ok : Bool) (ni : Nat) =>
      (ok = false → exec (c .hubctl) s = .next (s.ack .hubctl .ok))
      ∧ (s.bunged ni = true → exec (c (.core h)) s = .next (s.ack (.core h) .bunged)
        ∧ exec (c (.host e)) s = .next (s.ack (.host e) .bunged))
      ∧ (s.bunged ni = false → exec (c (.core h)) s = .next (s.ack (.core h) .refused))
      ∧ (s.bunged ni = false → ok = false → exec (c (.host e)) s = .next ((s.cwDiscard e).ack (.host e) .ok))
    guarded (fun w => .contextSlotWrite w x i v) (1 ≤ i.val && i.val ≤ 11) (machineryNi x.val)
    ∧ guarded (fun w => .queueSlotWrite w q j v) (j.val ≤ 3) (machineryNi q.val)
    ∧ guarded (fun w => .fenceCfgWrite w f j v) (j = 1 || j = 2) (niService (f.val % 4) 1)
    ∧ (1 ≤ i.val → i.val ≤ 11 → s.bunged (machineryNi x.val) = false → exec (.contextSlotWrite (.host e) x i v) s =
      .next ((s.modCtx x.val (fun c => c.write i.val v)).ack (.host e) .ok))
    ∧ (c.state ≠ .free → c.write 1 v = c ∧ c.write 2 v = c ∧ c.write 3 v = c)
    ∧ (c.state = .free → (c.write 1 v).slice.val = v.toNat % 64 ∧ (c.write 1 v).prio.toNat = bits v.toNat 7 6
      ∧ (c.write 1 v).smask.toNat = bits v.toNat 23 8 ∧ (c.write 2 v).sbase.toNat = bits v.toNat 47 16 ∧ (c.write 3 v).s1root = v &&& 0xFFFFFFFFF003)
    ∧ (j.val ≤ 3 → s.bunged (machineryNi q.val) = false → exec (.queueSlotWrite (.host e) q j v) s =
      .next ((s.modQueue q.val (fun u => u.write j.val v)).ack (.host e) .ok))
    ∧ (u.state ≠ .off → u.write j.val v = u)
    ∧ (∃ t, exec (.fenceCfgWrite .hubctl f 1 v) s = .next t
      ∧ (t.fenceOf f.val).slice.val = (if o.armed then o.slice.val else v.toNat % 64)
      ∧ (t.fenceOf f.val).prod.val = bits v.toNat 19 8 ∧ (t.fenceOf f.val).pen = bit v.toNat 20
      ∧ (t.fenceOf f.val).value = o.value)
    ∧ (exec (.fenceCfgWrite .hubctl f 2 v) s = .next ((s.modFence f.val (fun o => {o with evval := v})).ack .hubctl .ok)))
  ∧ (∀ (q : QId) (tail : Half) (h : Hart) (v : Word) (s : State),
    let u := s.queueOf q.val
    let ents := 2 ^ (u.lgn.toNat + 4)
    let on := u.state = .on ∧ (s.ctxOf u.ctx.val).state = .live
    let va := u.rbase.toNat + 64 * (u.fetched.toNat % ents)
    (¬ on ∨ 2 ^ 31 ≤ (tail - u.tail).toNat → exec (.doorbell q tail) s = .next (s.dbDiscard q.val none))
    ∧ (on → tail = u.tail → exec (.doorbell q tail) s = .next s)
    ∧ (on → (tail - u.tail).toNat < 2 ^ 31 → tail ≠ u.tail → u.kind = 1 → ents < (tail - u.head).toNat →
      exec (.doorbell q tail) s = .next (s.queueErr q.val 2))
    ∧ (on → (tail - u.tail).toNat < 2 ^ 31 → tail ≠ u.tail → u.kind = 1 → (tail - u.head).toNat ≤ ents →
      s.ctxFrozen u.ctx.val = false → exec (.doorbell q tail) s =
        .next ((s.modQueue q.val (fun u => {u with tail := tail, ndb := u.ndb + 1})).statusLine q.val))
    ∧ (s.bunged (machineryNi q.val) = true → exec (.coreDoorbell (.core h) q v) s = .next (s.ack (.core h) .bunged))
    ∧ (s.bunged (machineryNi q.val) = false → s.ownsQueue (.core h) q.val = true → exec (.coreDoorbell (.core h) q v) s =
      .next ((s.ringDoorbell q.val (v.setWidth 32) none).ack (.core h) .ok))
    ∧ (s.bunged (machineryNi q.val) = false → s.ownsQueue (.core h) q.val = false → exec (.coreDoorbell (.core h) q v) s =
      .next ((s.dbDiscard q.val none).ack (.core h) .ok))
    ∧ exec (.coreDoorbell .hubctl q v) s = .next (s.ack .hubctl .refused)
    ∧ (¬ on ∨ u.kind ≠ 1 ∨ u.fetched = u.tail → exec (.ringEntryFetch q) s = .next s)
    ∧ (∀ pa k bs t w, on → u.kind = 1 → u.stalled = false → u.fetched ≠ u.tail → s.ctxFrozen u.ctx.val = false →
      s.translate .none' u.ctx.val va .read = (.cask pa k, t) → t.paGet (machinery q.val (t.ctxOf u.ctx.val).slice.val) k pa 64 = (.ok, false, bs, w) →
      exec (.ringEntryFetch q) s = .next (w.takeEntryQ q.val bs)
      ∧ (w.takeEntryQ q.val bs).hub.desc.length = w.hub.desc.length + 1))
  ∧ (∀ (x : CtxId) (c : CoreId) (e : AbortEnd) (b : Option (Fin 4)) (s : State),
    ((s.ctxOf x.val).aborting = some (e, b) → (s.sliceOf (s.ctxOf x.val).slice.val).state ≠ .resetting → ∃ t,
      exec (.abortStepsDone x) s = .next t ∧ (t.ctxOf x.val).aborting = none
      ∧ (e = .free → (t.ctxOf x.val).state = .free)
      ∧ (∀ w, e = .lost w → (t.ctxOf x.val).state = .lost ∧ (t.ctxOf x.val).cause = BitVec.ofNat 8 w.code)
      ∧ ∀ k, b = some k → (t.cmdOf k.val).busy = false ∧ (t.cmdOf k.val).code = 0)
    ∧ ((s.ctxOf x.val).aborting = none → (s.sliceOf (s.ctxOf x.val).slice.val).state ≠ .resetting →
      exec (.abortStepsDone x) s = .next s)
    ∧ (c ∈ s.hub.posHeld → s.buffersFree c.val = true → exec (.positionRelease c) s = .next (((s.modHub (fun h => {h with posHeld := h.posHeld.erase c})).modCore
        c.val (fun k => {k with saving := false})).substNext c.val))
    ∧ (c ∉ s.hub.posHeld ∨ s.buffersFree c.val = false → exec (.positionRelease c) s = .next s))

/-- The answer to a walk's table read: an error ends the walk with WALKERR, poison with WALKPOI, an entry that is not
valid with S1INV or S2INV, one that refuses the access with S1PERM or S2PERM; the last one gives the translation,
which is cached. An answer to no walk changes nothing (R389–R394, R396, R409). An invalidation removes every cached
entry in its scope and restarts the walks in it, and ends once every access translated under a removed entry is done;
a wrong index or range ends with BADARG; a busy block discards (R399–R401). XRESUME on a context that is not LIVE, or
whose slice is frozen, ends with BADSTATE, with a wrong argument with BADARG; with 2 it loses the context with cause
XLATE. A fault queue's base changes while the queue is off, its head moves past records there are; a host's write
behind the bung of the queue's NI is answered BUNGED; a batch closes into the queue only while it is on and before a
freeze's tick (R407, R410–R413, R600). -/
def Obligations.Translation : Prop :=
  (∀ (id : Nat) (st : Status) (poison : Bool) (entry : Word) (s : State),
    ((∀ w ∈ s.hub.walks, w.id ≠ id) → exec (.walkStep id st poison entry) s = .next s)
    ∧ (∀ q, s.hub.walks.find? (fun w => w.id = id) = some q →
      let r := s.walkNext q.w st poison entry
      let e := pte entry
      ((∀ w, r ≠ .read w) → exec (.walkStep id st poison entry) s = .next (s.walkTo q r))
      ∧ (∀ w, r = .read w → exec (.walkStep id st poison entry) s = .next ((s.walkFill q.w entry).walkTo q r))
      ∧ (st ≠ .ok → r = .fault .walkerr q.w.failIpa (decide (q.w.phase ≠ 2)))
      ∧ (st = .ok → poison = true → r = .fault .walkpoi q.w.failIpa (decide (q.w.phase ≠ 2)))
      ∧ (st = .ok → poison = false → e.v = false →
          r = if q.w.phase = 1 then .fault .s1inv 0 false else .fault .s2inv q.w.ipa (decide (q.w.phase ≠ 2)))
      ∧ (st = .ok → poison = false → e.v = true → q.w.phase = 2 → s.badS2 e q.w.l2 = false → e.leaf = true →
        (permOk (permBits e.r e.w e.x false) q.w.acc = false → r = .fault .s2perm q.w.ipa false)
        ∧ (permOk (permBits e.r e.w e.x false) q.w.acc = true → ∃ t, r = .done t ∧ t.ctx = q.w.ctx ∧ t.kslot = e.kslot
          ∧ t.lg = min q.w.lg1 (leafLg q.w.l2 e.c64) ∧ t.vpage = q.w.va / 2 ^ t.lg
          ∧ t.ppage = leafOut e.addr (leafLg q.w.l2 e.c64) q.w.ipa / 2 ^ t.lg))
      ∧ (st = .ok → poison = false → e.v = true → q.w.phase = 1 → e.badS1 q.w.l1 = false → e.leaf = true →
          permOk (permBits e.r e.w e.x e.u) q.w.acc = false ∨ (q.w.user = true ∧ e.u = false) →
          r = .fault .s1perm 0 false)))
  ∧ (∀ (b : Fin 4) (i : BitVec 16) (s : State),
    let blk := s.xcmdOf b.val
    let n := i.toNat
    let a0 := blk.arg0.toNat
    let a1 := blk.arg1.toNat
    let bad := fun (op : Nat) => (s.xcmdStart b.val op n).xcmdEnd b.val 2
    let sl := s.sliceOfCtx
    (blk.busy = true → ∀ c ∈ [Instr.invctx b i, .invva b i, .invslice b i, .invipa b i, .invall b i, .xresume b i],
      exec c s = .next s.xDiscard)
    ∧ (blk.busy = false →
      (4096 ≤ n → exec (.invctx b i) s = .next (bad 1))
      ∧ (n < 4096 → exec (.invctx b i) s = .next (((s.xcmdStart b.val 1 n).tlbDrop (fun e => e.ctx = n)
          (fun e => !e.stage2 && e.owner = n)).walkRestart (fun w => w.ctx = n)))
      ∧ (4096 ≤ n ∨ rangeOk a0 a1 = false → exec (.invva b i) s = .next (bad 2))
      ∧ (n < 4096 → rangeOk a0 a1 = true → exec (.invva b i) s = .next (((s.xcmdStart b.val 2 n).tlbDrop
          (fun e => e.ctx = n && overlaps e.vpage e.lg a0 a1)
          (fun e => !e.stage2 && e.owner = n && overlaps e.idx (lvlLg e.lvl) a0 a1)).walkRestart
          (fun w => w.ctx = n && a0 ≤ w.va && w.va < a0 + a1)))
      ∧ (64 ≤ n → exec (.invslice b i) s = .next (bad 3))
      ∧ (n < 64 → exec (.invslice b i) s = .next (((s.xcmdStart b.val 3 n).tlbDrop (fun e => sl e.ctx = n)
          (fun e => (if e.stage2 then e.owner else sl e.owner) = n)).walkRestart (fun w => sl w.ctx = n)))
      ∧ (64 ≤ n ∨ rangeOk a0 a1 = false → exec (.invipa b i) s = .next (bad 4))
      ∧ (n < 64 → rangeOk a0 a1 = true → exec (.invipa b i) s = .next (((s.xcmdStart b.val 4 n).tlbDrop
          (fun e => sl e.ctx = n && overlaps (e.ipage * 2 ^ e.lg / 2 ^ e.lg2) e.lg2 a0 a1)
          (fun e => (if e.stage2 then e.owner else sl e.owner) = n && (if e.stage2 then overlaps e.idx (lvlLg e.lvl) a0 a1
            else overlaps (e.ipa / 2 ^ e.lg) e.lg a0 a1))).walkRestart (fun w => sl w.ctx = n)))
      ∧ exec (.invall b i) s = .next (((s.xcmdStart b.val 5 n).tlbDrop (fun _ => true) (fun _ => true)).walkRestart (fun _ => true)))
    ∧ (∀ (p : TEntry → Bool) (q : WEntry → Bool), (∀ e ∈ (s.tlbDrop p q).hub.tcache, p e = false)
      ∧ (∀ e ∈ (s.tlbDrop p q).hub.wcache, q e = false)
      ∧ (∀ l ∈ (s.tlbDrop p q).hub.cutlb, ∀ e ∈ l.2, p e = false) ∧ (∀ l ∈ (s.tlbDrop p q).hub.utlb, ∀ e ∈ l.2, p e = false))
    ∧ (blk.cur.isSome → exec (.invalidationComplete b) s =
      .next ((s.xcmdEnd b.val 0).modHub (fun h => {h with invs := h.invs + 1})))
    ∧ (blk.cur = none → exec (.invalidationComplete b) s = .next s))
  ∧ (∀ (b : Fin 4) (i : BitVec 16) (x : SliceId) (v : Word) (s : State),
    let blk := s.xcmdOf b.val
    let n := i.toNat
    let ended := fun (code : Nat) => (s.xcmdStart b.val 6 n).xcmdEnd b.val code
    let able := (s.ctxOf n).state = .live ∧ s.sliceFrozen (s.ctxOf n).slice.val = false
    let q := s.fqOf x.val
    let hd : Half := BitVec.ofNat 32 v.toNat
    (blk.busy = false →
      (4096 ≤ n ∨ 2 < blk.arg0.toNat → exec (.xresume b i) s = .next (ended 2))
      ∧ (n < 4096 → blk.arg0.toNat ≤ 2 → ¬ able → exec (.xresume b i) s = .next (ended 1))
      ∧ (n < 4096 → able → blk.arg0 = 2 → ∃ t, exec (.xresume b i) s = .next t
        ∧ (t.ctxOf n).aborting = some (.lost .xlate, none) ∧ (t.xcmdOf b.val).busy = false ∧ (t.xcmdOf b.val).code = 0)
      ∧ (n < 4096 → able → blk.arg0.toNat ≤ 1 → ∃ t, exec (.xresume b i) s = .next t
        ∧ (t.xcmdOf b.val).busy = false ∧ (t.xcmdOf b.val).code = 0))
    ∧ (∀ e, s.bunged (machineryNi x.val) = true → exec (.faultQueueWrite (.host e) x 0 v) s = .next (s.ack (.host e) .bunged))
    ∧ (q.en = true → exec (.faultQueueWrite .hubctl x 0 v) s = .next (s.xDiscard.ack .hubctl .ok))
    ∧ (q.en = false → exec (.faultQueueWrite .hubctl x 0 v) s = .next ((s.modFq x.val (fun q =>
        {q with base := BitVec.ofNat 64 (bits v.toNat 6 0 + 2 ^ 18 * bits v.toNat 47 18)})).ack .hubctl .ok))
    ∧ ((hd - q.head).toNat ≤ q.used → exec (.faultQueueWrite .hubctl x 2 v) s =
      .next ((s.modFq x.val (fun q => {q with head := hd})).ack .hubctl .ok))
    ∧ (q.used < (hd - q.head).toNat → exec (.faultQueueWrite .hubctl x 2 v) s = .next (s.xDiscard.ack .hubctl .ok))
    ∧ (q.en = false ∨ (s.sliceOf x.val).ticked = true → exec (.faultBatchClose x) s = .next s)
    ∧ (∀ r, q.en = true → (s.sliceOf x.val).ticked = false → q.folded = [] → q.batch = [r] → q.used < 8192 → ∃ t,
      exec (.faultBatchClose x) s = .next t ∧ (t.fqOf x.val).tail = q.tail + 1 ∧ (t.fqOf x.val).nrec = q.nrec + 1
      ∧ (t.fqOf x.val).batch = [] ∧ t.hub.recWritten = s.hub.recWritten + 1))

/-- SLCREATE makes a FREE entry below the number of slices ACTIVE; SLFREEZE gives an ACTIVE slice a tick 2 to 3 µs
away on a whole microsecond; SLTHAW makes a FROZEN one ACTIVE; in other states they end with code 1; a busy block
discards (R419–R425). At its tick a freezing slice stops, and begins to save its loaded contexts; once nothing of it
is loaded, aborting, outstanding or unwritten it is FROZEN and its command ends (R423, R424). SLBOTTLE writes the
image of a FROZEN slice at its address when it fits, and tells how long it is; a substitution that waited for the
slice goes on then (R60); SLUNCORK restores an image that reads well and fits into an ACTIVE slice that holds nothing,
which is FROZEN then; a wrong address, state, length or image ends with codes 2, 1, 3 and 4, and so does either with
code 2 without the cuvée's feature (R10, R426–R432, R475). A slice entry's root changes only while the slice is FREE
or FROZEN, a cluster or channel goes to one slice at a time, and a write that may not be is discarded and counted;
reserved bits of the root stay 0; a host's write to a word it may only read is discarded and counted, and one behind
the bung of the entry's NI is answered BUNGED (R16, R343, R388, R416, R417, R600). -/
def Obligations.Slices : Prop :=
  (∀ (b : Fin 4) (x : SliceId) (s : State),
    let e := s.sliceOf x.val
    let started := fun (op : Nat) => s.scmdStart b.val op x.val
    ((s.scmdOf b.val).busy = true → ∀ c ∈ [Instr.slcreate b x, .slfreeze b x, .slthaw b x, .slbottle b x, .sluncork b x,
      .slreset b x, .slremove b x], exec c s = .next s.sDiscard)
    ∧ ((s.scmdOf b.val).busy = false →
      (s.boot.nslice ≤ x.val → exec (.slcreate b x) s = .next ((started 1).scmdEnd b.val 2))
      ∧ (x.val < s.boot.nslice → e.state ≠ .free → exec (.slcreate b x) s = .next ((started 1).scmdEnd b.val 1))
      ∧ (x.val < s.boot.nslice → e.state = .free → exec (.slcreate b x) s =
        .next (((started 1).modSlice x.val (fun e => {e with state := .active})).scmdEnd b.val 0))
      ∧ (e.state ≠ .active → exec (.slfreeze b x) s = .next ((started 2).scmdEnd b.val 1))
      ∧ (e.state = .active → exec (.slfreeze b x) s = .next ((started 2).modSlice x.val (fun e => { e with
          state := .freezing, ticked := false, ftick := BitVec.ofNat 64 (freezeTickAt s.now), unl := !s.time.tlock, blk := some b })))
      ∧ (e.state ≠ .frozen → exec (.slthaw b x) s = .next ((started 3).scmdEnd b.val 1))
      ∧ (e.state = .frozen → ∃ t, exec (.slthaw b x) s = .next t ∧ (t.sliceOf x.val).state = .active
        ∧ (t.sliceOf x.val).ticked = false ∧ (t.scmdOf b.val).busy = false ∧ (t.scmdOf b.val).code = 0)
      ∧ (∀ c ∈ [Instr.slreset b x, .slremove b x], (e.state ≠ .active → e.state ≠ .frozen → ∃ t, exec c s = .next t
          ∧ t.sliceOf x.val = e ∧ (t.scmdOf b.val).busy = false ∧ (t.scmdOf b.val).code = 1))
      ∧ (e.state = .active → exec (.slreset b x) s = .next (((started 6).sliceReset b x.val).2)
        ∧ exec (.slremove b x) s = .next (((started 7).sliceReset b x.val).2)))
    ∧ (2000 ≤ freezeTickAt s.now - s.now ∧ freezeTickAt s.now - s.now < 3000 ∧ freezeTickAt s.now % 1000 = 0))
  ∧ (∀ (x : SliceId) (s : State),
    let e := s.sliceOf x.val
    (e.state ≠ .freezing ∨ e.ticked = true → exec (.freezeTick x) s = .next s)
    ∧ (e.state = .freezing → e.ticked = false → s.sliceCtxs x.val = [] → s.twin.switching = none → ∃ t,
      exec (.freezeTick x) s = .next t ∧ (t.sliceOf x.val).ticked = true
      ∧ ∀ g, tfind t.gate g ≠ none → (s.gateOf g).bound = true → (s.gateOf g).slice = x → (t.gateOf g).held = true)
    ∧ (e.state ≠ .freezing ∨ e.ticked = false ∨ s.frozenOk x.val = false → exec (.freezeComplete x) s = .next s)
    ∧ (e.state = .freezing → e.ticked = true → s.frozenOk x.val = true → ∃ t, exec (.freezeComplete x) s = .next t
      ∧ (t.sliceOf x.val).state = .frozen ∧ t.hub.freezes = s.hub.freezes + 1
      ∧ ∀ b, e.blk = some b → (t.scmdOf b.val).busy = false ∧ (t.scmdOf b.val).code = 0))
  ∧ (∀ (b : Fin 4) (x : SliceId) (s : State), (s.scmdOf b.val).busy = false →
    let a0 := (s.scmdOf b.val).arg0.toNat
    let a1 := (s.scmdOf b.val).arg1.toNat
    let limit := bits a1 63 32
    let e := s.sliceOf x.val
    let u := fun (op : Nat) => s.scmdStart b.val op x.val
    let img := (u 4).bottle x.val
    let put := (u 4).agentPut {} .wri (bits a1 5 0) a0 img
    let need := fun (s : State) =>
      s.modHub (fun h => {h with scmd := tmod {} h.scmd b.val (fun c => {c with need := BitVec.ofNat 32 img.length})})
    let kept := ((need put.2).modHub (fun h => {h with images := h.images + 1})).modSlice x.val (fun e => {e with bottled := true})
    let holds := (s.sliceCtxs x.val).isEmpty = false ∨ (s.sliceQueues x.val).isEmpty = false
      ∨ s.hub.fence.any (fun f => f.2.slice = x && f.2.armed) = true
    let hd := (u 5).agentBytes {} (bits a1 5 0) a0 256
    let len := fld hd.2.2.1 0x18 8
    let whole := hd.2.2.2.agentBytes {} (bits a1 5 0) a0 len
    let headOk := hd.1 = .ok ∧ hd.2.1 = false ∧ fld hd.2.2.1 0 8 = 0x31454C54544F4253 ∧ fld hd.2.2.1 8 2 = 1 ∧ len ≤ limit ∧ 256 ≤ len
    let bodyOk := whole.1 = .ok ∧ whole.2.1 = false ∧ secsInside whole.2.2.1 len = true
      ∧ whole.2.2.2.imageBad x.val whole.2.2.1 = false
    (imageArgOk a0 limit = false ∨ s.boot.feat.getLsbD 5 = false → exec (.slbottle b x) s = .next ((u 4).scmdEnd b.val 2)
      ∧ exec (.sluncork b x) s = .next ((u 5).scmdEnd b.val 2))
    ∧ (imageArgOk a0 limit = true → s.boot.feat.getLsbD 5 = true →
      (e.state ≠ .frozen → exec (.slbottle b x) s = .next ((u 4).scmdEnd b.val 1))
      ∧ (e.state = .frozen → limit < img.length → ∃ t, exec (.slbottle b x) s = .next t ∧ (t.scmdOf b.val).code = 3
        ∧ (t.scmdOf b.val).need = BitVec.ofNat 32 img.length ∧ t.cask = s.cask)
      ∧ (e.state = .frozen → img.length ≤ limit → put.1 = .ok →
        exec (.slbottle b x) s = .next (kept.substThaw.scmdEnd b.val 0)
        ∧ (kept.scmdOf b.val).need = BitVec.ofNat 32 img.length ∧ kept.hub.images = put.2.hub.images + 1
        ∧ kept.cask = put.2.cask)
      ∧ (e.state ≠ .active ∨ holds → exec (.sluncork b x) s = .next ((u 5).scmdEnd b.val 1))
      ∧ (e.state = .active → ¬ holds →
        (¬ headOk → exec (.sluncork b x) s = .next (hd.2.2.2.scmdEnd b.val 4))
        ∧ (headOk → ¬ bodyOk → exec (.sluncork b x) s = .next (whole.2.2.2.scmdEnd b.val 4))
        ∧ (headOk → bodyOk → exec (.sluncork b x) s = .next ((whole.2.2.2.restoreSlice x whole.2.2.1).scmdEnd b.val 0)
          ∧ ((whole.2.2.2.restoreSlice x whole.2.2.1).sliceOf x.val).state = .frozen))))
  ∧ (∀ (who : Who) (e : Ep) (x : SliceId) (i : Fin 4) (w : Fin 16) (v : Word) (s : State), who = .hubctl ∨ who = .mgd →
    let o := s.sliceOf x.val
    let new := putWord o.cmask i.val v
    let bar := putWord o.bmask i.val v
    let cw : Fin 16 := ⟨8 + i.val, by omega⟩
    let bw : Fin 16 := ⟨12 + i.val, by omega⟩
    let root := v &&& 0x0000FFFFFFFFF07F
    (root = o.s2root → exec (.sliceEntryWrite who x 2 v) s = .next (s.ack who .ok))
    ∧ (root ≠ o.s2root → o.state = .free ∨ o.state = .frozen → exec (.sliceEntryWrite who x 2 v) s =
      .next ((s.modSlice x.val (fun e => {e with s2root := root})).ack who .ok))
    ∧ (root ≠ o.s2root → o.state ≠ .free → o.state ≠ .frozen → exec (.sliceEntryWrite who x 2 v) s = .next (s.sDiscard.ack who .ok))
    ∧ (new ≠ o.cmask → o.state = .resetting ∨ s.otherSlice x.val (fun p => (p.cmask &&& (new &&& ~~~o.cmask)) ≠ 0) = true →
      exec (.sliceEntryWrite who x cw v) s = .next (s.sDiscard.ack who .ok))
    ∧ (new ≠ o.cmask → o.state ≠ .resetting → s.otherSlice x.val (fun p => (p.cmask &&& (new &&& ~~~o.cmask)) ≠ 0) = false →
      ∃ t, exec (.sliceEntryWrite who x cw v) s = .next t ∧ (t.sliceOf x.val).cmask = new)
    ∧ (bar ≠ o.bmask → o.state = .resetting ∨ s.otherSlice x.val (fun p => (p.bmask &&& (bar &&& ~~~o.bmask)) ≠ 0) = true →
      exec (.sliceEntryWrite who x bw v) s = .next (s.sDiscard.ack who .ok))
    ∧ (bar ≠ o.bmask → o.state ≠ .resetting → s.otherSlice x.val (fun p => (p.bmask &&& (bar &&& ~~~o.bmask)) ≠ 0) = false →
      ∃ t, exec (.sliceEntryWrite who x bw v) s = .next t ∧ (t.sliceOf x.val).bmask = bar)
    ∧ (s.bunged (machineryNi x.val) = true → exec (.sliceEntryWrite (.host e) x w v) s = .next (s.ack (.host e) .bunged))
    ∧ (s.bunged (machineryNi x.val) = false → w.val = 0 ∨ (3 ≤ w.val ∧ w.val ≤ 7) → exec (.sliceEntryWrite (.host e) x w v) s =
      .next ((s.cwDiscard e).ack (.host e) .ok)))

/-- A version commit raises the fused version to the running image's, at most 64, and never lowers it; another value
revokes a key for good, a firmware key or a licence key, but never the key of the running image (R441; the value's
form is the model's choice, log 30). A key slot goes from ACTIVE to RETIRING, from RETIRING back or, once nothing is
left to sweep, to RETIRED, and from there to ACTIVE; slot 0 stays ACTIVE; a write the state does not allow is
discarded and counted. A sweep's report takes off what was swept while RETIRING; the drain of the accesses in flight
clears `pend` (R449, R450). -/
def Obligations.KeysAndVersions : Prop :=
  (∀ (v : Word) (s : State),
    let n := v.toNat
    let k := bits n 10 8
    (bits n 7 0 = 0 → exec (.securityVersionCommit v) s =
      .next {s with fuses := {s.fuses with sver := max s.fuses.sver (min 64 s.boot.runSver)}})
    ∧ (bits n 7 0 ≠ 0 → k = s.boot.runKey → exec (.securityVersionCommit v) s = .next s.secDiscard)
    ∧ (bits n 7 0 ≠ 0 → k ≠ s.boot.runKey → ∃ t, exec (.securityVersionCommit v) s = .next t
      ∧ (∀ i, t.fuses.fwRevoke.getLsbD i = (s.fuses.fwRevoke.getLsbD i || decide (i = k)))
      ∧ (∀ i, t.fuses.licRevoke.getLsbD i = (s.fuses.licRevoke.getLsbD i || decide (i + 4 = k)))
      ∧ t.fuses.sver = s.fuses.sver))
  ∧ (∀ (i : Fin 64) (v : Word) (n : Half) (s : State),
    let k := s.slotOf i.val
    let newState := v.toNat % 4
    let left : Half := BitVec.ofNat 32 (bits v.toNat 34 3)
    let allowed := newState ≠ 3 ∧ (i.val = 0 → newState = 0) ∧ ((k.state = 0 ∧ newState ≤ 1) ∨ (k.state = 1 ∧ (newState = 2 → k.sweep = 0))
      ∨ (k.state = 2 ∧ newState ≠ 1))
    (¬ allowed → exec (.keySlotWrite i v) s = .next s.secDiscard)
    ∧ (allowed → ∃ t, exec (.keySlotWrite i v) s = .next t ∧ (t.slotOf i.val).state.toNat = newState
      ∧ (k.state.toNat = 1 → newState = 2 → (t.slotOf i.val).pend = true) ∧ (newState = 1 → (t.slotOf i.val).sweep = left)
      ∧ ∀ j, j ≠ i.val → t.slotOf j = s.slotOf j)
    ∧ (k.state ≠ 1 ∨ k.sweep.toNat < n.toNat → exec (.keySlotSweepSub i n) s = .next s.secDiscard)
    ∧ (k.state = 1 → n.toNat ≤ k.sweep.toNat → exec (.keySlotSweepSub i n) s =
      .next (s.setSlot i.val {k with sweep := k.sweep - n}))
    ∧ exec (.keySlotRetireDrained i) s = .next (s.setSlot i.val {k with pend := false})
    ∧ exec (.attestationRequest 0 []) s = .next s)

/-- A request that is not well formed ends with status 5, one with no signatures left with 4, one beyond 16 waiting
with 3; any other is queued, takes a signature of the bucket or waits for one, and a new request on a channel replaces
its old one in place (R443–R445). A signature uses the next index once and never again, within the trees built; its
report is the request's body with the signature, and event 2 is raised. The bucket fills by one up to 64 or serves the
oldest waiting request; one tree is built ahead (R443, R444, R446). The scrub of a channel clears a report and a
mailbox answer that are ready, and nothing else (R452). -/
def Obligations.Attestation : Prop :=
  (∀ (ch : Fin 4) (req : List Byte) (s : State), ch.val ≠ 0 →
    let c := s.sec
    let n := ch.val
    let queued := c.waiting.contains n || c.ready.contains n
    let full := 16 ≤ c.waiting.length
    let noneLeft := 2 ^ 30 ≤ c.q
    (s.attestOk req = false ∨ noneLeft ∨ (queued = false ∧ c.bucket = 0 ∧ full) → ∃ t,
      exec (.attestationRequest ch req) s = .next t
      ∧ (t.sec.chanOf n).status = (if s.attestOk req = false then 5 else if noneLeft then 4 else 3)
      ∧ (t.sec.chanOf n).req = none ∧ t.sec.bucket = c.bucket ∧ t.sec.q = c.q)
    ∧ (s.attestOk req = true → ¬ noneLeft → queued = true → exec (.attestationRequest ch req) s =
      .next (s.modSec (fun c => c.setChan n (fun a => {a with req := some req, status := 1}))))
    ∧ (s.attestOk req = true → ¬ noneLeft → queued = false → c.bucket = 0 → ¬ full → exec (.attestationRequest ch req) s =
      .next (s.modSec (fun c => {c.setChan n (fun a => {a with req := some req, status := 1}) with waiting := c.waiting ++ [n]})))
    ∧ (s.attestOk req = true → ¬ noneLeft → queued = false → c.bucket ≠ 0 → exec (.attestationRequest ch req) s =
      .next (s.modSec (fun c => {c.setChan n (fun a => {a with req := some req, status := 1}) with
        bucket := c.bucket - 1, ready := c.ready ++ [n]}))))
  ∧ (∀ (ch : Nat) (rest : List Nat) (req : List Byte) (s : State),
    let c := s.sec
    (c.ready = [] → exec .attestationSigned s = .next s)
    ∧ (c.ready = ch :: rest → (c.chanOf ch).req = some req →
      (2 ^ 30 ≤ c.q → ∃ t, exec .attestationSigned s = .next t ∧ t.sec.q = c.q ∧ t.sec.ready = rest
        ∧ (t.sec.chanOf ch).status = 4)
      ∧ (c.q < 2 ^ 30 → 32768 * c.trees ≤ c.q → exec .attestationSigned s = .next s)
      ∧ (c.q < 2 ^ 30 → c.q < 32768 * c.trees → ∃ t, exec .attestationSigned s = .next t
        ∧ t.sec.q = c.q + 1 ∧ t.sec.ready = rest ∧ t.sec.signed = (c.signed + 1) % 2 ^ 32
        ∧ t.sec.lowIdx = (c.lowIdx || decide (2 ^ 30 - (c.q + 1) < 2 ^ 20))
        ∧ (t.sec.chanOf ch).status = 2 ∧ (t.sec.chanOf ch).req = none
        ∧ (t.sec.chanOf ch).report = s.reportBody req ++ fit 0 5396 (Config.lmsSign c.q (s.reportBody req))
        ∧ Msg.event 2 [ch] ∈ t.out))
    ∧ (c.waiting = [] → exec .signBucketRefill s = .next (s.modSec (fun c => {c with bucket := min 64 (c.bucket + 1)})))
    ∧ (c.waiting = ch :: rest → exec .signBucketRefill s = .next (s.modSec (fun c => {c with waiting := rest, ready := c.ready ++ [ch]})))
    ∧ exec .signTreeBuilt s = .next (s.modSec (fun c => {c with trees := if c.trees ≤ c.q / 32768 + 1 then c.trees + 1 else c.trees})))
  ∧ (∀ (ch : Fin 4) (s : State), ∃ t, exec (.mgdBufferScrub ch) s = .next t
    ∧ ((s.sec.chanOf ch.val).status = 2 → (t.sec.chanOf ch.val).report = [])
    ∧ ((s.sec.chanOf ch.val).status ≠ 2 → t.sec = s.sec)
    ∧ (∀ e, chanEp ch.val = some e → t.epOf e = if (s.epOf e).mbox.done
        then {s.epOf e with mbox := {(s.epOf e).mbox with rsp := []}} else s.epOf e)
    ∧ (∀ e, chanEp ch.val ≠ some e → t.epOf e = s.epOf e) ∧ t.boot = s.boot ∧ t.cask = s.cask)

/-- Holding the reset land low puts the package in reset; its rising edge samples the straps and begins a cold
bring-up at stage 1, unless the internal reset still holds; a watchdog that expires during a bring-up counts and
begins the next; the internal reset's release begins a cold one. The fuses, the stored image and licence, and
signature indexes last (R458, R459, R462, R465, R585, R586). -/
def Obligations.PowerOn : Prop :=
  ∀ (p : Straps) (s : State),
    let lasts := fun (t : State) => t.fuses = s.fuses ∧ t.boot.nvImage = s.boot.nvImage ∧ t.boot.nvLicence = s.boot.nvLicence
      ∧ t.boot.cert = s.boot.cert ∧ t.boot.lseq = s.boot.lseq ∧ t.sec.q = s.sec.q ∧ t.sec.signed = s.sec.signed
      ∧ t.twin.failovers = s.twin.failovers ∧ t.out = s.out ∧ t.pending = s.pending
    let cleared := fun (t : State) => t.hub = {} ∧ t.bar = [] ∧ t.sec.chan = [] ∧ t.sec.slot = [] ∧ t.boot.ready = false
      ∧ t.boot.cooper = false ∧ t.boot.recovery = false ∧ t.boot.gen = 0 ∧ t.time.now = 0 ∧ t.avail.log = []
    (∃ t, exec .porNAssert s = .next t ∧ lasts t ∧ cleared t ∧ t.power.porLow = true ∧ t.power.held = s.power.held
      ∧ t.boot.running = false)
    ∧ (s.power.porLow = false → exec (.powerOnReset p) s = .next s)
    ∧ (s.power.porLow = true → ∃ t, exec (.powerOnReset p) s = .next t ∧ lasts t ∧ cleared t ∧ t.power.porLow = false
      ∧ t.power.held = s.power.held ∧ t.power.strap = BitVec.ofNat 64 (strapWord p) ∧ t.boot.running = !s.power.held
      ∧ t.boot.stage = (if s.power.held then 0 else 1) ∧ t.boot.kind = 1)
    ∧ (s.bringing = false → exec .cooperWatchdogExpire s = .next s)
    ∧ (s.bringing = true → ∃ t, exec .cooperWatchdogExpire s = .next t ∧ lasts t ∧ cleared t
      ∧ t.boot.wdog = s.boot.wdog + 1 ∧ t.boot.running = true ∧ t.boot.stage = 1)
    ∧ (s.power.held = false → exec .internalResetRelease s = .next s)
    ∧ (s.power.held = true → ∃ t, exec .internalResetRelease s = .next t ∧ t.power.held = false
      ∧ (s.power.porLow = true → t.boot = s.boot)
      ∧ (s.power.porLow = false → t.boot = {s.boot with running := true, stage := 1, kind := 1, startAt := s.now}))

/-- A stage of the cold bring-up that ends well is followed by the next; a failure the manual lists for the stage
leaves its cause and the fault output; after stage 13 the package is ready, its generation one higher. At stage 2 an
image that fails its check, the strap or three watchdogs bring the recovery loader instead of the cooper; there an
image that passes the check is programmed and the package resets, another is discarded with the failing step. Stage 6
trains the casks: a lane whose eye is under 25 % of a unit interval takes a stave, and its cask is fenced when none is
left (R200, R461–R463, R465, R471, R478). -/
def Obligations.BringUpStages : Prop :=
  ∀ (img : Image) (c : Nat) (eyes : List Eye) (e : Eye) (s : State),
    let n := s.boot.stage
    let going := s.bringing = true ∧ s.boot.warm = false ∧ s.boot.cause = 0 ∧ 1 ≤ n ∧ n ≤ 13
    let recovers := fun (t : State) => t.boot.recovery = true ∧ t.boot.cooper = s.boot.cooper ∧ t.power.fault = true
      ∧ t.ioa.started = false ∧ t.iob.started = false ∧ t.boot.cause = if s.imageStep s.boot.nvImage ≠ 0 then 2 else s.boot.cause
    (¬ going → ∀ r : StageOut, exec (.cooperStageDone r) s = .next s)
    ∧ (going → n ≠ 2 → n ≠ 13 → ∃ t, exec (.cooperStageDone (.ok eyes)) s = .next t ∧ t.boot.stage = n + 1)
    ∧ (going → n = 6 → exec (.cooperStageDone (.ok eyes)) s =
        .next ((eyes.foldl State.eyeTrain s).modBoot (fun b => {b with stage := 7})))
    ∧ (let p := (s.caskOf e.cask.val).pcOf e.pc.val
      (25 ≤ e.margin → s.eyeTrain e = s)
      ∧ (e.margin < 25 → (s.caskOf e.cask.val).fenced = false →
        (e.lane.val < 66 → p.dqStaves < 2 →
          (((s.eyeTrain e).caskOf e.cask.val).pcOf e.pc.val).dqStaves = p.dqStaves + 1)
        ∧ (66 ≤ e.lane.val → p.caStave = false → (((s.eyeTrain e).caskOf e.cask.val).pcOf e.pc.val).caStave = true)
        ∧ ((e.lane.val < 66 ∧ 2 ≤ p.dqStaves) ∨ (66 ≤ e.lane.val ∧ p.caStave = true) →
          ((s.eyeTrain e).caskOf e.cask.val).fenced = true)))
    ∧ (going → n = 13 → ∃ t, exec (.cooperStageDone (.ok eyes)) s = .next t ∧ t.boot.ready = true ∧ t.boot.gen = s.boot.gen + 1
      ∧ t.boot.toReady = s.now - s.boot.startAt ∧ t.boot.wdog = 0)
    ∧ (going → n = 2 → ∃ t, exec (.cooperStageDone (.ok eyes)) s = .next t
      ∧ if s.mustRecover = true then recovers t
        else t.boot.cooper = true ∧ t.boot.stage = 3 ∧ t.boot.runSver = numAt s.boot.nvImage 0x0A 1
          ∧ t.boot.runHash = Config.sha256 (s.boot.nvImage.take (numAt s.boot.nvImage 0x10 4)))
    ∧ (going → (c = 0 ∨ c ≠ stageCause n) → exec (.cooperStageDone (.failed c)) s = .next s)
    ∧ (going → c ≠ 0 → c = stageCause n → exec (.cooperStageDone (.failed c)) s =
      .next ((s.modBoot (fun b => {b with cause := c, cooper := true})).faultOn))
    ∧ (s.bringing = true → s.boot.cooper = false → s.mustRecover = true → ∃ t, exec .recoveryEnter s = .next t ∧ recovers t)
    ∧ (s.bringing = false ∨ s.boot.cooper = true ∨ s.mustRecover = false → exec .recoveryEnter s = .next s)
    ∧ (s.boot.recovery = false → exec (.loaderImageDelivered img) s = .next s)
    ∧ (s.boot.recovery = true → ∃ t, exec (.loaderImageDelivered img) s = .next t
      ∧ if s.imageStep img = 0 then
          t.boot.nvImage = img ∧ t.boot.recovery = false ∧ t.boot.running = true ∧ t.boot.stage = 1 ∧ t.boot.kind = 3
        else t.boot = {s.boot with img := .rejected, imgFail := s.imageStep img} ∧ t.obs.jtag.loader = 5)

/-- What an image and a licence must have to pass their checks (R461, R474): one that lacks any of it, a version no
lower than the fused one and a key that is not revoked among them, fails a step. An image written while the package is
ready is programmed when it passes the check and otherwise rejected with the failing step; a second one while one is
programmed is refused; once it is programmed the region holds it. A licence that passes is stored, and its sequence
number never falls; another is rejected with the failing step (R464, R476). The firmware's manifest hash goes twice to
each Bambipin die in service, and every core's bitmap is what arrived; a resend round adds what arrived to it, and the
third retires the cores that still lack blocks (R551–R553). -/
def Obligations.Images : Prop :=
  (∀ (img lic : List Byte) (s : State),
    (¬ (numAt img 0 8 = 0x31474D494E55524A ∧ numAt img 8 2 = 1 ∧ numAt img 0x10 4 ≤ 0x600000
        ∧ numAt img 0x10 4 ≤ img.length ∧ s.fuses.sver ≤ numAt img 0x0A 1
        ∧ Config.lmsVerify ((img.drop 0x1A0).take 60) (img.take 0x200) ((img.drop 0x200).take 5396) = true
        ∧ (∃ k, k < 4 ∧ s.fuses.fwRevoke.getLsbD k = false ∧ tget 0 s.fuses.fwHash k = Config.sha256 ((img.drop 0x1A0).take 60))
        ∧ ∃ cs, imgComponents img = some cs ∧ ∀ x ∈ cs, Config.sha256 x.2.1 = x.2.2) → s.imageStep img ≠ 0)
    ∧ (¬ (lic.length = 5588 ∧ numAt lic 0x10 16 = s.fuses.serial.toNat
        ∧ s.boot.lseq ≤ numAt lic 0x0C 4 ∧ 1 ≤ numAt lic 0x40 1 ∧ numAt lic 0x40 1 ≤ 64
        ∧ ∃ k, k < 4 ∧ s.fuses.licRevoke.getLsbD k = false ∧ tget 0 s.fuses.licHash k = Config.sha256 ((lic.drop 0x80).take 60)) →
      s.licenceStep lic ≠ 0))
  ∧ (∀ (img : Image) (lic : List Byte) (ok : Bool) (s : State),
    let busy := s.boot.img = .programming ∨ s.boot.img = .busy
    (s.boot.ready = false → exec (.imageWrite img) s = .next s ∧ exec (.licenceWrite lic) s = .next s)
    ∧ (s.boot.ready = true →
      (busy → ∃ t, exec (.imageWrite img) s = .next t ∧ t.boot = {s.boot with img := .busy}
        ∧ t.out = Msg.event 16 [0x2E02, 8] :: s.out)
      ∧ (¬ busy → ∃ t, exec (.imageWrite img) s = .next t
        ∧ t.boot = if s.imageStep img = 0 then {s.boot with img := .programming, imgFail := 0, staged := img, nvImage := []}
            else {s.boot with img := .rejected, imgFail := s.imageStep img})
      ∧ ∃ t, exec (.licenceWrite lic) s = .next t
        ∧ if s.licenceStep lic = 0 then t.boot.nvLicence = lic ∧ t.boot.licSt = 1 ∧ s.boot.lseq ≤ t.boot.lseq
            ∧ numAt lic 0x0C 4 ≤ t.boot.lseq
          else t.boot = {s.boot with licSt := 2, licFail := s.licenceStep lic})
    ∧ (¬ busy → exec (.imageProgramDone ok) s = .next s)
    ∧ (busy → s.boot.warmHeld = false → exec (.imageProgramDone true) s = .next (s.modBoot (fun b =>
      {b with img := .done, imgFail := 0, nvImage := b.staged, staged := [], imgDirty := true})))
    ∧ (busy → s.boot.warmHeld = false → ∃ t, exec (.imageProgramDone false) s = .next t ∧ t.boot.img = .rejected
      ∧ 1 ≤ t.boot.imgFail ∧ t.boot.imgFail ≤ 6 ∧ t.boot.nvImage.length = s.boot.staged.length))
  ∧ (∀ (m : List Byte) (got : List (Nat × BitVec 128)) (s : State),
    let going := s.boot.running = true ∧ s.boot.ready = false
    (¬ going → exec (.firmwareBroadcast m got) s = .next s ∧ exec (.firmwareResendRound got) s = .next s)
    ∧ (3 ≤ s.avail.rounds → exec (.firmwareResendRound got) s = .next s)
    ∧ (going → ∃ t, exec (.firmwareBroadcast m got) s = .next t ∧ t.avail.blockN = numAt m 0 4 ∧ t.avail.rounds = 0
      ∧ t.avail.blocks = got.foldl (fun a p => tput a p.1 p.2) []
      ∧ ∀ x, x < 16 → s.isGraft x = false → (s.linkOf x).fenced = false →
        tfind t.avail.manifest x = some (Config.sha256 m) ∧ (t.out.filter (fun o => o = Msg.event 20 [x])).length
          = (s.out.filter (fun o => o = Msg.event 20 [x])).length + 2)
    ∧ (going → s.avail.rounds < 2 → ∃ t, exec (.firmwareResendRound got) s = .next t ∧ t.avail.rounds = s.avail.rounds + 1
      ∧ t.avail.blocks = got.foldl (fun a p => tmod 0 a p.1 (· ||| p.2)) s.avail.blocks
      ∧ (∀ k ∈ s.fwCores, s.fwLacks k = true → Msg.firmware k (~~~(tget 0 s.avail.blocks k)
        &&& BitVec.ofNat 128 (2 ^ s.avail.blockN - 1)) ∈ t.out) ∧ t.die = s.die)
    ∧ (∀ k x cl p, k = 272 * x + 17 * cl + p → cl < 16 → p < 17 → (s.clusterOf x cl).isRetired p = false →
      ((s.fwRetire k).clusterOf x cl).isRetired p = true
        ∧ (s.fwRetire k).avail.delivRetired = (s.avail.delivRetired + 1) % 2 ^ 32))

/-- A warm reset that was asked for clears the package but for what it keeps, builds it up again and declares it ready
in its next generation; a changed image that fails its check leaves it to the recovery loader; when no request stands
nothing happens (R477–R479). -/
def Obligations.WarmResets : Prop :=
  ∀ (u s : State),
    let fencedK := (State.caskIds.filter (fun k => (s.caskOf k.val).fenced)).map (·.val)
    let left := s.bump.warmLeft
    let ready := u.declareReady
    (s.boot.ready = false → s.boot.warm = false → exec (.warmReset) s = .next s)
    ∧ (s.boot.ready = false → s.boot.warm = true → s.boot.imgDirty = false ∨ s.imageStep s.boot.nvImage = 0 →
      exec (.warmReset) s = .next ((left.warmBuild fencedK (Config.trainEyes s.freeCtr)).declareReady))
    ∧ (s.boot.ready = false → s.boot.warm = true → s.boot.imgDirty = true → s.imageStep s.boot.nvImage ≠ 0 → ∃ t,
      exec (.warmReset) s = .next t ∧ t.boot.recovery = true ∧ t.boot.ready = false ∧ t.boot.cause = 2 ∧ t.power.fault = true)
    ∧ left.hub = {} ∧ left.bar = [] ∧ left.sec.slot = [] ∧ left.sec.chan = [] ∧ left.sec.q = s.sec.q
    ∧ left.fuses = s.fuses ∧ left.boot.gen = s.boot.gen ∧ left.boot.nvImage = s.boot.nvImage
    ∧ left.boot.runHash = s.boot.runHash ∧ left.boot.licHash = s.boot.licHash ∧ left.time.now = s.time.now
    ∧ left.power.held = s.power.held ∧ left.twin.st = s.twin.st ∧ left.twin.role = s.twin.role ∧ left.twin.keys = s.twin.keys
    ∧ ready.boot.ready = true ∧ ready.boot.warm = false ∧ ready.boot.gen = u.boot.gen + 1 ∧ ready.boot.cause = 0
    ∧ ready.boot.toReady = u.now - u.boot.startAt ∧ ready.sec.sticky = 0 ∧ ready.power.clamps = 0 ∧ ready.hub.ctx = u.hub.ctx

/-- A datagram that is not well formed is discarded and counted; one whose channel and transaction a kept response
matches gets that response again and nothing else happens; one with a wrong version is answered BADREQ, and one that
the package's state does not let be served NOTREADY (R463, R472, R491, R492). READ gives an entry's value from its
offset, as much as was asked for and a response holds; a read from 0 keeps the value, and a read further on is served
from what was kept. DESC gives type, access, persistence, size and default; LIST gives the entries from the one named
on. Other requests end with the status of what is wrong (R488, R490). -/
def Obligations.BookReads : Prop :=
  (∀ (ch : CbChan) (r : CbReq) (s : State), s.boot.recovery = false → chanNet ch = true →
    let rows : List (Nat × Instr) := [(1, .read ch r), (2, .write ch r), (3, .desc ch r), (4, .list ch r)]
    ∀ c ∈ rows,
      (s.bookServed = false → exec c.2 s = .next s)
      ∧ (s.bookServed = true → cbMalformed r (c.1 = 2) = true → exec c.2 s =
        .next {s with book := {s.book with dgDisc := s.book.dgDisc + 1}})
      ∧ (s.bookServed = true → cbMalformed r (c.1 = 2) = false →
        (∀ k, s.keptFor ch r = some k → exec c.2 s = .next (({s with book := {s.book with repeated := s.book.repeated + 1}} : State).emit
          (.book ch k.op k.txid.toNat k.index k.sub k.status k.offset k.total k.data)))
        ∧ (s.keptFor ch r = none → r.ver ≠ 1 → ∃ t total, exec c.2 s = .next t ∧ BookSaid t ch c.1 r 1 total []
          ∧ t.book.notOk = s.book.notOk + 1)
        ∧ (s.keptFor ch r = none → r.ver = 1 → (c.1 = 2 → r.length.toNat ≤ chanLimit ch) →
          s.notReady c.1 r.index.toNat r.sub.toNat = true → ∃ t total, exec c.2 s = .next t ∧ BookSaid t ch c.1 r 11 total []
          ∧ t.book.notOk = s.book.notOk + 1)))
  ∧ (∀ (ch : CbChan) (r : CbReq) (e : Ent) (x : Snapshot) (s : State),
    let i := r.index.toNat
    let sub := r.sub.toNat
    let off := r.offset.toNat
    let n := if r.length = 0 then chanLimit ch else min r.length.toNat (chanLimit ch)
    let reads := fun (st total : Nat) (d : List Byte) => ∃ t, exec (.read ch r) s = .next t ∧ BookSaid t ch 1 r st total d
    let fails := fun (st : Nat) => ∃ total, reads st total []
    (s.BookTakes ch 1 r → i ≠ 0x3122 → i ≠ 0x3131 →
      (s.odFind i sub = .noEnt → fails 2) ∧ (s.odFind i sub = .noSub → fails 3)
      ∧ (s.odFind i sub = .ent e →
        (e.acc = 2 → fails 4)
        ∧ (e.acc ≠ 2 → e.size ≤ off → reads 6 e.size [])
        ∧ (e.acc ≠ 2 → 0 < e.size → off = 0 → reads 0 e.size (e.val.take n)
          ∧ ∃ t, exec (.read ch r) s = .next t ∧ t.book.snap = keepSnap s.book.snap ⟨ch, i, sub, e.val, s.now⟩
            ∧ t.book.done = s.book.done + (if s.boot.ready then 1 else 0))
        ∧ (e.acc ≠ 2 → off < e.size → 0 < off →
          (s.book.snap.find? (fun x => x.chan = ch && x.index = i && x.sub = sub && s.now < x.at' + 1000000000) = some x →
            reads 0 e.size ((x.data.drop off).take n))
          ∧ (s.book.snap.find? (fun x => x.chan = ch && x.index = i && x.sub = sub && s.now < x.at' + 1000000000) = none →
            fails 10))))
    ∧ (s.BookTakes ch 3 r → s.odFind i sub = .ent e → ∃ t, exec (.desc ch r) s = .next t
      ∧ BookSaid t ch 3 r 0 e.size (leBytes 1 e.ty ++ leBytes 1 e.acc ++ leBytes 1 e.pers ++ leBytes 1 0 ++ leBytes 4 e.size
        ++ (if e.size ≤ 64 then e.default i sub else [])))
    ∧ (s.BookTakes ch 4 r → ∃ t total, exec (.list ch r) s = .next t ∧ BookSaid t ch 4 r 0 total
      (((s.odList i).take (chanLimit ch / 4)).flatMap (fun p => leBytes 2 p.1 ++ leBytes 1 p.2 ++ leBytes 1 0))))

/-- A value within the limit is written at once, whole, and its entry says with which status; a larger one is written
in order, segment by segment, and takes effect with its last. A wrong access, total, offset or length ends with its
status and writes nothing (R489, R491). What the settings of the book do: a value out of its range is RANGE and
changes nothing; addresses are taken but come into force later, and then end what the network left open; a
substitution asked for while another is under way, a test's among them, is BUSY; a restore is done at the next reset
(R60, R497, R503, R504, R507, R519, R599). A mailbox takes a request unless it is busy, which counts; it is busy until
the answer, which a request without a valid header gets at once; an answer stands in the response area with `done`
set. A transfer that expires is discarded (R487, R489, R494, R495). -/
def Obligations.BookWrites : Prop :=
  (∀ (ch : CbChan) (r : CbReq) (e : Ent) (x : Transfer) (s : State), s.BookTakes ch 2 r →
    s.odFind r.index.toNat r.sub.toNat = .ent e → e.acc ≠ 3 →
    let i := r.index.toNat
    let sub := r.sub.toNat
    let d := fit 0 r.length.toNat r.data
    let took := fun (st : Nat) (u : State) => ∃ t, exec (.write ch r) s = .next t ∧ BookSaid t ch 2 r st r.total.toNat []
      ∧ t.boot = u.boot ∧ t.power = u.power ∧ t.time = u.time ∧ t.twin = u.twin ∧ t.obs = u.obs ∧ t.sec = u.sec ∧ t.die = u.die
      ∧ t.gate = u.gate ∧ t.cask = u.cask ∧ t.book.xfer = u.book.xfer ∧ t.book.addrNew = u.book.addrNew ∧ t.hub = u.hub
    let mine := fun (y : Transfer) => decide (y.index = i ∧ y.sub = sub)
    let rest := s.book.xfer.filter (fun y => !mine y)
    let put := fun (l : List Transfer) => ({s with book := {s.book with xfer := l}} : State)
    let big := chanLimit ch < e.size
    let found := s.book.xfer.find? (fun y => mine y && y.chan = ch)
    (e.acc = 0 → took 4 s)
    ∧ (e.acc ≠ 0 → r.total.toNat ≠ e.size → took 5 s)
    ∧ (e.acc ≠ 0 → r.total.toNat = e.size →
      (¬ big → r.offset ≠ 0 → took 9 s) ∧ (¬ big → r.offset = 0 → d.length ≠ e.size → took 1 s)
      ∧ (¬ big → r.offset = 0 → d.length = e.size → took (s.odWrite i sub d).1 (s.odWrite i sub d).2)
      ∧ (big → r.offset = 0 → i ≠ 0x2E02 → took 0 (put (⟨i, sub, ch, r.total.toNat, d, s.now⟩ :: rest)))
      ∧ (big → r.offset ≠ 0 → found = none → took 10 s)
      ∧ (big → r.offset ≠ 0 → found = some x → r.offset.toNat ≠ x.data.length → took 9 s)
      ∧ (big → found = some x → r.offset ≠ 0 → r.offset.toNat = x.data.length → (x.data ++ d).length < x.total →
        took 0 (put ({x with data := x.data ++ d, at' := s.now} :: rest)))
      ∧ (big → found = some x → r.offset ≠ 0 → r.offset.toNat = x.data.length → (x.data ++ d).length = x.total →
        took ((put rest).odWrite i sub (x.data ++ d)).1 ((put rest).odWrite i sub (x.data ++ d)).2)))
  ∧ (∀ (x : Site) (v : Nat) (b : Byte) (w : BitVec 16) (s : State), v < 2 ^ 16 →
    let d := leBytes 2 v
    let waits := decide ((s.dieOf x.val).substRes = 1) || decide ((s.dieOf x.val).substRes = 2)
      || decide ((s.clusterOf x.val (bits w.toNat 7 4)).subst ≠ .idle)
    (1500 ≤ v ∧ v ≤ 3300 → s.odWrite 0x2F00 1 d = (0, {s with power := {s.power with cap := v}}))
    ∧ (¬ (1500 ≤ v ∧ v ≤ 3300) → s.odWrite 0x2F00 1 d = (6, s))
    ∧ (1 ≤ v ∧ v ≤ 24 → s.odWrite 0x2100 2 d = (0, {s with book := {s.book with testPeriod := v}}))
    ∧ (¬ (1 ≤ v ∧ v ≤ 24) → s.odWrite 0x2100 2 d = (6, s))
    ∧ (v = 0 ∨ (2 ≤ v ∧ v ≤ 2047) → s.odWrite 0x3002 2 d = (0, s.modTwin (fun t => {t with vecA := v})))
    ∧ (v = 1 ∨ 2047 < v → s.odWrite 0x3002 2 d = (6, s))
    ∧ (b = 1 → exec (.restoreDefaults b) s = .next (({s with book := {s.book with restore := true}} : State).emit (.event 16 [0x1F01, 0])))
    ∧ (b ≠ 1 → exec (.restoreDefaults b) s = .next (s.emit (.event 16 [0x1F01, 6])))
    ∧ (s.isGraft x.val = true → exec (.substitutionRequest x w) s = .next (s.emit (.event 16 [0x2310 + x.val, 3])))
    ∧ (s.isGraft x.val = false → bits w.toNat 15 8 ≠ 0 → exec (.substitutionRequest x w) s = .next (s.emit (.event 16 [0x2310 + x.val, 6])))
    ∧ (s.isGraft x.val = false → bits w.toNat 15 8 = 0 → waits = true →
      exec (.substitutionRequest x w) s = .next (s.emit (.event 16 [0x2310 + x.val, 8])))
    ∧ (s.isGraft x.val = false → bits w.toNat 15 8 = 0 → waits = false →
      exec (.substitutionRequest x w) s = .next ((s.substStart x.val (bits w.toNat 7 4)
        ⟨w.toNat % 16, Nat.mod_lt _ (by decide)⟩).emit (.event 16 [0x2310 + x.val, 0])))
    ∧ (s.book.addrNew = none → exec .mgmtAddressApply s = .next s)
    ∧ (∀ a p g, s.book.addrNew = some (a, p, g) → ∃ t, exec .mgmtAddressApply s = .next t ∧ t.book.ip = a ∧ t.book.plen = p
      ∧ t.book.gateway = g ∧ t.book.addrNew = none ∧ (∀ y ∈ t.book.xfer, chanNet y.chan = false)
      ∧ (∀ y ∈ t.book.snap, chanNet y.chan = false) ∧ ∀ y ∈ s.book.xfer, chanNet y.chan = false → y ∈ t.book.xfer))
  ∧ (∀ (e : Ep) (i : BitVec 16) (sub : Byte) (s : State),
    let m := (s.epOf e).mbox
    let op := m.req.readNat 3 1
    let valid := m.header.magic = 0x4243 ∧ m.header.length.toNat ≤ 16384 ∧ m.header.ver = 1 ∧ 1 ≤ op ∧ op ≤ 4
    (m.busy = true → exec (.mailboxGo e) s = .next {s with book := {s.book with goDisc := s.book.goDisc + 1}})
    ∧ (m.busy = false → valid → exec (.mailboxGo e) s =
      .next ((s.modEp e (fun h => {h with mbox := {h.mbox with busy := true}})).emit (.event 17 [e.code, op])))
    ∧ (m.busy = false → ¬ valid → ∃ t total, exec (.mailboxGo e) s = .next t ∧ (t.epOf e).mbox.busy = false
      ∧ (t.epOf e).mbox.done = true ∧ BookSaid t (.mbox e) op m.header 1 total []
      ∧ t.book.notOk = s.book.notOk + 1)
    ∧ exec (.transferExpire i sub) s = .next {s with book := {s.book with
        xfer := s.book.xfer.filter (fun y => !decide (y.index = i.toNat ∧ y.sub = sub.toNat))}})

/-- A write-only entry that requests an action by value takes the values its definition names; any other ends with
RANGE and changes nothing (R599). -/
def Obligations.ActionsByValue : Prop :=
  ∀ (x : Site) (sub : Nat) (d : List Byte) (s : State),
    let v := leNat d
    (v ≠ 1 → s.odWrite 0x1F01 sub d = (6, s) ∧ s.odWrite 0x2E00 sub d = (6, s) ∧ s.odWrite (0x2900 + x.val) sub d = (6, s)
      ∧ s.odWrite 0x3001 2 d = (6, s))
    ∧ (v ≠ 1 → v ≠ 2 → s.odWrite 0x3140 2 d = (6, s))
    ∧ (v = 1 → (s.odWrite 0x1F01 0 d).1 = 0 ∧ (s.odWrite 0x2E00 5 d).1 = 0)
    ∧ (v = 1 ∨ v = 2 → (s.odWrite 0x3140 2 d).1 = 0)

/-- The broker's sharing: every die's budget lies between its floor and its maximum, and together they stay within the
pool, or at the floors where these alone exceed it (R506, R511). -/
def Obligations.BudgetsShared : Prop :=
  ∀ (pool : Int) (l : List (Nat × Nat × Nat × Nat × Bool)), (∀ d ∈ l, d.2.1 ≤ d.2.2.2.1 ∧ d.2.2.2.1 ≤ d.2.2.1) →
    let out := shareOut pool l
    (∀ p ∈ l.zip out, p.2.1 = p.1.1 ∧ p.1.2.1 ≤ p.2.2 ∧ p.2.2 ≤ p.1.2.2.1) ∧ out.length = l.length
    ∧ out.foldl (fun n b => n + (b.2 : Int)) 0 ≤ max pool (l.foldl (fun n d => n + (d.2.1 : Int)) 0)
    ∧ ∀ lo hi reported, ∀ pressing, lo ≤ hi → lo ≤ demandOf lo hi reported pressing ∧ demandOf lo hi reported pressing ≤ hi

/-- A budget period: its powers are kept, its sequence number is one higher and the clamp may act again; each governed
die's rail power is noted, its missing reports counted, and after ten periods over its budget it is held at its floor;
while the hub is clamped every governed die is told its floor (R507, R511–R513). A sample of more than 3,630 W clamps
every governed die to its floor once a period; a rail out of range in two samples in a row has its result, a powered
Bambipin site is fenced and off, a rail of the hub or MGD resets the package; what one sample shows changes nothing
yet. Rail means are kept with the last 1,000 currents (R499, R512, R576, R579). A companion die's or the hub's
temperature is noted; at 110 °C the over-temperature output is asserted; the hub clamps the budgets from 105 °C to
below 102 °C; after the hold only dies that are on and hot keep the output asserted (R513). -/
def Obligations.PowerBroker : Prop :=
  (∀ (m : PeriodMeas) (s : State), ∃ t, exec (.budgetPeriod m) s = .next t
    ∧ t.power.bseq = s.power.bseq + 1 ∧ t.power.clamped = false ∧ t.power.cap = s.power.cap
    ∧ t.power.hist = (m.package :: s.power.hist).take 100
    ∧ t.power.hubCut = (if 1000 ≤ (s.powOf dieHub).temp then s.power.hubCut + 1 else 0)
    ∧ ∀ x, x < 16 → s.isGraft x = false → s.governed x = true →
      let p := s.powOf (dieSite x)
      let rail := tget 0 m.dies (dieSite x)
      let above := 11 * p.budget < 10 * rail
      let q := t.powOf (dieSite x)
      q.measured = rail ∧ q.got = false ∧ q.miss = (if p.got then 0 else p.miss + 1)
      ∧ (above → p.overN = 9 → q.hold = 1000 ∧ q.overN = 0) ∧ (¬ above → q.hold = p.hold - 1 ∧ q.overN = 0)
      ∧ (s.power.hubClamp = true → q.budget = s.floorOf x
        ∧ Msg.sideband (linkId x) false 0x10 (s.floorOf x + 2 ^ 16 * (s.power.bseq + 1).toNat) ∈ t.out))
  ∧ (∀ (r : RailSample) (volts amps : List Nat) (s : State),
    let out := (r.out.map (·.val)).filter (fun j => s.railJudged j)
    (r.power ≤ 36300 ∨ s.power.clamped = true → (∀ j ∈ out, j ∉ s.power.railOut) →
      exec (.railSample r) s = .next {s with power := {s.power with railOut := out}})
    ∧ (36300 < r.power → s.power.clamped = false → (∀ j ∈ out, j ∉ s.power.railOut) → ∃ t, exec (.railSample r) s = .next t
      ∧ t.power.clamped = true ∧ t.power.clamps = (s.power.clamps + 1) % 2 ^ 32
      ∧ ∀ x, x < 16 → s.governed x = true → (t.powOf (dieSite x)).budget = s.floorOf x)
    ∧ (∀ j, out = [j] → j ∈ s.power.railOut → r.power ≤ 36300 →
      (j < 16 → s.isGraft j = false → (s.gateOf j).powered = true → ∃ t, exec (.railSample r) s = .next t
        ∧ (t.gateOf j).powered = false ∧ (t.linkOf j).fenced = true)
      ∧ ((20 ≤ j ∧ j < 26) ∨ 41 ≤ j → ∃ t, exec (.railSample r) s = .next t ∧ t.power.held = true ∧ t.boot.running = false ∧ t.fuses = s.fuses))
    ∧ exec (.railMeasureUpdate volts amps) s = .next {s with book := { s.book with
        railV := List.zip (List.range 44) (fit 0 44 volts), railI := List.zip (List.range 44) (fit 0 44 amps),
        railMax := (List.range 44).map (fun j => (j, (nth 0 amps j :: tget [] s.book.railMax j).take 1000)) }})
  ∧ (∀ (die : Fin 32) (temp : Int) (s : State),
    let i := die.val
    (i < 28 → exec (.dieTemperatureSample die temp) s = .next s)
    ∧ (28 ≤ i → i ≠ dieHub → ∃ t, exec (.dieTemperatureSample die temp) s = .next t ∧ (t.powOf i).temp = temp
      ∧ (temp < 1100 → i ∉ t.power.critical ∧ t.power.overtemp = s.power.overtemp)
      ∧ (1100 ≤ temp → i ∈ t.power.critical ∧ (i ∉ s.power.critical → t.power.overtemp = true)))
    ∧ (i = dieHub → temp < 1100 → ∃ t, exec (.dieTemperatureSample die temp) s = .next t ∧ (t.powOf i).temp = temp
      ∧ t.power.hubClamp = decide (1050 ≤ temp ∨ (s.power.hubClamp = true ∧ 1020 ≤ temp)) ∧ i ∉ t.power.critical
      ∧ (s.power.hubClamp = false → 1050 ≤ temp → t.power.clamps = (s.power.clamps + 1) % 2 ^ 32))
    ∧ (i = dieHub → 1100 ≤ temp → i ∉ s.power.critical → ∃ t, exec (.dieTemperatureSample die temp) s = .next t
      ∧ i ∈ t.power.critical ∧ t.power.overtemp = true ∧ t.power.hubClamp = true ∧ ∀ x, x < 16 → (t.gateOf x).powered = false)
    ∧ ∃ t, exec .overtempHoldEnd s = .next t ∧ (∀ d, d ∈ t.power.critical ↔ d ∈ s.power.critical ∧ s.dieOff d = false)
      ∧ (t.power.overtemp = true ↔ s.power.overtemp = true ∧ t.power.critical ≠ []))

/-- The timebase: MGD alone steps it, forwards and counted. A first measurement or one more than 100 µs behind steps
it and unlocks; one more than 100 µs ahead slews it at −500 ppm; small ones steer the rate within ±500 ppm, 16 in a
row within 1 µs lock, one beyond 10 µs unlocks; the clock never runs backwards. A measurement ends holdover, whose
limit unlocks; a new domain starts over, unlocked (R515–R520). -/
def Obligations.Timebase : Prop :=
  ∀ (who : Who) (v : Word) (m : PtpMeas) (rate : Half) (d : Byte) (s : State),
    let near := -1000 ≤ m.ofs ∧ m.ofs ≤ 1000
    let after := fun (P : Time → Prop) => ∃ t, exec (.ptpOffsetMeasure m) s = .next t ∧ P t.time ∧ t.time.hold = false
      ∧ t.time.port = 3 ∧ t.time.measured = true ∧ t.time.gm = m.gm ∧ t.time.delay = m.delay
    (exec (.timebaseStep .mgd v) s = .next ((s.modTime (fun t => {t with
      now := t.now + BitVec.ofNat 64 (bits v.toNat 62 0), nstep := t.nstep + 1})).ack .mgd .ok))
    ∧ (who ≠ .mgd → exec (.timebaseStep who v) s = .next (s.ack who .refused))
    ∧ ((s.time.measured = false ∧ 0 ≤ m.ofs) ∨ 100000 < m.ofs → after (fun u => u.now = s.time.now + BitVec.ofNat 64 m.ofs.toNat
      ∧ u.nstep = s.time.nstep + 1 ∧ u.tlock = false ∧ u.run = 0 ∧ u.slew = false))
    ∧ (m.ofs < -100000 → after (fun u => u.now = s.time.now ∧ u.slew = true ∧ u.tlock = false ∧ u.rate.toInt = -rateMax))
    ∧ (s.time.measured = true → s.time.slew = false → -100000 ≤ m.ofs → m.ofs ≤ 100000 → after (fun u => u.now = s.time.now
      ∧ u.slew = false ∧ -rateMax ≤ u.rate.toInt ∧ u.rate.toInt ≤ rateMax ∧ u.run = (if near then s.time.run + 1 else 0)
      ∧ u.tlock = (if near then s.time.tlock || decide (15 ≤ s.time.run)
        else decide (-10000 ≤ m.ofs) && decide (m.ofs ≤ 10000) && s.time.tlock)))
    ∧ (s.time.measured = true → s.time.slew = true → -1000 ≤ m.ofs → m.ofs ≤ 1000 → after (fun u => u.slew = false))
    ∧ (exec (.ptpHoldoverEnter rate) s = .next (s.modTime (fun t => {t with hold := true, rate := rate, port := 4, run := 0})))
    ∧ (s.time.hold = false → exec .ptpHoldoverLimit s = .next s)
    ∧ (s.time.hold = true → ∃ t, exec .ptpHoldoverLimit s = .next t ∧ t.time.tlock = false ∧ t.time.now = s.time.now)
    ∧ ∃ t, exec (.ptpDomainWrite d) s = .next t ∧ t.time.domain = d ∧ t.time.port = 1 ∧ t.time.run = 0 ∧ t.time.tlock = false
      ∧ t.time.now = s.time.now

/-- Observation is enabled bit by bit; a reserved bit is RANGE, and tasting that would load a link beyond the cap is
RANGE and counted; tasting or message records leave their mark for attestation; enabling the log starts it anew. A
taster that asks for more than the cap, or nothing, is RANGE too (R447, R523, R536). A sink enabled with a ring that
does not lie whole and aligned in a cask is discarded; otherwise it takes its registers, and its count starts when it
is enabled. The counter table is a copy of every Bambipin core's counters with the time and the lock (R528, R534). A
halt stops the Bambipin sites of the mask at once, with the time kept for each; while any is halted another is only
counted; a resume lets every halted site run on and marks its cores. (R447, R522, R537, R538). The JTAG port: a code
it does not list acts as BYPASS, and one other than IDCODE and BYPASS leaves its mark for attestation. Each data
register acts only under its own instruction, register accesses and halts only with the package out of reset and the
loader's words only while the loader runs; an access is done as MGD's, below the control window it is refused; the
loader's end hands the image over (R447, R541–R543). -/
def Obligations.Observation : Prop :=
  (∀ (v : Byte) (i : RouterId) (c : Word) (s : State),
    let n := v.toNat
    let note := fun (st : Nat) (e : Nat) (u : State) => u.emit (.event 16 [e, st])
    let new : Taster := {s.tasterOf i.val with ctl := BitVec.ofNat 15 (c.toNat - 16 * bits c.toNat 7 4)}
    let load := s.obsLoad (tput s.obs.taster i.val new)
    (bits n 7 4 ≠ 0 → exec (.obsEnableWrite v) s = .next (note 6 0x3100 s))
    ∧ (bits n 7 4 = 0 → bit n 1 = true → 120 < s.obsLoad s.obs.taster → exec (.obsEnableWrite v) s = .next (note 6 0x3100 s.regDiscard))
    ∧ (bits n 7 4 = 0 → (bit n 1 = false ∨ s.obsLoad s.obs.taster ≤ 120) → ∃ t, exec (.obsEnableWrite v) s = .next t
      ∧ t.obs.en.toNat = n ∧ t.sec.sticky = s.sec.sticky ||| (if bit n 1 || bit n 2 then 1 else 0)
      ∧ (bit n 3 = true → s.obs.en.getLsbD 3 = false → t.obs.xlptr = 0 ∧ t.obs.xmsg = [])
      ∧ (s.obs.en.toNat ≠ n → t.obs.enAt = s.time.now) ∧ (s.obs.en.toNat = n → t.obs.enAt = s.obs.enAt))
    ∧ (new.en = true → new.obsb = 0 → exec (.tasterCtlWrite i c) s = .next (note 6 0x3110 s))
    ∧ (new.en = true → new.obsb ≠ 0 → 120 < new.obsb ∨ 120 < load → exec (.tasterCtlWrite i c) s = .next (note 6 0x3110 s.regDiscard))
    ∧ (new.en = false ∨ (1 ≤ new.obsb ∧ new.obsb ≤ 120 ∧ load ≤ 120) → ∃ t, exec (.tasterCtlWrite i c) s = .next t
      ∧ t.tasterOf i.val = new ∧ t.obs.en = s.obs.en))
  ∧ (∀ (i : Fin 4) (base cfg : Word) (s : State),
    let lg := bits cfg.toNat 12 8
    let pa := 64 * bits base.toNat 47 6
    let fits := 16 ≤ lg ∧ lg ≤ 30 ∧ pa % 2 ^ lg = 0 ∧ pa / 2 ^ 36 < 12 ∧ pa % 2 ^ 36 + 2 ^ lg ≤ usableEnd
    let sets := bit cfg.toNat 0
    (sets = true → ¬ fits → exec (.sinkCfgWrite i base cfg) s = .next s)
    ∧ (sets = false ∨ fits → exec (.sinkCfgWrite i base cfg) s = .next (s.modObs (fun o => {o with
      sink := tmod {} o.sink i.val (fun k => { k with
        base := BitVec.ofNat 42 (bits base.toNat 47 6), sen := sets, wrap := bit cfg.toNat 1, lgsz := BitVec.ofNat 5 lg, nrec := if sets && !k.sen then 0 else k.nrec })})))
    ∧ (s.obs.en.getLsbD 0 = false → ∃ t, exec .counterCopy s = .next t
      ∧ (∀ g, g < 4096 → s.isGraft (g / 256) = false → tfind t.obs.octab g = some (s.counterRecord g))
      ∧ (∀ g, s.isGraft (g / 256) = true → tfind t.obs.octab g = none) ∧ t.die = s.die))
  ∧ (∀ (s : State),
    (s.obs.halted ≠ 0 → exec .halt s = .next {s with obs := {s.obs with ignored := s.obs.ignored + 1}})
    ∧ (s.obs.halted = 0 → ∃ t, exec .halt s = .next t
      ∧ (∀ x, x < 16 → t.obs.halted.getLsbD x = (s.obs.smask.getLsbD x && !s.isGraft x))
      ∧ (∀ x, x < 16 → s.obs.smask.getLsbD x = true → s.isGraft x = false → (tget {} t.obs.rec' x).tstop = s.time.now
        ∧ (tget {} t.obs.rec' x).smear ≤ 64 ∧ (tget {} t.obs.rec' x).unl = !s.time.tlock)
      ∧ t.die = s.die ∧ t.hub = s.hub)
    ∧ ∃ t, exec .resume s = .next t ∧ t.obs.halted = 0
      ∧ (∀ x, x < 16 → s.obs.halted.getLsbD x = true → (tget {} t.obs.rec' x).tres = s.time.now
        ∧ ∀ n, n < 256 → ((t.dieOf x).coreOf n).cycflg = ((s.dieOf x).coreOf n).cycflg ||| 8)
      ∧ (∀ x, s.obs.halted.getLsbD x = false → t.dieOf x = s.dieOf x))
  ∧ (∀ (ir : Byte) (wr : Bool) (pa : PA) (data : Word) (h : BitVec 18) (i w : Half) (s : State),
    let op := jtagOp s.obs.jtag.ir.toNat
    let done := fun (st : Status) (v : Nat) (u : State) =>
      u.modObs (fun o => {o with jtag := {o.jtag with busy := false, status := st.code, rdata := BitVec.ofNat 64 v}})
    (exec (.jtagIrUpdate ir) s = .next {s with
      sec := {s.sec with sticky := s.sec.sticky ||| (if jtagOp ir.toNat = 1 ∨ jtagOp ir.toNat = 0xFF then 0 else 4)},
      obs := {s.obs with jtag := {s.obs.jtag with ir := ir}}})
    ∧ (op ≠ 0x10 ∨ s.boot.running = false → exec (.jtagRegacc wr pa data) s = .next s)
    ∧ (op = 0x10 → s.boot.running = true →
      let reg := hubAt ((pa.toNat - 0xF000000000) / 8 * 8)
      (pa.toNat < 0xF000000000 → exec (.jtagRegacc wr pa data) s = .next (done .refused 0 s))
      ∧ (0xF000000000 ≤ pa.toNat → exec (.jtagRegacc false pa data) s =
        .next (done (s.hubGet .mgd reg).1 (s.hubGet .mgd reg).2 s))
      ∧ (0xF000000000 ≤ pa.toNat → (∀ q, reg ≠ .bell q) → exec (.jtagRegacc true pa data) s =
        .next (done .ok 0 (s.hubPut .mgd reg data.toNat))))
    ∧ (op ≠ 0x11 ∨ s.boot.running = false → exec (.jtagHalt h) s = .next s)
    ∧ (op = 0x11 → s.boot.running = true → ∃ t, exec (.jtagHalt h) s = .next t
      ∧ (s.obs.halted = 0 → t.obs.smask.toNat = bits h.toNat 15 0)
      ∧ (s.obs.halted ≠ 0 → t.obs.smask = s.obs.smask)
      ∧ (h.getLsbD 17 = true → t.obs.halted = 0)
      ∧ (h.getLsbD 16 = false → h.getLsbD 17 = false → t.obs.halted = s.obs.halted))
    ∧ (op ≠ 0x12 ∨ s.boot.recovery = false → exec (.jtagLoaderWord i w) s = .next s)
    ∧ (op = 0x12 → s.boot.recovery = true → i ≠ 0xFFFFFFFF → exec (.jtagLoaderWord i w) s = .next (s.modObs (fun o =>
      {o with jtag := {o.jtag with buf := tput o.jtag.buf i.toNat w.toNat, loader := 1}})))
    ∧ (op = 0x12 → s.boot.recovery = true → i = 0xFFFFFFFF → exec (.jtagLoaderWord i w) s =
      .next (s.bump.loaderTake (s.loaderBytes (min w.toNat 0x600001)))))

/-- A control frame is taken only over lanes that are up, in a session, with a tag that verifies and a number above
the last one taken; any other changes nothing but the count of frames dropped (R454, R557). Lanes that come up begin a
pairing, if the twin kit is fitted, licensed and not strapped off; lanes that go down end the session and every push
with LOST. A PAIR of a common version gives the four keys of both nonces, the lower serial first, and is confirmed;
without one the attempt fails. The right CONFIRM completes the pairing, a wrong one fails, and the third failure in a
row gives up and counts (R8, R453, R557, R560, R570). -/
def Obligations.TwinSession : Prop :=
  (∀ (m : HbMsg) (cause : Fin 4) (role : Fin 3) (rec' : Sector) (g : BitVec 14) (st : Fin 4) (b off len : Word) (e : Fin 64)
    (tagOk : Bool) (seq : Nat) (s : State),
    let rows := [Instr.hb m tagOk seq, .failover cause tagOk seq, .roleack role tagOk seq, .journal rec' tagOk seq,
      .pushack g st b tagOk seq, .restreq e off len g tagOk seq]
    let open' := s.twin.lanes = true ∧ s.twin.st ≠ .disabled
    (¬ open' → ∀ c ∈ rows, exec c s = .next s)
    ∧ (open' → ¬ s.TwinTakes tagOk seq → ∀ c ∈ rows, exec c s = .next {s with sec := {s.sec with ctlDrop := s.sec.ctlDrop + 1}})
    ∧ (s.TwinTakes tagOk seq → (s.ctlTake tagOk seq).1 = true ∧ (∀ u, (s.ctlTake u seq).2.twin.keys = s.twin.keys)
      ∧ ¬ (s.ctlTake tagOk seq).2.TwinTakes tagOk seq))
  ∧ (∀ (m q : PairMsg) (kit : Word) (na nb : BitVec 256) (tagOk : Bool) (seq : Nat) (s : State),
    let a := decide (s.fuses.serial.toNat < m.serial.toNat)
    let ks := if a then s.twinKeys s.twin.nonce m.nonce else s.twinKeys m.nonce s.twin.nonce
    let mine := if s.twin.sideA then (s.twin.nonce, q.nonce) else (q.nonce, s.twin.nonce)
    let enabled := s.fuses.kit ≠ 0 ∧ s.boot.feat.getLsbD 4 = true ∧ s.power.strap.getLsbD 7 = false
    (s.twin.st = .down → enabled → s.boot.ready = true → ∃ t, exec .twinLinkUp s = .next t ∧ t.twin.lanes = true
      ∧ t.twin.st = .pairing ∧ t.twin.keys = [])
    ∧ (s.twin.st ≠ .down ∨ ¬ enabled ∨ s.boot.ready = false → exec .twinLinkUp s = .next (s.modTwin (fun t => {t with lanes := true})))
    ∧ (s.twin.st = .disabled → exec .twinLinkDown s = .next (s.modTwin (fun t => {t with lanes := false})))
    ∧ (s.twin.st ≠ .disabled → ∃ t, exec .twinLinkDown s = .next t ∧ t.twin.lanes = false ∧ t.twin.st = .down
      ∧ t.twin.keys = [] ∧ t.twin.push = [] ∧ (∀ p, s.twin.push = [p] → p.restore = false → t.twin.lastPush = (p.tag, 2)))
    ∧ (s.twin.st ≠ .pairing → s.twin.st ≠ .paired → exec (.pair m) s = .next s)
    ∧ (s.twin.st = .pairing →
      (m.vmin.toNat ≤ 1 → 1 ≤ m.vmax.toNat → ∃ t, exec (.pair m) s = .next t ∧ t.twin.keys = ks ∧ t.twin.sideA = a
        ∧ t.twin.sentConf = true ∧ t.twin.partner = some m ∧ t.twin.st = .pairing)
      ∧ (1 < m.vmin.toNat ∨ m.vmax.toNat < 1 → ∃ t, exec (.pair m) s = .next t ∧ t.twin.st = .down ∧ t.twin.keys = []
        ∧ t.sec.pairFail = (s.sec.pairFail + 1) % 2 ^ 32))
    ∧ (s.twin.st = .pairing → s.twin.partner = some q → s.twin.newKeys = [] →
      let right := s.TwinTakes tagOk seq ∧ kit = s.fuses.kit ∧ (na, nb) = mine
      (right → s.twin.sentConf = true → ∃ t, exec (.confirm kit na nb tagOk seq) s = .next t ∧ t.twin.st = .paired
        ∧ t.twin.fails = 0 ∧ t.twin.role = (if s.twin.paired1 = true ∧ s.twin.role = 0 then 2 else s.twin.role))
      ∧ (¬ right → s.twin.fails < 2 → ∃ t, exec (.confirm kit na nb tagOk seq) s = .next t ∧ t.twin.st = .pairing
        ∧ t.twin.fails = s.twin.fails + 1 ∧ t.sec.pairFail = s.sec.pairFail)
      ∧ (¬ right → 2 ≤ s.twin.fails → ∃ t, exec (.confirm kit na nb tagOk seq) s = .next t ∧ t.twin.st = .down
        ∧ t.twin.fails = 0 ∧ t.sec.pairFail = (s.sec.pairFail + 1) % 2 ^ 32)))

/-- A heartbeat is sent in a session, with contents no older than 1.5 ms and the next sequence number. One that comes
in is echoed; its echo extends the leader's lease to 5 ms after the heartbeat it echoes, under automatic failover on
both sides; at a first pairing it settles the roles; a partner in warm reset has lost what was pushed. A follower
counts the intervals without one, and the third in a row declares the partner lost (R556, R558, R560, R564, R565,
R569). A lease that expires ends the leader's service: role 0, every active slice freezes, a class F fault. A follower
becomes leader at its timeout under automatic failover, or at FAILOVER, which it acknowledges; the acknowledgement
makes an old leader that handed over a follower. (R547, R562, R564, R568). -/
def Obligations.TwinRoles : Prop :=
  (∀ (m : HbMsg) (tagOk : Bool) (seq f : Nat) (x : Nat × Nat) (s : State),
    (∃ t, exec .heartbeatRefresh s = .next t ∧ t.twin.fresh = some s.now
      ∧ t.twin.hbState = (if s.boot.warm then 1 else if s.twin.switching.isSome then 2 else 0))
    ∧ (s.twin.st ≠ .paired ∨ s.twin.fresh = none ∨ (s.twin.fresh = some f ∧ f + 1500000 < s.now) → exec .heartbeatSend s = .next s)
    ∧ (s.twin.st = .paired → s.twin.fresh = some f → s.now ≤ f + 1500000 → ∃ t, exec .heartbeatSend s = .next t
      ∧ t.twin.hbseq = (s.twin.hbseq + 1) % 2 ^ 32
      ∧ (s.twin.newKeys ≠ [] → s.twin.gotConf = true → s.twin.sentConf = true → t.twin.keys = s.twin.newKeys ∧ t.twin.newKeys = [])
      ∧ (s.twin.lanes = true → s.twin.keys ≠ [] → ∃ n body, Msg.twinCtl 2 body n ∈ t.out ∧ body.take 4 = leBytes 4 s.twin.hbseq))
    ∧ (s.TwinTakes tagOk seq → s.twin.st = .paired → s.twin.switching = none → ∃ t, exec (.hb m tagOk seq) s = .next t
      ∧ t.twin.echo = m.hbseq.toNat ∧ t.twin.gotHb = true ∧ t.twin.partnerLost = false ∧ t.twin.paired1 = true
      ∧ t.twin.role = (if s.twin.role = 0 ∧ s.twin.paired1 = false then (if m.role = 0 ∧ s.twin.sideA = true then 1 else 2)
        else s.twin.role)
      ∧ (s.twin.role = 1 → s.twin.afo = true → m.afo = true → s.twin.sent.find? (fun y => y.1 = m.echo.toNat) = some x →
        t.twin.lease = 1 ∧ t.twin.leaseEnd = max s.twin.leaseEnd (x.2 + 5000000))
      ∧ (s.twin.afo = false ∨ m.afo = false → s.twin.lease = 1 → t.twin.lease = 0)
      ∧ (m.state = 1 → t.twin.partUnits = [] ∧ t.twin.push = []))
    ∧ (s.twin.role ≠ 2 → exec .heartbeatCheck s = .next s)
    ∧ (s.twin.role = 2 → s.twin.gotHb = true → exec .heartbeatCheck s = .next (s.modTwin (fun t => {t with gotHb := false, miss := 0})))
    ∧ (s.twin.role = 2 → s.twin.gotHb = false → ∃ t, exec .heartbeatCheck s = .next t ∧ t.twin.miss = s.twin.miss + 1
      ∧ t.twin.missed = s.twin.missed + 1 ∧ t.twin.partnerLost = (s.twin.partnerLost || decide (2 ≤ s.twin.miss))))
  ∧ (∀ (cause : Fin 4) (role : Fin 3) (tagOk : Bool) (seq : Nat) (s : State),
    (s.twin.role ≠ 1 ∨ s.twin.lease ≠ 1 → exec .leaseExpire s = .next s)
    ∧ (s.twin.role = 1 → s.twin.lease = 1 → ∃ t, exec .leaseExpire s = .next t ∧ t.twin.role = 0 ∧ t.twin.lease = 2
      ∧ t.power.fault = true ∧ t.avail.logN = s.avail.logN + 1
      ∧ ∀ y, (s.sliceOf y).state = .active → (t.sliceOf y).state = .freezing)
    ∧ (s.twin.role ≠ 2 ∨ s.twin.bothAfo = false → exec .promotionTimeout s = .next s)
    ∧ (s.twin.role = 2 → s.twin.bothAfo = true → ∃ t, exec .promotionTimeout s = .next t ∧ t.twin.role = 1
      ∧ t.twin.failovers = (s.twin.failovers + 1) % 2 ^ 32 ∧ t.twin.switching = none)
    ∧ (s.TwinTakes tagOk seq → s.twin.role = 2 → ∃ t n, exec (.failover cause tagOk seq) s = .next t ∧ t.twin.role = 1
      ∧ t.twin.failovers = (s.twin.failovers + 1) % 2 ^ 32 ∧ Msg.twinCtl 6 [1] n ∈ t.out)
    ∧ (s.TwinTakes tagOk seq → s.twin.role ≠ 2 → ∃ t, exec (.failover cause tagOk seq) s = .next t ∧ t.twin.role = s.twin.role
      ∧ t.out = s.out)
    ∧ (s.TwinTakes tagOk seq → s.twin.switching.isSome → s.twin.switchSent = true → s.twin.role = 1 → role.val = 1 →
      s.boot.warmHeld = false → ∃ t, exec (.roleack role tagOk seq) s = .next t ∧ t.twin.role = 2 ∧ t.twin.switching = none
        ∧ t.twin.lease = 0)
    ∧ (s.TwinTakes tagOk seq → s.twin.switchSent = false ∨ role.val ≠ 1 ∨ s.twin.role ≠ 1 →
      ∃ t, exec (.roleack role tagOk seq) s = .next t ∧ t.twin.role = s.twin.role ∧ t.twin.switching = s.twin.switching))

/-- A mirror entry under a push is BUSY, an enabled one that is not a usable range apart from other entries and
reserves is RANGE. A switchover is refused for a value other than 1, while one stands, outside a synchronised session;
a leader's freezes every slice, a follower's stands until the leader's FAILOVER. The leader pairs again for a higher
version (R561, R567, R568, R570; how a follower's request stands is the model's choice, log 33). A push, restore or
journal record is asked for by a paired leader only; a push or restore is BUSY beyond 16 outstanding and RANGE outside
its entry, else it is sent under the next tag: every 256 B of a push as a DATA frame, a restore as a request. A
journal record that comes in is kept, the last 256 of them (R559, R563, R566). A DATA frame of a push lands on a
follower within its entry and marks its unit; a gap answers LOST, a package that is no follower answers STATE, a frame
outside RANGE, and what follows a lost one is ignored. A PUSHACK ends the push of its tag with its status, and an OK
counts. A RESTREQ is answered with the range by a follower, else with why not (R561, R563; after which frame a push is
acknowledged is free, log 32). -/
def Obligations.TwinMirror : Prop :=
  (∀ (i : Fin 64) (v : Word) (b : Byte) (h : HbMsg) (m : PairMsg) (s : State),
    let w : Word := v &&& 0x7FFFFFFFFFE0007F
    let note := fun (e st : Nat) (u : State) => u.emit (.event 16 [e, st])
    let pushed := s.twin.push.any (fun p => p.entry = i.val)
    let off := s.twin.st ≠ .paired ∨ s.twin.role = 0 ∨ s.synced = false
    let higher := (commonMajor m.vmin.toNat m.vmax.toNat).getD 0 < (commonMajor h.vmin.toNat h.vmax.toNat).getD 0
    (pushed = true → exec (.mirrorEntryWrite i v) s = .next (note 0x3003 8 s))
    ∧ (pushed = false → v.getLsbD 0 = true → s.mirrorOk i.val w = false → exec (.mirrorEntryWrite i v) s = .next (note 0x3003 6 s))
    ∧ (pushed = false → v.getLsbD 0 = false ∨ s.mirrorOk i.val w = true → ∃ t, exec (.mirrorEntryWrite i v) s = .next t
      ∧ tget 0 t.twin.entry i.val = w ∧ (∀ j, j ≠ i.val → tget 0 t.twin.entry j = tget 0 s.twin.entry j)
      ∧ (w.toNat / 128 = (tget 0 s.twin.entry i.val).toNat / 128 → t.twin.units = s.twin.units)
      ∧ (w.toNat / 128 ≠ (tget 0 s.twin.entry i.val).toNat / 128 → tget [] t.twin.units i.val = []))
    ∧ (b ≠ 1 → exec (.switchover b) s = .next (note 0x3001 6 s))
    ∧ (b = 1 → s.twin.switching.isSome → exec (.switchover b) s = .next (note 0x3001 8 s))
    ∧ (b = 1 → s.twin.switching = none → off → exec (.switchover b) s = .next (note 0x3001 7 s))
    ∧ (b = 1 → s.twin.switching = none → ¬ off → s.twin.role = 1 → ∃ t, exec (.switchover b) s = .next t
      ∧ t.twin.switching = some 1 ∧ ∀ y, (s.sliceOf y).state = .active → (t.sliceOf y).state = .freezing)
    ∧ (b = 1 → s.twin.switching = none → ¬ off → s.twin.role ≠ 1 → exec (.switchover b) s =
      .next (note 0x3001 0 (s.modTwin (fun t => {t with switching := some 1, switchSent := true}))))
    ∧ (s.twin.partHb = some h → s.twin.partner = some m →
      (s.leads = true → s.twin.newKeys = [] → higher → exec .mirrorRepairUpgrade s = .next s.pairSend)
      ∧ (s.leads = false ∨ s.twin.newKeys ≠ [] ∨ ¬ higher → exec .mirrorRepairUpgrade s = .next s)))
  ∧ (∀ (req : List Byte) (rec' : Sector) (tagOk : Bool) (seq : Nat) (s : State),
    let f := fun (o n : Nat) => leNat ((req.drop o).take n)
    let note := fun (e st : Nat) (u : State) => u.emit (.event 16 [e, st])
    let inside := req.length = 40 ∧ s.twin.inEntry (f 0 8) (f 8 8) (f 16 8) = true
    (s.leads = false → exec (.push req) s = .next (note 0x3005 7 s) ∧ exec (.restore req) s = .next (note 0x3007 7 s)
      ∧ exec (.journalWrite rec') s = .next (note 0x3006 7 s))
    ∧ (s.leads = true → 16 ≤ s.twin.push.length →
      exec (.push req) s = .next (note 0x3005 8 s) ∧ exec (.restore req) s = .next (note 0x3007 8 s))
    ∧ (s.leads = true → s.twin.push.length < 16 → ¬ inside →
      exec (.push req) s = .next (note 0x3005 6 s) ∧ exec (.restore req) s = .next (note 0x3007 6 s))
    ∧ (s.leads = true → s.twin.push.length < 16 → inside →
      let p : Push := ⟨s.twin.tag, false, f 0 8, f 8 8, f 16 8, f 32 2, BitVec.ofNat 64 (f 24 8), (f 34 1).testBit 0, 0⟩
      let u := fun (p : Push) => s.modTwin (fun t => {t with push := t.push ++ [p], tag := (t.tag + 1) % 16384})
      exec (.push req) s = .next (note 0x3005 0 ((u p).sendRange p.entry p.off p.len p.tag))
      ∧ exec (.restore req) s = .next (note 0x3007 0 ((u {p with restore := true}).twinCtl 7
        (leBytes 1 p.entry ++ leBytes 8 p.off ++ leBytes 8 p.len ++ leBytes 2 p.tag))))
    ∧ (s.leads = true → exec (.journalWrite rec') s = .next (note 0x3006 0 (s.twinCtl 4 (sectorBytes rec'))))
    ∧ (s.TwinTakes tagOk seq → s.twin.role = 2 → ∃ t, exec (.journal rec' tagOk seq) s = .next t
      ∧ t.twin.journalN = s.twin.journalN + 1
      ∧ (s.twin.journal.length < 256 → t.twin.journal = s.twin.journal ++ [rec'])
      ∧ (s.twin.journal.length = 256 → t.twin.journal = s.twin.journal.tail ++ [rec']))
    ∧ (s.TwinTakes tagOk seq → s.twin.role ≠ 2 → ∃ t, exec (.journal rec' tagOk seq) s = .next t ∧ t.twin.journal = s.twin.journal))
  ∧ (∀ (e : Fin 64) (n : Half) (pois : BitVec 4) (tag : BitVec 14) (data : List Sector) (gap : Bool) (st : Fin 4) (b off len : Word)
    (p : Push) (tagOk : Bool) (seq : Nat) (s : State),
    let g := tag.toNat
    let land := fun (gap : Bool) => Instr.twinData e n pois tag data gap
    let inside := s.twin.inEntry e.val (256 * n.toNat) 256
    let after := (s.ctlTake tagOk seq).2
    (s.twin.st ≠ .paired → exec (land gap) s = .next s)
    ∧ (s.twin.st = .paired → (∀ p ∈ s.twin.push, p.restore = true → p.tag ≠ g) →
      exec (land true) s = .next (s.pushAck g 2)
      ∧ (g ∈ s.twin.lostTags → exec (land false) s = .next s)
      ∧ (g ∉ s.twin.lostTags → s.twin.role ≠ 2 → exec (land false) s = .next (s.pushAck g 3))
      ∧ (g ∉ s.twin.lostTags → s.twin.role = 2 → inside = false → exec (land false) s = .next (s.pushAck g 1))
      ∧ (g ∉ s.twin.lostTags → s.twin.role = 2 → inside = true →
        let u := (s.bump.landFrame e.val n.toNat pois.toNat data).modTwin (fun t => { t with
          arriving := tmod 0 t.arriving g (· + 256),
          units := tmod [] t.units e.val (fun u => if u.contains n.toNat then u else u ++ [n.toNat]) })
        (exec (land false) s = .next u ∨ exec (land false) s = .next (u.pushAck g 0))
          ∧ n.toNat ∈ tget [] u.twin.units e.val ∧ (u.pushAck g 0).twin.units = u.twin.units))
    ∧ (s.TwinTakes tagOk seq → s.twin.switching = none → s.twin.push.find? (fun p => p.tag = g) = some p →
      ∃ t, exec (.pushack tag st b tagOk seq) s = .next t ∧ t.twin.push = s.twin.push.erase p
        ∧ (p.restore = false → t.twin.lastPush = (p.tag, st.val)
          ∧ t.twin.pushes = (if st.val = 0 then s.twin.pushes + 1 else s.twin.pushes)))
    ∧ (s.TwinTakes tagOk seq → (∀ p ∈ s.twin.push, p.tag ≠ g) → exec (.pushack tag st b tagOk seq) s = .next after)
    ∧ (s.TwinTakes tagOk seq →
      (s.twin.role ≠ 2 → exec (.restreq e off len tag tagOk seq) s = .next (after.pushAck g 3))
      ∧ (s.twin.role = 2 → s.twin.inEntry e.val off.toNat len.toNat = false →
        exec (.restreq e off len tag tagOk seq) s = .next (after.pushAck g 1))
      ∧ (s.twin.role = 2 → s.twin.inEntry e.val off.toNat len.toNat = true →
        exec (.restreq e off len tag tagOk seq) s = .next (after.sendRange e.val off.toNat len.toNat g))))

/-- A hub controller whose watchdog expires three times in an hour is retired and logged; MGD's expiry loses what the
cellar master held; a class F fault asserts the fault output, is logged, and a leader hands over; the loss of the
clock holds the package in reset; the management link comes up once its PHY is out of reset (R547, R548, R550, R564,
R580). -/
def Obligations.WatchdogsAndFaults : Prop :=
  ∀ (a b : Fin 4) (code : BitVec 16) (die : Byte) (s : State),
    let i := 4 * a.val + b.val
    let recent := (tget [] s.avail.hubExp i).filter (fun x => decide (s.now < x + 3600 * 10 ^ 9))
    (i ∈ s.avail.hubRetired → exec (.hubControllerWatchdog a b) s = .next s)
    ∧ (i ∉ s.avail.hubRetired → ∃ t, exec (.hubControllerWatchdog a b) s = .next t ∧ tget [] t.avail.hubExp i = s.now :: recent
      ∧ (recent.length < 2 → t.avail.hubRetired = s.avail.hubRetired ∧ t.avail.logN = s.avail.logN)
      ∧ (2 ≤ recent.length → t.avail.hubRetired = s.avail.hubRetired ++ [i] ∧ t.avail.logN = s.avail.logN + 1))
    ∧ exec .mgdWatchdog s = .next { s with
        book := {s.book with xfer := [], snap := [], kept := []}, twin := {s.twin with fresh := none} }
    ∧ (∃ t, exec (.classFFault code die) s = .next t ∧ t.power.fault = true ∧ t.avail.logN = s.avail.logN + 1
      ∧ (s.leads = true → s.twin.switching ≠ some 2 → ∀ y, (s.sliceOf y).state = .active → (t.sliceOf y).state = .freezing))
    ∧ (∃ t, exec .sysclkLoss s = .next t ∧ t.power.held = true ∧ t.power.porLow = s.power.porLow ∧ t.boot.running = false
      ∧ t.boot.ready = false ∧ t.hub = {} ∧ t.fuses = s.fuses ∧ t.boot.nvImage = s.boot.nvImage)
    ∧ (s.power.phyRst = true → exec .managementLinkUp s = .next s)
    ∧ (s.power.phyRst = false → exec .managementLinkUp s = .next {s with book := {s.book with mgmtUp := true}})
end

