-- ==== Sys2Proof/Laws/Exec.lean ====
section
/-! SUPPORT. One equation per command: `exec` of it is its meaning. -/

namespace Sys2Proof.Machine

@[simp] theorem exec_load (s : State) : ∀ h n rs1 imm dst, exec (.load h n rs1 imm dst) s = execLoad h n rs1 imm dst s := by intros; rfl
@[simp] theorem exec_store (s : State) : ∀ h n rs1 imm src, exec (.store h n rs1 imm src) s = execStore h n rs1 imm src s := by intros; rfl
@[simp] theorem exec_lr (s : State) : ∀ h rd rs1 dbl, exec (.lr h rd rs1 dbl) s = execLr h rd rs1 dbl s := by intros; rfl
@[simp] theorem exec_sc (s : State) : ∀ h rd rs1 rs2 dbl, exec (.sc h rd rs1 rs2 dbl) s = execSc h rd rs1 rs2 dbl s := by intros; rfl
@[simp] theorem exec_threadAmo (s : State) : ∀ h rd rs1 rs2 op dbl, exec (.threadAmo h rd rs1 rs2 op dbl) s = execThreadAmo h rd rs1 rs2 op dbl s := by intros; rfl
@[simp] theorem exec_fence (s : State) : ∀ h pred succ, exec (.fence h pred succ) s = execFence h pred succ s := by intros; rfl
@[simp] theorem exec_fenceI (s : State) : ∀ h, exec (.fenceI h) s = execFenceI h s := by intros; rfl
@[simp] theorem exec_wfi (s : State) : ∀ h, exec (.wfi h) s = execWfi h s := by intros; rfl
@[simp] theorem exec_vectorInstr (s : State) : ∀ h w, exec (.vectorInstr h w) s = execVectorInstr h w s := by intros; rfl
@[simp] theorem exec_csrAccess (s : State) : ∀ h op rd src csr, exec (.csrAccess h op rd src csr) s = execCsrAccess h op rd src csr s := by intros; rfl
@[simp] theorem exec_pstatWrite (s : State) : ∀ h op rd src, exec (.pstatWrite h op rd src) s = execPstatWrite h op rd src s := by intros; rfl
@[simp] theorem exec_cycflgWrite (s : State) : ∀ h op rd src, exec (.cycflgWrite h op rd src) s = execCycflgWrite h op rd src s := by intros; rfl
@[simp] theorem exec_mhpmeventWrite (s : State) : ∀ h op rd src n, exec (.mhpmeventWrite h op rd src n) s = execMhpmeventWrite h op rd src n s := by intros; rfl
@[simp] theorem exec_pmpcfgWrite (s : State) : ∀ h op rd src n, exec (.pmpcfgWrite h op rd src n) s = execPmpcfgWrite h op rd src n s := by intros; rfl
@[simp] theorem exec_lipendWrite (s : State) : ∀ h n t v, exec (.lipendWrite h n t v) s = execLipendWrite h n t v s := by intros; rfl
@[simp] theorem exec_ltcmpWrite (s : State) : ∀ h n t v, exec (.ltcmpWrite h n t v) s = execLtcmpWrite h n t v s := by intros; rfl
@[simp] theorem exec_coreLocalAccess (s : State) : ∀ h n kind off lg rd v, exec (.coreLocalAccess h n kind off lg rd v) s = execCoreLocalAccess h n kind off lg rd v s := by intros; rfl
@[simp] theorem exec_localTimerMatch (s : State) : ∀ h, exec (.localTimerMatch h) s = execLocalTimerMatch h s := by intros; rfl
@[simp] theorem exec_threadInterrupt (s : State) : ∀ h, exec (.threadInterrupt h) s = execThreadInterrupt h s := by intros; rfl
@[simp] theorem exec_coreResponse (s : State) : ∀ h tag st poison data, exec (.coreResponse h tag st poison data) s = execCoreResponse h tag st poison data s := by intros; rfl
@[simp] theorem exec_hostStoreAnswer (s : State) : ∀ h tag st, exec (.hostStoreAnswer h tag st) s = execHostStoreAnswer h tag st s := by intros; rfl
@[simp] theorem exec_pmac (s : State) : ∀ h w, exec (.pmac h w) s = execPmac h w s := by intros; rfl
@[simp] theorem exec_pmacz (s : State) : ∀ h w, exec (.pmacz h w) s = execPmacz h w s := by intros; rfl
@[simp] theorem exec_pmacv (s : State) : ∀ h w, exec (.pmacv h w) s = execPmacv h w s := by intros; rfl
@[simp] theorem exec_pmaczv (s : State) : ∀ h w, exec (.pmaczv h w) s = execPmaczv h w s := by intros; rfl
@[simp] theorem exec_pzero (s : State) : ∀ h w, exec (.pzero h w) s = execPzero h w s := by intros; rfl
@[simp] theorem exec_pld (s : State) : ∀ h w, exec (.pld h w) s = execPld h w s := by intros; rfl
@[simp] theorem exec_pst (s : State) : ∀ h w, exec (.pst h w) s = execPst h w s := by intros; rfl
@[simp] theorem exec_prdv (s : State) : ∀ h w, exec (.prdv h w) s = execPrdv h w s := by intros; rfl
@[simp] theorem exec_pwrv (s : State) : ∀ h w, exec (.pwrv h w) s = execPwrv h w s := by intros; rfl
@[simp] theorem exec_pstc (s : State) : ∀ h w, exec (.pstc h w) s = execPstc h w s := by intros; rfl
@[simp] theorem exec_pwait (s : State) : ∀ h w, exec (.pwait h w) s = execPwait h w s := by intros; rfl
@[simp] theorem exec_pressInstrStart (s : State) : ∀ c, exec (.pressInstrStart c) s = execPressInstrStart c s := by intros; rfl
@[simp] theorem exec_pressInstrComplete (s : State) : ∀ c n, exec (.pressInstrComplete c n) s = execPressInstrComplete c n s := by intros; rfl
@[simp] theorem exec_vpackF (s : State) : ∀ h w, exec (.vpackF h w) s = execVpackF h w s := by intros; rfl
@[simp] theorem exec_vpackX (s : State) : ∀ h w, exec (.vpackX h w) s = execVpackX h w s := by intros; rfl
@[simp] theorem exec_vunpack (s : State) : ∀ h w, exec (.vunpack h w) s = execVunpack h w s := by intros; rfl
@[simp] theorem exec_vmxscl (s : State) : ∀ h w, exec (.vmxscl h w) s = execVmxscl h w s := by intros; rfl
@[simp] theorem exec_vmxenc (s : State) : ∀ h w, exec (.vmxenc h w) s = execVmxenc h w s := by intros; rfl
@[simp] theorem exec_vmxdec (s : State) : ∀ h w, exec (.vmxdec h w) s = execVmxdec h w s := by intros; rfl
@[simp] theorem exec_dinit (s : State) : ∀ h w, exec (.dinit h w) s = execDinit h w s := by intros; rfl
@[simp] theorem exec_dkv (s : State) : ∀ h w, exec (.dkv h w) s = execDkv h w s := by intros; rfl
@[simp] theorem exec_dfin (s : State) : ∀ h w, exec (.dfin h w) s = execDfin h w s := by intros; rfl
@[simp] theorem exec_dsave (s : State) : ∀ h w, exec (.dsave h w) s = execDsave h w s := by intros; rfl
@[simp] theorem exec_dload (s : State) : ∀ h w, exec (.dload h w) s = execDload h w s := by intros; rfl
@[simp] theorem exec_barw (s : State) : ∀ h w, exec (.barw h w) s = execBarw h w s := by intros; rfl
@[simp] theorem exec_bara (s : State) : ∀ h w, exec (.bara h w) s = execBara h w s := by intros; rfl
@[simp] theorem exec_bart (s : State) : ∀ h w, exec (.bart h w) s = execBart h w s := by intros; rfl
@[simp] theorem exec_barwp (s : State) : ∀ h w, exec (.barwp h w) s = execBarwp h w s := by intros; rfl
@[simp] theorem exec_barrierArm (s : State) : ∀ who chan locals, exec (.barrierArm who chan locals) s = execBarrierArm who chan locals s := by intros; rfl
@[simp] theorem exec_barrierArrivalMsg (s : State) : ∀ chan si, exec (.barrierArrivalMsg chan si) s = execBarrierArrivalMsg chan si s := by intros; rfl
@[simp] theorem exec_barrierRelease (s : State) : ∀ chan si phase, exec (.barrierRelease chan si phase) s = execBarrierRelease chan si phase s := by intros; rfl
@[simp] theorem exec_fsig (s : State) : ∀ h w, exec (.fsig h w) s = execFsig h w s := by intros; rfl
@[simp] theorem exec_fwait (s : State) : ∀ h w, exec (.fwait h w) s = execFwait h w s := by intros; rfl
@[simp] theorem exec_fread (s : State) : ∀ h w, exec (.fread h w) s = execFread h w s := by intros; rfl
@[simp] theorem exec_clret (s : State) : ∀ who si v, exec (.clret who si v) s = execClret who si v s := by intros; rfl
@[simp] theorem exec_clmapWrite (s : State) : ∀ who si n v, exec (.clmapWrite who si n v) s = execClmapWrite who si n v s := by intros; rfl
@[simp] theorem exec_spareSubstitute (s : State) : ∀ si cl pos, exec (.spareSubstitute si cl pos) s = execSpareSubstitute si cl pos s := by intros; rfl
@[simp] theorem exec_spareSelftestDone (s : State) : ∀ si cl r, exec (.spareSelftestDone si cl r) s = execSpareSelftestDone si cl r s := by intros; rfl
@[simp] theorem exec_coreTestDue (s : State) : ∀ si cl pos, exec (.coreTestDue si cl pos) s = execCoreTestDue si cl pos s := by intros; rfl
@[simp] theorem exec_coreTestDone (s : State) : ∀ si cl pass, exec (.coreTestDone si cl pass) s = execCoreTestDone si cl pass s := by intros; rfl
@[simp] theorem exec_zoneSample (s : State) : ∀ si temps, exec (.zoneSample si temps) s = execZoneSample si temps s := by intros; rfl
@[simp] theorem exec_governorEval (s : State) : ∀ si, exec (.governorEval si) s = execGovernorEval si s := by intros; rfl
@[simp] theorem exec_droopStretch (s : State) : ∀ si row, exec (.droopStretch si row) s = execDroopStretch si row s := by intros; rfl
@[simp] theorem exec_l2TagError (s : State) : ∀ si bank set uncorrectable, exec (.l2TagError si bank set uncorrectable) s = execL2TagError si bank set uncorrectable s := by intros; rfl
@[simp] theorem exec_l2TagReport (s : State) : ∀ k si bank set, exec (.l2TagReport k si bank set) s = execL2TagReport k si bank set s := by intros; rfl
@[simp] theorem exec_contextSave (s : State) : ∀ c, exec (.contextSave c) s = execContextSave c s := by intros; rfl
@[simp] theorem exec_contextLoad (s : State) : ∀ c x, exec (.contextLoad c x) s = execContextLoad c x s := by intros; rfl
@[simp] theorem exec_contextSchedule (s : State) : ∀ x, exec (.contextSchedule x) s = execContextSchedule x s := by intros; rfl
@[simp] theorem exec_contextIdle (s : State) : ∀ c, exec (.contextIdle c) s = execContextIdle c s := by intros; rfl
@[simp] theorem exec_contextQuantumEnd (s : State) : ∀ c, exec (.contextQuantumEnd c) s = execContextQuantumEnd c s := by intros; rfl
@[simp] theorem exec_preemptTimeout (s : State) : ∀ c, exec (.preemptTimeout c) s = execPreemptTimeout c s := by intros; rfl
@[simp] theorem exec_copy (s : State) : ∀ e, exec (.copy e) s = execCopy e s := by intros; rfl
@[simp] theorem exec_stride (s : State) : ∀ e, exec (.stride e) s = execStride e s := by intros; rfl
@[simp] theorem exec_tile2d (s : State) : ∀ e, exec (.tile2d e) s = execTile2d e s := by intros; rfl
@[simp] theorem exec_zero (s : State) : ∀ e, exec (.zero e) s = execZero e s := by intros; rfl
@[simp] theorem exec_reduce (s : State) : ∀ e, exec (.reduce e) s = execReduce e s := by intros; rfl
@[simp] theorem exec_merge (s : State) : ∀ e, exec (.merge e) s = execMerge e s := by intros; rfl
@[simp] theorem exec_kvcvt (s : State) : ∀ e, exec (.kvcvt e) s = execKvcvt e s := by intros; rfl
@[simp] theorem exec_nop (s : State) : ∀ e, exec (.nop e) s = execNop e s := by intros; rfl
@[simp] theorem exec_descDispatch (s : State) : ∀ src e, exec (.descDispatch src e) s = execDescDispatch src e s := by intros; rfl
@[simp] theorem exec_engineYield (s : State) : ∀ e, exec (.engineYield e) s = execEngineYield e s := by intros; rfl
@[simp] theorem exec_tileCommit (s : State) : ∀ e, exec (.tileCommit e) s = execTileCommit e s := by intros; rfl
@[simp] theorem exec_descComplete (s : State) : ∀ src, exec (.descComplete src) s = execDescComplete src s := by intros; rfl
@[simp] theorem exec_rd (s : State) : ∀ r, exec (.rd r) s = execRd r s := by intros; rfl
@[simp] theorem exec_rds (s : State) : ∀ r, exec (.rds r) s = execRds r s := by intros; rfl
@[simp] theorem exec_rdx (s : State) : ∀ r, exec (.rdx r) s = execRdx r s := by intros; rfl
@[simp] theorem exec_wr (s : State) : ∀ r data, exec (.wr r data) s = execWr r data s := by intros; rfl
@[simp] theorem exec_wri (s : State) : ∀ r data, exec (.wri r data) s = execWri r data s := by intros; rfl
@[simp] theorem exec_wrp (s : State) : ∀ r mask data, exec (.wrp r mask data) s = execWrp r mask data s := by intros; rfl
@[simp] theorem exec_wrpoi (s : State) : ∀ r, exec (.wrpoi r) s = execWrpoi r s := by intros; rfl
@[simp] theorem exec_stash (s : State) : ∀ r data, exec (.stash r data) s = execStash r data s := by intros; rfl
@[simp] theorem exec_wb (s : State) : ∀ src r data, exec (.wb src r data) s = execWb src r data s := by intros; rfl
@[simp] theorem exec_amo (s : State) : ∀ r operand, exec (.amo r operand) s = execAmo r operand s := by intros; rfl
@[simp] theorem exec_trace (s : State) : ∀ r sink record, exec (.trace r sink record) s = execTrace r sink record s := by intros; rfl
@[simp] theorem exec_snpInv (s : State) : ∀ si pa, exec (.snpInv si pa) s = execSnpInv si pa s := by intros; rfl
@[simp] theorem exec_snoopRd (s : State) : ∀ si pa, exec (.snoopRd si pa) s = execSnoopRd si pa s := by intros; rfl
@[simp] theorem exec_snoopRds (s : State) : ∀ si pa, exec (.snoopRds si pa) s = execSnoopRds si pa s := by intros; rfl
@[simp] theorem exec_snoopRdx (s : State) : ∀ si pa, exec (.snoopRdx si pa) s = execSnoopRdx si pa s := by intros; rfl
@[simp] theorem exec_stashPush (s : State) : ∀ si pa data, exec (.stashPush si pa data) s = execStashPush si pa data s := by intros; rfl
@[simp] theorem exec_deferredSnoopRelease (s : State) : ∀ si pa, exec (.deferredSnoopRelease si pa) s = execDeferredSnoopRelease si pa s := by intros; rfl
@[simp] theorem exec_secondaryResponse (s : State) : ∀ k pa si st data, exec (.secondaryResponse k pa si st data) s = execSecondaryResponse k pa si st data s := by intros; rfl
@[simp] theorem exec_redirectResponse (s : State) : ∀ k src tag st data, exec (.redirectResponse k src tag st data) s = execRedirectResponse k src tag st data s := by intros; rfl
@[simp] theorem exec_heal (s : State) : ∀ entry off copyOk, exec (.heal entry off copyOk) s = execHeal entry off copyOk s := by intros; rfl
@[simp] theorem exec_reserveCopyWrite (s : State) : ∀ who entry hi v, exec (.reserveCopyWrite who entry hi v) s = execReserveCopyWrite who entry hi v s := by intros; rfl
@[simp] theorem exec_refreshDue (s : State) : ∀ k pc rank bank, exec (.refreshDue k pc rank bank) s = execRefreshDue k pc rank bank s := by intros; rfl
@[simp] theorem exec_caskTempSample (s : State) : ∀ k temp, exec (.caskTempSample k temp) s = execCaskTempSample k temp s := by intros; rfl
@[simp] theorem exec_caskCycle (s : State) : ∀ k pc, exec (.caskCycle k pc) s = execCaskCycle k pc s := by intros; rfl
@[simp] theorem exec_dqMarginSample (s : State) : ∀ k pc lane margin, exec (.dqMarginSample k pc lane margin) s = execDqMarginSample k pc lane margin s := by intros; rfl
@[simp] theorem exec_caParityError (s : State) : ∀ k pc lane, exec (.caParityError k pc lane) s = execCaParityError k pc lane s := by intros; rfl
@[simp] theorem exec_rowRepair (s : State) : ∀ k pc rank bank row, exec (.rowRepair k pc rank bank row) s = execRowRepair k pc rank bank row s := by intros; rfl
@[simp] theorem exec_frameRetire (s : State) : ∀ k frame, exec (.frameRetire k frame) s = execFrameRetire k frame s := by intros; rfl
@[simp] theorem exec_caskPoisonFillDone (s : State) : ∀ k, exec (.caskPoisonFillDone k) s = execCaskPoisonFillDone k s := by intros; rfl
@[simp] theorem exec_tgStart (s : State) : ∀ who k pc ctl, exec (.tgStart who k pc ctl) s = execTgStart who k pc ctl s := by intros; rfl
@[simp] theorem exec_tgStop (s : State) : ∀ who k pc, exec (.tgStop who k pc) s = execTgStop who k pc s := by intros; rfl
@[simp] theorem exec_tgRunEnd (s : State) : ∀ k pc, exec (.tgRunEnd k pc) s = execTgRunEnd k pc s := by intros; rfl
@[simp] theorem exec_routerReceive (s : State) : ∀ r p input h0 h1 payload, exec (.routerReceive r p input h0 h1 payload) s = execRouterReceive r p input h0 h1 payload s := by intros; rfl
@[simp] theorem exec_tasterRecordSend (s : State) : ∀ n, exec (.tasterRecordSend n) s = execTasterRecordSend n s := by intros; rfl
@[simp] theorem exec_routeEntryWrite (s : State) : ∀ who ni d v, exec (.routeEntryWrite who ni d v) s = execRouteEntryWrite who ni d v s := by intros; rfl
@[simp] theorem exec_routeChangeApply (s : State) : ∀ ni d, exec (.routeChangeApply ni d) s = execRouteChangeApply ni d s := by intros; rfl
@[simp] theorem exec_tagTimeout (s : State) : ∀ ni tag, exec (.tagTimeout ni tag) s = execTagTimeout ni tag s := by intros; rfl
@[simp] theorem exec_tagQuarantineEnd (s : State) : ∀ ni tag, exec (.tagQuarantineEnd ni tag) s = execTagQuarantineEnd ni tag s := by intros; rfl
@[simp] theorem exec_bungRegWrite (s : State) : ∀ who ni v, exec (.bungRegWrite who ni v) s = execBungRegWrite who ni v s := by intros; rfl
@[simp] theorem exec_bungRelease (s : State) : ∀ ni, exec (.bungRelease ni) s = execBungRelease ni s := by intros; rfl
@[simp] theorem exec_endpointDomainReset (s : State) : ∀ d, exec (.endpointDomainReset d) s = execEndpointDomainReset d s := by intros; rfl
@[simp] theorem exec_partitionReset (s : State) : ∀ ds, exec (.partitionReset ds) s = execPartitionReset ds s := by intros; rfl
@[simp] theorem exec_linkRetire (s : State) : ∀ r p d, exec (.linkRetire r p d) s = execLinkRetire r p d s := by intros; rfl
@[simp] theorem exec_linkHealthWindowEnd (s : State) : ∀ r p d, exec (.linkHealthWindowEnd r p d) s = execLinkHealthWindowEnd r p d s := by intros; rfl
@[simp] theorem exec_regulatorWindowEnd (s : State) : exec .regulatorWindowEnd s = execRegulatorWindowEnd s := rfl
@[simp] theorem exec_niInject (s : State) : ∀ ni q data, exec (.niInject ni q data) s = execNiInject ni q data s := by intros; rfl
@[simp] theorem exec_budgetWrite (s : State) : ∀ who ni c v, exec (.budgetWrite who ni c v) s = execBudgetWrite who ni c v s := by intros; rfl
@[simp] theorem exec_ownerWrite (s : State) : ∀ who k g v, exec (.ownerWrite who k g v) s = execOwnerWrite who k g v s := by intros; rfl
@[simp] theorem exec_shareWrite (s : State) : ∀ who k a v, exec (.shareWrite who k a v) s = execShareWrite who k a v s := by intros; rfl
@[simp] theorem exec_frameReceive (s : State) : ∀ a m toHub cw0 cw1 payload, exec (.frameReceive a m toHub cw0 cw1 payload) s = execFrameReceive a m toHub cw0 cw1 payload s := by intros; rfl
@[simp] theorem exec_ident (s : State) : ∀ a w, exec (.ident a w) s = execIdent a w s := by intros; rfl
@[simp] theorem exec_idreq (s : State) : ∀ a, exec (.idreq a) s = execIdreq a s := by intros; rfl
@[simp] theorem exec_identTimeout (s : State) : ∀ a, exec (.identTimeout a) s = execIdentTimeout a s := by intros; rfl
@[simp] theorem exec_caprd (s : State) : ∀ si idx, exec (.caprd si idx) s = execCaprd si idx s := by intros; rfl
@[simp] theorem exec_capdat (s : State) : ∀ si w, exec (.capdat si w) s = execCapdat si w s := by intros; rfl
@[simp] theorem exec_capset (s : State) : ∀ si w, exec (.capset si w) s = execCapset si w s := by intros; rfl
@[simp] theorem exec_capack (s : State) : ∀ si w, exec (.capack si w) s = execCapack si w s := by intros; rfl
@[simp] theorem exec_budget (s : State) : ∀ si w, exec (.budget si w) s = execBudget si w s := by intros; rfl
@[simp] theorem exec_report (s : State) : ∀ si w, exec (.report si w) s = execReport si w s := by intros; rfl
@[simp] theorem exec_retrain (s : State) : ∀ a toHub w, exec (.retrain a toHub w) s = execRetrain a toHub w s := by intros; rfl
@[simp] theorem exec_lost (s : State) : ∀ a m toHub w, exec (.lost a m toHub w) s = execLost a m toHub w s := by intros; rfl
@[simp] theorem exec_sidebandFence (s : State) : ∀ a w, exec (.sidebandFence a w) s = execSidebandFence a w s := by intros; rfl
@[simp] theorem exec_remap (s : State) : ∀ a w, exec (.remap a w) s = execRemap a w s := by intros; rfl
@[simp] theorem exec_linkTrain (s : State) : ∀ a m, exec (.linkTrain a m) s = execLinkTrain a m s := by intros; rfl
@[simp] theorem exec_linkTrainDone (s : State) : ∀ a m tries, exec (.linkTrainDone a m tries) s = execLinkTrainDone a m tries s := by intros; rfl
@[simp] theorem exec_laneCorrectedThreshold (s : State) : ∀ a m toHub lane, exec (.laneCorrectedThreshold a m toHub lane) s = execLaneCorrectedThreshold a m toHub lane s := by intros; rfl
@[simp] theorem exec_laneHourEnd (s : State) : ∀ a m toHub, exec (.laneHourEnd a m toHub) s = execLaneHourEnd a m toHub s := by intros; rfl
@[simp] theorem exec_baselineCaptured (s : State) : ∀ a m toHub, exec (.baselineCaptured a m toHub) s = execBaselineCaptured a m toHub s := by intros; rfl
@[simp] theorem exec_judgedRetrain (s : State) : ∀ a m urgent, exec (.judgedRetrain a m urgent) s = execJudgedRetrain a m urgent s := by intros; rfl
@[simp] theorem exec_moduleFailure (s : State) : ∀ a m, exec (.moduleFailure a m) s = execModuleFailure a m s := by intros; rfl
@[simp] theorem exec_graftRequest (s : State) : ∀ si q, exec (.graftRequest si q) s = execGraftRequest si q s := by intros; rfl
@[simp] theorem exec_graftResponse (s : State) : ∀ si m tag st data, exec (.graftResponse si m tag st data) s = execGraftResponse si m tag st data s := by intros; rfl
@[simp] theorem exec_apertureRequest (s : State) : ∀ si q src data, exec (.apertureRequest si q src data) s = execApertureRequest si q src data s := by intros; rfl
@[simp] theorem exec_graftAnswerOverdue (s : State) : ∀ si m tag, exec (.graftAnswerOverdue si m tag) s = execGraftAnswerOverdue si m tag s := by intros; rfl
@[simp] theorem exec_gateRuleWrite (s : State) : ∀ who si rule word v, exec (.gateRuleWrite who si rule word v) s = execGateRuleWrite who si rule word v s := by intros; rfl
@[simp] theorem exec_gateCtlWrite (s : State) : ∀ who si v, exec (.gateCtlWrite who si v) s = execGateCtlWrite who si v s := by intros; rfl
@[simp] theorem exec_graftFence (s : State) : ∀ si cause, exec (.graftFence si cause) s = execGraftFence si cause s := by intros; rfl
@[simp] theorem exec_graftSecondEnd (s : State) : ∀ si, exec (.graftSecondEnd si) s = execGraftSecondEnd si s := by intros; rfl
@[simp] theorem exec_admission (s : State) : ∀ si e, exec (.admission si e) s = execAdmission si e s := by intros; rfl
@[simp] theorem exec_admissionStepTimeout (s : State) : ∀ si step, exec (.admissionStepTimeout si step) s = execAdmissionStepTimeout si step s := by intros; rfl
@[simp] theorem exec_graftReadmit (s : State) : ∀ si, exec (.graftReadmit si) s = execGraftReadmit si s := by intros; rfl
@[simp] theorem exec_hostControlAccess (s : State) : ∀ e wr off size data, exec (.hostControlAccess e wr off size data) s = execHostControlAccess e wr off size data s := by intros; rfl
@[simp] theorem exec_segmentWrite (s : State) : ∀ e n v, exec (.segmentWrite e n v) s = execSegmentWrite e n v s := by intros; rfl
@[simp] theorem exec_apertureRead (s : State) : ∀ e off len, exec (.apertureRead e off len) s = execApertureRead e off len s := by intros; rfl
@[simp] theorem exec_apertureWrite (s : State) : ∀ e off data poisoned, exec (.apertureWrite e off data poisoned) s = execApertureWrite e off data poisoned s := by intros; rfl
@[simp] theorem exec_doorbellWrite (s : State) : ∀ e off size data poisoned, exec (.doorbellWrite e off size data poisoned) s = execDoorbellWrite e off size data poisoned s := by intros; rfl
@[simp] theorem exec_warmResetRequest (s : State) : ∀ e, exec (.warmResetRequest e) s = execWarmResetRequest e s := by intros; rfl
@[simp] theorem exec_hostWindowRequest (s : State) : ∀ e q, exec (.hostWindowRequest e q) s = execHostWindowRequest e q s := by intros; rfl
@[simp] theorem exec_hostCompletion (s : State) : ∀ e id k data, exec (.hostCompletion e id k data) s = execHostCompletion e id k data s := by intros; rfl
@[simp] theorem exec_hostCompletionTimeout (s : State) : ∀ e id, exec (.hostCompletionTimeout e id) s = execHostCompletionTimeout e id s := by intros; rfl
@[simp] theorem exec_hostRequestHubTimeout (s : State) : ∀ e id, exec (.hostRequestHubTimeout e id) s = execHostRequestHubTimeout e id s := by intros; rfl
@[simp] theorem exec_msixTrigger (s : State) : ∀ e vec, exec (.msixTrigger e vec) s = execMsixTrigger e vec s := by intros; rfl
@[simp] theorem exec_msixUnmask (s : State) : ∀ e u, exec (.msixUnmask e u) s = execMsixUnmask e u s := by intros; rfl
@[simp] theorem exec_hostLinkDown (s : State) : ∀ e, exec (.hostLinkDown e) s = execHostLinkDown e s := by intros; rfl
@[simp] theorem exec_fundamentalReset (s : State) : ∀ e, exec (.fundamentalReset e) s = execFundamentalReset e s := by intros; rfl
@[simp] theorem exec_hotReset (s : State) : ∀ e, exec (.hotReset e) s = execHotReset e s := by intros; rfl
@[simp] theorem exec_flr (s : State) : ∀ e, exec (.flr e) s = execFlr e s := by intros; rfl
@[simp] theorem exec_endpointStart (s : State) : ∀ e, exec (.endpointStart e) s = execEndpointStart e s := by intros; rfl
@[simp] theorem exec_endpointUncorrectable (s : State) : ∀ e, exec (.endpointUncorrectable e) s = execEndpointUncorrectable e s := by intros; rfl
@[simp] theorem exec_ctxcreate (s : State) : ∀ b x, exec (.ctxcreate b x) s = execCtxcreate b x s := by intros; rfl
@[simp] theorem exec_ctxdestroy (s : State) : ∀ b x, exec (.ctxdestroy b x) s = execCtxdestroy b x s := by intros; rfl
@[simp] theorem exec_ctxabort (s : State) : ∀ b x, exec (.ctxabort b x) s = execCtxabort b x s := by intros; rfl
@[simp] theorem exec_ctxpreempt (s : State) : ∀ b x, exec (.ctxpreempt b x) s = execCtxpreempt b x s := by intros; rfl
@[simp] theorem exec_qenable (s : State) : ∀ b q, exec (.qenable b q) s = execQenable b q s := by intros; rfl
@[simp] theorem exec_qdisable (s : State) : ∀ b q, exec (.qdisable b q) s = execQdisable b q s := by intros; rfl
@[simp] theorem exec_qresume (s : State) : ∀ b q, exec (.qresume b q) s = execQresume b q s := by intros; rfl
@[simp] theorem exec_farm (s : State) : ∀ b f, exec (.farm b f) s = execFarm b f s := by intros; rfl
@[simp] theorem exec_fsignal (s : State) : ∀ b f, exec (.fsignal b f) s = execFsignal b f s := by intros; rfl
@[simp] theorem exec_fabandon (s : State) : ∀ b f, exec (.fabandon b f) s = execFabandon b f s := by intros; rfl
@[simp] theorem exec_fdisarm (s : State) : ∀ b f, exec (.fdisarm b f) s = execFdisarm b f s := by intros; rfl
@[simp] theorem exec_contextSlotWrite (s : State) : ∀ who x word v, exec (.contextSlotWrite who x word v) s = execContextSlotWrite who x word v s := by intros; rfl
@[simp] theorem exec_queueSlotWrite (s : State) : ∀ who q word v, exec (.queueSlotWrite who q word v) s = execQueueSlotWrite who q word v s := by intros; rfl
@[simp] theorem exec_fenceCfgWrite (s : State) : ∀ who f word v, exec (.fenceCfgWrite who f word v) s = execFenceCfgWrite who f word v s := by intros; rfl
@[simp] theorem exec_doorbell (s : State) : ∀ q tail, exec (.doorbell q tail) s = execDoorbell q tail s := by intros; rfl
@[simp] theorem exec_coreDoorbell (s : State) : ∀ who q v, exec (.coreDoorbell who q v) s = execCoreDoorbell who q v s := by intros; rfl
@[simp] theorem exec_ringEntryFetch (s : State) : ∀ q, exec (.ringEntryFetch q) s = execRingEntryFetch q s := by intros; rfl
@[simp] theorem exec_fenceSignal (s : State) : ∀ src f v, exec (.fenceSignal src f v) s = execFenceSignal src f v s := by intros; rfl
@[simp] theorem exec_abortStepsDone (s : State) : ∀ x, exec (.abortStepsDone x) s = execAbortStepsDone x s := by intros; rfl
@[simp] theorem exec_positionRelease (s : State) : ∀ c, exec (.positionRelease c) s = execPositionRelease c s := by intros; rfl
@[simp] theorem exec_walkStep (s : State) : ∀ id st poison entry, exec (.walkStep id st poison entry) s = execWalkStep id st poison entry s := by intros; rfl
@[simp] theorem exec_faultBatchClose (s : State) : ∀ si, exec (.faultBatchClose si) s = execFaultBatchClose si s := by intros; rfl
@[simp] theorem exec_faultQueueWrite (s : State) : ∀ who si word v, exec (.faultQueueWrite who si word v) s = execFaultQueueWrite who si word v s := by intros; rfl
@[simp] theorem exec_invctx (s : State) : ∀ b idx, exec (.invctx b idx) s = execInvctx b idx s := by intros; rfl
@[simp] theorem exec_invva (s : State) : ∀ b idx, exec (.invva b idx) s = execInvva b idx s := by intros; rfl
@[simp] theorem exec_invslice (s : State) : ∀ b idx, exec (.invslice b idx) s = execInvslice b idx s := by intros; rfl
@[simp] theorem exec_invipa (s : State) : ∀ b idx, exec (.invipa b idx) s = execInvipa b idx s := by intros; rfl
@[simp] theorem exec_invall (s : State) : ∀ b idx, exec (.invall b idx) s = execInvall b idx s := by intros; rfl
@[simp] theorem exec_xresume (s : State) : ∀ b idx, exec (.xresume b idx) s = execXresume b idx s := by intros; rfl
@[simp] theorem exec_invalidationComplete (s : State) : ∀ b, exec (.invalidationComplete b) s = execInvalidationComplete b s := by intros; rfl
@[simp] theorem exec_slcreate (s : State) : ∀ b si, exec (.slcreate b si) s = execSlcreate b si s := by intros; rfl
@[simp] theorem exec_slfreeze (s : State) : ∀ b si, exec (.slfreeze b si) s = execSlfreeze b si s := by intros; rfl
@[simp] theorem exec_slthaw (s : State) : ∀ b si, exec (.slthaw b si) s = execSlthaw b si s := by intros; rfl
@[simp] theorem exec_slbottle (s : State) : ∀ b si, exec (.slbottle b si) s = execSlbottle b si s := by intros; rfl
@[simp] theorem exec_sluncork (s : State) : ∀ b si, exec (.sluncork b si) s = execSluncork b si s := by intros; rfl
@[simp] theorem exec_slreset (s : State) : ∀ b si, exec (.slreset b si) s = execSlreset b si s := by intros; rfl
@[simp] theorem exec_slremove (s : State) : ∀ b si, exec (.slremove b si) s = execSlremove b si s := by intros; rfl
@[simp] theorem exec_sliceEntryWrite (s : State) : ∀ who si word v, exec (.sliceEntryWrite who si word v) s = execSliceEntryWrite who si word v s := by intros; rfl
@[simp] theorem exec_freezeTick (s : State) : ∀ si, exec (.freezeTick si) s = execFreezeTick si s := by intros; rfl
@[simp] theorem exec_freezeComplete (s : State) : ∀ si, exec (.freezeComplete si) s = execFreezeComplete si s := by intros; rfl
@[simp] theorem exec_securityVersionCommit (s : State) : ∀ v, exec (.securityVersionCommit v) s = execSecurityVersionCommit v s := by intros; rfl
@[simp] theorem exec_attestationRequest (s : State) : ∀ ch req, exec (.attestationRequest ch req) s = execAttestationRequest ch req s := by intros; rfl
@[simp] theorem exec_attestationSigned (s : State) : exec .attestationSigned s = execAttestationSigned s := rfl
@[simp] theorem exec_signBucketRefill (s : State) : exec .signBucketRefill s = execSignBucketRefill s := rfl
@[simp] theorem exec_signTreeBuilt (s : State) : exec .signTreeBuilt s = execSignTreeBuilt s := rfl
@[simp] theorem exec_keySlotWrite (s : State) : ∀ slot v, exec (.keySlotWrite slot v) s = execKeySlotWrite slot v s := by intros; rfl
@[simp] theorem exec_keySlotSweepSub (s : State) : ∀ slot v, exec (.keySlotSweepSub slot v) s = execKeySlotSweepSub slot v s := by intros; rfl
@[simp] theorem exec_keySlotRetireDrained (s : State) : ∀ slot, exec (.keySlotRetireDrained slot) s = execKeySlotRetireDrained slot s := by intros; rfl
@[simp] theorem exec_powerOnReset (s : State) : ∀ straps, exec (.powerOnReset straps) s = execPowerOnReset straps s := by intros; rfl
@[simp] theorem exec_cooperStageDone (s : State) : ∀ r, exec (.cooperStageDone r) s = execCooperStageDone r s := by intros; rfl
@[simp] theorem exec_cooperWatchdogExpire (s : State) : exec .cooperWatchdogExpire s = execCooperWatchdogExpire s := rfl
@[simp] theorem exec_recoveryEnter (s : State) : exec .recoveryEnter s = execRecoveryEnter s := rfl
@[simp] theorem exec_loaderImageDelivered (s : State) : ∀ img, exec (.loaderImageDelivered img) s = execLoaderImageDelivered img s := by intros; rfl
@[simp] theorem exec_imageWrite (s : State) : ∀ img, exec (.imageWrite img) s = execImageWrite img s := by intros; rfl
@[simp] theorem exec_imageProgramDone (s : State) : ∀ ok, exec (.imageProgramDone ok) s = execImageProgramDone ok s := by intros; rfl
@[simp] theorem exec_licenceWrite (s : State) : ∀ lic, exec (.licenceWrite lic) s = execLicenceWrite lic s := by intros; rfl
@[simp] theorem exec_warmReset (s : State) : exec .warmReset s = execWarmReset s := rfl
@[simp] theorem exec_firmwareBroadcast (s : State) : ∀ manifest got, exec (.firmwareBroadcast manifest got) s = execFirmwareBroadcast manifest got s := by intros; rfl
@[simp] theorem exec_firmwareResendRound (s : State) : ∀ got, exec (.firmwareResendRound got) s = execFirmwareResendRound got s := by intros; rfl
@[simp] theorem exec_read (s : State) : ∀ ch r, exec (.read ch r) s = execRead ch r s := by intros; rfl
@[simp] theorem exec_write (s : State) : ∀ ch r, exec (.write ch r) s = execWrite ch r s := by intros; rfl
@[simp] theorem exec_desc (s : State) : ∀ ch r, exec (.desc ch r) s = execDesc ch r s := by intros; rfl
@[simp] theorem exec_list (s : State) : ∀ ch r, exec (.list ch r) s = execList ch r s := by intros; rfl
@[simp] theorem exec_mailboxGo (s : State) : ∀ e, exec (.mailboxGo e) s = execMailboxGo e s := by intros; rfl
@[simp] theorem exec_transferExpire (s : State) : ∀ index sub, exec (.transferExpire index sub) s = execTransferExpire index sub s := by intros; rfl
@[simp] theorem exec_mgmtAddressApply (s : State) : exec .mgmtAddressApply s = execMgmtAddressApply s := rfl
@[simp] theorem exec_restoreDefaults (s : State) : ∀ v, exec (.restoreDefaults v) s = execRestoreDefaults v s := by intros; rfl
@[simp] theorem exec_railMeasureUpdate (s : State) : ∀ volts amps, exec (.railMeasureUpdate volts amps) s = execRailMeasureUpdate volts amps s := by intros; rfl
@[simp] theorem exec_substitutionRequest (s : State) : ∀ si v, exec (.substitutionRequest si v) s = execSubstitutionRequest si v s := by intros; rfl
@[simp] theorem exec_budgetPeriod (s : State) : ∀ m, exec (.budgetPeriod m) s = execBudgetPeriod m s := by intros; rfl
@[simp] theorem exec_budgetMissingFallback (s : State) : ∀ si, exec (.budgetMissingFallback si) s = execBudgetMissingFallback si s := by intros; rfl
@[simp] theorem exec_railSample (s : State) : ∀ r, exec (.railSample r) s = execRailSample r s := by intros; rfl
@[simp] theorem exec_timebaseStep (s : State) : ∀ who v, exec (.timebaseStep who v) s = execTimebaseStep who v s := by intros; rfl
@[simp] theorem exec_ptpOffsetMeasure (s : State) : ∀ m, exec (.ptpOffsetMeasure m) s = execPtpOffsetMeasure m s := by intros; rfl
@[simp] theorem exec_ptpHoldoverEnter (s : State) : ∀ meanRate, exec (.ptpHoldoverEnter meanRate) s = execPtpHoldoverEnter meanRate s := by intros; rfl
@[simp] theorem exec_ptpHoldoverLimit (s : State) : exec .ptpHoldoverLimit s = execPtpHoldoverLimit s := rfl
@[simp] theorem exec_ptpDomainWrite (s : State) : ∀ v, exec (.ptpDomainWrite v) s = execPtpDomainWrite v s := by intros; rfl
@[simp] theorem exec_obsEnableWrite (s : State) : ∀ v, exec (.obsEnableWrite v) s = execObsEnableWrite v s := by intros; rfl
@[simp] theorem exec_tasterCtlWrite (s : State) : ∀ n v, exec (.tasterCtlWrite n v) s = execTasterCtlWrite n v s := by intros; rfl
@[simp] theorem exec_sinkCfgWrite (s : State) : ∀ n base cfg, exec (.sinkCfgWrite n base cfg) s = execSinkCfgWrite n base cfg s := by intros; rfl
@[simp] theorem exec_counterCopy (s : State) : exec .counterCopy s = execCounterCopy s := rfl
@[simp] theorem exec_halt (s : State) : exec .halt s = execHalt s := rfl
@[simp] theorem exec_resume (s : State) : exec .resume s = execResume s := rfl
@[simp] theorem exec_jtagRegacc (s : State) : ∀ wr pa data, exec (.jtagRegacc wr pa data) s = execJtagRegacc wr pa data s := by intros; rfl
@[simp] theorem exec_jtagHalt (s : State) : ∀ v, exec (.jtagHalt v) s = execJtagHalt v s := by intros; rfl
@[simp] theorem exec_jtagLoaderWord (s : State) : ∀ idx data, exec (.jtagLoaderWord idx data) s = execJtagLoaderWord idx data s := by intros; rfl
@[simp] theorem exec_hubControllerWatchdog (s : State) : ∀ field n, exec (.hubControllerWatchdog field n) s = execHubControllerWatchdog field n s := by intros; rfl
@[simp] theorem exec_mgdWatchdog (s : State) : exec .mgdWatchdog s = execMgdWatchdog s := rfl
@[simp] theorem exec_classFFault (s : State) : ∀ code die, exec (.classFFault code die) s = execClassFFault code die s := by intros; rfl
@[simp] theorem exec_sysclkLoss (s : State) : exec .sysclkLoss s = execSysclkLoss s := rfl
@[simp] theorem exec_heartbeatRefresh (s : State) : exec .heartbeatRefresh s = execHeartbeatRefresh s := rfl
@[simp] theorem exec_heartbeatSend (s : State) : exec .heartbeatSend s = execHeartbeatSend s := rfl
@[simp] theorem exec_pair (s : State) : ∀ m, exec (.pair m) s = execPair m s := by intros; rfl
@[simp] theorem exec_confirm (s : State) : ∀ kit na nb tagOk seq, exec (.confirm kit na nb tagOk seq) s = execConfirm kit na nb tagOk seq s := by intros; rfl
@[simp] theorem exec_hb (s : State) : ∀ m tagOk seq, exec (.hb m tagOk seq) s = execHb m tagOk seq s := by intros; rfl
@[simp] theorem exec_twinData (s : State) : ∀ entry moff pois tag data gap, exec (.twinData entry moff pois tag data gap) s = execTwinData entry moff pois tag data gap s := by intros; rfl
@[simp] theorem exec_pushack (s : State) : ∀ tag st bytes tagOk seq, exec (.pushack tag st bytes tagOk seq) s = execPushack tag st bytes tagOk seq s := by intros; rfl
@[simp] theorem exec_journal (s : State) : ∀ rec tagOk seq, exec (.journal rec tagOk seq) s = execJournal rec tagOk seq s := by intros; rfl
@[simp] theorem exec_failover (s : State) : ∀ cause tagOk seq, exec (.failover cause tagOk seq) s = execFailover cause tagOk seq s := by intros; rfl
@[simp] theorem exec_roleack (s : State) : ∀ role tagOk seq, exec (.roleack role tagOk seq) s = execRoleack role tagOk seq s := by intros; rfl
@[simp] theorem exec_restreq (s : State) : ∀ entry off len tag tagOk seq, exec (.restreq entry off len tag tagOk seq) s = execRestreq entry off len tag tagOk seq s := by intros; rfl
@[simp] theorem exec_heartbeatCheck (s : State) : exec .heartbeatCheck s = execHeartbeatCheck s := rfl
@[simp] theorem exec_leaseExpire (s : State) : exec .leaseExpire s = execLeaseExpire s := rfl
@[simp] theorem exec_promotionTimeout (s : State) : exec .promotionTimeout s = execPromotionTimeout s := rfl
@[simp] theorem exec_mirrorEntryWrite (s : State) : ∀ n v, exec (.mirrorEntryWrite n v) s = execMirrorEntryWrite n v s := by intros; rfl
@[simp] theorem exec_push (s : State) : ∀ req, exec (.push req) s = execPush req s := by intros; rfl
@[simp] theorem exec_journalWrite (s : State) : ∀ rec, exec (.journalWrite rec) s = execJournalWrite rec s := by intros; rfl
@[simp] theorem exec_restore (s : State) : ∀ req, exec (.restore req) s = execRestore req s := by intros; rfl
@[simp] theorem exec_switchover (s : State) : ∀ v, exec (.switchover v) s = execSwitchover v s := by intros; rfl
@[simp] theorem exec_mirrorRepairUpgrade (s : State) : exec .mirrorRepairUpgrade s = execMirrorRepairUpgrade s := rfl
@[simp] theorem exec_registerWrite (s : State) : ∀ who r v, exec (.registerWrite who r v) s = execRegisterWrite who r v s := by intros; rfl
@[simp] theorem exec_porNAssert (s : State) : exec .porNAssert s = execPorNAssert s := rfl
@[simp] theorem exec_internalResetRelease (s : State) : exec .internalResetRelease s = execInternalResetRelease s := rfl
@[simp] theorem exec_hostConfigWrite (s : State) : ∀ e f v, exec (.hostConfigWrite e f v) s = execHostConfigWrite e f v s := by intros; rfl
@[simp] theorem exec_hostLinkUp (s : State) : ∀ e, exec (.hostLinkUp e) s = execHostLinkUp e s := by intros; rfl
@[simp] theorem exec_pcieLinkError (s : State) : ∀ e err, exec (.pcieLinkError e err) s = execPcieLinkError e err s := by intros; rfl
@[simp] theorem exec_twinLinkUp (s : State) : exec .twinLinkUp s = execTwinLinkUp s := rfl
@[simp] theorem exec_twinLinkDown (s : State) : exec .twinLinkDown s = execTwinLinkDown s := rfl
@[simp] theorem exec_managementLinkUp (s : State) : exec .managementLinkUp s = execManagementLinkUp s := rfl
@[simp] theorem exec_dieTemperatureSample (s : State) : ∀ die temp, exec (.dieTemperatureSample die temp) s = execDieTemperatureSample die temp s := by intros; rfl
@[simp] theorem exec_overtempHoldEnd (s : State) : exec .overtempHoldEnd s = execOvertempHoldEnd s := rfl
@[simp] theorem exec_mgdBufferScrub (s : State) : ∀ ch, exec (.mgdBufferScrub ch) s = execMgdBufferScrub ch s := by intros; rfl
@[simp] theorem exec_idlePatternCheck (s : State) : ∀ r p d ok, exec (.idlePatternCheck r p d ok) s = execIdlePatternCheck r p d ok s := by intros; rfl
@[simp] theorem exec_jtagIrUpdate (s : State) : ∀ ir, exec (.jtagIrUpdate ir) s = execJtagIrUpdate ir s := by intros; rfl
@[simp] theorem exec_unknownSidebandMessage (s : State) : ∀ a m toHub code, exec (.unknownSidebandMessage a m toHub code) s = execUnknownSidebandMessage a m toHub code s := by intros; rfl

end Sys2Proof.Machine
end

