-- ==== Sys2Proof/Laws/Tables.lean ====
section
/-! SUPPORT. What the sparse tables and memories do: a read after a write, and that every memory operation keeps the
canonical form. -/

namespace Sys2Proof.Machine

/-! ### Tables -/

@[simp] theorem tget_nil {α : Type} (d : α) (n : Nat) : tget d [] n = d := rfl

@[simp] theorem tget_tput_self {α : Type} (d : α) (t : Tab α) (n : Nat) (v : α) : tget d (tput t n v) n = v := by
  induction t with
  | nil => simp [tput, tget]
  | cons p t ih =>
    obtain ⟨k, w⟩ := p
    simp only [tput]
    split
    · simp [tget]
    · split
      · simp [tget]
      · have : k ≠ n := fun h => by omega
        simp [tget, this, ih]

theorem tget_tput_ne {α : Type} (d : α) (t : Tab α) {n m : Nat} (v : α) (h : m ≠ n) :
    tget d (tput t n v) m = tget d t m := by
  have h' : n ≠ m := fun e => h e.symm
  induction t with
  | nil => simp [tput, tget, h']
  | cons p t ih =>
    obtain ⟨k, w⟩ := p
    simp only [tput]
    split
    · simp [tget, h']
    · split
      · rename_i e; subst e; simp [tget, h']
      · simp only [tget, ih]

/-- An entry read after one is put. -/
theorem tget_tput {α : Type} (d : α) (t : Tab α) (n m : Nat) (v : α) :
    tget d (tput t n v) m = if m = n then v else tget d t m := by
  by_cases h : m = n
  · subst h; simp
  · simp [h, tget_tput_ne]

@[simp] theorem tfind_tput_self {α : Type} (t : Tab α) (n : Nat) (v : α) : tfind (tput t n v) n = some v := by
  induction t with
  | nil => simp [tput, tfind]
  | cons p t ih =>
    obtain ⟨k, w⟩ := p
    simp only [tput]
    split
    · simp [tfind]
    · split
      · simp [tfind]
      · have : k ≠ n := fun h => by omega
        simp [tfind, this, ih]

theorem tfind_tput_ne {α : Type} (t : Tab α) {n m : Nat} (v : α) (h : m ≠ n) : tfind (tput t n v) m = tfind t m := by
  have h' : n ≠ m := fun e => h e.symm
  induction t with
  | nil => simp [tput, tfind, h']
  | cons p t ih =>
    obtain ⟨k, w⟩ := p
    simp only [tput]
    split
    · simp [tfind, h']
    · split
      · rename_i e; subst e; simp [tfind, h']
      · simp only [tfind, ih]

theorem tget_tfind {α : Type} (d : α) (t : Tab α) (n : Nat) : tget d t n = (tfind t n).getD d := by
  induction t with
  | nil => rfl
  | cons p t ih => obtain ⟨k, w⟩ := p; by_cases h : k = n <;> simp [tget, tfind, h, ih]

@[simp] theorem tfind_tdel_self {α : Type} (t : Tab α) (n : Nat) : tfind (tdel t n) n = none := by
  induction t with
  | nil => rfl
  | cons p t ih =>
    obtain ⟨k, w⟩ := p
    by_cases h : k = n
    · subst h; simpa [tdel] using ih
    · simpa [tdel, h, tfind] using ih

theorem tfind_tdel_ne {α : Type} (t : Tab α) {n m : Nat} (h : m ≠ n) : tfind (tdel t n) m = tfind t m := by
  induction t with
  | nil => rfl
  | cons p t ih =>
    obtain ⟨k, w⟩ := p
    by_cases hk : k = n
    · subst hk
      have h' : k ≠ m := fun e => h e.symm
      simpa [tdel, tfind, h'] using ih
    · by_cases hm : k = m
      · subst hm; simp [tdel, tfind, h]
      · simpa [tdel, hk, tfind, hm] using ih

@[simp] theorem tget_tmod_self {α : Type} (d : α) (t : Tab α) (n : Nat) (f : α → α) :
    tget d (tmod d t n f) n = f (tget d t n) := by simp [tmod]

theorem tget_tmod_ne {α : Type} (d : α) (t : Tab α) {n m : Nat} (f : α → α) (h : m ≠ n) :
    tget d (tmod d t n f) m = tget d t m := by simp [tmod, tget_tput_ne _ _ _ h]

/-! ### Memory -/

/-- A byte written elsewhere leaves a byte alone. -/
theorem Memory.read_write_ne (m : Memory) {a b : Nat} (v : Byte) (h : b ≠ a) : (m.write a v).read b = m.read b := by
  have h' : a ≠ b := fun e => h e.symm
  induction m with
  | nil => simp only [Memory.write]; split <;> simp [Memory.read, h']
  | cons p m ih =>
    obtain ⟨k, w⟩ := p
    simp only [Memory.write]
    split
    · split <;> simp [Memory.read, h']
    · split
      · rename_i e; subst e; split <;> simp [Memory.read, h']
      · simp only [Memory.read, ih]

/-- An address below every listed one reads 0. -/
theorem Memory.read_below (m : Memory) (a : Nat) (h : ∀ p ∈ m, a < p.1) : m.read a = 0 := by
  induction m with
  | nil => rfl
  | cons p m ih =>
    obtain ⟨k, w⟩ := p
    have hk : k ≠ a := by have := h (k, w) (by simp); intro e; subst e; exact Nat.lt_irrefl _ this
    simp only [Memory.read, hk, if_false]
    exact ih (fun q hq => h q (by simp [hq]))

/-- A byte written reads back, in a canonical memory. -/
theorem Memory.read_write_self (m : Memory) (a : Nat) (v : Byte) (h : m.wf) : (m.write a v).read a = v := by
  obtain ⟨h1, h2⟩ := h
  induction m with
  | nil => simp only [Memory.write]; split <;> simp_all [Memory.read]
  | cons p m ih =>
    obtain ⟨k, w⟩ := p
    rw [List.pairwise_cons] at h1
    simp only [Memory.write]
    split
    · rename_i hlt
      split
      · rename_i hv
        subst hv
        apply Memory.read_below
        intro q hq
        rcases List.mem_cons.1 hq with rfl | hq
        · exact hlt
        · exact Nat.lt_trans hlt (h1.1 q hq)
      · simp [Memory.read]
    · split
      · rename_i e
        subst e
        split
        · rename_i hv; subst hv; exact Memory.read_below _ _ (fun q hq => h1.1 q hq)
        · simp [Memory.read]
      · rename_i hne
        have : k ≠ a := fun e => hne e.symm
        simp only [Memory.read, this, if_false]
        exact ih h1.2 (fun q hq => h2 q (by simp [hq]))

/-- An address a write adds is the one written. -/
theorem Memory.mem_write (m : Memory) (a : Nat) (v : Byte) (q : Host.Cell) (h : q ∈ m.write a v) :
    q ∈ m ∨ (q = (a, v) ∧ v ≠ 0) := by
  induction m with
  | nil =>
    simp only [Memory.write] at h
    split at h
    · simp at h
    · rename_i hv; exact Or.inr ⟨by simpa using h, hv⟩
  | cons p m ih =>
    obtain ⟨k, w⟩ := p
    simp only [Memory.write] at h
    split at h
    · split at h
      · exact Or.inl h
      · rename_i hv
        rcases List.mem_cons.1 h with h | h
        · exact Or.inr ⟨h, hv⟩
        · exact Or.inl h
    · split at h
      · split at h
        · exact Or.inl (by simp [h])
        · rename_i hv
          rcases List.mem_cons.1 h with h | h
          · exact Or.inr ⟨h, hv⟩
          · exact Or.inl (by simp [h])
      · rcases List.mem_cons.1 h with h | h
        · exact Or.inl (by simp [h])
        · rcases ih h with h | h
          · exact Or.inl (by simp [h])
          · exact Or.inr h

theorem Memory.wf_nil : Memory.wf [] := ⟨List.Pairwise.nil, by simp⟩

/-- A byte written keeps the canonical form. -/
theorem Memory.wf_write (m : Memory) (a : Nat) (v : Byte) (h : m.wf) : (m.write a v).wf := by
  refine ⟨?_, ?_⟩
  · obtain ⟨h1, h2⟩ := h
    induction m with
    | nil => simp only [Memory.write]; split <;> simp
    | cons p m ih =>
      obtain ⟨k, w⟩ := p
      have h1' := h1
      rw [List.pairwise_cons] at h1'
      simp only [Memory.write]
      split
      · rename_i hlt
        split
        · exact h1
        · rw [List.pairwise_cons]
          refine ⟨?_, h1⟩
          intro q hq
          rcases List.mem_cons.1 hq with rfl | hq
          · exact hlt
          · exact Nat.lt_trans hlt (h1'.1 q hq)
      · rename_i hge
        split
        · rename_i e
          subst e
          split
          · exact h1'.2
          · rw [List.pairwise_cons]; exact ⟨h1'.1, h1'.2⟩
        · rename_i hne
          rw [List.pairwise_cons]
          refine ⟨?_, ih h1'.2 (fun q hq => h2 q (by simp [hq]))⟩
          intro q hq
          rcases Memory.mem_write _ _ _ _ hq with hq | ⟨hq, _⟩
          · exact h1'.1 q hq
          · subst hq; show k < a; omega
  · intro q hq
    rcases Memory.mem_write _ _ _ _ hq with hq | ⟨hq, hv⟩
    · exact h.2 q hq
    · subst hq; exact hv

/-- Bytes written keep the canonical form. -/
theorem Memory.wf_writeBytes (m : Memory) (a : Nat) (bs : List Byte) (h : m.wf) : (m.writeBytes a bs).wf := by
  induction bs generalizing m a with
  | nil => exact h
  | cons b bs ih => exact ih _ _ (Memory.wf_write _ _ _ h)

theorem Memory.wf_writeNat (m : Memory) (a n v : Nat) (h : m.wf) : (m.writeNat a n v).wf := Memory.wf_writeBytes _ _ _ h

/-- A range cleared keeps the canonical form. -/
theorem Memory.wf_clear (m : Memory) (lo hi : Nat) (h : m.wf) : (m.clear lo hi).wf :=
  ⟨List.Pairwise.filter _ h.1, fun p hp => h.2 p (List.mem_filter.1 hp).1⟩

/-- Bytes written elsewhere leave a byte alone. -/
theorem Memory.read_writeBytes_ne (m : Memory) (a b : Nat) (bs : List Byte) (h : b < a ∨ a + bs.length ≤ b) :
    (m.writeBytes a bs).read b = m.read b := by
  induction bs generalizing m a with
  | nil => rfl
  | cons c bs ih =>
    simp only [Memory.writeBytes]
    rw [ih]
    · exact Memory.read_write_ne _ _ (by simp at h; omega)
    · simp at h; omega

/-- A cleared byte reads 0. -/
theorem Memory.read_clear (m : Memory) (lo hi a : Nat) :
    (m.clear lo hi).read a = if lo ≤ a ∧ a < hi then 0 else m.read a := by
  induction m with
  | nil => simp [Memory.clear, Memory.read]
  | cons p m ih =>
    obtain ⟨k, w⟩ := p
    simp only [Memory.clear] at ih ⊢
    by_cases hk : lo ≤ k ∧ k < hi
    · have : (!(decide (lo ≤ k) && decide (k < hi))) = false := by simp [hk]
      rw [List.filter_cons_of_neg (by simp [hk]), ih]
      by_cases e : k = a
      · subst e; simp [hk]
      · simp [Memory.read, e]
    · rw [List.filter_cons_of_pos (by simp only [Bool.not_eq_true', Bool.and_eq_false_iff, decide_eq_false_iff_not]; omega)]
      by_cases e : k = a
      · subst e; simp [Memory.read, hk]
      · simp only [Memory.read, e, if_false, ih]

end Sys2Proof.Machine
end

