-- ==== Sys2Proof/Laws/State.lean ====
section
/-! SUPPORT. What each update of the state leaves alone, field by field, and what it makes of the part it changes. -/

namespace Sys2Proof.Machine

/-! `State.emit` -/
@[simp] theorem State.emit_pending (s : State) (m : Msg) : (s.emit m).pending = s.pending := rfl
@[simp] theorem State.emit_freeCtr (s : State) (m : Msg) : (s.emit m).freeCtr = s.freeCtr := rfl
@[simp] theorem State.emit_fuses (s : State) (m : Msg) : (s.emit m).fuses = s.fuses := rfl
@[simp] theorem State.emit_die (s : State) (m : Msg) : (s.emit m).die = s.die := rfl
@[simp] theorem State.emit_inflight (s : State) (m : Msg) : (s.emit m).inflight = s.inflight := rfl
@[simp] theorem State.emit_cask (s : State) (m : Msg) : (s.emit m).cask = s.cask := rfl
@[simp] theorem State.emit_bar (s : State) (m : Msg) : (s.emit m).bar = s.bar := rfl
@[simp] theorem State.emit_reserve (s : State) (m : Msg) : (s.emit m).reserve = s.reserve := rfl
@[simp] theorem State.emit_trellis (s : State) (m : Msg) : (s.emit m).trellis = s.trellis := rfl
@[simp] theorem State.emit_hub (s : State) (m : Msg) : (s.emit m).hub = s.hub := rfl
@[simp] theorem State.emit_link (s : State) (m : Msg) : (s.emit m).link = s.link := rfl
@[simp] theorem State.emit_gate (s : State) (m : Msg) : (s.emit m).gate = s.gate := rfl
@[simp] theorem State.emit_ioa (s : State) (m : Msg) : (s.emit m).ioa = s.ioa := rfl
@[simp] theorem State.emit_iob (s : State) (m : Msg) : (s.emit m).iob = s.iob := rfl
@[simp] theorem State.emit_sec (s : State) (m : Msg) : (s.emit m).sec = s.sec := rfl
@[simp] theorem State.emit_boot (s : State) (m : Msg) : (s.emit m).boot = s.boot := rfl
@[simp] theorem State.emit_book (s : State) (m : Msg) : (s.emit m).book = s.book := rfl
@[simp] theorem State.emit_power (s : State) (m : Msg) : (s.emit m).power = s.power := rfl
@[simp] theorem State.emit_time (s : State) (m : Msg) : (s.emit m).time = s.time := rfl
@[simp] theorem State.emit_obs (s : State) (m : Msg) : (s.emit m).obs = s.obs := rfl
@[simp] theorem State.emit_twin (s : State) (m : Msg) : (s.emit m).twin = s.twin := rfl
@[simp] theorem State.emit_avail (s : State) (m : Msg) : (s.emit m).avail = s.avail := rfl

/-! `State.bump` -/
@[simp] theorem State.bump_pending (s : State) : (s.bump).pending = s.pending := rfl
@[simp] theorem State.bump_out (s : State) : (s.bump).out = s.out := rfl
@[simp] theorem State.bump_fuses (s : State) : (s.bump).fuses = s.fuses := rfl
@[simp] theorem State.bump_die (s : State) : (s.bump).die = s.die := rfl
@[simp] theorem State.bump_inflight (s : State) : (s.bump).inflight = s.inflight := rfl
@[simp] theorem State.bump_cask (s : State) : (s.bump).cask = s.cask := rfl
@[simp] theorem State.bump_bar (s : State) : (s.bump).bar = s.bar := rfl
@[simp] theorem State.bump_reserve (s : State) : (s.bump).reserve = s.reserve := rfl
@[simp] theorem State.bump_trellis (s : State) : (s.bump).trellis = s.trellis := rfl
@[simp] theorem State.bump_hub (s : State) : (s.bump).hub = s.hub := rfl
@[simp] theorem State.bump_link (s : State) : (s.bump).link = s.link := rfl
@[simp] theorem State.bump_gate (s : State) : (s.bump).gate = s.gate := rfl
@[simp] theorem State.bump_ioa (s : State) : (s.bump).ioa = s.ioa := rfl
@[simp] theorem State.bump_iob (s : State) : (s.bump).iob = s.iob := rfl
@[simp] theorem State.bump_sec (s : State) : (s.bump).sec = s.sec := rfl
@[simp] theorem State.bump_boot (s : State) : (s.bump).boot = s.boot := rfl
@[simp] theorem State.bump_book (s : State) : (s.bump).book = s.book := rfl
@[simp] theorem State.bump_power (s : State) : (s.bump).power = s.power := rfl
@[simp] theorem State.bump_time (s : State) : (s.bump).time = s.time := rfl
@[simp] theorem State.bump_obs (s : State) : (s.bump).obs = s.obs := rfl
@[simp] theorem State.bump_twin (s : State) : (s.bump).twin = s.twin := rfl
@[simp] theorem State.bump_avail (s : State) : (s.bump).avail = s.avail := rfl

/-! `State.modDie` -/
@[simp] theorem State.modDie_pending (s : State) (x : Nat) (f : Die → Die) : (s.modDie x f).pending = s.pending := rfl
@[simp] theorem State.modDie_out (s : State) (x : Nat) (f : Die → Die) : (s.modDie x f).out = s.out := rfl
@[simp] theorem State.modDie_freeCtr (s : State) (x : Nat) (f : Die → Die) : (s.modDie x f).freeCtr = s.freeCtr := rfl
@[simp] theorem State.modDie_fuses (s : State) (x : Nat) (f : Die → Die) : (s.modDie x f).fuses = s.fuses := rfl
@[simp] theorem State.modDie_inflight (s : State) (x : Nat) (f : Die → Die) : (s.modDie x f).inflight = s.inflight := rfl
@[simp] theorem State.modDie_cask (s : State) (x : Nat) (f : Die → Die) : (s.modDie x f).cask = s.cask := rfl
@[simp] theorem State.modDie_bar (s : State) (x : Nat) (f : Die → Die) : (s.modDie x f).bar = s.bar := rfl
@[simp] theorem State.modDie_reserve (s : State) (x : Nat) (f : Die → Die) : (s.modDie x f).reserve = s.reserve := rfl
@[simp] theorem State.modDie_trellis (s : State) (x : Nat) (f : Die → Die) : (s.modDie x f).trellis = s.trellis := rfl
@[simp] theorem State.modDie_hub (s : State) (x : Nat) (f : Die → Die) : (s.modDie x f).hub = s.hub := rfl
@[simp] theorem State.modDie_link (s : State) (x : Nat) (f : Die → Die) : (s.modDie x f).link = s.link := rfl
@[simp] theorem State.modDie_gate (s : State) (x : Nat) (f : Die → Die) : (s.modDie x f).gate = s.gate := rfl
@[simp] theorem State.modDie_ioa (s : State) (x : Nat) (f : Die → Die) : (s.modDie x f).ioa = s.ioa := rfl
@[simp] theorem State.modDie_iob (s : State) (x : Nat) (f : Die → Die) : (s.modDie x f).iob = s.iob := rfl
@[simp] theorem State.modDie_sec (s : State) (x : Nat) (f : Die → Die) : (s.modDie x f).sec = s.sec := rfl
@[simp] theorem State.modDie_boot (s : State) (x : Nat) (f : Die → Die) : (s.modDie x f).boot = s.boot := rfl
@[simp] theorem State.modDie_book (s : State) (x : Nat) (f : Die → Die) : (s.modDie x f).book = s.book := rfl
@[simp] theorem State.modDie_power (s : State) (x : Nat) (f : Die → Die) : (s.modDie x f).power = s.power := rfl
@[simp] theorem State.modDie_time (s : State) (x : Nat) (f : Die → Die) : (s.modDie x f).time = s.time := rfl
@[simp] theorem State.modDie_obs (s : State) (x : Nat) (f : Die → Die) : (s.modDie x f).obs = s.obs := rfl
@[simp] theorem State.modDie_twin (s : State) (x : Nat) (f : Die → Die) : (s.modDie x f).twin = s.twin := rfl
@[simp] theorem State.modDie_avail (s : State) (x : Nat) (f : Die → Die) : (s.modDie x f).avail = s.avail := rfl

/-! `State.modCore` -/
@[simp] theorem State.modCore_pending (s : State) (x : Nat) (f : Core → Core) : (s.modCore x f).pending = s.pending := rfl
@[simp] theorem State.modCore_out (s : State) (x : Nat) (f : Core → Core) : (s.modCore x f).out = s.out := rfl
@[simp] theorem State.modCore_freeCtr (s : State) (x : Nat) (f : Core → Core) : (s.modCore x f).freeCtr = s.freeCtr := rfl
@[simp] theorem State.modCore_fuses (s : State) (x : Nat) (f : Core → Core) : (s.modCore x f).fuses = s.fuses := rfl
@[simp] theorem State.modCore_inflight (s : State) (x : Nat) (f : Core → Core) : (s.modCore x f).inflight = s.inflight := rfl
@[simp] theorem State.modCore_cask (s : State) (x : Nat) (f : Core → Core) : (s.modCore x f).cask = s.cask := rfl
@[simp] theorem State.modCore_bar (s : State) (x : Nat) (f : Core → Core) : (s.modCore x f).bar = s.bar := rfl
@[simp] theorem State.modCore_reserve (s : State) (x : Nat) (f : Core → Core) : (s.modCore x f).reserve = s.reserve := rfl
@[simp] theorem State.modCore_trellis (s : State) (x : Nat) (f : Core → Core) : (s.modCore x f).trellis = s.trellis := rfl
@[simp] theorem State.modCore_hub (s : State) (x : Nat) (f : Core → Core) : (s.modCore x f).hub = s.hub := rfl
@[simp] theorem State.modCore_link (s : State) (x : Nat) (f : Core → Core) : (s.modCore x f).link = s.link := rfl
@[simp] theorem State.modCore_gate (s : State) (x : Nat) (f : Core → Core) : (s.modCore x f).gate = s.gate := rfl
@[simp] theorem State.modCore_ioa (s : State) (x : Nat) (f : Core → Core) : (s.modCore x f).ioa = s.ioa := rfl
@[simp] theorem State.modCore_iob (s : State) (x : Nat) (f : Core → Core) : (s.modCore x f).iob = s.iob := rfl
@[simp] theorem State.modCore_sec (s : State) (x : Nat) (f : Core → Core) : (s.modCore x f).sec = s.sec := rfl
@[simp] theorem State.modCore_boot (s : State) (x : Nat) (f : Core → Core) : (s.modCore x f).boot = s.boot := rfl
@[simp] theorem State.modCore_book (s : State) (x : Nat) (f : Core → Core) : (s.modCore x f).book = s.book := rfl
@[simp] theorem State.modCore_power (s : State) (x : Nat) (f : Core → Core) : (s.modCore x f).power = s.power := rfl
@[simp] theorem State.modCore_time (s : State) (x : Nat) (f : Core → Core) : (s.modCore x f).time = s.time := rfl
@[simp] theorem State.modCore_obs (s : State) (x : Nat) (f : Core → Core) : (s.modCore x f).obs = s.obs := rfl
@[simp] theorem State.modCore_twin (s : State) (x : Nat) (f : Core → Core) : (s.modCore x f).twin = s.twin := rfl
@[simp] theorem State.modCore_avail (s : State) (x : Nat) (f : Core → Core) : (s.modCore x f).avail = s.avail := rfl

/-! `State.modThr` -/
@[simp] theorem State.modThr_pending (s : State) (h : Hart) (f : Thread → Thread) : (s.modThr h f).pending = s.pending := rfl
@[simp] theorem State.modThr_out (s : State) (h : Hart) (f : Thread → Thread) : (s.modThr h f).out = s.out := rfl
@[simp] theorem State.modThr_freeCtr (s : State) (h : Hart) (f : Thread → Thread) : (s.modThr h f).freeCtr = s.freeCtr := rfl
@[simp] theorem State.modThr_fuses (s : State) (h : Hart) (f : Thread → Thread) : (s.modThr h f).fuses = s.fuses := rfl
@[simp] theorem State.modThr_inflight (s : State) (h : Hart) (f : Thread → Thread) : (s.modThr h f).inflight = s.inflight := rfl
@[simp] theorem State.modThr_cask (s : State) (h : Hart) (f : Thread → Thread) : (s.modThr h f).cask = s.cask := rfl
@[simp] theorem State.modThr_bar (s : State) (h : Hart) (f : Thread → Thread) : (s.modThr h f).bar = s.bar := rfl
@[simp] theorem State.modThr_reserve (s : State) (h : Hart) (f : Thread → Thread) : (s.modThr h f).reserve = s.reserve := rfl
@[simp] theorem State.modThr_trellis (s : State) (h : Hart) (f : Thread → Thread) : (s.modThr h f).trellis = s.trellis := rfl
@[simp] theorem State.modThr_hub (s : State) (h : Hart) (f : Thread → Thread) : (s.modThr h f).hub = s.hub := rfl
@[simp] theorem State.modThr_link (s : State) (h : Hart) (f : Thread → Thread) : (s.modThr h f).link = s.link := rfl
@[simp] theorem State.modThr_gate (s : State) (h : Hart) (f : Thread → Thread) : (s.modThr h f).gate = s.gate := rfl
@[simp] theorem State.modThr_ioa (s : State) (h : Hart) (f : Thread → Thread) : (s.modThr h f).ioa = s.ioa := rfl
@[simp] theorem State.modThr_iob (s : State) (h : Hart) (f : Thread → Thread) : (s.modThr h f).iob = s.iob := rfl
@[simp] theorem State.modThr_sec (s : State) (h : Hart) (f : Thread → Thread) : (s.modThr h f).sec = s.sec := rfl
@[simp] theorem State.modThr_boot (s : State) (h : Hart) (f : Thread → Thread) : (s.modThr h f).boot = s.boot := rfl
@[simp] theorem State.modThr_book (s : State) (h : Hart) (f : Thread → Thread) : (s.modThr h f).book = s.book := rfl
@[simp] theorem State.modThr_power (s : State) (h : Hart) (f : Thread → Thread) : (s.modThr h f).power = s.power := rfl
@[simp] theorem State.modThr_time (s : State) (h : Hart) (f : Thread → Thread) : (s.modThr h f).time = s.time := rfl
@[simp] theorem State.modThr_obs (s : State) (h : Hart) (f : Thread → Thread) : (s.modThr h f).obs = s.obs := rfl
@[simp] theorem State.modThr_twin (s : State) (h : Hart) (f : Thread → Thread) : (s.modThr h f).twin = s.twin := rfl
@[simp] theorem State.modThr_avail (s : State) (h : Hart) (f : Thread → Thread) : (s.modThr h f).avail = s.avail := rfl

/-! `State.modCluster` -/
@[simp] theorem State.modCluster_pending (s : State) (x c : Nat) (f : Cluster → Cluster) : (s.modCluster x c f).pending = s.pending := rfl
@[simp] theorem State.modCluster_out (s : State) (x c : Nat) (f : Cluster → Cluster) : (s.modCluster x c f).out = s.out := rfl
@[simp] theorem State.modCluster_freeCtr (s : State) (x c : Nat) (f : Cluster → Cluster) : (s.modCluster x c f).freeCtr = s.freeCtr := rfl
@[simp] theorem State.modCluster_fuses (s : State) (x c : Nat) (f : Cluster → Cluster) : (s.modCluster x c f).fuses = s.fuses := rfl
@[simp] theorem State.modCluster_inflight (s : State) (x c : Nat) (f : Cluster → Cluster) : (s.modCluster x c f).inflight = s.inflight := rfl
@[simp] theorem State.modCluster_cask (s : State) (x c : Nat) (f : Cluster → Cluster) : (s.modCluster x c f).cask = s.cask := rfl
@[simp] theorem State.modCluster_bar (s : State) (x c : Nat) (f : Cluster → Cluster) : (s.modCluster x c f).bar = s.bar := rfl
@[simp] theorem State.modCluster_reserve (s : State) (x c : Nat) (f : Cluster → Cluster) : (s.modCluster x c f).reserve = s.reserve := rfl
@[simp] theorem State.modCluster_trellis (s : State) (x c : Nat) (f : Cluster → Cluster) : (s.modCluster x c f).trellis = s.trellis := rfl
@[simp] theorem State.modCluster_hub (s : State) (x c : Nat) (f : Cluster → Cluster) : (s.modCluster x c f).hub = s.hub := rfl
@[simp] theorem State.modCluster_link (s : State) (x c : Nat) (f : Cluster → Cluster) : (s.modCluster x c f).link = s.link := rfl
@[simp] theorem State.modCluster_gate (s : State) (x c : Nat) (f : Cluster → Cluster) : (s.modCluster x c f).gate = s.gate := rfl
@[simp] theorem State.modCluster_ioa (s : State) (x c : Nat) (f : Cluster → Cluster) : (s.modCluster x c f).ioa = s.ioa := rfl
@[simp] theorem State.modCluster_iob (s : State) (x c : Nat) (f : Cluster → Cluster) : (s.modCluster x c f).iob = s.iob := rfl
@[simp] theorem State.modCluster_sec (s : State) (x c : Nat) (f : Cluster → Cluster) : (s.modCluster x c f).sec = s.sec := rfl
@[simp] theorem State.modCluster_boot (s : State) (x c : Nat) (f : Cluster → Cluster) : (s.modCluster x c f).boot = s.boot := rfl
@[simp] theorem State.modCluster_book (s : State) (x c : Nat) (f : Cluster → Cluster) : (s.modCluster x c f).book = s.book := rfl
@[simp] theorem State.modCluster_power (s : State) (x c : Nat) (f : Cluster → Cluster) : (s.modCluster x c f).power = s.power := rfl
@[simp] theorem State.modCluster_time (s : State) (x c : Nat) (f : Cluster → Cluster) : (s.modCluster x c f).time = s.time := rfl
@[simp] theorem State.modCluster_obs (s : State) (x c : Nat) (f : Cluster → Cluster) : (s.modCluster x c f).obs = s.obs := rfl
@[simp] theorem State.modCluster_twin (s : State) (x c : Nat) (f : Cluster → Cluster) : (s.modCluster x c f).twin = s.twin := rfl
@[simp] theorem State.modCluster_avail (s : State) (x c : Nat) (f : Cluster → Cluster) : (s.modCluster x c f).avail = s.avail := rfl

/-! `State.modCask` -/
@[simp] theorem State.modCask_pending (s : State) (x : Nat) (f : Cask → Cask) : (s.modCask x f).pending = s.pending := rfl
@[simp] theorem State.modCask_out (s : State) (x : Nat) (f : Cask → Cask) : (s.modCask x f).out = s.out := rfl
@[simp] theorem State.modCask_freeCtr (s : State) (x : Nat) (f : Cask → Cask) : (s.modCask x f).freeCtr = s.freeCtr := rfl
@[simp] theorem State.modCask_fuses (s : State) (x : Nat) (f : Cask → Cask) : (s.modCask x f).fuses = s.fuses := rfl
@[simp] theorem State.modCask_die (s : State) (x : Nat) (f : Cask → Cask) : (s.modCask x f).die = s.die := rfl
@[simp] theorem State.modCask_inflight (s : State) (x : Nat) (f : Cask → Cask) : (s.modCask x f).inflight = s.inflight := rfl
@[simp] theorem State.modCask_bar (s : State) (x : Nat) (f : Cask → Cask) : (s.modCask x f).bar = s.bar := rfl
@[simp] theorem State.modCask_reserve (s : State) (x : Nat) (f : Cask → Cask) : (s.modCask x f).reserve = s.reserve := rfl
@[simp] theorem State.modCask_trellis (s : State) (x : Nat) (f : Cask → Cask) : (s.modCask x f).trellis = s.trellis := rfl
@[simp] theorem State.modCask_hub (s : State) (x : Nat) (f : Cask → Cask) : (s.modCask x f).hub = s.hub := rfl
@[simp] theorem State.modCask_link (s : State) (x : Nat) (f : Cask → Cask) : (s.modCask x f).link = s.link := rfl
@[simp] theorem State.modCask_gate (s : State) (x : Nat) (f : Cask → Cask) : (s.modCask x f).gate = s.gate := rfl
@[simp] theorem State.modCask_ioa (s : State) (x : Nat) (f : Cask → Cask) : (s.modCask x f).ioa = s.ioa := rfl
@[simp] theorem State.modCask_iob (s : State) (x : Nat) (f : Cask → Cask) : (s.modCask x f).iob = s.iob := rfl
@[simp] theorem State.modCask_sec (s : State) (x : Nat) (f : Cask → Cask) : (s.modCask x f).sec = s.sec := rfl
@[simp] theorem State.modCask_boot (s : State) (x : Nat) (f : Cask → Cask) : (s.modCask x f).boot = s.boot := rfl
@[simp] theorem State.modCask_book (s : State) (x : Nat) (f : Cask → Cask) : (s.modCask x f).book = s.book := rfl
@[simp] theorem State.modCask_power (s : State) (x : Nat) (f : Cask → Cask) : (s.modCask x f).power = s.power := rfl
@[simp] theorem State.modCask_time (s : State) (x : Nat) (f : Cask → Cask) : (s.modCask x f).time = s.time := rfl
@[simp] theorem State.modCask_obs (s : State) (x : Nat) (f : Cask → Cask) : (s.modCask x f).obs = s.obs := rfl
@[simp] theorem State.modCask_twin (s : State) (x : Nat) (f : Cask → Cask) : (s.modCask x f).twin = s.twin := rfl
@[simp] theorem State.modCask_avail (s : State) (x : Nat) (f : Cask → Cask) : (s.modCask x f).avail = s.avail := rfl

/-! `State.modTrellis` -/
@[simp] theorem State.modTrellis_pending (s : State) (f : Trellis → Trellis) : (s.modTrellis f).pending = s.pending := rfl
@[simp] theorem State.modTrellis_out (s : State) (f : Trellis → Trellis) : (s.modTrellis f).out = s.out := rfl
@[simp] theorem State.modTrellis_freeCtr (s : State) (f : Trellis → Trellis) : (s.modTrellis f).freeCtr = s.freeCtr := rfl
@[simp] theorem State.modTrellis_fuses (s : State) (f : Trellis → Trellis) : (s.modTrellis f).fuses = s.fuses := rfl
@[simp] theorem State.modTrellis_die (s : State) (f : Trellis → Trellis) : (s.modTrellis f).die = s.die := rfl
@[simp] theorem State.modTrellis_inflight (s : State) (f : Trellis → Trellis) : (s.modTrellis f).inflight = s.inflight := rfl
@[simp] theorem State.modTrellis_cask (s : State) (f : Trellis → Trellis) : (s.modTrellis f).cask = s.cask := rfl
@[simp] theorem State.modTrellis_bar (s : State) (f : Trellis → Trellis) : (s.modTrellis f).bar = s.bar := rfl
@[simp] theorem State.modTrellis_reserve (s : State) (f : Trellis → Trellis) : (s.modTrellis f).reserve = s.reserve := rfl
@[simp] theorem State.modTrellis_hub (s : State) (f : Trellis → Trellis) : (s.modTrellis f).hub = s.hub := rfl
@[simp] theorem State.modTrellis_link (s : State) (f : Trellis → Trellis) : (s.modTrellis f).link = s.link := rfl
@[simp] theorem State.modTrellis_gate (s : State) (f : Trellis → Trellis) : (s.modTrellis f).gate = s.gate := rfl
@[simp] theorem State.modTrellis_ioa (s : State) (f : Trellis → Trellis) : (s.modTrellis f).ioa = s.ioa := rfl
@[simp] theorem State.modTrellis_iob (s : State) (f : Trellis → Trellis) : (s.modTrellis f).iob = s.iob := rfl
@[simp] theorem State.modTrellis_sec (s : State) (f : Trellis → Trellis) : (s.modTrellis f).sec = s.sec := rfl
@[simp] theorem State.modTrellis_boot (s : State) (f : Trellis → Trellis) : (s.modTrellis f).boot = s.boot := rfl
@[simp] theorem State.modTrellis_book (s : State) (f : Trellis → Trellis) : (s.modTrellis f).book = s.book := rfl
@[simp] theorem State.modTrellis_power (s : State) (f : Trellis → Trellis) : (s.modTrellis f).power = s.power := rfl
@[simp] theorem State.modTrellis_time (s : State) (f : Trellis → Trellis) : (s.modTrellis f).time = s.time := rfl
@[simp] theorem State.modTrellis_obs (s : State) (f : Trellis → Trellis) : (s.modTrellis f).obs = s.obs := rfl
@[simp] theorem State.modTrellis_twin (s : State) (f : Trellis → Trellis) : (s.modTrellis f).twin = s.twin := rfl
@[simp] theorem State.modTrellis_avail (s : State) (f : Trellis → Trellis) : (s.modTrellis f).avail = s.avail := rfl

/-! `State.modNi` -/
@[simp] theorem State.modNi_pending (s : State) (n : Nat) (f : Ni → Ni) : (s.modNi n f).pending = s.pending := rfl
@[simp] theorem State.modNi_out (s : State) (n : Nat) (f : Ni → Ni) : (s.modNi n f).out = s.out := rfl
@[simp] theorem State.modNi_freeCtr (s : State) (n : Nat) (f : Ni → Ni) : (s.modNi n f).freeCtr = s.freeCtr := rfl
@[simp] theorem State.modNi_fuses (s : State) (n : Nat) (f : Ni → Ni) : (s.modNi n f).fuses = s.fuses := rfl
@[simp] theorem State.modNi_die (s : State) (n : Nat) (f : Ni → Ni) : (s.modNi n f).die = s.die := rfl
@[simp] theorem State.modNi_inflight (s : State) (n : Nat) (f : Ni → Ni) : (s.modNi n f).inflight = s.inflight := rfl
@[simp] theorem State.modNi_cask (s : State) (n : Nat) (f : Ni → Ni) : (s.modNi n f).cask = s.cask := rfl
@[simp] theorem State.modNi_bar (s : State) (n : Nat) (f : Ni → Ni) : (s.modNi n f).bar = s.bar := rfl
@[simp] theorem State.modNi_reserve (s : State) (n : Nat) (f : Ni → Ni) : (s.modNi n f).reserve = s.reserve := rfl
@[simp] theorem State.modNi_hub (s : State) (n : Nat) (f : Ni → Ni) : (s.modNi n f).hub = s.hub := rfl
@[simp] theorem State.modNi_link (s : State) (n : Nat) (f : Ni → Ni) : (s.modNi n f).link = s.link := rfl
@[simp] theorem State.modNi_gate (s : State) (n : Nat) (f : Ni → Ni) : (s.modNi n f).gate = s.gate := rfl
@[simp] theorem State.modNi_ioa (s : State) (n : Nat) (f : Ni → Ni) : (s.modNi n f).ioa = s.ioa := rfl
@[simp] theorem State.modNi_iob (s : State) (n : Nat) (f : Ni → Ni) : (s.modNi n f).iob = s.iob := rfl
@[simp] theorem State.modNi_sec (s : State) (n : Nat) (f : Ni → Ni) : (s.modNi n f).sec = s.sec := rfl
@[simp] theorem State.modNi_boot (s : State) (n : Nat) (f : Ni → Ni) : (s.modNi n f).boot = s.boot := rfl
@[simp] theorem State.modNi_book (s : State) (n : Nat) (f : Ni → Ni) : (s.modNi n f).book = s.book := rfl
@[simp] theorem State.modNi_power (s : State) (n : Nat) (f : Ni → Ni) : (s.modNi n f).power = s.power := rfl
@[simp] theorem State.modNi_time (s : State) (n : Nat) (f : Ni → Ni) : (s.modNi n f).time = s.time := rfl
@[simp] theorem State.modNi_obs (s : State) (n : Nat) (f : Ni → Ni) : (s.modNi n f).obs = s.obs := rfl
@[simp] theorem State.modNi_twin (s : State) (n : Nat) (f : Ni → Ni) : (s.modNi n f).twin = s.twin := rfl
@[simp] theorem State.modNi_avail (s : State) (n : Nat) (f : Ni → Ni) : (s.modNi n f).avail = s.avail := rfl

/-! `State.modHub` -/
@[simp] theorem State.modHub_pending (s : State) (f : Hubm → Hubm) : (s.modHub f).pending = s.pending := rfl
@[simp] theorem State.modHub_out (s : State) (f : Hubm → Hubm) : (s.modHub f).out = s.out := rfl
@[simp] theorem State.modHub_freeCtr (s : State) (f : Hubm → Hubm) : (s.modHub f).freeCtr = s.freeCtr := rfl
@[simp] theorem State.modHub_fuses (s : State) (f : Hubm → Hubm) : (s.modHub f).fuses = s.fuses := rfl
@[simp] theorem State.modHub_die (s : State) (f : Hubm → Hubm) : (s.modHub f).die = s.die := rfl
@[simp] theorem State.modHub_inflight (s : State) (f : Hubm → Hubm) : (s.modHub f).inflight = s.inflight := rfl
@[simp] theorem State.modHub_cask (s : State) (f : Hubm → Hubm) : (s.modHub f).cask = s.cask := rfl
@[simp] theorem State.modHub_bar (s : State) (f : Hubm → Hubm) : (s.modHub f).bar = s.bar := rfl
@[simp] theorem State.modHub_reserve (s : State) (f : Hubm → Hubm) : (s.modHub f).reserve = s.reserve := rfl
@[simp] theorem State.modHub_trellis (s : State) (f : Hubm → Hubm) : (s.modHub f).trellis = s.trellis := rfl
@[simp] theorem State.modHub_link (s : State) (f : Hubm → Hubm) : (s.modHub f).link = s.link := rfl
@[simp] theorem State.modHub_gate (s : State) (f : Hubm → Hubm) : (s.modHub f).gate = s.gate := rfl
@[simp] theorem State.modHub_ioa (s : State) (f : Hubm → Hubm) : (s.modHub f).ioa = s.ioa := rfl
@[simp] theorem State.modHub_iob (s : State) (f : Hubm → Hubm) : (s.modHub f).iob = s.iob := rfl
@[simp] theorem State.modHub_sec (s : State) (f : Hubm → Hubm) : (s.modHub f).sec = s.sec := rfl
@[simp] theorem State.modHub_boot (s : State) (f : Hubm → Hubm) : (s.modHub f).boot = s.boot := rfl
@[simp] theorem State.modHub_book (s : State) (f : Hubm → Hubm) : (s.modHub f).book = s.book := rfl
@[simp] theorem State.modHub_power (s : State) (f : Hubm → Hubm) : (s.modHub f).power = s.power := rfl
@[simp] theorem State.modHub_time (s : State) (f : Hubm → Hubm) : (s.modHub f).time = s.time := rfl
@[simp] theorem State.modHub_obs (s : State) (f : Hubm → Hubm) : (s.modHub f).obs = s.obs := rfl
@[simp] theorem State.modHub_twin (s : State) (f : Hubm → Hubm) : (s.modHub f).twin = s.twin := rfl
@[simp] theorem State.modHub_avail (s : State) (f : Hubm → Hubm) : (s.modHub f).avail = s.avail := rfl

/-! `State.modCtx` -/
@[simp] theorem State.modCtx_pending (s : State) (x : Nat) (f : Ctx → Ctx) : (s.modCtx x f).pending = s.pending := rfl
@[simp] theorem State.modCtx_out (s : State) (x : Nat) (f : Ctx → Ctx) : (s.modCtx x f).out = s.out := rfl
@[simp] theorem State.modCtx_freeCtr (s : State) (x : Nat) (f : Ctx → Ctx) : (s.modCtx x f).freeCtr = s.freeCtr := rfl
@[simp] theorem State.modCtx_fuses (s : State) (x : Nat) (f : Ctx → Ctx) : (s.modCtx x f).fuses = s.fuses := rfl
@[simp] theorem State.modCtx_die (s : State) (x : Nat) (f : Ctx → Ctx) : (s.modCtx x f).die = s.die := rfl
@[simp] theorem State.modCtx_inflight (s : State) (x : Nat) (f : Ctx → Ctx) : (s.modCtx x f).inflight = s.inflight := rfl
@[simp] theorem State.modCtx_cask (s : State) (x : Nat) (f : Ctx → Ctx) : (s.modCtx x f).cask = s.cask := rfl
@[simp] theorem State.modCtx_bar (s : State) (x : Nat) (f : Ctx → Ctx) : (s.modCtx x f).bar = s.bar := rfl
@[simp] theorem State.modCtx_reserve (s : State) (x : Nat) (f : Ctx → Ctx) : (s.modCtx x f).reserve = s.reserve := rfl
@[simp] theorem State.modCtx_trellis (s : State) (x : Nat) (f : Ctx → Ctx) : (s.modCtx x f).trellis = s.trellis := rfl
@[simp] theorem State.modCtx_link (s : State) (x : Nat) (f : Ctx → Ctx) : (s.modCtx x f).link = s.link := rfl
@[simp] theorem State.modCtx_gate (s : State) (x : Nat) (f : Ctx → Ctx) : (s.modCtx x f).gate = s.gate := rfl
@[simp] theorem State.modCtx_ioa (s : State) (x : Nat) (f : Ctx → Ctx) : (s.modCtx x f).ioa = s.ioa := rfl
@[simp] theorem State.modCtx_iob (s : State) (x : Nat) (f : Ctx → Ctx) : (s.modCtx x f).iob = s.iob := rfl
@[simp] theorem State.modCtx_sec (s : State) (x : Nat) (f : Ctx → Ctx) : (s.modCtx x f).sec = s.sec := rfl
@[simp] theorem State.modCtx_boot (s : State) (x : Nat) (f : Ctx → Ctx) : (s.modCtx x f).boot = s.boot := rfl
@[simp] theorem State.modCtx_book (s : State) (x : Nat) (f : Ctx → Ctx) : (s.modCtx x f).book = s.book := rfl
@[simp] theorem State.modCtx_power (s : State) (x : Nat) (f : Ctx → Ctx) : (s.modCtx x f).power = s.power := rfl
@[simp] theorem State.modCtx_time (s : State) (x : Nat) (f : Ctx → Ctx) : (s.modCtx x f).time = s.time := rfl
@[simp] theorem State.modCtx_obs (s : State) (x : Nat) (f : Ctx → Ctx) : (s.modCtx x f).obs = s.obs := rfl
@[simp] theorem State.modCtx_twin (s : State) (x : Nat) (f : Ctx → Ctx) : (s.modCtx x f).twin = s.twin := rfl
@[simp] theorem State.modCtx_avail (s : State) (x : Nat) (f : Ctx → Ctx) : (s.modCtx x f).avail = s.avail := rfl

/-! `State.modQueue` -/
@[simp] theorem State.modQueue_pending (s : State) (x : Nat) (f : Queue → Queue) : (s.modQueue x f).pending = s.pending := rfl
@[simp] theorem State.modQueue_out (s : State) (x : Nat) (f : Queue → Queue) : (s.modQueue x f).out = s.out := rfl
@[simp] theorem State.modQueue_freeCtr (s : State) (x : Nat) (f : Queue → Queue) : (s.modQueue x f).freeCtr = s.freeCtr := rfl
@[simp] theorem State.modQueue_fuses (s : State) (x : Nat) (f : Queue → Queue) : (s.modQueue x f).fuses = s.fuses := rfl
@[simp] theorem State.modQueue_die (s : State) (x : Nat) (f : Queue → Queue) : (s.modQueue x f).die = s.die := rfl
@[simp] theorem State.modQueue_inflight (s : State) (x : Nat) (f : Queue → Queue) : (s.modQueue x f).inflight = s.inflight := rfl
@[simp] theorem State.modQueue_cask (s : State) (x : Nat) (f : Queue → Queue) : (s.modQueue x f).cask = s.cask := rfl
@[simp] theorem State.modQueue_bar (s : State) (x : Nat) (f : Queue → Queue) : (s.modQueue x f).bar = s.bar := rfl
@[simp] theorem State.modQueue_reserve (s : State) (x : Nat) (f : Queue → Queue) : (s.modQueue x f).reserve = s.reserve := rfl
@[simp] theorem State.modQueue_trellis (s : State) (x : Nat) (f : Queue → Queue) : (s.modQueue x f).trellis = s.trellis := rfl
@[simp] theorem State.modQueue_link (s : State) (x : Nat) (f : Queue → Queue) : (s.modQueue x f).link = s.link := rfl
@[simp] theorem State.modQueue_gate (s : State) (x : Nat) (f : Queue → Queue) : (s.modQueue x f).gate = s.gate := rfl
@[simp] theorem State.modQueue_ioa (s : State) (x : Nat) (f : Queue → Queue) : (s.modQueue x f).ioa = s.ioa := rfl
@[simp] theorem State.modQueue_iob (s : State) (x : Nat) (f : Queue → Queue) : (s.modQueue x f).iob = s.iob := rfl
@[simp] theorem State.modQueue_sec (s : State) (x : Nat) (f : Queue → Queue) : (s.modQueue x f).sec = s.sec := rfl
@[simp] theorem State.modQueue_boot (s : State) (x : Nat) (f : Queue → Queue) : (s.modQueue x f).boot = s.boot := rfl
@[simp] theorem State.modQueue_book (s : State) (x : Nat) (f : Queue → Queue) : (s.modQueue x f).book = s.book := rfl
@[simp] theorem State.modQueue_power (s : State) (x : Nat) (f : Queue → Queue) : (s.modQueue x f).power = s.power := rfl
@[simp] theorem State.modQueue_time (s : State) (x : Nat) (f : Queue → Queue) : (s.modQueue x f).time = s.time := rfl
@[simp] theorem State.modQueue_obs (s : State) (x : Nat) (f : Queue → Queue) : (s.modQueue x f).obs = s.obs := rfl
@[simp] theorem State.modQueue_twin (s : State) (x : Nat) (f : Queue → Queue) : (s.modQueue x f).twin = s.twin := rfl
@[simp] theorem State.modQueue_avail (s : State) (x : Nat) (f : Queue → Queue) : (s.modQueue x f).avail = s.avail := rfl

/-! `State.modFence` -/
@[simp] theorem State.modFence_pending (s : State) (x : Nat) (f : Fence → Fence) : (s.modFence x f).pending = s.pending := rfl
@[simp] theorem State.modFence_out (s : State) (x : Nat) (f : Fence → Fence) : (s.modFence x f).out = s.out := rfl
@[simp] theorem State.modFence_freeCtr (s : State) (x : Nat) (f : Fence → Fence) : (s.modFence x f).freeCtr = s.freeCtr := rfl
@[simp] theorem State.modFence_fuses (s : State) (x : Nat) (f : Fence → Fence) : (s.modFence x f).fuses = s.fuses := rfl
@[simp] theorem State.modFence_die (s : State) (x : Nat) (f : Fence → Fence) : (s.modFence x f).die = s.die := rfl
@[simp] theorem State.modFence_inflight (s : State) (x : Nat) (f : Fence → Fence) : (s.modFence x f).inflight = s.inflight := rfl
@[simp] theorem State.modFence_cask (s : State) (x : Nat) (f : Fence → Fence) : (s.modFence x f).cask = s.cask := rfl
@[simp] theorem State.modFence_bar (s : State) (x : Nat) (f : Fence → Fence) : (s.modFence x f).bar = s.bar := rfl
@[simp] theorem State.modFence_reserve (s : State) (x : Nat) (f : Fence → Fence) : (s.modFence x f).reserve = s.reserve := rfl
@[simp] theorem State.modFence_trellis (s : State) (x : Nat) (f : Fence → Fence) : (s.modFence x f).trellis = s.trellis := rfl
@[simp] theorem State.modFence_link (s : State) (x : Nat) (f : Fence → Fence) : (s.modFence x f).link = s.link := rfl
@[simp] theorem State.modFence_gate (s : State) (x : Nat) (f : Fence → Fence) : (s.modFence x f).gate = s.gate := rfl
@[simp] theorem State.modFence_ioa (s : State) (x : Nat) (f : Fence → Fence) : (s.modFence x f).ioa = s.ioa := rfl
@[simp] theorem State.modFence_iob (s : State) (x : Nat) (f : Fence → Fence) : (s.modFence x f).iob = s.iob := rfl
@[simp] theorem State.modFence_sec (s : State) (x : Nat) (f : Fence → Fence) : (s.modFence x f).sec = s.sec := rfl
@[simp] theorem State.modFence_boot (s : State) (x : Nat) (f : Fence → Fence) : (s.modFence x f).boot = s.boot := rfl
@[simp] theorem State.modFence_book (s : State) (x : Nat) (f : Fence → Fence) : (s.modFence x f).book = s.book := rfl
@[simp] theorem State.modFence_power (s : State) (x : Nat) (f : Fence → Fence) : (s.modFence x f).power = s.power := rfl
@[simp] theorem State.modFence_time (s : State) (x : Nat) (f : Fence → Fence) : (s.modFence x f).time = s.time := rfl
@[simp] theorem State.modFence_obs (s : State) (x : Nat) (f : Fence → Fence) : (s.modFence x f).obs = s.obs := rfl
@[simp] theorem State.modFence_twin (s : State) (x : Nat) (f : Fence → Fence) : (s.modFence x f).twin = s.twin := rfl
@[simp] theorem State.modFence_avail (s : State) (x : Nat) (f : Fence → Fence) : (s.modFence x f).avail = s.avail := rfl

/-! `State.modSlice` -/
@[simp] theorem State.modSlice_pending (s : State) (x : Nat) (f : Slice → Slice) : (s.modSlice x f).pending = s.pending := rfl
@[simp] theorem State.modSlice_out (s : State) (x : Nat) (f : Slice → Slice) : (s.modSlice x f).out = s.out := rfl
@[simp] theorem State.modSlice_freeCtr (s : State) (x : Nat) (f : Slice → Slice) : (s.modSlice x f).freeCtr = s.freeCtr := rfl
@[simp] theorem State.modSlice_fuses (s : State) (x : Nat) (f : Slice → Slice) : (s.modSlice x f).fuses = s.fuses := rfl
@[simp] theorem State.modSlice_die (s : State) (x : Nat) (f : Slice → Slice) : (s.modSlice x f).die = s.die := rfl
@[simp] theorem State.modSlice_inflight (s : State) (x : Nat) (f : Slice → Slice) : (s.modSlice x f).inflight = s.inflight := rfl
@[simp] theorem State.modSlice_cask (s : State) (x : Nat) (f : Slice → Slice) : (s.modSlice x f).cask = s.cask := rfl
@[simp] theorem State.modSlice_bar (s : State) (x : Nat) (f : Slice → Slice) : (s.modSlice x f).bar = s.bar := rfl
@[simp] theorem State.modSlice_reserve (s : State) (x : Nat) (f : Slice → Slice) : (s.modSlice x f).reserve = s.reserve := rfl
@[simp] theorem State.modSlice_trellis (s : State) (x : Nat) (f : Slice → Slice) : (s.modSlice x f).trellis = s.trellis := rfl
@[simp] theorem State.modSlice_link (s : State) (x : Nat) (f : Slice → Slice) : (s.modSlice x f).link = s.link := rfl
@[simp] theorem State.modSlice_gate (s : State) (x : Nat) (f : Slice → Slice) : (s.modSlice x f).gate = s.gate := rfl
@[simp] theorem State.modSlice_ioa (s : State) (x : Nat) (f : Slice → Slice) : (s.modSlice x f).ioa = s.ioa := rfl
@[simp] theorem State.modSlice_iob (s : State) (x : Nat) (f : Slice → Slice) : (s.modSlice x f).iob = s.iob := rfl
@[simp] theorem State.modSlice_sec (s : State) (x : Nat) (f : Slice → Slice) : (s.modSlice x f).sec = s.sec := rfl
@[simp] theorem State.modSlice_boot (s : State) (x : Nat) (f : Slice → Slice) : (s.modSlice x f).boot = s.boot := rfl
@[simp] theorem State.modSlice_book (s : State) (x : Nat) (f : Slice → Slice) : (s.modSlice x f).book = s.book := rfl
@[simp] theorem State.modSlice_power (s : State) (x : Nat) (f : Slice → Slice) : (s.modSlice x f).power = s.power := rfl
@[simp] theorem State.modSlice_time (s : State) (x : Nat) (f : Slice → Slice) : (s.modSlice x f).time = s.time := rfl
@[simp] theorem State.modSlice_obs (s : State) (x : Nat) (f : Slice → Slice) : (s.modSlice x f).obs = s.obs := rfl
@[simp] theorem State.modSlice_twin (s : State) (x : Nat) (f : Slice → Slice) : (s.modSlice x f).twin = s.twin := rfl
@[simp] theorem State.modSlice_avail (s : State) (x : Nat) (f : Slice → Slice) : (s.modSlice x f).avail = s.avail := rfl

/-! `State.modFq` -/
@[simp] theorem State.modFq_pending (s : State) (x : Nat) (f : FaultQ → FaultQ) : (s.modFq x f).pending = s.pending := rfl
@[simp] theorem State.modFq_out (s : State) (x : Nat) (f : FaultQ → FaultQ) : (s.modFq x f).out = s.out := rfl
@[simp] theorem State.modFq_freeCtr (s : State) (x : Nat) (f : FaultQ → FaultQ) : (s.modFq x f).freeCtr = s.freeCtr := rfl
@[simp] theorem State.modFq_fuses (s : State) (x : Nat) (f : FaultQ → FaultQ) : (s.modFq x f).fuses = s.fuses := rfl
@[simp] theorem State.modFq_die (s : State) (x : Nat) (f : FaultQ → FaultQ) : (s.modFq x f).die = s.die := rfl
@[simp] theorem State.modFq_inflight (s : State) (x : Nat) (f : FaultQ → FaultQ) : (s.modFq x f).inflight = s.inflight := rfl
@[simp] theorem State.modFq_cask (s : State) (x : Nat) (f : FaultQ → FaultQ) : (s.modFq x f).cask = s.cask := rfl
@[simp] theorem State.modFq_bar (s : State) (x : Nat) (f : FaultQ → FaultQ) : (s.modFq x f).bar = s.bar := rfl
@[simp] theorem State.modFq_reserve (s : State) (x : Nat) (f : FaultQ → FaultQ) : (s.modFq x f).reserve = s.reserve := rfl
@[simp] theorem State.modFq_trellis (s : State) (x : Nat) (f : FaultQ → FaultQ) : (s.modFq x f).trellis = s.trellis := rfl
@[simp] theorem State.modFq_link (s : State) (x : Nat) (f : FaultQ → FaultQ) : (s.modFq x f).link = s.link := rfl
@[simp] theorem State.modFq_gate (s : State) (x : Nat) (f : FaultQ → FaultQ) : (s.modFq x f).gate = s.gate := rfl
@[simp] theorem State.modFq_ioa (s : State) (x : Nat) (f : FaultQ → FaultQ) : (s.modFq x f).ioa = s.ioa := rfl
@[simp] theorem State.modFq_iob (s : State) (x : Nat) (f : FaultQ → FaultQ) : (s.modFq x f).iob = s.iob := rfl
@[simp] theorem State.modFq_sec (s : State) (x : Nat) (f : FaultQ → FaultQ) : (s.modFq x f).sec = s.sec := rfl
@[simp] theorem State.modFq_boot (s : State) (x : Nat) (f : FaultQ → FaultQ) : (s.modFq x f).boot = s.boot := rfl
@[simp] theorem State.modFq_book (s : State) (x : Nat) (f : FaultQ → FaultQ) : (s.modFq x f).book = s.book := rfl
@[simp] theorem State.modFq_power (s : State) (x : Nat) (f : FaultQ → FaultQ) : (s.modFq x f).power = s.power := rfl
@[simp] theorem State.modFq_time (s : State) (x : Nat) (f : FaultQ → FaultQ) : (s.modFq x f).time = s.time := rfl
@[simp] theorem State.modFq_obs (s : State) (x : Nat) (f : FaultQ → FaultQ) : (s.modFq x f).obs = s.obs := rfl
@[simp] theorem State.modFq_twin (s : State) (x : Nat) (f : FaultQ → FaultQ) : (s.modFq x f).twin = s.twin := rfl
@[simp] theorem State.modFq_avail (s : State) (x : Nat) (f : FaultQ → FaultQ) : (s.modFq x f).avail = s.avail := rfl

/-! `State.modLink` -/
@[simp] theorem State.modLink_pending (s : State) (a : Nat) (f : LinkDie → LinkDie) : (s.modLink a f).pending = s.pending := rfl
@[simp] theorem State.modLink_out (s : State) (a : Nat) (f : LinkDie → LinkDie) : (s.modLink a f).out = s.out := rfl
@[simp] theorem State.modLink_freeCtr (s : State) (a : Nat) (f : LinkDie → LinkDie) : (s.modLink a f).freeCtr = s.freeCtr := rfl
@[simp] theorem State.modLink_fuses (s : State) (a : Nat) (f : LinkDie → LinkDie) : (s.modLink a f).fuses = s.fuses := rfl
@[simp] theorem State.modLink_die (s : State) (a : Nat) (f : LinkDie → LinkDie) : (s.modLink a f).die = s.die := rfl
@[simp] theorem State.modLink_inflight (s : State) (a : Nat) (f : LinkDie → LinkDie) : (s.modLink a f).inflight = s.inflight := rfl
@[simp] theorem State.modLink_cask (s : State) (a : Nat) (f : LinkDie → LinkDie) : (s.modLink a f).cask = s.cask := rfl
@[simp] theorem State.modLink_bar (s : State) (a : Nat) (f : LinkDie → LinkDie) : (s.modLink a f).bar = s.bar := rfl
@[simp] theorem State.modLink_reserve (s : State) (a : Nat) (f : LinkDie → LinkDie) : (s.modLink a f).reserve = s.reserve := rfl
@[simp] theorem State.modLink_trellis (s : State) (a : Nat) (f : LinkDie → LinkDie) : (s.modLink a f).trellis = s.trellis := rfl
@[simp] theorem State.modLink_hub (s : State) (a : Nat) (f : LinkDie → LinkDie) : (s.modLink a f).hub = s.hub := rfl
@[simp] theorem State.modLink_gate (s : State) (a : Nat) (f : LinkDie → LinkDie) : (s.modLink a f).gate = s.gate := rfl
@[simp] theorem State.modLink_ioa (s : State) (a : Nat) (f : LinkDie → LinkDie) : (s.modLink a f).ioa = s.ioa := rfl
@[simp] theorem State.modLink_iob (s : State) (a : Nat) (f : LinkDie → LinkDie) : (s.modLink a f).iob = s.iob := rfl
@[simp] theorem State.modLink_sec (s : State) (a : Nat) (f : LinkDie → LinkDie) : (s.modLink a f).sec = s.sec := rfl
@[simp] theorem State.modLink_boot (s : State) (a : Nat) (f : LinkDie → LinkDie) : (s.modLink a f).boot = s.boot := rfl
@[simp] theorem State.modLink_book (s : State) (a : Nat) (f : LinkDie → LinkDie) : (s.modLink a f).book = s.book := rfl
@[simp] theorem State.modLink_power (s : State) (a : Nat) (f : LinkDie → LinkDie) : (s.modLink a f).power = s.power := rfl
@[simp] theorem State.modLink_time (s : State) (a : Nat) (f : LinkDie → LinkDie) : (s.modLink a f).time = s.time := rfl
@[simp] theorem State.modLink_obs (s : State) (a : Nat) (f : LinkDie → LinkDie) : (s.modLink a f).obs = s.obs := rfl
@[simp] theorem State.modLink_twin (s : State) (a : Nat) (f : LinkDie → LinkDie) : (s.modLink a f).twin = s.twin := rfl
@[simp] theorem State.modLink_avail (s : State) (a : Nat) (f : LinkDie → LinkDie) : (s.modLink a f).avail = s.avail := rfl

/-! `State.modMod` -/
@[simp] theorem State.modMod_pending (s : State) (a m : Nat) (f : Module → Module) : (s.modMod a m f).pending = s.pending := rfl
@[simp] theorem State.modMod_out (s : State) (a m : Nat) (f : Module → Module) : (s.modMod a m f).out = s.out := rfl
@[simp] theorem State.modMod_freeCtr (s : State) (a m : Nat) (f : Module → Module) : (s.modMod a m f).freeCtr = s.freeCtr := rfl
@[simp] theorem State.modMod_fuses (s : State) (a m : Nat) (f : Module → Module) : (s.modMod a m f).fuses = s.fuses := rfl
@[simp] theorem State.modMod_die (s : State) (a m : Nat) (f : Module → Module) : (s.modMod a m f).die = s.die := rfl
@[simp] theorem State.modMod_inflight (s : State) (a m : Nat) (f : Module → Module) : (s.modMod a m f).inflight = s.inflight := rfl
@[simp] theorem State.modMod_cask (s : State) (a m : Nat) (f : Module → Module) : (s.modMod a m f).cask = s.cask := rfl
@[simp] theorem State.modMod_bar (s : State) (a m : Nat) (f : Module → Module) : (s.modMod a m f).bar = s.bar := rfl
@[simp] theorem State.modMod_reserve (s : State) (a m : Nat) (f : Module → Module) : (s.modMod a m f).reserve = s.reserve := rfl
@[simp] theorem State.modMod_trellis (s : State) (a m : Nat) (f : Module → Module) : (s.modMod a m f).trellis = s.trellis := rfl
@[simp] theorem State.modMod_hub (s : State) (a m : Nat) (f : Module → Module) : (s.modMod a m f).hub = s.hub := rfl
@[simp] theorem State.modMod_gate (s : State) (a m : Nat) (f : Module → Module) : (s.modMod a m f).gate = s.gate := rfl
@[simp] theorem State.modMod_ioa (s : State) (a m : Nat) (f : Module → Module) : (s.modMod a m f).ioa = s.ioa := rfl
@[simp] theorem State.modMod_iob (s : State) (a m : Nat) (f : Module → Module) : (s.modMod a m f).iob = s.iob := rfl
@[simp] theorem State.modMod_sec (s : State) (a m : Nat) (f : Module → Module) : (s.modMod a m f).sec = s.sec := rfl
@[simp] theorem State.modMod_boot (s : State) (a m : Nat) (f : Module → Module) : (s.modMod a m f).boot = s.boot := rfl
@[simp] theorem State.modMod_book (s : State) (a m : Nat) (f : Module → Module) : (s.modMod a m f).book = s.book := rfl
@[simp] theorem State.modMod_power (s : State) (a m : Nat) (f : Module → Module) : (s.modMod a m f).power = s.power := rfl
@[simp] theorem State.modMod_time (s : State) (a m : Nat) (f : Module → Module) : (s.modMod a m f).time = s.time := rfl
@[simp] theorem State.modMod_obs (s : State) (a m : Nat) (f : Module → Module) : (s.modMod a m f).obs = s.obs := rfl
@[simp] theorem State.modMod_twin (s : State) (a m : Nat) (f : Module → Module) : (s.modMod a m f).twin = s.twin := rfl
@[simp] theorem State.modMod_avail (s : State) (a m : Nat) (f : Module → Module) : (s.modMod a m f).avail = s.avail := rfl

/-! `State.modGate` -/
@[simp] theorem State.modGate_pending (s : State) (x : Nat) (f : Gate → Gate) : (s.modGate x f).pending = s.pending := rfl
@[simp] theorem State.modGate_out (s : State) (x : Nat) (f : Gate → Gate) : (s.modGate x f).out = s.out := rfl
@[simp] theorem State.modGate_freeCtr (s : State) (x : Nat) (f : Gate → Gate) : (s.modGate x f).freeCtr = s.freeCtr := rfl
@[simp] theorem State.modGate_fuses (s : State) (x : Nat) (f : Gate → Gate) : (s.modGate x f).fuses = s.fuses := rfl
@[simp] theorem State.modGate_die (s : State) (x : Nat) (f : Gate → Gate) : (s.modGate x f).die = s.die := rfl
@[simp] theorem State.modGate_inflight (s : State) (x : Nat) (f : Gate → Gate) : (s.modGate x f).inflight = s.inflight := rfl
@[simp] theorem State.modGate_cask (s : State) (x : Nat) (f : Gate → Gate) : (s.modGate x f).cask = s.cask := rfl
@[simp] theorem State.modGate_bar (s : State) (x : Nat) (f : Gate → Gate) : (s.modGate x f).bar = s.bar := rfl
@[simp] theorem State.modGate_reserve (s : State) (x : Nat) (f : Gate → Gate) : (s.modGate x f).reserve = s.reserve := rfl
@[simp] theorem State.modGate_trellis (s : State) (x : Nat) (f : Gate → Gate) : (s.modGate x f).trellis = s.trellis := rfl
@[simp] theorem State.modGate_hub (s : State) (x : Nat) (f : Gate → Gate) : (s.modGate x f).hub = s.hub := rfl
@[simp] theorem State.modGate_link (s : State) (x : Nat) (f : Gate → Gate) : (s.modGate x f).link = s.link := rfl
@[simp] theorem State.modGate_ioa (s : State) (x : Nat) (f : Gate → Gate) : (s.modGate x f).ioa = s.ioa := rfl
@[simp] theorem State.modGate_iob (s : State) (x : Nat) (f : Gate → Gate) : (s.modGate x f).iob = s.iob := rfl
@[simp] theorem State.modGate_sec (s : State) (x : Nat) (f : Gate → Gate) : (s.modGate x f).sec = s.sec := rfl
@[simp] theorem State.modGate_boot (s : State) (x : Nat) (f : Gate → Gate) : (s.modGate x f).boot = s.boot := rfl
@[simp] theorem State.modGate_book (s : State) (x : Nat) (f : Gate → Gate) : (s.modGate x f).book = s.book := rfl
@[simp] theorem State.modGate_power (s : State) (x : Nat) (f : Gate → Gate) : (s.modGate x f).power = s.power := rfl
@[simp] theorem State.modGate_time (s : State) (x : Nat) (f : Gate → Gate) : (s.modGate x f).time = s.time := rfl
@[simp] theorem State.modGate_obs (s : State) (x : Nat) (f : Gate → Gate) : (s.modGate x f).obs = s.obs := rfl
@[simp] theorem State.modGate_twin (s : State) (x : Nat) (f : Gate → Gate) : (s.modGate x f).twin = s.twin := rfl
@[simp] theorem State.modGate_avail (s : State) (x : Nat) (f : Gate → Gate) : (s.modGate x f).avail = s.avail := rfl

/-! `State.modBar` -/
@[simp] theorem State.modBar_pending (s : State) (x : Nat) (f : BarChan → BarChan) : (s.modBar x f).pending = s.pending := rfl
@[simp] theorem State.modBar_out (s : State) (x : Nat) (f : BarChan → BarChan) : (s.modBar x f).out = s.out := rfl
@[simp] theorem State.modBar_freeCtr (s : State) (x : Nat) (f : BarChan → BarChan) : (s.modBar x f).freeCtr = s.freeCtr := rfl
@[simp] theorem State.modBar_fuses (s : State) (x : Nat) (f : BarChan → BarChan) : (s.modBar x f).fuses = s.fuses := rfl
@[simp] theorem State.modBar_die (s : State) (x : Nat) (f : BarChan → BarChan) : (s.modBar x f).die = s.die := rfl
@[simp] theorem State.modBar_inflight (s : State) (x : Nat) (f : BarChan → BarChan) : (s.modBar x f).inflight = s.inflight := rfl
@[simp] theorem State.modBar_cask (s : State) (x : Nat) (f : BarChan → BarChan) : (s.modBar x f).cask = s.cask := rfl
@[simp] theorem State.modBar_reserve (s : State) (x : Nat) (f : BarChan → BarChan) : (s.modBar x f).reserve = s.reserve := rfl
@[simp] theorem State.modBar_trellis (s : State) (x : Nat) (f : BarChan → BarChan) : (s.modBar x f).trellis = s.trellis := rfl
@[simp] theorem State.modBar_hub (s : State) (x : Nat) (f : BarChan → BarChan) : (s.modBar x f).hub = s.hub := rfl
@[simp] theorem State.modBar_link (s : State) (x : Nat) (f : BarChan → BarChan) : (s.modBar x f).link = s.link := rfl
@[simp] theorem State.modBar_gate (s : State) (x : Nat) (f : BarChan → BarChan) : (s.modBar x f).gate = s.gate := rfl
@[simp] theorem State.modBar_ioa (s : State) (x : Nat) (f : BarChan → BarChan) : (s.modBar x f).ioa = s.ioa := rfl
@[simp] theorem State.modBar_iob (s : State) (x : Nat) (f : BarChan → BarChan) : (s.modBar x f).iob = s.iob := rfl
@[simp] theorem State.modBar_sec (s : State) (x : Nat) (f : BarChan → BarChan) : (s.modBar x f).sec = s.sec := rfl
@[simp] theorem State.modBar_boot (s : State) (x : Nat) (f : BarChan → BarChan) : (s.modBar x f).boot = s.boot := rfl
@[simp] theorem State.modBar_book (s : State) (x : Nat) (f : BarChan → BarChan) : (s.modBar x f).book = s.book := rfl
@[simp] theorem State.modBar_power (s : State) (x : Nat) (f : BarChan → BarChan) : (s.modBar x f).power = s.power := rfl
@[simp] theorem State.modBar_time (s : State) (x : Nat) (f : BarChan → BarChan) : (s.modBar x f).time = s.time := rfl
@[simp] theorem State.modBar_obs (s : State) (x : Nat) (f : BarChan → BarChan) : (s.modBar x f).obs = s.obs := rfl
@[simp] theorem State.modBar_twin (s : State) (x : Nat) (f : BarChan → BarChan) : (s.modBar x f).twin = s.twin := rfl
@[simp] theorem State.modBar_avail (s : State) (x : Nat) (f : BarChan → BarChan) : (s.modBar x f).avail = s.avail := rfl

/-! `State.modPow` -/
@[simp] theorem State.modPow_pending (s : State) (x : Nat) (f : DiePow → DiePow) : (s.modPow x f).pending = s.pending := rfl
@[simp] theorem State.modPow_out (s : State) (x : Nat) (f : DiePow → DiePow) : (s.modPow x f).out = s.out := rfl
@[simp] theorem State.modPow_freeCtr (s : State) (x : Nat) (f : DiePow → DiePow) : (s.modPow x f).freeCtr = s.freeCtr := rfl
@[simp] theorem State.modPow_fuses (s : State) (x : Nat) (f : DiePow → DiePow) : (s.modPow x f).fuses = s.fuses := rfl
@[simp] theorem State.modPow_die (s : State) (x : Nat) (f : DiePow → DiePow) : (s.modPow x f).die = s.die := rfl
@[simp] theorem State.modPow_inflight (s : State) (x : Nat) (f : DiePow → DiePow) : (s.modPow x f).inflight = s.inflight := rfl
@[simp] theorem State.modPow_cask (s : State) (x : Nat) (f : DiePow → DiePow) : (s.modPow x f).cask = s.cask := rfl
@[simp] theorem State.modPow_bar (s : State) (x : Nat) (f : DiePow → DiePow) : (s.modPow x f).bar = s.bar := rfl
@[simp] theorem State.modPow_reserve (s : State) (x : Nat) (f : DiePow → DiePow) : (s.modPow x f).reserve = s.reserve := rfl
@[simp] theorem State.modPow_trellis (s : State) (x : Nat) (f : DiePow → DiePow) : (s.modPow x f).trellis = s.trellis := rfl
@[simp] theorem State.modPow_hub (s : State) (x : Nat) (f : DiePow → DiePow) : (s.modPow x f).hub = s.hub := rfl
@[simp] theorem State.modPow_link (s : State) (x : Nat) (f : DiePow → DiePow) : (s.modPow x f).link = s.link := rfl
@[simp] theorem State.modPow_gate (s : State) (x : Nat) (f : DiePow → DiePow) : (s.modPow x f).gate = s.gate := rfl
@[simp] theorem State.modPow_ioa (s : State) (x : Nat) (f : DiePow → DiePow) : (s.modPow x f).ioa = s.ioa := rfl
@[simp] theorem State.modPow_iob (s : State) (x : Nat) (f : DiePow → DiePow) : (s.modPow x f).iob = s.iob := rfl
@[simp] theorem State.modPow_sec (s : State) (x : Nat) (f : DiePow → DiePow) : (s.modPow x f).sec = s.sec := rfl
@[simp] theorem State.modPow_boot (s : State) (x : Nat) (f : DiePow → DiePow) : (s.modPow x f).boot = s.boot := rfl
@[simp] theorem State.modPow_book (s : State) (x : Nat) (f : DiePow → DiePow) : (s.modPow x f).book = s.book := rfl
@[simp] theorem State.modPow_time (s : State) (x : Nat) (f : DiePow → DiePow) : (s.modPow x f).time = s.time := rfl
@[simp] theorem State.modPow_obs (s : State) (x : Nat) (f : DiePow → DiePow) : (s.modPow x f).obs = s.obs := rfl
@[simp] theorem State.modPow_twin (s : State) (x : Nat) (f : DiePow → DiePow) : (s.modPow x f).twin = s.twin := rfl
@[simp] theorem State.modPow_avail (s : State) (x : Nat) (f : DiePow → DiePow) : (s.modPow x f).avail = s.avail := rfl

/-! `State.modSec` -/
@[simp] theorem State.modSec_pending (s : State) (f : Security → Security) : (s.modSec f).pending = s.pending := rfl
@[simp] theorem State.modSec_out (s : State) (f : Security → Security) : (s.modSec f).out = s.out := rfl
@[simp] theorem State.modSec_freeCtr (s : State) (f : Security → Security) : (s.modSec f).freeCtr = s.freeCtr := rfl
@[simp] theorem State.modSec_fuses (s : State) (f : Security → Security) : (s.modSec f).fuses = s.fuses := rfl
@[simp] theorem State.modSec_die (s : State) (f : Security → Security) : (s.modSec f).die = s.die := rfl
@[simp] theorem State.modSec_inflight (s : State) (f : Security → Security) : (s.modSec f).inflight = s.inflight := rfl
@[simp] theorem State.modSec_cask (s : State) (f : Security → Security) : (s.modSec f).cask = s.cask := rfl
@[simp] theorem State.modSec_bar (s : State) (f : Security → Security) : (s.modSec f).bar = s.bar := rfl
@[simp] theorem State.modSec_reserve (s : State) (f : Security → Security) : (s.modSec f).reserve = s.reserve := rfl
@[simp] theorem State.modSec_trellis (s : State) (f : Security → Security) : (s.modSec f).trellis = s.trellis := rfl
@[simp] theorem State.modSec_hub (s : State) (f : Security → Security) : (s.modSec f).hub = s.hub := rfl
@[simp] theorem State.modSec_link (s : State) (f : Security → Security) : (s.modSec f).link = s.link := rfl
@[simp] theorem State.modSec_gate (s : State) (f : Security → Security) : (s.modSec f).gate = s.gate := rfl
@[simp] theorem State.modSec_ioa (s : State) (f : Security → Security) : (s.modSec f).ioa = s.ioa := rfl
@[simp] theorem State.modSec_iob (s : State) (f : Security → Security) : (s.modSec f).iob = s.iob := rfl
@[simp] theorem State.modSec_boot (s : State) (f : Security → Security) : (s.modSec f).boot = s.boot := rfl
@[simp] theorem State.modSec_book (s : State) (f : Security → Security) : (s.modSec f).book = s.book := rfl
@[simp] theorem State.modSec_power (s : State) (f : Security → Security) : (s.modSec f).power = s.power := rfl
@[simp] theorem State.modSec_time (s : State) (f : Security → Security) : (s.modSec f).time = s.time := rfl
@[simp] theorem State.modSec_obs (s : State) (f : Security → Security) : (s.modSec f).obs = s.obs := rfl
@[simp] theorem State.modSec_twin (s : State) (f : Security → Security) : (s.modSec f).twin = s.twin := rfl
@[simp] theorem State.modSec_avail (s : State) (f : Security → Security) : (s.modSec f).avail = s.avail := rfl

/-! `State.modBoot` -/
@[simp] theorem State.modBoot_pending (s : State) (f : Bringup → Bringup) : (s.modBoot f).pending = s.pending := rfl
@[simp] theorem State.modBoot_out (s : State) (f : Bringup → Bringup) : (s.modBoot f).out = s.out := rfl
@[simp] theorem State.modBoot_freeCtr (s : State) (f : Bringup → Bringup) : (s.modBoot f).freeCtr = s.freeCtr := rfl
@[simp] theorem State.modBoot_fuses (s : State) (f : Bringup → Bringup) : (s.modBoot f).fuses = s.fuses := rfl
@[simp] theorem State.modBoot_die (s : State) (f : Bringup → Bringup) : (s.modBoot f).die = s.die := rfl
@[simp] theorem State.modBoot_inflight (s : State) (f : Bringup → Bringup) : (s.modBoot f).inflight = s.inflight := rfl
@[simp] theorem State.modBoot_cask (s : State) (f : Bringup → Bringup) : (s.modBoot f).cask = s.cask := rfl
@[simp] theorem State.modBoot_bar (s : State) (f : Bringup → Bringup) : (s.modBoot f).bar = s.bar := rfl
@[simp] theorem State.modBoot_reserve (s : State) (f : Bringup → Bringup) : (s.modBoot f).reserve = s.reserve := rfl
@[simp] theorem State.modBoot_trellis (s : State) (f : Bringup → Bringup) : (s.modBoot f).trellis = s.trellis := rfl
@[simp] theorem State.modBoot_hub (s : State) (f : Bringup → Bringup) : (s.modBoot f).hub = s.hub := rfl
@[simp] theorem State.modBoot_link (s : State) (f : Bringup → Bringup) : (s.modBoot f).link = s.link := rfl
@[simp] theorem State.modBoot_gate (s : State) (f : Bringup → Bringup) : (s.modBoot f).gate = s.gate := rfl
@[simp] theorem State.modBoot_ioa (s : State) (f : Bringup → Bringup) : (s.modBoot f).ioa = s.ioa := rfl
@[simp] theorem State.modBoot_iob (s : State) (f : Bringup → Bringup) : (s.modBoot f).iob = s.iob := rfl
@[simp] theorem State.modBoot_sec (s : State) (f : Bringup → Bringup) : (s.modBoot f).sec = s.sec := rfl
@[simp] theorem State.modBoot_book (s : State) (f : Bringup → Bringup) : (s.modBoot f).book = s.book := rfl
@[simp] theorem State.modBoot_power (s : State) (f : Bringup → Bringup) : (s.modBoot f).power = s.power := rfl
@[simp] theorem State.modBoot_time (s : State) (f : Bringup → Bringup) : (s.modBoot f).time = s.time := rfl
@[simp] theorem State.modBoot_obs (s : State) (f : Bringup → Bringup) : (s.modBoot f).obs = s.obs := rfl
@[simp] theorem State.modBoot_twin (s : State) (f : Bringup → Bringup) : (s.modBoot f).twin = s.twin := rfl
@[simp] theorem State.modBoot_avail (s : State) (f : Bringup → Bringup) : (s.modBoot f).avail = s.avail := rfl

/-! `State.modTime` -/
@[simp] theorem State.modTime_pending (s : State) (f : Time → Time) : (s.modTime f).pending = s.pending := rfl
@[simp] theorem State.modTime_out (s : State) (f : Time → Time) : (s.modTime f).out = s.out := rfl
@[simp] theorem State.modTime_freeCtr (s : State) (f : Time → Time) : (s.modTime f).freeCtr = s.freeCtr := rfl
@[simp] theorem State.modTime_fuses (s : State) (f : Time → Time) : (s.modTime f).fuses = s.fuses := rfl
@[simp] theorem State.modTime_die (s : State) (f : Time → Time) : (s.modTime f).die = s.die := rfl
@[simp] theorem State.modTime_inflight (s : State) (f : Time → Time) : (s.modTime f).inflight = s.inflight := rfl
@[simp] theorem State.modTime_cask (s : State) (f : Time → Time) : (s.modTime f).cask = s.cask := rfl
@[simp] theorem State.modTime_bar (s : State) (f : Time → Time) : (s.modTime f).bar = s.bar := rfl
@[simp] theorem State.modTime_reserve (s : State) (f : Time → Time) : (s.modTime f).reserve = s.reserve := rfl
@[simp] theorem State.modTime_trellis (s : State) (f : Time → Time) : (s.modTime f).trellis = s.trellis := rfl
@[simp] theorem State.modTime_hub (s : State) (f : Time → Time) : (s.modTime f).hub = s.hub := rfl
@[simp] theorem State.modTime_link (s : State) (f : Time → Time) : (s.modTime f).link = s.link := rfl
@[simp] theorem State.modTime_gate (s : State) (f : Time → Time) : (s.modTime f).gate = s.gate := rfl
@[simp] theorem State.modTime_ioa (s : State) (f : Time → Time) : (s.modTime f).ioa = s.ioa := rfl
@[simp] theorem State.modTime_iob (s : State) (f : Time → Time) : (s.modTime f).iob = s.iob := rfl
@[simp] theorem State.modTime_sec (s : State) (f : Time → Time) : (s.modTime f).sec = s.sec := rfl
@[simp] theorem State.modTime_boot (s : State) (f : Time → Time) : (s.modTime f).boot = s.boot := rfl
@[simp] theorem State.modTime_book (s : State) (f : Time → Time) : (s.modTime f).book = s.book := rfl
@[simp] theorem State.modTime_power (s : State) (f : Time → Time) : (s.modTime f).power = s.power := rfl
@[simp] theorem State.modTime_obs (s : State) (f : Time → Time) : (s.modTime f).obs = s.obs := rfl
@[simp] theorem State.modTime_twin (s : State) (f : Time → Time) : (s.modTime f).twin = s.twin := rfl
@[simp] theorem State.modTime_avail (s : State) (f : Time → Time) : (s.modTime f).avail = s.avail := rfl

/-! `State.modObs` -/
@[simp] theorem State.modObs_pending (s : State) (f : Observe → Observe) : (s.modObs f).pending = s.pending := rfl
@[simp] theorem State.modObs_out (s : State) (f : Observe → Observe) : (s.modObs f).out = s.out := rfl
@[simp] theorem State.modObs_freeCtr (s : State) (f : Observe → Observe) : (s.modObs f).freeCtr = s.freeCtr := rfl
@[simp] theorem State.modObs_fuses (s : State) (f : Observe → Observe) : (s.modObs f).fuses = s.fuses := rfl
@[simp] theorem State.modObs_die (s : State) (f : Observe → Observe) : (s.modObs f).die = s.die := rfl
@[simp] theorem State.modObs_inflight (s : State) (f : Observe → Observe) : (s.modObs f).inflight = s.inflight := rfl
@[simp] theorem State.modObs_cask (s : State) (f : Observe → Observe) : (s.modObs f).cask = s.cask := rfl
@[simp] theorem State.modObs_bar (s : State) (f : Observe → Observe) : (s.modObs f).bar = s.bar := rfl
@[simp] theorem State.modObs_reserve (s : State) (f : Observe → Observe) : (s.modObs f).reserve = s.reserve := rfl
@[simp] theorem State.modObs_trellis (s : State) (f : Observe → Observe) : (s.modObs f).trellis = s.trellis := rfl
@[simp] theorem State.modObs_hub (s : State) (f : Observe → Observe) : (s.modObs f).hub = s.hub := rfl
@[simp] theorem State.modObs_link (s : State) (f : Observe → Observe) : (s.modObs f).link = s.link := rfl
@[simp] theorem State.modObs_gate (s : State) (f : Observe → Observe) : (s.modObs f).gate = s.gate := rfl
@[simp] theorem State.modObs_ioa (s : State) (f : Observe → Observe) : (s.modObs f).ioa = s.ioa := rfl
@[simp] theorem State.modObs_iob (s : State) (f : Observe → Observe) : (s.modObs f).iob = s.iob := rfl
@[simp] theorem State.modObs_sec (s : State) (f : Observe → Observe) : (s.modObs f).sec = s.sec := rfl
@[simp] theorem State.modObs_boot (s : State) (f : Observe → Observe) : (s.modObs f).boot = s.boot := rfl
@[simp] theorem State.modObs_book (s : State) (f : Observe → Observe) : (s.modObs f).book = s.book := rfl
@[simp] theorem State.modObs_power (s : State) (f : Observe → Observe) : (s.modObs f).power = s.power := rfl
@[simp] theorem State.modObs_time (s : State) (f : Observe → Observe) : (s.modObs f).time = s.time := rfl
@[simp] theorem State.modObs_twin (s : State) (f : Observe → Observe) : (s.modObs f).twin = s.twin := rfl
@[simp] theorem State.modObs_avail (s : State) (f : Observe → Observe) : (s.modObs f).avail = s.avail := rfl

/-! `State.modTwin` -/
@[simp] theorem State.modTwin_pending (s : State) (f : Twin → Twin) : (s.modTwin f).pending = s.pending := rfl
@[simp] theorem State.modTwin_out (s : State) (f : Twin → Twin) : (s.modTwin f).out = s.out := rfl
@[simp] theorem State.modTwin_freeCtr (s : State) (f : Twin → Twin) : (s.modTwin f).freeCtr = s.freeCtr := rfl
@[simp] theorem State.modTwin_fuses (s : State) (f : Twin → Twin) : (s.modTwin f).fuses = s.fuses := rfl
@[simp] theorem State.modTwin_die (s : State) (f : Twin → Twin) : (s.modTwin f).die = s.die := rfl
@[simp] theorem State.modTwin_inflight (s : State) (f : Twin → Twin) : (s.modTwin f).inflight = s.inflight := rfl
@[simp] theorem State.modTwin_cask (s : State) (f : Twin → Twin) : (s.modTwin f).cask = s.cask := rfl
@[simp] theorem State.modTwin_bar (s : State) (f : Twin → Twin) : (s.modTwin f).bar = s.bar := rfl
@[simp] theorem State.modTwin_reserve (s : State) (f : Twin → Twin) : (s.modTwin f).reserve = s.reserve := rfl
@[simp] theorem State.modTwin_trellis (s : State) (f : Twin → Twin) : (s.modTwin f).trellis = s.trellis := rfl
@[simp] theorem State.modTwin_hub (s : State) (f : Twin → Twin) : (s.modTwin f).hub = s.hub := rfl
@[simp] theorem State.modTwin_link (s : State) (f : Twin → Twin) : (s.modTwin f).link = s.link := rfl
@[simp] theorem State.modTwin_gate (s : State) (f : Twin → Twin) : (s.modTwin f).gate = s.gate := rfl
@[simp] theorem State.modTwin_ioa (s : State) (f : Twin → Twin) : (s.modTwin f).ioa = s.ioa := rfl
@[simp] theorem State.modTwin_iob (s : State) (f : Twin → Twin) : (s.modTwin f).iob = s.iob := rfl
@[simp] theorem State.modTwin_sec (s : State) (f : Twin → Twin) : (s.modTwin f).sec = s.sec := rfl
@[simp] theorem State.modTwin_boot (s : State) (f : Twin → Twin) : (s.modTwin f).boot = s.boot := rfl
@[simp] theorem State.modTwin_book (s : State) (f : Twin → Twin) : (s.modTwin f).book = s.book := rfl
@[simp] theorem State.modTwin_power (s : State) (f : Twin → Twin) : (s.modTwin f).power = s.power := rfl
@[simp] theorem State.modTwin_time (s : State) (f : Twin → Twin) : (s.modTwin f).time = s.time := rfl
@[simp] theorem State.modTwin_obs (s : State) (f : Twin → Twin) : (s.modTwin f).obs = s.obs := rfl
@[simp] theorem State.modTwin_avail (s : State) (f : Twin → Twin) : (s.modTwin f).avail = s.avail := rfl

/-! `State.faultOn` -/
@[simp] theorem State.faultOn_pending (s : State) : (s.faultOn).pending = s.pending := rfl
@[simp] theorem State.faultOn_out (s : State) : (s.faultOn).out = s.out := rfl
@[simp] theorem State.faultOn_freeCtr (s : State) : (s.faultOn).freeCtr = s.freeCtr := rfl
@[simp] theorem State.faultOn_fuses (s : State) : (s.faultOn).fuses = s.fuses := rfl
@[simp] theorem State.faultOn_die (s : State) : (s.faultOn).die = s.die := rfl
@[simp] theorem State.faultOn_inflight (s : State) : (s.faultOn).inflight = s.inflight := rfl
@[simp] theorem State.faultOn_cask (s : State) : (s.faultOn).cask = s.cask := rfl
@[simp] theorem State.faultOn_bar (s : State) : (s.faultOn).bar = s.bar := rfl
@[simp] theorem State.faultOn_reserve (s : State) : (s.faultOn).reserve = s.reserve := rfl
@[simp] theorem State.faultOn_trellis (s : State) : (s.faultOn).trellis = s.trellis := rfl
@[simp] theorem State.faultOn_hub (s : State) : (s.faultOn).hub = s.hub := rfl
@[simp] theorem State.faultOn_link (s : State) : (s.faultOn).link = s.link := rfl
@[simp] theorem State.faultOn_gate (s : State) : (s.faultOn).gate = s.gate := rfl
@[simp] theorem State.faultOn_ioa (s : State) : (s.faultOn).ioa = s.ioa := rfl
@[simp] theorem State.faultOn_iob (s : State) : (s.faultOn).iob = s.iob := rfl
@[simp] theorem State.faultOn_sec (s : State) : (s.faultOn).sec = s.sec := rfl
@[simp] theorem State.faultOn_boot (s : State) : (s.faultOn).boot = s.boot := rfl
@[simp] theorem State.faultOn_book (s : State) : (s.faultOn).book = s.book := rfl
@[simp] theorem State.faultOn_time (s : State) : (s.faultOn).time = s.time := rfl
@[simp] theorem State.faultOn_obs (s : State) : (s.faultOn).obs = s.obs := rfl
@[simp] theorem State.faultOn_twin (s : State) : (s.faultOn).twin = s.twin := rfl
@[simp] theorem State.faultOn_avail (s : State) : (s.faultOn).avail = s.avail := rfl

/-! `State.wear` -/
@[simp] theorem State.wear_pending (s : State) (x n : Nat) : (s.wear x n).pending = s.pending := rfl
@[simp] theorem State.wear_out (s : State) (x n : Nat) : (s.wear x n).out = s.out := rfl
@[simp] theorem State.wear_freeCtr (s : State) (x n : Nat) : (s.wear x n).freeCtr = s.freeCtr := rfl
@[simp] theorem State.wear_fuses (s : State) (x n : Nat) : (s.wear x n).fuses = s.fuses := rfl
@[simp] theorem State.wear_die (s : State) (x n : Nat) : (s.wear x n).die = s.die := rfl
@[simp] theorem State.wear_inflight (s : State) (x n : Nat) : (s.wear x n).inflight = s.inflight := rfl
@[simp] theorem State.wear_cask (s : State) (x n : Nat) : (s.wear x n).cask = s.cask := rfl
@[simp] theorem State.wear_bar (s : State) (x n : Nat) : (s.wear x n).bar = s.bar := rfl
@[simp] theorem State.wear_reserve (s : State) (x n : Nat) : (s.wear x n).reserve = s.reserve := rfl
@[simp] theorem State.wear_trellis (s : State) (x n : Nat) : (s.wear x n).trellis = s.trellis := rfl
@[simp] theorem State.wear_hub (s : State) (x n : Nat) : (s.wear x n).hub = s.hub := rfl
@[simp] theorem State.wear_link (s : State) (x n : Nat) : (s.wear x n).link = s.link := rfl
@[simp] theorem State.wear_gate (s : State) (x n : Nat) : (s.wear x n).gate = s.gate := rfl
@[simp] theorem State.wear_ioa (s : State) (x n : Nat) : (s.wear x n).ioa = s.ioa := rfl
@[simp] theorem State.wear_iob (s : State) (x n : Nat) : (s.wear x n).iob = s.iob := rfl
@[simp] theorem State.wear_sec (s : State) (x n : Nat) : (s.wear x n).sec = s.sec := rfl
@[simp] theorem State.wear_boot (s : State) (x n : Nat) : (s.wear x n).boot = s.boot := rfl
@[simp] theorem State.wear_book (s : State) (x n : Nat) : (s.wear x n).book = s.book := rfl
@[simp] theorem State.wear_power (s : State) (x n : Nat) : (s.wear x n).power = s.power := rfl
@[simp] theorem State.wear_time (s : State) (x n : Nat) : (s.wear x n).time = s.time := rfl
@[simp] theorem State.wear_obs (s : State) (x n : Nat) : (s.wear x n).obs = s.obs := rfl
@[simp] theorem State.wear_twin (s : State) (x n : Nat) : (s.wear x n).twin = s.twin := rfl

/-! ### Parts read after an update -/

@[simp] theorem State.emit_out (s : State) (m : Msg) : (s.emit m).out = m :: s.out := rfl
@[simp] theorem State.bump_freeCtr (s : State) : s.bump.freeCtr = s.freeCtr + 1 := rfl
@[simp] theorem State.dieOf_modDie (s : State) (x : Nat) (f : Die → Die) : (s.modDie x f).dieOf x = f (s.dieOf x) := by
  simp [State.modDie, State.dieOf]
theorem State.dieOf_modDie_ne (s : State) {x y : Nat} (f : Die → Die) (h : y ≠ x) : (s.modDie x f).dieOf y = s.dieOf y := by
  simp [State.modDie, State.dieOf, tget_tmod_ne _ _ _ h]
@[simp] theorem State.caskOf_modCask (s : State) (x : Nat) (f : Cask → Cask) : (s.modCask x f).caskOf x = f (s.caskOf x) := by
  simp [State.modCask, State.caskOf]
theorem State.caskOf_modCask_ne (s : State) {x y : Nat} (f : Cask → Cask) (h : y ≠ x) : (s.modCask x f).caskOf y = s.caskOf y := by
  simp [State.modCask, State.caskOf, tget_tmod_ne _ _ _ h]
@[simp] theorem State.ctxOf_modCtx (s : State) (x : Nat) (f : Ctx → Ctx) : (s.modCtx x f).ctxOf x = f (s.ctxOf x) := by
  simp [State.modCtx, State.ctxOf, State.modHub]
theorem State.ctxOf_modCtx_ne (s : State) {x y : Nat} (f : Ctx → Ctx) (h : y ≠ x) : (s.modCtx x f).ctxOf y = s.ctxOf y := by
  simp [State.modCtx, State.ctxOf, State.modHub, tget_tmod_ne _ _ _ h]
@[simp] theorem State.queueOf_modQueue (s : State) (x : Nat) (f : Queue → Queue) : (s.modQueue x f).queueOf x = f (s.queueOf x) := by
  simp [State.modQueue, State.queueOf, State.modHub]
theorem State.queueOf_modQueue_ne (s : State) {x y : Nat} (f : Queue → Queue) (h : y ≠ x) : (s.modQueue x f).queueOf y = s.queueOf y := by
  simp [State.modQueue, State.queueOf, State.modHub, tget_tmod_ne _ _ _ h]
@[simp] theorem State.fenceOf_modFence (s : State) (x : Nat) (f : Fence → Fence) : (s.modFence x f).fenceOf x = f (s.fenceOf x) := by
  simp [State.modFence, State.fenceOf, State.modHub]
theorem State.fenceOf_modFence_ne (s : State) {x y : Nat} (f : Fence → Fence) (h : y ≠ x) : (s.modFence x f).fenceOf y = s.fenceOf y := by
  simp [State.modFence, State.fenceOf, State.modHub, tget_tmod_ne _ _ _ h]
@[simp] theorem State.sliceOf_modSlice (s : State) (x : Nat) (f : Slice → Slice) : (s.modSlice x f).sliceOf x = f (s.sliceOf x) := by
  simp [State.modSlice, State.sliceOf, State.modHub]
theorem State.sliceOf_modSlice_ne (s : State) {x y : Nat} (f : Slice → Slice) (h : y ≠ x) : (s.modSlice x f).sliceOf y = s.sliceOf y := by
  simp [State.modSlice, State.sliceOf, State.modHub, tget_tmod_ne _ _ _ h]
@[simp] theorem State.fqOf_modFq (s : State) (x : Nat) (f : FaultQ → FaultQ) : (s.modFq x f).fqOf x = f (s.fqOf x) := by
  simp [State.modFq, State.fqOf, State.modHub]
theorem State.fqOf_modFq_ne (s : State) {x y : Nat} (f : FaultQ → FaultQ) (h : y ≠ x) : (s.modFq x f).fqOf y = s.fqOf y := by
  simp [State.modFq, State.fqOf, State.modHub, tget_tmod_ne _ _ _ h]
@[simp] theorem State.niOf_modNi (s : State) (x : Nat) (f : Ni → Ni) : (s.modNi x f).niOf x = f (s.niOf x) := by
  simp [State.modNi, State.niOf, State.modTrellis]
theorem State.niOf_modNi_ne (s : State) {x y : Nat} (f : Ni → Ni) (h : y ≠ x) : (s.modNi x f).niOf y = s.niOf y := by
  simp [State.modNi, State.niOf, State.modTrellis, tget_tmod_ne _ _ _ h]
@[simp] theorem State.linkOf_modLink (s : State) (x : Nat) (f : LinkDie → LinkDie) : (s.modLink x f).linkOf x = f (s.linkOf x) := by
  simp [State.modLink, State.linkOf]
theorem State.linkOf_modLink_ne (s : State) {x y : Nat} (f : LinkDie → LinkDie) (h : y ≠ x) : (s.modLink x f).linkOf y = s.linkOf y := by
  simp [State.modLink, State.linkOf, tget_tmod_ne _ _ _ h]
@[simp] theorem State.gateOf_modGate (s : State) (x : Nat) (f : Gate → Gate) : (s.modGate x f).gateOf x = f (s.gateOf x) := by
  simp [State.modGate, State.gateOf]
theorem State.gateOf_modGate_ne (s : State) {x y : Nat} (f : Gate → Gate) (h : y ≠ x) : (s.modGate x f).gateOf y = s.gateOf y := by
  simp [State.modGate, State.gateOf, tget_tmod_ne _ _ _ h]
@[simp] theorem State.barOf_modBar (s : State) (x : Nat) (f : BarChan → BarChan) : (s.modBar x f).barOf x = f (s.barOf x) := by
  simp [State.modBar, State.barOf]
theorem State.barOf_modBar_ne (s : State) {x y : Nat} (f : BarChan → BarChan) (h : y ≠ x) : (s.modBar x f).barOf y = s.barOf y := by
  simp [State.modBar, State.barOf, tget_tmod_ne _ _ _ h]
@[simp] theorem State.powOf_modPow (s : State) (x : Nat) (f : DiePow → DiePow) : (s.modPow x f).powOf x = f (s.powOf x) := by
  simp [State.modPow, State.powOf]
theorem State.powOf_modPow_ne (s : State) {x y : Nat} (f : DiePow → DiePow) (h : y ≠ x) : (s.modPow x f).powOf y = s.powOf y := by
  simp [State.modPow, State.powOf, tget_tmod_ne _ _ _ h]

@[simp] theorem Die.coreOf_modCore (d : Die) (n : Nat) (f : Core → Core) : (d.modCore n f).coreOf n = f (d.coreOf n) := by
  simp [Die.modCore, Die.coreOf]
@[simp] theorem State.coreOf_modCore (s : State) (c : Nat) (f : Core → Core) : (s.modCore c f).coreOf c = f (s.coreOf c) := by
  simp [State.modCore, State.coreOf]
/-- Another core is left alone. -/
theorem State.coreOf_modCore_ne (s : State) {c e : Nat} (f : Core → Core) (h : e ≠ c) : (s.modCore c f).coreOf e = s.coreOf e := by
  unfold State.modCore State.coreOf
  by_cases hd : e / 256 = c / 256
  · have hm : e % 256 ≠ c % 256 := by omega
    rw [hd]
    simp [Die.modCore, Die.coreOf, tget_tmod_ne _ _ _ hm]
  · rw [State.dieOf_modDie_ne _ _ hd]
@[simp] theorem Core.thread_setThread (c : Core) (t : Fin 4) (v : Thread) : (c.setThread t v).thread t = v := by
  simp [Core.setThread, Core.thread]
@[simp] theorem State.thrOf_modThr (s : State) (h : Hart) (f : Thread → Thread) : (s.modThr h f).thrOf h = f (s.thrOf h) := by
  simp [State.modThr, State.thrOf]
@[simp] theorem State.epOf_modEp (s : State) (e : Ep) (f : HostEp → HostEp) : (s.modEp e f).epOf e = f (s.epOf e) := by
  cases e <;> rfl
@[simp] theorem State.modOf_modMod (s : State) (a m : Nat) (f : Module → Module) : (s.modMod a m f).modOf a m = f (s.modOf a m) := by
  simp [State.modMod, State.modOf, LinkDie.modOf]
@[simp] theorem State.clusterOf_modCluster (s : State) (x c : Nat) (f : Cluster → Cluster) :
    (s.modCluster x c f).clusterOf x c = f (s.clusterOf x c) := by
  simp [State.modCluster, State.clusterOf]

/-! ### An update depends only on what it makes of the part it reads -/

theorem tmod_congr {α : Type} (d : α) (t : Tab α) (n : Nat) {f g : α → α} (h : f (tget d t n) = g (tget d t n)) :
    tmod d t n f = tmod d t n g := by simp only [tmod, h]
theorem State.modDie_congr (s : State) (x : Nat) {f g : Die → Die} (h : f (s.dieOf x) = g (s.dieOf x)) :
    s.modDie x f = s.modDie x g := by unfold State.modDie; rw [tmod_congr _ _ _ h]
theorem Die.modCore_congr (d : Die) (n : Nat) {f g : Core → Core} (h : f (d.coreOf n) = g (d.coreOf n)) :
    d.modCore n f = d.modCore n g := by unfold Die.modCore; rw [tmod_congr _ _ _ h]
theorem State.modCore_congr (s : State) (c : Nat) {f g : Core → Core} (h : f (s.coreOf c) = g (s.coreOf c)) :
    s.modCore c f = s.modCore c g := State.modDie_congr _ _ (Die.modCore_congr _ _ h)
theorem State.modThr_congr (s : State) (h : Hart) {f g : Thread → Thread} (e : f (s.thrOf h) = g (s.thrOf h)) :
    s.modThr h f = s.modThr h g := by
  unfold State.modThr
  apply State.modCore_congr
  show Core.setThread _ _ (f (s.thrOf h)) = Core.setThread _ _ (g (s.thrOf h))
  rw [e]
theorem State.modCask_congr (s : State) (k : Nat) {f g : Cask → Cask} (h : f (s.caskOf k) = g (s.caskOf k)) :
    s.modCask k f = s.modCask k g := by unfold State.modCask; rw [tmod_congr _ _ _ h]
theorem State.modCtx_congr (s : State) (x : Nat) {f g : Ctx → Ctx} (h : f (s.ctxOf x) = g (s.ctxOf x)) :
    s.modCtx x f = s.modCtx x g := by unfold State.modCtx State.modHub; simp only [tmod_congr _ s.hub.ctx x h]

end Sys2Proof.Machine
end

