-- ==== Sys2Proof/Laws/Ports.lean ====
section
/-! SUPPORT. What sending through the endpoints can change: the endpoints, the messages sent, the records of observation
and the counter of free values, and nothing else. -/

namespace Sys2Proof.Machine

/-- Two states that differ at most in the endpoints, the messages sent, the observation unit and the free counter. -/
def PortsOnly (s t : State) : Prop :=
  {t with ioa := s.ioa, iob := s.iob, out := s.out, obs := s.obs, freeCtr := s.freeCtr} = s

theorem PortsOnly.refl (s : State) : PortsOnly s s := rfl
theorem PortsOnly.trans {s t u : State} (a : PortsOnly s t) (b : PortsOnly t u) : PortsOnly s u := by
  unfold PortsOnly at *; rw [← a, ← b]
theorem State.emit_ports (s : State) (m : Msg) : PortsOnly s (s.emit m) := rfl
theorem State.modEp_ports (s : State) (e : Ep) (f : HostEp → HostEp) : PortsOnly s (s.modEp e f) := by cases e <;> rfl

theorem State.xlogAdd_ports (s : State) (k : Nat) (e : Ep) (a b : Nat) : PortsOnly s (s.xlogAdd k e a b) := by
  unfold State.xlogAdd; split <;> rfl

theorem State.msixSend_ports (s : State) (e : Ep) (v : Nat) : PortsOnly s (s.msixSend e v) := by
  have a : ∀ o k e a b, PortsOnly s (State.xlogAdd {s with obs := o} k e a b) := fun o k e a b =>
    PortsOnly.trans (t := {s with obs := o}) rfl (State.xlogAdd_ports _ _ _ _ _)
  exact (a _ _ _ _ _).trans (State.emit_ports _ _)

theorem foldl_ports {α : Type} {f : State → α → State} (hf : ∀ s a, PortsOnly s (f s a)) (l : List α) (s : State) :
    PortsOnly s (l.foldl f s) := by
  induction l generalizing s with
  | nil => exact .refl s
  | cons a l ih => exact (hf s a).trans (ih _)

theorem State.drainLoop_ports (e : Ep) (n : Nat) (s : State) (keep l : List Outb) :
    PortsOnly s (State.drainLoop e n s keep l).1 := by
  induction n generalizing s keep l with
  | zero => exact .refl s
  | succ n ih =>
    match l with
    | [] => exact .refl s
    | .msix v :: l => exact (s.msixSend_ports e v.val).trans (ih _ _ _)
    | .req r :: l =>
      have send : ∀ ps, PortsOnly s (s.pcieSend e r ps) := fun ps => foldl_ports (fun s _ => s.emit_ports _) ps s
      simp only [State.drainLoop]
      split
      · exact ih _ _ _
      · split
        · exact (send _).trans (ih _ _ _)
        · split
          · exact .refl s
          · exact (send _).trans (ih _ _ _)

theorem State.drainOut_ports (s : State) (e : Ep) : PortsOnly s (s.drainOut e) := by
  unfold State.drainOut
  split
  · exact (State.drainLoop_ports e _ s [] _).trans (State.modEp_ports _ e _)
  · exact .refl s

theorem State.msixTrigger_ports (s : State) (e : Ep) (v : Nat) : PortsOnly s (s.msixTrigger e v) := by
  simp only [State.msixTrigger]
  split
  · exact s.modEp_ports e _
  · exact (s.modEp_ports e _).trans (State.drainOut_ports _ e)

theorem State.raise_ports (s : State) (e : Ep) (v : Nat) : PortsOnly s (s.raise e v) := by
  unfold State.raise; split
  · exact .refl s
  · exact s.msixTrigger_ports e v
theorem State.raiseSlice_ports (s : State) (x v : Nat) : PortsOnly s (s.raiseSlice x v) := s.raise_ports _ v
theorem State.raiseStatus_ports (s : State) : PortsOnly s s.raiseStatus :=
  (s.msixTrigger_ports .ioa 0).trans (State.msixTrigger_ports _ .iob 0)
theorem State.raiseTwin_ports (s : State) : PortsOnly s s.raiseTwin :=
  (s.raise_ports .ioa _).trans (State.raise_ports _ .iob _)
theorem State.enqueueOut_ports (s : State) (e : Ep) (q : HwReq) : PortsOnly s (s.enqueueOut e q) :=
  (s.modEp_ports e _).trans (State.drainOut_ports _ e)
theorem State.hostPost_ports (s : State) (sl iova : Nat) (bs : List Byte) : PortsOnly s (s.hostPost sl iova bs).2 := by
  simp only [State.hostPost]
  split
  · exact s.enqueueOut_ports _ _
  · exact s.modEp_ports _ _

theorem PortsOnly.pending {s t : State} (h : PortsOnly s t) : t.pending = s.pending := by unfold PortsOnly at h; rw [← h]
theorem PortsOnly.fuses {s t : State} (h : PortsOnly s t) : t.fuses = s.fuses := by unfold PortsOnly at h; rw [← h]
theorem PortsOnly.die {s t : State} (h : PortsOnly s t) : t.die = s.die := by unfold PortsOnly at h; rw [← h]
theorem PortsOnly.inflight {s t : State} (h : PortsOnly s t) : t.inflight = s.inflight := by unfold PortsOnly at h; rw [← h]
theorem PortsOnly.cask {s t : State} (h : PortsOnly s t) : t.cask = s.cask := by unfold PortsOnly at h; rw [← h]
theorem PortsOnly.bar {s t : State} (h : PortsOnly s t) : t.bar = s.bar := by unfold PortsOnly at h; rw [← h]
theorem PortsOnly.reserve {s t : State} (h : PortsOnly s t) : t.reserve = s.reserve := by unfold PortsOnly at h; rw [← h]
theorem PortsOnly.trellis {s t : State} (h : PortsOnly s t) : t.trellis = s.trellis := by unfold PortsOnly at h; rw [← h]
theorem PortsOnly.hub {s t : State} (h : PortsOnly s t) : t.hub = s.hub := by unfold PortsOnly at h; rw [← h]
theorem PortsOnly.link {s t : State} (h : PortsOnly s t) : t.link = s.link := by unfold PortsOnly at h; rw [← h]
theorem PortsOnly.gate {s t : State} (h : PortsOnly s t) : t.gate = s.gate := by unfold PortsOnly at h; rw [← h]
theorem PortsOnly.sec {s t : State} (h : PortsOnly s t) : t.sec = s.sec := by unfold PortsOnly at h; rw [← h]
theorem PortsOnly.boot {s t : State} (h : PortsOnly s t) : t.boot = s.boot := by unfold PortsOnly at h; rw [← h]
theorem PortsOnly.book {s t : State} (h : PortsOnly s t) : t.book = s.book := by unfold PortsOnly at h; rw [← h]
theorem PortsOnly.power {s t : State} (h : PortsOnly s t) : t.power = s.power := by unfold PortsOnly at h; rw [← h]
theorem PortsOnly.time {s t : State} (h : PortsOnly s t) : t.time = s.time := by unfold PortsOnly at h; rw [← h]
theorem PortsOnly.twin {s t : State} (h : PortsOnly s t) : t.twin = s.twin := by unfold PortsOnly at h; rw [← h]
theorem PortsOnly.avail {s t : State} (h : PortsOnly s t) : t.avail = s.avail := by unfold PortsOnly at h; rw [← h]

/-! `State.msixTrigger` -/
@[simp] theorem State.msixTrigger_pending (s : State) (e : Ep) (v : Nat) : (s.msixTrigger e v).pending = s.pending := (s.msixTrigger_ports e v).pending
@[simp] theorem State.msixTrigger_fuses (s : State) (e : Ep) (v : Nat) : (s.msixTrigger e v).fuses = s.fuses := (s.msixTrigger_ports e v).fuses
@[simp] theorem State.msixTrigger_die (s : State) (e : Ep) (v : Nat) : (s.msixTrigger e v).die = s.die := (s.msixTrigger_ports e v).die
@[simp] theorem State.msixTrigger_inflight (s : State) (e : Ep) (v : Nat) : (s.msixTrigger e v).inflight = s.inflight := (s.msixTrigger_ports e v).inflight
@[simp] theorem State.msixTrigger_cask (s : State) (e : Ep) (v : Nat) : (s.msixTrigger e v).cask = s.cask := (s.msixTrigger_ports e v).cask
@[simp] theorem State.msixTrigger_bar (s : State) (e : Ep) (v : Nat) : (s.msixTrigger e v).bar = s.bar := (s.msixTrigger_ports e v).bar
@[simp] theorem State.msixTrigger_reserve (s : State) (e : Ep) (v : Nat) : (s.msixTrigger e v).reserve = s.reserve := (s.msixTrigger_ports e v).reserve
@[simp] theorem State.msixTrigger_trellis (s : State) (e : Ep) (v : Nat) : (s.msixTrigger e v).trellis = s.trellis := (s.msixTrigger_ports e v).trellis
@[simp] theorem State.msixTrigger_hub (s : State) (e : Ep) (v : Nat) : (s.msixTrigger e v).hub = s.hub := (s.msixTrigger_ports e v).hub
@[simp] theorem State.msixTrigger_link (s : State) (e : Ep) (v : Nat) : (s.msixTrigger e v).link = s.link := (s.msixTrigger_ports e v).link
@[simp] theorem State.msixTrigger_gate (s : State) (e : Ep) (v : Nat) : (s.msixTrigger e v).gate = s.gate := (s.msixTrigger_ports e v).gate
@[simp] theorem State.msixTrigger_sec (s : State) (e : Ep) (v : Nat) : (s.msixTrigger e v).sec = s.sec := (s.msixTrigger_ports e v).sec
@[simp] theorem State.msixTrigger_boot (s : State) (e : Ep) (v : Nat) : (s.msixTrigger e v).boot = s.boot := (s.msixTrigger_ports e v).boot
@[simp] theorem State.msixTrigger_book (s : State) (e : Ep) (v : Nat) : (s.msixTrigger e v).book = s.book := (s.msixTrigger_ports e v).book
@[simp] theorem State.msixTrigger_power (s : State) (e : Ep) (v : Nat) : (s.msixTrigger e v).power = s.power := (s.msixTrigger_ports e v).power
@[simp] theorem State.msixTrigger_time (s : State) (e : Ep) (v : Nat) : (s.msixTrigger e v).time = s.time := (s.msixTrigger_ports e v).time
@[simp] theorem State.msixTrigger_twin (s : State) (e : Ep) (v : Nat) : (s.msixTrigger e v).twin = s.twin := (s.msixTrigger_ports e v).twin
@[simp] theorem State.msixTrigger_avail (s : State) (e : Ep) (v : Nat) : (s.msixTrigger e v).avail = s.avail := (s.msixTrigger_ports e v).avail

/-! `State.raise` -/
@[simp] theorem State.raise_pending (s : State) (e : Ep) (v : Nat) : (s.raise e v).pending = s.pending := (s.raise_ports e v).pending
@[simp] theorem State.raise_fuses (s : State) (e : Ep) (v : Nat) : (s.raise e v).fuses = s.fuses := (s.raise_ports e v).fuses
@[simp] theorem State.raise_die (s : State) (e : Ep) (v : Nat) : (s.raise e v).die = s.die := (s.raise_ports e v).die
@[simp] theorem State.raise_inflight (s : State) (e : Ep) (v : Nat) : (s.raise e v).inflight = s.inflight := (s.raise_ports e v).inflight
@[simp] theorem State.raise_cask (s : State) (e : Ep) (v : Nat) : (s.raise e v).cask = s.cask := (s.raise_ports e v).cask
@[simp] theorem State.raise_bar (s : State) (e : Ep) (v : Nat) : (s.raise e v).bar = s.bar := (s.raise_ports e v).bar
@[simp] theorem State.raise_reserve (s : State) (e : Ep) (v : Nat) : (s.raise e v).reserve = s.reserve := (s.raise_ports e v).reserve
@[simp] theorem State.raise_trellis (s : State) (e : Ep) (v : Nat) : (s.raise e v).trellis = s.trellis := (s.raise_ports e v).trellis
@[simp] theorem State.raise_hub (s : State) (e : Ep) (v : Nat) : (s.raise e v).hub = s.hub := (s.raise_ports e v).hub
@[simp] theorem State.raise_link (s : State) (e : Ep) (v : Nat) : (s.raise e v).link = s.link := (s.raise_ports e v).link
@[simp] theorem State.raise_gate (s : State) (e : Ep) (v : Nat) : (s.raise e v).gate = s.gate := (s.raise_ports e v).gate
@[simp] theorem State.raise_sec (s : State) (e : Ep) (v : Nat) : (s.raise e v).sec = s.sec := (s.raise_ports e v).sec
@[simp] theorem State.raise_boot (s : State) (e : Ep) (v : Nat) : (s.raise e v).boot = s.boot := (s.raise_ports e v).boot
@[simp] theorem State.raise_book (s : State) (e : Ep) (v : Nat) : (s.raise e v).book = s.book := (s.raise_ports e v).book
@[simp] theorem State.raise_power (s : State) (e : Ep) (v : Nat) : (s.raise e v).power = s.power := (s.raise_ports e v).power
@[simp] theorem State.raise_time (s : State) (e : Ep) (v : Nat) : (s.raise e v).time = s.time := (s.raise_ports e v).time
@[simp] theorem State.raise_twin (s : State) (e : Ep) (v : Nat) : (s.raise e v).twin = s.twin := (s.raise_ports e v).twin
@[simp] theorem State.raise_avail (s : State) (e : Ep) (v : Nat) : (s.raise e v).avail = s.avail := (s.raise_ports e v).avail

/-! `State.raiseStatus` -/
@[simp] theorem State.raiseStatus_pending (s : State) : (s.raiseStatus).pending = s.pending := (s.raiseStatus_ports).pending
@[simp] theorem State.raiseStatus_fuses (s : State) : (s.raiseStatus).fuses = s.fuses := (s.raiseStatus_ports).fuses
@[simp] theorem State.raiseStatus_die (s : State) : (s.raiseStatus).die = s.die := (s.raiseStatus_ports).die
@[simp] theorem State.raiseStatus_inflight (s : State) : (s.raiseStatus).inflight = s.inflight := (s.raiseStatus_ports).inflight
@[simp] theorem State.raiseStatus_cask (s : State) : (s.raiseStatus).cask = s.cask := (s.raiseStatus_ports).cask
@[simp] theorem State.raiseStatus_bar (s : State) : (s.raiseStatus).bar = s.bar := (s.raiseStatus_ports).bar
@[simp] theorem State.raiseStatus_reserve (s : State) : (s.raiseStatus).reserve = s.reserve := (s.raiseStatus_ports).reserve
@[simp] theorem State.raiseStatus_trellis (s : State) : (s.raiseStatus).trellis = s.trellis := (s.raiseStatus_ports).trellis
@[simp] theorem State.raiseStatus_hub (s : State) : (s.raiseStatus).hub = s.hub := (s.raiseStatus_ports).hub
@[simp] theorem State.raiseStatus_link (s : State) : (s.raiseStatus).link = s.link := (s.raiseStatus_ports).link
@[simp] theorem State.raiseStatus_gate (s : State) : (s.raiseStatus).gate = s.gate := (s.raiseStatus_ports).gate
@[simp] theorem State.raiseStatus_sec (s : State) : (s.raiseStatus).sec = s.sec := (s.raiseStatus_ports).sec
@[simp] theorem State.raiseStatus_boot (s : State) : (s.raiseStatus).boot = s.boot := (s.raiseStatus_ports).boot
@[simp] theorem State.raiseStatus_book (s : State) : (s.raiseStatus).book = s.book := (s.raiseStatus_ports).book
@[simp] theorem State.raiseStatus_power (s : State) : (s.raiseStatus).power = s.power := (s.raiseStatus_ports).power
@[simp] theorem State.raiseStatus_time (s : State) : (s.raiseStatus).time = s.time := (s.raiseStatus_ports).time
@[simp] theorem State.raiseStatus_twin (s : State) : (s.raiseStatus).twin = s.twin := (s.raiseStatus_ports).twin
@[simp] theorem State.raiseStatus_avail (s : State) : (s.raiseStatus).avail = s.avail := (s.raiseStatus_ports).avail

/-! `State.raiseTwin` -/
@[simp] theorem State.raiseTwin_pending (s : State) : (s.raiseTwin).pending = s.pending := (s.raiseTwin_ports).pending
@[simp] theorem State.raiseTwin_fuses (s : State) : (s.raiseTwin).fuses = s.fuses := (s.raiseTwin_ports).fuses
@[simp] theorem State.raiseTwin_die (s : State) : (s.raiseTwin).die = s.die := (s.raiseTwin_ports).die
@[simp] theorem State.raiseTwin_inflight (s : State) : (s.raiseTwin).inflight = s.inflight := (s.raiseTwin_ports).inflight
@[simp] theorem State.raiseTwin_cask (s : State) : (s.raiseTwin).cask = s.cask := (s.raiseTwin_ports).cask
@[simp] theorem State.raiseTwin_bar (s : State) : (s.raiseTwin).bar = s.bar := (s.raiseTwin_ports).bar
@[simp] theorem State.raiseTwin_reserve (s : State) : (s.raiseTwin).reserve = s.reserve := (s.raiseTwin_ports).reserve
@[simp] theorem State.raiseTwin_trellis (s : State) : (s.raiseTwin).trellis = s.trellis := (s.raiseTwin_ports).trellis
@[simp] theorem State.raiseTwin_hub (s : State) : (s.raiseTwin).hub = s.hub := (s.raiseTwin_ports).hub
@[simp] theorem State.raiseTwin_link (s : State) : (s.raiseTwin).link = s.link := (s.raiseTwin_ports).link
@[simp] theorem State.raiseTwin_gate (s : State) : (s.raiseTwin).gate = s.gate := (s.raiseTwin_ports).gate
@[simp] theorem State.raiseTwin_sec (s : State) : (s.raiseTwin).sec = s.sec := (s.raiseTwin_ports).sec
@[simp] theorem State.raiseTwin_boot (s : State) : (s.raiseTwin).boot = s.boot := (s.raiseTwin_ports).boot
@[simp] theorem State.raiseTwin_book (s : State) : (s.raiseTwin).book = s.book := (s.raiseTwin_ports).book
@[simp] theorem State.raiseTwin_power (s : State) : (s.raiseTwin).power = s.power := (s.raiseTwin_ports).power
@[simp] theorem State.raiseTwin_time (s : State) : (s.raiseTwin).time = s.time := (s.raiseTwin_ports).time
@[simp] theorem State.raiseTwin_twin (s : State) : (s.raiseTwin).twin = s.twin := (s.raiseTwin_ports).twin
@[simp] theorem State.raiseTwin_avail (s : State) : (s.raiseTwin).avail = s.avail := (s.raiseTwin_ports).avail

/-! `State.raiseSlice`, `State.fenceEvent`, `State.fenceSig`, `State.fenceAbandon` -/
@[simp] theorem State.raiseSlice_pending (s : State) (x v : Nat) : (s.raiseSlice x v).pending = s.pending := (s.raiseSlice_ports x v).pending
@[simp] theorem State.fenceEvent_pending (s : State) (n : Nat) : (s.fenceEvent n).pending = s.pending := by
  simp only [State.fenceEvent]; split <;> simp
@[simp] theorem State.fenceWake_pending (s : State) (n : Nat) : (s.fenceWake n).pending = s.pending := rfl
@[simp] theorem State.fenceSig_pending (s : State) (n : Nat) (x : Option Nat) (v : Word) : (s.fenceSig n x v).pending = s.pending := by
  simp only [State.fenceSig]; split <;> simp
@[simp] theorem State.fenceAbandon_pending (s : State) (n : Nat) : (s.fenceAbandon n).pending = s.pending := by simp [State.fenceAbandon]
@[simp] theorem State.raiseSlice_fuses (s : State) (x v : Nat) : (s.raiseSlice x v).fuses = s.fuses := (s.raiseSlice_ports x v).fuses
@[simp] theorem State.fenceEvent_fuses (s : State) (n : Nat) : (s.fenceEvent n).fuses = s.fuses := by
  simp only [State.fenceEvent]; split <;> simp
@[simp] theorem State.fenceWake_fuses (s : State) (n : Nat) : (s.fenceWake n).fuses = s.fuses := rfl
@[simp] theorem State.fenceSig_fuses (s : State) (n : Nat) (x : Option Nat) (v : Word) : (s.fenceSig n x v).fuses = s.fuses := by
  simp only [State.fenceSig]; split <;> simp
@[simp] theorem State.fenceAbandon_fuses (s : State) (n : Nat) : (s.fenceAbandon n).fuses = s.fuses := by simp [State.fenceAbandon]
@[simp] theorem State.raiseSlice_inflight (s : State) (x v : Nat) : (s.raiseSlice x v).inflight = s.inflight := (s.raiseSlice_ports x v).inflight
@[simp] theorem State.fenceEvent_inflight (s : State) (n : Nat) : (s.fenceEvent n).inflight = s.inflight := by
  simp only [State.fenceEvent]; split <;> simp
@[simp] theorem State.fenceWake_inflight (s : State) (n : Nat) : (s.fenceWake n).inflight = s.inflight := rfl
@[simp] theorem State.fenceSig_inflight (s : State) (n : Nat) (x : Option Nat) (v : Word) : (s.fenceSig n x v).inflight = s.inflight := by
  simp only [State.fenceSig]; split <;> simp
@[simp] theorem State.fenceAbandon_inflight (s : State) (n : Nat) : (s.fenceAbandon n).inflight = s.inflight := by simp [State.fenceAbandon]
@[simp] theorem State.raiseSlice_cask (s : State) (x v : Nat) : (s.raiseSlice x v).cask = s.cask := (s.raiseSlice_ports x v).cask
@[simp] theorem State.fenceEvent_cask (s : State) (n : Nat) : (s.fenceEvent n).cask = s.cask := by
  simp only [State.fenceEvent]; split <;> simp
@[simp] theorem State.fenceWake_cask (s : State) (n : Nat) : (s.fenceWake n).cask = s.cask := rfl
@[simp] theorem State.fenceSig_cask (s : State) (n : Nat) (x : Option Nat) (v : Word) : (s.fenceSig n x v).cask = s.cask := by
  simp only [State.fenceSig]; split <;> simp
@[simp] theorem State.fenceAbandon_cask (s : State) (n : Nat) : (s.fenceAbandon n).cask = s.cask := by simp [State.fenceAbandon]
@[simp] theorem State.raiseSlice_bar (s : State) (x v : Nat) : (s.raiseSlice x v).bar = s.bar := (s.raiseSlice_ports x v).bar
@[simp] theorem State.fenceEvent_bar (s : State) (n : Nat) : (s.fenceEvent n).bar = s.bar := by
  simp only [State.fenceEvent]; split <;> simp
@[simp] theorem State.fenceWake_bar (s : State) (n : Nat) : (s.fenceWake n).bar = s.bar := rfl
@[simp] theorem State.fenceSig_bar (s : State) (n : Nat) (x : Option Nat) (v : Word) : (s.fenceSig n x v).bar = s.bar := by
  simp only [State.fenceSig]; split <;> simp
@[simp] theorem State.fenceAbandon_bar (s : State) (n : Nat) : (s.fenceAbandon n).bar = s.bar := by simp [State.fenceAbandon]
@[simp] theorem State.raiseSlice_reserve (s : State) (x v : Nat) : (s.raiseSlice x v).reserve = s.reserve := (s.raiseSlice_ports x v).reserve
@[simp] theorem State.fenceEvent_reserve (s : State) (n : Nat) : (s.fenceEvent n).reserve = s.reserve := by
  simp only [State.fenceEvent]; split <;> simp
@[simp] theorem State.fenceWake_reserve (s : State) (n : Nat) : (s.fenceWake n).reserve = s.reserve := rfl
@[simp] theorem State.fenceSig_reserve (s : State) (n : Nat) (x : Option Nat) (v : Word) : (s.fenceSig n x v).reserve = s.reserve := by
  simp only [State.fenceSig]; split <;> simp
@[simp] theorem State.fenceAbandon_reserve (s : State) (n : Nat) : (s.fenceAbandon n).reserve = s.reserve := by simp [State.fenceAbandon]
@[simp] theorem State.raiseSlice_trellis (s : State) (x v : Nat) : (s.raiseSlice x v).trellis = s.trellis := (s.raiseSlice_ports x v).trellis
@[simp] theorem State.fenceEvent_trellis (s : State) (n : Nat) : (s.fenceEvent n).trellis = s.trellis := by
  simp only [State.fenceEvent]; split <;> simp
@[simp] theorem State.fenceWake_trellis (s : State) (n : Nat) : (s.fenceWake n).trellis = s.trellis := rfl
@[simp] theorem State.fenceSig_trellis (s : State) (n : Nat) (x : Option Nat) (v : Word) : (s.fenceSig n x v).trellis = s.trellis := by
  simp only [State.fenceSig]; split <;> simp
@[simp] theorem State.fenceAbandon_trellis (s : State) (n : Nat) : (s.fenceAbandon n).trellis = s.trellis := by simp [State.fenceAbandon]
@[simp] theorem State.raiseSlice_link (s : State) (x v : Nat) : (s.raiseSlice x v).link = s.link := (s.raiseSlice_ports x v).link
@[simp] theorem State.fenceEvent_link (s : State) (n : Nat) : (s.fenceEvent n).link = s.link := by
  simp only [State.fenceEvent]; split <;> simp
@[simp] theorem State.fenceWake_link (s : State) (n : Nat) : (s.fenceWake n).link = s.link := rfl
@[simp] theorem State.fenceSig_link (s : State) (n : Nat) (x : Option Nat) (v : Word) : (s.fenceSig n x v).link = s.link := by
  simp only [State.fenceSig]; split <;> simp
@[simp] theorem State.fenceAbandon_link (s : State) (n : Nat) : (s.fenceAbandon n).link = s.link := by simp [State.fenceAbandon]
@[simp] theorem State.raiseSlice_gate (s : State) (x v : Nat) : (s.raiseSlice x v).gate = s.gate := (s.raiseSlice_ports x v).gate
@[simp] theorem State.fenceEvent_gate (s : State) (n : Nat) : (s.fenceEvent n).gate = s.gate := by
  simp only [State.fenceEvent]; split <;> simp
@[simp] theorem State.fenceWake_gate (s : State) (n : Nat) : (s.fenceWake n).gate = s.gate := rfl
@[simp] theorem State.fenceSig_gate (s : State) (n : Nat) (x : Option Nat) (v : Word) : (s.fenceSig n x v).gate = s.gate := by
  simp only [State.fenceSig]; split <;> simp
@[simp] theorem State.fenceAbandon_gate (s : State) (n : Nat) : (s.fenceAbandon n).gate = s.gate := by simp [State.fenceAbandon]
@[simp] theorem State.raiseSlice_sec (s : State) (x v : Nat) : (s.raiseSlice x v).sec = s.sec := (s.raiseSlice_ports x v).sec
@[simp] theorem State.fenceEvent_sec (s : State) (n : Nat) : (s.fenceEvent n).sec = s.sec := by
  simp only [State.fenceEvent]; split <;> simp
@[simp] theorem State.fenceWake_sec (s : State) (n : Nat) : (s.fenceWake n).sec = s.sec := rfl
@[simp] theorem State.fenceSig_sec (s : State) (n : Nat) (x : Option Nat) (v : Word) : (s.fenceSig n x v).sec = s.sec := by
  simp only [State.fenceSig]; split <;> simp
@[simp] theorem State.fenceAbandon_sec (s : State) (n : Nat) : (s.fenceAbandon n).sec = s.sec := by simp [State.fenceAbandon]
@[simp] theorem State.raiseSlice_boot (s : State) (x v : Nat) : (s.raiseSlice x v).boot = s.boot := (s.raiseSlice_ports x v).boot
@[simp] theorem State.fenceEvent_boot (s : State) (n : Nat) : (s.fenceEvent n).boot = s.boot := by
  simp only [State.fenceEvent]; split <;> simp
@[simp] theorem State.fenceWake_boot (s : State) (n : Nat) : (s.fenceWake n).boot = s.boot := rfl
@[simp] theorem State.fenceSig_boot (s : State) (n : Nat) (x : Option Nat) (v : Word) : (s.fenceSig n x v).boot = s.boot := by
  simp only [State.fenceSig]; split <;> simp
@[simp] theorem State.fenceAbandon_boot (s : State) (n : Nat) : (s.fenceAbandon n).boot = s.boot := by simp [State.fenceAbandon]
@[simp] theorem State.raiseSlice_book (s : State) (x v : Nat) : (s.raiseSlice x v).book = s.book := (s.raiseSlice_ports x v).book
@[simp] theorem State.fenceEvent_book (s : State) (n : Nat) : (s.fenceEvent n).book = s.book := by
  simp only [State.fenceEvent]; split <;> simp
@[simp] theorem State.fenceWake_book (s : State) (n : Nat) : (s.fenceWake n).book = s.book := rfl
@[simp] theorem State.fenceSig_book (s : State) (n : Nat) (x : Option Nat) (v : Word) : (s.fenceSig n x v).book = s.book := by
  simp only [State.fenceSig]; split <;> simp
@[simp] theorem State.fenceAbandon_book (s : State) (n : Nat) : (s.fenceAbandon n).book = s.book := by simp [State.fenceAbandon]
@[simp] theorem State.raiseSlice_power (s : State) (x v : Nat) : (s.raiseSlice x v).power = s.power := (s.raiseSlice_ports x v).power
@[simp] theorem State.fenceEvent_power (s : State) (n : Nat) : (s.fenceEvent n).power = s.power := by
  simp only [State.fenceEvent]; split <;> simp
@[simp] theorem State.fenceWake_power (s : State) (n : Nat) : (s.fenceWake n).power = s.power := rfl
@[simp] theorem State.fenceSig_power (s : State) (n : Nat) (x : Option Nat) (v : Word) : (s.fenceSig n x v).power = s.power := by
  simp only [State.fenceSig]; split <;> simp
@[simp] theorem State.fenceAbandon_power (s : State) (n : Nat) : (s.fenceAbandon n).power = s.power := by simp [State.fenceAbandon]
@[simp] theorem State.raiseSlice_time (s : State) (x v : Nat) : (s.raiseSlice x v).time = s.time := (s.raiseSlice_ports x v).time
@[simp] theorem State.fenceEvent_time (s : State) (n : Nat) : (s.fenceEvent n).time = s.time := by
  simp only [State.fenceEvent]; split <;> simp
@[simp] theorem State.fenceWake_time (s : State) (n : Nat) : (s.fenceWake n).time = s.time := rfl
@[simp] theorem State.fenceSig_time (s : State) (n : Nat) (x : Option Nat) (v : Word) : (s.fenceSig n x v).time = s.time := by
  simp only [State.fenceSig]; split <;> simp
@[simp] theorem State.fenceAbandon_time (s : State) (n : Nat) : (s.fenceAbandon n).time = s.time := by simp [State.fenceAbandon]
@[simp] theorem State.raiseSlice_twin (s : State) (x v : Nat) : (s.raiseSlice x v).twin = s.twin := (s.raiseSlice_ports x v).twin
@[simp] theorem State.fenceEvent_twin (s : State) (n : Nat) : (s.fenceEvent n).twin = s.twin := by
  simp only [State.fenceEvent]; split <;> simp
@[simp] theorem State.fenceWake_twin (s : State) (n : Nat) : (s.fenceWake n).twin = s.twin := rfl
@[simp] theorem State.fenceSig_twin (s : State) (n : Nat) (x : Option Nat) (v : Word) : (s.fenceSig n x v).twin = s.twin := by
  simp only [State.fenceSig]; split <;> simp
@[simp] theorem State.fenceAbandon_twin (s : State) (n : Nat) : (s.fenceAbandon n).twin = s.twin := by simp [State.fenceAbandon]
@[simp] theorem State.raiseSlice_avail (s : State) (x v : Nat) : (s.raiseSlice x v).avail = s.avail := (s.raiseSlice_ports x v).avail
@[simp] theorem State.fenceEvent_avail (s : State) (n : Nat) : (s.fenceEvent n).avail = s.avail := by
  simp only [State.fenceEvent]; split <;> simp
@[simp] theorem State.fenceWake_avail (s : State) (n : Nat) : (s.fenceWake n).avail = s.avail := rfl
@[simp] theorem State.fenceSig_avail (s : State) (n : Nat) (x : Option Nat) (v : Word) : (s.fenceSig n x v).avail = s.avail := by
  simp only [State.fenceSig]; split <;> simp
@[simp] theorem State.fenceAbandon_avail (s : State) (n : Nat) : (s.fenceAbandon n).avail = s.avail := by simp [State.fenceAbandon]

end Sys2Proof.Machine
end

