-- ==== Sys2Proof/Laws/Threads.lean ====
section
/-! SUPPORT. What the updates of threads, cores and dies leave alone, and what a ready access does. -/

namespace Sys2Proof.Machine

/-- Two threads differ in their core or in their number in it. -/
theorem hart_ne {g h : Hart} (hne : g ≠ h) : hartCore g ≠ hartCore h ∨ (hartThr g).val ≠ (hartThr h).val := by
  by_cases e : hartCore g = hartCore h
  · right
    intro e2
    apply hne
    apply Fin.ext
    simp only [hartCore, hartThr] at e e2
    omega
  · exact Or.inl e

/-- A change of one thread leaves every other thread alone. -/
theorem State.thrOf_modThr_ne (s : State) {h g : Hart} (f : Thread → Thread) (hne : g ≠ h) :
    (s.modThr h f).thrOf g = s.thrOf g := by
  unfold State.modThr State.thrOf
  rcases hart_ne hne with e | e
  · rw [State.coreOf_modCore_ne _ _ e]
  · by_cases e1 : hartCore g = hartCore h
    · rw [e1, State.coreOf_modCore]
      simp only [Core.setThread, Core.thread]
      rw [tget_tput_ne _ _ _ e]
    · rw [State.coreOf_modCore_ne _ _ e1]

/-- A change of a die that keeps its cores keeps every core. -/
theorem State.coreOf_modDie (s : State) (x : Nat) {f : Die → Die} (hf : ∀ d, (f d).core = d.core) (c : Nat) :
    (s.modDie x f).coreOf c = s.coreOf c := by
  unfold State.coreOf
  by_cases e : c / 256 = x
  · subst e; simp [Die.coreOf, hf]
  · rw [State.dieOf_modDie_ne _ _ e]

/-- A change of a die that keeps its lines keeps every die's lines. -/
theorem State.l2_modDie (s : State) (x : Nat) {f : Die → Die} (hf : ∀ d, (f d).l2 = d.l2) (y : Nat) :
    ((s.modDie x f).dieOf y).l2 = (s.dieOf y).l2 := by
  by_cases e : y = x
  · subst e; simp [hf]
  · rw [State.dieOf_modDie_ne _ _ e]

/-- A change of a core that keeps its scratch keeps every core's scratch. -/
theorem State.scratch_modCore (s : State) (g : Nat) {f : Core → Core} (hf : ∀ c, (f c).scratch = c.scratch) (c : Nat) :
    ((s.modCore g f).coreOf c).scratch = (s.coreOf c).scratch := by
  by_cases e : c = g
  · subst e; simp [hf]
  · rw [State.coreOf_modCore_ne _ _ e]

/-- A change of a thread leaves memory alone. -/
theorem State.modThr_memorySame (s : State) (h : Hart) (f : Thread → Thread) : MemorySame s (s.modThr h f) :=
  ⟨fun c => State.scratch_modCore s (hartCore h) (f := fun c => c.setThread (hartThr h) (f (c.thread (hartThr h))))
      (fun _ => rfl) c,
   fun x => State.l2_modDie s (hartCore h / 256)
      (f := fun d => d.modCore (hartCore h % 256) (fun c => c.setThread (hartThr h) (f (c.thread (hartThr h)))))
      (fun _ => rfl) x, rfl⟩

/-- A change of a thread leaves every other thread alone. -/
theorem State.modThr_otherThreads (s : State) (h : Hart) (f : Thread → Thread) : OtherThreads s (s.modThr h f) h :=
  fun _ hg => State.thrOf_modThr_ne s f hg

/-! ### Located pieces -/

/-- What locating gives when every piece is found. -/
def found (ls : List LPiece) : Located := ls.map (fun l => (l.1, .loc l.2))

theorem found_access (ls : List LPiece) : (found ls).find? (fun r => r.2.isAccess) = none := by
  simp [found, List.find?_eq_none, LocRes.isAccess]
theorem found_walk (ls : List LPiece) : (found ls).filterMap (fun r => r.2.walk?) = [] := by
  simp [found, LocRes.walk?]
theorem found_fault (ls : List LPiece) : lowestFault (found ls) = none := by
  induction ls with
  | nil => rfl
  | cons l ls ih => simpa [found, lowestFault] using ih
theorem found_loc (ls : List LPiece) : (found ls).filterMap (fun r => r.2.loc?.map (fun l => (r.1, l))) = ls := by
  induction ls with
  | nil => rfl
  | cons l ls ih => simpa [found, LocRes.loc?] using ih
theorem found_cut (op : MemOp) (ls : List LPiece) : ffCut op (found ls) = none := by
  unfold ffCut
  have : (found ls).filter (fun r => r.2.isAccess || r.2.isFault) = [] := by
    simp only [List.filter_eq_nil_iff, found, List.mem_map]
    rintro _ ⟨l, _, rfl⟩
    simp [LocRes.isAccess, LocRes.isFault]
  split
  · split
    · rfl
    · simp [this, leastOf]
  · rfl

/-- An access whose pieces are all in scratch or in lines held is performed. -/
theorem State.memGo_held (s : State) (h : Hart) (op : MemOp) (f : Nat) (ls : List LPiece)
    (hp : ∀ l ∈ ls, l.2.posted = false ∧ ∀ o, l.2 ≠ .reg o)
    (hh : ∀ l ∈ pieceLines ls, ∃ ln, tfind (s.dieOf (hartSite h)).l2 l.1 = some ln ∧ (op.excl = true → ln.st = .m)) :
    s.memGo h op f ls = s.perform h op ls := by
  have h1 : ls.any (fun l => l.2.isReg) = false := by
    simp only [List.any_eq_false]
    intro l hl
    have := (hp l hl).2
    cases hc : l.2 <;> simp_all [Loc.isReg]
  have h2 : ls.filter (fun l => l.2.posted) = [] := by
    simp only [List.filter_eq_nil_iff]
    intro l hl
    simp [(hp l hl).1]
  have h3 : (s.dieOf (hartSite h)).lacking op ls = [] := by
    unfold Die.lacking
    simp only [List.filter_eq_nil_iff]
    intro l hl
    obtain ⟨ln, e, m⟩ := hh l hl
    rw [e]
    by_cases hx : op.excl = true
    · simp [m hx]
    · simp [hx]
  unfold State.memGo
  simp only [h1, Bool.false_and, Bool.false_eq_true, ↓reduceIte, h2, List.isEmpty_nil, Bool.not_true, ne_eq,
    decide_not, List.find?_nil, h3, Die.unread, List.filter_nil, Bool.and_false]

/-- A ready access is performed. -/
theorem Ready.performs {s s' : State} {h : Hart} {op : MemOp} {ls : List LPiece} (r : Ready s h op ls s') :
    s.memExec h op = s'.perform h op ls := by
  unfold State.memExec
  have hal : (op.atomic && (op.pieces (s.thrOf h)).any (fun p => decide (p.va % op.size ≠ 0))) = false := by
    by_cases ha : op.atomic = true
    · have := r.aligned ha
      simp only [ha, Bool.true_and, List.any_eq_false]
      intro p hp
      simp [this p hp]
    · simp [ha]
  have hl := r.located
  rw [show ls.map (fun l => (l.1, LocRes.loc l.2)) = found ls from rfl] at hl
  simp only [r.regs, hal, hl, found_cut]
  simp only [State.memTake, found_access, found_walk, lowestWalk, found_fault, found_loc]
  simp only [State.memGo_held s' h op _ ls r.plain r.held]
  rfl

/-- An access that reads no poisoned byte puts the bytes read to use. -/
theorem State.perform_clean (s : State) (h : Hart) (op : MemOp) (ls : List LPiece) (hc : (s.gather h ls).2 = false) :
    s.perform h op ls = s.performOn h op ls (s.gather h ls).1 := by
  unfold State.perform
  cases hg : s.gather h ls with
  | mk bs p => rw [hg] at hc; simp only at hc; subst hc; simp

/-- A thread that issues takes its effect. -/
theorem State.issue_runs {s : State} {h : Hart} (hi : s.canIssue h = true) (f : State → State) : s.issue h f = .next (f s) := by
  unfold State.issue; rw [hi]; rfl

end Sys2Proof.Machine
end

