-- ==== Sys2Proof/Laws/Twin.lean ====
section
/-! SUPPORT. What the shared operations of the twin port do: a control frame taken, dropped or ignored, one sent, a role
set, a FAILOVER that goes out, a push that ends. -/

namespace Sys2Proof.Machine

@[simp] theorem State.modTwin_twin (s : State) (f : Twin → Twin) : (s.modTwin f).twin = f s.twin := rfl

/-- A frame that may be taken is, and its number is kept. -/
theorem State.ctlTake_takes {s : State} {ok : Bool} {n : Nat} (h : s.TwinTakes ok n) :
    s.ctlTake ok n = (true, s.modTwin (fun t => {t with rxSeq := tput t.rxSeq (s.twin.inKey 2) n})) := by
  have hk : s.twin.keys.isEmpty = false := by simp [h.keyed]
  simp only [State.ctlTake, h.lanes, h.enabled, h.tag]
  cases e : tfind s.twin.rxSeq (s.twin.inKey 2) with
  | none => simp [hk]
  | some m => have := h.fresh m e; simp_all

/-- Any other frame over an open port is dropped and counted. -/
theorem State.ctlTake_drops {s : State} {ok : Bool} {n : Nat} (h : ¬ s.TwinTakes ok n) (hl : s.twin.lanes = true)
    (he : s.twin.st ≠ .disabled) :
    s.ctlTake ok n = (false, {s with sec := {s.sec with ctlDrop := s.sec.ctlDrop + 1}}) := by
  simp only [State.ctlTake, hl, he]
  cases e : tfind s.twin.rxSeq (s.twin.inKey 2) with
  | none =>
    by_cases hb : ok = true <;> by_cases hk : s.twin.keys = [] <;> simp [hb, hk]
    exact h ⟨hl, he, hk, hb, by simp [e]⟩
  | some m =>
    by_cases hb : ok = true <;> by_cases hk : s.twin.keys = [] <;> by_cases hn : m < n <;> simp [hb, hk, hn]
    exact h ⟨hl, he, hk, hb, by simp [e]; exact hn⟩

/-- No frame comes over a port that is closed. -/
theorem State.ctlTake_closed {s : State} {ok : Bool} {n : Nat} (h : ¬ (s.twin.lanes = true ∧ s.twin.st ≠ .disabled)) :
    s.ctlTake ok n = (false, s) := by
  simp only [State.ctlTake]
  by_cases h1 : s.twin.lanes = true <;> by_cases h2 : s.twin.st = .disabled <;> simp_all

/-- Sending a control frame changes the sending numbers and the messages sent alone. -/
theorem State.twinCtl_twin (s : State) (k : Nat) (b : List Byte) :
    (s.twinCtl k b).twin = {s.twin with txSeq := (s.twinCtl k b).twin.txSeq} := by
  unfold State.twinCtl; split <;> rfl
@[simp] theorem State.twinCtl_st (s : State) (k : Nat) (b : List Byte) : (s.twinCtl k b).twin.st = s.twin.st := by
  rw [twinCtl_twin]
@[simp] theorem State.twinCtl_role (s : State) (k : Nat) (b : List Byte) : (s.twinCtl k b).twin.role = s.twin.role := by
  rw [twinCtl_twin]
@[simp] theorem State.twinCtl_keys (s : State) (k : Nat) (b : List Byte) : (s.twinCtl k b).twin.keys = s.twin.keys := by
  rw [twinCtl_twin]
@[simp] theorem State.twinCtl_push (s : State) (k : Nat) (b : List Byte) : (s.twinCtl k b).twin.push = s.twin.push := by
  rw [twinCtl_twin]
@[simp] theorem State.twinCtl_lastPush (s : State) (k : Nat) (b : List Byte) :
    (s.twinCtl k b).twin.lastPush = s.twin.lastPush := by rw [twinCtl_twin]
@[simp] theorem State.twinCtl_lanes (s : State) (k : Nat) (b : List Byte) : (s.twinCtl k b).twin.lanes = s.twin.lanes := by
  rw [twinCtl_twin]

/-- Setting a role changes the role, and the ports where the vectors fire. -/
theorem State.setRole_twin (s : State) (r : Nat) : (s.setRole r).twin = {s.twin with role := r} := by
  unfold State.setRole
  split
  · rename_i h; rw [← h]
  · simp

/-- FAILOVER going out leaves pushes, keys and lanes as they are. -/
theorem State.switchGo_keeps (s : State) : s.switchGo.twin.st = s.twin.st ∧ s.switchGo.twin.push = s.twin.push
    ∧ s.switchGo.twin.keys = s.twin.keys ∧ s.switchGo.twin.lastPush = s.twin.lastPush
    ∧ s.switchGo.twin.lanes = s.twin.lanes := by
  unfold State.switchGo
  split
  · simp
  · simp only []
    split
    · simp
    · split
      · split <;> simp [State.setRole_twin]
      · split <;> simp
@[simp] theorem State.switchGo_none {s : State} (h : s.twin.switching = none) : s.switchGo = s := by
  simp [State.switchGo, h]

/-- A push that ends leaves the list, and is the last one when it is no restore. -/
theorem State.pushEnd_keeps (s : State) (p : Push) (st : Nat) : (s.pushEnd p st).twin.push = s.twin.push.erase p
    ∧ (s.pushEnd p st).twin.st = s.twin.st ∧ (s.pushEnd p st).twin.keys = s.twin.keys
    ∧ (s.pushEnd p st).twin.lanes = s.twin.lanes
    ∧ (p.restore = false → (s.pushEnd p st).twin.lastPush = (p.tag, st)) := by
  unfold State.pushEnd
  simp only []
  have hq := State.switchGo_keeps
  simp only [hq]
  split <;> (try split) <;> cases hr : p.restore <;> simp_all

/-- When pushes are lost none is left. -/
theorem State.pushesLost_keeps (s : State) : s.pushesLost.twin.push = [] ∧ s.pushesLost.twin.st = s.twin.st
    ∧ s.pushesLost.twin.keys = s.twin.keys ∧ s.pushesLost.twin.lanes = s.twin.lanes := by
  unfold State.pushesLost
  generalize hl : s.twin.push = l
  induction l generalizing s with
  | nil => simp [hl]
  | cons p l ih =>
    have hp := s.pushEnd_keeps p 2
    have := ih (s.pushEnd p 2) (by simp [hp, hl])
    simp_all

end Sys2Proof.Machine
end

