-- ==== Sys2Proof/WellFormed.lean ====
section
/-! DEFINITION. Well-formed commands: the sizes the manual gives the operands that no type bounds. -/

namespace Sys2Proof

/-- As many data sectors as the request's length says (R224). -/
def HReq.fits (r : HReq) (data : List Sector) : Bool := data.length = r.len.val + 1

/-- The checks, one per shape of operand. -/
def Instr.wf : Instr → Bool
  | .wr r data | .wri r data | .stash r data => r.fits data
  | .wrp r mask data => mask.length = 1 && data.length = 1 && r.len = 1
  | .wb _ _ data => data.length = 1
  | .amo r _ => r.len = 0
  | .trace r _ _ => r.len = 0
  | .niInject _ q data => data.length = Machine.reqSectors q.op q.len.val
  | .routerReceive _ _ _ _ _ payload => payload.length ≤ 4
  | .frameReceive _ _ _ _ _ payload => payload.length = 4
  | .apertureRead _ off len => off.toNat / 4096 = (off.toNat + len.val - 1) / 4096 && 0 < len.val
  | .apertureWrite _ off data _ => 0 < data.length && data.length ≤ 4096 &&
      off.toNat / 4096 = (off.toNat + data.length - 1) / 4096
  | .hostWindowRequest _ q => 0 < q.len && (!q.wr || q.data.length = q.len)
  | .attestationRequest ch req => 1 ≤ ch.val && req.length = 40
  | .zoneSample _ temps => temps.length = 8
  | .mgdBufferScrub ch => 1 ≤ ch.val
  | .twinData _ _ _ _ data _ => data.length = 4
  | _ => true

end Sys2Proof
end

