-- ==== Sys2Proof/Tests/Slice0.lean ====
section
/-! SUPPORT. Tests: the checks of `Instr.wf`, the manual's worked examples, and for every statement with hypotheses states
and operands that meet them, clause by clause. -/

set_option linter.all false
set_option Elab.async false

open Sys2Proof Sys2Proof.Machine

/-! ### The checks of `Instr.wf`: for each an ill-formed command, which it refuses, and a well-formed one -/

/-- A home request for n + 1 sectors. -/
def someReq (n : Fin 4) : HReq := ⟨0x1000, n, 0, 0, 7⟩

theorem test_wf_wr : (Instr.wr (someReq 1) [0]).wf = false ∧ (Instr.wr (someReq 1) [0, 0]).wf = true := by decide
theorem test_wf_wri : (Instr.wri (someReq 0) []).wf = false ∧ (Instr.wri (someReq 0) [0]).wf = true := by decide
theorem test_wf_stash : (Instr.stash (someReq 3) [0]).wf = false ∧ (Instr.stash (someReq 0) [0]).wf = true := by decide
theorem test_wf_wrp_mask : (Instr.wrp (someReq 1) [] [0]).wf = false ∧ (Instr.wrp (someReq 1) [1] [0]).wf = true := by decide
theorem test_wf_wrp_data : (Instr.wrp (someReq 1) [1] []).wf = false := by decide
theorem test_wf_wrp_len : (Instr.wrp (someReq 0) [1] [0]).wf = false := by decide
theorem test_wf_wb : (Instr.wb 0 ⟨0x1000, 0, 7⟩ []).wf = false ∧ (Instr.wb 0 ⟨0x1000, 0, 7⟩ [0]).wf = true := by decide
theorem test_wf_amo : (Instr.amo (someReq 1) 0).wf = false ∧ (Instr.amo (someReq 0) 0).wf = true := by decide
theorem test_wf_trace : (Instr.trace (someReq 1) 0 0).wf = false ∧ (Instr.trace (someReq 0) 0 0).wf = true := by decide
theorem test_wf_niInject : (Instr.niInject 0 ⟨.wr, .coh, 1, 0x80, 64, 0, 7, false⟩ [0]).wf = false ∧
    (Instr.niInject 0 ⟨.wr, .coh, 1, 0x80, 64, 0, 7, false⟩ [0, 0]).wf = true := by decide
theorem test_wf_routerReceive : (Instr.routerReceive 0 0 0 0 0 [0, 0, 0, 0, 0]).wf = false ∧
    (Instr.routerReceive 0 0 0 0 0 []).wf = true := by decide
theorem test_wf_frameReceive : (Instr.frameReceive 0 0 true 0 0 [0]).wf = false ∧
    (Instr.frameReceive 0 0 true 0 0 [0, 0, 0, 0]).wf = true := by decide
theorem test_wf_apertureRead_page : (Instr.apertureRead .ioa 4095 2).wf = false ∧ (Instr.apertureRead .ioa 4095 1).wf = true := by decide
theorem test_wf_apertureRead_none : (Instr.apertureRead .ioa 64 0).wf = false := by decide
theorem test_wf_apertureWrite_page : (Instr.apertureWrite .ioa 4095 [0, 0] false).wf = false ∧
    (Instr.apertureWrite .ioa 4094 [0, 0] false).wf = true := by decide
theorem test_wf_apertureWrite_none : (Instr.apertureWrite .ioa 64 [] false).wf = false := by decide
theorem test_wf_hostWindowRequest_len : (Instr.hostWindowRequest .ioa ⟨0, 0, 1, false, 64, 0, []⟩).wf = false ∧
    (Instr.hostWindowRequest .ioa ⟨0, 0, 1, false, 64, 8, []⟩).wf = true := by decide
theorem test_wf_hostWindowRequest_data : (Instr.hostWindowRequest .ioa ⟨0, 0, 1, true, 64, 8, []⟩).wf = false := by decide
theorem test_wf_zoneSample : (Instr.zoneSample 0 [1]).wf = false ∧ (Instr.zoneSample 0 [1, 1, 1, 1, 1, 1, 1, 1]).wf = true := by decide
theorem test_wf_mgdBufferScrub : (Instr.mgdBufferScrub 0).wf = false ∧ (Instr.mgdBufferScrub 1).wf = true := by decide
theorem test_wf_twinData : (Instr.twinData 0 0 0 0 [0] false).wf = false ∧
    (Instr.twinData 0 0 0 0 [0, 0, 0, 0] false).wf = true := by decide
theorem test_wf_attestation_channel : (Instr.attestationRequest 0 (List.replicate 40 0)).wf = false ∧
    (Instr.attestationRequest 1 (List.replicate 40 0)).wf = true := by decide
theorem test_wf_attestation_length : (Instr.attestationRequest 1 [0]).wf = false := by decide

/-! ### Small states -/

/-- The state an outcome names. -/
def nx : Res → State | .next s => s | _ => {}
/-- The package out of reset and ready, every feature in force. -/
def up : State :=
  {State.reset with
    boot := {running := true, ready := true, cooper := true, stage := 14, feat := BitVec.allOnes 64, nslice := 64}
    power := {porLow := false}}

/-- The package with one thread, one core, one die, one context, … changed. -/
def thrIs (f : Thread → Thread) : State := up.modThr 0 f
def coreIs (f : Machine.Core → Machine.Core) : State := up.modCore 0 f
def dieIs (f : Die → Die) : State := up.modDie 0 f
/-- Thread 0 with x1 at the base of the scratch, and a value in x2. -/
def inScratch : State := thrIs (fun t => {t with x := [(1, 0x7FFFFFFF00000), (2, 0x1122334455667788)]})
/-- A machine word of the formats of R103: opcode, rd, funct3, rs1, rs2, funct7. -/
def wd (op rd f3 rs1 rs2 f7 : Nat) : BitVec 32 :=
  BitVec.ofNat 32 (op + 2 ^ 7 * rd + 2 ^ 12 * f3 + 2 ^ 15 * rs1 + 2 ^ 20 * rs2 + 2 ^ 25 * f7)
/-- Context 1 of slice 2 runs on core 0, with every fence and barrier channel; thread 0 has x1 = 5 and x2 = 3. -/
def loaded : State :=
  {((List.range 8).foldl (fun s i => s.modNi (niSite 0 i) (fun n => {n with eng := false, ready := true})) up).modCore 0 (fun c => {
    c with ctx := some 1, thr := [(0, {x := [(1, 5), (2, 3)]})]}) with
    hub := {
      ctx := [(1, {
        state := .live, pos := some 0, slice := 2, smask := 1, fsmap := BitVec.allOnes 256, fwmap := BitVec.allOnes 256 })],
      slice := [(2, {state := .active, bmask := BitVec.allOnes 256, cmask := BitVec.allOnes 256})],
      fence := [(5, {value := 2, slice := 2, armed := true})] },
    bar := [(5, {armed := true, dies := 1})] }
/-- Thread 0 with the vector unit on, eight elements of 32 bits in single registers. -/
def vecs : State := thrIs (fun t => ((t.setCsr Csr.mstatus 0x200).setCsr Csr.vtype 0x10).setCsr Csr.vl 8)
/-- A press-queue entry of a word, as thread 0 of `inScratch` would enter it. -/
def entry (n : Nat) (w : BitVec 32) (st : Bool) : PEntry :=
  {capture (inScratch.coreOf 0) 0 w with seq := n, started := st}
/-- `inScratch` with entries in the press queue. -/
def pressing (q : List PEntry) : State := inScratch.modCore 0 (fun c => {c with queue := q, pseq := q.length})
/-- `loaded` with context 7 of the same slice wanting, on the one cluster the slice has, whose other positions are lost. -/
def busyPos : State :=
  let s : State := {loaded with
    hub := {loaded.hub with
      ctx := loaded.hub.ctx ++ [(7, {state := .live, slice := 2, smask := 1, want := some 0, prio := 1})],
      slice := [(2, {state := .active, bmask := BitVec.allOnes 256, cmask := 1})]}}
  s.modDie 0 (fun d => {d with cluster := [(0, {retired := 0x1FFFE})]})
/-- `busyPos` with a free position and a cask whose every sector reads as 0. -/
def readable : State :=
  {busyPos with cask := [(0, {poisBase := false})]}.modDie 0 (fun d => {d with cluster := []})
/-- `readable` with the save of context 1 under way for command block 2. -/
def savingPos : State := readable.modCtx 1 (fun c => {c with saving := some (.command 2)})
/-- A descriptor of words w0 (its fields), w2 (destination), w3 (shape); its source, state, and tiles issued and committed. -/
def descr (src : DescSrc) (w0 w2 w3 : Word) (st : DState) (iss com : Nat) : Desc :=
  ⟨0, src, 0, [w0, 0, w2, w3, 0, 0, 0, 0], 0, st, iss, com, 0, {}, 0, 0, false, 0, []⟩
/-- A ZERO of firmware at a physical address: `op` 3, `phys` 1. -/
def zeroing (w3 : Word) (iss com : Nat) : Desc := descr .firmware 0x400003 0 w3 (.running 0) iss com
/-- The package with the NIs of cask 0 and of the services open and descriptors fetched. -/
def withDescs (ds : List Desc) : State :=
  let s := ((List.range 8).map (0x80 + ·) ++ (List.range 16).map (0x100 + ·)).foldl (fun (s : State) i =>
    s.modNi i (fun n => {n with eng := false, ready := true})) loaded
  s.modHub (fun h => {h with
    desc := ds, queue := [(8, {ctx := 2, state := .on, kind := 1}), (9, {ctx := 1, state := .on, kind := 1})],
    ctx := h.ctx ++ [(2, {state := .live, slice := 2})]})
/-- Context, slice and NIs of `withDescs`, with cask 0 as given. -/
def home (c : Cask) : State := {withDescs [] with cask := [(0, c)]}
/-- A request of site 0 at 0x1000 for n + 1 sectors. -/
def hreq (n : Fin 4) : HReq := ⟨0x1000, n, 0, 0, 7⟩
/-- The data of the newest message, a response. -/
def answer (t : State) : List (Sector × Bool) := (t.out.findSome? (fun m => match m with | .rsp _ _ _ _ d => some d | _ => none)).getD []
/-- Cask 0 with line 64 held in M by site 0. -/
def ownedLine : Cask := {poisBase := false, dir := [(1024, ⟨true, 1, 64, 0, .ok⟩)]}
/-- A transaction of cask 0 on line 64 that awaits an answer of site 0. -/
def txnOf (op : TOp) : Txn := ⟨.req ⟨.rd, hreq 0, [], 0, 0, false⟩, [64], [⟨64, 0, op⟩], [], []⟩
/-- The reserve copy of the first range of cask 0 on cask 1. -/
def copied : Reserve := {mode := 1, cbase := 0x8000}
/-- A cask with pseudo-channel 0 as given. -/
def pcs (p : Pc) : Cask := {pc := [(0, p)]}
/-- A full request, route 1 of an NI to another as one leg of n hops in direction d. -/
def leg (n d : Nat) : Nat := n + 16 * d
/-- The one route from NI 0 to NI 0x80, two hops east, in a valid entry; other fields of the entry in `x`. -/
def routeWord (x : Nat) : Word := BitVec.ofNat 64 (2 ^ 51 + leg 2 1 + 2 ^ 24 * leg 2 1 + x)
/-- `loaded` with that entry in NI 0's table, and NI 0 as given. -/
def routed (f : Ni → Ni) : State :=
  (loaded.modTrellis (fun t => {t with route := [(0x80, routeWord 0)]})).modNi 0 f
/-- A request from NI 0 to NI 0x80 of a class. -/
def nreq (c : Cls) : NReq := ⟨.rd, c, 0, 0x80, 0, 0, 7, false⟩
/-- `loaded` with module 1 of link a as given. -/
def modIs (a : Nat) (f : Module → Module) : State := loaded.modMod a 1 f
/-- Module 1 of link 0 up, its last frame received numbered 0x1FF. -/
def framed : State := modIs 0 (fun m => {m with st := .up, rx := {m.rx with rxSeq := some 0x1FF}})
/-- A training in which every lane and stave passes, of an advanced and of a standard package. -/
def okTry : TrainTry := ⟨List.replicate 64 ⟨15, 150, 0⟩, List.replicate 64 ⟨15, 150, 0⟩⟩
def okTryStd : TrainTry := ⟨List.replicate 16 ⟨15, 150, 0⟩, List.replicate 16 ⟨15, 150, 0⟩⟩
/-- A state with the NIs of the hub's services open. -/
def served (s : State) : State :=
  (List.range 16).foldl (fun (s : State) i => s.modNi (0x100 + i) (fun n => {n with eng := false, ready := true})) s
/-- A state with one NI's bung engaged. -/
def shut (i : Nat) (s : State) : State := s.modNi i (fun n => {n with eng := true})
/-- `loaded` of a package with populated grafts, the NIs of site 13 open and its gate as given. -/
def grafted (f : Gate → Gate) : State :=
  {(List.range 8).foldl (fun (s : State) i => s.modNi (niSite 13 i) (fun n => {n with eng := false, ready := true})) (served loaded) with fuses := {loaded.fuses with code := .p12g4, populated := 0xFFFF}}.modGate 13 f
/-- `grafted` with its modules trained and its admission due. -/
def admits : State := (grafted (fun g => {g with st := .admitting})).modLink 13
  (fun l => {l with mod := (List.range 8).map (fun m => (m, {st := .up, rx := {spd := 1}}))})
/-- `loaded` with the link block a as given. -/
def linkIs (a : Nat) (f : LinkDie → LinkDie) : State := loaded.modLink a f
/-- `home` with cask 0 readable, endpoint IOA as given. -/
def epIs (f : HostEp → HostEp) : State :=
  ((List.range 4).foldl (fun (s : State) i => s.modNi (niEp .ioa i) (fun n => {n with eng := false, ready := true}))
    (home {poisBase := false})).modEp .ioa f
/-- IOA with its link up, Bus Master Enable, MSI-X on, a segment of cask 0, and one read sent to PCIe. -/
def epUp (h : HostEp) : HostEp :=
  {h with linkUp := true, started := true, perst := false, bme := true, msixEn := true, seg := [(0, 1)]}
/-- A read of 8 B by a core, and its entry in the outbound queue, sent. -/
def hwRead : HwReq := ⟨0x10, 7, 2, false, 0x1000, 8, []⟩
def sentEntry : Outb := .req ⟨5, hwRead, 0, true, 1, 5, none⟩
/-- `home` with a readable cask 0, queue 3 (ring at 0x1000, cached) of context 1, and context 5 FREE with legal fields. -/
def hubIs (q : Queue → Queue) (f : Hubm → Hubm) : State :=
  ((home {poisBase := false}).modHub (fun h => {h with
    queue := [(3, q {ctx := 1, kind := 1, state := .on, rbase := 0x1000, sline := 0x2000, cbase := 0x3000})],
    ctx := h.ctx ++ [(5, {smask := 1, slice := 2})],
    tcache := [⟨1, tcBank 0x1000 1, 12, 1, 1, 1, 12, 0, true, true, true, true, true, true, true⟩] })).modHub f
/-- Context 1 as given. -/
def ctxIs (f : Ctx → Ctx) : State := (hubIs (fun q => q) (fun h => h)).modCtx 1 f
/-- `hubIs` with slice 7 as given and slice command block 2 free, its arguments PA 0 and 1,024 B. -/
def sliceIs (f : Slice) : State := hubIs (fun q => q) (fun h => {h with
  slice := h.slice ++ [(7, f)], scmd := [(2, {arg1 := BitVec.ofNat 64 (1024 * 2 ^ 32)})] })
/-- `home` with a readable cask 0 and the twin port as given, and a fused kit whose feature is in force. -/
def twinIs (f : Twin) : State := {home {poisBase := false} with fuses := {kit := 9, serial := 5}, twin := f}
/-- A session: paired, with its four keys, as the given role. -/
def session (role : Nat) : Twin := {
  st := .paired, lanes := true, role := role, keys := [1, 2, 3, 4], afo := true,
  partner := some ⟨7, 9, 5, 1, 1⟩, nonce := 3, entry := [(2, BitVec.ofNat 64 (2 ^ 48 + 1))] }
/-- A heartbeat that echoes number 4. -/
def beat : HbMsg := ⟨8, 0, 4, 0, 0, true, 0, 1, 1, 0⟩

/-! ### The manual's worked examples -/

/-- The FP32 value nearest to n hundredths. -/
def hundredths (n : Int) : XV := fp32.decode (fp32.narrowQ .rne false (decide (n < 0)) n.natAbs 100 0).1

/-- One MXFP4 block: its scale, its element bytes in address order, and no flag (worked example of 03, R72, R77). -/
theorem test_mx_block : (fmtCode 0xA).map (fun f =>
      let r := f.mxEncode .rne true ([100, -240, 1130, 50, -900, 500, 700, 30, -60, 310, -600, 200, -125, 440, -360, 810,
        0, -90, 290, -480, 170, -770, 660, -20, 300, -550, 990, -150, 80, -200, 400, -1050].map hundredths)
      (r.1, leBytes 16 (packNat 4 r.2.1), r.2.2.toNat)) =
    some (0x80, [0xA1, 0x07, 0x4E, 0x06, 0x39, 0x2D, 0x49, 0x6C, 0x90, 0xC3, 0xE2, 0x85, 0xD3, 0xA6, 0xA1, 0xF4], 0) := by
  decide +kernel

/-- The same block with +Inf and `sat` 0: scale 0xFF, every element 0, `of` (worked example of 03). -/
theorem test_mx_block_inf : (fmtCode 0xA).map (fun f =>
      let r := f.mxEncode .rne false [hundredths 100, .inf false]
      (r.1, r.2.1, r.2.2.toNat)) = some (0xFF, [0, 0], 2) := by decide +kernel

/-- Two partitions merged: outputs 0.8 and 0.6, λ = 5.321928 (worked example of 05, R155). -/
theorem test_merge : mergeRow ([0x3F000000, 0x3F800000], 0x40A00000) ([0x40000000, 0xBF800000], 0x40400000) =
    ([0x3F4CCCCD, 0x3F19999A], 0x40AA4D3C) := by decide +kernel

/-- `dkv a0, a1` is 0x00B5107B (05, after the encodings). -/
theorem test_dkv_word : wd 0x7B 0 1 10 11 0 = 0x00B5107B := by decide +kernel

/-- A read of C04 from K03: its L2 module, its source and its destination NI (worked example of 08, R45, R219, R221). -/
theorem test_read_path : l2Module 0x3B2F4E1A40 = 2 ∧ niSite 4 (l2Module 0x3B2F4E1A40) = 0x022
    ∧ memNi (0x3B2F4E1A40 / 2 ^ 36) (0x3B2F4E1A40 % 2 ^ 36) = 0x099 := by decide +kernel

/-- The same read's route north and its west-first detour (worked example of 08, R230, R231). -/
theorem test_read_routes : up.routeValid 0x022 0x099 0x000002 [0, 1] = true
    ∧ up.routeValid 0x022 0x099 0x0110B1 [0, 1] = true ∧ up.routeValid 0x022 0x099 0x000003 [0, 1] = false := by decide +kernel

/-- Position 11 of cluster 6 on C09 is asked for over the network: accepted (status 0), and OD
0x2319.14 reads 2 (worked example of
19, R492, R503). -/
theorem test_spare_asked :
    let t := nx (exec (.write (.net 5 7) ⟨0x4243, 1, 0x131, 0x2319, 0x13, 0, 2, 2, [0x6B, 0x00], 26⟩) loaded)
    (t.dieOf 9).substRes = 2 ∧ t.out.head? = some (.book (.net 5 7) 2 0x131 0x2319 0x13 0 0 2 []) := by decide +kernel

/-- `CLMAP` of a cluster whose spare serves position 11 (worked example of 19, R54). -/
theorem test_clmap : ({subPos := 11, subEn := true, spareOk := true, retired := 2 ^ 11} : Cluster).reg = 0x0040003B := by
  decide +kernel

/-! ### Decidable readings of the hypotheses that are not themselves decidable as they are written -/

theorem forall_ep {P : Ep → Prop} : (∀ e, P e) ↔ P .ioa ∧ P .iob :=
  ⟨fun h => ⟨h _, h _⟩, fun h e => by cases e <;> simp_all⟩

/-- Whether an outcome is this next state. -/
def nextIs (r : Res) (t : State) : Bool := match r with | .next u => decide (u = t) | _ => false
theorem next_iff {r : Res} {t : State} : r = .next t ↔ nextIs r t = true := by cases r <;> simp [nextIs]

theorem twinTakes_iff {s : State} {a : Bool} {n : Nat} : s.TwinTakes a n ↔
    (s.twin.lanes = true ∧ s.twin.st ≠ .disabled ∧ s.twin.keys ≠ [] ∧ a = true
      ∧ (match tfind s.twin.rxSeq (s.twin.inKey 2) with | some m => decide (m < n) | none => true) = true) := by
  constructor
  · rintro ⟨h1, h2, h3, h4, h5⟩
    refine ⟨h1, h2, h3, h4, ?_⟩
    split
    · simp_all
    · rfl
  · rintro ⟨h1, h2, h3, h4, h5⟩
    refine ⟨h1, h2, h3, h4, ?_⟩
    intro m hm
    simpa [hm] using h5

theorem bookTakes_iff {s : State} {ch : CbChan} {op : Nat} {r : CbReq} : s.BookTakes ch op r ↔
    (r.ver = 1 ∧ (op = 2 → r.length.toNat ≤ chanLimit ch) ∧ s.notReady op r.index.toNat r.sub.toNat = false
      ∧ s.boot.recovery = false ∧ (match ch with
        | .mbox e => (s.epOf e).mbox.busy = true
        | .net _ _ => s.bookServed = true ∧ cbMalformed r (op = 2) = false ∧ s.keptFor ch r = none)) := by
  constructor
  · rintro ⟨h1, h2, h3, h4, h5, h6⟩
    refine ⟨h1, h2, h3, h4, ?_⟩
    cases ch <;> simp_all
  · rintro ⟨h1, h2, h3, h4, h5⟩
    refine ⟨h1, h2, h3, h4, ?_, ?_⟩ <;> cases ch <;> simp_all

theorem alone_iff {s : State} {r : HomeReq} {wr : Bool} : Alone s r wr ↔
    ((s.reqStatus r wr).1 = .ok
      ∧ (∀ l ∈ r.homeLines, regionOf (64 * l) = .usable (r.q.pa.toNat / 2 ^ 36) (64 * l % 2 ^ 36))
      ∧ (s.caskOf (r.q.pa.toNat / 2 ^ 36)).mustPark r = false
      ∧ (s.bunged r.q.src.toNat = false ∧ r.q.src ≠ agentNi)
      ∧ (∀ l ∈ r.homeLines, (s.caskOf (r.q.pa.toNat / 2 ^ 36)).dirFind l = none)
      ∧ s.primaryOf r.q.pa.toNat = none ∧ ∀ l ∈ r.homeLines, s.primaryOf (64 * l) = none) :=
  ⟨fun h => ⟨h.1, h.2, h.3, h.4, h.5, h.6⟩, fun h => ⟨h.1, h.2.1, h.2.2.1, h.2.2.2.1, h.2.2.2.2.1, h.2.2.2.2.2⟩⟩

/-- Whether a located piece is neither posted nor a register. -/
def plainLoc (l : LPiece) : Bool := !l.2.posted && match l.2 with | .reg _ => false | _ => true
theorem ready_iff {s : State} {h : Hart} {op : MemOp} {ls : List LPiece} {s' : State} : Ready s h op ls s' ↔
    (s.canIssue h = true
      ∧ (s.coreOf (hartCore h)).vregBusy (hartThr h) (op.vregs (s.thrOf h)).1 (op.vregs (s.thrOf h)).2 = false
      ∧ (op.atomic = true → ∀ p ∈ op.pieces (s.thrOf h), p.va % op.size = 0)
      ∧ s.locateAll h op.acc (op.pieces (s.thrOf h)) = (ls.map (fun l => (l.1, .loc l.2)), s')
      ∧ ls.all plainLoc = true
      ∧ (pieceLines ls).all (fun l => match tfind (s'.dieOf (hartSite h)).l2 l.1 with
        | some ln => !op.excl || decide (ln.st = .m)
        | none => false) = true
      ∧ (s'.gather h ls).2 = false) := by
  have e1 : (∀ l ∈ ls, l.2.posted = false ∧ ∀ o, l.2 ≠ .reg o) ↔ ls.all plainLoc = true := by
    simp only [List.all_eq_true, plainLoc, Bool.and_eq_true, Bool.not_eq_true']
    refine forall_congr' fun l => forall_congr' fun _ => and_congr_right fun _ => ?_
    cases l.2 <;> simp
  have e2 : (∀ l ∈ pieceLines ls, ∃ ln, tfind (s'.dieOf (hartSite h)).l2 l.1 = some ln ∧ (op.excl = true → ln.st = .m)) ↔
      (pieceLines ls).all (fun l => match tfind (s'.dieOf (hartSite h)).l2 l.1 with
        | some ln => !op.excl || decide (ln.st = .m)
        | none => false) = true := by
    simp only [List.all_eq_true]
    refine forall_congr' fun l => forall_congr' fun _ => ?_
    cases tfind (s'.dieOf (hartSite h)).l2 l.1 <;> simp
    cases op.excl <;> simp
  rw [← e1, ← e2]
  exact ⟨fun k => ⟨k.1, k.2, k.3, k.4, k.5, k.6, k.7⟩,
    fun k => ⟨k.1, k.2.1, k.2.2.1, k.2.2.2.1, k.2.2.2.2.1, k.2.2.2.2.2.1, k.2.2.2.2.2.2⟩⟩

theorem okIs_iff {ε α : Type} [DecidableEq α] {x : Except ε α × State} {a : α} {u : State} : x = (.ok a, u) ↔
    (match x with | (.ok b, v) => decide (b = a) && decide (v = u) | _ => false) = true := by
  rcases x with ⟨_ | _, _⟩ <;> simp

theorem notRead_iff {r : WalkRes} : (∀ w, r ≠ .read w) ↔ (match r with | .read _ => false | _ => true) = true := by
  cases r <;> simp

theorem notBell_iff {r : HReg} : (∀ q, r ≠ .bell q) ↔ (match r with | .bell _ => false | _ => true) = true := by
  cases r <;> simp

theorem forall_le2 {n : Nat} {P : Nat → Nat → Prop} :
    (∀ i j, i ≤ n → j ≤ n → P i j) ↔ ∀ i, i ≤ n → ∀ j, j ≤ n → P i j :=
  ⟨fun h i a j b => h i j a b, fun h i j a b => h i a j b⟩

/-- The package out of reset holds nothing in its memories. -/
theorem canonical_of {s : State} (d : s.die = []) (c : s.cask = []) (a : s.ioa = {}) (b : s.iob = {}) : s.Canonical := by
  refine ⟨by simp [d], by simp [c], fun e => ?_⟩
  cases e
  · simp only [State.epOf, a]; decide
  · simp only [State.epOf, b]; decide

theorem idle_dieIs {f : Die → Die} (hf : (f {}).core = []) (g : Hart) : ((dieIs f).thrOf g).wait = .none := by
  have : ∀ x, ((dieIs f).dieOf x).core = [] := by
    intro x
    by_cases h : x = 0
    · subst h; exact hf
    · show (tget {} [(0, f {})] x).core = []
      simp [tget, Ne.symm h] <;> rfl
  show (((dieIs f).coreOf _).thread _).wait = .none
  unfold State.coreOf Die.coreOf
  rw [this]; rfl

theorem clear_iff {ls : List LPiece} {a : Nat} : Clear ls a ↔
    ls.all (fun l => match l.2 with | .scratch o => decide (a < o ∨ o + l.1.len ≤ a) | _ => true) = true := by
  simp only [Clear, List.all_eq_true]
  refine forall_congr' fun l => forall_congr' fun _ => ?_
  cases l.2 <;> simp

/-! ### States and operands that meet the hypotheses of each statement, for each of its clauses -/

/-! `Obligations.StepRunsFront`. -/

theorem witness_StepRunsFront :
    let c : Instr := .halt
    let rest : List Instr := []
    let s : State := {up with pending := [.halt]}
    s.pending = c :: rest := by decide +kernel

/-! `Obligations.StepsComplete`, part EmptyQueueTicks. -/

theorem witness_EmptyQueueTicks_1 :
    let s : State := up
    s.pending = [] ∧ s.boot.running = true ∧ (∀ b ∈ s.trellis.buf, b.2 = []) ∧ s.ioa.later = [] ∧ s.iob.later = [] := by decide +kernel
theorem witness_EmptyQueueTicks_2 :
    let s : State := State.reset
    s.pending = [] ∧ s.boot.running = false := by decide +kernel


/-! `Obligations.QueueKept`. -/

theorem witness_QueueKept :
    let c : Instr := .halt
    let s : State := up
    let t : State := nx (exec .halt up)
    exec c s = .next t := by
  simp only [next_iff]; decide +kernel

/-! `Obligations.MemoryCanonical`. -/

theorem witness_MemoryCanonical :
    let s : State := up
    let t : State := nx (Machine.step up)
    s.Canonical ∧ Machine.step s = .next t := ⟨canonical_of rfl rfl rfl rfl, next_iff.2 (by decide +kernel)⟩


/-! `Obligations.LoadsAndStores`, part AccessesComplete. -/

theorem witness_AccessesComplete_1 :
    let h : Hart := 0
    let n : ILen := .four
    let rd : RegNo := 3
    let rs1 : RegNo := 1
    let rs2 : RegNo := 2
    let imm : BitVec 12 := 0
    let s : State := inScratch
    let s' : State := inScratch
    let ls : List LPiece := [(⟨0, 0x7FFFFFFF00000, 8, 0x7FFFFFFF00000⟩, .scratch 0)]
    let t := s.thrOf h
    (s'.thrOf h).resv ≠ firstKey ls
    ∧ (let dst := .x 3 3 true; dst ≠ .fetch ∧ t.loadLegal dst = true ∧ Ready s h (.load n (t.addr rs1 imm) dst) ls s')
    ∧ (let src := .x 2 3; t.storeLegal src = true ∧ Ready s h (.store n (t.addr rs1 imm) src) ls s')
    ∧ (let dbl := true; Ready s h (.lr rd dbl (t.xr rs1).toNat) ls s')
    ∧ (let dbl := true; Ready s h (.sc rd rs2 dbl (t.xr rs1).toNat) ls s')
    ∧ (let op := .add; let dbl := true; Ready s h (.amo rd rs2 op dbl (t.xr rs1).toNat) ls s') := by
  refine ⟨?_, ?_, ?_, ?_, ?_, ?_⟩ <;> first | decide +kernel | (simp only [ready_iff]; decide +kernel)
theorem witness_AccessesComplete_2 :
    let h : Hart := 0
    let rd : RegNo := 3
    let rs1 : RegNo := 1
    let rs2 : RegNo := 2
    let s : State := (inScratch.modThr 0 (fun t => {t.setCsr Csr.mstatus 0x2000 with resv := some 0}))
    let s' : State := (inScratch.modThr 0 (fun t => {t.setCsr Csr.mstatus 0x2000 with resv := some 0}))
    let ls : List LPiece := [(⟨0, 0x7FFFFFFF00000, 8, 0x7FFFFFFF00000⟩, .scratch 0)]
    let t := s.thrOf h
    let dbl := true
    Ready s h (.sc rd rs2 dbl (t.xr rs1).toNat) ls s' ∧ (s'.thrOf h).resv = firstKey ls := by
  simp only [ready_iff]; decide +kernel

/-! `Obligations.LoadsAndStores`, part StoreFrame. -/

theorem witness_StoreFrame :
    let h : Hart := 0
    let op : MemOp := .store .four 0x7FFFFFFF00000 (.x 2 3)
    let s : State := inScratch
    let s' : State := inScratch
    let ls : List LPiece := [(⟨0, 0x7FFFFFFF00000, 8, 0x7FFFFFFF00000⟩, .scratch 0)]
    op.acc ≠ .read ∧ op.acc ≠ .fetch ∧ Ready s h op ls s' ∧ (let c := 0; let a := 8; (c ≠ hartCore h ∨ Clear ls a))
    ∧ (let x := 0; let l := 5; (x ≠ hartSite h ∨ (∀ p ∈ pieceLines ls, p.1 ≠ l))) := by
  simp only [ready_iff, clear_iff]; decide +kernel

/-! `Obligations.LoadsAndStores`, part ScratchStoreReadsBack. -/

theorem witness_ScratchStoreReadsBack :
    let h : Hart := 0
    let rs1 : RegNo := 1
    let lg : Fin 4 := 3
    let imm : BitVec 12 := 0
    let s : State := inScratch
    let i : Nat := 7
    let va := ((s.thrOf h).addr rs1 imm)
    s.canIssue h = true ∧ (s.thrOf h).pmpOk .write va (2 ^ lg.val) = true ∧ 0x7FFFFFFF00000 ≤ va
    ∧ va + 2 ^ lg.val ≤ 0x7FFFFFFF80000 ∧ va % 4096 + 2 ^ lg.val ≤ 4096 ∧ (s.coreOf (hartCore h)).scratch.wf
    ∧ i < 2 ^ lg.val := by decide +kernel

/-! `Obligations.ThreadControl`, part FencesAndWfi. -/

theorem witness_FencesAndWfi_1 :
    let h : Hart := 0
    let pred : BitVec 4 := 15
    let s : State := up
    s.canIssue h = true
    ∧ (pred.toNat / 4 = 0 ∨ (s.dieOf (hartSite h)).posted.any (fun p => p.hart = h && p.wr) = false)
    ∧ (s.thrOf h).priv ≠ 0 ∧ (¬((s.thrOf h).priv = 1 ∧ (s.thrOf h).csrBits Csr.mstatus 21 21 = 1)) := by decide +kernel
theorem witness_FencesAndWfi_2 :
    let h : Hart := 0
    let pred : BitVec 4 := 15
    let s : State := (dieIs (fun d => {d with posted := [⟨1, 0, none, true, 0, 8, true, none, 0xE0, [], true, 0, true⟩]}))
    s.canIssue h = true ∧ pred.toNat / 4 ≠ 0 ∧ (s.dieOf (hartSite h)).posted.any (fun p => p.hart = h && p.wr) = true := by decide +kernel

/-! `Obligations.ThreadControl`, part CsrCompletes. -/

theorem witness_CsrCompletes :
    let h : Hart := 0
    let op : CsrOp := .rw
    let src : CsrSrc := .reg 2
    let csr : BitVec 12 := 0x340
    let s : State := inScratch
    s.canIssue h = true ∧ csrCounts csr.toNat = false ∧ (s.thrOf h).csrLegal csr.toNat (csrWrites op src) = true := by decide +kernel

/-! `Obligations.ThreadControl`, part SpecialCsrWrites. -/

theorem witness_SpecialCsrWrites_1 :
    let h : Hart := 0
    let s : State := inScratch
    s.canIssue h = true ∧ (s.thrOf h).priv = 3 := by decide +kernel
theorem witness_SpecialCsrWrites_2 :
    let h : Hart := 0
    let s : State := (thrIs (fun t => {t with priv := 0}))
    s.canIssue h = true ∧ (s.thrOf h).priv.toNat < 3 := by decide +kernel

/-! `Obligations.ThreadControl`, part CoreLocalRegisters. -/

theorem witness_CoreLocalRegisters_1 :
    let h : Hart := 0
    let off : BitVec 16 := 8
    let lg : Fin 4 := 3
    let s : State := up
    s.canIssue h = true ∧ lg.val = 3 ∧ off.toNat % 8 = 0 ∧ off.toNat < 0x200
    ∧ (let kind : LocalKind := .amo; (kind = .amo ∨ kind = .vstore ∨ (kind = .store ∧ (lg.val ≠ 3 ∨ off.toNat % 8 ≠ 0 ∨ 0x200 ≤ off.toNat)))) := by decide +kernel
theorem witness_CoreLocalRegisters_2 :
    let h : Hart := 0
    let off : BitVec 16 := 0x1F8
    let lg : Fin 4 := 3
    let s : State := up
    let kind : LocalKind := .vload
    s.canIssue h = true ∧ (kind = .vload ∨ (kind = .load ∧ (lg.val ≠ 3 ∨ off.toNat % 8 ≠ 0 ∨ 0x200 ≤ off.toNat))) := by decide +kernel

/-! `Obligations.TimersAndResponses`, part LocalTimerAndInterrupt. -/

theorem witness_LocalTimerAndInterrupt_1 :
    let h : Hart := 0
    let s : State := (thrIs (fun t => {((t.setCsr Csr.mie 0x10000).setCsr Csr.mip 0x10000).setCsr Csr.mideleg 0x10000 with priv := 0, pc := 0x1000}))
    s.now < (s.thrOf h).ltcmp.toNat ∧ (s.thrOf h).wait = .none ∧ s.siteHalted (hartSite h) = false
    ∧ (s.coreOf (hartCore h)).saving = false ∧ (let i := 16; (s.thrOf h).irqPick s.now = some i) := by decide +kernel
theorem witness_LocalTimerAndInterrupt_2 :
    let h : Hart := 0
    let s : State := (thrIs (fun t => {t.setCsr Csr.mie 0x20000 |>.setCsr Csr.mip 0x20000 |>.setCsr Csr.mstatus 8 with ltcmp := 0, pc := 0x1000}))
    (s.thrOf h).ltcmp.toNat ≤ s.now := by decide +kernel
theorem witness_LocalTimerAndInterrupt_3 :
    let h : Hart := 0
    let s : State := up
    (s.thrOf h).irqPick s.now = none := by decide +kernel

/-! `Obligations.TimersAndResponses`, part ResponsesArrive. -/

theorem witness_ResponsesArrive_1 :
    let h : Hart := 0
    let tag : BitVec 12 := 5
    let poison : Bool := true
    let v : Sector := 7
    let s : State := (dieIs (fun d => {d with miss := [(⟨5, 0, none, 64, true, 0, 0x1008, true⟩ : Miss), ⟨6, 0, none, 65, true, 0, 0x1008, true⟩]}))
    let x := hartSite h
    let d := s.dieOf x
    (∀ g, (s.thrOf g).wait = .none) ∧ poison = true
    ∧ d.posted.find? (fun p => p.tag = tag.toNat && p.hart = h && p.wr && p.sent) = none
    ∧ (let m := (⟨5, 0, none, 64, true, 0, 0x1008, true⟩ : Miss); d.miss.find? (fun m => m.tag = tag.toNat && m.hart = h) = some m)
    ∧ (let m := (⟨5, 0, none, 64, true, 0, 0x1008, true⟩ : Miss); let t : State := nx (exec (.coreResponse h tag .ok poison [v]) s); let q := (⟨6, 0, none, 65, true, 0, 0x1008, true⟩ : Miss); d.miss.find? (fun m => m.tag = tag.toNat && m.hart = h) = some m ∧ q ∈ (t.dieOf x).miss) := 
  ⟨fun g => idle_dieIs rfl g, by decide +kernel⟩
theorem witness_ResponsesArrive_2 :
    let h : Hart := 0
    let tag : BitVec 12 := 5
    let s : State := (dieIs (fun d => {d with posted := [(⟨5, 0, none, true, 0, 8, false, none, 0xE0, [], true, 0x2000, true⟩ : Posted)]}))
    let x := hartSite h
    let d := s.dieOf x
    let p := (⟨5, 0, none, true, 0, 8, false, none, 0xE0, [], true, 0x2000, true⟩ : Posted)
    d.miss.find? (fun m => m.tag = tag.toNat && m.hart = h) = none
    ∧ d.posted.find? (fun p => p.tag = tag.toNat && p.hart = h && !p.wr && p.sent && p.data.isNone) = some p
    ∧ s.current p.own = true ∧ p.live = true ∧ (∀ g, (s.thrOf g).wait = .none) := 
  ⟨by decide +kernel, by decide +kernel, by decide +kernel, by decide +kernel, fun g => idle_dieIs rfl g⟩
theorem witness_ResponsesArrive_3 :
    let h : Hart := 0
    let tag : BitVec 12 := 5
    let st : Status := .timeout
    let s : State := (loaded.modDie 0 (fun d => {d with posted := [(⟨5, 0, some (1, 0), true, 0, 8, true, none, 0xE0, [], true, 0, true⟩ : Posted)]}))
    let x := hartSite h
    let d := s.dieOf x
    d.miss.find? (fun m => m.tag = tag.toNat && m.hart = h) = none
    ∧ d.posted.find? (fun p => p.tag = tag.toNat && p.hart = h && !p.wr && p.sent && p.data.isNone) = none ∧ st ≠ .ok
    ∧ (s.thrOf h).wait = .none ∧ d.held = [] ∧ (∀ q ∈ d.posted, q.sent = true)
    ∧ (let p := (⟨5, 0, some (1, 0), true, 0, 8, true, none, 0xE0, [], true, 0, true⟩ : Posted); let c := 1; let n := 0; d.posted.find? (fun p => p.tag = tag.toNat && p.hart = h && p.wr && p.sent) = some p ∧ s.current p.own = true ∧ p.own = some (c, n))
    ∧ (let p := (⟨5, 0, some (1, 0), true, 0, 8, true, none, 0xE0, [], true, 0, true⟩ : Posted); d.posted.find? (fun p => p.tag = tag.toNat && p.hart = h && p.wr && p.sent) = some p ∧ s.current p.own = true) := by decide +kernel
theorem witness_ResponsesArrive_4 :
    let h : Hart := 0
    let tag : BitVec 12 := 5
    let st : Status := .refused
    let s : State := ((dieIs (fun d => {d with miss := [(⟨5, 0, none, 64, true, 0, 0x1008, true⟩ : Miss)]})).modThr 0 (fun t => {t with wait := .mem (.load .four 0x1000 (.x 3 3 true))}))
    let x := hartSite h
    let d := s.dieOf x
    let m := (⟨5, 0, none, 64, true, 0, 0x1008, true⟩ : Miss)
    let op := (.load .four 0x1000 (.x 3 3 true) : MemOp)
    d.miss.find? (fun m => m.tag = tag.toNat && m.hart = h) = some m ∧ st ≠ .ok ∧ m.live = true
    ∧ s.current m.own = true ∧ (s.thrOf h).wait = .mem op ∧ ((∀ g, g ≠ h → (s.thrOf g).wait = .none)) := 
  ⟨by decide +kernel, by decide +kernel, by decide +kernel, by decide +kernel, by decide +kernel, fun g hg => by
    rw [State.thrOf_modThr_ne _ _ hg]; exact idle_dieIs rfl g⟩

/-! `Obligations.PressIssues`. -/

theorem witness_PressIssues_1 :
    let row : Hart → BitVec 32 → Instr := .pzero
    let h : Hart := 0
    let w : BitVec 32 := (wd 0x0B 1 2 0 0 0)
    let k : PKind := .zero
    let s : State := inScratch
    let c := s.coreOf (hartCore h)
    let e := capture c (hartThr h) w
    row ∈ pressRows ∧ s.canIssue h = true ∧ pkind w = some k ∧ k ≠ .wait ∧ pressLicensed s.boot.feat.toNat k e = true
    ∧ pressCheck k e = none ∧ c.room k = true := by
  refine ⟨by simp [pressRows], ?_⟩
  decide +kernel
theorem witness_PressIssues_2 :
    let row : Hart → BitVec 32 → Instr := .pzero
    let h : Hart := 0
    let w : BitVec 32 := (wd 0x0B 1 2 0 0 0)
    let k : PKind := .zero
    let s : State := (pressing (List.replicate 16 (entry 0 (wd 0x0B 1 2 0 0 0) false)))
    let c := s.coreOf (hartCore h)
    let e := capture c (hartThr h) w
    row ∈ pressRows ∧ s.canIssue h = true ∧ pkind w = some k ∧ k ≠ .wait ∧ pressLicensed s.boot.feat.toNat k e = true
    ∧ pressCheck k e = none ∧ c.room k = false := by
  refine ⟨by simp [pressRows], ?_⟩
  decide +kernel

/-! `Obligations.PressIssues`, part PressTraps. -/

theorem witness_PressTraps :
    let row : Hart → BitVec 32 → Instr := .pld
    let h : Hart := 0
    let w : BitVec 32 := (wd 0x0B 1 2 1 0 1)
    let k : PKind := .ld
    let s : State := (thrIs (fun t => {t with x := [(1, 0x7FFFFFFF00004)]}))
    let cause : Cause := .loadMisaligned
    let v : Word := 0x7FFFFFFF00004
    let c := s.coreOf (hartCore h)
    row ∈ pressRows ∧ s.canIssue h = true ∧ pkind w = some k ∧ k ≠ .wait
    ∧ pressLicensed s.boot.feat.toNat k (capture c (hartThr h) w) = true
    ∧ pressCheck k (capture c (hartThr h) w) = some (cause, v) := by
  refine ⟨by simp [pressRows], ?_⟩
  decide +kernel

/-! `Obligations.PressIssues`, part PwaitWaits. -/

theorem witness_PwaitWaits_1 :
    let h : Hart := 0
    let w : BitVec 32 := (wd 0x0B 0 4 0 0 0)
    let s : State := inScratch
    let c := s.coreOf (hartCore h)
    s.canIssue h = true ∧ pkind w = some .wait ∧ c.queue = [] := by decide +kernel
theorem witness_PwaitWaits_2 :
    let h : Hart := 0
    let w : BitVec 32 := (wd 0x0B 0 4 0 0 0)
    let s : State := (pressing [entry 0 (wd 0x0B 1 2 0 0 0) true])
    let c := s.coreOf (hartCore h)
    s.canIssue h = true ∧ pkind w = some .wait ∧ c.queue ≠ [] := by decide +kernel

/-! `Obligations.PressRuns`. -/

theorem witness_PressRuns_1 :
    let c : CoreId := 0
    let s : State := (pressing [entry 0 (wd 0x0B 2 2 0 0 0) true, entry 1 (wd 0x0B 3 0 1 1 0) false])
    let before : List PEntry := [entry 0 (wd 0x0B 2 2 0 0 0) true]
    let e : PEntry := entry 1 (wd 0x0B 3 0 1 1 0) false
    let rest : List PEntry := []
    s.siteHalted (c.val / 256) = false ∧ (s.coreOf c.val).queue = before ++ e :: rest
    ∧ (∀ b ∈ before, b.started = true) ∧ e.started = false ∧ mayStart before e = true := by decide +kernel
theorem witness_PressRuns_2 :
    let c : CoreId := 0
    let s : State := (pressing [entry 0 (wd 0x0B 1 2 0 0 0) true])
    let i : Fin 16 := 0
    let e : PEntry := entry 0 (wd 0x0B 1 2 0 0 0) true
    s.siteHalted (c.val / 256) = false ∧ mayComplete (s.coreOf c.val).queue i.val = some e := by decide +kernel

/-! `Obligations.PressRuns`, part PzeroClearsTile. -/

theorem witness_PzeroClearsTile :
    let e : PEntry := entry 0 (wd 0x0B 1 2 0 0 0) true
    pkind e.w = some .zero := by decide +kernel

/-! `Obligations.ConversionsAndVectors`, part ConversionsComplete. -/

theorem witness_ConversionsComplete :
    let row : Hart → BitVec 32 → Instr := .vpackX
    let h : Hart := 0
    let w : BitVec 32 := (wd 0x2B 2 0 0 4 0x18)
    let t' : Thread := (((vecs.thrOf 0).convert true (wd 0x2B 2 0 0 4 0x18)).getD ({}, {})).1
    let fl : PFlags := (((vecs.thrOf 0).convert true (wd 0x2B 2 0 0 4 0x18)).getD ({}, {})).2
    let s : State := vecs
    row ∈ convRows ∧ s.canIssue h = true ∧ (s.thrOf h).convert (bit s.boot.feat.toNat 2) w = some (t', fl)
    ∧ (s.coreOf (hartCore h)).vregBusy (hartThr h) ((s.thrOf h).convRegs w).1 ((s.thrOf h).convRegs w).2 = false := by
  refine ⟨by simp [convRows], ?_⟩
  decide +kernel

/-! `Obligations.ConversionsAndVectors`, part VectorCompletes. -/

theorem witness_VectorCompletes_1 :
    let h : Hart := 0
    let w : BitVec 32 := 0x022081D7
    let s : State := vecs
    let t' := (((vecs).thrOf 0).vinstr 0x022081D7).getD {}
    s.canIssue h = true
    ∧ (s.coreOf (hartCore h)).vregBusy (hartThr h) ((s.thrOf h).vinstrRegs w).1 ((s.thrOf h).vinstrRegs w).2 = false
    ∧ (s.thrOf h).vinstr w = some t' := by decide +kernel
theorem witness_VectorCompletes_2 :
    let h : Hart := 0
    let w : BitVec 32 := 0x022081D7
    let s : State := inScratch
    s.canIssue h = true
    ∧ (s.coreOf (hartCore h)).vregBusy (hartThr h) ((s.thrOf h).vinstrRegs w).1 ((s.thrOf h).vinstrRegs w).2 = false
    ∧ (s.thrOf h).vinstr w = none := by decide +kernel

/-! `Obligations.Barriers`, part BarrierArrives. -/

theorem witness_BarrierArrives_1 :
    let h : Hart := 0
    let w : BitVec 32 := (wd 0x5B 3 0 1 0 0)
    let r : RWord := rword (wd 0x5B 3 0 1 0 0)
    let s : State := (loaded.modDie 0 (fun d => {d with barLocal := [(5, 1)]}))
    let x := hartSite h
    let ch := ((s.thrOf h).xr (regNo r.rs1)).toNat
    let n := tget 0 (s.dieOf x).barCount ch + 1
    let last := tget 0 (s.dieOf x).barLocal ch
    s.canIssue h = true ∧ s.chanOk h ch = true ∧ ((s.thrOf h).barIn && (s.thrOf h).lbChan.toNat = ch) = false
    ∧ (s.barOf ch).broken = false ∧ n ≤ last ∧ barWord w 0 = some r ∧ (s.dieOf x).writesOf h = [] := by decide +kernel
theorem witness_BarrierArrives_2 :
    let h : Hart := 0
    let w : BitVec 32 := (wd 0x5B 3 1 1 0 0)
    let r : RWord := rword (wd 0x5B 3 1 1 0 0)
    let s : State := (loaded.modDie 0 (fun d => {d with barLocal := [(5, 2)]}))
    let x := hartSite h
    let ch := ((s.thrOf h).xr (regNo r.rs1)).toNat
    let n := tget 0 (s.dieOf x).barCount ch + 1
    let last := tget 0 (s.dieOf x).barLocal ch
    s.canIssue h = true ∧ s.chanOk h ch = true ∧ ((s.thrOf h).barIn && (s.thrOf h).lbChan.toNat = ch) = false
    ∧ (s.barOf ch).broken = false ∧ n ≤ last ∧ barWord w 1 = some r ∧ (s.dieOf x).writesOf h = [] := by decide +kernel
theorem witness_BarrierArrives_3 :
    let h : Hart := 0
    let w : BitVec 32 := (wd 0x5B 3 0 1 0 0)
    let r : RWord := rword (wd 0x5B 3 0 1 0 0)
    let s : State := ((loaded.modDie 0 (fun d => {d with barLocal := [(5, 1)]})).modDie 0 (fun d => {d with posted := [⟨9, 0, none, true, 0x1000, 8, true, none, 0x16, [], true, 0x1000, true⟩]}))
    let x := hartSite h
    let ch := ((s.thrOf h).xr (regNo r.rs1)).toNat
    let n := tget 0 (s.dieOf x).barCount ch + 1
    let last := tget 0 (s.dieOf x).barLocal ch
    s.canIssue h = true ∧ s.chanOk h ch = true ∧ ((s.thrOf h).barIn && (s.thrOf h).lbChan.toNat = ch) = false
    ∧ (s.barOf ch).broken = false ∧ n ≤ last ∧ barWord w 0 = some r ∧ (s.dieOf x).writesOf h ≠ [] := by decide +kernel

/-! `Obligations.Barriers`, part BarrierTests. -/

theorem witness_BarrierTests_1 :
    let h : Hart := 0
    let w : BitVec 32 := (wd 0x5B 3 2 1 2 0)
    let r : RWord := rword (wd 0x5B 3 2 1 2 0)
    let s : State := (loaded.modDie 0 (fun d => {d with barLocal := [(5, 1)]}))
    let ch := ((s.thrOf h).xr (regNo r.rs1)).toNat
    s.canIssue h = true ∧ s.chanOk h ch = true ∧ barWord w 2 = some r := by decide +kernel
theorem witness_BarrierTests_2 :
    let h : Hart := 0
    let w : BitVec 32 := (wd 0x5B 3 3 1 2 0)
    let r : RWord := rword (wd 0x5B 3 3 1 2 0)
    let s : State := (loaded.modDie 0 (fun d => {d with barLocal := [(5, 1)]}))
    let ch := ((s.thrOf h).xr (regNo r.rs1)).toNat
    let asked := bit ((s.thrOf h).xr (regNo r.rs2)).toNat 0
    let ph := (s.dieOf (hartSite h)).phase ch
    s.canIssue h = true ∧ s.chanOk h ch = true ∧ barWord w 3 = some r ∧ (s.barOf ch).broken = false ∧ ph ≠ asked := by decide +kernel
theorem witness_BarrierTests_3 :
    let h : Hart := 0
    let w : BitVec 32 := (wd 0x5B 3 3 1 3 0)
    let r : RWord := rword (wd 0x5B 3 3 1 3 0)
    let s : State := (loaded.modDie 0 (fun d => {d with barLocal := [(5, 1)]}))
    let ch := ((s.thrOf h).xr (regNo r.rs1)).toNat
    let asked := bit ((s.thrOf h).xr (regNo r.rs2)).toNat 0
    let ph := (s.dieOf (hartSite h)).phase ch
    s.canIssue h = true ∧ s.chanOk h ch = true ∧ barWord w 3 = some r ∧ (s.barOf ch).broken = false ∧ ph = asked := by decide +kernel

/-! `Obligations.Barriers`, part BarrierFabric. -/

theorem witness_BarrierFabric_1 :
    let chan : Byte := 5
    let x : Site := 0
    let s : State := loaded
    let ch := chan.toNat
    (s.barOf ch).armed = true ∧ (s.barOf ch).broken = false ∧ (s.barOf ch).msgs.contains x = false
    ∧ (s.barOf ch).dies ≤ (s.barOf ch).msgs.length + 1
    ∧ (let who : Who := .mgd; (who.mgmt = true ∨ who.driver = true))
    ∧ (let phase := true; (s.dieOf x.val).phase ch ≠ phase) := by decide +kernel
theorem witness_BarrierFabric_2 :
    let chan : Byte := 5
    let x : Site := 0
    let s : State := {loaded with bar := [(5, {armed := true, dies := 2})]}
    let ch := chan.toNat
    (s.barOf ch).armed = true ∧ (s.barOf ch).broken = false ∧ (s.barOf ch).msgs.contains x = false
    ∧ (s.barOf ch).msgs.length + 1 < (s.barOf ch).dies := by decide +kernel

/-! `Obligations.Fences`, part FenceInstructions. -/

theorem witness_FenceInstructions_1 :
    let h : Hart := 0
    let w : BitVec 32 := (wd 0x5B 0 4 1 2 0)
    let r : RWord := rword (wd 0x5B 0 4 1 2 0)
    let s : State := loaded
    let n := ((s.thrOf h).xr (regNo r.rs1)).toNat
    s.canIssue h = true ∧ barWord w 4 = some r ∧ s.fenceOk h n false = true ∧ (s.dieOf (hartSite h)).writesOf h = [] := by decide +kernel
theorem witness_FenceInstructions_2 :
    let h : Hart := 0
    let w : BitVec 32 := (wd 0x5B 0 4 1 2 0)
    let r : RWord := rword (wd 0x5B 0 4 1 2 0)
    let s : State := (loaded.modDie 0 (fun d => {d with posted := [⟨9, 0, none, true, 0x1000, 8, true, none, 0x16, [], true, 0x1000, true⟩]}))
    let n := ((s.thrOf h).xr (regNo r.rs1)).toNat
    s.canIssue h = true ∧ barWord w 4 = some r ∧ s.fenceOk h n false = true ∧ (s.dieOf (hartSite h)).writesOf h ≠ [] := by decide +kernel
theorem witness_FenceInstructions_3 :
    let h : Hart := 0
    let w : BitVec 32 := (wd 0x5B 3 6 1 0 0)
    let r : RWord := rword (wd 0x5B 3 6 1 0 0)
    let s : State := loaded
    let n := ((s.thrOf h).xr (regNo r.rs1)).toNat
    s.canIssue h = true ∧ barWord w 6 = some r ∧ s.fenceOk h n true = true := by decide +kernel
theorem witness_FenceInstructions_4 :
    let h : Hart := 0
    let w : BitVec 32 := (wd 0x5B 3 5 1 0 0)
    let r : RWord := rword (wd 0x5B 3 5 1 0 0)
    let s : State := loaded
    let n := ((s.thrOf h).xr (regNo r.rs1)).toNat
    let target := (s.thrOf h).xr (regNo r.rs2)
    s.canIssue h = true ∧ barWord w 5 = some r ∧ s.fenceOk h n true = true ∧ target.toNat ≤ (s.fenceOf n).value.toNat
    ∧ fenceReserved target = false := by decide +kernel
theorem witness_FenceInstructions_5 :
    let h : Hart := 0
    let w : BitVec 32 := (wd 0x5B 3 5 1 2 0)
    let r : RWord := rword (wd 0x5B 3 5 1 2 0)
    let s : State := loaded
    let n := ((s.thrOf h).xr (regNo r.rs1)).toNat
    let target := (s.thrOf h).xr (regNo r.rs2)
    let sl := (s.coreSlice (hartCore h)).getD 64
    s.canIssue h = true ∧ barWord w 5 = some r ∧ s.fenceOk h n true = true ∧ (s.fenceOf n).value.toNat < target.toNat
    ∧ (s.fenceOf n).aband = false ∧ (s.fenceOf n).armed = true ∧ (s.fenceOf n).slice.val = sl := by decide +kernel
theorem witness_FenceInstructions_6 :
    let h : Hart := 0
    let w : BitVec 32 := (wd 0x5B 3 5 1 2 0)
    let r : RWord := rword (wd 0x5B 3 5 1 2 0)
    let s : State := {loaded with hub := {loaded.hub with fence := [(5, {value := 2, slice := 2, armed := true, aband := true})]}}
    let n := ((s.thrOf h).xr (regNo r.rs1)).toNat
    let target := (s.thrOf h).xr (regNo r.rs2)
    let sl := (s.coreSlice (hartCore h)).getD 64
    s.canIssue h = true ∧ barWord w 5 = some r ∧ s.fenceOk h n true = true ∧ (s.fenceOf n).value.toNat < target.toNat
    ∧ ((s.fenceOf n).aband = true ∨ (s.fenceOf n).armed = false ∨ (s.fenceOf n).slice.val ≠ sl) := by decide +kernel

/-! `Obligations.Fences`, part FenceSignals. -/

theorem witness_FenceSignals_1 :
    let f : FenceId := 5
    let v : Word := 3
    let s : State := loaded
    let o := s.fenceOf f.val
    let g := 6
    fenceReserved v = false ∧ o.armed = true ∧ o.aband = false ∧ o.value.toNat < v.toNat ∧ g ≠ f.val := by decide +kernel
theorem witness_FenceSignals_2 :
    let v : Word := 0xFFFFFFFFFFFFFFFF
    fenceReserved v = true := by decide +kernel
theorem witness_FenceSignals_3 :
    let f : FenceId := 6
    let v : Word := 3
    let s : State := loaded
    let o := s.fenceOf f.val
    fenceReserved v = false ∧ (o.armed = false ∨ o.aband = true) := by decide +kernel
theorem witness_FenceSignals_4 :
    let f : FenceId := 5
    let v : Word := 2
    let s : State := loaded
    let o := s.fenceOf f.val
    fenceReserved v = false ∧ o.armed = true ∧ o.aband = false ∧ v.toNat ≤ o.value.toNat := by decide +kernel

/-! `Obligations.Clusters`, part ClusterMaps. -/

theorem witness_ClusterMaps_1 :
    let who : Who := .mgd
    let x : Site := 0
    let n : Fin 16 := 1
    let v : Word := 0x305
    let s : State := up
    let c := s.clusterOf x.val n.val
    let c' := {c with subPos := BitVec.ofNat 4 v.toNat, subEn := bit v.toNat 4}
    let barred := (bit v.toNat 4 && !c.spareOk) || (List.range 16).any (fun p => c.serving p ≠ c'.serving p && ((s.coreOf (posCore x.val n.val p)).ctx.isSome || c.isRetired (c'.serving p)))
    s.isGraft x.val = false ∧ who.mgmt = true ∧ bit v.toNat 9 = true ∧ bits v.toNat 8 4 ≤ 16 ∧ barred = false := by decide +kernel
theorem witness_ClusterMaps_2 :
    let who : Who := .host .ioa
    let x : Site := 3
    let s : State := up
    s.isGraft x.val = false ∧ who.mgmt = false := by decide +kernel
theorem witness_ClusterMaps_3 :
    let who : Who := .hubctl
    let x : Site := 0
    let n : Fin 16 := 1
    let v : Word := 0x15
    let s : State := (dieIs (fun d => {d with cluster := [(1, {spareOk := false})]}))
    let c := s.clusterOf x.val n.val
    let c' := {c with subPos := BitVec.ofNat 4 v.toNat, subEn := bit v.toNat 4}
    let barred := (bit v.toNat 4 && !c.spareOk) || (List.range 16).any (fun p => c.serving p ≠ c'.serving p && ((s.coreOf (posCore x.val n.val p)).ctx.isSome || c.isRetired (c'.serving p)))
    s.isGraft x.val = false ∧ who.mgmt = true ∧ barred = true := by decide +kernel

/-! `Obligations.Clusters`, part SpareSubstitution. -/

theorem witness_SpareSubstitution_1 :
    let x : Site := 0
    let cl : Fin 16 := 1
    let pos : Fin 16 := 15
    let got : BitVec 128 := 7
    let s : State := {(dieIs (fun d => {d with cluster := [(1, {subst := .selftest 15 false})]})) with avail := {blockN := 3}}
    let c := s.clusterOf x.val cl.val
    s.isGraft x.val = false ∧ s.siteHalted x.val = false ∧ c.subst = .selftest pos false
    ∧ (s.coreOf (posCore x.val cl.val pos.val)).ctx = none ∧ s.clusterFrozen x.val cl.val = false
    ∧ got.toNat % 2 ^ s.avail.blockN = 2 ^ s.avail.blockN - 1
    ∧ (let pass := false; (pass = false ∨ (c.isRetired 16 = false ∧ got.toNat % 2 ^ s.avail.blockN ≠ 2 ^ s.avail.blockN - 1))) := by decide +kernel
theorem witness_SpareSubstitution_2 :
    let x : Site := 0
    let cl : Fin 16 := 1
    let s : State := {up with avail := {blockN := 3}}
    let c := s.clusterOf x.val cl.val
    s.isGraft x.val = false ∧ (s.dieOf x.val).substRes ≠ 1 ∧ (s.dieOf x.val).substRes ≠ 2 ∧ c.subst = .idle
    ∧ c.spareFree = true ∧ s.clusterFrozen x.val cl.val = false := by decide +kernel
theorem witness_SpareSubstitution_3 :
    let x : Site := 0
    let cl : Fin 16 := 1
    let s : State := {{up with hub := {up.hub with slice := [(2, {state := .frozen, cmask := 2})]}} with avail := {blockN := 3}}
    let c := s.clusterOf x.val cl.val
    s.isGraft x.val = false ∧ (s.dieOf x.val).substRes ≠ 1 ∧ (s.dieOf x.val).substRes ≠ 2 ∧ c.subst = .idle
    ∧ c.spareFree = true ∧ s.clusterFrozen x.val cl.val = true := by decide +kernel

/-! `Obligations.Clusters`, part CoreTests. -/

theorem witness_CoreTests_1 :
    let x : Site := 0
    let cl : Fin 16 := 1
    let s : State := (dieIs (fun d => {d with cluster := [(1, {testing := some 16})]}))
    let c := s.clusterOf x.val cl.val
    let ph := 16
    s.siteHalted x.val = false ∧ c.testing = some ph ∧ c.subEn = false ∧ ph ≤ 16 := by decide +kernel
theorem witness_CoreTests_2 :
    let x : Site := 0
    let cl : Fin 16 := 1
    let pos : Fin 16 := 15
    let s : State := up
    let c := s.clusterOf x.val cl.val
    s.isGraft x.val = false ∧ s.siteHalted x.val = false ∧ c.testing = none ∧ c.subst = .idle
    ∧ c.isRetired (c.serving pos.val) = false ∧ (s.coreOf (posCore x.val cl.val pos.val)).ctx = none := by decide +kernel

/-! `Obligations.DieConditions`, part ZoneTrip. -/

theorem witness_ZoneTrip_1 :
    let x : Site := 0
    let temps : List Int := [1000, 900, 900, 900, 900, 900, 900, 900]
    let s : State := up
    let hot := temps.foldl max (nth 0 temps 0)
    let i := 255
    s.isGraft x.val = false ∧ temps.length = 8 ∧ 1000 ≤ hot ∧ hot < 1100 ∧ i < 256 := by decide +kernel
theorem witness_ZoneTrip_2 :
    let x : Site := 0
    let temps : List Int := [900, 900, 900, 900, 900, 900, 900, 1100]
    let s : State := (up.modGate 0 (fun g => {g with powered := true}))
    let hot := temps.foldl max (nth 0 temps 0)
    s.isGraft x.val = false ∧ temps.length = 8 ∧ 1100 ≤ hot ∧ s.power.critical.contains (dieSite x.val) = false := by decide +kernel
theorem witness_ZoneTrip_3 :
    let x : Site := 0
    let temps : List Int := [950, 900, 900, 900, 900, 900, 900, 900]
    let s : State := (dieIs (fun d => {d with tripped := true, n := 8}))
    let hot := temps.foldl max (nth 0 temps 0)
    s.isGraft x.val = false ∧ temps.length = 8 ∧ hot ≤ 950 := by decide +kernel

/-! `Obligations.DieConditions`, part GovernorBounds. -/

theorem witness_GovernorBounds :
    let x : Site := 0
    let s : State := (dieIs (fun d => {d with n := 12, tripped := true, zone := [(0, 1000)]}))
    s.isGraft x.val = false ∧ 8 ≤ (s.dieOf x.val).n ∧ (s.dieOf x.val).n ≤ 16 ∧ (s.dieOf x.val).tripped = true
    ∧ (s.dieOf x.val).zone.any (fun z => 950 < z.2) = true := by decide +kernel

/-! `Obligations.DieConditions`, part DroopAndTags. -/

theorem witness_DroopAndTags :
    let x : Site := 0
    let bank : Fin 16 := 3
    let set : BitVec 12 := 5
    let s : State := (dieIs (fun d => {d with l2 := [(86, ⟨.s, 0, false, 0⟩)]}))
    s.isGraft x.val = false ∧ (∃ l ∈ (s.dieOf x.val).l2, inL2Set l.1 bank.val set.toNat = true)
    ∧ (let i := 33; i < 256) := by decide +kernel

/-! `Obligations.ContextMoves`, part ContextScheduled. -/

theorem witness_ContextScheduled :
    let x : CtxId := 7
    let s : State := {loaded with hub := {loaded.hub with ctx := loaded.hub.ctx ++ [(7, {state := .live, slice := 2, smask := 1, want := some 0, prio := 1})]}}
    s.placeable x.val = true ∧ s.hub.ctx.any (fun c => c.2.before (s.ctxOf x.val) && s.servable c.1) = false
    ∧ s.freeFor x.val ≠ [] := by decide +kernel

/-! `Obligations.ContextMoves`, part ContextTimers. -/

theorem witness_ContextTimers :
    let c : CoreId := 0
    let x : CtxId := 1
    let s : State := loaded
    (s.coreOf c.val).ctx = some x := by decide +kernel

/-! `Obligations.Engines`, part EngineTileIssued. -/

theorem witness_EngineTileIssued_1 :
    let row : (EngId → Instr) × Nat := (.zero, 3)
    let e : EngId := 0
    let d : Desc := zeroing 64 0 0
    let d' : Desc := (match (((withDescs [zeroing 64 0 0])).eTile (zeroing 64 0 0) 0 (zeroing 64 0 0).issued).1 with | .ok d => d | _ => zeroing 64 0 0)
    let s : State := (withDescs [zeroing 64 0 0])
    let u : State := (((withDescs [zeroing 64 0 0])).eTile (zeroing 64 0 0) 0 (zeroing 64 0 0).issued).2
    row ∈ engineRows ∧ s.onEngine e = some d ∧ d.op = row.2 ∧ s.descFrozen d = false ∧ s.mustYield e d = false
    ∧ d.issued < d.tileCount ∧ d.issued - d.tiles < 8 ∧ s.agentWaits (1 + e.val) = false ∧ s.bunged (engNi e) = false
    ∧ s.eTile d e d.issued = (.ok d', u) := by
  refine ⟨by simp [engineRows], ?_⟩
  simp only [okIs_iff]; decide +kernel
theorem witness_EngineTileIssued_2 :
    let row : (EngId → Instr) × Nat := (.zero, 3)
    let e : EngId := 0
    let d : Desc := zeroing 0x80000 8 0
    let s : State := (withDescs [zeroing 0x80000 8 0])
    row ∈ engineRows ∧ s.onEngine e = some d ∧ d.op = row.2 ∧ s.descFrozen d = false ∧ s.mustYield e d = false
    ∧ (d.tileCount ≤ d.issued ∨ 8 ≤ d.issued - d.tiles ∨ s.agentWaits (1 + e.val) = true) := by
  refine ⟨by simp [engineRows], ?_⟩
  decide +kernel

/-! `Obligations.Engines`, part EngineTileCommits. -/

theorem witness_EngineTileCommits_1 :
    let e : EngId := 0
    let d : Desc := zeroing 0x20000 1 0
    let s : State := (((withDescs [zeroing 0x20000 1 0]).modCask 0 (fun c => {c with parked := [⟨.wri, ⟨0, 0, 0, 0, 7⟩, [0], 0, 1, false⟩]})))
    s.onEngine e = some d ∧ s.agentWaits (1 + e.val) = true := by decide +kernel
theorem witness_EngineTileCommits_2 :
    let e : EngId := 0
    let d : Desc := zeroing 0x200000 16 9
    let s : State := (withDescs [zeroing 0x200000 16 9, {descr (.queue 9) 0x13 0 64 .queued 0 0 with id := 1}])
    s.onEngine e = some d ∧ d.tiles < d.issued ∧ d.tiles + 1 < d.tileCount ∧ s.agentWaits (1 + e.val) = false
    ∧ 0 < d.issued - d.base ∧ (d.issued - d.base) % 16 = 0 ∧ s.engineWanted e d = true := by decide +kernel
theorem witness_EngineTileCommits_3 :
    let e : EngId := 0
    let d : Desc := zeroing 64 1 0
    let s : State := (withDescs [zeroing 64 1 0])
    s.onEngine e = some d ∧ d.tiles < d.issued ∧ d.tileCount ≤ d.tiles + 1 ∧ s.agentWaits (1 + e.val) = false := by decide +kernel
theorem witness_EngineTileCommits_4 :
    let e : EngId := 0
    let d : Desc := descr .firmware 7 0 0 (.running 0) 0 0
    let s : State := (withDescs [descr .firmware 7 0 0 (.running 0) 0 0])
    s.onEngine e = some d ∧ d.op = 7 ∧ s.descFrozen d = false := by decide +kernel

/-! `Obligations.Engines`, part DescriptorDispatch. -/

theorem witness_DescriptorDispatch_1 :
    let q : QId := 8
    let e : EngId := 0
    let d : Desc := ({descr (.queue 8) 0x8FF3 0 64 .queued 0 0 with w := [0x8FF3, 0, 0, 64, 0, 0, 0, 0]})
    let s : State := (let z := (withDescs [({descr (.queue 8) 0x8FF3 0 64 .queued 0 0 with w := [0x8FF3, 0, 0, 64, 0, 0, 0, 0]})]); {z with hub := {z.hub with desc := z.hub.desc}})
    s.nextDesc (.queue q) = some d ∧ s.onEngine e = none ∧ s.descFrozen d = false ∧ s.srcStarts d = true
    ∧ d.st = .queued ∧ s.descFences d = false := by decide +kernel
theorem witness_DescriptorDispatch_2 :
    let q : QId := 9
    let e : EngId := 0
    let d : Desc := ({descr (.queue 9) 3 0 64 .queued 0 0 with w := [3, 0, 0, 64, 0, 0, 0, 0]})
    let s : State := (let z := (withDescs [({descr (.queue 9) 3 0 64 .queued 0 0 with w := [3, 0, 0, 64, 0, 0, 0, 0]})]); {z with hub := {z.hub with desc := z.hub.desc}})
    s.nextDesc (.queue q) = some d ∧ s.onEngine e = none ∧ s.descFrozen d = false ∧ s.srcStarts d = true
    ∧ d.st = .queued ∧ s.descFences d = true ∧ s.descWait d = some 0 ∧ d.legal s.boot.feat.toNat s.isGraft = false := by decide +kernel
theorem witness_DescriptorDispatch_3 :
    let q : QId := 9
    let e : EngId := 0
    let d : Desc := ({descr (.queue 9) 0xFF3 0 64 .queued 0 0 with w := [0xFF3, 0, 0, 64, 0, 0, 0, 0]})
    let s : State := (let z := (withDescs [({descr (.queue 9) 0xFF3 0 64 .queued 0 0 with w := [0xFF3, 0, 0, 64, 0, 0, 0, 0]})]); {z with hub := {z.hub with desc := z.hub.desc}})
    let u : State := (((let z := (withDescs [({descr (.queue 9) 0xFF3 0 64 .queued 0 0 with w := [0xFF3, 0, 0, 64, 0, 0, 0, 0]})]); {z with hub := {z.hub with desc := z.hub.desc}})).anchor (({descr (.queue 9) 0xFF3 0 64 .queued 0 0 with w := [0xFF3, 0, 0, 64, 0, 0, 0, 0]}))).2
    let a := .faults
    s.nextDesc (.queue q) = some d ∧ s.onEngine e = none ∧ s.descFrozen d = false ∧ s.srcStarts d = true
    ∧ d.st = .queued ∧ s.descFences d = true ∧ s.descWait d = some 0 ∧ d.legal s.boot.feat.toNat s.isGraft = true
    ∧ s.anchor d = (a, u) ∧ (a = .cask (e.val / 8) ∨ a = .faults) ∧ s.nextQueue (e.val / 8) = d.queue := by decide +kernel
theorem witness_DescriptorDispatch_4 :
    let q : QId := 9
    let e : EngId := 0
    let d : Desc := ({descr (.queue 9) 0xFF7 0 64 .queued 0 0 with w := [0xFF7, 0, 0, 0, 0, 0, 0, 0]})
    let s : State := (let z := (withDescs [({descr (.queue 9) 0xFF7 0 64 .queued 0 0 with w := [0xFF7, 0, 0, 0, 0, 0, 0, 0]})]); {z with hub := {z.hub with desc := z.hub.desc}})
    let u : State := (((let z := (withDescs [({descr (.queue 9) 0xFF7 0 64 .queued 0 0 with w := [0xFF7, 0, 0, 0, 0, 0, 0, 0]})]); {z with hub := {z.hub with desc := z.hub.desc}})).anchor (({descr (.queue 9) 0xFF7 0 64 .queued 0 0 with w := [0xFF7, 0, 0, 0, 0, 0, 0, 0]}))).2
    s.nextDesc (.queue q) = some d ∧ s.onEngine e = none ∧ s.descFrozen d = false ∧ s.srcStarts d = true
    ∧ d.st = .queued ∧ s.descFences d = true ∧ s.descWait d = some 0 ∧ d.legal s.boot.feat.toNat s.isGraft = true
    ∧ s.anchor d = (.any, u) := by decide +kernel
theorem witness_DescriptorDispatch_5 :
    let q : QId := 9
    let e : EngId := 0
    let d : Desc := ({descr (.queue 9) 0x10003 0 64 .queued 0 0 with w := [0x10003, 0, 0, 64, 0, 0, 5, 0]})
    let s : State := (let z := (withDescs [({descr (.queue 9) 0x10003 0 64 .queued 0 0 with w := [0x10003, 0, 0, 64, 0, 0, 5, 0]})]); {z with hub := {z.hub with fence := [(0, {armed := true, slice := 2})]}})
    s.nextDesc (.queue q) = some d ∧ s.onEngine e = none ∧ s.descFrozen d = false ∧ s.srcStarts d = true
    ∧ d.st = .queued ∧ s.descFences d = true ∧ s.descWait d = none := by decide +kernel
theorem witness_DescriptorDispatch_6 :
    let q : QId := 9
    let e : EngId := 0
    let d : Desc := ({descr (.queue 9) 0x10003 0 64 .queued 0 0 with w := [0x10003, 0, 0, 64, 0, 0, 5, 0]})
    let s : State := (let z := (withDescs [({descr (.queue 9) 0x10003 0 64 .queued 0 0 with w := [0x10003, 0, 0, 64, 0, 0, 5, 0]})]); {z with hub := {z.hub with fence := []}})
    s.nextDesc (.queue q) = some d ∧ s.onEngine e = none ∧ s.descFrozen d = false ∧ s.srcStarts d = true
    ∧ d.st = .queued ∧ s.descFences d = true ∧ s.descWait d = some 1 := by decide +kernel
theorem witness_DescriptorDispatch_7 :
    let q : QId := 9
    let e : EngId := 0
    let d : Desc := ({descr (.queue 9) 0x7800FF3 0 64 .queued 0 0 with w := [0x7800FF3, 0, 0, 64, 0, 0, 0, 0]})
    let s : State := (let z := (withDescs [({descr (.queue 9) 0x7800FF3 0 64 .queued 0 0 with w := [0x7800FF3, 0, 0, 64, 0, 0, 0, 0]})]); {z with hub := {z.hub with tcache := [⟨1, 1, 12, 0, 0xC000000, 0, 12, 0, true, true, true, true, true, true, true⟩]}})
    let u : State := (((let z := (withDescs [({descr (.queue 9) 0x7800FF3 0 64 .queued 0 0 with w := [0x7800FF3, 0, 0, 64, 0, 0, 0, 0]})]); {z with hub := {z.hub with tcache := [⟨1, 1, 12, 0, 0xC000000, 0, 12, 0, true, true, true, true, true, true, true⟩]}})).anchor (({descr (.queue 9) 0x7800FF3 0 64 .queued 0 0 with w := [0x7800FF3, 0, 0, 64, 0, 0, 0, 0]}))).2
    s.nextDesc (.queue q) = some d ∧ s.onEngine e = none ∧ s.descFrozen d = false ∧ s.srcStarts d = true
    ∧ d.st = .queued ∧ s.descFences d = true ∧ s.descWait d = some 0 ∧ d.legal s.boot.feat.toNat s.isGraft = true
    ∧ s.anchor d = (.bad, u) := by decide +kernel
theorem witness_DescriptorDispatch_8 :
    let e : EngId := 0
    let fw : List (List Word) := [[0x400FF3, 0, 0, 64]]
    let s : State := (withDescs [])
    let u : State := ((withDescs []).modHub (fun h => {h with descId := h.descId + 1, desc := [⟨0, .firmware, 0, [0x400FF3, 0, 0, 64, 0, 0, 0, 0], 0, .queued, 0, 0, 0, {}, 0, 0, false, 0, []⟩]}))
    let w := [0x400FF3, 0, 0, 64]
    let ws := []
    let n : Desc := ⟨s.hub.descId, .firmware, s.hub.descId, fit 0 8 w, 0, .queued, 0, 0, 0, {}, 0, 0, false, 0, []⟩
    let z := s.modHub (fun h => {h with fwq := ws, descId := h.descId + 1, desc := h.desc ++ [n]})
    s.hub.fwq ++ fw = w :: ws ∧ s.descsOf .firmware = [] ∧ z.onEngine e = none ∧ n.waits = false
    ∧ n.legal s.boot.feat.toNat s.isGraft = true ∧ z.anchor n = (.cask (e.val / 8), u) := by decide +kernel

/-! `Obligations.Engines`, part DescriptorCompletes. -/

theorem witness_DescriptorCompletes_1 :
    let src : DescSrc := .firmware
    let d : Desc := {descr .firmware 0x400003 0 64 .ended 0 0 with status := 0}
    let ds : List Desc := []
    let s : State := (withDescs [descr .firmware 0x400003 0 64 .ended 0 0])
    s.descsOf src = d :: ds ∧ d.st = .ended ∧ s.descFrozen d = false
    ∧ ((∀ q, d.queue = some q → (s.queueOf q).stalled = false)) ∧ d.queue = none ∧ (d.sig = false ∨ d.status ≠ 0) := by decide +kernel
theorem witness_DescriptorCompletes_2 :
    let src : DescSrc := .firmware
    let d : Desc := descr .firmware 0x408003 0 64 .ended 0 0
    let ds : List Desc := []
    let s : State := (withDescs [descr .firmware 0x408003 0 64 .ended 0 0])
    s.descsOf src = d :: ds ∧ d.st = .ended ∧ s.descFrozen d = false
    ∧ ((∀ q, d.queue = some q → (s.queueOf q).stalled = false)) ∧ d.queue = none ∧ d.sig = true ∧ d.status = 0 := by decide +kernel

/-! `Obligations.HomeReads`. -/

theorem witness_HomeReads_1 :
    let row : (HReq → Instr) × TOp := (.rd, .rd)
    let q : HReq := hreq 1
    let x : Site := 0
    let s : State := (home {poisBase := false})
    let r : HomeReq := ⟨row.2, q, [], 0, 0, false⟩
    let c := s.caskAt q.pa
    (row ∈ [((.rd : HReq → Instr), TOp.rd), (.rds, .rds), (.rdx, .rdx)]) ∧ Alone s r false
    ∧ niSiteOf q.src.toNat = some x.val ∧ s.caching x.val = true ∧ (∀ l ∈ r.lines, (c.freeWay l).isSome) ∧ row.2 = .rd
    ∧ (let i := 1; let a := c.loc (64 * (q.pa.toNat / 64 + i) % 2 ^ 36 / 64); i ≤ q.len.val ∧ c.poisoned a = false ∧ tget 0 c.ktag a = q.kslot.val) := by
  refine ⟨by simp, ?_⟩
  simp only [alone_iff]; decide +kernel
theorem witness_HomeReads_2 :
    let row : (HReq → Instr) × TOp := (.rds, .rds)
    let q : HReq := hreq 1
    let x : Site := 0
    let s : State := (home {})
    let r : HomeReq := ⟨row.2, q, [], 0, 0, false⟩
    let c := s.caskAt q.pa
    Alone s r false ∧ niSiteOf q.src.toNat = some x.val ∧ s.caching x.val = true
    ∧ (∀ l ∈ r.lines, (c.freeWay l).isSome) ∧ row.2 ≠ .rd
    ∧ (let i := 1; let a := c.loc (64 * (q.pa.toNat / 64 + i) % 2 ^ 36 / 64); i ≤ q.len.val ∧ c.poisoned a = true)
    ∧ (let l := 64; (∀ l ∈ r.lines, (c.freeWay l).isSome) ∧ l ∈ r.lines) := by
  simp only [alone_iff]; decide +kernel
theorem witness_HomeReads_3 :
    let row : (HReq → Instr) × TOp := (.rd, .rd)
    let q : HReq := hreq 1
    let x : Site := 0
    let s : State := (home {poisBase := false, ktag := [(65, 3)]})
    let r : HomeReq := ⟨row.2, q, [], 0, 0, false⟩
    let c := s.caskAt q.pa
    let i := 1
    let a := c.loc (64 * (q.pa.toNat / 64 + i) % 2 ^ 36 / 64)
    (row ∈ [((.rd : HReq → Instr), TOp.rd), (.rds, .rds), (.rdx, .rdx)]) ∧ Alone s r false
    ∧ niSiteOf q.src.toNat = some x.val ∧ s.caching x.val = true ∧ (∀ l ∈ r.lines, (c.freeWay l).isSome)
    ∧ i ≤ q.len.val ∧ c.poisoned a = false ∧ tget 0 c.ktag a ≠ q.kslot.val ∧ q.kslot.val = 0 := by
  refine ⟨by simp, ?_⟩
  simp only [alone_iff]; decide +kernel

/-! `Obligations.HomeWrites`. -/

theorem witness_HomeWrites :
    let q : HReq := hreq 1
    let data : List Sector := [5, 6]
    let s : State := (home {})
    let c := s.caskAt q.pa
    let sec := fun i => 64 * (q.pa.toNat / 64 + i) % 2 ^ 36 / 64
    c.mem.wf ∧ Alone s ⟨.wrpoi, q, [], 0, 0, false⟩ true
    ∧ ((∀ i j, i ≤ q.len.val → j ≤ q.len.val → c.loc (sec i) = c.loc (sec j) → i = j))
    ∧ (let row := ((.wr, .wr) : (HReq → List Sector → Instr) × TOp); let i := 1; ((∀ i j, i ≤ q.len.val → j ≤ q.len.val → c.loc (sec i) = c.loc (sec j) → i = j)) ∧ Alone s ⟨row.2, q, data, 0, 0, false⟩ true ∧ i ≤ q.len.val)
    ∧ (let i := 1; ((∀ i j, i ≤ q.len.val → j ≤ q.len.val → c.loc (sec i) = c.loc (sec j) → i = j)) ∧ i ≤ q.len.val)
    ∧ (let x : Site := 0; niSiteOf q.src.toNat = some x.val) := by
  simp only [alone_iff, forall_le2]; decide +kernel

/-! `Obligations.HomeWrites`, part HomeUpdates. -/

theorem witness_HomeUpdates_1 :
    let q : HReq := hreq 0
    let mask : List Word := [0xFF]
    let data : List Sector := [0x1122334455667788]
    let operand : Sector := BitVec.ofNat 512 (5 + 2 ^ 136 * 8)
    let s : State := (home {})
    let c := s.caskAt q.pa
    let a := c.loc (secOf q.pa)
    c.mem.wf ∧ Alone s ⟨.wrp, q, data, nth 0 mask 0, 0, false⟩ true ∧ c.poisoned a = true
    ∧ nth 0 mask 0 ≠ BitVec.allOnes 64 ∧ Alone s ⟨.amo, q, [operand], 0, 0, false⟩ true ∧ amoApply operand 0 ≠ none := by
  simp only [alone_iff]; decide +kernel
theorem witness_HomeUpdates_2 :
    let q : HReq := hreq 0
    let mask : List Word := [BitVec.allOnes 64]
    let data : List Sector := [5]
    let operand : Sector := 0
    let s : State := (home {})
    let c := s.caskAt q.pa
    c.mem.wf ∧ Alone s ⟨.wrp, q, data, nth 0 mask 0, 0, false⟩ true ∧ nth 0 mask 0 = BitVec.allOnes 64
    ∧ (s.reqStatus ⟨.amo, q, [operand], 0, 0, false⟩ true).1 = .ok ∧ amoApply operand 0 = none ∧ q.src ≠ agentNi := by
  simp only [alone_iff]; decide +kernel
theorem witness_HomeUpdates_3 :
    let q : HReq := hreq 0
    let mask : List Word := [0xFF]
    let data : List Sector := [0x1122334455667788]
    let operand : Sector := BitVec.ofNat 512 (5 + 2 ^ 136 * 8)
    let s : State := (home {poisBase := false})
    let c := s.caskAt q.pa
    let a := c.loc (secOf q.pa)
    let ks := q.kslot.val
    c.mem.wf ∧ Alone s ⟨.wrp, q, data, nth 0 mask 0, 0, false⟩ true ∧ c.poisoned a = false ∧ tget 0 c.ktag a = ks
    ∧ Alone s ⟨.amo, q, [operand], 0, 0, false⟩ true ∧ amoApply operand 0 ≠ none
    ∧ (let old := ((amoApply (BitVec.ofNat 512 (5 + 2 ^ 136 * 8)) 0).getD (0, 0)).1; let new := ((amoApply (BitVec.ofNat 512 (5 + 2 ^ 136 * 8)) 0).getD (0, 0)).2; amoApply operand (c.raw a) = some (old, new)) := by
  simp only [alone_iff]; decide +kernel

/-! `Obligations.HomeWrites`, part WriteBacksAndTraces. -/

theorem witness_WriteBacksAndTraces_1 :
    let q : HReq := hreq 0
    let data : List Sector := [9]
    let x : Site := 0
    let sink : Fin 4 := 0
    let s : State := (home ownedLine)
    let c := s.caskAt q.pa
    let line := q.pa.toNat / 64
    let w : HomeReq := ⟨.wb, q, [sectorAt data 0], 0, 0, false⟩
    let k := s.sinkOf sink.val
    niSiteOf q.src.toNat = some x.val ∧ q.len = 0 ∧ (s.reqStatus w true).1 = .ok ∧ c.mem.wf
    ∧ regionOf q.pa.toNat = .usable (q.pa.toNat / 2 ^ 36) (q.pa.toNat % 2 ^ 36) ∧ c.blocked line = false
    ∧ c.dirBad line = false ∧ s.bunged (homeNi q) = false ∧ (s.obs.en.getLsbD 2 = false ∨ k.sen = false)
    ∧ (let i := 1024; let e := ⟨true, 1, 64, 0, .ok⟩; c.dirFind line = some (i, e) ∧ e.m = true ∧ e.holders.getLsbD x.val = true) := by decide +kernel
theorem witness_WriteBacksAndTraces_2 :
    let q : HReq := hreq 0
    let data : List Sector := [9]
    let x : Site := 0
    let s : State := ((home ownedLine).modNi (homeNi (hreq 0)) (fun n => {n with eng := true}))
    let w : HomeReq := ⟨.wb, q, [sectorAt data 0], 0, 0, false⟩
    niSiteOf q.src.toNat = some x.val ∧ q.len = 0 ∧ (s.reqStatus w true).1 ≠ .ok ∧ s.bunged (homeNi q) = true := by decide +kernel
theorem witness_WriteBacksAndTraces_3 :
    let q : HReq := hreq 0
    let data : List Sector := [9]
    let x : Site := 0
    let sink : Fin 4 := 0
    let s : State := {home {} with obs := {en := 4, sink := [(0, {sen := true, nrec := 1024})]}}
    let c := s.caskAt q.pa
    let line := q.pa.toNat / 64
    let w : HomeReq := ⟨.wb, q, [sectorAt data 0], 0, 0, false⟩
    let k := s.sinkOf sink.val
    niSiteOf q.src.toNat = some x.val ∧ q.len = 0 ∧ (s.reqStatus w true).1 = .ok ∧ c.mem.wf
    ∧ regionOf q.pa.toNat = .usable (q.pa.toNat / 2 ^ 36) (q.pa.toNat % 2 ^ 36) ∧ c.blocked line = false
    ∧ c.dirBad line = false ∧ c.dirFind line = none ∧ s.bunged (homeNi q) = false ∧ s.obs.en.getLsbD 2 = true
    ∧ k.sen = true ∧ k.wrap = false ∧ 2 ^ (k.lgsz.toNat - 6) ≤ k.nrec := by decide +kernel
theorem witness_WriteBacksAndTraces_4 :
    let q : HReq := hreq 0
    let sink : Fin 4 := 0
    let s : State := {home {} with obs := {en := 4, sink := [(0, {sen := true, nrec := 1023})]}}
    let k := s.sinkOf sink.val
    s.bunged (homeNi q) = false ∧ s.obs.en.getLsbD 2 = true ∧ k.sen = true
    ∧ (k.wrap = true ∨ k.nrec < 2 ^ (k.lgsz.toNat - 6)) := by decide +kernel

/-! `Obligations.CachingAgents`, part CachingAgentAnswers. -/

theorem witness_CachingAgentAnswers_1 :
    let x : Site := 0
    let pa : PA := 0x1000
    let l : Line := ⟨.s, 9, false, 0⟩
    let s : State := ((home {}).modDie 0 (fun d => {d with l2 := [(64, ⟨.s, 9, false, 0⟩), (65, ⟨.s, 1, true, 0⟩)]}))
    let line := pa.toNat / 64
    s.servesNow x pa ∧ tfind (s.dieOf x.val).l2 line = some l := by
  simp only [State.servesNow]; decide +kernel
theorem witness_CachingAgentAnswers_2 :
    let x : Site := 0
    let pa : PA := 0x1000
    let s : State := (home {poisBase := false})
    let line := pa.toNat / 64
    s.servesNow x pa ∧ tfind (s.dieOf x.val).l2 line = none ∧ tfind (s.dieOf x.val).wbbuf line = none := by
  simp only [State.servesNow]; decide +kernel

/-! `Obligations.CachingAgents`, part DeferredSnoops. -/

theorem witness_DeferredSnoops_1 :
    let x : Site := 0
    let pa : PA := 0x1000
    let s : State := up
    let line := pa.toNat / 64
    let ni := niSite x.val (l2Module pa.toNat)
    s.bunged ni = true ∧ (s.dieOf x.val).miss.any (fun m => m.line = line) = false := by decide +kernel
theorem witness_DeferredSnoops_2 :
    let x : Site := 0
    let pa : PA := 0x1000
    let s : State := (home {}).modDie 0 (fun d => {d with miss := [⟨5, 0, none, 64, true, 0, 0x1000, true⟩]})
    let line := pa.toNat / 64
    let ni := niSite x.val (l2Module pa.toNat)
    s.bunged ni = false ∧ s.isGraft x.val = false ∧ (s.dieOf x.val).miss.any (fun m => m.line = line) = true := by decide +kernel

/-! `Obligations.CachingAgents`, part SecondaryResponses. -/

theorem witness_SecondaryResponses_1 :
    let k : CaskId := 0
    let pa : PA := 0x1000
    let x : Site := 0
    let s : State := (home {poisBase := false, txns := [txnOf .rd]})
    let line := pa.toNat / 64
    (let t := txnOf .rd; (s.caskOf k.val).awaiting line x = some t ∧ t.readsFrom line x = true)
    ∧ (let t := txnOf .rd; let st : Status := .bunged; (s.caskOf k.val).awaiting line x = some t ∧ t.readsFrom line x = true ∧ st ≠ .ok)
    ∧ (let t' : Txn := txnOf .rd; t'.await.isEmpty = false) := by decide +kernel
theorem witness_SecondaryResponses_2 :
    let k : CaskId := 0
    let pa : PA := 0x1000
    let x : Site := 0
    let s : State := (home {poisBase := false, txns := [txnOf .snp]})
    let line := pa.toNat / 64
    let t := txnOf .snp
    let st : Status := .bunged
    (s.caskOf k.val).awaiting line x = some t ∧ t.readsFrom line x = false ∧ st ≠ .ok := by decide +kernel
theorem witness_SecondaryResponses_3 :
    let k : CaskId := 0
    let pa : PA := 0x1000
    let x : Site := 0
    let s : State := (home {poisBase := false})
    let line := pa.toNat / 64
    (s.caskOf k.val).awaiting line x = none := by decide +kernel

/-! `Obligations.ReserveCopies`. -/

theorem witness_ReserveCopies_1 :
    let s : State := {home {poisBase := false} with reserve := [(0, copied)]}
    (let k : CaskId := 0; let src : NI := 0; let tag : BitVec 12 := 7; (s.caskOf k.val).redirs.find? (fun d => d.r.q.src = src && d.r.q.tag = tag) = none)
    ∧ (let i : Fin 512 := 0; let off : BitVec 32 := 64; let r := s.resOf i.val; let pa := r.prim + off.toNat; r.mode ≠ 0 ∧ off.toNat < r.size ∧ (s.caskOf (pa / 2 ^ 36)).sparesLeft ≠ 0)
    ∧ (let who : Who := .hubctl; let i : Fin 512 := 0; let hi : Bool := false; let v : Word := 2; let r := (s.resOf i.val).wrote hi v.toNat; (who.mgmt = true ∨ (who.driver = true ∧ s.bunged (niService 0 3) = false)) ∧ (r.mode = 0 ∨ s.reserveOk i.val r = true)) := by decide +kernel
theorem witness_ReserveCopies_2 :
    let s : State := (home {redirs := [⟨⟨.rd, hreq 0, [], 0, 0, false⟩, [(0, true)], false⟩]})
    (let k : CaskId := 0; let src : NI := 0; let tag : BitVec 12 := 7; let d := ⟨⟨.rd, hreq 0, [], 0, 0, false⟩, [(0, true)], false⟩; (s.caskOf k.val).redirs.find? (fun d => d.r.q.src = src && d.r.q.tag = tag) = some d ∧ d.first = false)
    ∧ (let i : Fin 512 := 0; let off : BitVec 32 := 64; let r := s.resOf i.val; (r.mode = 0 ∨ r.size ≤ off.toNat))
    ∧ (let who : Who := .mgd; let i : Fin 512 := 0; let hi : Bool := false; let v : Word := 1; let r := (s.resOf i.val).wrote hi v.toNat; (who.mgmt = true ∨ (who.driver = true ∧ s.bunged (niService 0 3) = false)) ∧ r.mode ≠ 0 ∧ s.reserveOk i.val r = false ∧ r.prim / 2 ^ 36 < 12) := by decide +kernel
theorem witness_ReserveCopies_3 :
    let s : State := {home {spareDead := List.replicate spareFrames 0} with reserve := [(0, copied)]}
    let i : Fin 512 := 0
    let off : BitVec 32 := 64
    let r := s.resOf i.val
    let pa := r.prim + off.toNat
    r.mode ≠ 0 ∧ off.toNat < r.size ∧ (s.caskOf (pa / 2 ^ 36)).sparesLeft = 0 := by decide +kernel
theorem witness_ReserveCopies_4 :
    let s : State := (home {redirs := [⟨⟨.rd, hreq 0, [], 0, 0, false⟩, [(0, true)], true⟩]})
    let k : CaskId := 0
    let src : NI := 0
    let tag : BitVec 12 := 7
    let st : Status := .ok
    let d := ⟨⟨.rd, hreq 0, [], 0, 0, false⟩, [(0, true)], true⟩
    (s.caskOf k.val).redirs.find? (fun d => d.r.q.src = src && d.r.q.tag = tag) = some d ∧ d.first = true ∧ st = .ok := by decide +kernel
theorem witness_ReserveCopies_5 :
    let s : State := (home {redirs := [⟨⟨.rd, hreq 0, [], 0, 0, false⟩, [(0, true)], true⟩]})
    let k : CaskId := 0
    let src : NI := 0
    let tag : BitVec 12 := 7
    let st : Status := .refused
    let d := ⟨⟨.rd, hreq 0, [], 0, 0, false⟩, [(0, true)], true⟩
    (s.caskOf k.val).redirs.find? (fun d => d.r.q.src = src && d.r.q.tag = tag) = some d ∧ d.first = true ∧ st ≠ .ok := by decide +kernel
theorem witness_ReserveCopies_6 :
    let s : State := (((home {poisBase := false})).modNi (niService 0 3) (fun n => {n with eng := true}))
    let who : Who := .host .ioa
    who.mgmt = false ∧ s.bunged (niService 0 3) = true := by decide +kernel
theorem witness_ReserveCopies_7 :
    let s : State := {home {} with reserve := [(0, copied)]}
    let who : Who := .core 5
    who.mgmt = false ∧ who.driver = false ∧ s.bunged (niService 0 3) = false := by decide +kernel

/-! `Obligations.CaskService`, part CaskUpkeep. -/

theorem witness_CaskUpkeep_1 :
    let rank : Fin 32 := 2
    let bank : Fin 16 := 15
    let temp : Int := 850
    rank.val < 3 ∧ temp < 1000 ∧ (let b := 3; b ≠ 16 * rank.val + bank.val) := by decide +kernel
theorem witness_CaskUpkeep_2 :
    let k : CaskId := 11
    let temp : Int := 1000
    let s : State := up
    1000 ≤ temp ∧ s.power.critical.contains (dieCask k.val) = false := by decide +kernel

/-! `Obligations.CaskService`, part CaskScheduling. -/

theorem witness_CaskScheduling_1 :
    let k : CaskId := 0
    let pc : Fin 32 := 0
    let s : State := (home {pcs {queue := [⟨0, 64, 0, false⟩, ⟨0, 64, 1, false⟩]} with turns := [0], cycle := [(64, 2)]})
    let u := s.modCask k.val (·.turn pc.val)
    let c := u.caskOf k.val
    let p := c.pcOf pc.val
    let r := (⟨0, 64, 0, false⟩ : PcReq)
    c.nextReqs p s.now ≠ [] ∧ (thas s.power.caskThr k.val = false ∨ p.beat = false)
    ∧ (p.queue.erase r).any (fun q => c.rowOf q = c.rowOf r) = true ∧ tfind p.openRow (c.rowOf r).1 = none
    ∧ r ∈ c.nextReqs p s.now ∧ (let b := 7; b ≠ (c.rowOf r).1) := by decide +kernel
theorem witness_CaskScheduling_2 :
    let k : CaskId := 0
    let pc : Fin 32 := 0
    let s : State := (home {})
    let u := s.modCask k.val (·.turn pc.val)
    let c := u.caskOf k.val
    let p := c.pcOf pc.val
    c.nextReqs p s.now = [] := by decide +kernel
theorem witness_CaskScheduling_3 :
    let k : CaskId := 0
    let pc : Fin 32 := 0
    let s : State := {home (pcs {queue := [⟨0, 64, 0, false⟩, ⟨0, 64, 5, true⟩, ⟨3, 2, 9, true⟩], beat := true}) with power := {caskThr := [(0, 0)]}}
    let u := s.modCask k.val (·.turn pc.val)
    let c := u.caskOf k.val
    let p := c.pcOf pc.val
    c.nextReqs p s.now ≠ [] ∧ thas s.power.caskThr k.val = true ∧ p.beat = true := by decide +kernel

/-! `Obligations.CaskRepairs`, part CaskStaves. -/

theorem witness_CaskStaves_1 :
    let k : CaskId := 0
    let pc : Fin 32 := 0
    let ca : Fin 8 := 7
    let margin : Nat := 0
    let s : State := (home {inService := true, pc := [(0, {caErr := List.replicate 15 (7, 0)})]})
    let c := s.caskOf k.val
    let p := c.pcOf pc.val
    let es := (ca.val, s.now) :: p.caErr.filter (fun e => s.now < e.2 + 10 ^ 9)
    let n := (es.filter (fun e => e.1 = ca.val)).length
    c.inService = true ∧ c.fenced = false ∧ c.sparesLeft ≠ 0 ∧ margin < 15 ∧ p.dqStaves < 2 ∧ 16 ≤ n
    ∧ p.caStave = false := by decide +kernel
theorem witness_CaskStaves_2 :
    let k : CaskId := 0
    let pc : Fin 32 := 0
    let ca : Fin 8 := 7
    let margin : Nat := 14
    let s : State := (home {inService := true, pc := [(0, {dqStaves := 2})]})
    let c := s.caskOf k.val
    let p := c.pcOf pc.val
    let es := (ca.val, s.now) :: p.caErr.filter (fun e => s.now < e.2 + 10 ^ 9)
    let n := (es.filter (fun e => e.1 = ca.val)).length
    c.inService = true ∧ c.fenced = false ∧ c.sparesLeft ≠ 0 ∧ margin < 15 ∧ 2 ≤ p.dqStaves ∧ n < 16 := by decide +kernel
theorem witness_CaskStaves_3 :
    let k : CaskId := 0
    let s : State := (home {inService := true, spareDead := List.replicate spareFrames 0})
    let c := s.caskOf k.val
    c.inService = true ∧ c.fenced = false ∧ c.sparesLeft = 0 := by decide +kernel
theorem witness_CaskStaves_4 :
    let k : CaskId := 0
    let pc : Fin 32 := 0
    let margin : Nat := 15
    let s : State := (home {inService := true, pc := [(0, {})]})
    let c := s.caskOf k.val
    c.inService = true ∧ c.fenced = false ∧ c.sparesLeft ≠ 0 ∧ 15 ≤ margin := by decide +kernel

/-! `Obligations.CaskRepairs`. -/

theorem witness_CaskRepairs_1 :
    let k : CaskId := 0
    let s : State := (home {rowUnc := [rowKey ⟨0, 2, 15, 5, 0⟩]})
    let c := s.caskOf k.val
    c.spareChoices ≠ [] ∧ c.sparesLeft ≠ 0 ∧ c.filled = false ∧ c.fenced = false
    ∧ (let frame : BitVec 20 := 737279; frame.toNat < spareBase)
    ∧ (let pc : Fin 32 := 0; let rank : Fin 32 := 2; let bank : Fin 16 := 15; let row : BitVec 14 := 5; let p : Place := ⟨pc.val, rank.val, bank.val, row.toNat, 0⟩; rank.val < 3 ∧ c.rowDue (rowKey p) s.now = true ∧ c.bankUsed (bankKey p) < 8) := by decide +kernel
theorem witness_CaskRepairs_2 :
    let k : CaskId := 0
    let s : State := (home {fenced := true})
    let c := s.caskOf k.val
    (c.filled = true ∨ c.fenced = true) ∧ (let frame : BitVec 20 := 737280; spareBase ≤ frame.toNat)
    ∧ (let pc : Fin 32 := 0; let rank : Fin 32 := 3; let bank : Fin 16 := 15; let row : BitVec 14 := 5; let p : Place := ⟨pc.val, rank.val, bank.val, row.toNat, 0⟩; (3 ≤ rank.val ∨ c.rowDue (rowKey p) s.now = false)) := by decide +kernel

/-! `Obligations.CaskService`, part TrafficGenerator. -/

theorem witness_TrafficGenerator_1 :
    let who : Who := .hubctl
    let k : CaskId := 0
    let pc : Fin 32 := 0
    let ctl : Byte := 0
    let s : State := (home (pcs {tg := {busy := true}}))
    let c := s.caskOf k.val
    let tg := (c.pcOf pc.val).tg
    who.mgmt = true ∧ tg.busy = true ∧ (bit tg.run.ctl.toNat 7 = false ∨ tg.stopping = true) := by decide +kernel
theorem witness_TrafficGenerator_2 :
    let who : Who := .host .ioa
    let k : CaskId := 0
    let pc : Fin 32 := 0
    let ctl : Byte := 0
    let s : State := (home (pcs {tg := {busy := true, run := ⟨0x80, 1, 0, 4⟩}}))
    let c := s.caskOf k.val
    let tg := (c.pcOf pc.val).tg
    who.mgmt = false ∧ (tg.busy = false ∨ (bit tg.run.ctl.toNat 7 = true ∧ tg.stopping = false)) := by decide +kernel

/-! `Obligations.HeaderCode`. -/

theorem witness_HeaderCode :
    let i := 0
    i < 64 ∧ (let j := 7; i < j ∧ j < 63) := by decide +kernel

/-! `Obligations.Routing`, part RouterForwards. -/

theorem witness_RouterForwards_1 :
    (let r : RouterId := (routerId (0)); let p : Plane := 1; let input : Fin 5 := 3; let a : BitVec 56 := (BitVec.ofNat 56 (0 + 2 ^ 24 * 0)); let b : BitVec 56 := 5; let wr : Nat := (wireKey (0) 3 1); let ks : List Pkt := []; let k : Pkt := ⟨((BitVec.ofNat 56 (0 + 2 ^ 24 * 0))).toNat, 5, [], 7⟩; let s : State := ((loaded).modTrellis (fun t => {t with wire := [((wireKey (0) 3 1), [⟨((BitVec.ofNat 56 (0 + 2 ^ 24 * 0))).toNat, 5, [], 7⟩])]})); let h0 := codeHalf a.toNat; let h1 := codeHalf b.toNat; let leg := (List.range 4).find? (fun i => bits a.toNat (6 * i + 3) (6 * i) ≠ 0); let n := 0; let owns := s.ownsAddr n (topOf (bits b.toNat 3 0)) (bit b.toNat 54) (bits b.toNat 53 12); s.obs.en.getLsbD 1 = false ∧ s.trellis.buf = [] ∧ k.h0 = a.toNat ∧ k.h1 = b.toNat ∧ tget [] s.trellis.wire wr = k :: ks ∧ (inputWires r.val input.val p.val).find? (fun w => (tget [] s.trellis.wire w).head?.any (·.seenAs h0 h1 k.data)) = some wr ∧ leg = none ∧ portNi r.val (bits a.toNat 27 24) = some n ∧ bit a.toNat 55 = false ∧ s.bunged n = false ∧ (s.niOf n).record.length < 4096 ∧ bit a.toNat 54 = false ∧ isTaster n = false ∧ owns = true)
    ∧ (let r : RouterId := (routerId (0)); let p : Plane := 1; let input : Fin 5 := 3; let a : BitVec 56 := (BitVec.ofNat 56 (0 + 2 ^ 24 * 0)); let b : BitVec 56 := 5; let wr : Nat := (wireKey (0) 3 1); let ks : List Pkt := []; let k : Pkt := ⟨((BitVec.ofNat 56 (0 + 2 ^ 24 * 0))).toNat, 5, [], 7⟩; let s : State := ((loaded).modTrellis (fun t => {t with wire := [((wireKey (0) 3 1), [⟨((BitVec.ofNat 56 (0 + 2 ^ 24 * 0))).toNat, 5, [], 7⟩])]})); let h0 := codeHalf a.toNat; let h1 := codeHalf b.toNat; let w := (codeHalf 0 ^^^ 3); s.obs.en.getLsbD 1 = false ∧ s.trellis.buf = [] ∧ k.h0 = a.toNat ∧ k.h1 = b.toNat ∧ tget [] s.trellis.wire wr = k :: ks ∧ (decodeHalf w).2 = .bad ∧ (inputWires r.val input.val p.val).find? (fun x => (tget [] s.trellis.wire x).head?.any (·.seenAs w h1 k.data)) = some wr ∧ input.val < 4)
    ∧ (let now : Nat := 1000; let last : Nat := 0; let hs : List Head := [⟨1, ⟨0, 0, [], 0⟩⟩, ⟨2, ⟨0x80000000, 0, [], 5⟩⟩, ⟨3, ⟨0, 0, [], 5⟩⟩]; let h : Head := ((choose 1000 0 [⟨1, ⟨0, 0, [], 0⟩⟩, ⟨2, ⟨0x80000000, 0, [], 5⟩⟩, ⟨3, ⟨0, 0, [], 5⟩⟩]).getD ⟨0, ⟨0, 0, [], 0⟩⟩); let g := ⟨1, ⟨0, 0, [], 0⟩⟩; choose now last hs = some h ∧ (∃ g ∈ hs, g.pkt.since + 256 ≤ now) ∧ g ∈ hs) := by decide +kernel
theorem witness_RouterForwards_2 :
    (let r : RouterId := (routerId (0)); let p : Plane := 1; let input : Fin 5 := 3; let a : BitVec 56 := (BitVec.ofNat 56 (18 + 2 ^ 24 * 0)); let b : BitVec 56 := 5; let wr : Nat := (wireKey (0) 3 1); let ks : List Pkt := []; let k : Pkt := ⟨((BitVec.ofNat 56 (18 + 2 ^ 24 * 0))).toNat, 5, [], 7⟩; let s : State := ((loaded).modTrellis (fun t => {t with wire := [((wireKey (0) 3 1), [⟨((BitVec.ofNat 56 (18 + 2 ^ 24 * 0))).toNat, 5, [], 7⟩])]})); let h0 := codeHalf a.toNat; let h1 := codeHalf b.toNat; let vc := vcOf p.val a.toNat b.toNat; let leg := (List.range 4).find? (fun i => bits a.toNat (6 * i + 3) (6 * i) ≠ 0); let i := 0; let d := bits a.toNat (6 * i + 5) (6 * i + 4); let r' := ((neighbour (0) (bits ((BitVec.ofNat 56 (18 + 2 ^ 24 * 0))).toNat (6 * 0 + 5) (6 * 0 + 4))).getD 0); let next := wireKey r' ((d + 2) % 4) p.val; let room := bufDepth p.val vc (decide (fieldOfRouter r.val ≠ fieldOfRouter r')); s.obs.en.getLsbD 1 = false ∧ s.trellis.buf = [] ∧ k.h0 = a.toNat ∧ k.h1 = b.toNat ∧ tget [] s.trellis.wire wr = k :: ks ∧ (inputWires r.val input.val p.val).find? (fun w => (tget [] s.trellis.wire w).head?.any (·.seenAs h0 h1 k.data)) = some wr ∧ leg = some i ∧ neighbour r.val d = some r' ∧ s.trellis.filled next p.val vc + k.flits ≤ room)
    ∧ (let now : Nat := 100; let last : Nat := 0; let hs : List Head := [⟨1, ⟨0, 0, [], 0⟩⟩, ⟨2, ⟨0x80000000, 0, [], 5⟩⟩, ⟨3, ⟨0, 0, [], 5⟩⟩]; let h : Head := ((choose 100 0 [⟨1, ⟨0, 0, [], 0⟩⟩, ⟨2, ⟨0x80000000, 0, [], 5⟩⟩, ⟨3, ⟨0, 0, [], 5⟩⟩]).getD ⟨0, ⟨0, 0, [], 0⟩⟩); choose now last hs = some h ∧ (∀ g ∈ hs, now < g.pkt.since + 256) ∧ (∃ g ∈ hs, g.vc = 0)) := by decide +kernel
theorem witness_RouterForwards_3 :
    let r : RouterId := (routerId (0))
    let p : Plane := 1
    let input : Fin 5 := 3
    let a : BitVec 56 := (BitVec.ofNat 56 (18 + 2 ^ 24 * 0))
    let b : BitVec 56 := 5
    let wr : Nat := (wireKey (0) 3 1)
    let ks : List Pkt := []
    let k : Pkt := ⟨((BitVec.ofNat 56 (18 + 2 ^ 24 * 0))).toNat, 5, [], 7⟩
    let s : State := ((loaded).modTrellis (fun t => {t with wire := [(wireKey 1 3 1, [⟨0, 0, [0, 0, 0], 0⟩, ⟨0, 0, [0, 0, 0], 0⟩, ⟨0, 0, [0, 0, 0], 0⟩, ⟨0, 0, [0, 0, 0], 0⟩, ⟨0, 0, [0, 0, 0], 0⟩, ⟨0, 0, [0, 0, 0], 0⟩, ⟨0, 0, [0, 0, 0], 0⟩, ⟨0, 0, [0, 0, 0], 0⟩]), ((wireKey (0) 3 1), [⟨((BitVec.ofNat 56 (18 + 2 ^ 24 * 0))).toNat, 5, [], 7⟩])]}))
    let h0 := codeHalf a.toNat
    let h1 := codeHalf b.toNat
    let vc := vcOf p.val a.toNat b.toNat
    let leg := (List.range 4).find? (fun i => bits a.toNat (6 * i + 3) (6 * i) ≠ 0)
    let i := 0
    let d := bits a.toNat (6 * i + 5) (6 * i + 4)
    let r' := ((neighbour (0) (bits ((BitVec.ofNat 56 (18 + 2 ^ 24 * 0))).toNat (6 * 0 + 5) (6 * 0 + 4))).getD 0)
    let next := wireKey r' ((d + 2) % 4) p.val
    let room := bufDepth p.val vc (decide (fieldOfRouter r.val ≠ fieldOfRouter r'))
    s.obs.en.getLsbD 1 = false ∧ s.trellis.buf = [] ∧ k.h0 = a.toNat ∧ k.h1 = b.toNat
    ∧ tget [] s.trellis.wire wr = k :: ks
    ∧ (inputWires r.val input.val p.val).find? (fun w => (tget [] s.trellis.wire w).head?.any (·.seenAs h0 h1 k.data)) = some wr
    ∧ leg = some i ∧ neighbour r.val d = some r' ∧ room < s.trellis.filled next p.val vc + k.flits := by decide +kernel
theorem witness_RouterForwards_4 :
    let r : RouterId := (routerId (11))
    let p : Plane := 1
    let input : Fin 5 := 3
    let a : BitVec 56 := (BitVec.ofNat 56 (19 + 2 ^ 24 * 0))
    let b : BitVec 56 := 5
    let wr : Nat := (wireKey (11) 3 1)
    let ks : List Pkt := []
    let k : Pkt := ⟨((BitVec.ofNat 56 (19 + 2 ^ 24 * 0))).toNat, 5, [], 7⟩
    let s : State := ((loaded).modTrellis (fun t => {t with wire := [((wireKey (11) 3 1), [⟨((BitVec.ofNat 56 (19 + 2 ^ 24 * 0))).toNat, 5, [], 7⟩])]}))
    let h0 := codeHalf a.toNat
    let h1 := codeHalf b.toNat
    let leg := (List.range 4).find? (fun i => bits a.toNat (6 * i + 3) (6 * i) ≠ 0)
    let i := 0
    let d := bits a.toNat (6 * i + 5) (6 * i + 4)
    s.obs.en.getLsbD 1 = false ∧ s.trellis.buf = [] ∧ k.h0 = a.toNat ∧ k.h1 = b.toNat
    ∧ tget [] s.trellis.wire wr = k :: ks
    ∧ (inputWires r.val input.val p.val).find? (fun w => (tget [] s.trellis.wire w).head?.any (·.seenAs h0 h1 k.data)) = some wr
    ∧ leg = some i ∧ neighbour r.val d = none := by decide +kernel
theorem witness_RouterForwards_5 :
    let r : RouterId := (routerId (0))
    let p : Plane := 1
    let input : Fin 5 := 3
    let a : BitVec 56 := (BitVec.ofNat 56 (0 + 2 ^ 24 * 0))
    let b : BitVec 56 := 5
    let wr : Nat := (wireKey (0) 3 1)
    let ks : List Pkt := []
    let k : Pkt := ⟨((BitVec.ofNat 56 (0 + 2 ^ 24 * 0))).toNat, 5, [], 7⟩
    let s : State := ((up).modTrellis (fun t => {t with wire := [((wireKey (0) 3 1), [⟨((BitVec.ofNat 56 (0 + 2 ^ 24 * 0))).toNat, 5, [], 7⟩])]}))
    let h0 := codeHalf a.toNat
    let h1 := codeHalf b.toNat
    let leg := (List.range 4).find? (fun i => bits a.toNat (6 * i + 3) (6 * i) ≠ 0)
    let n := 0
    s.obs.en.getLsbD 1 = false ∧ s.trellis.buf = [] ∧ k.h0 = a.toNat ∧ k.h1 = b.toNat
    ∧ tget [] s.trellis.wire wr = k :: ks
    ∧ (inputWires r.val input.val p.val).find? (fun w => (tget [] s.trellis.wire w).head?.any (·.seenAs h0 h1 k.data)) = some wr
    ∧ leg = none ∧ portNi r.val (bits a.toNat 27 24) = some n ∧ bit a.toNat 55 = false ∧ s.bunged n = true := by decide +kernel
theorem witness_RouterForwards_6 :
    let r : RouterId := (routerId (0))
    let p : Plane := 1
    let input : Fin 5 := 3
    let a : BitVec 56 := (BitVec.ofNat 56 (18014398509481984 + 2 ^ 24 * 0))
    let b : BitVec 56 := 5
    let wr : Nat := (wireKey (0) 3 1)
    let ks : List Pkt := []
    let k : Pkt := ⟨((BitVec.ofNat 56 (18014398509481984 + 2 ^ 24 * 0))).toNat, 5, [], 7⟩
    let s : State := ((loaded).modTrellis (fun t => {t with wire := [((wireKey (0) 3 1), [⟨((BitVec.ofNat 56 (18014398509481984 + 2 ^ 24 * 0))).toNat, 5, [], 7⟩])]}))
    let h0 := codeHalf a.toNat
    let h1 := codeHalf b.toNat
    let leg := (List.range 4).find? (fun i => bits a.toNat (6 * i + 3) (6 * i) ≠ 0)
    let n := 0
    s.obs.en.getLsbD 1 = false ∧ s.trellis.buf = [] ∧ k.h0 = a.toNat ∧ k.h1 = b.toNat
    ∧ tget [] s.trellis.wire wr = k :: ks
    ∧ (inputWires r.val input.val p.val).find? (fun w => (tget [] s.trellis.wire w).head?.any (·.seenAs h0 h1 k.data)) = some wr
    ∧ leg = none ∧ portNi r.val (bits a.toNat 27 24) = some n ∧ bit a.toNat 55 = false ∧ s.bunged n = false
    ∧ (s.niOf n).record.length < 4096 ∧ bit a.toNat 54 = true := by decide +kernel
theorem witness_RouterForwards_7 :
    let r : RouterId := (routerId ((niPort 0x80 |>.getD (0, 0)).1))
    let p : Plane := 1
    let input : Fin 5 := 3
    let a : BitVec 56 := (BitVec.ofNat 56 (0 + 2 ^ 24 * (niPort 0x80 |>.getD (0, 0)).2))
    let b : BitVec 56 := 262144
    let wr : Nat := (wireKey ((niPort 0x80 |>.getD (0, 0)).1) 3 1)
    let ks : List Pkt := []
    let k : Pkt := ⟨((BitVec.ofNat 56 (0 + 2 ^ 24 * (niPort 0x80 |>.getD (0, 0)).2))).toNat, 262144, [], 7⟩
    let s : State := (((home {})).modTrellis (fun t => {t with wire := [((wireKey ((niPort 0x80 |>.getD (0, 0)).1) 3 1), [⟨((BitVec.ofNat 56 (0 + 2 ^ 24 * (niPort 0x80 |>.getD (0, 0)).2))).toNat, 262144, [], 7⟩])]}))
    let h0 := codeHalf a.toNat
    let h1 := codeHalf b.toNat
    let leg := (List.range 4).find? (fun i => bits a.toNat (6 * i + 3) (6 * i) ≠ 0)
    let n := 0x80
    let owns := s.ownsAddr n (topOf (bits b.toNat 3 0)) (bit b.toNat 54) (bits b.toNat 53 12)
    s.obs.en.getLsbD 1 = false ∧ s.trellis.buf = [] ∧ k.h0 = a.toNat ∧ k.h1 = b.toNat
    ∧ tget [] s.trellis.wire wr = k :: ks
    ∧ (inputWires r.val input.val p.val).find? (fun w => (tget [] s.trellis.wire w).head?.any (·.seenAs h0 h1 k.data)) = some wr
    ∧ leg = none ∧ portNi r.val (bits a.toNat 27 24) = some n ∧ bit a.toNat 55 = false ∧ s.bunged n = false
    ∧ (s.niOf n).record.length < 4096 ∧ bit a.toNat 54 = false ∧ (isTaster n = true ∨ owns = false) := by decide +kernel
theorem witness_RouterForwards_8 :
    let r : RouterId := (routerId (0))
    let p : Plane := 1
    let input : Fin 5 := 3
    let a : BitVec 56 := (BitVec.ofNat 56 (36028797018963968 + 2 ^ 24 * 0))
    let b : BitVec 56 := 5
    let wr : Nat := (wireKey (0) 3 1)
    let ks : List Pkt := []
    let k : Pkt := ⟨((BitVec.ofNat 56 (36028797018963968 + 2 ^ 24 * 0))).toNat, 5, [], 7⟩
    let s : State := ((up).modTrellis (fun t => {t with wire := [((wireKey (0) 3 1), [⟨((BitVec.ofNat 56 (36028797018963968 + 2 ^ 24 * 0))).toNat, 5, [], 7⟩])]}))
    let h0 := codeHalf a.toNat
    let h1 := codeHalf b.toNat
    let leg := (List.range 4).find? (fun i => bits a.toNat (6 * i + 3) (6 * i) ≠ 0)
    let n := 0
    s.obs.en.getLsbD 1 = false ∧ s.trellis.buf = [] ∧ k.h0 = a.toNat ∧ k.h1 = b.toNat
    ∧ tget [] s.trellis.wire wr = k :: ks
    ∧ (inputWires r.val input.val p.val).find? (fun w => (tget [] s.trellis.wire w).head?.any (·.seenAs h0 h1 k.data)) = some wr
    ∧ leg = none ∧ portNi r.val (bits a.toNat 27 24) = some n ∧ bit a.toNat 55 = true ∧ s.bunged n = true := by decide +kernel
theorem witness_RouterForwards_9 :
    let r : RouterId := (routerId (0))
    let p : Plane := 1
    let input : Fin 5 := 3
    let a : BitVec 56 := (BitVec.ofNat 56 (36059583344541696 + 2 ^ 24 * 0))
    let b : BitVec 56 := 0
    let wr : Nat := (wireKey (0) 3 1)
    let ks : List Pkt := []
    let k : Pkt := ⟨((BitVec.ofNat 56 (36059583344541696 + 2 ^ 24 * 0))).toNat, 0, [], 7⟩
    let s : State := (((loaded.modNi 0 (fun i => {i with tags := [⟨7, 0x80, .rd, 0⟩]}))).modTrellis (fun t => {t with wire := [((wireKey (0) 3 1), [⟨((BitVec.ofNat 56 (36059583344541696 + 2 ^ 24 * 0))).toNat, 0, [], 7⟩])]}))
    let h0 := codeHalf a.toNat
    let h1 := codeHalf b.toNat
    let leg := (List.range 4).find? (fun i => bits a.toNat (6 * i + 3) (6 * i) ≠ 0)
    let n := 0
    let tag := bits a.toNat 53 42
    let o := (⟨7, 0x80, .rd, 0⟩ : OutTag)
    s.obs.en.getLsbD 1 = false ∧ s.trellis.buf = [] ∧ k.h0 = a.toNat ∧ k.h1 = b.toNat
    ∧ tget [] s.trellis.wire wr = k :: ks
    ∧ (inputWires r.val input.val p.val).find? (fun w => (tget [] s.trellis.wire w).head?.any (·.seenAs h0 h1 k.data)) = some wr
    ∧ leg = none ∧ portNi r.val (bits a.toNat 27 24) = some n ∧ bit a.toNat 55 = true ∧ s.bunged n = false
    ∧ (s.niOf n).tags.find? (fun o => o.tag.toNat = tag) = some o ∧ bit a.toNat 54 = false ∧ bits b.toNat 22 13 = n := by decide +kernel
theorem witness_RouterForwards_10 :
    let now : Nat := 100
    let last : Nat := 0
    let hs : List Head := [⟨1, ⟨0, 0, [], 0⟩⟩, ⟨2, ⟨0x80000000, 0, [], 5⟩⟩, ⟨4, ⟨0, 0, [], 5⟩⟩]
    let h : Head := ((choose 100 0 [⟨1, ⟨0, 0, [], 0⟩⟩, ⟨2, ⟨0x80000000, 0, [], 5⟩⟩, ⟨4, ⟨0, 0, [], 5⟩⟩]).getD ⟨0, ⟨0, 0, [], 0⟩⟩)
    choose now last hs = some h ∧ (∀ g ∈ hs, now < g.pkt.since + 256) ∧ (∀ g ∈ hs, g.vc ≠ 0)
    ∧ (∃ g ∈ hs, bit g.pkt.h0 31 = true) := by decide +kernel
theorem witness_RouterForwards_11 :
    let s : State := (((loaded.modTrellis (fun t => {t with buf := [(5, [⟨0, 0, [], 0⟩])]}))).modTrellis (fun t => {t with wire := [((wireKey (0) 3 1), [⟨((BitVec.ofNat 56 (18 + 2 ^ 24 * 0))).toNat, 5, [], 7⟩])]}))
    let h := ((choose 1000 0 [⟨5, ⟨0, 0, [], 0⟩⟩]).getD ⟨0, ⟨0, 0, [], 0⟩⟩)
    h ∈ s.movable := by decide +kernel

/-! `Obligations.RouteEntryGuards`. -/

theorem witness_RouteEntryGuards_1 :
    let who : Who := .hubctl
    let ni : NI := 0
    let d : NI := 0x80
    let v : Word := 0x12
    let s : State := loaded
    let w := v.toNat % 2 ^ 52
    let valid := fun (r : Nat) => s.routeValid ni.toNat d.toNat r (entryPlanes w)
    let barred := (w.testBit 51 = true ∧ (valid (bits w 23 0) = false ∨ valid (bits w 47 24) = false)) ∨ bits w 50 49 = 3
    niExists ni.toNat = true ∧ who.mgmt = true ∧ (¬ barred) ∧ w.testBit 51 = false ∧ bits w 50 49 ≠ 3 := by decide +kernel
theorem witness_RouteEntryGuards_2 :
    let who : Who := .hubctl
    let ni : NI := 0
    let d : NI := 0x80
    let v : Word := routeWord 1
    let s : State := loaded
    let w := v.toNat % 2 ^ 52
    let valid := fun (r : Nat) => s.routeValid ni.toNat d.toNat r (entryPlanes w)
    let barred := (w.testBit 51 = true ∧ (valid (bits w 23 0) = false ∨ valid (bits w 47 24) = false)) ∨ bits w 50 49 = 3
    niExists ni.toNat = true ∧ who.mgmt = true ∧ barred := by decide +kernel

/-! `Obligations.Routing`, part RouteTables. -/

theorem witness_RouteTables_1 :
    let who : Who := .mgd
    let ni : NI := 0
    let d : NI := 0x80
    let v : Word := routeWord 0
    let s : State := (routed (fun i => {i with change := [(0x80, 5)], tags := [⟨7, 0x80, .rd, 0⟩]}))
    let w := v.toNat % 2 ^ 52
    let o := s.routeOf ni.toNat d.toNat
    let moves := bit w 51 && (entrySel o ≠ entrySel w || entryForce o ≠ entryForce w || !bit o 51)
    let busy := (s.niOf ni.toNat).tags.any (fun t => t.dst = d)
    niExists ni.toNat = true ∧ who.mgmt = true ∧ s.routeOk ni.toNat d.toNat w = true ∧ (moves = false ∨ busy = false)
    ∧ busy = true ∧ (let e := (5 : Word); tfind (s.niOf ni.toNat).change d.toNat = some e) := by decide +kernel
theorem witness_RouteTables_2 :
    let who : Who := .mgd
    let ni : NI := 0
    let d : NI := 0x80
    let v : Word := routeWord 0
    let s : State := (loaded.modNi 0 (fun i => {i with tags := [⟨7, 0x80, .rd, 0⟩]}))
    let w := v.toNat % 2 ^ 52
    let o := s.routeOf ni.toNat d.toNat
    let moves := bit w 51 && (entrySel o ≠ entrySel w || entryForce o ≠ entryForce w || !bit o 51)
    let busy := (s.niOf ni.toNat).tags.any (fun t => t.dst = d)
    niExists ni.toNat = true ∧ who.mgmt = true ∧ s.routeOk ni.toNat d.toNat w = true ∧ moves = true ∧ busy = true := by decide +kernel
theorem witness_RouteTables_3 :
    let who : Who := .mgd
    let ni : NI := 0
    let d : NI := 0x80
    let v : Word := routeWord 1
    let s : State := loaded
    let w := v.toNat % 2 ^ 52
    niExists ni.toNat = true ∧ who.mgmt = true ∧ s.routeOk ni.toNat d.toNat w = false := by decide +kernel
theorem witness_RouteTables_4 :
    let who : Who := .core 0
    let ni : NI := 0
    niExists ni.toNat = true ∧ who.mgmt = false := by decide +kernel
theorem witness_RouteTables_5 :
    let ni : NI := 0
    let d : NI := 0x80
    let s : State := (routed (fun i => {i with change := [(0x80, routeWord 0)], held := [(nreq .coh, false, [])]}))
    let busy := (s.niOf ni.toNat).tags.any (fun t => t.dst = d)
    let e := routeWord 0
    niExists ni.toNat = true ∧ tfind (s.niOf ni.toNat).change d.toNat = some e ∧ busy = false := by decide +kernel

/-! `Obligations.Injection`. -/

theorem witness_Injection_1 :
    let ni : NI := 0
    let a : NReq := nreq .coh
    let s : State := (routed id)
    let q := s.nreqOf ni.toNat a
    let i := s.niOf ni.toNat
    let e := s.routeOf ni.toNat q.dst.toNat
    let c := q.cls.code
    let v := s.niCls ni.toNat c
    let free := niExists ni.toNat = true ∧ (∀ t ∈ i.tags, t.tag ≠ a.tag) ∧ a.tag ∉ i.quar ∧ (∀ h ∈ i.held, h.1.tag ≠ a.tag)
    let pri := true
    free ∧ thas i.change q.dst.toNat = false ∧ bit e 51 = true ∧ v.priority c (q.len.val + 1) = some pri := by decide +kernel
theorem witness_Injection_2 :
    let ni : NI := 0
    let a : NReq := {nreq .coh with op := .msg}
    let s : State := loaded
    let q := s.nreqOf ni.toNat a
    let i := s.niOf ni.toNat
    let e := s.routeOf ni.toNat q.dst.toNat
    let free := niExists ni.toNat = true ∧ (∀ t ∈ i.tags, t.tag ≠ a.tag) ∧ a.tag ∉ i.quar ∧ (∀ h ∈ i.held, h.1.tag ≠ a.tag)
    (a.op = .msg ∨ a.op = .regrd ∨ a.op = .regwr) ∧ free ∧ thas i.change q.dst.toNat = false ∧ bit e 51 = false := by decide +kernel
theorem witness_Injection_3 :
    let ni : NI := 0
    let a : NReq := nreq .coh
    let s : State := (routed (fun i => {i with tags := [⟨7, 0x80, .rd, 0⟩]}))
    let i := s.niOf ni.toNat
    let t := (⟨7, 0x80, .rd, 0⟩ : OutTag)
    t ∈ i.tags ∧ t.tag = a.tag := by decide +kernel
theorem witness_Injection_4 :
    let ni : NI := 0
    let a : NReq := {nreq .obs with op := .trace}
    let s : State := (routed id)
    let q := s.nreqOf ni.toNat a
    let i := s.niOf ni.toNat
    let e := s.routeOf ni.toNat q.dst.toNat
    let c := q.cls.code
    let v := s.niCls ni.toNat c
    let free := niExists ni.toNat = true ∧ (∀ t ∈ i.tags, t.tag ≠ a.tag) ∧ a.tag ∉ i.quar ∧ (∀ h ∈ i.held, h.1.tag ≠ a.tag)
    a.op = .trace ∧ free ∧ thas i.change q.dst.toNat = false ∧ bit e 51 = true ∧ v.priority c (q.len.val + 1) = none := by decide +kernel
theorem witness_Injection_5 :
    let ni : NI := 0
    let a : NReq := {nreq .coh with op := .rds}
    let s : State := loaded
    let q := s.nreqOf ni.toNat a
    (a.op = .rds ∨ a.op = .rdx) ∧ niHost ni.toNat = false ∧ niHost q.dst.toNat = false := by decide +kernel
theorem witness_Injection_6 :
    let ni : NI := 0xE0
    let a : NReq := nreq .coh
    (a.op = .rd ∨ a.op = .wri) ∧ niHost ni.toNat = true := by decide +kernel
theorem witness_Injection_7 :
    let ni : NI := 0
    let a : NReq := nreq .coh
    let s : State := (routed (fun i => {i with change := [(0x80, 5)]}))
    let q := s.nreqOf ni.toNat a
    let i := s.niOf ni.toNat
    let free := niExists ni.toNat = true ∧ (∀ t ∈ i.tags, t.tag ≠ a.tag) ∧ a.tag ∉ i.quar ∧ (∀ h ∈ i.held, h.1.tag ≠ a.tag)
    free ∧ thas i.change q.dst.toNat = true := by decide +kernel

/-! `Obligations.Injection`, part Bungs. -/

theorem witness_Bungs_1 :
    let who : Who := .mgd
    let ni : NI := 0
    let v : Word := 3
    let d : Domain := .site 0
    let ds : List Domain := [.site 0, .cask 3]
    let s : State := loaded
    let i := s.niOf ni.toNat
    niExists ni.toNat = true ∧ who.mgmt = true ∧ v.getLsbD 1 = true ∧ i.eng = false
    ∧ (i.ready = true ∨ 0xF0 ≤ ni.toNat) ∧ i.hold = false ∧ s.trellis.parts = [] ∧ (let n := 7; n ∈ domainNis d)
    ∧ (let d := .site 0; let n := 7; d ∈ ds ∧ n ∈ domainNis d) := by decide +kernel
theorem witness_Bungs_2 :
    let who : Who := .host .iob
    let ni : NI := 0
    let s : State := up
    let i := s.niOf ni.toNat
    niExists ni.toNat = true ∧ who.mgmt = false ∧ ((i.ready = false ∧ ni.toNat < 0xF0) ∨ i.hold = true) := by decide +kernel
theorem witness_Bungs_3 :
    let who : Who := .mgd
    let ni : NI := 0
    let v : Word := 1
    niExists ni.toNat = true ∧ who.mgmt = true ∧ v.getLsbD 1 = false := by decide +kernel

/-! `Obligations.TrellisWatch`, part LinkHealth. -/

theorem witness_LinkHealth_1 :
    let r : RouterId := 0
    let p : Plane := 1
    let d : Dir := 1
    let s : State := (loaded.modLnk 0 1 1 (fun l => {l with unfit := true}))
    let l := s.lnk r.val p.val d.val
    (neighbour r.val d.val).isSome ∧ l.insvc = true ∧ l.unfit = true := by decide +kernel
theorem witness_LinkHealth_2 :
    let r : RouterId := 0
    let p : Plane := 1
    let d : Dir := 1
    let s : State := loaded
    let l := s.lnk r.val p.val d.val
    ((neighbour r.val d.val).isNone ∨ l.insvc = false ∨ l.unfit = false) ∧ l.unfit = false := by decide +kernel

/-! `Obligations.TrellisWatch`, part Regulation. -/

theorem witness_Regulation_1 :
    let who : Who := .mgd
    let ni : NI := 0
    let c : Fin 5 := 1
    let k : CaskId := 0
    let g : BitVec 15 := 5
    let a : BitVec 7 := 64
    let v : Word := 0x10005
    let s : State := (loaded.modNi 0 (fun i => {i with cls := [(1, {pend := some (5, 2), credit := -3})]}))
    niExists ni.toNat = true ∧ who.mgmt = true ∧ c.val ≠ 4
    ∧ (who.mgmt = true ∨ (who.driver = true ∧ s.bunged (niService (fieldOfCask k.val) 3) = false)) ∧ g.toNat < 23040
    ∧ bits v.toNat 7 6 ≠ 3 ∧ a.toNat ≤ 64 ∧ bits v.toNat 15 0 ≤ 27200
    ∧ (let i := {eng := false, ready := true, cls := [(1, {pend := some (5, 2), credit := -3})]}; let w := ({pend := some (5, 2), credit := -3} : NiCls); tfind s.trellis.ni ni.toNat = some i ∧ tfind i.cls c.val = some w) := by decide +kernel
theorem witness_Regulation_2 :
    let who : Who := .host .ioa
    let ni : NI := 0
    let k : CaskId := 0
    let g : BitVec 15 := 5
    let a : BitVec 7 := 64
    let v : Word := 0x17FFF
    let s : State := (loaded.modNi (niService 0 3) (fun n => {n with eng := false, ready := true}))
    niExists ni.toNat = true
    ∧ (who.mgmt = true ∨ (who.driver = true ∧ s.bunged (niService (fieldOfCask k.val) 3) = false)) ∧ g.toNat < 23040
    ∧ bits v.toNat 7 6 = 3 ∧ a.toNat ≤ 64 ∧ 27200 < bits v.toNat 15 0 ∧ who.mgmt = false := by decide +kernel
theorem witness_Regulation_3 :
    let who : Who := .core 3
    let ni : NI := 0
    let k : CaskId := 0
    let s : State := (loaded.modNi (niService 0 3) (fun n => {n with eng := false, ready := true}))
    niExists ni.toNat = true ∧ who.mgmt = false ∧ who.driver = false
    ∧ s.bunged (niService (fieldOfCask k.val) 3) = false := by decide +kernel
theorem witness_Regulation_4 :
    let who : Who := .core 3
    let ni : NI := 0
    let k : CaskId := 0
    let s : State := loaded
    niExists ni.toNat = true ∧ who.mgmt = false ∧ s.bunged (niService (fieldOfCask k.val) 3) = true := by decide +kernel
theorem witness_Regulation_5 :
    let who : Who := .mgd
    let ni : NI := 0x200
    let c : Fin 5 := 4
    let v : Word := 121
    niExists ni.toNat = true ∧ who.mgmt = true ∧ c.val = 4 ∧ isTaster ni.toNat = true ∧ 120 < bits v.toNat 15 0 := by decide +kernel

/-! `Obligations.TrellisWatch`, part TasterRecords. -/

theorem witness_TasterRecords_1 :
    let i : RouterId := 5
    let s : State := {(loaded.modTrellis (fun t => {t with route := [(0x81480, routeWord 0)]})).modNi 0x205 (fun i => {i with cls := [(4, {credit := 2})]}) with obs := {taster := [(5, {held := [[1, 2, 3, 4], [5, 6, 7, 8], [9]]})]}}
    let t := s.tasterOf i.val
    let ni := niTaster i.val
    let v := s.niCls ni 4
    let sink := bits t.ctl.toNat 2 1
    let base := (s.sinkOf sink).base.toNat
    let d := niMem (base / 2 ^ 30) 0
    let e := s.routeOf ni d
    let b := false
    t.held ≠ [] ∧ t.dropped = 0 ∧ bit e 51 = true ∧ thas (s.niOf ni).change d = false ∧ v.priority 4 1 = some b := by decide +kernel
theorem witness_TasterRecords_2 :
    let i : RouterId := 5
    let s : State := {(loaded.modTrellis (fun t => {t with route := [(0x81480, routeWord 0)]})).modNi 0x205 (fun i => {i with cls := [(4, {credit := 1})]}) with obs := {taster := [(5, {held := [[1, 2, 3, 4], [5, 6, 7, 8], [9]]})]}}
    let t := s.tasterOf i.val
    let ni := niTaster i.val
    let v := s.niCls ni 4
    let sink := bits t.ctl.toNat 2 1
    let base := (s.sinkOf sink).base.toNat
    let d := niMem (base / 2 ^ 30) 0
    let e := s.routeOf ni d
    t.held ≠ [] ∧ t.dropped = 0 ∧ bit e 51 = true ∧ thas (s.niOf ni).change d = false ∧ v.priority 4 1 = none := by decide +kernel
theorem witness_TasterRecords_3 :
    let i : RouterId := 5
    let s : State := loaded
    let t := s.tasterOf i.val
    t.held = [] := by decide +kernel

/-! `Obligations.FramesReceived`. -/

theorem witness_FramesReceived_1 :
    let a : LinkId := 0
    let m : Fin 8 := 1
    let toHub : Bool := true
    let c0 : Word := codeHalf (2 ^ 53 + 1)
    let c1 : Word := codeHalf 5
    let q : BitVec 12 := 0x1FF
    let h0 : Nat := 2 ^ 53 + 1
    let h1 : Nat := 5
    let s : State := framed
    let d := s.dirOf a.val m.val toHub
    let st := (s.modOf a.val m.val).st
    let seq : BitVec 12 := BitVec.ofNat 12 (256 * bits h0 55 52 + bits h1 55 48)
    st ≠ .idle ∧ st ≠ .absent ∧ d.rxSeq = some q ∧ decodeHalf c1 = (h1, .good) ∧ decodeHalf c0 = (h0, .good)
    ∧ seq = q + 1 ∧ h0 % 4 = 1
    ∧ (let w : Word := 9; let n := bits w.toNat 2 0; let hist := (s.dirOf a.val n toHub).hist; ((∀ f ∈ hist, f.1.toNat ≠ bits w.toNat 14 3) ∨ bits w.toNat 19 15 ≠ 31)) := by decide +kernel
theorem witness_FramesReceived_2 :
    let a : LinkId := 0
    let m : Fin 8 := 1
    let toHub : Bool := true
    let c0 : Word := codeHalf (2 ^ 53)
    let c1 : Word := codeHalf (5 + 2 ^ 48)
    let q : BitVec 12 := 0x1FF
    let h0 : Nat := 2 ^ 53
    let h1 : Nat := 5 + 2 ^ 48
    let s : State := framed
    let d := s.dirOf a.val m.val toHub
    let st := (s.modOf a.val m.val).st
    let seq : BitVec 12 := BitVec.ofNat 12 (256 * bits h0 55 52 + bits h1 55 48)
    st ≠ .idle ∧ st ≠ .absent ∧ d.rxSeq = some q ∧ decodeHalf c1 = (h1, .good) ∧ decodeHalf c0 = (h0, .good)
    ∧ seq = q + 2 := by decide +kernel
theorem witness_FramesReceived_3 :
    let a : LinkId := 0
    let m : Fin 8 := 1
    let toHub : Bool := true
    let c0 : Word := codeHalf 0 ^^^ 3
    let c1 : Word := codeHalf 5
    let q : BitVec 12 := 0x1FF
    let h1 : Nat := 5
    let s : State := framed
    let d := s.dirOf a.val m.val toHub
    let st := (s.modOf a.val m.val).st
    st ≠ .idle ∧ st ≠ .absent ∧ d.rxSeq = some q ∧ decodeHalf c1 = (h1, .good) ∧ (decodeHalf c0).2 = .bad := by decide +kernel
theorem witness_FramesReceived_4 :
    let a : LinkId := 0
    let m : Fin 8 := 1
    let toHub : Bool := true
    let c0 : Word := codeHalf (2 ^ 53 + 2)
    let c1 : Word := codeHalf 5
    let q : BitVec 12 := 0x1FF
    let h0 : Nat := 2 ^ 53 + 2
    let h1 : Nat := 5
    let s : State := framed
    let d := s.dirOf a.val m.val toHub
    let st := (s.modOf a.val m.val).st
    let seq : BitVec 12 := BitVec.ofNat 12 (256 * bits h0 55 52 + bits h1 55 48)
    st ≠ .idle ∧ st ≠ .absent ∧ d.rxSeq = some q ∧ decodeHalf c1 = (h1, .good) ∧ decodeHalf c0 = (h0, .good)
    ∧ seq = q + 1 ∧ h0 % 4 = 2 := by decide +kernel
theorem witness_FramesReceived_5 :
    let a : LinkId := 0
    let m : Fin 8 := 1
    let s : State := loaded
    let st := (s.modOf a.val m.val).st
    (st = .idle ∨ st = .absent) := by decide +kernel
theorem witness_FramesReceived_6 :
    let a : LinkId := 0
    let m : Fin 8 := 1
    let toHub : Bool := true
    let c0 : Word := codeHalf (2 ^ 53)
    let c1 : Word := codeHalf 5
    let q : BitVec 12 := 0x1FF
    let h0 : Nat := 2 ^ 53
    let h1 : Nat := 5
    let s : State := framed
    let d := s.dirOf a.val m.val toHub
    let st := (s.modOf a.val m.val).st
    let seq : BitVec 12 := BitVec.ofNat 12 (256 * bits h0 55 52 + bits h1 55 48)
    st ≠ .idle ∧ st ≠ .absent ∧ d.rxSeq = some q ∧ decodeHalf c1 = (h1, .good) ∧ decodeHalf c0 = (h0, .good)
    ∧ seq = q + 1 ∧ h0 % 4 = 0 := by decide +kernel
theorem witness_FramesReceived_7 :
    let a : LinkId := 0
    let m : Fin 8 := 1
    let toHub : Bool := true
    let s : State := (modIs 0 (fun m => {m with st := .up, rx := {m.rx with hist := [(5, ⟨2, 0, []⟩)]}}))
    let w : Word := (BitVec.ofNat 64 (1 + 8 * 5 + 2 ^ 15 * 31))
    let n := bits w.toNat 2 0
    let hist := (s.dirOf a.val n toHub).hist
    let f := (5, ⟨2, 0, []⟩)
    hist.find? (fun f => f.1.toNat = bits w.toNat 14 3) = some f ∧ bits w.toNat 19 15 = 31 ∧ f.2.data = [] := by decide +kernel
theorem witness_FramesReceived_8 :
    let a : LinkId := 0
    let m : Fin 8 := 1
    let toHub : Bool := true
    let h0 : Nat := 0
    let s : State := (modIs 0 (fun m => {m with st := .up, rx := {m.rx with hist := [(5, ⟨1 + 32, 0, [7]⟩)]}}))
    let w : Word := (BitVec.ofNat 64 (1 + 8 * 5 + 2 ^ 15 * 31))
    let n := bits w.toNat 2 0
    let hist := (s.dirOf a.val n toHub).hist
    let f := (5, ⟨1 + 32, 0, [7]⟩)
    hist.find? (fun f => f.1.toNat = bits w.toNat 14 3) = some f ∧ bits w.toNat 19 15 = 31 ∧ f.2.data ≠ []
    ∧ bit f.2.h0 5 = true := by decide +kernel
theorem witness_FramesReceived_9 :
    let a : LinkId := 0
    let m : Fin 8 := 1
    let toHub : Bool := true
    let h0 : Nat := 0
    let s : State := (modIs 0 (fun m => {m with st := .up, rx := {m.rx with hist := [(5, ⟨1, 0, [7]⟩)]}}))
    let w : Word := (BitVec.ofNat 64 (1 + 8 * 5 + 2 ^ 15 * 31))
    let n := bits w.toNat 2 0
    let hist := (s.dirOf a.val n toHub).hist
    let f := (5, ⟨1, 0, [7]⟩)
    hist.find? (fun f => f.1.toNat = bits w.toNat 14 3) = some f ∧ bits w.toNat 19 15 = 31 ∧ f.2.data ≠ []
    ∧ bit f.2.h0 5 = false ∧ toHub = true := by decide +kernel

/-! `Obligations.Sideband`, part Identification. -/

theorem witness_Identification_1 :
    let a : LinkId := 0
    let w : Word := 0
    let s : State := (linkIs 0 (fun l => {l with ident := none, idreqs := 3}))
    let n := w.toNat
    s.expectKind a.val ≠ 1 ∧ (bits n 3 0 ≠ s.expectKind a.val ∨ bits n 11 4 ≠ 1) ∧ (s.linkOf a.val).ident = none
    ∧ 3 ≤ (s.linkOf a.val).idreqs ∧ a.val < 16 ∧ s.isGraft a.val = false ∧ (let x : Site := 0; a.val = x.val)
    ∧ (let x : Site := 0; a.val = x.val ∧ s.isGraft x.val = false) := by decide +kernel
theorem witness_Identification_2 :
    let a : LinkId := 0
    let w : Word := 16
    let s : State := loaded
    let n := w.toNat
    (s.expectKind a.val = 1 ∨ (bits n 3 0 = s.expectKind a.val ∧ bits n 11 4 = 1)) ∧ (s.linkOf a.val).ident = none
    ∧ (s.linkOf a.val).idreqs < 3 := by decide +kernel
theorem witness_Identification_3 :
    let a : LinkId := 18
    let s : State := (linkIs 18 (fun l => {l with ident := none, idreqs := 3}))
    (s.linkOf a.val).ident = none ∧ 3 ≤ (s.linkOf a.val).idreqs ∧ a.val = 18 := by decide +kernel
theorem witness_Identification_4 :
    let a : LinkId := 0
    let s : State := (linkIs 0 (fun l => {l with ident := some (0, 1, 0, 0, 0), idreqs := 0}))
    (s.linkOf a.val).ident.isSome := by decide +kernel

/-! `Obligations.Sideband`, part Capabilities. -/

theorem witness_Capabilities_1 :
    let x : Site := 13
    let w : Word := 0x70003
    let s : State := (grafted id)
    s.isGraft x.val = true ∧ s.populated x.val = true ∧ (s.linkOf x.val).caprd = none ∧ 1 ≤ bits w.toNat 15 0
    ∧ bits w.toNat 15 0 ≤ 5 ∧ w.getLsbD 16 = true := by decide +kernel
theorem witness_Capabilities_2 :
    let x : Site := 13
    let w : Word := 0x10000
    let s : State := ((grafted id).modLink 13 (fun l => {l with caprd := some 3}))
    s.isGraft x.val = true ∧ s.populated x.val = true ∧ (s.linkOf x.val).caprd ≠ none
    ∧ (bits w.toNat 15 0 = 0 ∨ 5 < bits w.toNat 15 0) ∧ (let i := 3; (s.linkOf x.val).caprd = some i) := by decide +kernel
theorem witness_Capabilities_3 :
    let x : Site := 0
    let w : Word := 2
    let s : State := (grafted id)
    s.isGraft x.val = false ∧ bits w.toNat 15 0 = 2 := by decide +kernel
theorem witness_Capabilities_4 :
    let x : Site := 13
    let w : Word := 3
    let s : State := (grafted (fun g => {g with st := .admitting}))
    s.isGraft x.val = true ∧ (s.gateOf x.val).st = .admitting ∧ w.getLsbD 16 = false := by decide +kernel

/-! `Obligations.Sideband`, part SidebandMessages. -/

theorem witness_SidebandMessages_1 :
    let x : Site := 0
    let toHub : Bool := false
    let code : Byte := 0x20
    let s : State := (loaded.modGate 0 (fun g => {g with powered := true}))
    (s.gateOf x.val).powered = true ∧ s.isGraft x.val = false ∧ sidebandKnown toHub code.toNat = true := by decide +kernel
theorem witness_SidebandMessages_2 :
    let x : Site := 0
    let toHub : Bool := true
    let code : Byte := 0x30
    let s : State := loaded
    (s.gateOf x.val).powered = false ∧ sidebandKnown toHub code.toNat = false := by decide +kernel

/-! `Obligations.LinkTraining`, part ModuleTraining. -/

theorem witness_ModuleTraining_1 :
    let a : LinkId := 0
    let m : Fin 8 := 1
    let tries : List TrainTry := [okTry]
    let w : Word := 9
    let s : State := (modIs 0 (fun m => {m with st := .up}))
    let x := s.modOf a.val m.val
    let off := decide (a.val < 16) && (s.linkOf a.val).remap.getLsbD m.val
    let lanes := if a.val < 16 then 64 else 16
    let found := x.outcome a.val x.step tries
    m.val < linkModules a.val ∧ off = false ∧ x.step = 0 ∧ x.judged = []
    ∧ (x.st = .idle ∨ x.st = .up ∨ x.st = .absent) ∧ x.st = .up
    ∧ (List.range (linkModules a.val)).any (fun i => (s.modOf a.val i).st = .retraining) = false
    ∧ bits w.toNat 2 0 = m.val ∧ bit w.toNat 3 = true
    ∧ (let r := (((s.modOf 0 1).outcome 0 (s.modOf 0 1).step tries).getD ⟨2, false, false, 0, 0, 0, 0⟩); found = some r)
    ∧ (let t := okTry; let ts := []; tries = t :: ts ∧ t.rx.length = lanes ∧ t.tx.length = lanes ∧ ((∀ l ∈ t.rx ++ t.tx, 15 ≤ l.timing ∧ 150 ≤ l.volts ∧ l.errs = 0))) := by decide +kernel
theorem witness_ModuleTraining_2 :
    let a : LinkId := 17
    let m : Fin 8 := 3
    let tries : List TrainTry := [okTryStd]
    let s : State := ((up.modMod 17 3 (fun m => {m with st := .training})))
    let x := s.modOf a.val m.val
    let found := x.outcome a.val x.step tries
    m.val < linkModules a.val ∧ 16 ≤ a.val ∧ x.st = .training
    ∧ (x.st ≠ .up ∨ (List.range (linkModules a.val)).any (fun i => (s.modOf a.val i).st = .retraining) = true)
    ∧ (let r := (((s.modOf 17 3).outcome 17 (s.modOf 17 3).step tries).getD ⟨2, false, false, 0, 0, 0, 0⟩); found = some r)
    ∧ (let r := (((s.modOf 17 3).outcome 17 (s.modOf 17 3).step tries).getD ⟨2, false, false, 0, 0, 0, 0⟩); found = some r) := by decide +kernel
theorem witness_ModuleTraining_3 :
    let a : LinkId := 0
    let m : Fin 8 := 1
    let s : State := (linkIs 0 (fun l => {l with remap := 2}))
    let off := decide (a.val < 16) && (s.linkOf a.val).remap.getLsbD m.val
    m.val < linkModules a.val ∧ off = true := by decide +kernel
theorem witness_ModuleTraining_4 :
    let a : LinkId := 0
    let m : Fin 8 := 1
    let tries : List TrainTry := [okTry]
    let s : State := (modIs 0 (fun m => {m with st := .retraining}))
    let x := s.modOf a.val m.val
    let found := x.outcome a.val x.step tries
    let r := (((s.modOf 0 1).outcome 0 (s.modOf 0 1).step tries).getD ⟨2, false, false, 0, 0, 0, 0⟩)
    m.val < linkModules a.val ∧ found = some r ∧ x.st = .retraining := by decide +kernel
theorem witness_ModuleTraining_5 :
    let a : LinkId := 0
    let m : Fin 8 := 1
    let tries : List TrainTry := []
    let s : State := (modIs 0 (fun m => {m with st := .training}))
    let x := s.modOf a.val m.val
    let found := x.outcome a.val x.step tries
    m.val < linkModules a.val ∧ found = none ∧ x.st = .training := by decide +kernel
theorem witness_ModuleTraining_6 :
    let a : LinkId := 0
    let m : Fin 8 := 1
    let tries : List TrainTry := []
    let s : State := (modIs 0 (fun m => {m with st := .retraining}))
    let x := s.modOf a.val m.val
    let found := x.outcome a.val x.step tries
    m.val < linkModules a.val ∧ found = none ∧ x.st = .retraining := by decide +kernel
theorem witness_ModuleTraining_7 :
    let a : LinkId := 0
    let m : Fin 8 := 1
    let w : Word := 1
    let s : State := (modIs 0 (fun m => {m with st := .up}))
    let x := s.modOf a.val m.val
    m.val < linkModules a.val ∧ bits w.toNat 2 0 = m.val ∧ x.st = .up ∧ bit w.toNat 3 = false := by decide +kernel

/-! `Obligations.LinkTraining`, part LinkJudgement. -/

theorem witness_LinkJudgement_1 :
    let a : LinkId := 0
    let m : Fin 8 := 1
    let toHub : Bool := true
    let lane : Fin 68 := 3
    let s : State := (modIs 0 (fun m => {m with st := .up, rx := {m.rx with sec := (0, [(3, 4)]), hour := [(3, 16), (5, 9)], base := true, lcnt := [(3, 4)]}}))
    let d := s.dirOf a.val m.val toHub
    4 ≤ tget 0 d.sec.2 lane.val ∧ (∀ c ∈ d.hour, c.2 ≤ d.hourLimit c.1) ∧ d.base = true ∧ m.val < linkModules a.val
    ∧ (s.linkOf a.val).fenced = false
    ∧ (let x : Site := 0; let c := 1; let p := 0; a.val = x.val ∧ c ∈ s.loadedOn x.val ∧ (s.ctxOf c).pos = some p ∧ p.val / 32 % 8 ≠ m.val) := by decide +kernel
theorem witness_LinkJudgement_2 :
    let a : LinkId := 0
    let m : Fin 8 := 1
    let toHub : Bool := true
    let lane : Fin 68 := 3
    let s : State := (loaded.modCtx 1 (fun c => {c with pos := none}))
    let d := s.dirOf a.val m.val toHub
    tget 0 d.sec.2 lane.val < 4 ∧ m.val < linkModules a.val ∧ (s.linkOf a.val).fenced = false
    ∧ (let x : Site := 0; let n := 3; a.val = x.val ∧ s.loadedOn x.val = [] ∧ n ∈ domainNis (.site x)) := by decide +kernel

/-! `Obligations.GraftTraffic`, part GraftRequests. -/

theorem witness_GraftRequests_1 :
    let x : Site := 13
    let q : GReq := ⟨0, .snp, 0, 7, false, 64, none, []⟩
    let s : State := (grafted (fun g => {g with setting := [(5, 1)], maxout := 1, st := .admitted, adm := true, powered := true, vlim := 0}))
    let g := s.gateOf x.val
    s.isGraft x.val = true ∧ g.held = false ∧ (graftOp q.op = false ∨ q.sec = true ∨ tget 0 g.setting 5 = 0)
    ∧ g.vlim = 0 := by decide +kernel
theorem witness_GraftRequests_2 :
    let x : Site := 13
    let s : State := loaded
    s.isGraft x.val = false := by decide +kernel
theorem witness_GraftRequests_3 :
    let x : Site := 13
    let q : GReq := ⟨0, .rd, 0, 7, false, 64, none, []⟩
    let s : State := (grafted (fun g => {g with setting := [(5, 1)], maxout := 1, st := .admitted, adm := true, powered := true, out := [⟨0, 1, .rd, 0, []⟩, ⟨0, 2, .rd, 0, []⟩]}))
    let g := s.gateOf x.val
    let open' := s.isGraft x.val = true ∧ g.held = false ∧ graftOp q.op = true ∧ q.sec = false ∧ tget 0 g.setting 5 ≠ 0
    open' ∧ g.maxout.toNat + 1 ≤ g.out.length := by decide +kernel
theorem witness_GraftRequests_4 :
    let x : Site := 13
    let q : GReq := ⟨0, .rd, 0, 7, false, 64, none, []⟩
    let s : State := (grafted (fun g => {g with setting := [(5, 1)], maxout := 1, st := .admitted, adm := true, powered := true}))
    let g := s.gateOf x.val
    let open' := s.isGraft x.val = true ∧ g.held = false ∧ graftOp q.op = true ∧ q.sec = false ∧ tget 0 g.setting 5 ≠ 0
    open' ∧ g.out.length ≤ g.maxout.toNat ∧ q.op ≠ .msg ∧ g.matchRule (64 * q.addr.toNat) = none := by decide +kernel
theorem witness_GraftRequests_5 :
    let x : Site := 13
    let q : GReq := ⟨0, .rd, 0, 7, false, 64, none, []⟩
    let s : State := (grafted (fun g => {g with setting := [(5, 1)], maxout := 1, st := .admitted, adm := true, powered := true, rule := [(0, {w0 := 0xC41, w1 := 0x1000, w2 := 0x2000})]}))
    let g := s.gateOf x.val
    let open' := s.isGraft x.val = true ∧ g.held = false ∧ graftOp q.op = true ∧ q.sec = false ∧ tget 0 g.setting 5 ≠ 0
    let i := 0
    let r := ({w0 := 0xC41, w1 := 0x1000, w2 := 0x2000} : Rule)
    open' ∧ g.out.length ≤ g.maxout.toNat ∧ q.op ≠ .msg ∧ g.matchRule (64 * q.addr.toNat) = some (i, r)
    ∧ r.permits g.cache q.op = false := by decide +kernel
theorem witness_GraftRequests_6 :
    let x : Site := 13
    let q : GReq := ⟨0, .rd, 0, 7, false, 64, none, []⟩
    let s : State := (grafted (fun g => {g with setting := [(5, 1)], maxout := 1, st := .admitted, adm := true, powered := true, rule := [(0, {w0 := 0xC43, w1 := 0x1000, w2 := 0x2000})]}))
    let g := s.gateOf x.val
    let open' := s.isGraft x.val = true ∧ g.held = false ∧ graftOp q.op = true ∧ q.sec = false ∧ tget 0 g.setting 5 ≠ 0
    let i := 0
    let r := ({w0 := 0xC43, w1 := 0x1000, w2 := 0x2000} : Rule)
    open' ∧ g.out.length ≤ g.maxout.toNat ∧ q.op ≠ .msg ∧ g.matchRule (64 * q.addr.toNat) = some (i, r)
    ∧ r.permits g.cache q.op = true := by decide +kernel
theorem witness_GraftRequests_7 :
    let x : Site := 13
    let q : GReq := ⟨0, .msg, 0, 7, false, 64, some (5, 3), []⟩
    let s : State := (grafted (fun g => {g with setting := [(5, 1)], maxout := 1, st := .admitted, adm := true, powered := true}))
    let g := s.gateOf x.val
    let open' := s.isGraft x.val = true ∧ g.held = false ∧ graftOp q.op = true ∧ q.sec = false ∧ tget 0 g.setting 5 ≠ 0
    let f := 5
    let v := 3
    open' ∧ g.out.length ≤ g.maxout.toNat ∧ q.op = .msg ∧ q.fence = some (f, v) ∧ g.fen = false := by decide +kernel
theorem witness_GraftRequests_8 :
    let x : Site := 13
    let q : GReq := ⟨0, .msg, 0, 7, false, 64, some (5, 3), []⟩
    let s : State := (grafted (fun g => {g with setting := [(5, 1)], maxout := 1, st := .admitted, adm := true, powered := true, fen := true, fctx := 1}))
    let g := s.gateOf x.val
    let open' := s.isGraft x.val = true ∧ g.held = false ∧ graftOp q.op = true ∧ q.sec = false ∧ tget 0 g.setting 5 ≠ 0
    let f := 5
    let v := 3
    open' ∧ g.out.length ≤ g.maxout.toNat ∧ q.op = .msg ∧ q.fence = some (f, v) ∧ g.fen = true
    ∧ fenceReserved v = false ∧ (s.fenceOf f.toNat).sigCase (some (s.ctxOf g.fctx.val).slice.val) v ≠ .discarded := by decide +kernel
theorem witness_GraftRequests_9 :
    let x : Site := 13
    let q : GReq := ⟨0, .msg, 0, 7, false, 64, none, []⟩
    let s : State := (grafted (fun g => {g with setting := [(5, 1)], maxout := 1, st := .admitted, adm := true, powered := true}))
    let g := s.gateOf x.val
    let open' := s.isGraft x.val = true ∧ g.held = false ∧ graftOp q.op = true ∧ q.sec = false ∧ tget 0 g.setting 5 ≠ 0
    open' ∧ g.out.length ≤ g.maxout.toNat ∧ q.op = .msg ∧ q.fence = none := by decide +kernel
theorem witness_GraftRequests_10 :
    let x : Site := 13
    let q : GReq := ⟨0, .rd, 0, 7, false, 64, none, []⟩
    let s : State := (grafted (fun g => {g with setting := [(5, 1)], maxout := 1, st := .admitted, adm := true, powered := true, held := true}))
    let g := s.gateOf x.val
    s.isGraft x.val = true ∧ g.held = true ∧ g.beyond q = false := by decide +kernel
theorem witness_GraftRequests_11 :
    let x : Site := 13
    let q : GReq := ⟨0, .rd, 0, 7, false, 64, none, []⟩
    let s : State := (grafted (fun g => {g with setting := [(5, 1)], maxout := 1, st := .admitted, adm := true, powered := true, held := true, kept := List.replicate 512 ⟨0, .rd, 0, 7, false, 64, none, []⟩}))
    let g := s.gateOf x.val
    s.isGraft x.val = true ∧ g.held = true ∧ g.beyond q = true := by decide +kernel

/-! `Obligations.GraftTraffic`, part GraftAnswers. -/

theorem witness_GraftAnswers_1 :
    let x : Site := 13
    let m : Fin 8 := 0
    let tag : BitVec 12 := 5
    let q : NReq := ⟨.rd, .bulk, 0, 0x34, 2, 0, 9, false⟩
    let src : NI := 0xFC
    let s : State := (grafted (fun g => {g with cap := [(2, 0x2000000002)], adm := true, into := List.replicate 4096 ⟨0, 5, 9, 3, .rd, 0, none, 0⟩}))
    let g := s.gateOf x.val
    let a := 64 * q.addr.toNat % 2 ^ 32
    let ni := niSite x.val (bits a 10 8)
    let allowed := g.adm && g.tgt && a < 2 ^ bits (g.word 2) 37 32 && (q.op = .rd || q.op = .wr || q.op = .wrp || q.op = .amo) && (niMgmt src.toNat || (g.bound && q.qual.toNat = g.slice.val))
    s.isGraft x.val = true ∧ s.bunged ni = false ∧ allowed = true ∧ 4096 ≤ g.into.length ∧ g.ovdSec < 15
    ∧ g.waitIn = []
    ∧ (let i := (⟨0, 5, 9, 3, .rd, 0, none, 0⟩ : IntoGraft); g.into.find? (fun i => i.m = m && i.tag = tag) = some i)
    ∧ (let i := (⟨0, 5, 9, 3, .rd, 0, none, 0⟩ : IntoGraft); g.into.find? (fun i => i.m = m && i.tag = tag) = some i) := by decide +kernel
theorem witness_GraftAnswers_2 :
    let x : Site := 13
    let m : Fin 8 := 0
    let tag : BitVec 12 := 5
    let q : NReq := ⟨.rd, .bulk, 0, 0x34, 2, 0, 9, false⟩
    let src : NI := 0xFC
    let s : State := (grafted (fun g => {g with cap := [(2, 0x2000000002)], adm := true}))
    let g := s.gateOf x.val
    let a := 64 * q.addr.toNat % 2 ^ 32
    let ni := niSite x.val (bits a 10 8)
    let allowed := g.adm && g.tgt && a < 2 ^ bits (g.word 2) 37 32 && (q.op = .rd || q.op = .wr || q.op = .wrp || q.op = .amo) && (niMgmt src.toNat || (g.bound && q.qual.toNat = g.slice.val))
    s.isGraft x.val = true ∧ g.into.find? (fun i => i.m = m && i.tag = tag) = none ∧ g.late.contains (m, tag) = false
    ∧ s.bunged ni = false ∧ allowed = true ∧ g.into.length < 4096 := by decide +kernel
theorem witness_GraftAnswers_3 :
    let x : Site := 13
    let m : Fin 8 := 0
    let tag : BitVec 12 := 5
    let q : NReq := ⟨.rd, .bulk, 0, 0x34, 2, 0, 9, false⟩
    let src : NI := 0xFC
    let s : State := (grafted (fun g => {g with into := [⟨0, 5, 9, 3, .rd, 0, none, 0⟩], ovdSec := 15}))
    let g := s.gateOf x.val
    let a := 64 * q.addr.toNat % 2 ^ 32
    let ni := niSite x.val (bits a 10 8)
    let allowed := g.adm && g.tgt && a < 2 ^ bits (g.word 2) 37 32 && (q.op = .rd || q.op = .wr || q.op = .wrp || q.op = .amo) && (niMgmt src.toNat || (g.bound && q.qual.toNat = g.slice.val))
    s.isGraft x.val = true ∧ s.bunged ni = false ∧ allowed = false ∧ 15 ≤ g.ovdSec
    ∧ (let i := (⟨0, 5, 9, 3, .rd, 0, none, 0⟩ : IntoGraft); g.into.find? (fun i => i.m = m && i.tag = tag) = some i) := by decide +kernel
theorem witness_GraftAnswers_4 :
    let x : Site := 13
    let m : Fin 8 := 0
    let tag : BitVec 12 := 5
    let s : State := (grafted (fun g => {g with late := [(0, 5)]}))
    let g := s.gateOf x.val
    s.isGraft x.val = true ∧ g.into.find? (fun i => i.m = m && i.tag = tag) = none ∧ g.late.contains (m, tag) = true := by decide +kernel
theorem witness_GraftAnswers_5 :
    let x : Site := 13
    let s : State := loaded
    s.isGraft x.val = false := by decide +kernel
theorem witness_GraftAnswers_6 :
    let x : Site := 13
    let q : NReq := ⟨.rd, .bulk, 0, 0x34, 2, 0, 9, false⟩
    let s : State := ((grafted (fun g => {g with cap := [(2, 0x2000000002)], adm := true})).modNi (niSite 13 0) (fun n => {n with eng := true}))
    let a := 64 * q.addr.toNat % 2 ^ 32
    let ni := niSite x.val (bits a 10 8)
    s.isGraft x.val = true ∧ s.bunged ni = true := by decide +kernel

/-! `Obligations.GraftControl`, part GraftRegisters. -/

theorem witness_GraftRegisters_1 :
    let who : Who := .mgd
    let x : Site := 13
    let rule : Fin 16 := 0
    let word : Fin 4 := 0
    let v : Word := 0x17FFFFC00
    let s : State := (grafted (fun g => {g with bound := true, rule := [(0, {w0 := 0xC41})], vlim := 5, vioSec := 5}))
    let g := s.gateOf x.val
    let r := (g.ruleOf rule.val).wrote word.val v
    let stands := (who.driver = false ∨ g.bound = true) ∧ (r.en = false ∨ s.ruleOk g r who.mgmt = true)
    let sl := bits v.toNat 7 2 % 64
    let shut := s.bunged (niService (fieldOfSite x.val) 3)
    (who.mgmt = true ∨ (who.driver = true ∧ shut = false)) ∧ stands ∧ who.mgmt = true
    ∧ (g.bound = false ∨ g.slice.val = sl) ∧ bit v.toNat 8 = false ∧ g.kept = [] ∧ s.isGraft x.val = true ∧ g.vlim ≠ 0
    ∧ g.vlim.toNat ≤ g.vioSec
    ∧ (let t : State := nx (exec (.gateCtlWrite who x v) s); let p := ((0, {w0 := 0xC40}) : Nat × Rule); p ∈ (t.gateOf x.val).rule) := by decide +kernel
theorem witness_GraftRegisters_2 :
    let who : Who := .host .ioa
    let x : Site := 13
    let rule : Fin 16 := 0
    let word : Fin 4 := 1
    let v : Word := 0x1000
    let s : State := (grafted id)
    let g := s.gateOf x.val
    let r := (g.ruleOf rule.val).wrote word.val v
    let stands := (who.driver = false ∨ g.bound = true) ∧ (r.en = false ∨ s.ruleOk g r who.mgmt = true)
    let shut := s.bunged (niService (fieldOfSite x.val) 3)
    (who.mgmt = true ∨ (who.driver = true ∧ shut = false)) ∧ (¬ stands) ∧ who.mgmt = false ∧ s.isGraft x.val = true
    ∧ g.vioSec < g.vlim.toNat ∧ g.ovdSec < 16 := by decide +kernel
theorem witness_GraftRegisters_3 :
    let who : Who := .mgd
    let x : Site := 13
    let rule : Fin 16 := 0
    let v : Word := 4
    let s : State := (grafted (fun g => {g with bound := true, rule := [(0, {w0 := 0xC41})], ovdSec := 16}))
    let g := s.gateOf x.val
    let sl := bits v.toNat 7 2 % 64
    who.mgmt = true ∧ g.bound = true ∧ g.slice.val ≠ sl ∧ s.isGraft x.val = true ∧ g.vioSec < g.vlim.toNat
    ∧ 16 ≤ g.ovdSec := by decide +kernel
theorem witness_GraftRegisters_4 :
    let who : Who := .core 0
    let x : Site := 13
    let s : State := (grafted id)
    let shut := s.bunged (niService (fieldOfSite x.val) 3)
    who.mgmt = false ∧ who.driver = false ∧ shut = false := by decide +kernel
theorem witness_GraftRegisters_5 :
    let who : Who := .host .ioa
    let x : Site := 13
    let s : State := (shut (niService (fieldOfSite 13) 3) (grafted id))
    let shut := s.bunged (niService (fieldOfSite x.val) 3)
    who.mgmt = false ∧ who.driver = true ∧ shut = true := by decide +kernel

/-! `Obligations.GraftControl`, part GraftAdmission. -/

theorem witness_GraftAdmission_1 :
    let x : Site := 13
    let e : AdmEvidence := ⟨1, 1, 0, 0, [1, 0x1FF, 0x10000, 0, 0, 0, 0, 0x101FE], true, List.replicate 16 (0, true), true, true, true⟩
    let step : Fin 16 := 10
    let cause : Fin 8 := 1
    let s : State := admits
    let g := s.gateOf x.val
    s.isGraft x.val = true ∧ s.populated x.val = true ∧ s.admitting x.val = true ∧ s.boot.feat.getLsbD 3 = true
    ∧ s.admissionCode x.val e = 0 ∧ 1 ≤ step.val ∧ step.val ≤ 10 ∧ cause.val < 4 ∧ g.fenced = false
    ∧ (let p := ((1, 13) : Nat × Nat); p ∈ ([(1, x.val), (2, min e.minor.toNat 2), (3, b2n (bit (nth 0 e.words 2).toNat 0)), (4, bits (nth 0 e.words 2).toNat 28 16), (5, 1)] : List (Nat × Nat)))
    ∧ (let j := 7; j < 8) := by decide +kernel
theorem witness_GraftAdmission_2 :
    let x : Site := 13
    let s : State := (grafted (fun g => {g with fenced := true}))
    let g := s.gateOf x.val
    s.isGraft x.val = true ∧ s.populated x.val = true ∧ s.admitting x.val = false ∧ g.fenced = true := by decide +kernel
theorem witness_GraftAdmission_3 :
    let x : Site := 13
    let e : AdmEvidence := ⟨2, 1, 0, 0, [1, 0x1FF, 0x10000, 0, 0, 0, 0, 0x101FE], true, List.replicate 16 (0, true), true, true, true⟩
    let s : State := admits
    s.isGraft x.val = true ∧ s.populated x.val = true ∧ s.admitting x.val = true ∧ s.boot.feat.getLsbD 3 = true
    ∧ s.admissionCode x.val e ≠ 0 := by decide +kernel
theorem witness_GraftAdmission_4 :
    let x : Site := 13
    let s : State := {admits with boot := {running := true}}
    s.isGraft x.val = true ∧ s.populated x.val = true ∧ s.admitting x.val = true ∧ s.boot.feat.getLsbD 3 = false := by decide +kernel

/-! `Obligations.RegisterAccess`, part ControlWindow. -/

theorem witness_ControlWindow_1 :
    let e : Ep := .ioa
    let data : Word := 1
    let s : State := (epIs (fun h => h))
    let h := s.epOf e
    h.linkUp = false
    ∧ (let bad := bit data.toNat 0 && (11 < bits data.toNat 47 36 || 44 < bits data.toNat 35 30); bad = false) := by decide +kernel
theorem witness_ControlWindow_2 :
    let e : Ep := .ioa
    let wr : Bool := false
    let s : State := (epIs (fun h => {epUp h with stopped := true}))
    let h := s.epOf e
    let waits := (wr && s.hostWaits e) || !h.later.isEmpty
    let up := h.linkUp = true ∧ waits = false
    up ∧ h.stopped = true := by decide +kernel
theorem witness_ControlWindow_3 :
    let e : Ep := .ioa
    let wr : Bool := false
    let off : BitVec 27 := 0x100000
    let size : Fin 9 := 3
    let s : State := (epIs epUp)
    let h := s.epOf e
    let fits := (size = 4 ∨ size = 8) ∧ off.toNat % size.val = 0
    let waits := (wr && s.hostWaits e) || !h.later.isEmpty
    let up := h.linkUp = true ∧ waits = false
    up ∧ h.stopped = false ∧ (¬ fits) := by decide +kernel
theorem witness_ControlWindow_4 :
    let e : Ep := .ioa
    let wr : Bool := true
    let off : BitVec 27 := 0x100000
    let size : Fin 9 := 8
    let s : State := (epIs epUp)
    let h := s.epOf e
    let fits := (size = 4 ∨ size = 8) ∧ off.toNat % size.val = 0
    let waits := (wr && s.hostWaits e) || !h.later.isEmpty
    let up := h.linkUp = true ∧ waits = false
    up ∧ h.stopped = false ∧ fits ∧ wr = true := by decide +kernel
theorem witness_ControlWindow_5 :
    let e : Ep := .ioa
    let wr : Bool := false
    let off : BitVec 27 := 0x100000
    let size : Fin 9 := 8
    let s : State := (epIs epUp)
    let h := s.epOf e
    let fits := (size = 4 ∨ size = 8) ∧ off.toNat % size.val = 0
    let waits := (wr && s.hostWaits e) || !h.later.isEmpty
    let up := h.linkUp = true ∧ waits = false
    let o := 0x50000000
    up ∧ h.stopped = false ∧ fits ∧ wr = false ∧ windowHub (off.toNat / 8 * 8) = some o ∧ s.boot.ready = true
    ∧ h.flr = false ∧ (hubAt o).void = false ∧ s.bunged (hubOwner o) = false := by decide +kernel
theorem witness_ControlWindow_6 :
    let data : Word := 0xC00000000001
    let bad := bit data.toNat 0 && (11 < bits data.toNat 47 36 || 44 < bits data.toNat 35 30)
    bad = true := by decide +kernel
theorem witness_ControlWindow_7 :
    let e : Ep := .ioa
    let wr : Bool := false
    let off : BitVec 27 := 0x100000
    let size : Fin 9 := 8
    let s : State := {epIs epUp with boot := {}}
    let h := s.epOf e
    let fits := (size = 4 ∨ size = 8) ∧ off.toNat % size.val = 0
    let waits := (wr && s.hostWaits e) || !h.later.isEmpty
    let up := h.linkUp = true ∧ waits = false
    let o := 0x50000000
    up ∧ h.stopped = false ∧ fits ∧ wr = false ∧ windowHub (off.toNat / 8 * 8) = some o ∧ s.boot.ready = false := by decide +kernel
theorem witness_ControlWindow_8 :
    let e : Ep := .ioa
    let wr : Bool := false
    let s : State := (epIs (fun h => {epUp h with later := [.aperture 0 4]}))
    let h := s.epOf e
    let waits := (wr && s.hostWaits e) || !h.later.isEmpty
    h.linkUp = true ∧ waits = true := by decide +kernel
theorem witness_ControlWindow_9 :
    let e : Ep := .ioa
    let wr : Bool := false
    let off : BitVec 27 := 0x100000
    let size : Fin 9 := 8
    let s : State := (shut (hubOwner 0x50000000) (epIs epUp))
    let h := s.epOf e
    let fits := (size = 4 ∨ size = 8) ∧ off.toNat % size.val = 0
    let waits := (wr && s.hostWaits e) || !h.later.isEmpty
    let up := h.linkUp = true ∧ waits = false
    let o := 0x50000000
    up ∧ h.stopped = false ∧ fits ∧ wr = false ∧ windowHub (off.toNat / 8 * 8) = some o ∧ s.boot.ready = true
    ∧ h.flr = false ∧ (hubAt o).void = false ∧ s.bunged (hubOwner o) = true := by decide +kernel

/-! `Obligations.RegisterAccess`, part RegisterWrites. -/

theorem witness_RegisterWrites_1 :
    let who : Who := .mgd
    let pa : PA := 0xF050000000
    let e : Ep := .ioa
    let o : BitVec 20 := 0x408
    let s : State := loaded
    let shut := s.bunged (hubOwner (pa.toNat - 0xF000000000))
    0xF000000000 ≤ pa.toNat ∧ (∀ e, who ≠ .host e) ∧ (shut = false ∨ who.mgmt = true) ∧ who ≠ .host e
    ∧ (let n : Fin 16 := 2; o.toNat = 0x400 + 4 * n.val) := by
  simp only [forall_ep]; decide +kernel
theorem witness_RegisterWrites_2 :
    let pa : PA := 0x1000
    pa.toNat < 0xF000000000 := by decide +kernel
theorem witness_RegisterWrites_3 :
    let who : Who := .host .ioa
    let pa : PA := 0xF010000000
    let s : State := loaded
    let shut := s.bunged (hubOwner (pa.toNat - 0xF000000000))
    0xF000000000 ≤ pa.toNat ∧ shut = true ∧ who.mgmt = false := by decide +kernel
theorem witness_RegisterWrites_4 :
    let pa : PA := 0xF010000000
    let s : State := (served loaded)
    let r := hubAt ((pa.toNat - 0xF000000000) / 8 * 8)
    let shut := s.bunged (hubOwner (pa.toNat - 0xF000000000))
    0xF000000000 ≤ pa.toNat ∧ shut = false ∧ r.hostRo = false := by decide +kernel
theorem witness_RegisterWrites_5 :
    let pa : PA := 0xF018000000
    let s : State := (served loaded)
    let r := hubAt ((pa.toNat - 0xF000000000) / 8 * 8)
    let shut := s.bunged (hubOwner (pa.toNat - 0xF000000000))
    0xF000000000 ≤ pa.toNat ∧ shut = false ∧ r.hostRo = true := by decide +kernel

/-! `Obligations.HostAccesses`, part ApertureAccess. -/

theorem witness_ApertureAccess_1 :
    let e : Ep := .ioa
    let off : BitVec 42 := 0x1000
    let len : Fin 4097 := 64
    let data : List Byte := [1, 2]
    let s : State := (epIs epUp)
    let h := s.epOf e
    let g := h.segOf off.toNat
    let pa := segPa g off.toNat
    let now := s.hostWaits e = false
    h.linkUp = true ∧ h.stopped = false ∧ bit g 0 = true ∧ now ∧ bit g 1 = false
    ∧ (let a := s.apSectors e (bits g 7 2) pa len.val; a.1 = .ok ∧ (∀ c ∈ a.2.1, c.2 = false))
    ∧ (let b := s.agentPut (epRights e) .wri (bits g 7 2) pa data; b.1 = .ok) := by decide +kernel
theorem witness_ApertureAccess_2 :
    let e : Ep := .ioa
    let s : State := (epIs (fun h => h))
    let h := s.epOf e
    h.linkUp = false := by decide +kernel
theorem witness_ApertureAccess_3 :
    let e : Ep := .ioa
    let s : State := (epIs (fun h => {epUp h with stopped := true}))
    let h := s.epOf e
    let now := s.hostWaits e = false
    h.linkUp = true ∧ h.stopped = true ∧ now := by decide +kernel
theorem witness_ApertureAccess_4 :
    let e : Ep := .ioa
    let off : BitVec 42 := 0x1000
    let s : State := (epIs (fun h => {epUp h with seg := []}))
    let h := s.epOf e
    let g := h.segOf off.toNat
    let now := s.hostWaits e = false
    h.linkUp = true ∧ h.stopped = false ∧ bit g 0 = false ∧ now := by decide +kernel
theorem witness_ApertureAccess_5 :
    let e : Ep := .ioa
    let off : BitVec 42 := 0x1000
    let len : Fin 4097 := 64
    let data : List Byte := [1, 2]
    let s : State := {epIs epUp with trellis := {}}
    let h := s.epOf e
    let g := h.segOf off.toNat
    let pa := segPa g off.toNat
    let now := s.hostWaits e = false
    h.linkUp = true ∧ h.stopped = false ∧ bit g 0 = true ∧ now ∧ bit g 1 = false
    ∧ (let a := s.apSectors e (bits g 7 2) pa len.val; a.1 ≠ .ok)
    ∧ (let b := s.agentPut (epRights e) .wri (bits g 7 2) pa data; b.1 ≠ .ok) := by decide +kernel
theorem witness_ApertureAccess_6 :
    let e : Ep := .ioa
    let off : BitVec 42 := 0x1000
    let s : State := (epIs (fun h => {epUp h with seg := [(0, 3)]}))
    let h := s.epOf e
    let g := h.segOf off.toNat
    h.linkUp = true ∧ h.stopped = false ∧ bit g 0 = true ∧ bit g 1 = true := by decide +kernel
theorem witness_ApertureAccess_7 :
    let e : Ep := .ioa
    let s : State := (epIs (fun h => {epUp h with later := [.aperture 0 4]}))
    let h := s.epOf e
    h.linkUp = true ∧ s.hostWaits e = true := by decide +kernel

/-! `Obligations.HostAccesses`, part DoorbellWindow. -/

theorem witness_DoorbellWindow_1 :
    let e : Ep := .ioa
    let off : BitVec 26 := 0
    let size : Fin 9 := 4
    let s : State := (epIs (fun h => {epUp h with stopped := true}))
    let h := s.epOf e
    let fits := (size = 4 ∨ size = 8) ∧ off.toNat % size.val = 0
    let up := h.linkUp = true ∧ s.hostWaits e = false
    up ∧ (h.stopped = true ∨ s.boot.ready = false ∨ ¬ fits) := by decide +kernel
theorem witness_DoorbellWindow_2 :
    let e : Ep := .ioa
    let s : State := (epIs (fun h => h))
    let h := s.epOf e
    h.linkUp = false := by decide +kernel
theorem witness_DoorbellWindow_3 :
    let e : Ep := .ioa
    let off : BitVec 26 := 0
    let size : Fin 9 := 4
    let s : State := (epIs epUp)
    let h := s.epOf e
    let fits := (size = 4 ∨ size = 8) ∧ off.toNat % size.val = 0
    let up := h.linkUp = true ∧ s.hostWaits e = false
    up ∧ h.stopped = false ∧ s.boot.ready = true ∧ fits ∧ off.toNat % 4096 = 0 := by decide +kernel
theorem witness_DoorbellWindow_4 :
    let e : Ep := .ioa
    let off : BitVec 26 := 8
    let size : Fin 9 := 4
    let s : State := (epIs epUp)
    let h := s.epOf e
    let fits := (size = 4 ∨ size = 8) ∧ off.toNat % size.val = 0
    let up := h.linkUp = true ∧ s.hostWaits e = false
    up ∧ h.stopped = false ∧ s.boot.ready = true ∧ fits ∧ off.toNat % 4096 ≠ 0 := by decide +kernel
theorem witness_DoorbellWindow_5 :
    let e : Ep := .ioa
    let s : State := (epIs (fun h => {epUp h with later := [.aperture 0 4]}))
    let h := s.epOf e
    h.linkUp = true ∧ s.hostWaits e = true := by decide +kernel

/-! `Obligations.HostAccesses`, part HostWindow. -/

theorem witness_HostWindow_1 :
    let e : Ep := .ioa
    let q : HwReq := hwRead
    let id : Nat := 0
    let s : State := (epIs (fun h => {epUp h with later := [.aperture 5 64, .control true 8 8 1]}))
    let h := s.epOf e
    let ni := niEp e (bits q.iova.toNat 9 8)
    s.bunged ni = false ∧ h.takes = true ∧ h.sentRead id = none ∧ h.outq = []
    ∧ (let off := 5; let len := 64; h.later[id]? = some (.aperture off len)) := by decide +kernel
theorem witness_HostWindow_2 :
    let e : Ep := .ioa
    let id : Nat := 5
    let s : State := (epIs (fun h => {epUp h with outq := [sentEntry]}))
    let h := s.epOf e
    h.later[id]? = none
    ∧ (let r := ⟨5, hwRead, 0, true, 1, 5, none⟩; let data := [1, 2, 3, 4, 5, 6, 7, 8]; h.sentRead id = some r ∧ data.length = h.joinedLen id) := by decide +kernel
theorem witness_HostWindow_3 :
    let e : Ep := .ioa
    let q : HwReq := hwRead
    let s : State := (epIs (fun h => h))
    let h := s.epOf e
    let ni := niEp e (bits q.iova.toNat 9 8)
    s.bunged ni = false ∧ h.takes = false := by decide +kernel
theorem witness_HostWindow_4 :
    let e : Ep := .ioa
    let q : HwReq := hwRead
    let s : State := up
    let ni := niEp e (bits q.iova.toNat 9 8)
    s.bunged ni = true := by decide +kernel
theorem witness_HostWindow_5 :
    let e : Ep := .ioa
    let id : Nat := 1
    let s : State := (epIs (fun h => {epUp h with later := [.aperture 5 64, .control true 8 8 1]}))
    let h := s.epOf e
    let off := 8
    let size := 8
    let v := 1
    h.later[id]? = some (.control true off size v) := by decide +kernel

/-! `Obligations.HostAccesses`, part MsixVectors. -/

theorem witness_MsixVectors_1 :
    let e : Ep := .ioa
    let vec : Fin 2048 := 5
    let s : State := (epIs (fun h => {epUp h with msix := [(5, {mask := false})]}))
    let h := s.epOf e
    let m := h.msixOf vec.val
    h.fmask = false ∧ m.mask = false ∧ h.msixEn = true ∧ h.takes = true ∧ h.stopped = false ∧ h.outq = [] := by decide +kernel
theorem witness_MsixVectors_2 :
    let e : Ep := .ioa
    let vec : Fin 2048 := 5
    let s : State := (epIs (fun h => h))
    let h := s.epOf e
    let m := h.msixOf vec.val
    (h.fmask = true ∨ m.mask = true ∨ h.msixEn = false ∨ h.takes = false) := by decide +kernel

/-! `Obligations.Endpoints`, part EndpointResets. -/

theorem witness_EndpointResets_1 :
    let e : Ep := .ioa
    let s : State := (epIs epUp)
    let h := s.epOf e
    s.epMayLink e = true ∧ h.started = true ∧ bit s.power.strap.toNat (1 + e.code) = false
    ∧ (let c := (.fundamentalReset .ioa, true); c ∈ [(Instr.fundamentalReset e, true), (.hotReset e, false), (.flr e, false)]) := by decide +kernel
theorem witness_EndpointResets_2 :
    let e : Ep := .ioa
    let s : State := (epIs (fun h => h))
    s.epMayLink e = false := by decide +kernel

/-! `Obligations.Endpoints`, part EndpointConfiguration. -/

theorem witness_EndpointConfiguration_1 :
    let e : Ep := .ioa
    let s : State := (epIs (fun h => {epUp h with outq := [sentEntry, .req ⟨6, hwRead, 0, false, 0, 6, none⟩]}))
    let err := .cplTimeout
    let b := 14
    err ≠ .uncorrectableInternal ∧ pcieErrPlace err = (true, b) ∧ bit (s.epOf e).aerUncMask b = false
    ∧ (s.epOf e).aerFirst = none := by decide +kernel
theorem witness_EndpointConfiguration_2 :
    let e : Ep := .ioa
    let v : Byte := 0
    let s : State := (epIs (fun h => {epUp h with outq := [sentEntry, .req ⟨6, hwRead, 0, false, 0, 6, none⟩]}))
    bit v.toNat 0 = false
    ∧ (let t : State := nx (exec (.hostConfigWrite e .busMaster v) s); let r := (⟨5, hwRead, 0, true, 1, 5, none⟩ : OutReq); Outb.req r ∈ (t.epOf e).outq)
    ∧ (let err := .receiver; let b := 0; pcieErrPlace err = (false, b)) := by decide +kernel
theorem witness_EndpointConfiguration_3 :
    let e : Ep := .ioa
    let s : State := (epIs (fun h => {epUp h with aerFirst := some .cplTimeout}))
    let err := .cplTimeout
    (s.epOf e).aerFirst = some err := by decide +kernel

/-! `Obligations.MachineryCommands`, part ContextCommands. -/

theorem witness_ContextCommands_1 :
    let b : Fin 4 := 2
    let x : CtxId := 5
    let q : QId := 3
    let s : State := (hubIs (fun q => q) (fun h => {h with cmd := [(2, {arg0 := 1})]}))
    let blk := s.cmdOf b.val
    let c := s.ctxOf x.val
    let legal := c.smask ≠ 0 ∧ s.badSites c.smask = false ∧ saveAreaOk c.sbase.toNat = true
    let frozen := s.sliceFrozen c.slice.val
    blk.busy = false ∧ legal ∧ c.state = .free ∧ (s.sliceOf c.slice.val).state = .active ∧ blk.arg0.getLsbD 0 = true
    ∧ c.want = none ∧ c.pos = none ∧ ((c.state ≠ .live ∧ c.state ≠ .lost) ∨ frozen = true)
    ∧ (c.state ≠ .live ∨ frozen = true) ∧ (c.state ≠ .live ∨ c.pos = none) := by decide +kernel
theorem witness_ContextCommands_2 :
    let b : Fin 4 := 2
    let x : CtxId := 1
    let q : QId := 3
    let s : State := (hubIs (fun q => q) (fun h => h))
    let blk := s.cmdOf b.val
    let c := s.ctxOf x.val
    let legal := c.smask ≠ 0 ∧ s.badSites c.smask = false ∧ saveAreaOk c.sbase.toNat = true
    let frozen := s.sliceFrozen c.slice.val
    blk.busy = false ∧ legal ∧ (c.state ≠ .free ∨ (s.sliceOf c.slice.val).state ≠ .active)
    ∧ (c.state = .live ∨ c.state = .lost) ∧ frozen = false ∧ c.state = .live ∧ c.saving = none
    ∧ (let p := 0; c.pos = some p) := by decide +kernel
theorem witness_ContextCommands_3 :
    let b : Fin 4 := 2
    let x : CtxId := 9
    let q : QId := 3
    let s : State := (hubIs (fun q => q) (fun h => h))
    let blk := s.cmdOf b.val
    let c := s.ctxOf x.val
    let legal := c.smask ≠ 0 ∧ s.badSites c.smask = false ∧ saveAreaOk c.sbase.toNat = true
    blk.busy = false ∧ (¬ legal) := by decide +kernel

/-! `Obligations.MachineryCommands`, part QueueCommands. -/

theorem witness_QueueCommands_1 :
    let b : Fin 4 := 2
    let q : QId := 3
    let s : State := (hubIs (fun q => {q with state := .off}) (fun h => h))
    let u := s.queueOf q.val
    let legal := (u.kind = 1 ∨ u.kind = 2) ∧ u.lgn.toNat ≤ 12 ∧ u.rbase.toNat % 64 = 0 ∧ u.sline.toNat % 64 = 0 ∧ (u.kind = 1 → u.cbase.toNat % 32 = 0)
    let owner := (s.ctxOf u.ctx.val).state
    (s.cmdOf b.val).busy = false ∧ legal ∧ u.state = .off ∧ owner = .live ∧ u.state ≠ .on ∧ u.state ≠ .error
    ∧ (u.state ≠ .error ∨ u.err ≠ 1) := by decide +kernel
theorem witness_QueueCommands_2 :
    let b : Fin 4 := 2
    let q : QId := 3
    let s : State := (hubIs (fun q => {q with state := .error, err := 1, failed := 2}) (fun h => h))
    let u := s.queueOf q.val
    let legal := (u.kind = 1 ∨ u.kind = 2) ∧ u.lgn.toNat ≤ 12 ∧ u.rbase.toNat % 64 = 0 ∧ u.sline.toNat % 64 = 0 ∧ (u.kind = 1 → u.cbase.toNat % 32 = 0)
    let owner := (s.ctxOf u.ctx.val).state
    (s.cmdOf b.val).busy = false ∧ legal ∧ (u.state ≠ .off ∨ owner ≠ .live) ∧ (u.state = .on ∨ u.state = .error)
    ∧ u.state = .error ∧ u.err = 1 := by decide +kernel
theorem witness_QueueCommands_3 :
    let b : Fin 4 := 2
    let q : QId := 3
    let s : State := (hubIs (fun q => {q with lgn := 13}) (fun h => h))
    let u := s.queueOf q.val
    let legal := (u.kind = 1 ∨ u.kind = 2) ∧ u.lgn.toNat ≤ 12 ∧ u.rbase.toNat % 64 = 0 ∧ u.sline.toNat % 64 = 0 ∧ (u.kind = 1 → u.cbase.toNat % 32 = 0)
    (s.cmdOf b.val).busy = false ∧ (¬ legal) := by decide +kernel

/-! `Obligations.MachineryCommands`, part FenceCommands. -/

theorem witness_FenceCommands_1 :
    let b : Fin 4 := 2
    let f : FenceId := 5
    let s : State := (hubIs (fun q => q) (fun h => {h with fence := [(5, {armed := true, aband := true, slice := 2})]}))
    let o := s.fenceOf f.val
    let v := (s.cmdOf b.val).arg0
    (s.cmdOf b.val).busy = false ∧ fenceReserved v = false ∧ (o.armed = false ∨ o.aband = true) ∧ o.armed = true
    ∧ (o.aband = true ∨ s.fenceWaited f.val = false) := by decide +kernel
theorem witness_FenceCommands_2 :
    let b : Fin 4 := 2
    let f : FenceId := 5
    let s : State := (loaded.modThr 0 (fun t => {t with wait := .fence 3 5 7}))
    let o := s.fenceOf f.val
    let v := (s.cmdOf b.val).arg0
    (s.cmdOf b.val).busy = false ∧ fenceReserved v = false ∧ o.armed = true ∧ o.aband = false
    ∧ s.fenceWaited f.val = true := by decide +kernel
theorem witness_FenceCommands_3 :
    let b : Fin 4 := 2
    let s : State := (hubIs (fun q => q) (fun h => {h with cmd := [(2, {arg0 := 0xFFFFFFFFFFFFFFFF})]}))
    let v := (s.cmdOf b.val).arg0
    (s.cmdOf b.val).busy = false ∧ fenceReserved v = true := by decide +kernel
theorem witness_FenceCommands_4 :
    let b : Fin 4 := 2
    let f : FenceId := 5
    let s : State := (hubIs (fun q => q) (fun h => {h with fence := []}))
    let o := s.fenceOf f.val
    (s.cmdOf b.val).busy = false ∧ o.armed = false := by decide +kernel

/-! `Obligations.MachineryRegisters`, part SlotWrites. -/

theorem witness_SlotWrites_1 :
    let h : Hart := 1
    let x : CtxId := 5
    let q : QId := 3
    let i : Fin 16 := 1
    let j : Fin 8 := 1
    let s : State := (hubIs (fun q => q) (fun h => h))
    let c := s.ctxOf x.val
    let u := s.queueOf q.val
    1 ≤ i.val ∧ i.val ≤ 11 ∧ s.bunged (machineryNi x.val) = false ∧ c.state = .free ∧ j.val ≤ 3
    ∧ s.bunged (machineryNi q.val) = false ∧ u.state ≠ .off := by decide +kernel
theorem witness_SlotWrites_2 :
    let h : Hart := 1
    let x : CtxId := 1
    let q : QId := 3
    let s : State := (hubIs (fun q => q) (fun h => h))
    let c := s.ctxOf x.val
    c.state ≠ .free := by decide +kernel

/-! `Obligations.MachineryRegisters`, part Doorbells. -/

theorem witness_Doorbells_1 :
    let q : QId := 3
    let tail : Half := 1
    let h : Hart := 1
    let s : State := (hubIs (fun q => {q with tail := 1}) (fun h => h))
    let u := s.queueOf q.val
    let ents := 2 ^ (u.lgn.toNat + 4)
    let on := u.state = .on ∧ (s.ctxOf u.ctx.val).state = .live
    let va := u.rbase.toNat + 64 * (u.fetched.toNat % ents)
    on ∧ tail = u.tail ∧ s.bunged (machineryNi q.val) = false ∧ s.ownsQueue (.core h) q.val = true ∧ u.kind = 1
    ∧ u.stalled = false ∧ u.fetched ≠ u.tail ∧ s.ctxFrozen u.ctx.val = false
    ∧ (let pa := 0x1000; let k := 0; let bs := List.replicate 64 0; let t := (s.translate .none' 1 0x1000 .read).2; let w := (t.paGet (machinery q.val (t.ctxOf u.ctx.val).slice.val) 0 0x1000 64).2.2.2; s.translate .none' u.ctx.val va .read = (.cask pa k, t) ∧ t.paGet (machinery q.val (t.ctxOf u.ctx.val).slice.val) k pa 64 = (.ok, false, bs, w)) := by decide +kernel
theorem witness_Doorbells_2 :
    let q : QId := 3
    let tail : Half := 1
    let h : Hart := 1030
    let s : State := (hubIs (fun q => q) (fun h => h))
    let u := s.queueOf q.val
    let ents := 2 ^ (u.lgn.toNat + 4)
    let on := u.state = .on ∧ (s.ctxOf u.ctx.val).state = .live
    on ∧ (tail - u.tail).toNat < 2 ^ 31 ∧ tail ≠ u.tail ∧ u.kind = 1 ∧ (tail - u.head).toNat ≤ ents
    ∧ s.ctxFrozen u.ctx.val = false ∧ s.bunged (machineryNi q.val) = false ∧ s.ownsQueue (.core h) q.val = false
    ∧ (¬ on ∨ u.kind ≠ 1 ∨ u.fetched = u.tail) := by decide +kernel
theorem witness_Doorbells_3 :
    let q : QId := 3
    let tail : Half := 17
    let h : Hart := 1
    let s : State := (hubIs (fun q => q) (fun h => h))
    let u := s.queueOf q.val
    let ents := 2 ^ (u.lgn.toNat + 4)
    let on := u.state = .on ∧ (s.ctxOf u.ctx.val).state = .live
    on ∧ (tail - u.tail).toNat < 2 ^ 31 ∧ tail ≠ u.tail ∧ u.kind = 1 ∧ ents < (tail - u.head).toNat := by decide +kernel
theorem witness_Doorbells_4 :
    let q : QId := 3
    let tail : Half := 1
    let h : Hart := 1
    let s : State := (hubIs (fun q => {q with state := .off}) (fun h => h))
    let u := s.queueOf q.val
    let on := u.state = .on ∧ (s.ctxOf u.ctx.val).state = .live
    (¬ on ∨ 2 ^ 31 ≤ (tail - u.tail).toNat) := by decide +kernel
theorem witness_Doorbells_5 :
    let q : QId := 3
    let h : Hart := 1
    let s : State := (shut (machineryNi 3) (hubIs (fun q => q) (fun h => h)))
    s.bunged (machineryNi q.val) = true := by decide +kernel

/-! `Obligations.MachineryRegisters`, part AbortsEnd. -/

theorem witness_AbortsEnd_1 :
    let x : CtxId := 1
    let c : CoreId := 7
    let e : AbortEnd := .free
    let b : Option (Fin 4) := some 2
    let s : State := (ctxIs (fun c => {c with state := .abort, aborting := some (.free, some 2)}))
    (s.ctxOf x.val).aborting = some (e, b) ∧ (s.sliceOf (s.ctxOf x.val).slice.val).state ≠ .resetting ∧ e = .free
    ∧ (c ∉ s.hub.posHeld ∨ s.buffersFree c.val = false) ∧ (let k := 2; b = some k) := by decide +kernel
theorem witness_AbortsEnd_2 :
    let x : CtxId := 1
    let c : CoreId := 0
    let e : AbortEnd := .lost .link
    let b : Option (Fin 4) := none
    let s : State := (ctxIs (fun c => {c with state := .abort, aborting := some (.lost .link, none)}))
    let w := .link
    (s.ctxOf x.val).aborting = some (e, b) ∧ (s.sliceOf (s.ctxOf x.val).slice.val).state ≠ .resetting ∧ e = .lost w := by decide +kernel
theorem witness_AbortsEnd_3 :
    let x : CtxId := 1
    let c : CoreId := 0
    let s : State := (hubIs (fun q => q) (fun h => {h with posHeld := [0, 5]}))
    (s.ctxOf x.val).aborting = none ∧ (s.sliceOf (s.ctxOf x.val).slice.val).state ≠ .resetting ∧ c ∈ s.hub.posHeld
    ∧ s.buffersFree c.val = true := by decide +kernel

/-! `Obligations.Translation`, part Walks. -/

theorem witness_Walks_1 :
    let id : Nat := 7
    let st : Status := .ok
    let poison : Bool := false
    let entry : Word := 0x101f
    let s : State := (hubIs (fun q => q) (fun h => {h with walks := [(⟨7, 1, ⟨1, 0x1000, .read, true, 2, 0, 0x1000, 0, 0x5000, 0, 12, 15, 12⟩⟩ : ThreadWalk)]}))
    let q := (⟨7, 1, ⟨1, 0x1000, .read, true, 2, 0, 0x1000, 0, 0x5000, 0, 12, 15, 12⟩⟩ : ThreadWalk)
    let r := s.walkNext q.w st poison entry
    let e := pte entry
    s.hub.walks.find? (fun w => w.id = id) = some q ∧ (∀ w, r ≠ .read w) ∧ st = .ok ∧ poison = false ∧ e.v = true
    ∧ q.w.phase = 2 ∧ s.badS2 e q.w.l2 = false ∧ e.leaf = true ∧ permOk (permBits e.r e.w e.x false) q.w.acc = true := by
  simp only [notRead_iff]; decide +kernel
theorem witness_Walks_2 :
    let id : Nat := 7
    let s : State := (hubIs (fun q => q) (fun h => h))
    (∀ w ∈ s.hub.walks, w.id ≠ id) := by decide +kernel
theorem witness_Walks_3 :
    let id : Nat := 7
    let st : Status := .refused
    let s : State := (hubIs (fun q => q) (fun h => {h with walks := [(⟨7, 1, ⟨1, 0x1000, .read, true, 1, 0, 0x1000, 0, 0x5000, 0, 12, 15, 12⟩⟩ : ThreadWalk)]}))
    let q := (⟨7, 1, ⟨1, 0x1000, .read, true, 1, 0, 0x1000, 0, 0x5000, 0, 12, 15, 12⟩⟩ : ThreadWalk)
    s.hub.walks.find? (fun w => w.id = id) = some q ∧ st ≠ .ok := by decide +kernel
theorem witness_Walks_4 :
    let id : Nat := 7
    let st : Status := .ok
    let poison : Bool := true
    let s : State := (hubIs (fun q => q) (fun h => {h with walks := [(⟨7, 1, ⟨1, 0x1000, .read, true, 1, 0, 0x1000, 0, 0x5000, 0, 12, 15, 12⟩⟩ : ThreadWalk)]}))
    let q := (⟨7, 1, ⟨1, 0x1000, .read, true, 1, 0, 0x1000, 0, 0x5000, 0, 12, 15, 12⟩⟩ : ThreadWalk)
    s.hub.walks.find? (fun w => w.id = id) = some q ∧ st = .ok ∧ poison = true := by decide +kernel
theorem witness_Walks_5 :
    let id : Nat := 7
    let st : Status := .ok
    let poison : Bool := false
    let entry : Word := 0
    let s : State := (hubIs (fun q => q) (fun h => {h with walks := [(⟨7, 1, ⟨1, 0x1000, .read, true, 1, 0, 0x1000, 0, 0x5000, 0, 12, 15, 12⟩⟩ : ThreadWalk)]}))
    let q := (⟨7, 1, ⟨1, 0x1000, .read, true, 1, 0, 0x1000, 0, 0x5000, 0, 12, 15, 12⟩⟩ : ThreadWalk)
    let e := pte entry
    s.hub.walks.find? (fun w => w.id = id) = some q ∧ st = .ok ∧ poison = false ∧ e.v = false := by decide +kernel
theorem witness_Walks_6 :
    let id : Nat := 7
    let st : Status := .ok
    let poison : Bool := false
    let entry : Word := 0x1003
    let s : State := (hubIs (fun q => q) (fun h => {h with walks := [(⟨7, 1, ⟨1, 0x1000, .read, true, 2, 0, 0x1000, 0, 0x5000, 0, 12, 15, 12⟩⟩ : ThreadWalk)]}))
    let q := (⟨7, 1, ⟨1, 0x1000, .read, true, 2, 0, 0x1000, 0, 0x5000, 0, 12, 15, 12⟩⟩ : ThreadWalk)
    let r := s.walkNext q.w st poison entry
    let e := pte entry
    s.hub.walks.find? (fun w => w.id = id) = some q ∧ st = .ok ∧ poison = false ∧ e.v = true ∧ q.w.phase = 2
    ∧ s.badS2 e q.w.l2 = false ∧ e.leaf = true ∧ permOk (permBits e.r e.w e.x false) q.w.acc = false := by decide +kernel
theorem witness_Walks_7 :
    let id : Nat := 7
    let st : Status := .ok
    let poison : Bool := false
    let entry : Word := 0x1003
    let s : State := (hubIs (fun q => q) (fun h => {h with walks := [(⟨7, 1, ⟨1, 0x1000, .read, true, 1, 0, 0x1000, 0, 0x5000, 0, 12, 15, 12⟩⟩ : ThreadWalk)]}))
    let q := (⟨7, 1, ⟨1, 0x1000, .read, true, 1, 0, 0x1000, 0, 0x5000, 0, 12, 15, 12⟩⟩ : ThreadWalk)
    let r := s.walkNext q.w st poison entry
    let e := pte entry
    s.hub.walks.find? (fun w => w.id = id) = some q ∧ st = .ok ∧ poison = false ∧ e.v = true ∧ q.w.phase = 1
    ∧ e.badS1 q.w.l1 = false ∧ e.leaf = true
    ∧ (permOk (permBits e.r e.w e.x e.u) q.w.acc = false ∨ (q.w.user = true ∧ e.u = false)) := by decide +kernel
theorem witness_Walks_8 :
    let id : Nat := 7
    let st : Status := .ok
    let poison : Bool := false
    let entry : Word := 0x1001
    let s : State := (hubIs (fun q => q) (fun h => {h with walks := [(⟨7, 1, ⟨1, 0x1000, .read, true, 1, 1, 0x1000, 0, 0x5000, 0, 12, 15, 12⟩⟩ : ThreadWalk)]}))
    let q := (⟨7, 1, ⟨1, 0x1000, .read, true, 1, 1, 0x1000, 0, 0x5000, 0, 12, 15, 12⟩⟩ : ThreadWalk)
    let r := s.walkNext q.w st poison entry
    let w := (match s.walkNext q.w st poison entry with | .read w => w | _ => q.w)
    s.hub.walks.find? (fun w => w.id = id) = some q ∧ r = .read w := by decide +kernel

/-! `Obligations.Translation`, part Invalidations. -/

theorem witness_Invalidations_1 :
    let b : Fin 4 := 2
    let i : BitVec 16 := 1
    let s : State := (hubIs (fun q => q) (fun h => {h with xcmd := [(2, {arg0 := 0x1000, arg1 := 0x2000})]}))
    let blk := s.xcmdOf b.val
    let n := i.toNat
    let a0 := blk.arg0.toNat
    let a1 := blk.arg1.toNat
    blk.busy = false ∧ n < 4096 ∧ rangeOk a0 a1 = true ∧ n < 64 ∧ blk.cur = none := by decide +kernel
theorem witness_Invalidations_2 :
    let b : Fin 4 := 2
    let i : BitVec 16 := 0x1000
    let s : State := (hubIs (fun q => q) (fun h => {h with xcmd := [(2, {arg0 := 0x1001, arg1 := 0x2000})]}))
    let blk := s.xcmdOf b.val
    let n := i.toNat
    let a0 := blk.arg0.toNat
    let a1 := blk.arg1.toNat
    blk.busy = false ∧ 4096 ≤ n ∧ (4096 ≤ n ∨ rangeOk a0 a1 = false) ∧ 64 ≤ n ∧ (64 ≤ n ∨ rangeOk a0 a1 = false) := by decide +kernel
theorem witness_Invalidations_3 :
    let b : Fin 4 := 2
    let i : BitVec 16 := 1
    let s : State := (hubIs (fun q => q) (fun h => {h with xcmd := [(2, {busy := true})]}))
    let blk := s.xcmdOf b.val
    let c := .invall b i
    blk.busy = true ∧ c ∈ [Instr.invctx b i, .invva b i, .invslice b i, .invipa b i, .invall b i, .xresume b i] := by decide +kernel
theorem witness_Invalidations_4 :
    let b : Fin 4 := 2
    let s : State := (hubIs (fun q => q) (fun h => {h with xcmd := [(2, {cur := some (1, 1)})]}))
    let blk := s.xcmdOf b.val
    blk.cur.isSome := by decide +kernel

/-! `Obligations.Translation`, part FaultResolution. -/

theorem witness_FaultResolution_1 :
    let b : Fin 4 := 2
    let i : BitVec 16 := 1
    let x : SliceId := 2
    let v : Word := 1
    let s : State := (hubIs (fun q => q) (fun h => {h with xcmd := [(2, {arg0 := 1})], faultq := [(2, {en := true, batch := [⟨1, 0, 0, 3, 0, false, false, 0, 0, 0, 64, 0, 2⟩]})]}))
    let blk := s.xcmdOf b.val
    let n := i.toNat
    let able := (s.ctxOf n).state = .live ∧ s.sliceFrozen (s.ctxOf n).slice.val = false
    let q := s.fqOf x.val
    let hd : Half := BitVec.ofNat 32 v.toNat
    blk.busy = false ∧ n < 4096 ∧ able ∧ blk.arg0.toNat ≤ 1 ∧ q.used < (hd - q.head).toNat ∧ q.en = true
    ∧ (s.sliceOf x.val).ticked = false ∧ q.folded = [] ∧ q.used < 8192
    ∧ (let r := (⟨1, 0, 0, 3, 0, false, false, 0, 0, 0, 64, 0, 2⟩ : FaultRec); q.batch = [r]) := by decide +kernel
theorem witness_FaultResolution_2 :
    let b : Fin 4 := 2
    let i : BitVec 16 := 1
    let s : State := (hubIs (fun q => q) (fun h => {h with xcmd := [(2, {arg0 := 2})], faultq := [(2, {en := true})]}))
    let blk := s.xcmdOf b.val
    let n := i.toNat
    let able := (s.ctxOf n).state = .live ∧ s.sliceFrozen (s.ctxOf n).slice.val = false
    blk.busy = false ∧ n < 4096 ∧ able ∧ blk.arg0 = 2 := by decide +kernel
theorem witness_FaultResolution_3 :
    let b : Fin 4 := 2
    let i : BitVec 16 := 9
    let x : SliceId := 2
    let s : State := (shut (machineryNi 2) (hubIs (fun q => q) (fun h => h)))
    let blk := s.xcmdOf b.val
    let n := i.toNat
    let able := (s.ctxOf n).state = .live ∧ s.sliceFrozen (s.ctxOf n).slice.val = false
    let q := s.fqOf x.val
    blk.busy = false ∧ n < 4096 ∧ blk.arg0.toNat ≤ 2 ∧ (¬ able) ∧ s.bunged (machineryNi x.val) = true ∧ q.en = false
    ∧ (q.en = false ∨ (s.sliceOf x.val).ticked = true) := by decide +kernel
theorem witness_FaultResolution_4 :
    let b : Fin 4 := 2
    let i : BitVec 16 := 1
    let s : State := (hubIs (fun q => q) (fun h => {h with xcmd := [(2, {arg0 := 3})], faultq := [(2, {})]}))
    let blk := s.xcmdOf b.val
    let n := i.toNat
    blk.busy = false ∧ (4096 ≤ n ∨ 2 < blk.arg0.toNat) := by decide +kernel
theorem witness_FaultResolution_5 :
    let x : SliceId := 2
    let v : Word := 0
    let s : State := (hubIs (fun q => q) (fun h => h))
    let q := s.fqOf x.val
    let hd : Half := BitVec.ofNat 32 v.toNat
    (hd - q.head).toNat ≤ q.used := by decide +kernel

/-! `Obligations.Slices`, part SliceCommands. -/

theorem witness_SliceCommands_1 :
    let b : Fin 4 := 2
    let x : SliceId := 7
    let s : State := (sliceIs {})
    let e := s.sliceOf x.val
    (s.scmdOf b.val).busy = false ∧ x.val < s.boot.nslice ∧ e.state = .free ∧ e.state ≠ .active ∧ e.state ≠ .frozen
    ∧ (let c := .slreset b x; c ∈ [Instr.slreset b x, .slremove b x]) := by decide +kernel
theorem witness_SliceCommands_2 :
    let b : Fin 4 := 2
    let x : SliceId := 7
    let s : State := (sliceIs {state := .frozen})
    let e := s.sliceOf x.val
    (s.scmdOf b.val).busy = false ∧ x.val < s.boot.nslice ∧ e.state ≠ .free ∧ e.state = .frozen := by decide +kernel
theorem witness_SliceCommands_3 :
    let b : Fin 4 := 2
    let x : SliceId := 7
    let s : State := (sliceIs {state := .active})
    let e := s.sliceOf x.val
    (s.scmdOf b.val).busy = false ∧ e.state = .active := by decide +kernel
theorem witness_SliceCommands_4 :
    let b : Fin 4 := 2
    let x : SliceId := 7
    let s : State := (sliceIs {}).modHub (fun h => {h with scmd := [(2, {busy := true})]})
    let c := .slcreate b x
    (s.scmdOf b.val).busy = true
    ∧ c ∈ [Instr.slcreate b x, .slfreeze b x, .slthaw b x, .slbottle b x, .sluncork b x, .slreset b x, .slremove b x] := by decide +kernel
theorem witness_SliceCommands_5 :
    let b : Fin 4 := 2
    let x : SliceId := 7
    let s : State := ({sliceIs {state := .freezing} with boot := {nslice := 4}})
    (s.scmdOf b.val).busy = false ∧ s.boot.nslice ≤ x.val := by decide +kernel

/-! `Obligations.Slices`, part Freezing. -/

theorem witness_Freezing_1 :
    let x : SliceId := 7
    let s : State := (sliceIs {state := .freezing, ticked := true, blk := some 2})
    let e := s.sliceOf x.val
    (e.state ≠ .freezing ∨ e.ticked = true) ∧ e.state = .freezing ∧ e.ticked = true ∧ s.frozenOk x.val = true
    ∧ (let b := 2; e.blk = some b) := by decide +kernel
theorem witness_Freezing_2 :
    let x : SliceId := 7
    let s : State := ({sliceIs {state := .freezing} with gate := [(13, {bound := true, slice := 7})]})
    let e := s.sliceOf x.val
    e.state = .freezing ∧ e.ticked = false ∧ s.sliceCtxs x.val = [] ∧ s.twin.switching = none
    ∧ (e.state ≠ .freezing ∨ e.ticked = false ∨ s.frozenOk x.val = false)
    ∧ (let t : State := nx (exec (.freezeTick x) s); let g := 13; tfind t.gate g ≠ none ∧ (s.gateOf g).bound = true ∧ (s.gateOf g).slice = x) := by decide +kernel

/-! `Obligations.Slices`, part Bottling. -/

theorem witness_Bottling_1 :
    let b : Fin 4 := 2
    let x : SliceId := 7
    let s : State := (sliceIs {state := .frozen})
    let a0 := (s.scmdOf b.val).arg0.toNat
    let a1 := (s.scmdOf b.val).arg1.toNat
    let limit := bits a1 63 32
    let e := s.sliceOf x.val
    let u := fun (op : Nat) => s.scmdStart b.val op x.val
    let img := (u 4).bottle x.val
    let put := (u 4).agentPut {} .wri (bits a1 5 0) a0 img
    let holds := (s.sliceCtxs x.val).isEmpty = false ∨ (s.sliceQueues x.val).isEmpty = false ∨ s.hub.fence.any (fun f => f.2.slice = x && f.2.armed) = true
    (s.scmdOf b.val).busy = false ∧ imageArgOk a0 limit = true ∧ s.boot.feat.getLsbD 5 = true ∧ e.state = .frozen
    ∧ img.length ≤ limit ∧ put.1 = .ok ∧ (e.state ≠ .active ∨ holds) := by decide +kernel
theorem witness_Bottling_2 :
    let b : Fin 4 := 2
    let x : SliceId := 7
    let s : State := ((sliceIs {state := .frozen}).modHub (fun h => {h with scmd := [(2, {arg1 := 0x4000000000})]}))
    let a0 := (s.scmdOf b.val).arg0.toNat
    let a1 := (s.scmdOf b.val).arg1.toNat
    let limit := bits a1 63 32
    let e := s.sliceOf x.val
    let u := fun (op : Nat) => s.scmdStart b.val op x.val
    let img := (u 4).bottle x.val
    (s.scmdOf b.val).busy = false ∧ imageArgOk a0 limit = true ∧ s.boot.feat.getLsbD 5 = true ∧ e.state = .frozen
    ∧ limit < img.length := by decide +kernel
theorem witness_Bottling_3 :
    let b : Fin 4 := 2
    let x : SliceId := 7
    let s : State := ((nx (exec (.slbottle 2 7) (sliceIs {state := .frozen}))).modSlice 7 (fun e => {e with state := .active}))
    let a0 := (s.scmdOf b.val).arg0.toNat
    let a1 := (s.scmdOf b.val).arg1.toNat
    let limit := bits a1 63 32
    let e := s.sliceOf x.val
    let u := fun (op : Nat) => s.scmdStart b.val op x.val
    let holds := (s.sliceCtxs x.val).isEmpty = false ∨ (s.sliceQueues x.val).isEmpty = false ∨ s.hub.fence.any (fun f => f.2.slice = x && f.2.armed) = true
    let hd := (u 5).agentBytes {} (bits a1 5 0) a0 256
    let len := fld hd.2.2.1 0x18 8
    let whole := hd.2.2.2.agentBytes {} (bits a1 5 0) a0 len
    let headOk := hd.1 = .ok ∧ hd.2.1 = false ∧ fld hd.2.2.1 0 8 = 0x31454C54544F4253 ∧ fld hd.2.2.1 8 2 = 1 ∧ len ≤ limit ∧ 256 ≤ len
    let bodyOk := whole.1 = .ok ∧ whole.2.1 = false ∧ secsInside whole.2.2.1 len = true ∧ whole.2.2.2.imageBad x.val whole.2.2.1 = false
    (s.scmdOf b.val).busy = false ∧ imageArgOk a0 limit = true ∧ s.boot.feat.getLsbD 5 = true ∧ e.state ≠ .frozen
    ∧ e.state = .active ∧ (¬ holds) ∧ headOk ∧ bodyOk := by decide +kernel
theorem witness_Bottling_4 :
    let b : Fin 4 := 2
    let s : State := ((sliceIs {}).modHub (fun h => {h with scmd := [(2, {arg0 := 32})]}))
    let a0 := (s.scmdOf b.val).arg0.toNat
    let a1 := (s.scmdOf b.val).arg1.toNat
    let limit := bits a1 63 32
    (s.scmdOf b.val).busy = false ∧ (imageArgOk a0 limit = false ∨ s.boot.feat.getLsbD 5 = false) := by decide +kernel
theorem witness_Bottling_5 :
    let b : Fin 4 := 2
    let x : SliceId := 7
    let s : State := (sliceIs {state := .active})
    let a0 := (s.scmdOf b.val).arg0.toNat
    let a1 := (s.scmdOf b.val).arg1.toNat
    let limit := bits a1 63 32
    let e := s.sliceOf x.val
    let u := fun (op : Nat) => s.scmdStart b.val op x.val
    let holds := (s.sliceCtxs x.val).isEmpty = false ∨ (s.sliceQueues x.val).isEmpty = false ∨ s.hub.fence.any (fun f => f.2.slice = x && f.2.armed) = true
    let hd := (u 5).agentBytes {} (bits a1 5 0) a0 256
    let len := fld hd.2.2.1 0x18 8
    let headOk := hd.1 = .ok ∧ hd.2.1 = false ∧ fld hd.2.2.1 0 8 = 0x31454C54544F4253 ∧ fld hd.2.2.1 8 2 = 1 ∧ len ≤ limit ∧ 256 ≤ len
    (s.scmdOf b.val).busy = false ∧ imageArgOk a0 limit = true ∧ s.boot.feat.getLsbD 5 = true ∧ e.state = .active
    ∧ (¬ holds) ∧ (¬ headOk) := by decide +kernel
theorem witness_Bottling_6 :
    let b : Fin 4 := 2
    let x : SliceId := 7
    let s : State := (((nx (exec (.slbottle 2 7) ((sliceIs {state := .frozen}).modFence 6 (fun _ => {armed := true, slice := 7})))).modSlice 7 (fun e => {e with state := .active})).modFence 6 (fun f => {f with slice := 2}))
    let a0 := (s.scmdOf b.val).arg0.toNat
    let a1 := (s.scmdOf b.val).arg1.toNat
    let limit := bits a1 63 32
    let e := s.sliceOf x.val
    let u := fun (op : Nat) => s.scmdStart b.val op x.val
    let holds := (s.sliceCtxs x.val).isEmpty = false ∨ (s.sliceQueues x.val).isEmpty = false ∨ s.hub.fence.any (fun f => f.2.slice = x && f.2.armed) = true
    let hd := (u 5).agentBytes {} (bits a1 5 0) a0 256
    let len := fld hd.2.2.1 0x18 8
    let whole := hd.2.2.2.agentBytes {} (bits a1 5 0) a0 len
    let headOk := hd.1 = .ok ∧ hd.2.1 = false ∧ fld hd.2.2.1 0 8 = 0x31454C54544F4253 ∧ fld hd.2.2.1 8 2 = 1 ∧ len ≤ limit ∧ 256 ≤ len
    let bodyOk := whole.1 = .ok ∧ whole.2.1 = false ∧ secsInside whole.2.2.1 len = true ∧ whole.2.2.2.imageBad x.val whole.2.2.1 = false
    (s.scmdOf b.val).busy = false ∧ imageArgOk a0 limit = true ∧ s.boot.feat.getLsbD 5 = true ∧ e.state = .active
    ∧ (¬ holds) ∧ headOk ∧ (¬ bodyOk) := by decide +kernel

/-! `Obligations.Slices`, part SliceEntries. -/

theorem witness_SliceEntries_1 :
    let who : Who := .mgd
    let x : SliceId := 7
    let i : Fin 4 := 1
    let w : Fin 16 := 5
    let v : Word := 5
    let s : State := (hubIs (fun q => q) (fun h => {h with slice := [(7, {state := .active})]}))
    let o := s.sliceOf x.val
    let new := putWord o.cmask i.val v
    let bar := putWord o.bmask i.val v
    let root := v &&& 0x0000FFFFFFFFF07F
    (who = .hubctl ∨ who = .mgd) ∧ root ≠ o.s2root ∧ o.state ≠ .free ∧ o.state ≠ .frozen ∧ new ≠ o.cmask
    ∧ o.state ≠ .resetting ∧ s.otherSlice x.val (fun p => (p.cmask &&& (new &&& ~~~o.cmask)) ≠ 0) = false
    ∧ bar ≠ o.bmask ∧ s.otherSlice x.val (fun p => (p.bmask &&& (bar &&& ~~~o.bmask)) ≠ 0) = false
    ∧ s.bunged (machineryNi x.val) = false ∧ (w.val = 0 ∨ (3 ≤ w.val ∧ w.val ≤ 7)) := by decide +kernel
theorem witness_SliceEntries_2 :
    let who : Who := .mgd
    let x : SliceId := 7
    let i : Fin 4 := 1
    let v : Word := 5
    let s : State := (sliceIs {})
    let o := s.sliceOf x.val
    let new := putWord o.cmask i.val v
    let bar := putWord o.bmask i.val v
    let root := v &&& 0x0000FFFFFFFFF07F
    (who = .hubctl ∨ who = .mgd) ∧ root ≠ o.s2root ∧ (o.state = .free ∨ o.state = .frozen) ∧ new ≠ o.cmask
    ∧ (o.state = .resetting ∨ s.otherSlice x.val (fun p => (p.cmask &&& (new &&& ~~~o.cmask)) ≠ 0) = true)
    ∧ bar ≠ o.bmask
    ∧ (o.state = .resetting ∨ s.otherSlice x.val (fun p => (p.bmask &&& (bar &&& ~~~o.bmask)) ≠ 0) = true) := by decide +kernel
theorem witness_SliceEntries_3 :
    let who : Who := .mgd
    let x : SliceId := 7
    let v : Word := 0
    let s : State := (shut (machineryNi 7) (sliceIs {}))
    let o := s.sliceOf x.val
    let root := v &&& 0x0000FFFFFFFFF07F
    (who = .hubctl ∨ who = .mgd) ∧ root = o.s2root ∧ s.bunged (machineryNi x.val) = true := by decide +kernel

/-! `Obligations.KeysAndVersions`, part VersionsAndKeys. -/

theorem witness_VersionsAndKeys_1 :
    let v : Word := 0x201
    let s : State := {loaded with boot := {runSver := 70, runKey := 3}, fuses := {sver := 2, licRevoke := 1}}
    let n := v.toNat
    let k := bits n 10 8
    bits n 7 0 ≠ 0 ∧ k ≠ s.boot.runKey := by decide +kernel
theorem witness_VersionsAndKeys_2 :
    let v : Word := 0
    let n := v.toNat
    bits n 7 0 = 0 := by decide +kernel
theorem witness_VersionsAndKeys_3 :
    let v : Word := 0x301
    let s : State := {loaded with boot := {runSver := 70, runKey := 3}, fuses := {sver := 2, licRevoke := 1}}
    let n := v.toNat
    let k := bits n 10 8
    bits n 7 0 ≠ 0 ∧ k = s.boot.runKey := by decide +kernel

/-! `Obligations.Attestation`, part AttestationRequested. -/

theorem witness_AttestationRequested_1 :
    let ch : Fin 4 := 1
    let req : List Byte := List.replicate 32 1 ++ [7] ++ List.replicate 7 0
    let s : State := ({sliceIs {state := .active} with sec := {q := 2 ^ 30}})
    let c := s.sec
    let n := ch.val
    let queued := c.waiting.contains n || c.ready.contains n
    let full := 16 ≤ c.waiting.length
    let noneLeft := 2 ^ 30 ≤ c.q
    ch.val ≠ 0 ∧ (s.attestOk req = false ∨ noneLeft ∨ (queued = false ∧ c.bucket = 0 ∧ full)) := by decide +kernel
theorem witness_AttestationRequested_2 :
    let ch : Fin 4 := 1
    let req : List Byte := List.replicate 32 1 ++ [7] ++ List.replicate 7 0
    let s : State := ({sliceIs {state := .active} with sec := {}})
    let c := s.sec
    let n := ch.val
    let queued := c.waiting.contains n || c.ready.contains n
    let noneLeft := 2 ^ 30 ≤ c.q
    ch.val ≠ 0 ∧ s.attestOk req = true ∧ (¬ noneLeft) ∧ queued = false ∧ c.bucket ≠ 0 := by decide +kernel
theorem witness_AttestationRequested_3 :
    let ch : Fin 4 := 1
    let req : List Byte := List.replicate 32 1 ++ [7] ++ List.replicate 7 0
    let s : State := ({sliceIs {state := .active} with sec := {bucket := 0}})
    let c := s.sec
    let n := ch.val
    let queued := c.waiting.contains n || c.ready.contains n
    let full := 16 ≤ c.waiting.length
    let noneLeft := 2 ^ 30 ≤ c.q
    ch.val ≠ 0 ∧ s.attestOk req = true ∧ (¬ noneLeft) ∧ queued = false ∧ c.bucket = 0 ∧ (¬ full) := by decide +kernel
theorem witness_AttestationRequested_4 :
    let ch : Fin 4 := 1
    let req : List Byte := List.replicate 32 1 ++ [7] ++ List.replicate 7 0
    let s : State := ({sliceIs {state := .active} with sec := {waiting := [1], bucket := 0}})
    let c := s.sec
    let n := ch.val
    let queued := c.waiting.contains n || c.ready.contains n
    let noneLeft := 2 ^ 30 ≤ c.q
    ch.val ≠ 0 ∧ s.attestOk req = true ∧ (¬ noneLeft) ∧ queued = true := by decide +kernel

/-! `Obligations.Attestation`, part AttestationSigns. -/

theorem witness_AttestationSigns_1 :
    let ch : Nat := 1
    let rest : List Nat := [2]
    let req : List Byte := List.replicate 32 1 ++ [7] ++ List.replicate 7 0
    let s : State := ({sliceIs {state := .active} with sec := {ready := [1, 2], chan := [(1, {req := some (List.replicate 32 1 ++ [7] ++ List.replicate 7 0)})]}})
    let c := s.sec
    c.ready = ch :: rest ∧ (c.chanOf ch).req = some req ∧ c.q < 2 ^ 30 ∧ c.q < 32768 * c.trees ∧ c.waiting = [] := by decide +kernel
theorem witness_AttestationSigns_2 :
    let ch : Nat := 1
    let rest : List Nat := [2]
    let req : List Byte := List.replicate 32 1 ++ [7] ++ List.replicate 7 0
    let s : State := ({sliceIs {state := .active} with sec := {q := 2 ^ 30, ready := [1, 2], chan := [(1, {req := some (List.replicate 32 1 ++ [7] ++ List.replicate 7 0)})]}})
    let c := s.sec
    c.ready = ch :: rest ∧ (c.chanOf ch).req = some req ∧ 2 ^ 30 ≤ c.q := by decide +kernel
theorem witness_AttestationSigns_3 :
    let ch : Nat := 1
    let rest : List Nat := [2]
    let s : State := ({sliceIs {state := .active} with sec := {waiting := [1, 2]}})
    let c := s.sec
    c.ready = [] ∧ c.waiting = ch :: rest := by decide +kernel
theorem witness_AttestationSigns_4 :
    let ch : Nat := 1
    let rest : List Nat := [2]
    let req : List Byte := List.replicate 32 1 ++ [7] ++ List.replicate 7 0
    let s : State := ({sliceIs {state := .active} with sec := {q := 32768, ready := [1, 2], chan := [(1, {req := some (List.replicate 32 1 ++ [7] ++ List.replicate 7 0)})]}})
    let c := s.sec
    c.ready = ch :: rest ∧ (c.chanOf ch).req = some req ∧ c.q < 2 ^ 30 ∧ 32768 * c.trees ≤ c.q := by decide +kernel

/-! `Obligations.KeysAndVersions`, part KeySlots. -/

theorem witness_KeySlots_1 :
    let i : Fin 64 := 5
    let v : Word := 2
    let n : Half := 1
    let s : State := {loaded with sec := {slot := [(5, {state := 1, sweep := 0})]}}
    let k := s.slotOf i.val
    let newState := v.toNat % 4
    let allowed := newState ≠ 3 ∧ (i.val = 0 → newState = 0) ∧ ((k.state = 0 ∧ newState ≤ 1) ∨ (k.state = 1 ∧ (newState = 2 → k.sweep = 0)) ∨ (k.state = 2 ∧ newState ≠ 1))
    allowed ∧ k.state.toNat = 1 ∧ newState = 2 ∧ (k.state ≠ 1 ∨ k.sweep.toNat < n.toNat) ∧ (let j := 3; j ≠ i.val) := by decide +kernel
theorem witness_KeySlots_2 :
    let i : Fin 64 := 5
    let v : Word := 0x29
    let n : Half := 7
    let s : State := {loaded with sec := {slot := [(5, {state := 1, sweep := 7})]}}
    let k := s.slotOf i.val
    let newState := v.toNat % 4
    let allowed := newState ≠ 3 ∧ (i.val = 0 → newState = 0) ∧ ((k.state = 0 ∧ newState ≤ 1) ∨ (k.state = 1 ∧ (newState = 2 → k.sweep = 0)) ∨ (k.state = 2 ∧ newState ≠ 1))
    allowed ∧ newState = 1 ∧ k.state = 1 ∧ n.toNat ≤ k.sweep.toNat := by decide +kernel
theorem witness_KeySlots_3 :
    let i : Fin 64 := 5
    let v : Word := 3
    let s : State := {loaded with sec := {slot := [(5, {state := 1, sweep := 0})]}}
    let k := s.slotOf i.val
    let newState := v.toNat % 4
    let allowed := newState ≠ 3 ∧ (i.val = 0 → newState = 0) ∧ ((k.state = 0 ∧ newState ≤ 1) ∨ (k.state = 1 ∧ (newState = 2 → k.sweep = 0)) ∨ (k.state = 2 ∧ newState ≠ 1))
    (¬ allowed) := by decide +kernel

/-! `Obligations.Attestation`, part BufferScrub. -/

theorem witness_BufferScrub_1 :
    let ch : Fin 4 := 1
    let s : State := ((epIs (fun h => {h with mbox := {done := true, rsp := [⟨0, 1⟩]}})).modSec (fun c => c.setChan 1 (fun a => {a with status := 2, report := [1]})))
    (s.sec.chanOf ch.val).status = 2 ∧ (let e := .ioa; chanEp ch.val = some e) := by decide +kernel
theorem witness_BufferScrub_2 :
    let ch : Fin 4 := 2
    let s : State := up
    (s.sec.chanOf ch.val).status ≠ 2 ∧ (let e := .ioa; chanEp ch.val ≠ some e) := by decide +kernel

/-! `Obligations.PowerOn`. -/

theorem witness_PowerOn_1 :
    let s : State := {State.reset with power := {held := true}}
    s.power.porLow = true ∧ s.bringing = false ∧ s.power.held = true := by decide +kernel
theorem witness_PowerOn_2 :
    let s : State := {loaded with boot := {running := true, cooper := true, stage := 3}}
    s.power.porLow = false ∧ s.bringing = true ∧ s.power.held = false := by decide +kernel
theorem witness_PowerOn_3 :
    let s : State := {up with power := {held := true, porLow := false}}
    s.power.held = true ∧ s.power.porLow = false := by decide +kernel

/-! `Obligations.BringUpStages`. -/

theorem witness_BringUpStages_1 :
    let c : Nat := 0
    let e : Eye := ⟨0, 3, 70, 30⟩
    let s : State := {loaded with boot := {running := true, cooper := true, stage := 13}}
    let n := s.boot.stage
    let going := s.bringing = true ∧ s.boot.warm = false ∧ s.boot.cause = 0 ∧ 1 ≤ n ∧ n ≤ 13
    25 ≤ e.margin ∧ going ∧ n = 13 ∧ ((c = 0 ∨ c ≠ stageCause n))
    ∧ (s.bringing = false ∨ s.boot.cooper = true ∨ s.mustRecover = false) ∧ s.boot.recovery = false := by decide +kernel
theorem witness_BringUpStages_2 :
    let s : State := {loaded with boot := {running := true, stage := 2}}
    let n := s.boot.stage
    let going := s.bringing = true ∧ s.boot.warm = false ∧ s.boot.cause = 0 ∧ 1 ≤ n ∧ n ≤ 13
    going ∧ n = 2 ∧ s.bringing = true ∧ s.boot.cooper = false ∧ s.mustRecover = true := by decide +kernel
theorem witness_BringUpStages_3 :
    let c : Nat := 3
    let s : State := {loaded with boot := {running := true, cooper := true, stage := 5}}
    let n := s.boot.stage
    let going := s.bringing = true ∧ s.boot.warm = false ∧ s.boot.cause = 0 ∧ 1 ≤ n ∧ n ≤ 13
    going ∧ n ≠ 2 ∧ n ≠ 13 ∧ c ≠ 0 ∧ c = stageCause n := by decide +kernel
theorem witness_BringUpStages_4 :
    let s : State := {loaded with boot := {running := true, recovery := true}}
    let n := s.boot.stage
    let going := s.bringing = true ∧ s.boot.warm = false ∧ s.boot.cause = 0 ∧ 1 ≤ n ∧ n ≤ 13
    (¬ going) ∧ s.boot.recovery = true := by decide +kernel
theorem witness_BringUpStages_5 :
    let s : State := {loaded with boot := {running := true, cooper := true, stage := 6}}
    let n := s.boot.stage
    let going := s.bringing = true ∧ s.boot.warm = false ∧ s.boot.cause = 0 ∧ 1 ≤ n ∧ n ≤ 13
    going ∧ n = 6 := by decide +kernel
theorem witness_BringUpStages_6 :
    let e : Eye := ⟨0, 3, 5, 20⟩
    let s : State := {loaded with cask := [(0, {pc := [(3, {dqStaves := 1, caStave := false})]})]}
    let p := (s.caskOf e.cask.val).pcOf e.pc.val
    e.margin < 25 ∧ (s.caskOf e.cask.val).fenced = false ∧ e.lane.val < 66 ∧ p.dqStaves < 2 := by decide +kernel
theorem witness_BringUpStages_7 :
    let e : Eye := ⟨0, 3, 70, 20⟩
    let s : State := {loaded with cask := [(0, {pc := [(3, {dqStaves := 0, caStave := false})]})]}
    let p := (s.caskOf e.cask.val).pcOf e.pc.val
    e.margin < 25 ∧ (s.caskOf e.cask.val).fenced = false ∧ 66 ≤ e.lane.val ∧ p.caStave = false := by decide +kernel
theorem witness_BringUpStages_8 :
    let e : Eye := ⟨0, 3, 5, 20⟩
    let s : State := {loaded with cask := [(0, {pc := [(3, {dqStaves := 2, caStave := false})]})]}
    let p := (s.caskOf e.cask.val).pcOf e.pc.val
    e.margin < 25 ∧ (s.caskOf e.cask.val).fenced = false
    ∧ ((e.lane.val < 66 ∧ 2 ≤ p.dqStaves) ∨ (66 ≤ e.lane.val ∧ p.caStave = true)) := by decide +kernel


/-! `Obligations.Images`, part ImageAndLicenceWrites. -/

theorem witness_ImageAndLicenceWrites_1 :
    let img : Image := [1]
    let s : State := {loaded with boot := {running := true, ready := true, img := .programming, staged := [1, 2]}}
    let busy := s.boot.img = .programming ∨ s.boot.img = .busy
    s.boot.ready = true ∧ busy ∧ s.boot.warmHeld = false := by decide +kernel
theorem witness_ImageAndLicenceWrites_2 :
    let img : Image := [1]
    let s : State := {loaded with boot := {running := true}}
    let busy := s.boot.img = .programming ∨ s.boot.img = .busy
    s.boot.ready = false ∧ (¬ busy) := by decide +kernel
theorem witness_ImageAndLicenceWrites_3 :
    let img : Image := [1]
    let s : State := {loaded with boot := {running := true, ready := true}}
    let busy := s.boot.img = .programming ∨ s.boot.img = .busy
    s.boot.ready = true ∧ (¬ busy) := by decide +kernel

/-! `Obligations.WarmResets`. -/

theorem witness_WarmResets_1 :
    let u : State := up
    let s : State := {loaded with boot := {running := true, warm := true, imgDirty := true}}
    let ready := u.declareReady
    s.boot.ready = false ∧ s.boot.warm = true ∧ s.boot.imgDirty = true ∧ s.imageStep s.boot.nvImage ≠ 0 := by decide +kernel
theorem witness_WarmResets_2 :
    let u : State := up
    let s : State := {loaded with boot := {running := true}}
    let ready := u.declareReady
    s.boot.ready = false ∧ s.boot.warm = false := by decide +kernel
theorem witness_WarmResets_3 :
    let u : State := up
    let s : State := {loaded with boot := {running := true, warm := true}}
    let ready := u.declareReady
    s.boot.ready = false ∧ s.boot.warm = true ∧ (s.boot.imgDirty = false ∨ s.imageStep s.boot.nvImage = 0) := by decide +kernel

/-! `Obligations.Images`, part FirmwareDelivery. -/

theorem witness_FirmwareDelivery_1 :
    let s : State := {{loaded with boot := {running := true}} with avail := {rounds := 1, blockN := 5, blocks := [(0, 1)]}}
    let going := s.boot.running = true ∧ s.boot.ready = false
    going ∧ s.avail.rounds < 2 ∧ (let x := 0; x < 16 ∧ s.isGraft x = false ∧ (s.linkOf x).fenced = false)
    ∧ (let k := 0; k ∈ s.fwCores ∧ s.fwLacks k = true)
    ∧ (let k := 0; let x := 0; let cl := 0; let p := 0; k = 272 * x + 17 * cl + p ∧ cl < 16 ∧ p < 17 ∧ (s.clusterOf x cl).isRetired p = false) := by decide +kernel
theorem witness_FirmwareDelivery_2 :
    let s : State := up
    let going := s.boot.running = true ∧ s.boot.ready = false
    (¬ going) := by decide +kernel
theorem witness_FirmwareDelivery_3 :
    let s : State := {{loaded with boot := {running := true}} with avail := {rounds := 3}}
    3 ≤ s.avail.rounds := by decide +kernel

/-! `Obligations.BookReads`, part BookAdmits. -/

theorem witness_BookAdmits_1 :
    let ch : CbChan := (.net 5 7)
    let r : CbReq := ⟨0x4243, 2, 9, 7936, 1, 0, 0, 0, [], 24⟩
    let s : State := loaded
    s.boot.recovery = false ∧ chanNet ch = true ∧ s.bookServed = true ∧ cbMalformed r (1 = 2) = false
    ∧ s.keptFor ch r = none ∧ r.ver ≠ 1 := by decide +kernel
theorem witness_BookAdmits_2 :
    let ch : CbChan := (.net 5 7)
    let r : CbReq := ⟨0x4243, 1, 9, 7936, 1, 0, 0, 0, [], 24⟩
    let s : State := {loaded with boot := {running := true, cooper := true}}
    s.boot.recovery = false ∧ chanNet ch = true ∧ s.bookServed = true ∧ cbMalformed r (1 = 2) = false
    ∧ s.keptFor ch r = none ∧ r.ver = 1 ∧ ((1 = 2 → r.length.toNat ≤ chanLimit ch))
    ∧ s.notReady 1 r.index.toNat r.sub.toNat = true := by decide +kernel
theorem witness_BookAdmits_3 :
    let ch : CbChan := (.net 5 7)
    let s : State := {loaded with boot := {}}
    s.boot.recovery = false ∧ chanNet ch = true ∧ s.bookServed = false := by decide +kernel
theorem witness_BookAdmits_4 :
    let ch : CbChan := (.net 5 7)
    let r : CbReq := ⟨5, 1, 9, 7936, 1, 0, 0, 0, [], 24⟩
    let s : State := loaded
    s.boot.recovery = false ∧ chanNet ch = true ∧ s.bookServed = true ∧ cbMalformed r (1 = 2) = true := by decide +kernel
theorem witness_BookAdmits_5 :
    let ch : CbChan := (.net 5 7)
    let r : CbReq := ⟨0x4243, 1, 9, 7936, 1, 0, 0, 0, [], 24⟩
    let s : State := {loaded with book := {kept := [⟨.net 5 7, 9, 1, 0x1F00, 1, 0, 0, [1], 8, 0⟩]}}
    let k := (⟨.net 5 7, 9, 1, 0x1F00, 1, 0, 0, [1], 8, 0⟩ : Kept)
    s.boot.recovery = false ∧ chanNet ch = true ∧ s.bookServed = true ∧ cbMalformed r (1 = 2) = false
    ∧ s.keptFor ch r = some k := by decide +kernel

/-! `Obligations.BookReads`, part BookAdmitsW. -/

theorem witness_BookAdmitsW_1 :
    let ch : CbChan := (.net 5 7)
    let r : CbReq := ⟨0x4243, 2, 9, 7936, 1, 0, 0, 0, [], 24⟩
    let s : State := loaded
    s.boot.recovery = false ∧ chanNet ch = true ∧ s.bookServed = true ∧ cbMalformed r (2 = 2) = false
    ∧ s.keptFor ch r = none ∧ r.ver ≠ 1 := by decide +kernel
theorem witness_BookAdmitsW_2 :
    let ch : CbChan := (.net 5 7)
    let r : CbReq := ⟨0x4243, 1, 9, 7936, 1, 0, 0, 0, [], 24⟩
    let s : State := {loaded with boot := {running := true, cooper := true}}
    s.boot.recovery = false ∧ chanNet ch = true ∧ s.bookServed = true ∧ cbMalformed r (2 = 2) = false
    ∧ s.keptFor ch r = none ∧ r.ver = 1 ∧ ((2 = 2 → r.length.toNat ≤ chanLimit ch))
    ∧ s.notReady 2 r.index.toNat r.sub.toNat = true := by decide +kernel
theorem witness_BookAdmitsW_3 :
    let ch : CbChan := (.net 5 7)
    let s : State := {loaded with boot := {}}
    s.boot.recovery = false ∧ chanNet ch = true ∧ s.bookServed = false := by decide +kernel
theorem witness_BookAdmitsW_4 :
    let ch : CbChan := (.net 5 7)
    let r : CbReq := ⟨5, 1, 9, 7936, 1, 0, 0, 0, [], 24⟩
    let s : State := loaded
    s.boot.recovery = false ∧ chanNet ch = true ∧ s.bookServed = true ∧ cbMalformed r (2 = 2) = true := by decide +kernel
theorem witness_BookAdmitsW_5 :
    let ch : CbChan := (.net 5 7)
    let r : CbReq := ⟨0x4243, 1, 9, 7936, 1, 0, 0, 0, [], 24⟩
    let s : State := {loaded with book := {kept := [⟨.net 5 7, 9, 1, 0x1F00, 1, 0, 0, [1], 8, 0⟩]}}
    let k := (⟨.net 5 7, 9, 1, 0x1F00, 1, 0, 0, [1], 8, 0⟩ : Kept)
    s.boot.recovery = false ∧ chanNet ch = true ∧ s.bookServed = true ∧ cbMalformed r (2 = 2) = false
    ∧ s.keptFor ch r = some k := by decide +kernel

/-! `Obligations.BookReads`. -/

theorem witness_BookReads_1 :
    let ch : CbChan := (.net 5 7)
    let r : CbReq := ⟨0x4243, 1, 9, 7936, 1, 0, 3, 0, [], 24⟩
    let e : Ent := (match State.odFind (loaded) 7936 1 with | .ent e => e | _ => entRo 1 0)
    let s : State := loaded
    let i := r.index.toNat
    let sub := r.sub.toNat
    let off := r.offset.toNat
    s.BookTakes ch 1 r ∧ i ≠ 0x3122 ∧ i ≠ 0x3131 ∧ s.odFind i sub = .ent e ∧ e.acc ≠ 2 ∧ 0 < e.size ∧ off = 0
    ∧ s.BookTakes ch 3 r ∧ s.BookTakes ch 4 r := by
  simp only [bookTakes_iff]; decide +kernel
theorem witness_BookReads_2 :
    let ch : CbChan := (.net 5 7)
    let r : CbReq := ⟨0x4243, 1, 9, 1, 1, 0, 0, 0, [], 24⟩
    let s : State := loaded
    let i := r.index.toNat
    let sub := r.sub.toNat
    s.BookTakes ch 1 r ∧ i ≠ 0x3122 ∧ i ≠ 0x3131 ∧ s.odFind i sub = .noEnt := by
  simp only [bookTakes_iff]; decide +kernel
theorem witness_BookReads_3 :
    let ch : CbChan := (.net 5 7)
    let r : CbReq := ⟨0x4243, 1, 9, 7936, 99, 0, 0, 0, [], 24⟩
    let s : State := loaded
    let i := r.index.toNat
    let sub := r.sub.toNat
    s.BookTakes ch 1 r ∧ i ≠ 0x3122 ∧ i ≠ 0x3131 ∧ s.odFind i sub = .noSub := by
  simp only [bookTakes_iff]; decide +kernel
theorem witness_BookReads_4 :
    let ch : CbChan := (.net 5 7)
    let r : CbReq := ⟨0x4243, 1, 9, 7937, 0, 0, 0, 0, [], 24⟩
    let e : Ent := (match State.odFind (loaded) 7937 0 with | .ent e => e | _ => entRo 1 0)
    let s : State := loaded
    let i := r.index.toNat
    let sub := r.sub.toNat
    s.BookTakes ch 1 r ∧ i ≠ 0x3122 ∧ i ≠ 0x3131 ∧ s.odFind i sub = .ent e ∧ e.acc = 2 := by
  simp only [bookTakes_iff]; decide +kernel
theorem witness_BookReads_5 :
    let ch : CbChan := (.net 5 7)
    let r : CbReq := ⟨0x4243, 1, 9, 7936, 1, 9, 0, 0, [], 24⟩
    let e : Ent := (match State.odFind (loaded) 7936 1 with | .ent e => e | _ => entRo 1 0)
    let s : State := loaded
    let i := r.index.toNat
    let sub := r.sub.toNat
    let off := r.offset.toNat
    s.BookTakes ch 1 r ∧ i ≠ 0x3122 ∧ i ≠ 0x3131 ∧ s.odFind i sub = .ent e ∧ e.acc ≠ 2 ∧ e.size ≤ off := by
  simp only [bookTakes_iff]; decide +kernel
theorem witness_BookReads_6 :
    let ch : CbChan := (.net 5 7)
    let r : CbReq := ⟨0x4243, 1, 9, 7936, 1, 4, 0, 0, [], 24⟩
    let e : Ent := (match State.odFind (loaded) 7936 1 with | .ent e => e | _ => entRo 1 0)
    let x : Snapshot := (⟨.net 5 7, 0x1F00, 1, [1, 2, 3, 4, 5, 6, 7, 8], 0⟩ : Snapshot)
    let s : State := loaded
    let i := r.index.toNat
    let sub := r.sub.toNat
    let off := r.offset.toNat
    s.BookTakes ch 1 r ∧ i ≠ 0x3122 ∧ i ≠ 0x3131 ∧ s.odFind i sub = .ent e ∧ e.acc ≠ 2 ∧ off < e.size ∧ 0 < off
    ∧ s.book.snap.find? (fun x => x.chan = ch && x.index = i && x.sub = sub && s.now < x.at' + 1000000000) = none := by
  simp only [bookTakes_iff]; decide +kernel
theorem witness_BookReads_7 :
    let ch : CbChan := (.net 5 7)
    let r : CbReq := ⟨0x4243, 1, 9, 7936, 1, 4, 0, 0, [], 24⟩
    let e : Ent := (match State.odFind ({loaded with book := {snap := [⟨.net 5 7, 0x1F00, 1, [1, 2, 3, 4, 5, 6, 7, 8], 0⟩]}}) 7936 1 with | .ent e => e | _ => entRo 1 0)
    let x : Snapshot := (⟨.net 5 7, 0x1F00, 1, [1, 2, 3, 4, 5, 6, 7, 8], 0⟩ : Snapshot)
    let s : State := {loaded with book := {snap := [⟨.net 5 7, 0x1F00, 1, [1, 2, 3, 4, 5, 6, 7, 8], 0⟩]}}
    let i := r.index.toNat
    let sub := r.sub.toNat
    let off := r.offset.toNat
    s.BookTakes ch 1 r ∧ i ≠ 0x3122 ∧ i ≠ 0x3131 ∧ s.odFind i sub = .ent e ∧ e.acc ≠ 2 ∧ off < e.size ∧ 0 < off
    ∧ s.book.snap.find? (fun x => x.chan = ch && x.index = i && x.sub = sub && s.now < x.at' + 1000000000) = some x := by
  simp only [bookTakes_iff]; decide +kernel

/-! `Obligations.BookWrites`. -/

theorem witness_BookWrites_1 :
    let ch : CbChan := (.net 5 7)
    let r : CbReq := ⟨0x4243, 1, 9, 7936, 1, 0, 8, 8, [], 32⟩
    let e : Ent := (match State.odFind (loaded) 7936 1 with | .ent e => e | _ => entRo 1 0)
    let s : State := loaded
    let sub := r.sub.toNat
    s.BookTakes ch 2 r ∧ s.odFind r.index.toNat r.sub.toNat = .ent e ∧ e.acc ≠ 3 ∧ e.acc = 0 := by
  simp only [bookTakes_iff]; decide +kernel
theorem witness_BookWrites_2 :
    let ch : CbChan := (.net 5 7)
    let r : CbReq := ⟨0x4243, 1, 9, 12032, 1, 0, 2, 3, [1, 6], 26⟩
    let e : Ent := (match State.odFind (loaded) 12032 1 with | .ent e => e | _ => entRo 1 0)
    let s : State := loaded
    let sub := r.sub.toNat
    s.BookTakes ch 2 r ∧ s.odFind r.index.toNat r.sub.toNat = .ent e ∧ e.acc ≠ 3 ∧ e.acc ≠ 0 ∧ r.total.toNat ≠ e.size := by
  simp only [bookTakes_iff]; decide +kernel
theorem witness_BookWrites_3 :
    let ch : CbChan := (.net 5 7)
    let r : CbReq := ⟨0x4243, 1, 9, 12032, 1, 2, 2, 2, [1, 6], 26⟩
    let e : Ent := (match State.odFind (loaded) 12032 1 with | .ent e => e | _ => entRo 1 0)
    let s : State := loaded
    let sub := r.sub.toNat
    let big := chanLimit ch < e.size
    s.BookTakes ch 2 r ∧ s.odFind r.index.toNat r.sub.toNat = .ent e ∧ e.acc ≠ 3 ∧ e.acc ≠ 0 ∧ r.total.toNat = e.size
    ∧ (¬ big) ∧ r.offset ≠ 0 := by
  simp only [bookTakes_iff]; decide +kernel
theorem witness_BookWrites_4 :
    let ch : CbChan := (.net 5 7)
    let r : CbReq := ⟨0x4243, 1, 9, 12032, 1, 0, 1, 2, [1], 25⟩
    let e : Ent := (match State.odFind (loaded) 12032 1 with | .ent e => e | _ => entRo 1 0)
    let s : State := loaded
    let sub := r.sub.toNat
    let d := fit 0 r.length.toNat r.data
    let big := chanLimit ch < e.size
    s.BookTakes ch 2 r ∧ s.odFind r.index.toNat r.sub.toNat = .ent e ∧ e.acc ≠ 3 ∧ e.acc ≠ 0 ∧ r.total.toNat = e.size
    ∧ (¬ big) ∧ r.offset = 0 ∧ d.length ≠ e.size := by
  simp only [bookTakes_iff]; decide +kernel
theorem witness_BookWrites_5 :
    let ch : CbChan := (.net 5 7)
    let r : CbReq := ⟨0x4243, 1, 9, 12032, 1, 0, 2, 2, [1, 6], 26⟩
    let e : Ent := (match State.odFind (loaded) 12032 1 with | .ent e => e | _ => entRo 1 0)
    let s : State := loaded
    let sub := r.sub.toNat
    let d := fit 0 r.length.toNat r.data
    let big := chanLimit ch < e.size
    s.BookTakes ch 2 r ∧ s.odFind r.index.toNat r.sub.toNat = .ent e ∧ e.acc ≠ 3 ∧ e.acc ≠ 0 ∧ r.total.toNat = e.size
    ∧ (¬ big) ∧ r.offset = 0 ∧ d.length = e.size := by
  simp only [bookTakes_iff]; decide +kernel
theorem witness_BookWrites_6 :
    let ch : CbChan := (.net 5 7)
    let r : CbReq := ⟨0x4243, 1, 9, 11779, 1, 0, 2, 5588, [1, 2], 26⟩
    let e : Ent := (match State.odFind (loaded) 11779 1 with | .ent e => e | _ => entRo 1 0)
    let s : State := loaded
    let i := r.index.toNat
    let sub := r.sub.toNat
    let big := chanLimit ch < e.size
    s.BookTakes ch 2 r ∧ s.odFind r.index.toNat r.sub.toNat = .ent e ∧ e.acc ≠ 3 ∧ e.acc ≠ 0 ∧ r.total.toNat = e.size
    ∧ big ∧ r.offset = 0 ∧ i ≠ 0x2E02 := by
  simp only [bookTakes_iff]; decide +kernel
theorem witness_BookWrites_7 :
    let ch : CbChan := (.net 5 7)
    let r : CbReq := ⟨0x4243, 1, 9, 11779, 1, 2, 2, 5588, [1, 2], 26⟩
    let e : Ent := (match State.odFind (loaded) 11779 1 with | .ent e => e | _ => entRo 1 0)
    let s : State := loaded
    let i := r.index.toNat
    let sub := r.sub.toNat
    let mine := fun (y : Transfer) => decide (y.index = i ∧ y.sub = sub)
    let big := chanLimit ch < e.size
    let found := s.book.xfer.find? (fun y => mine y && y.chan = ch)
    s.BookTakes ch 2 r ∧ s.odFind r.index.toNat r.sub.toNat = .ent e ∧ e.acc ≠ 3 ∧ e.acc ≠ 0 ∧ r.total.toNat = e.size
    ∧ big ∧ r.offset ≠ 0 ∧ found = none := by
  simp only [bookTakes_iff]; decide +kernel
theorem witness_BookWrites_8 :
    let ch : CbChan := (.net 5 7)
    let r : CbReq := ⟨0x4243, 1, 9, 11779, 1, 2, 2, 5588, [1, 2], 26⟩
    let e : Ent := (match State.odFind ({loaded with book := {xfer := [⟨0x2E03, 1, .net 5 7, 5588, List.replicate 1 0, 0⟩]}}) 11779 1 with | .ent e => e | _ => entRo 1 0)
    let x : Transfer := (⟨0x2E03, 1, .net 5 7, 5588, List.replicate 1 0, 0⟩ : Transfer)
    let s : State := {loaded with book := {xfer := [⟨0x2E03, 1, .net 5 7, 5588, List.replicate 1 0, 0⟩]}}
    let i := r.index.toNat
    let sub := r.sub.toNat
    let mine := fun (y : Transfer) => decide (y.index = i ∧ y.sub = sub)
    let big := chanLimit ch < e.size
    let found := s.book.xfer.find? (fun y => mine y && y.chan = ch)
    s.BookTakes ch 2 r ∧ s.odFind r.index.toNat r.sub.toNat = .ent e ∧ e.acc ≠ 3 ∧ e.acc ≠ 0 ∧ r.total.toNat = e.size
    ∧ big ∧ r.offset ≠ 0 ∧ found = some x ∧ r.offset.toNat ≠ x.data.length := by
  simp only [bookTakes_iff]; decide +kernel
theorem witness_BookWrites_9 :
    let ch : CbChan := (.net 5 7)
    let r : CbReq := ⟨0x4243, 1, 9, 11779, 1, 2, 2, 5588, [1, 2], 26⟩
    let e : Ent := (match State.odFind ({loaded with book := {xfer := [⟨0x2E03, 1, .net 5 7, 5588, List.replicate 2 0, 0⟩]}}) 11779 1 with | .ent e => e | _ => entRo 1 0)
    let x : Transfer := (⟨0x2E03, 1, .net 5 7, 5588, List.replicate 2 0, 0⟩ : Transfer)
    let s : State := {loaded with book := {xfer := [⟨0x2E03, 1, .net 5 7, 5588, List.replicate 2 0, 0⟩]}}
    let i := r.index.toNat
    let sub := r.sub.toNat
    let d := fit 0 r.length.toNat r.data
    let mine := fun (y : Transfer) => decide (y.index = i ∧ y.sub = sub)
    let big := chanLimit ch < e.size
    let found := s.book.xfer.find? (fun y => mine y && y.chan = ch)
    s.BookTakes ch 2 r ∧ s.odFind r.index.toNat r.sub.toNat = .ent e ∧ e.acc ≠ 3 ∧ e.acc ≠ 0 ∧ r.total.toNat = e.size
    ∧ big ∧ found = some x ∧ r.offset ≠ 0 ∧ r.offset.toNat = x.data.length ∧ (x.data ++ d).length < x.total := by
  simp only [bookTakes_iff]; decide +kernel
set_option maxRecDepth 100000 in
theorem witness_BookWrites_10 :
    let ch : CbChan := (.net 5 7)
    let r : CbReq := ⟨0x4243, 1, 9, 11779, 1, 5586, 2, 5588, [1, 2], 26⟩
    let e : Ent := (match State.odFind ({loaded with book := {xfer := [⟨0x2E03, 1, .net 5 7, 5588, List.replicate 5586 0, 0⟩]}}) 11779 1 with | .ent e => e | _ => entRo 1 0)
    let x : Transfer := (⟨0x2E03, 1, .net 5 7, 5588, List.replicate 5586 0, 0⟩ : Transfer)
    let s : State := {loaded with book := {xfer := [⟨0x2E03, 1, .net 5 7, 5588, List.replicate 5586 0, 0⟩]}}
    let i := r.index.toNat
    let sub := r.sub.toNat
    let d := fit 0 r.length.toNat r.data
    let mine := fun (y : Transfer) => decide (y.index = i ∧ y.sub = sub)
    let big := chanLimit ch < e.size
    let found := s.book.xfer.find? (fun y => mine y && y.chan = ch)
    s.BookTakes ch 2 r ∧ s.odFind r.index.toNat r.sub.toNat = .ent e ∧ e.acc ≠ 3 ∧ e.acc ≠ 0 ∧ r.total.toNat = e.size
    ∧ big ∧ found = some x ∧ r.offset ≠ 0 ∧ r.offset.toNat = x.data.length ∧ (x.data ++ d).length = x.total := by
  simp only [bookTakes_iff]; decide +kernel

/-! `Obligations.BookWrites`, part BookEntries. -/

theorem witness_BookEntries_1 :
    let x : Site := 13
    let v : Nat := 2048
    let b : Byte := 1
    let w : BitVec 16 := 0x23
    let s : State := {loaded with book := {addrNew := some (5, 7, 9), xfer := [⟨1, 2, .mbox .ioa, 3, [], 0⟩, ⟨1, 3, .net 5 7, 3, [], 0⟩], snap := [⟨.mbox .iob, 3, 4, [], 0⟩]}}
    let waits := decide ((s.dieOf x.val).substRes = 1) || decide ((s.dieOf x.val).substRes = 2) || decide ((s.clusterOf x.val (bits w.toNat 7 4)).subst ≠ .idle)
    v < 2 ^ 16 ∧ (1500 ≤ v ∧ v ≤ 3300) ∧ (¬ (1 ≤ v ∧ v ≤ 24)) ∧ (v = 1 ∨ 2047 < v) ∧ b = 1 ∧ s.isGraft x.val = false
    ∧ bits w.toNat 15 8 = 0 ∧ waits = false
    ∧ (let a := 5; let p := 7; let g := 9; let t : State := nx (exec .mgmtAddressApply s); let y := (⟨1, 2, .mbox .ioa, 3, [], 0⟩ : Transfer); s.book.addrNew = some (a, p, g) ∧ y ∈ t.book.xfer)
    ∧ (let a := 5; let p := 7; let g := 9; let t : State := nx (exec .mgmtAddressApply s); let z := (⟨.mbox .iob, 3, 4, [], 0⟩ : Snapshot); s.book.addrNew = some (a, p, g) ∧ z ∈ t.book.snap)
    ∧ (let a := 5; let p := 7; let g := 9; let y := (⟨1, 2, .mbox .ioa, 3, [], 0⟩ : Transfer); s.book.addrNew = some (a, p, g) ∧ y ∈ s.book.xfer ∧ chanNet y.chan = false) := by decide +kernel
theorem witness_BookEntries_2 :
    let x : Site := 13
    let v : Nat := 0
    let b : Byte := 0
    let w : BitVec 16 := 0x123
    let s : State := loaded
    v < 2 ^ 16 ∧ (¬ (1500 ≤ v ∧ v ≤ 3300)) ∧ (v = 0 ∨ (2 ≤ v ∧ v ≤ 2047)) ∧ b ≠ 1 ∧ s.isGraft x.val = false
    ∧ bits w.toNat 15 8 ≠ 0 ∧ s.book.addrNew = none := by decide +kernel
theorem witness_BookEntries_3 :
    let x : Site := 13
    let v : Nat := 1
    let w : BitVec 16 := 0x23
    let s : State := (loaded.modDie 13 (fun d => {d with substRes := 1}))
    let waits := decide ((s.dieOf x.val).substRes = 1) || decide ((s.dieOf x.val).substRes = 2) || decide ((s.clusterOf x.val (bits w.toNat 7 4)).subst ≠ .idle)
    v < 2 ^ 16 ∧ (1 ≤ v ∧ v ≤ 24) ∧ s.isGraft x.val = false ∧ bits w.toNat 15 8 = 0 ∧ waits = true := by decide +kernel
theorem witness_BookEntries_4 :
    let x : Site := 13
    let v : Nat := 25
    let s : State := (grafted (fun g => g))
    v < 2 ^ 16 ∧ s.isGraft x.val = true := by decide +kernel

/-! `Obligations.BookWrites`, part Mailboxes. -/

theorem witness_Mailboxes_1 :
    let e : Ep := .ioa
    let s : State := (epIs (fun h => {h with mbox := {req := (Memory.writeNat [] 0 24 (0x4243 + 2 ^ 16 + 7 * 2 ^ 24 + 9 * 2 ^ 32 + 0x1F00 * 2 ^ 64 + 2 ^ 80))}}))
    let m := (s.epOf e).mbox
    let op := m.req.readNat 3 1
    let valid := m.header.magic = 0x4243 ∧ m.header.length.toNat ≤ 16384 ∧ m.header.ver = 1 ∧ 1 ≤ op ∧ op ≤ 4
    m.busy = false ∧ (¬ valid) := by decide +kernel
theorem witness_Mailboxes_2 :
    let e : Ep := .ioa
    let s : State := (epIs (fun h => {h with mbox := {busy := true}}))
    let m := (s.epOf e).mbox
    m.busy = true := by decide +kernel
theorem witness_Mailboxes_3 :
    let e : Ep := .ioa
    let s : State := (epIs (fun h => {h with mbox := {req := (Memory.writeNat [] 0 24 (0x4243 + 2 ^ 16 + 1 * 2 ^ 24 + 9 * 2 ^ 32 + 0x1F00 * 2 ^ 64 + 2 ^ 80))}}))
    let m := (s.epOf e).mbox
    let op := m.req.readNat 3 1
    let valid := m.header.magic = 0x4243 ∧ m.header.length.toNat ≤ 16384 ∧ m.header.ver = 1 ∧ 1 ≤ op ∧ op ≤ 4
    m.busy = false ∧ valid := by decide +kernel

/-! `Obligations.BudgetsShared`. -/

theorem witness_BudgetsShared :
    let pool : Int := 1000
    let l : List (Nat × Nat × Nat × Nat × Bool) := [(0, 900, 2000, 1500, true), (1, 900, 1200, 1000, false)]
    let out := shareOut pool l
    ((∀ d ∈ l, d.2.1 ≤ d.2.2.2.1 ∧ d.2.2.2.1 ≤ d.2.2.1))
    ∧ (let p := ((0, 900, 2000, 1500, true), (0, 900)); p ∈ l.zip out) ∧ (let lo := 900; let hi := 1000; lo ≤ hi) := by decide +kernel

/-! `Obligations.PowerBroker`, part BudgetPeriods. -/

theorem witness_BudgetPeriods_1 :
    let m : PeriodMeas := ⟨[(0, 1200)], 30000⟩
    let s : State := {loaded with gate := [(0, {powered := true})], power := {die := [(0, {budget := 1000, overN := 9, hold := 0, got := true})], hubClamp := true}}
    let x := 0
    let p := s.powOf (dieSite x)
    let rail := tget 0 m.dies (dieSite x)
    let above := 11 * p.budget < 10 * rail
    x < 16 ∧ s.isGraft x = false ∧ s.governed x = true ∧ above ∧ p.overN = 9 ∧ s.power.hubClamp = true := by decide +kernel
theorem witness_BudgetPeriods_2 :
    let m : PeriodMeas := ⟨[(0, 1000)], 30000⟩
    let s : State := {loaded with gate := [(0, {powered := true})], power := {die := [(0, {budget := 1000, overN := 9, hold := 5, got := false})], hubClamp := false}}
    let x := 0
    let p := s.powOf (dieSite x)
    let rail := tget 0 m.dies (dieSite x)
    let above := 11 * p.budget < 10 * rail
    x < 16 ∧ s.isGraft x = false ∧ s.governed x = true ∧ (¬ above) := by decide +kernel

/-! `Obligations.PowerBroker`, part RailsWatched. -/

theorem witness_RailsWatched_1 :
    let r : RailSample := ⟨36301, [3]⟩
    let s : State := {loaded with gate := [(3, {powered := true}), (5, {powered := true})], power := {porLow := false, railOut := []}}
    let out := (r.out.map (·.val)).filter (fun j => s.railJudged j)
    let x := 5
    36300 < r.power ∧ s.power.clamped = false ∧ (∀ j ∈ out, j ∉ s.power.railOut) ∧ x < 16 ∧ s.governed x = true := by decide +kernel
theorem witness_RailsWatched_2 :
    let r : RailSample := ⟨100, [20]⟩
    let s : State := {loaded with gate := [(3, {powered := true}), (5, {powered := true})], power := {porLow := false, railOut := [20]}}
    let out := (r.out.map (·.val)).filter (fun j => s.railJudged j)
    let j := 20
    out = [j] ∧ j ∈ s.power.railOut ∧ r.power ≤ 36300 ∧ ((20 ≤ j ∧ j < 26) ∨ 41 ≤ j) := by decide +kernel
theorem witness_RailsWatched_3 :
    let r : RailSample := ⟨100, [3]⟩
    let s : State := {loaded with gate := [(3, {powered := true}), (5, {powered := true})], power := {porLow := false, railOut := [3]}}
    let out := (r.out.map (·.val)).filter (fun j => s.railJudged j)
    let j := 3
    out = [j] ∧ j ∈ s.power.railOut ∧ r.power ≤ 36300 ∧ j < 16 ∧ s.isGraft j = false ∧ (s.gateOf j).powered = true := by decide +kernel
theorem witness_RailsWatched_4 :
    let r : RailSample := ⟨36300, [3]⟩
    let s : State := {loaded with gate := [(3, {powered := true}), (5, {powered := true})], power := {porLow := false, railOut := []}}
    let out := (r.out.map (·.val)).filter (fun j => s.railJudged j)
    (r.power ≤ 36300 ∨ s.power.clamped = true) ∧ (∀ j ∈ out, j ∉ s.power.railOut) := by decide +kernel

/-! `Obligations.PowerBroker`, part Temperatures. -/

theorem witness_Temperatures_1 :
    let die : Fin 32 := 31
    let temp : Int := 1050
    let s : State := {loaded with power := {porLow := false, critical := [], hubClamp := false, overtemp := true}}
    let i := die.val
    i = dieHub ∧ temp < 1100 ∧ s.power.hubClamp = false ∧ 1050 ≤ temp := by decide +kernel
theorem witness_Temperatures_2 :
    let die : Fin 32 := 31
    let temp : Int := 1100
    let s : State := {loaded with power := {porLow := false, critical := [], hubClamp := false, overtemp := true}}
    let i := die.val
    let x := 5
    i = dieHub ∧ 1100 ≤ temp ∧ i ∉ s.power.critical ∧ x < 16 := by decide +kernel
theorem witness_Temperatures_3 :
    let die : Fin 32 := 28
    let temp : Int := 900
    let i := die.val
    28 ≤ i ∧ i ≠ dieHub ∧ temp < 1100 := by decide +kernel
theorem witness_Temperatures_4 :
    let die : Fin 32 := 28
    let temp : Int := 1100
    let s : State := {loaded with power := {porLow := false, critical := [], hubClamp := false, overtemp := true}}
    let i := die.val
    28 ≤ i ∧ i ≠ dieHub ∧ 1100 ≤ temp ∧ i ∉ s.power.critical := by decide +kernel
theorem witness_Temperatures_5 :
    let die : Fin 32 := 3
    let i := die.val
    i < 28 := by decide +kernel

/-! `Obligations.Timebase`. -/

theorem witness_Timebase_1 :
    let m : PtpMeas := ⟨5, 5, 6, 37⟩
    let s : State := {loaded with time := {measured := false, slew := false, hold := true, run := 0, tlock := false}}
    ((s.time.measured = false ∧ 0 ≤ m.ofs) ∨ 100000 < m.ofs) ∧ s.time.hold = true := by decide +kernel
theorem witness_Timebase_2 :
    let who : Who := .hubctl
    let m : PtpMeas := ⟨-1000, 5, 6, 37⟩
    let s : State := {loaded with time := {measured := true, slew := false, hold := false, run := 15, tlock := false}}
    who ≠ .mgd ∧ s.time.measured = true ∧ s.time.slew = false ∧ -100000 ≤ m.ofs ∧ m.ofs ≤ 100000 ∧ s.time.hold = false := by decide +kernel
theorem witness_Timebase_3 :
    let m : PtpMeas := ⟨-100001, 5, 6, 37⟩
    m.ofs < -100000 := by decide +kernel
theorem witness_Timebase_4 :
    let m : PtpMeas := ⟨-900, 5, 6, 37⟩
    let s : State := {loaded with time := {measured := true, slew := true, hold := false, run := 2, tlock := false}}
    s.time.measured = true ∧ s.time.slew = true ∧ -1000 ≤ m.ofs ∧ m.ofs ≤ 1000 := by decide +kernel

/-! `Obligations.Observation`, part ObservationEnabled. -/

theorem witness_ObservationEnabled_1 :
    let v : Byte := 8
    let i : RouterId := 5
    let c : Word := 0x1401
    let s : State := {loaded with obs := {taster := [(4, {ctl := 0})], en := 0}}
    let n := v.toNat
    let new : Taster := {s.tasterOf i.val with ctl := BitVec.ofNat 15 (c.toNat - 16 * bits c.toNat 7 4)}
    let load := s.obsLoad (tput s.obs.taster i.val new)
    bits n 7 4 = 0 ∧ ((bit n 1 = false ∨ s.obsLoad s.obs.taster ≤ 120)) ∧ bit n 3 = true ∧ s.obs.en.getLsbD 3 = false
    ∧ s.obs.en.toNat ≠ n ∧ (new.en = false ∨ (1 ≤ new.obsb ∧ new.obsb ≤ 120 ∧ load ≤ 120)) := by decide +kernel
theorem witness_ObservationEnabled_2 :
    let v : Byte := 0x10
    let i : RouterId := 5
    let c : Word := 1
    let s : State := {loaded with obs := {taster := [(4, {ctl := 0})], en := 0}}
    let n := v.toNat
    let new : Taster := {s.tasterOf i.val with ctl := BitVec.ofNat 15 (c.toNat - 16 * bits c.toNat 7 4)}
    bits n 7 4 ≠ 0 ∧ new.en = true ∧ new.obsb = 0 := by decide +kernel
theorem witness_ObservationEnabled_3 :
    let v : Byte := 1
    let i : RouterId := 5
    let c : Word := 0x7F01
    let s : State := {loaded with obs := {taster := [(4, {ctl := 0})], en := 1}}
    let n := v.toNat
    let new : Taster := {s.tasterOf i.val with ctl := BitVec.ofNat 15 (c.toNat - 16 * bits c.toNat 7 4)}
    let load := s.obsLoad (tput s.obs.taster i.val new)
    bits n 7 4 = 0 ∧ ((bit n 1 = false ∨ s.obsLoad s.obs.taster ≤ 120)) ∧ s.obs.en.toNat = n ∧ new.en = true
    ∧ new.obsb ≠ 0 ∧ (120 < new.obsb ∨ 120 < load) := by decide +kernel
theorem witness_ObservationEnabled_4 :
    let v : Byte := 2
    let s : State := {loaded with obs := {taster := [(4, {ctl := 0x7F01})], en := 0}}
    let n := v.toNat
    bits n 7 4 = 0 ∧ bit n 1 = true ∧ 120 < s.obsLoad s.obs.taster := by decide +kernel

/-! `Obligations.Observation`, part SinksAndTable. -/

theorem witness_SinksAndTable_1 :
    let base : Word := 0x10000
    let cfg : Word := 0x1001
    let s : State := {loaded with obs := {en := 0}}
    let lg := bits cfg.toNat 12 8
    let pa := 64 * bits base.toNat 47 6
    let fits := 16 ≤ lg ∧ lg ≤ 30 ∧ pa % 2 ^ lg = 0 ∧ pa / 2 ^ 36 < 12 ∧ pa % 2 ^ 36 + 2 ^ lg ≤ usableEnd
    let sets := bit cfg.toNat 0
    (sets = false ∨ fits) ∧ s.obs.en.getLsbD 0 = false ∧ (let g := 5; g < 4096 ∧ s.isGraft (g / 256) = false) := by decide +kernel
theorem witness_SinksAndTable_2 :
    let base : Word := 0x8000
    let cfg : Word := 0x1001
    let lg := bits cfg.toNat 12 8
    let pa := 64 * bits base.toNat 47 6
    let fits := 16 ≤ lg ∧ lg ≤ 30 ∧ pa % 2 ^ lg = 0 ∧ pa / 2 ^ 36 < 12 ∧ pa % 2 ^ 36 + 2 ^ lg ≤ usableEnd
    let sets := bit cfg.toNat 0
    sets = true ∧ (¬ fits) := by decide +kernel
theorem witness_SinksAndTable_3 :
    let s : State := (grafted (fun g => g))
    let g := 3400
    s.obs.en.getLsbD 0 = false ∧ s.isGraft (g / 256) = true := by decide +kernel

/-! `Obligations.Observation`, part HaltAndResume. -/

theorem witness_HaltAndResume_1 :
    let s : State := {loaded with obs := {smask := 4}}
    s.obs.halted = 0 ∧ (let x := 2; x < 16 ∧ s.obs.smask.getLsbD x = true ∧ s.isGraft x = false)
    ∧ (let x := 2; s.obs.halted.getLsbD x = false) := by decide +kernel
theorem witness_HaltAndResume_2 :
    let s : State := {loaded with obs := {halted := 4}}
    s.obs.halted ≠ 0 ∧ (let x := 2; let n := 7; x < 16 ∧ s.obs.halted.getLsbD x = true ∧ n < 256) := by decide +kernel

/-! `Obligations.Observation`, part Jtag. -/

theorem witness_Jtag_1 :
    let ir : Byte := 0x10
    let h : BitVec 18 := 0x20003
    let s : State := {loaded with obs := {jtag := {ir := 0x11}}}
    let op := jtagOp s.obs.jtag.ir.toNat
    (op ≠ 0x10 ∨ s.boot.running = false) ∧ op = 0x11 ∧ s.boot.running = true ∧ s.obs.halted = 0 ∧ h.getLsbD 17 = true
    ∧ (op ≠ 0x12 ∨ s.boot.recovery = false) := by decide +kernel
theorem witness_Jtag_2 :
    let ir : Byte := 0x10
    let pa : PA := 0xF050000000
    let s : State := {loaded with obs := {jtag := {ir := 0x10}}}
    let op := jtagOp s.obs.jtag.ir.toNat
    op = 0x10 ∧ s.boot.running = true ∧ 0xF000000000 ≤ pa.toNat ∧ (op ≠ 0x11 ∨ s.boot.running = false)
    ∧ (let reg := hubAt ((pa.toNat - 0xF000000000) / 8 * 8); (∀ q, reg ≠ .bell q)) := by
  simp only [notBell_iff]; decide +kernel
theorem witness_Jtag_3 :
    let ir : Byte := 0x10
    let h : BitVec 18 := 5
    let s : State := {loaded with obs := {jtag := {ir := 0x11}, halted := 2}}
    let op := jtagOp s.obs.jtag.ir.toNat
    op = 0x11 ∧ s.boot.running = true ∧ s.obs.halted ≠ 0 ∧ h.getLsbD 16 = false ∧ h.getLsbD 17 = false := by decide +kernel
theorem witness_Jtag_4 :
    let ir : Byte := 0x10
    let pa : PA := 0x1000
    let s : State := {loaded with obs := {jtag := {ir := 0x10}}}
    let op := jtagOp s.obs.jtag.ir.toNat
    op = 0x10 ∧ s.boot.running = true ∧ pa.toNat < 0xF000000000 := by decide +kernel
theorem witness_Jtag_5 :
    let ir : Byte := 0x10
    let i : Half := 7
    let s : State := {loaded with obs := {jtag := {ir := 0x12}}, boot := {recovery := true}}
    let op := jtagOp s.obs.jtag.ir.toNat
    op = 0x12 ∧ s.boot.recovery = true ∧ i ≠ 0xFFFFFFFF := by decide +kernel
theorem witness_Jtag_6 :
    let ir : Byte := 0x10
    let i : Half := 0xFFFFFFFF
    let s : State := {loaded with obs := {jtag := {ir := 0x12}}, boot := {recovery := true}}
    let op := jtagOp s.obs.jtag.ir.toNat
    op = 0x12 ∧ s.boot.recovery = true ∧ i = 0xFFFFFFFF := by decide +kernel

/-! `Obligations.TwinSession`, part TwinFrames. -/

theorem witness_TwinFrames_1 :
    let tagOk : Bool := true
    let seq : Nat := 5
    let s : State := (twinIs (session 1))
    s.TwinTakes tagOk seq := by
  simp only [twinTakes_iff]; decide +kernel
theorem witness_TwinFrames_2 :
    let st : Fin 4 := 0
    let s : State := up
    let open' := s.twin.lanes = true ∧ s.twin.st ≠ .disabled
    (¬ open') := by decide +kernel
theorem witness_TwinFrames_3 :
    let st : Fin 4 := 0
    let tagOk : Bool := false
    let seq : Nat := 5
    let s : State := (twinIs (session 1))
    let open' := s.twin.lanes = true ∧ s.twin.st ≠ .disabled
    open' ∧ (¬ s.TwinTakes tagOk seq) := by
  simp only [twinTakes_iff]; decide +kernel

/-! `Obligations.TwinSession`, part TwinPairing. -/

theorem witness_TwinPairing_1 :
    let m : PairMsg := ⟨7, 9, 5, 1, 1⟩
    let q : PairMsg := ⟨7, 9, 5, 1, 1⟩
    let kit : Word := 9
    let na : BitVec 256 := 5
    let nb : BitVec 256 := 3
    let tagOk : Bool := true
    let seq : Nat := 5
    let s : State := (twinIs {session 0 with st := .pairing, sentConf := true})
    let mine := if s.twin.sideA then (s.twin.nonce, q.nonce) else (q.nonce, s.twin.nonce)
    let enabled := s.fuses.kit ≠ 0 ∧ s.boot.feat.getLsbD 4 = true ∧ s.power.strap.getLsbD 7 = false
    (s.twin.st ≠ .down ∨ ¬ enabled ∨ s.boot.ready = false) ∧ s.twin.st ≠ .disabled ∧ s.twin.st = .pairing
    ∧ m.vmin.toNat ≤ 1 ∧ 1 ≤ m.vmax.toNat ∧ s.twin.partner = some q ∧ s.twin.newKeys = [] ∧ s.twin.sentConf = true
    ∧ (let right := s.TwinTakes tagOk seq ∧ kit = s.fuses.kit ∧ (na, nb) = mine; right) := by
  simp only [twinTakes_iff]; decide +kernel
theorem witness_TwinPairing_2 :
    let kit : Word := 9
    let s : State := (twinIs {st := .down})
    let enabled := s.fuses.kit ≠ 0 ∧ s.boot.feat.getLsbD 4 = true ∧ s.power.strap.getLsbD 7 = false
    s.twin.st = .down ∧ enabled ∧ s.boot.ready = true ∧ s.twin.st ≠ .pairing ∧ s.twin.st ≠ .paired := by decide +kernel
theorem witness_TwinPairing_3 :
    let m : PairMsg := ⟨2, 9, 5, 2, 3⟩
    let s : State := (twinIs {session 0 with st := .pairing, sentConf := true, sideA := true})
    s.twin.st = .pairing ∧ (1 < m.vmin.toNat ∨ m.vmax.toNat < 1) := by decide +kernel
theorem witness_TwinPairing_4 :
    let q : PairMsg := ⟨7, 9, 5, 1, 1⟩
    let kit : Word := 9
    let na : BitVec 256 := 1
    let nb : BitVec 256 := 3
    let tagOk : Bool := true
    let seq : Nat := 5
    let s : State := (twinIs {session 0 with st := .pairing, sentConf := true})
    let mine := if s.twin.sideA then (s.twin.nonce, q.nonce) else (q.nonce, s.twin.nonce)
    let right := s.TwinTakes tagOk seq ∧ kit = s.fuses.kit ∧ (na, nb) = mine
    s.twin.st = .pairing ∧ s.twin.partner = some q ∧ s.twin.newKeys = [] ∧ (¬ right) ∧ s.twin.fails < 2 := by
  simp only [twinTakes_iff]; decide +kernel
theorem witness_TwinPairing_5 :
    let q : PairMsg := ⟨7, 9, 5, 1, 1⟩
    let kit : Word := 1
    let na : BitVec 256 := 5
    let nb : BitVec 256 := 3
    let tagOk : Bool := true
    let seq : Nat := 5
    let s : State := (twinIs {session 0 with st := .pairing, sentConf := true, fails := 2})
    let mine := if s.twin.sideA then (s.twin.nonce, q.nonce) else (q.nonce, s.twin.nonce)
    let right := s.TwinTakes tagOk seq ∧ kit = s.fuses.kit ∧ (na, nb) = mine
    s.twin.st = .pairing ∧ s.twin.partner = some q ∧ s.twin.newKeys = [] ∧ (¬ right) ∧ 2 ≤ s.twin.fails := by
  simp only [twinTakes_iff]; decide +kernel
theorem witness_TwinPairing_6 :
    let s : State := up
    s.twin.st = .disabled := by decide +kernel
theorem witness_TwinPairing_7 :
    let s : State := (twinIs {session 1 with push := [⟨3, false, 2, 0, 256, 0, 0, false, 0⟩]})
    let p := (⟨3, false, 2, 0, 256, 0, 0, false, 0⟩ : Push)
    s.twin.st ≠ .disabled ∧ s.twin.push = [p] ∧ p.restore = false := by decide +kernel

/-! `Obligations.TwinRoles`, part Heartbeats. -/

theorem witness_Heartbeats_1 :
    let tagOk : Bool := true
    let seq : Nat := 5
    let f : Nat := 0
    let s : State := (twinIs {session 1 with fresh := some 0, newKeys := [5, 6, 7, 8], sentConf := true, gotConf := true})
    s.twin.st = .paired ∧ s.twin.fresh = some f ∧ s.now ≤ f + 1500000 ∧ s.twin.newKeys ≠ [] ∧ s.twin.gotConf = true
    ∧ s.twin.sentConf = true ∧ s.twin.lanes = true ∧ s.twin.keys ≠ [] ∧ s.TwinTakes tagOk seq
    ∧ s.twin.switching = none ∧ s.twin.role ≠ 2 := by
  simp only [twinTakes_iff]; decide +kernel
theorem witness_Heartbeats_2 :
    let f : Nat := 0
    let s : State := (twinIs (session 2))
    (s.twin.st ≠ .paired ∨ s.twin.fresh = none ∨ (s.twin.fresh = some f ∧ f + 1500000 < s.now)) ∧ s.twin.role = 2
    ∧ s.twin.gotHb = false := by decide +kernel
theorem witness_Heartbeats_3 :
    let m : HbMsg := {beat with state := 1}
    let tagOk : Bool := true
    let seq : Nat := 5
    let s : State := (twinIs {session 1 with afo := false, lease := 1})
    s.TwinTakes tagOk seq ∧ s.twin.st = .paired ∧ s.twin.switching = none ∧ (s.twin.afo = false ∨ m.afo = false)
    ∧ s.twin.lease = 1 ∧ m.state = 1 := by
  simp only [twinTakes_iff]; decide +kernel
theorem witness_Heartbeats_4 :
    let m : HbMsg := beat
    let tagOk : Bool := true
    let seq : Nat := 5
    let x : Nat × Nat := (4, 1000)
    let s : State := (twinIs {session 1 with fresh := some 0, sent := [(4, 1000)]})
    s.TwinTakes tagOk seq ∧ s.twin.st = .paired ∧ s.twin.switching = none ∧ s.twin.role = 1 ∧ s.twin.afo = true
    ∧ m.afo = true ∧ s.twin.sent.find? (fun y => y.1 = m.echo.toNat) = some x := by
  simp only [twinTakes_iff]; decide +kernel
theorem witness_Heartbeats_5 :
    let s : State := (twinIs {session 2 with gotHb := true})
    s.twin.role = 2 ∧ s.twin.gotHb = true := by decide +kernel

/-! `Obligations.TwinRoles`, part Roles. -/

theorem witness_Roles_1 :
    let role : Fin 3 := 1
    let tagOk : Bool := true
    let seq : Nat := 5
    let s : State := (twinIs {session 1 with lease := 1})
    s.twin.role = 1 ∧ s.twin.lease = 1 ∧ (s.twin.role ≠ 2 ∨ s.twin.bothAfo = false) ∧ s.TwinTakes tagOk seq
    ∧ s.twin.role ≠ 2 ∧ (s.twin.switchSent = false ∨ role.val ≠ 1 ∨ s.twin.role ≠ 1)
    ∧ (let y := 2; (s.sliceOf y).state = .active) := by
  simp only [twinTakes_iff]; decide +kernel
theorem witness_Roles_2 :
    let role : Fin 3 := 1
    let tagOk : Bool := true
    let seq : Nat := 5
    let s : State := (twinIs {session 2 with partHb := some beat})
    (s.twin.role ≠ 1 ∨ s.twin.lease ≠ 1) ∧ s.twin.role = 2 ∧ s.twin.bothAfo = true ∧ s.TwinTakes tagOk seq := by
  simp only [twinTakes_iff]; decide +kernel
theorem witness_Roles_3 :
    let role : Fin 3 := 1
    let tagOk : Bool := true
    let seq : Nat := 5
    let s : State := (twinIs {session 1 with switching := some 1, switchSent := true})
    s.TwinTakes tagOk seq ∧ s.twin.switching.isSome ∧ s.twin.switchSent = true ∧ s.twin.role = 1 ∧ role.val = 1
    ∧ s.boot.warmHeld = false := by
  simp only [twinTakes_iff]; decide +kernel

/-! `Obligations.TwinMirror`, part MirrorAndSwitchover. -/

theorem witness_MirrorAndSwitchover_1 :
    let i : Fin 64 := 2
    let v : Word := 0x1000000000001
    let b : Byte := 1
    let s : State := (twinIs {session 1 with entry := []})
    let w : Word := v &&& 0x7FFFFFFFFFE0007F
    let pushed := s.twin.push.any (fun p => p.entry = i.val)
    let off := s.twin.st ≠ .paired ∨ s.twin.role = 0 ∨ s.synced = false
    pushed = false ∧ (v.getLsbD 0 = false ∨ s.mirrorOk i.val w = true)
    ∧ w.toNat / 128 ≠ (tget 0 s.twin.entry i.val).toNat / 128 ∧ b = 1 ∧ s.twin.switching = none ∧ (¬ off)
    ∧ s.twin.role = 1 ∧ (let j := 5; j ≠ i.val) ∧ (let y := 2; (s.sliceOf y).state = .active) := by decide +kernel
theorem witness_MirrorAndSwitchover_2 :
    let i : Fin 64 := 2
    let b : Byte := 1
    let h : HbMsg := beat
    let m : PairMsg := ⟨7, 9, 5, 1, 1⟩
    let s : State := (twinIs {session 1 with push := [⟨3, false, 2, 0, 256, 0, 0, false, 0⟩], partHb := some beat})
    let pushed := s.twin.push.any (fun p => p.entry = i.val)
    let off := s.twin.st ≠ .paired ∨ s.twin.role = 0 ∨ s.synced = false
    let higher := (commonMajor m.vmin.toNat m.vmax.toNat).getD 0 < (commonMajor h.vmin.toNat h.vmax.toNat).getD 0
    pushed = true ∧ b = 1 ∧ s.twin.switching = none ∧ off ∧ s.twin.partHb = some h ∧ s.twin.partner = some m
    ∧ (s.leads = false ∨ s.twin.newKeys ≠ [] ∨ ¬ higher) := by decide +kernel
theorem witness_MirrorAndSwitchover_3 :
    let i : Fin 64 := 2
    let v : Word := 0x1000000000001
    let b : Byte := 0
    let s : State := (twinIs {session 1 with entry := [(5, 0x1000000000001)]})
    let w : Word := v &&& 0x7FFFFFFFFFE0007F
    let pushed := s.twin.push.any (fun p => p.entry = i.val)
    pushed = false ∧ v.getLsbD 0 = true ∧ s.mirrorOk i.val w = false ∧ b ≠ 1 := by decide +kernel
theorem witness_MirrorAndSwitchover_4 :
    let i : Fin 64 := 2
    let v : Word := 0x1000000000001
    let b : Byte := 1
    let s : State := (twinIs {session 1 with switching := some 1})
    let w : Word := v &&& 0x7FFFFFFFFFE0007F
    let pushed := s.twin.push.any (fun p => p.entry = i.val)
    pushed = false ∧ (v.getLsbD 0 = false ∨ s.mirrorOk i.val w = true)
    ∧ w.toNat / 128 = (tget 0 s.twin.entry i.val).toNat / 128 ∧ b = 1 ∧ s.twin.switching.isSome := by decide +kernel
theorem witness_MirrorAndSwitchover_5 :
    let b : Byte := 1
    let s : State := (twinIs {session 2 with entry := []})
    let off := s.twin.st ≠ .paired ∨ s.twin.role = 0 ∨ s.synced = false
    b = 1 ∧ s.twin.switching = none ∧ (¬ off) ∧ s.twin.role ≠ 1 := by decide +kernel
theorem witness_MirrorAndSwitchover_6 :
    let h : HbMsg := {beat with vmax := 2}
    let m : PairMsg := ⟨7, 9, 5, 0, 0⟩
    let s : State := (twinIs {session 1 with partHb := some {beat with vmax := 2}, partner := some ⟨7, 9, 5, 0, 0⟩})
    let higher := (commonMajor m.vmin.toNat m.vmax.toNat).getD 0 < (commonMajor h.vmin.toNat h.vmax.toNat).getD 0
    s.twin.partHb = some h ∧ s.twin.partner = some m ∧ s.leads = true ∧ s.twin.newKeys = [] ∧ higher := by decide +kernel

/-! `Obligations.TwinMirror`, part PushesRequested. -/

theorem witness_PushesRequested_1 :
    let tagOk : Bool := true
    let seq : Nat := 5
    let s : State := (twinIs (session 2))
    s.leads = false ∧ s.TwinTakes tagOk seq ∧ s.twin.role = 2 ∧ s.twin.journal.length < 256 := by
  simp only [twinTakes_iff]; decide +kernel
theorem witness_PushesRequested_2 :
    let tagOk : Bool := true
    let seq : Nat := 5
    let s : State := (twinIs {session 1 with push := List.replicate 16 ⟨3, false, 2, 0, 256, 0, 0, false, 0⟩})
    s.leads = true ∧ 16 ≤ s.twin.push.length ∧ s.TwinTakes tagOk seq ∧ s.twin.role ≠ 2 := by
  simp only [twinTakes_iff]; decide +kernel
theorem witness_PushesRequested_3 :
    let req : List Byte := leBytes 8 2 ++ leBytes 8 255 ++ leBytes 8 256 ++ leBytes 8 7 ++ leBytes 2 5 ++ leBytes 1 1 ++ leBytes 5 0
    let s : State := (twinIs (session 1))
    let f := fun (o n : Nat) => leNat ((req.drop o).take n)
    let inside := req.length = 40 ∧ s.twin.inEntry (f 0 8) (f 8 8) (f 16 8) = true
    s.leads = true ∧ s.twin.push.length < 16 ∧ (¬ inside) := by decide +kernel
theorem witness_PushesRequested_4 :
    let req : List Byte := leBytes 8 2 ++ leBytes 8 0 ++ leBytes 8 256 ++ leBytes 8 7 ++ leBytes 2 5 ++ leBytes 1 1 ++ leBytes 5 0
    let s : State := (twinIs (session 1))
    let f := fun (o n : Nat) => leNat ((req.drop o).take n)
    let inside := req.length = 40 ∧ s.twin.inEntry (f 0 8) (f 8 8) (f 16 8) = true
    s.leads = true ∧ s.twin.push.length < 16 ∧ inside := by decide +kernel
theorem witness_PushesRequested_5 :
    let tagOk : Bool := true
    let seq : Nat := 5
    let s : State := (twinIs {session 2 with journal := List.replicate 256 1})
    s.TwinTakes tagOk seq ∧ s.twin.role = 2 ∧ s.twin.journal.length = 256 := by
  simp only [twinTakes_iff]; decide +kernel

/-! `Obligations.TwinMirror`, part PushesLand. -/

theorem witness_PushesLand_1 :
    let tag : BitVec 14 := 3
    let st : Fin 4 := 0
    let p : Push := (⟨3, false, 2, 0, 256, 0, 0, false, 0⟩ : Push)
    let tagOk : Bool := true
    let seq : Nat := 5
    let s : State := (twinIs {session 1 with push := [⟨3, false, 2, 0, 256, 0, 0, false, 0⟩]})
    let g := tag.toNat
    s.twin.st = .paired ∧ ((∀ p ∈ s.twin.push, p.restore = true → p.tag ≠ g)) ∧ g ∉ s.twin.lostTags ∧ s.twin.role ≠ 2
    ∧ s.TwinTakes tagOk seq ∧ s.twin.switching = none ∧ s.twin.push.find? (fun p => p.tag = g) = some p
    ∧ p.restore = false := by
  simp only [twinTakes_iff]; decide +kernel
theorem witness_PushesLand_2 :
    let e : Fin 64 := 2
    let n : Half := 3
    let tag : BitVec 14 := 3
    let st : Fin 4 := 0
    let off : Word := 0
    let len : Word := 256
    let p : Push := (⟨3, false, 2, 0, 256, 0, 0, false, 0⟩ : Push)
    let tagOk : Bool := true
    let seq : Nat := 5
    let s : State := (twinIs (session 2))
    let g := tag.toNat
    let inside := s.twin.inEntry e.val (256 * n.toNat) 256
    s.twin.st = .paired ∧ ((∀ p ∈ s.twin.push, p.restore = true → p.tag ≠ g)) ∧ g ∉ s.twin.lostTags ∧ s.twin.role = 2
    ∧ inside = true ∧ s.TwinTakes tagOk seq ∧ (∀ p ∈ s.twin.push, p.tag ≠ g)
    ∧ s.twin.inEntry e.val off.toNat len.toNat = true := by
  simp only [twinTakes_iff]; decide +kernel
theorem witness_PushesLand_3 :
    let e : Fin 64 := 2
    let n : Half := 3
    let tag : BitVec 14 := 3
    let st : Fin 4 := 0
    let off : Word := 0
    let len : Word := 256
    let p : Push := (⟨3, false, 2, 0, 256, 0, 0, false, 0⟩ : Push)
    let tagOk : Bool := true
    let seq : Nat := 5
    let s : State := (twinIs {session 2 with entry := []})
    let g := tag.toNat
    let inside := s.twin.inEntry e.val (256 * n.toNat) 256
    s.twin.st = .paired ∧ ((∀ p ∈ s.twin.push, p.restore = true → p.tag ≠ g)) ∧ g ∉ s.twin.lostTags ∧ s.twin.role = 2
    ∧ inside = false ∧ s.TwinTakes tagOk seq ∧ s.twin.inEntry e.val off.toNat len.toNat = false := by
  simp only [twinTakes_iff]; decide +kernel
theorem witness_PushesLand_4 :
    let st : Fin 4 := 0
    let s : State := up
    s.twin.st ≠ .paired := by decide +kernel
theorem witness_PushesLand_5 :
    let tag : BitVec 14 := 3
    let st : Fin 4 := 0
    let p : Push := (⟨3, false, 2, 0, 256, 0, 0, false, 0⟩ : Push)
    let s : State := (twinIs {session 1 with lostTags := [3]})
    let g := tag.toNat
    s.twin.st = .paired ∧ ((∀ p ∈ s.twin.push, p.restore = true → p.tag ≠ g)) ∧ g ∈ s.twin.lostTags := by decide +kernel

/-! `Obligations.WatchdogsAndFaults`. -/

theorem witness_WatchdogsAndFaults_1 :
    let a : Fin 4 := 1
    let b : Fin 4 := 2
    let s : State := {twinIs (session 1) with avail := {hubExp := [(6, [0, 0])]}}
    let i := 4 * a.val + b.val
    let recent := (tget [] s.avail.hubExp i).filter (fun x => decide (s.now < x + 3600 * 10 ^ 9))
    i ∉ s.avail.hubRetired ∧ 2 ≤ recent.length ∧ s.leads = true ∧ s.twin.switching ≠ some 2 ∧ s.power.phyRst = true
    ∧ (let y := 2; (s.sliceOf y).state = .active) := by decide +kernel
theorem witness_WatchdogsAndFaults_2 :
    let a : Fin 4 := 1
    let b : Fin 4 := 2
    let s : State := up
    let i := 4 * a.val + b.val
    let recent := (tget [] s.avail.hubExp i).filter (fun x => decide (s.now < x + 3600 * 10 ^ 9))
    i ∉ s.avail.hubRetired ∧ recent.length < 2 := by decide +kernel
theorem witness_WatchdogsAndFaults_3 :
    let a : Fin 4 := 1
    let b : Fin 4 := 2
    let s : State := {loaded with avail := {hubRetired := [6]}, power := {porLow := false, phyRst := false}}
    let i := 4 * a.val + b.val
    i ∈ s.avail.hubRetired ∧ s.power.phyRst = false := by decide +kernel

/-! `Obligations.PstatClears`. -/

theorem witness_PstatClears :
    let h : Hart := 1
    let i : Nat := 2
    let s : State := (loaded.modCore 0 (fun c => {c with pstat := PFlags.ofNat 31}))
    s.canIssue h = true ∧ i < 64 := by decide +kernel


/-! `Obligations.ApertureRefusals`. -/

theorem witness_ApertureRefusals_1 :
    let e : Ep := .ioa
    let off : BitVec 42 := 0x1000
    let s : State := (epIs (fun h => {epUp h with seg := []}))
    let h := s.epOf e
    let g := h.segOf off.toNat
    h.linkUp = true ∧ h.stopped = false ∧ g.testBit 0 = false ∧ s.hostWaits e = false
    ∧ (g.testBit 0 = false ∨ g.testBit 1 = true) := by decide +kernel
theorem witness_ApertureRefusals_2 :
    let e : Ep := .ioa
    let s : State := (epIs (fun h => {epUp h with seg := [], later := [.aperture 0 4]}))
    let h := s.epOf e
    h.linkUp = true ∧ h.stopped = false ∧ s.hostWaits e = true := by decide +kernel

/-! `Obligations.ActionsByValue`. -/

theorem witness_ActionsByValue_1 :
    let d : List Byte := [0]
    let v := leNat d
    v ≠ 1 ∧ v ≠ 2 := by decide +kernel
theorem witness_ActionsByValue_2 :
    let d : List Byte := [1]
    let v := leNat d
    v = 1 ∧ (v = 1 ∨ v = 2) := by decide +kernel

theorem witness_EndpointResets_3 :
    let e : Ep := .ioa
    let c : Instr := .endpointUncorrectable e
    c ∈ [Instr.endpointUncorrectable e, .pcieLinkError e .uncorrectableInternal] := by decide +kernel

/-! ### A cask whose every spare frame is in use -/

/-- Cask 0 with a generator running over the whole of each of its channels. -/
def generating : State := home {pc := (List.range 32).map (fun i => (i, {tg := {busy := true, run := {base := 0, len := 0x1FFFFFF}}}))}
theorem generating_pc {p : Nat} (h : p < 32) : ((generating.caskOf 0).pcOf p).tg = {busy := true, run := {base := 0, len := 0x1FFFFFF}} := by
  have : ∀ p : Fin 32, ((generating.caskOf 0).pcOf p.val).tg = {busy := true, run := {base := 0, len := 0x1FFFFFF}} := by decide +kernel
  exact this ⟨p, h⟩
theorem generating_uses (f : Nat) : (generating.caskOf 0).tgUses f = true := by
  unfold Cask.tgUses
  refine List.any_eq_true.2 ⟨0, List.mem_range.2 (by decide), ?_⟩
  have hp : (placeOf (64 * (1024 * f + 0))).pc < 2 ^ 5 :=
    Nat.xor_lt_two_pow (by simp only [bits]; omega) (by simp only [bits]; omega)
  have hs : pcSector (placeOf (64 * (1024 * f + 0))) < 33554431 := by
    have hb : (placeOf (64 * (1024 * f + 0))).bank < 2 ^ 4 :=
      Nat.xor_lt_two_pow (by simp only [bits]; omega) (by simp only [bits]; omega)
    simp only [pcSector, placeOf, bits, Nat.shiftRight_eq_div_pow] at hb ⊢
    omega
  simp only [generating_pc hp]
  simpa using hs
theorem witness_CaskRepairs_3 :
    let k : CaskId := 0
    let s : State := generating
    let c := s.caskOf k.val
    let frame : BitVec 20 := 0
    frame.toNat < spareBase ∧ c.spareChoices = [] :=
  ⟨by decide, List.filter_eq_nil_iff.2 fun f _ => by
    show ¬ (!_ && !(generating.caskOf 0).tgUses f) = true
    rw [generating_uses]; simp⟩

/-! ### A core's image read from and written to a plain cask -/

/-- Nothing stands in the way of a hub agent's access to the first frames of cask 0, which is as `P` says. -/
structure OpenCask (P : Cask → Prop) (s : State) : Prop where
  nis : ∀ j, j < 4 → s.bunged (niMem 0 j) = false
  slot : (s.slotOf 0).state ≠ 2
  reserve : s.reserve = []
  mirror : s.twin.entry = []
  cask : P (s.caskOf 0)

/-- A cask whose usable sectors read as 0, with no line held, parked or blocked. -/
structure PlainCask (c : Cask) : Prop where
  mem : c.mem = []
  health : c.health = []
  ktag : c.ktag = []
  remap : c.remap = []
  base : c.poisBase = false
  flip : c.poisFlip = []
  dir : c.dir = []
  parked : c.parked = []
  txns : c.txns = []

/-- A cask with no line held, parked or blocked. -/
structure IdleCask (c : Cask) : Prop where
  dir : c.dir = []
  parked : c.parked = []
  txns : c.txns = []

theorem pow_window : (2 : Nat) ^ 36 = 0x1000000000 := by decide

theorem OpenCask.mod {P : Cask → Prop} {s : State} (h : OpenCask P s) (k : Nat) {f : Cask → Cask}
    (hf : ∀ c, P c → P (f c)) : OpenCask P (s.modCask k f) := by
  refine ⟨h.nis, h.slot, h.reserve, h.mirror, ?_⟩
  by_cases hk : (0 : Nat) = k
  · subst hk; rw [State.caskOf_modCask]; exact hf _ h.cask
  · rw [State.caskOf_modCask_ne _ _ hk]; exact h.cask

theorem OpenCask.charged {P : Cask → Prop} (hP : ∀ c p f, P c → P (c.modPc p f)) {s : State} (h : OpenCask P s)
    (pa n : Nat) (wr : Bool) : OpenCask P (s.charge pa n wr) := by
  unfold State.charge
  generalize List.range n = l
  induction l generalizing s with
  | nil => exact h
  | cons i l ih =>
    refine ih ?_
    dsimp only
    split
    · exact h.mod _ fun c hc => hP c _ _ hc
    · exact h.mod _ fun c hc => hP c _ _ hc
    · exact h

theorem memNi_open {P : Cask → Prop} {s : State} (h : OpenCask P s) (a : Nat) : s.bunged (memNi 0 a) = false := by
  refine h.nis _ ?_
  have : (placeOf a).pc < 2 ^ 5 := Nat.xor_lt_two_pow (by simp only [bits]; omega) (by simp only [bits]; omega)
  omega

theorem regionOf_low {pa : Nat} (h : pa < 0x40000000) : regionOf pa = .usable 0 pa := by
  have h1 : ¬ 0xF000000000 ≤ pa := by omega
  have h2 : ¬ 0xC000000000 ≤ pa := by omega
  have h3 : pa % 0x1000000000 = pa := by omega
  have h4 : pa < usableEnd := by have : usableEnd = 0xB40000000 := rfl; omega
  have h5 : pa / 0x1000000000 = 0 := by omega
  simp [regionOf, pow_window, h1, h2, h3, h4, h5]

theorem OpenCask.agentCharged {P : Cask → Prop} {s : State} (h : OpenCask P s) (rt : Rights) (op : TOp) (pa n : Nat) :
    OpenCask P (s.chargeAgent rt op pa n) := by
  have key : ∀ i c v, OpenCask P (s.setCls i c v) := by
    intro i c v
    refine ⟨fun j hj => ?_, h.slot, h.reserve, h.mirror, h.cask⟩
    by_cases e : niMem 0 j = i
    · subst e
      show ((s.modNi (niMem 0 j) _).niOf (niMem 0 j)).eng = false
      rw [State.niOf_modNi]; exact h.nis j hj
    · show ((s.modNi i _).niOf (niMem 0 j)).eng = false
      rw [State.niOf_modNi_ne _ _ e]; exact h.nis j hj
  unfold State.chargeAgent State.chargeNi
  repeat' split
  all_goals first | exact h | exact key _ _ _

theorem memStatus_open {P : Cask → Prop} {s : State} (h : OpenCask P s) {pa : Nat} (hp : pa < 0x40000000) (rt : Rights)
    (wr : Bool) : s.memStatus rt wr pa 0 = .ok := by
  have h1 : s.reserves = [] := by simp [State.reserves, h.reserve]
  have h2 : s.mirrorBars pa = false := by simp [State.mirrorBars, State.mirrorOf, h.mirror]
  have h3 : s.reserveBars pa rt.fw = false := by simp [State.reserveBars, h1]
  have h4 : ¬ (s.slotOf 0).state = 2#2 := h.slot
  simp [State.memStatus, regionOf_low hp, memNi_open h, h4, h2, h3]

theorem readNat_nil (a n : Nat) : Memory.readNat [] a n = 0 := by
  unfold Memory.readNat
  induction n generalizing a with
  | zero => rfl
  | succ n ih => simp [Memory.readBytes, leNat, Memory.read, ih]

theorem PlainCask.poisoned {c : Cask} (h : PlainCask c) {sec : Nat} (hs : sec < 0x1000000) :
    c.loc sec = sec ∧ c.poisoned sec = false := by
  have : ¬ usableEnd / 64 ≤ sec := by have : usableEnd = 0xB40000000 := rfl; omega
  exact ⟨by simp [Cask.loc, h.remap, tfind], by simp [Cask.poisoned, Cask.marked, h.base, h.flip, h.health, tget, this]⟩

theorem PlainCask.reads {c : Cask} (h : PlainCask c) {sec : Nat} (hs : sec < 0x1000000) (k : Nat) :
    c.readSector k sec 0 = (0, false) := by
  obtain ⟨hl, hp⟩ := h.poisoned hs
  simp [Cask.readSector, hl, hp, Cask.plain, h.ktag, tget, Cask.raw, h.mem, readNat_nil]

theorem PlainCask.counted {c : Cask} (h : PlainCask c) (sec row now n : Nat) :
    PlainCask ((c.countRead sec).rowReport row now n) := by
  have h1 : PlainCask (c.countRead sec) := by
    unfold Cask.countRead
    split
    · exact ⟨h.1, h.2, h.3, h.4, h.5, h.6, h.7, h.8, h.9⟩
    · split
      · exact ⟨h.1, h.2, h.3, h.4, h.5, h.6, h.7, h.8, h.9⟩
      · exact h
  unfold Cask.rowReport
  split
  · exact ⟨h1.1, h1.2, h1.3, h1.4, h1.5, h1.6, h1.7, h1.8, h1.9⟩
  · exact ⟨h1.1, h1.2, h1.3, h1.4, h1.5, h1.6, h1.7, h1.8, h1.9⟩
  · exact h1

theorem OpenCask.counted {s : State} (h : OpenCask PlainCask s) {sec : Nat} (hs : sec < 0x1000000) :
    OpenCask PlainCask (s.countRead 0 sec) := by
  have h0 : tget 0 (s.caskOf 0).health ((s.caskOf 0).loc sec) = 0 := by rw [h.cask.health]; rfl
  unfold State.countRead
  simp only [h0, Nat.zero_ne_one, decide_false, Bool.and_false, Bool.false_eq_true, if_false]
  exact h.mod _ fun c hc => hc.counted _ _ _ _

theorem OpenCask.reads {s : State} (h : OpenCask PlainCask s) (rt : Rights) {pa : Nat} (hp : pa < 0x40000000) :
    ∃ t, s.agentRead rt pa 0 = (.ok, (0, false), t) ∧ OpenCask PlainCask t := by
  have hq : 64 * (pa / 64) < 0x40000000 := by omega
  have hk : 64 * (pa / 64) / 0x1000000000 = 0 := by omega
  have hl : 64 * (pa / 64) / 64 = pa / 64 := by omega
  have hs : pa / 64 < 0x1000000 := by omega
  have hn := h.agentCharged rt .rd (64 * (pa / 64)) 1
  unfold State.agentRead
  dsimp only
  generalize s.chargeAgent rt .rd (64 * (pa / 64)) 1 = u at hn ⊢
  have h1 : ∀ t, OpenCask PlainCask t → (t.caskOf 0).ahead (pa / 64) = [] := by
    intro t ht; simp [Cask.ahead, ht.cask.parked, ht.cask.txns]
  have h2 : (u.caskOf 0).dirFind (pa / 64) = none := by simp [Cask.dirFind, hn.cask.dir]
  have h3 : u.primaryOf (64 * (pa / 64)) = none := by simp [State.primaryOf, State.reserves, hn.reserve]
  have ho : OpenCask PlainCask ((u.countRead 0 (pa / 64)).charge (64 * (pa / 64)) 1 false) :=
    OpenCask.charged (fun c p f hc => ⟨hc.1, hc.2, hc.3, hc.4, hc.5, hc.6, hc.7, hc.8, hc.9⟩) (hn.counted hs) _ _ _
  refine ⟨_, ?_, ho⟩
  have hd : u.dirCheck 0 (pa / 64) = u := by unfold State.dirCheck; rw [h2]
  have hb : (u.caskOf 0).dirBad (pa / 64) = false := by unfold Cask.dirBad; rw [h2]
  have hw : u.newest (64 * (pa / 64)) 0 = ((0, false), (u.countRead 0 (pa / 64)).charge (64 * (pa / 64)) 1 false) := by
    simp only [State.newest, pow_window, hk, hl, h2, otherM, State.arrayRead, h3, regionOf_low hq, hn.cask.reads hs]
  simp only [memStatus_open hn hq, pow_window, hk, hl, hd, hb, hw, h1 _ ho, List.foldl_nil, ne_eq, not_true_eq_false,
    Bool.false_eq_true, if_false]

theorem leBytes_zero (n : Nat) : leBytes n 0 = List.replicate n 0 := by
  induction n with
  | zero => rfl
  | succ n ih => simp [leBytes, ih, List.replicate_succ]

theorem agentBytes_zero {s : State} (h : OpenCask PlainCask s) (rt : Rights) {m : Nat} (hm : m ≤ 0x100000) :
    (s.agentBytes rt 0 0 m).1 = .ok ∧ (s.agentBytes rt 0 0 m).2.1 = false
      ∧ ∀ n, nth 0 (s.agentBytes rt 0 0 m).2.2.1 n = 0 := by
  have key : ∀ (l : List Nat) (s : State) (bs : List Byte), (∀ i ∈ l, i < 0x100000) → OpenCask PlainCask s → (∀ b ∈ bs, b = 0) →
      ∃ cs t, (l.foldl (fun (st, p, bs, s) i =>
        let (st', v, s) := State.agentRead s rt (64 * (0 / 64) + 64 * i) 0
        (if st = .ok then st' else st, p || v.2, bs ++ sectorBytes v.1, s)) ((Status.ok, false, bs, s)))
          = (.ok, false, cs, t) ∧ ∀ b ∈ cs, b = 0 := by
    intro l
    induction l with
    | nil => intro s bs _ _ hb; exact ⟨bs, s, rfl, hb⟩
    | cons i l ih =>
      intro s bs hl hs hb
      have hi := hl i (by simp)
      obtain ⟨t, e, ht⟩ := hs.reads rt (pa := 64 * (0 / 64) + 64 * i) (by omega)
      simp only [List.foldl_cons, e]
      refine ih t _ (fun j hj => hl j (by simp [hj])) ht ?_
      intro b hb'
      rcases List.mem_append.1 hb' with h' | h'
      · exact hb b h'
      · have hz : (0 : Sector).toNat = 0 := by decide +kernel
        have h0 : sectorBytes 0 = List.replicate 64 0 := by unfold sectorBytes; rw [hz]; exact leBytes_zero 64
        rw [h0] at h'; exact List.eq_of_mem_replicate h'
  obtain ⟨cs, t, e, hc⟩ := key (List.range (if m = 0 then 0 else (0 % 64 + m + 63) / 64)) s []
    (fun i hi => by have := List.mem_range.1 hi; split at this <;> omega) h (by simp)
  have e' : s.agentBytes rt 0 0 m = (.ok, false, (cs.drop (0 % 64)).take m, t) := by
    simp only [State.agentBytes, e]
  rw [e']
  refine ⟨rfl, rfl, fun n => ?_⟩
  have hz : ∀ (l : List Byte), (∀ b ∈ l, b = 0) → ∀ n, nth 0 l n = 0 := by
    intro l
    induction l with
    | nil => intro _ n; rfl
    | cons b l ih =>
      intro hl n
      cases n with
      | zero => exact hl b (by simp)
      | succ n => exact ih (fun c hc => hl c (by simp [hc])) n
  exact hz _ (fun b hb => hc b (List.mem_of_mem_drop (List.mem_of_mem_take hb))) n

/-- `readable` with the NIs of cask 0 open. -/
def reaching : State := (List.range 8).foldl (fun s i => s.modNi (0x80 + i) (fun n => {n with eng := false, ready := true})) readable
theorem reaching_open : OpenCask PlainCask reaching := by
  constructor
  · decide +kernel
  · decide +kernel
  · decide +kernel
  · decide +kernel
  · constructor <;> decide +kernel

theorem reaching_reads (rt : Rights) {m : Nat} (hm : m ≤ 0x100000) {k pa : Nat} (hk : k = 0) (hpa : pa = 0) :
    (reaching.agentBytes rt k pa m).1 = .ok ∧ (reaching.agentBytes rt k pa m).2.1 = false
      ∧ (List.range 4).any (fun t => (nth 0 (reaching.agentBytes rt k pa m).2.2.1 (0x984A0 + 0x800 * t)).toNat % 4 = 2) = false := by
  subst hk hpa
  obtain ⟨a1, a2, a3⟩ := agentBytes_zero reaching_open rt hm
  exact ⟨a1, a2, by simp only [a3]; decide⟩

theorem witness_ContextLoads :
    let c : CoreId := 1
    let x : CtxId := 7
    let s : State := reaching
    let a := s.agentBytes (machinery x.val 64) (s.ctxOf x.val).area.1 (s.ctxOf x.val).area.2 0xA0000
    s.placeable x.val = true ∧ s.posAllowed x.val c.val = true ∧ s.posFree c.val = true ∧ a.1 = .ok ∧ a.2.1 = false
    ∧ (List.range 4).any (fun t => (nth 0 a.2.2.1 (0x984A0 + 0x800 * t)).toNat % 4 = 2) = false := by
  exact ⟨by decide +kernel, by decide +kernel, by decide +kernel,
    reaching_reads _ (by decide) (by decide +kernel) (by decide +kernel)⟩

theorem idle_marked {c : Cask} (h : IdleCask c) (a : Nat) (p : Bool) : IdleCask (c.setMark a p) := by
  unfold Cask.setMark
  repeat' split
  all_goals exact ⟨h.1, h.2, h.3⟩

theorem idle_with {c : Cask} (h : IdleCask c) (m : Memory) (t k : Tab Nat) :
    IdleCask {c with mem := m, health := t, ktag := k} := ⟨h.1, h.2, h.3⟩

theorem idle_written {c : Cask} (h : IdleCask c) (a k : Nat) (v : Sector) : IdleCask (c.writeSector a k v) :=
  idle_with (idle_marked h (c.loc a) false) _ _ _

theorem idle_masked {c : Cask} (h : IdleCask c) (n a k : Nat) (m : Word) (v : Sector) :
    IdleCask (c.maskedWrite n a k m v) := by
  unfold Cask.maskedWrite
  split
  · exact idle_written h _ _ _
  · split
    · exact h
    · exact idle_written h _ _ _

theorem OpenCask.invalidated {s : State} (h : OpenCask IdleCask s) {line : Nat} (hl : line < 0x1000000) :
    OpenCask IdleCask (s.invAll line) := by
  have hk : 64 * line / 0x1000000000 = 0 := by omega
  have h1 : (s.caskOf 0).dirFind line = none := by simp [Cask.dirFind, h.cask.dir]
  have e : s.invAll line = State.modCask {s with inflight := tdel s.inflight line} 0 (fun c => c.dirDel line) := by
    simp [State.invAll, pow_window, hk, h1, otherM, otherS]
  have h' : OpenCask IdleCask {s with inflight := tdel s.inflight line} := ⟨h.1, h.2, h.3, h.4, h.5⟩
  rw [e]
  exact h'.mod _ fun c hc => ⟨by simp [Cask.dirDel, hc.1], hc.2, hc.3⟩

theorem OpenCask.arrayWritten {s : State} (h : OpenCask IdleCask s) (pa : Nat)
    {f : Nat → Cask → Nat → Cask} (hf : ∀ k c a, IdleCask c → IdleCask (f k c a)) : OpenCask IdleCask (s.arrayWrite pa f) := by
  unfold State.arrayWrite
  split
  · exact (h.mod _ fun c hc => hf _ c _ hc).charged (fun c p f hc => ⟨hc.1, hc.2, hc.3⟩) _ _ _
  · exact (h.mod _ fun c hc => hf _ c _ hc).charged (fun c p f hc => ⟨hc.1, hc.2, hc.3⟩) _ _ _
  · exact h

theorem OpenCask.writes {s : State} (h : OpenCask IdleCask s) (rt : Rights) {pa : Nat} (hp : pa < 0x40000000) (full : Bool)
    (m : Word) (v : Sector) :
    ∃ t, s.agentWrite rt (if full then .wri else .wrp) pa 0 m v = (.ok, t) ∧ OpenCask IdleCask t := by
  have hq : 64 * (pa / 64) < 0x40000000 := by omega
  have hk : 64 * (pa / 64) / 0x1000000000 = 0 := by omega
  have hs : 64 * (pa / 64) / 64 < 0x1000000 := by omega
  have hn := h.agentCharged rt (if full then .wri else .wrp) (64 * (pa / 64))
    (if (if full then TOp.wri else .wrp) = .wrp then 2 else 1)
  unfold State.agentWrite
  dsimp only
  generalize s.chargeAgent rt (if full then .wri else .wrp) (64 * (pa / 64))
    (if (if full then TOp.wri else .wrp) = .wrp then 2 else 1) = u at hn ⊢
  have h1 : ∀ r, (u.caskOf 0).mustPark r = false := by
    intro r; simp [Cask.mustPark, Cask.blocked, Cask.queued, hn.cask.txns, hn.cask.parked]
  have hl : 64 * (pa / 64) / 64 = pa / 64 := by omega
  have h2 : (u.caskOf 0).dirFind (pa / 64) = none := by simp [Cask.dirFind, hn.cask.dir]
  have h3 : u.stepwise (pa / 64) = false := by
    simp only [State.stepwise, pow_window, hk, h2, otherM, otherS, List.append_nil, List.any_nil]
  have hd : u.dirCheck 0 (pa / 64) = u := by unfold State.dirCheck; rw [h2]
  have hb : (u.caskOf 0).dirBad (pa / 64) = false := by unfold Cask.dirBad; rw [h2]
  have hi := hn.invalidated (line := pa / 64) (by omega)
  refine ⟨u.writeNow (if full then .wri else .wrp) (64 * (pa / 64)) 0 m v, ?_, ?_⟩
  · simp only [memStatus_open hn hq, pow_window, hk, hl, h1, hd, hb, h3, Bool.or_self, ne_eq, not_true_eq_false,
      Bool.false_eq_true, if_false]
  · cases full
    · simp only [State.writeNow, pow_window, hk, hl, h2, otherM, Bool.false_eq_true, if_false]
      exact hi.arrayWritten _ fun _ c a hc => idle_masked hc _ _ _ _ _
    · simp only [State.writeNow, hl, if_true]
      exact hi.arrayWritten _ fun _ c a hc => idle_written hc _ _ _

theorem agentPut_ok {s : State} (h : OpenCask IdleCask s) (rt : Rights) {bs : List Byte} {pa : Nat} (hb : pa + bs.length ≤ 0x100000) :
    (s.agentPut rt .wri 0 pa bs).1 = .ok := by
  have key : ∀ (l : List Nat) (s : State), (∀ i ∈ l, i ≤ 0x100000) → OpenCask IdleCask s →
      (l.foldl (fun (st, s) i =>
        let base := 64 * (pa / 64) + 64 * i
        let lo := max pa base
        let hi := min (pa + bs.length) (base + 64)
        let part := (bs.drop (lo - pa)).take (hi - lo)
        let v : Sector := BitVec.ofNat 512 (leNat part * 2 ^ (8 * (lo - base)))
        let full := lo = base && hi = base + 64
        let mask : Word := BitVec.ofNat 64 ((2 ^ (hi - lo) - 1) * 2 ^ (lo - base))
        let (st', s) := State.agentWrite s rt (if full then .wri else .wrp) base 0 mask v
        (if st = .ok then st' else st, s)) (Status.ok, s)).1 = .ok := by
    intro l
    induction l with
    | nil => intro s _ _; rfl
    | cons i l ih =>
      intro s hl hs
      have hi := hl i (by simp)
      obtain ⟨t, e, ht⟩ := hs.writes rt (pa := 64 * (pa / 64) + 64 * i) (by omega)
        (decide (max pa (64 * (pa / 64) + 64 * i) = 64 * (pa / 64) + 64 * i) &&
          decide (min (pa + bs.length) (64 * (pa / 64) + 64 * i + 64) = 64 * (pa / 64) + 64 * i + 64))
        (BitVec.ofNat 64 ((2 ^ (min (pa + bs.length) (64 * (pa / 64) + 64 * i + 64) - max pa (64 * (pa / 64) + 64 * i)) - 1)
          * 2 ^ (max pa (64 * (pa / 64) + 64 * i) - (64 * (pa / 64) + 64 * i))))
        (BitVec.ofNat 512 (leNat ((bs.drop (max pa (64 * (pa / 64) + 64 * i) - pa)).take
          (min (pa + bs.length) (64 * (pa / 64) + 64 * i + 64) - max pa (64 * (pa / 64) + 64 * i)))
          * 2 ^ (8 * (max pa (64 * (pa / 64) + 64 * i) - (64 * (pa / 64) + 64 * i)))))
      simp only [List.foldl_cons, e, if_true]
      exact ih t (fun j hj => hl j (by simp [hj])) ht
  refine key (List.range (if bs.length = 0 then 0 else (pa % 64 + bs.length + 63) / 64)) s (fun i hi => ?_) h
  have := List.mem_range.1 hi
  split at this <;> omega

theorem readBytes_length (m : Memory) (a n : Nat) : (m.readBytes a n).length = n := by
  induction n generalizing a with
  | zero => rfl
  | succ n ih => simp [Memory.readBytes, ih]

/-- `savingPos` with the NIs of cask 0 open. -/
def leaving : State := reaching.modCtx 1 (fun c => {c with saving := some (.command 2)})
/-- `leaving` as its image is written: its threads settled, its arrivals at barriers kept. -/
def leavingNow : State :=
  let s := leaving.coreSettle 0
  let inside := (List.range 4).foldl (fun (m : Nat) t => m + if ((s.coreOf 0).thread (Fin.ofNat 4 t)).barIn then 2 ^ t else 0) 0
  s.modCtx 1 (fun c => {c with barIn := BitVec.ofNat 4 inside})
theorem leaving_open : OpenCask IdleCask leavingNow := by
  constructor
  · decide +kernel
  · decide +kernel
  · decide +kernel
  · decide +kernel
  · constructor <;> decide +kernel

theorem image_length (c : Machine.Core) : c.image.length = 0x80000 + 0x20000 := by
  unfold Core.image
  rw [List.length_append, readBytes_length, readBytes_length]

theorem leaving_saves : (leaving.saveImage 0 1).1 = .ok := by
  unfold State.saveImage
  have e : (leaving.ctxOf (1 : CtxId).val).area = (0, 0) := by decide +kernel
  rw [e]
  exact agentPut_ok leaving_open _ (by rw [image_length]; decide)

theorem status_ok {r : Status × State} (h : r.1 = .ok) : r = (.ok, r.2) := by cases r; cases h; rfl

theorem witness_ContextSaves :
    let c : CoreId := 0
    let x : CtxId := 1
    let why : SaveWhy := .command 2
    let s : State := leaving
    let u : State := (s.saveImage c x).2
    (s.coreOf c.val).ctx = some x ∧ (s.ctxOf x.val).saving = some why ∧ s.siteHalted (c.val / 256) = false
    ∧ s.quiet c.val = true ∧ s.saveImage c x = (.ok, u) :=
  ⟨by decide +kernel, by decide +kernel, by decide +kernel, by decide +kernel, status_ok leaving_saves⟩

/-! ### Hypotheses that need more than evaluation -/

/-- `Obligations.IntegerAccumulation`: the largest products, the sum just below and just at the end of the range. -/
theorem witness_IntegerAccumulation :
    let acc : Nat := 2 ^ 32 - 1
    let prods : List Int := [16384, -16256]
    let other : List Int := [-16256, 16384]
    acc < 2 ^ 32 ∧ (∀ p ∈ prods, ∃ a b : Int, p = a * b ∧ -128 ≤ a ∧ a ≤ 127 ∧ -128 ≤ b ∧ b ≤ 127) ∧ other.Perm prods := by
  refine ⟨by decide, ?_, .swap _ _ _⟩
  intro p hp
  rcases List.mem_cons.1 hp with rfl | hp
  · exact ⟨-128, -128, by decide⟩
  · rcases List.mem_singleton.1 hp with rfl
    exact ⟨-128, 127, by decide⟩
theorem witness_IntegerAccumulation_2 :
    let acc : Nat := 0
    let prods : List Int := List.replicate 131071 16384
    acc = 0 ∧ acc < 2 ^ 32 ∧ (∀ p ∈ prods, ∃ a b : Int, p = a * b ∧ -128 ≤ a ∧ a ≤ 127 ∧ -128 ≤ b ∧ b ≤ 127)
    ∧ prods.length < 131072 := by
  refine ⟨rfl, by decide, ?_, ?_⟩
  · intro p hp
    exact ⟨-128, -128, (List.eq_of_mem_replicate hp).trans (by decide), by decide⟩
  · show (List.replicate 131071 (16384 : Int)).length < 131072
    rw [List.length_replicate]; decide

/-- `Obligations.ImagesVerified`: an empty image and an empty licence lack the headers the rule asks for. -/
theorem witness_ImagesVerified :
    let img : List Byte := []
    let lic : List Byte := []
    let s : State := up
    (¬ (numAt img 0 8 = 0x31474D494E55524A ∧ numAt img 8 2 = 1 ∧ numAt img 0x10 4 ≤ 0x600000
        ∧ numAt img 0x10 4 ≤ img.length ∧ s.fuses.sver ≤ numAt img 0x0A 1
        ∧ Config.lmsVerify ((img.drop 0x1A0).take 60) (img.take 0x200) ((img.drop 0x200).take 5396) = true
        ∧ (∃ k, k < 4 ∧ s.fuses.fwRevoke.getLsbD k = false ∧ tget 0 s.fuses.fwHash k = Config.sha256 ((img.drop 0x1A0).take 60))
        ∧ ∃ cs, imgComponents img = some cs ∧ ∀ x ∈ cs, Config.sha256 x.2.1 = x.2.2))
    ∧ ¬ (lic.length = 5588 ∧ numAt lic 0x10 16 = s.fuses.serial.toNat
        ∧ s.boot.lseq ≤ numAt lic 0x0C 4 ∧ 1 ≤ numAt lic 0x40 1 ∧ numAt lic 0x40 1 ≤ 64
        ∧ ∃ k, k < 4 ∧ s.fuses.licRevoke.getLsbD k = false ∧ tget 0 s.fuses.licHash k = Config.sha256 ((lic.drop 0x80).take 60)) :=
  ⟨fun h => absurd h.1 (by decide), fun h => absurd h.1 (by decide)⟩
end

section

namespace Sys2Proof.Machine

/-! ### A sink beyond the identifiers of the memory NIs -/

/-- Taster 5 holds a record for sink 0, whose base names cask 112. `SKBASE` takes such a base while `sen` is 0 (R534). The
memory NI of that cask would be 1024, past the 10 bits of a destination: the request goes to NI 0, for which the taster's
NI has no route. What stands at 1024 in its row of the route store is the next taster's entry for NI 0. -/
def farSink : State :=
  { obs := {taster := [(5, {held := [[1, 2, 3, 4], [5, 6, 7, 8]]})], sink := [(0, {base := 112 * 2 ^ 30})]},
    trellis := {route := [(1024 * 0x206, 2 ^ 51)], ni := [(0x205, {cls := [(4, {credit := 2})]})]} }

/-- The record's request ends UNREACH at its own NI, and no packet leaves. -/
theorem farSink_recordSend : ∃ u, exec (.tasterRecordSend 5) farSink = .next u
    ∧ u.out = [.traceRec 5 0 [[1, 2, 3, 4], [5, 6, 7, 8]], .rsp 0 0x205 0 .unreach []] :=
  ⟨_, rfl, by decide +kernel⟩

/-- Refutes O30: a record whose sink lies past cask 111 is asked for at the low 10 bits of its NI, where the taster's NI
may have no route, and then no packet goes out. -/
theorem not_trellisWatch : ¬ Obligations.TrellisWatch := by
  unfold Obligations.TrellisWatch
  rintro ⟨-, -, hrecord⟩
  obtain ⟨-, hheld⟩ := hrecord 5 farSink
  obtain ⟨-, hsends, -⟩ := hheld (by decide) rfl (by decide +kernel) (by decide +kernel)
  obtain ⟨-, t, ht, hpacket, -⟩ := hsends false (by decide +kernel)
  obtain ⟨u, hu, hout⟩ := farSink_recordSend
  obtain rfl : u = t := Host.Outcome.next.inj (hu.symm.trans ht)
  rw [hout] at hpacket
  simp only [List.cons.injEq, reduceCtorEq, false_and, and_false] at hpacket

/-! ### The gate of a site that holds no graft -/

/-- A request into a graft that waits for its answer, under tag 5 of module 0. -/
def awaitedRead : IntoGraft := ⟨0, 5, 9, 3, .rd, 0, none, 0⟩

/-- Site 0 of a package with no graft: its gate awaits one answer, and fifteen others are overdue in this second. -/
def gateNoGraft : State := {gate := [(0, {into := [awaitedRead], ovdSec := 15})]}

/-- The sixteenth overdue answer powers site 0 down, but `fenced` of a gate is set at a graft site alone. -/
theorem gateNoGraft_overdue : ∃ u, exec (.graftAnswerOverdue 0 0 5) gateNoGraft = .next u
    ∧ (u.gateOf 0).ovdSec = 16 ∧ (u.gateOf 0).cause = 17 ∧ (u.gateOf 0).fenced = false :=
  ⟨_, rfl, by decide +kernel⟩

/-- Refutes O34: its last clause does not ask for a graft site, and at any other the sixteenth overdue answer leaves
`fenced` 0. -/
theorem not_graftTraffic : ¬ Obligations.GraftTraffic := by
  unfold Obligations.GraftTraffic
  rintro ⟨-, hinto⟩
  obtain ⟨-, -, -, -, -, hoverdue⟩ := hinto 0 0 5 ⟨.rd, .bulk, 0, 0, 0, 0, 0, false⟩ 0 [] gateNoGraft
  obtain ⟨t, ht, -, hsixteenth⟩ := hoverdue awaitedRead (by decide +kernel)
  obtain ⟨hfenced, -⟩ := hsixteenth (by decide +kernel)
  obtain ⟨u, hu, -, -, hopen⟩ := gateNoGraft_overdue
  obtain rfl : u = t := Host.Outcome.next.inj (hu.symm.trans ht)
  exact absurd (hopen.symm.trans hfenced) Bool.false_ne_true

end Sys2Proof.Machine
end

section

namespace Sys2Proof.Machine

/-! ### The 32-bit code of an integer and its two's-complement value (R71) -/

/-- An INT32 accumulator can hold v. -/
def FitsI32 (v : Int) : Prop := -(2 ^ 31) ≤ v ∧ v < 2 ^ 31

/-- The range holds one integer of each residue modulo 2^32. -/
theorem FitsI32.eq_of_emod_eq {v u : Int} (hv : FitsI32 v) (hu : FitsI32 u) (h : v % 2 ^ 32 = u % 2 ^ 32) : v = u := by
  obtain ⟨hv, hv'⟩ := hv
  obtain ⟨hu, hu'⟩ := hu
  omega

theorem natCast_intCode (w : Nat) (v : Int) : (intCode w v : Int) = v % 2 ^ w :=
  Int.toNat_of_nonneg (Int.emod_nonneg _ (Int.pow_ne_zero (by decide)))

theorem fitsI32_intOf (code : Nat) : FitsI32 (intOf 32 code) := by
  dsimp only [FitsI32, intOf]
  split <;> omega

theorem intOf_emod (code : Nat) : intOf 32 code % 2 ^ 32 = code % 2 ^ 32 := by
  dsimp only [intOf]
  split <;> omega

/-- Cutting an integer to 32 bits loses nothing exactly when the range holds it. -/
theorem intOf_intCode_eq_iff (v : Int) : intOf 32 (intCode 32 v) = v ↔ FitsI32 v := by
  constructor
  · intro h
    exact h ▸ fitsI32_intOf _
  · intro hv
    refine (fitsI32_intOf _).eq_of_emod_eq hv ?_
    rw [intOf_emod, natCast_intCode, Int.emod_emod]

/-! ### Lists of integers, taken from their end, and their sums -/

/-- Induction on a list that grows at its end, as the products come in. -/
theorem concat_induction {α : Type} {motive : List α → Prop} (nil : motive [])
    (concat : ∀ ps p, motive ps → motive (ps ++ [p])) (ps : List α) : motive ps := by
  rw [← ps.reverse_reverse]
  induction ps.reverse with
  | nil => exact nil
  | cons p qs ih => exact List.reverse_cons ▸ concat _ p ih

theorem sum_concat (ps : List Int) (p : Int) : (ps ++ [p]).sum = ps.sum + p := by
  rw [List.sum_append_int, List.sum_cons, List.sum_nil, Int.add_zero]

theorem sum_eq_of_perm {ps qs : List Int} (h : ps.Perm qs) : ps.sum = qs.sum := by
  induction h with
  | nil => rfl
  | cons p _ ih => rw [List.sum_cons, List.sum_cons, ih]
  | swap p q ps => simp only [List.sum_cons, Int.add_left_comm]
  | trans _ _ ih₁ ih₂ => exact ih₁.trans ih₂

theorem sum_bounds {m : Int} {ps : List Int} (h : ∀ p ∈ ps, -m ≤ p ∧ p ≤ m) :
    -(m * ps.length) ≤ ps.sum ∧ ps.sum ≤ m * ps.length := by
  induction ps with
  | nil => simp only [List.length_nil, List.sum_nil]; omega
  | cons p ps ih =>
    obtain ⟨hp, hps⟩ := List.forall_mem_cons.1 h
    have hsum := ih hps
    rw [List.sum_cons, List.length_cons, Int.natCast_add, Int.mul_add]
    omega

/-! ### INT32 accumulation, one product at a time (R87) -/

@[simp] theorem accI32_nil (acc : Nat) : accI32 acc [] = (acc, {}) := rfl

theorem accI32_concat_fst (acc : Nat) (ps : List Int) (p : Int) :
    (accI32 acc (ps ++ [p])).1 = intCode 32 (intOf 32 (accI32 acc ps).1 + p) := by
  simp only [accI32, List.foldl_append, List.foldl_cons, List.foldl_nil]

/-- One more product leaves `iov` clear when it was clear and the exact sum fits. -/
theorem accI32_concat_iov (acc : Nat) (ps : List Int) (p : Int) :
    (accI32 acc (ps ++ [p])).2.iov = false
      ↔ (accI32 acc ps).2.iov = false ∧ FitsI32 (intOf 32 (accI32 acc ps).1 + p) := by
  rw [← intOf_intCode_eq_iff]
  simp only [accI32, PFlags.or, List.foldl_append, List.foldl_cons, List.foldl_nil, Bool.or_eq_false_iff,
    decide_eq_false_iff_not, Decidable.not_not]

/-- Accumulation is exact modulo 2^32. -/
theorem accI32_fst {acc : Nat} (hacc : acc < 2 ^ 32) (ps : List Int) :
    ((accI32 acc ps).1 : Int) = (acc + ps.sum) % 2 ^ 32 := by
  induction ps using concat_induction with
  | nil => rw [accI32_nil, List.sum_nil]; omega
  | concat ps p ih =>
    rw [accI32_concat_fst, natCast_intCode, sum_concat, ← Int.add_assoc, ← Int.emod_add_emod, intOf_emod,
      ih, Int.emod_emod, Int.emod_add_emod]

/-- While the exact sum fits, the accumulator holds it. -/
theorem intOf_accI32 {acc : Nat} (hacc : acc < 2 ^ 32) (ps : List Int) (hfits : FitsI32 (intOf 32 acc + ps.sum)) :
    intOf 32 (accI32 acc ps).1 = intOf 32 acc + ps.sum := by
  refine (fitsI32_intOf _).eq_of_emod_eq hfits ?_
  rw [intOf_emod, accI32_fst hacc, Int.emod_emod, ← Int.emod_add_emod (intOf 32 acc), intOf_emod, Int.emod_add_emod]

/-- The sum of v and of each prefix of the products fits. -/
def SumsFit (v : Int) (ps : List Int) : Prop := ∀ qs, qs <+: ps → FitsI32 (v + qs.sum)

theorem sumsFit_concat (v : Int) (ps : List Int) (p : Int) :
    SumsFit v (ps ++ [p]) ↔ SumsFit v ps ∧ FitsI32 (v + ps.sum + p) := by
  simp only [SumsFit, List.prefix_concat_iff, or_imp, forall_and, forall_eq, sum_concat, Int.add_assoc, and_comm]

theorem sumsFit_iff_take (v : Int) (ps : List Int) :
    SumsFit v ps ↔ ∀ n, n ≤ ps.length → FitsI32 (v + (ps.take n).sum) := by
  constructor
  · intro h n _
    exact h _ (List.take_prefix n ps)
  · intro h qs hqs
    rw [List.prefix_iff_eq_take.1 hqs]
    exact h _ hqs.length_le

/-- `iov` stays clear exactly when no partial sum leaves the INT32 range. -/
theorem accI32_iov_iff {acc : Nat} (hacc : acc < 2 ^ 32) (ps : List Int) :
    (accI32 acc ps).2.iov = false ↔ SumsFit (intOf 32 acc) ps := by
  induction ps using concat_induction with
  | nil => simp only [SumsFit, List.prefix_nil, forall_eq, List.sum_nil, Int.add_zero, fitsI32_intOf, accI32_nil]
  | concat ps p ih =>
    rw [accI32_concat_iov, sumsFit_concat, ih]
    refine and_congr_right fun hfit => ?_
    rw [intOf_accI32 hacc ps (hfit ps List.prefix_rfl)]

/-! ### How many products of 8-bit integers fit -/

/-- A product of two 8-bit two's-complement integers (R71). -/
def IsProd8 (p : Int) : Prop := ∃ a b : Int, p = a * b ∧ -128 ≤ a ∧ a ≤ 127 ∧ -128 ≤ b ∧ b ≤ 127

theorem IsProd8.bounds {p : Int} (h : IsProd8 p) : -16384 ≤ p ∧ p ≤ 16384 := by
  obtain ⟨a, b, rfl, ha, ha', hb, hb'⟩ := h
  have hsize : (a * b).natAbs ≤ 128 * 128 := Int.natAbs_mul a b ▸ Nat.mul_le_mul (by omega) (by omega)
  omega

/-- A product is at most 2^14 in size, so fewer than 2^17 of them sum to less than 2^31 in size. -/
theorem sumsFit_of_length_lt {ps : List Int} (hps : ∀ p ∈ ps, IsProd8 p) (hlen : ps.length < 131072) : SumsFit 0 ps := by
  intro qs hqs
  have hsum := sum_bounds fun p hp => (hps p (hqs.subset hp)).bounds
  have hle := hqs.length_le
  constructor <;> omega

/-- The largest product, (−128)², 2^17 times is 2^31. -/
theorem not_sumsFit_replicate : ¬ SumsFit 0 (List.replicate 131072 16384) := by
  intro h
  obtain ⟨-, hlt⟩ := h _ List.prefix_rfl
  rw [List.sum_replicate_int] at hlt
  exact absurd hlt (by decide)

/-- Settles O12: the accumulator always holds the exact sum modulo 2^32 (`accI32_fst`), which no order of the products
changes, and `iov` stays clear exactly while every partial sum fits (`accI32_iov_iff`). -/
theorem integerAccumulation : Obligations.IntegerAccumulation := by
  unfold Obligations.IntegerAccumulation
  intro acc prods other hacc hprods
  refine ⟨accI32_fst hacc prods, ?_, ?_, ?_, ?_⟩
  · exact (accI32_iov_iff hacc prods).trans (sumsFit_iff_take _ prods)
  · intro hperm
    have hsame := (accI32_fst hacc other).trans (sum_eq_of_perm hperm ▸ (accI32_fst hacc prods).symm)
    exact_mod_cast hsame
  · rintro rfl hlen
    exact (accI32_iov_iff hacc prods).2 (sumsFit_of_length_lt hprods hlen)
  · rw [← Bool.not_eq_false, accI32_iov_iff (by decide)]
    exact not_sumsFit_replicate

/-! ### The state after reset: no part is listed, and an unlisted part reads as its reset value -/

theorem reset_canonical : State.reset.Canonical := by
  refine ⟨List.forall_mem_nil _, List.forall_mem_nil _, ?_⟩
  rintro (_ | _) <;> exact ⟨Memory.wf_nil, Memory.wf_nil⟩

@[simp] theorem reset_coreOf (c : Nat) : State.reset.coreOf c = {} := rfl
@[simp] theorem reset_ctxOf (x : Nat) : State.reset.ctxOf x = {} := rfl
@[simp] theorem reset_queueOf (q : Nat) : State.reset.queueOf q = {} := rfl
@[simp] theorem reset_fenceOf (f : Nat) : State.reset.fenceOf f = {} := rfl
@[simp] theorem reset_sliceOf (n : Nat) : State.reset.sliceOf n = {} := rfl
@[simp] theorem reset_cmdOf (b : Nat) : State.reset.cmdOf b = {} := rfl
@[simp] theorem reset_xcmdOf (b : Nat) : State.reset.xcmdOf b = {} := rfl
@[simp] theorem reset_scmdOf (b : Nat) : State.reset.scmdOf b = {} := rfl
@[simp] theorem reset_slotOf (i : Nat) : State.reset.slotOf i = {} := rfl

/-- Settles O5: every table is empty at reset, so each part reads as its reset value. -/
theorem resetState : Obligations.ResetState := by
  unfold Obligations.ResetState
  refine ⟨reset_canonical, ?_⟩
  simp only [reset_coreOf, reset_ctxOf, reset_queueOf, reset_fenceOf, reset_sliceOf, reset_cmdOf, reset_xcmdOf,
    reset_scmdOf, reset_slotOf, forall_const]
  decide

end Sys2Proof.Machine
end

section

namespace Sys2Proof.Machine

/-! ### A write of `pstat` (R105) -/

/-- The bits of `pstat` as a word are its five flags, lowest first (R84). -/
theorem PFlags.testBit_toNat (a : PFlags) (i : Nat) :
    a.toNat.testBit i = [a.nv, a.of, a.uf, a.iov, a.sat].getD i false := by
  obtain ⟨nv, of, uf, iov, sat⟩ := a
  match i with
  | 0 | 1 | 2 | 3 | 4 =>
    revert nv of uf iov sat
    decide
  | i + 5 =>
    have hsmall : PFlags.toNat ⟨nv, of, uf, iov, sat⟩ < 2 ^ 5 := by
      revert nv of uf iov sat
      decide
    exact Nat.testBit_lt_two_pow (Nat.lt_of_lt_of_le hsmall (Nat.pow_le_pow_right (by decide) (Nat.le_add_left 5 i)))

/-- A flag whose bit is 1 in the word clears, any other stays. -/
theorem PFlags.testBit_w1c (a : PFlags) (w i : Nat) :
    (a.w1c w).toNat.testBit i = (a.toNat.testBit i && !w.testBit i) := by
  simp only [PFlags.testBit_toNat, PFlags.w1c, bit]
  match i with
  | 0 | 1 | 2 | 3 | 4 => rfl
  | _ + 5 => rfl

/-- Clearing by a word that is 0 changes nothing. -/
@[simp] theorem PFlags.w1c_zero (a : PFlags) : a.w1c 0 = a := by
  simp [PFlags.w1c, bit]

/-- `pstat` can be read and written in every mode. -/
theorem Thread.csrLegal_pstat (t : Thread) (wr : Bool) : t.csrLegal Csr.pstat wr = true := by
  simp [Thread.csrLegal, csrExists, csrRO, Csr.pstat, Csr.satp, bits]

/-- The source operand of a CSR instruction that does not write is 0. -/
theorem Thread.csrOperand_of_not_csrWrites (t : Thread) {op : CsrOp} {src : CsrSrc} (h : csrWrites op src = false) :
    t.csrOperand src = 0 := by
  cases src with
  | reg r =>
    have hr : r.val = 0 := by cases op <;> simp_all [csrWrites]
    simp [Thread.csrOperand, Thread.xr, hr]
  | imm u =>
    have hu : u = 0 := by cases op <;> simp_all [csrWrites]
    simp [Thread.csrOperand, hu]

/-- A CSR instruction on `pstat` clears by its source operand, whatever the operation makes of the old value. -/
theorem Core.pstat_csrApply (c : Core) (t : Fin 4) (op : CsrOp) (rd : RegNo) (src : CsrSrc) (old v : Word)
    (hv : csrWrites op src = false → v = 0) :
    (c.csrApply t op rd src Csr.pstat old v).pstat = c.pstat.w1c v.toNat := by
  unfold Core.csrApply
  cases hw : csrWrites op src with
  | true => rfl
  | false => rw [hv hw]; exact c.pstat.w1c_zero.symm

/-- Settles O8: the instruction is legal in every mode, and one that does not write has the source 0. -/
theorem pstatClears : Obligations.PstatClears := by
  unfold Obligations.PstatClears
  intro h op rd src i s hissue _ v
  refine ⟨s.csrDo h op rd src Csr.pstat, ?_, ?_⟩
  · rw [exec_pstatWrite]
    exact State.issue_runs hissue _
  · have hsettle : s.hpmSettle h Csr.pstat = s := rfl
    rw [State.csrDo, Thread.csrLegal_pstat, hsettle]
    simp only [Bool.not_true, Bool.false_eq_true, if_false, State.coreOf_modCore]
    rw [Core.pstat_csrApply _ _ _ _ _ _ _ (Thread.csrOperand_of_not_csrWrites _), PFlags.testBit_w1c]
    rfl

/-! ### The press starts an entry (R120) -/

/-- The entries that have started are passed over, and the first that has not starts. -/
theorem startHead_append (done before rest : List PEntry) (e : PEntry) (hbefore : ∀ b ∈ before, b.started = true)
    (he : e.started = false) (hmay : mayStart (done ++ before) e = true) :
    startHead done (before ++ e :: rest) = done ++ before ++ {e with started := true} :: rest := by
  induction before generalizing done with
  | nil =>
    rw [List.append_nil] at hmay
    simp [startHead, he, hmay]
  | cons b before ih =>
    obtain ⟨hb, hbefore⟩ := List.forall_mem_cons.1 hbefore
    have hskip := ih (done ++ [b]) hbefore (by simpa using hmay)
    simpa [startHead, hb] using hskip

theorem Core.pressStart_eq {c : Core} {before rest : List PEntry} {e : PEntry} (hq : c.queue = before ++ e :: rest)
    (hbefore : ∀ b ∈ before, b.started = true) (he : e.started = false) (hmay : mayStart before e = true) :
    c.pressStart = {c with queue := before ++ {e with started := true} :: rest} := by
  rw [Core.pressStart, hq, startHead_append [] before rest e hbefore he hmay, List.nil_append]

/-! ### The tiles: what `pzero` makes of them (R112, R115) -/

/-- Values put at n consecutive keys. -/
theorem tget_foldl_tput_range {α : Type} (d : α) (t : Tab α) (base n i : Nat) (f : Nat → α) :
    tget d ((List.range n).foldl (fun m j => tput m (base + j) (f j)) t) i
      = if base ≤ i ∧ i < base + n then f (i - base) else tget d t i := by
  induction n with
  | zero => rw [if_neg (by omega)]; rfl
  | succ n ih =>
    rw [List.range_succ, List.foldl_append, List.foldl_cons, List.foldl_nil, tget_tput, ih]
    by_cases hlast : i = base + n
    · rw [if_pos hlast, if_pos (by omega), hlast, Nat.add_sub_cancel_left]
    · rw [if_neg hlast]
      exact ite_cond_congr (propext (by omega))

/-- A row written is row i / 32 of all the tiles' rows; the rest stays. -/
theorem Core.tget_setTileRow (c : Core) (t r : Nat) (vs : List Nat) (i : Nat) :
    tget 0 (c.setTileRow t r vs).tile i = if i / 32 = 32 * t + r then nth 0 vs (i % 32) else tget 0 c.tile i := by
  rw [Core.setTileRow, tget_foldl_tput_range]
  by_cases hrow : i / 32 = 32 * t + r
  · rw [if_pos hrow, if_pos (by omega), show i - (1024 * t + 32 * r) = i % 32 by omega]
  · rw [if_neg hrow, if_neg (by omega)]

/-- The first n rows of a tile cleared. -/
theorem Core.tget_clearRows (c : Core) (t n i : Nat) :
    tget 0 ((List.range n).foldl (fun c r => c.setTileRow t r []) c).tile i
      = if 32 * t ≤ i / 32 ∧ i / 32 < 32 * t + n then 0 else tget 0 c.tile i := by
  induction n with
  | zero => rw [if_neg (by omega)]; rfl
  | succ n ih =>
    rw [List.range_succ, List.foldl_append, List.foldl_cons, List.foldl_nil, Core.tget_setTileRow, ih]
    by_cases hlast : i / 32 = 32 * t + n
    · rw [if_pos hlast, if_pos (by omega)]; rfl
    · rw [if_neg hlast]
      exact ite_cond_congr (propext (by omega))

/-- Rows cleared change nothing of the core but its tiles. -/
theorem Core.clearRows_frame (t : Nat) (rows : List Nat) (c : Core) :
    ∃ tile, rows.foldl (fun c r => c.setTileRow t r []) c = {c with tile := tile} := by
  induction rows generalizing c with
  | nil => exact ⟨c.tile, rfl⟩
  | cons r rows ih =>
    obtain ⟨tile, htile⟩ := ih (c.setTileRow t r [])
    exact ⟨tile, by rw [List.foldl_cons, htile, Core.setTileRow]⟩

/-- Custom-0 with f3 = 2 and f7 = 0 is the one encoding of `pzero`, and it asks for one of the eight tiles (R112). -/
theorem rd_lt_of_pkind_zero {w : BitVec 32} (h : pkind w = some .zero) : (rword w).rd < 8 := by
  unfold pkind at h
  grind

theorem pressEffect_zero (c : Core) (ctr : Nat) {e : PEntry} (h : pkind e.w = some .zero) :
    pressEffect c ctr e = doZero c e := by
  rw [pressEffect, h]

theorem tget_doZero (c : Core) {e : PEntry} (h : pkind e.w = some .zero) (i : Nat) :
    tget 0 (doZero c e).tile i = if i / 1024 = (rword e.w).rd ∧ i < 8192 then 0 else tget 0 c.tile i := by
  have hrd := rd_lt_of_pkind_zero h
  rw [doZero, Core.tget_clearRows, Nat.mod_eq_of_lt hrd]
  exact ite_cond_congr (propext (by omega))

theorem doZero_frame (c : Core) (e : PEntry) : doZero c e = {c with tile := (doZero c e).tile} := by
  obtain ⟨tile, htile⟩ := Core.clearRows_frame ((rword e.w).rd % 8) (List.range 32) c
  rw [doZero, htile]

/-- Settles O11: the queue's entries before the first not yet started are passed over (`startHead_append`), and the
clearing of the tile's rows touches its 1,024 elements alone (`tget_doZero`, `doZero_frame`). -/
theorem pressRuns : Obligations.PressRuns := by
  unfold Obligations.PressRuns
  refine ⟨fun c s hrun => ⟨?starts, ?completes⟩, fun c ctr e i hzero => ?clears⟩
  case starts =>
    intro before e rest hq hbefore he hmay
    rw [exec_pressInstrStart, execPressInstrStart, hrun]
    exact congrArg Host.Outcome.next (State.modCore_congr _ _ (Core.pressStart_eq hq hbefore he hmay))
  case completes =>
    intro i e hmay
    rw [exec_pressInstrComplete, execPressInstrComplete, hrun, hmay]
    rfl
  case clears =>
    rw [pressEffect_zero c ctr hzero]
    exact ⟨tget_doZero c hzero i, doZero_frame c e⟩

end Sys2Proof.Machine
end

section

namespace Sys2Proof.Machine

/-! ### A tile issued (R170–R174) -/

/-- Each command of an engine issues the next tile of a descriptor of its own `op`. -/
theorem exec_engineRow {row : (EngId → Instr) × Nat} (hrow : row ∈ engineRows) (e : EngId) (s : State) :
    exec (row.1 e) s = .next (s.engineRun e row.2) := by
  simp only [engineRows, List.mem_cons, List.not_mem_nil, or_false] at hrow
  obtain rfl | rfl | rfl | rfl | rfl | rfl | rfl := hrow <;> rfl

theorem State.engineRun_issues {e : EngId} {d d' : Desc} {s u : State} (hrun : s.onEngine e = some d)
    (hfrozen : s.descFrozen d = false) (hyield : s.mustYield e d = false) (hleft : d.issued < d.tileCount)
    (hflight : d.issued - d.tiles < 8) (hwaits : s.agentWaits (1 + e.val) = false) (hbung : s.bunged (engNi e) = false)
    (htile : s.eTile d e d.issued = (.ok d', u)) :
    s.engineRun e d.op = u.setDesc {d' with issued := d'.issued + 1} := by
  simp [State.engineRun, hrun, hfrozen, hyield, hwaits, hbung, htile, Nat.not_le.2 hleft, Nat.not_le.2 hflight]

theorem State.engineRun_idle {e : EngId} {d : Desc} {s : State} (hrun : s.onEngine e = some d) (op : Nat)
    (hidle : d.tileCount ≤ d.issued ∨ 8 ≤ d.issued - d.tiles ∨ s.agentWaits (1 + e.val) = true) :
    s.engineRun e op = s := by
  rw [State.engineRun, hrun]
  refine if_pos ?_
  obtain hnone | hfull | hwaits := hidle
  · simp [hnone]
  · simp [hfull]
  · simp [hwaits]

/-! ### Tiles committed, and an engine that yields (R160, R171) -/

section Commit

variable {e : EngId} {d : Desc} {s : State} (hrun : s.onEngine e = some d)
include hrun

theorem execTileCommit_commits (hflight : d.tiles < d.issued) (hwaits : s.agentWaits (1 + e.val) = false)
    (hmore : d.tiles + 1 < d.tileCount) : execTileCommit e s =
      .next (s.setDesc {d with done := d.done + d.tileBytes d.tiles, tiles := d.tiles + 1}) := by
  have hleft : ¬ Desc.tileCount {d with done := d.done + d.tileBytes d.tiles, tiles := d.tiles + 1} ≤ d.tiles + 1 :=
    Nat.not_le.2 hmore
  simp [execTileCommit, hrun, hflight, hwaits, hleft]

theorem execTileCommit_ends (hflight : d.tiles < d.issued) (hwaits : s.agentWaits (1 + e.val) = false)
    (hlast : d.tileCount ≤ d.tiles + 1) : execTileCommit e s =
      .next (s.setDesc {d with done := d.done + d.tileBytes d.tiles, tiles := d.tiles + 1, st := .ended}) := by
  have hnone : Desc.tileCount {d with done := d.done + d.tileBytes d.tiles, tiles := d.tiles + 1} ≤ d.tiles + 1 := hlast
  simp [execTileCommit, hrun, hflight, hwaits, hnone]

theorem execTileCommit_waits (hwaits : s.agentWaits (1 + e.val) = true) : execTileCommit e s = .next s := by
  simp [execTileCommit, hrun, hwaits]

theorem execEngineYield_waits (hwaits : s.agentWaits (1 + e.val) = true) : execEngineYield e s = .next s := by
  simp [execEngineYield, hrun, hwaits]

theorem execEngineYield_yields (hyield : s.mustYield e d = true) (hwaits : s.agentWaits (1 + e.val) = false) :
    execEngineYield e s = .next (s.setDesc {d.commitAll with st := .yielded}) := by
  simp [execEngineYield, hrun, hyield, hwaits]

theorem execNop_ends (hop : d.op = 7) (hfrozen : s.descFrozen d = false) :
    execNop e s = .next (s.setDesc (d.endWith 0 0)) := by
  simp [execNop, hrun, hop, hfrozen]

end Commit

/-- Sixteen tiles in turn while another descriptor waits. -/
theorem State.mustYield_iff (s : State) (e : EngId) (d : Desc) : s.mustYield e d = true ↔
    0 < d.issued - d.base ∧ (d.issued - d.base) % 16 = 0 ∧ s.engineWanted e d = true := by
  simp [State.mustYield, and_assoc]

/-! ### A descriptor launched (R159, R160) -/

theorem State.descLaunch_bad {s u : State} {d : Desc} (e : EngId) (h : s.anchor d = (.bad, u)) :
    s.descLaunch d e = u.setDesc (d.endWith 1 0) := by
  simp only [State.descLaunch, h]

theorem State.descLaunch_any {s u : State} {d : Desc} (e : EngId) (h : s.anchor d = (.any, u)) :
    s.descLaunch d e = u.setDesc {d with st := .running e, base := d.issued} := by
  simp only [State.descLaunch, h]

/-- On an engine of the cask, or of any cask where a fault keeps the anchor open, the source whose turn it is starts. -/
theorem State.descLaunch_starts {s u : State} {d : Desc} {e : EngId} {a : Anchor} (h : s.anchor d = (a, u))
    (ha : a = .cask (e.val / 8) ∨ a = .faults) (hturn : d.isFw = true ∨ s.nextQueue (e.val / 8) = d.queue) :
    s.descLaunch d e = (u.setDesc (d.start e)).serveQueue (e.val / 8) d.queue := by
  obtain rfl | rfl := ha
  · simp [State.descLaunch, h, Anchor.allows, hturn]
  · simp [State.descLaunch, h, Anchor.allows, hturn]

/-! ### A descriptor dispatched (R160, R167, R178, R377) -/

/-- A descriptor not yet started is the next of its source, whose descriptors may start, and the engine is free. -/
structure State.Startable (s : State) (src : DescSrc) (e : EngId) (d : Desc) : Prop where
  next : s.nextDesc src = some d
  free : s.onEngine e = none
  thawed : s.descFrozen d = false
  starts : s.srcStarts d = true
  queued : d.st = .queued

namespace State.Startable

variable {s : State} {src : DescSrc} {e : EngId} {d : Desc} (h : s.Startable src e d)
include h

theorem dispatch_barred (hmaps : s.descFences d = false) : s.dispatch src e = s.setDesc (d.endWith 3 0) := by
  simp [State.dispatch, h.next, h.free, h.thawed, h.starts, h.queued, hmaps]

theorem dispatch_waits (hmaps : s.descFences d = true) (hwait : s.descWait d = none) : s.dispatch src e = s := by
  simp [State.dispatch, h.next, h.free, h.thawed, h.starts, h.queued, hmaps, hwait]

theorem dispatch_abandoned (hmaps : s.descFences d = true) (hwait : s.descWait d = some 1) :
    s.dispatch src e = s.setDesc (d.endWith 6 0) := by
  simp [State.dispatch, h.next, h.free, h.thawed, h.starts, h.queued, hmaps, hwait]

theorem dispatch_illegal (hmaps : s.descFences d = true) (hwait : s.descWait d = some 0)
    (hlegal : d.legal s.boot.feat.toNat s.isGraft = false) : s.dispatch src e = s.setDesc (d.endWith 1 0) := by
  simp [State.dispatch, h.next, h.free, h.thawed, h.starts, h.queued, hmaps, hwait, hlegal]

theorem dispatch_launches (hmaps : s.descFences d = true) (hwait : s.descWait d = some 0)
    (hlegal : d.legal s.boot.feat.toNat s.isGraft = true) : s.dispatch src e = s.descLaunch d e := by
  simp [State.dispatch, h.next, h.free, h.thawed, h.starts, h.queued, hmaps, hwait, hlegal]

end State.Startable

/-! ### The firmware's descriptors (R158) -/

/-- A descriptor of the firmware's has no queue, and so no context and no slice that could hold it. -/
theorem Desc.queue_of_firmware {d : Desc} (h : d.src = .firmware) : d.queue = none := by
  simp [Desc.queue, h]

theorem State.descFrozen_of_firmware (s : State) {d : Desc} (h : d.src = .firmware) : s.descFrozen d = false := by
  simp [State.descFrozen, State.descSlice, State.descCtx, Desc.queue_of_firmware h]

theorem State.srcStarts_of_firmware (s : State) {d : Desc} (h : d.src = .firmware) : s.srcStarts d = true := by
  simp [State.srcStarts, Desc.queue_of_firmware h]

theorem State.descFences_of_firmware (s : State) {d : Desc} (h : d.src = .firmware) : s.descFences d = true := by
  simp [State.descFences, State.descCtx, Desc.queue_of_firmware h]

theorem State.descWait_of_not_waits (s : State) {d : Desc} (h : d.waits = false) : s.descWait d = some 0 := by
  simp [State.descWait, h]

/-- The only descriptor of a source is its next one, for no earlier one can hold it. -/
theorem State.nextDesc_singleton {s : State} {src : DescSrc} {d : Desc} (h : s.descsOf src = [d]) (hst : d.st = .queued) :
    s.nextDesc src = some d := by
  simp [State.nextDesc, h, hst]

/-- The descriptor made of the words the firmware submits. -/
def Hubm.fwDesc (h : Hubm) (w : List Word) : Desc :=
  ⟨h.descId, .firmware, h.descId, fit 0 8 w, 0, .queued, 0, 0, 0, {}, 0, 0, false, 0, []⟩

section Submit

variable {s : State} {fw ws : List (List Word)} {w : List Word} (hfw : s.hub.fwq ++ fw = w :: ws)
include hfw

/-- The first of the submissions becomes a descriptor. -/
theorem State.fwSubmit_cons : s.fwSubmit fw =
    s.modHub (fun h => {h with fwq := ws, descId := h.descId + 1, desc := h.desc ++ [s.hub.fwDesc w]}) := by
  rw [State.fwSubmit, hfw]
  rfl

theorem State.descsOf_fwSubmit :
    (s.fwSubmit fw).descsOf .firmware = s.descsOf .firmware ++ [s.hub.fwDesc w] := by
  rw [State.fwSubmit_cons hfw]
  exact List.filter_append ..

/-- With none of the firmware's before it, the first submission may start on a free engine. -/
theorem State.startable_fwSubmit {e : EngId} (hnone : s.descsOf .firmware = []) (hfree : (s.fwSubmit fw).onEngine e = none) :
    (s.fwSubmit fw).Startable .firmware e (s.hub.fwDesc w) where
  next := State.nextDesc_singleton (by rw [State.descsOf_fwSubmit hfw, hnone, List.nil_append]) rfl
  free := hfree
  thawed := State.descFrozen_of_firmware _ rfl
  starts := State.srcStarts_of_firmware _ rfl
  queued := rfl

/-- The fuses and the licence in force are not the hub's. -/
theorem State.legal_fwSubmit (d : Desc) : d.legal (s.fwSubmit fw).boot.feat.toNat (s.fwSubmit fw).isGraft
    = d.legal s.boot.feat.toNat s.isGraft := by
  rw [State.fwSubmit_cons hfw]
  rfl

end Submit

/-! ### A descriptor completed (R161, R177) -/

theorem execDescComplete_finishes {src : DescSrc} {d : Desc} {ds : List Desc} {s : State} (hfront : s.descsOf src = d :: ds)
    (hend : d.st = .ended) (hfrozen : s.descFrozen d = false)
    (hstall : ∀ q, d.queue = some q → (s.queueOf q).stalled = false) :
    execDescComplete src s = .next (s.descFinish d) := by
  cases hq : d.queue with
  | none => simp [execDescComplete, hfront, hend, hfrozen, hq]
  | some q => simp [execDescComplete, hfront, hend, hfrozen, hq, hstall q hq]

/-- The firmware's descriptor leaves, and is signalled where it asks for it and ended OK. -/
theorem State.descFinish_of_no_queue (s : State) {d : Desc} (h : d.queue = none) : s.descFinish d =
    let t := s.modHub (fun h => {h with desc := h.desc.filter (fun f => f.id ≠ d.id)})
    if d.sig && d.status = 0 then t.descSignal d else t := by
  rw [State.descFinish, h]

/-- Settles O19: an engine's command runs the branch of `engineRun`, `dispatch` or `descFinish` that its hypotheses
select, and the firmware's first submission is a descriptor that may start (`startable_fwSubmit`). -/
theorem engines : Obligations.Engines := by
  unfold Obligations.Engines
  refine ⟨?tile, ?commit, fun q e fw d s u => ⟨?queue, ?firmware⟩, ?complete⟩
  case tile =>
    intro row hrow e d d' s u hrun hop hfrozen hyield
    rw [exec_engineRow hrow]
    refine ⟨fun hleft hflight hwaits hbung htile => ?_, fun hidle => ?_⟩
    · rw [← hop, State.engineRun_issues hrun hfrozen hyield hleft hflight hwaits hbung htile]
    · rw [State.engineRun_idle hrun _ hidle]
  case commit =>
    intro e d s hrun
    exact ⟨fun hflight hmore hwaits => execTileCommit_commits hrun hflight hwaits hmore,
      fun hflight hlast hwaits => execTileCommit_ends hrun hflight hwaits hlast,
      fun hwaits => ⟨execTileCommit_waits hrun hwaits, execEngineYield_waits hrun hwaits⟩,
      execNop_ends hrun,
      fun hsome hturn hwanted => execEngineYield_yields hrun ((s.mustYield_iff e d).2 ⟨hsome, hturn, hwanted⟩)⟩
  case queue =>
    intro hnext hfree hthawed hstarts hqueued
    have hd : s.Startable (.queue q) e d := ⟨hnext, hfree, hthawed, hstarts, hqueued⟩
    refine ⟨fun hmaps => congrArg _ (hd.dispatch_barred hmaps), fun hmaps =>
      ⟨fun hwait => congrArg _ (hd.dispatch_waits hmaps hwait), fun hwait => congrArg _ (hd.dispatch_abandoned hmaps hwait),
        fun hwait => ⟨fun hlegal => congrArg _ (hd.dispatch_illegal hmaps hwait hlegal), fun hlegal => ?_⟩⟩⟩
    rw [exec_descDispatch, execDescDispatch, hd.dispatch_launches hmaps hwait hlegal]
    exact ⟨fun ha => congrArg _ (State.descLaunch_bad e ha), fun ha => congrArg _ (State.descLaunch_any e ha),
      fun a ha hcask hturn => congrArg _ (State.descLaunch_starts ha hcask (.inr hturn))⟩
  case firmware =>
    intro w ws hfw n z hnone hfree hwaits hlegal hanchor
    have hz : s.fwSubmit fw = z := State.fwSubmit_cons hfw
    have hn : (s.fwSubmit fw).Startable .firmware e n := State.startable_fwSubmit hfw hnone (hz ▸ hfree)
    have hlaunch := hn.dispatch_launches (State.descFences_of_firmware _ rfl) (State.descWait_of_not_waits _ hwaits)
      ((State.legal_fwSubmit hfw n).trans hlegal)
    rw [exec_descDispatch, execDescDispatch, hlaunch, hz, State.descLaunch_starts hanchor (.inl rfl) (.inl rfl)]
    rfl
  case complete =>
    intro src d ds s hfront hend hfrozen hstall
    have hdone := execDescComplete_finishes hfront hend hfrozen hstall
    refine ⟨hdone, fun hq => ⟨_, hdone, ?_⟩⟩
    rw [State.descFinish_of_no_queue s hq]
    refine ⟨fun hquiet => if_neg ?_, fun hsig hok => if_pos ?_⟩
    · obtain hsig | hstatus := hquiet
      · simp [hsig]
      · simp [hstatus]
    · simp [hsig, hok]

end Sys2Proof.Machine
end

section

namespace Sys2Proof.Machine

/-! ### An entry of a table -/

/-- An entry read is listed, or it is the default. -/
theorem tget_mem_or_eq {α : Type} (d : α) (t : Tab α) (n : Nat) : (n, tget d t n) ∈ t ∨ tget d t n = d := by
  induction t with
  | nil => exact .inr rfl
  | cons p t ih =>
    obtain ⟨k, v⟩ := p
    unfold tget
    split
    next hk => exact .inl (hk ▸ List.mem_cons_self)
    next => exact ih.imp_left (List.mem_cons_of_mem _)

/-! ### What updates leave of the endpoints and of the messages sent -/

@[simp] theorem State.epOf_emit (s : State) (m : Msg) (e : Ep) : (s.emit m).epOf e = s.epOf e := by
  cases e <;> rfl

@[simp] theorem State.modEp_out (s : State) (e : Ep) (f : HostEp → HostEp) : (s.modEp e f).out = s.out := by
  cases e <;> rfl

@[simp] theorem State.epOf_recordAs (s : State) (ni : Nat) (u : Unanswered) (e : Ep) :
    (s.recordAs ni u).epOf e = s.epOf e := by
  cases e <;> rfl

/-! ### Errors logged (R358) -/

/-- Two states of an endpoint that differ at most in the status registers of AER. -/
def HostEp.AerOnly (h g : HostEp) : Prop := {g with aerCor := h.aerCor, aerUnc := h.aerUnc, aerFirst := h.aerFirst} = h

theorem HostEp.AerOnly.trans {a b c : HostEp} (hab : a.AerOnly b) (hbc : b.AerOnly c) : a.AerOnly c := by
  unfold HostEp.AerOnly at *
  rw [← hab, ← hbc]

theorem HostEp.AerOnly.apref {h g : HostEp} (hg : h.AerOnly g) : g.apref = h.apref := by
  rw [← show _ = h from hg]
theorem HostEp.AerOnly.later {h g : HostEp} (hg : h.AerOnly g) : g.later = h.later := by
  rw [← show _ = h from hg]

theorem State.aerCorrectable_aerOnly (s : State) (e : Ep) (b : Nat) :
    (s.epOf e).AerOnly ((s.aerCorrectable e b).epOf e) := by
  simp only [State.aerCorrectable]
  split <;> simp only [State.epOf_emit, State.epOf_modEp] <;> rfl

/-- The report of an error already recorded, advisory or not, masked or not. -/
theorem State.aerReport_aerOnly {h : HostEp} {t : State} {e : Ep} (ht : h.AerOnly (t.epOf e)) (adv masked : Bool)
    (m : Msg) :
    h.AerOnly ((if adv then t.aerCorrectable e 13 else if masked then t else t.emit m).epOf e) := by
  split
  · exact ht.trans (t.aerCorrectable_aerOnly e 13)
  · split
    · exact ht
    · rwa [State.epOf_emit]

/-- An error logged changes the status registers of AER, and nothing else of the endpoint. -/
theorem State.aer_aerOnly (s : State) (e : Ep) (x : PcieErr) (adv : Bool) :
    (s.epOf e).AerOnly ((s.aer e x adv).epOf e) := by
  have hput : ∀ (u : State) (f : HostEp → HostEp), (u.epOf e).AerOnly (f (u.epOf e)) →
      (u.epOf e).AerOnly ((u.modEp e f).epOf e) := fun u f hf => (State.epOf_modEp u e f).symm ▸ hf
  unfold State.aer
  split
  next b _ => exact s.aerCorrectable_aerOnly e b
  next b _ =>
    have hunc := hput s (fun h => {h with aerUnc := h.aerUnc ||| 2 ^ b}) rfl
    refine State.aerReport_aerOnly ?_ adv _ _
    split
    · exact hunc
    · split
      · exact hunc.trans (State.aerCorrectable_aerOnly _ e 15)
      · exact hunc.trans (hput _ _ rfl)

/-! ### Aperture accesses (R272, R346–R349, R355) -/

/-- The sectors of an aperture read, at the address its segment gives. -/
def State.apFetch (s : State) (e : Ep) (off : BitVec 42) (len : Fin 4097) : Status × List (List Byte × Bool) × State :=
  s.apSectors e (bits ((s.epOf e).segOf off.toNat) 7 2) (segPa ((s.epOf e).segOf off.toNat) off.toNat) len.val

section ApertureRead

variable {s : State} {e : Ep}

theorem State.apRead_stopped (hstop : (s.epOf e).stopped = true) (off : BitVec 42) (len : Fin 4097) :
    s.apRead e off len = (s.apRefuse e).cplErr e .ca := by
  simp only [State.apRead, hstop, if_true]

variable (hrun : (s.epOf e).stopped = false)
include hrun

theorem State.apRead_noSegment {off : BitVec 42} (hseg : bit ((s.epOf e).segOf off.toNat) 0 = false) (len : Fin 4097) :
    s.apRead e off len = (s.apRefuse e).cplErr e .ur := by
  simp [State.apRead, hrun, hseg]

/-- A completion of an aperture read sent: its bytes, or poison, which is counted. -/
def State.apComplete (s : State) (e : Ep) (c : List Byte × Bool) : State :=
  if c.2 then (s.modEp e (fun h => {h with appois := satHalf h.appois})).emit (.pcieCpl e .poisoned (c.1.map (fun _ => 0)))
  else s.emit (.pcieCpl e .success c.1)

variable {off : BitVec 42} {len : Fin 4097} {st : Status} {secs : List (List Byte × Bool)} {t : State}
  (hseg : bit ((s.epOf e).segOf off.toNat) 0 = true)
include hseg

/-- A sector that is not granted ends the whole read. -/
theorem State.apRead_failed (hsecs : s.apFetch e off len = (st, secs, t)) (hst : st ≠ .ok) :
    s.apRead e off len = (t.apRefuse e).cplErr e .ca := by
  unfold State.apFetch at hsecs
  simp [State.apRead, hrun, hseg, hsecs, hst]

/-- A read whose sectors are all granted ends with its completions, in order. -/
theorem State.apRead_granted (hsecs : s.apFetch e off len = (.ok, secs, t)) :
    s.apRead e off len = (completions secs).foldl (fun s c => s.apComplete e c) t := by
  unfold State.apFetch at hsecs
  simp only [State.apRead, hrun, hseg, hsecs, Bool.not_true, Bool.false_eq_true, if_false, ne_eq, not_true_eq_false]
  rfl

end ApertureRead

/-- Sectors that are all good make completions that are all good. -/
theorem completions_good {l : List (List Byte × Bool)} (hl : ∀ p ∈ l, p.2 = false) :
    ∀ c ∈ completions l, c.2 = false := by
  refine List.foldlRecOn (motive := fun acc : List (List Byte × Bool) => ∀ c ∈ acc, c.2 = false) l _
    (List.forall_mem_nil _) ?_
  intro acc hacc p hp
  have hgood := hl p hp
  split
  next b q t hrev =>
    have hsplit : acc = t.reverse ++ [(b, q)] := by rw [← acc.reverse_reverse, hrev, List.reverse_cons]
    obtain ⟨ht, hlast⟩ := List.forall_mem_append.1 (hsplit ▸ hacc)
    split
    · have hq : q = false := hlast (b, q) List.mem_cons_self
      exact List.forall_mem_append.2 ⟨ht, List.forall_mem_singleton.2 hq⟩
    · exact List.forall_mem_append.2 ⟨hacc, List.forall_mem_singleton.2 hgood⟩
  next => exact List.forall_mem_singleton.2 hgood

/-- Good completions leave as messages, in order. -/
theorem State.out_apComplete (e : Ep) {l : List (List Byte × Bool)} (hl : ∀ c ∈ l, c.2 = false) (s : State) :
    (l.foldl (fun s c => s.apComplete e c) s).out = (l.map (fun c => Msg.pcieCpl e .success c.1)).reverse ++ s.out := by
  induction l generalizing s with
  | nil => rfl
  | cons c l ih =>
    obtain ⟨hc, hl⟩ := List.forall_mem_cons.1 hl
    rw [List.foldl_cons, ih hl]
    simp [State.apComplete, hc]

section ApertureAccess

variable {s : State} {e : Ep}

theorem execApertureRead_linkDown (hlink : (s.epOf e).linkUp = false) (off : BitVec 42) (len : Fin 4097) :
    execApertureRead e off len s = .next s := by
  simp [execApertureRead, hlink]

theorem execApertureWrite_linkDown (hlink : (s.epOf e).linkUp = false) (off : BitVec 42) (data : List Byte) (p : Bool) :
    execApertureWrite e off data p s = .next s := by
  simp [execApertureWrite, hlink]

variable (hlink : (s.epOf e).linkUp = true)
include hlink

theorem execApertureRead_waits (hwait : s.hostWaits e = true) (off : BitVec 42) (len : Fin 4097) :
    execApertureRead e off len s = .next (s.hostLater e (.aperture off len)) := by
  simp [execApertureRead, hlink, hwait]

theorem execApertureRead_now (hnow : s.hostWaits e = false) (off : BitVec 42) (len : Fin 4097) :
    execApertureRead e off len s = .next (s.apRead e off len) := by
  simp [execApertureRead, hlink, hnow]

theorem execApertureWrite_stopped (hstop : (s.epOf e).stopped = true) (off : BitVec 42) (data : List Byte) :
    execApertureWrite e off data false s = .next ((s.apRefuse e).wrErr e .ca) := by
  simp [execApertureWrite, hlink, hstop]

variable (hrun : (s.epOf e).stopped = false)
include hrun

theorem execApertureWrite_refused {off : BitVec 42}
    (hseg : bit ((s.epOf e).segOf off.toNat) 0 = false ∨ bit ((s.epOf e).segOf off.toNat) 1 = true) (data : List Byte) :
    execApertureWrite e off data false s = .next ((s.apRefuse e).wrErr e .ur) := by
  have hclosed : (!bit ((s.epOf e).segOf off.toNat) 0 || bit ((s.epOf e).segOf off.toNat) 1) = true := by
    simpa using hseg
  simp [execApertureWrite, hlink, hrun, hclosed]

/-- A write through an enabled segment that takes writes goes to the address the segment gives. -/
theorem execApertureWrite_put {off : BitVec 42} (hseg : bit ((s.epOf e).segOf off.toNat) 0 = true)
    (hwr : bit ((s.epOf e).segOf off.toNat) 1 = false) {data : List Byte} {st : Status} {t : State}
    (hput : s.agentPut (epRights e) .wri (bits ((s.epOf e).segOf off.toNat) 7 2)
      (segPa ((s.epOf e).segOf off.toNat) off.toNat) data = (st, t)) :
    execApertureWrite e off data false s = .next (if st = .ok then t else (t.apRefuse e).wrErr e .ca) := by
  simp [execApertureWrite, hlink, hrun, hseg, hwr, hput]

end ApertureAccess

/-! ### Doorbell window (R350, R371) -/

section DoorbellWrite

variable {s : State} {e : Ep} {off : BitVec 26} {size : Fin 9} (data : Word)

theorem State.dbWrite_poisoned : s.dbWrite e off size data true = s.dbDrop e := by
  simp [State.dbWrite]

theorem State.dbWrite_dropped
    (hbad : (s.epOf e).stopped = true ∨ s.boot.ready = false ∨ ¬ ((size = 4 ∨ size = 8) ∧ off.toNat % size.val = 0)) :
    s.dbWrite e off size data false = s.dbDrop e := by
  obtain hstop | hready | hsize := hbad
  · simp [State.dbWrite, hstop]
  · simp [State.dbWrite, hready]
  · refine if_pos ?_
    rw [Decidable.not_and_iff_not_or_not, not_or] at hsize
    obtain ⟨h4, h8⟩ | hoff := hsize
    · simp [h4, h8]
    · simp [hoff]

/-- A good write is a message to its queue's page, and rings the queue at offset 0 of it. -/
theorem State.dbWrite_good (hrun : (s.epOf e).stopped = false) (hready : s.boot.ready = true)
    (hsize : size = 4 ∨ size = 8) (hoff : off.toNat % size.val = 0) :
    let rung := s.emit (.ctl 1 [off.toNat / 4096, off.toNat % 4096, data.toNat])
    s.dbWrite e off size data false =
      if off.toNat % 4096 = 0 then rung.ringDoorbell (off.toNat / 4096) (data.setWidth 32) (some e) else rung := by
  refine if_neg ?_
  obtain rfl | rfl := hsize <;> simpa [hrun, hready] using hoff

theorem execDoorbellWrite_linkDown (hlink : (s.epOf e).linkUp = false) (p : Bool) :
    execDoorbellWrite e off size data p s = .next s := by
  simp [execDoorbellWrite, hlink]

variable (hlink : (s.epOf e).linkUp = true)
include hlink

theorem execDoorbellWrite_waits (hwait : s.hostWaits e = true) (p : Bool) :
    execDoorbellWrite e off size data p s = .next (s.hostLater e (.doorbell off size data p)) := by
  simp [execDoorbellWrite, hlink, hwait]

theorem execDoorbellWrite_now (hnow : s.hostWaits e = false) (p : Bool) :
    execDoorbellWrite e off size data p s = .next (s.dbWrite e off size data p) := by
  simp [execDoorbellWrite, hlink, hnow]

end DoorbellWrite

/-! ### Host window (R351–R353, R355) -/

section HostWindow

variable {s : State} {e : Ep} {id : Nat}

/-- The NI of an endpoint that a host-window request enters. -/
def windowNi (e : Ep) (q : HwReq) : Nat := niEp e (bits q.iova.toNat 9 8)

/-- A host-window request as its sender's NI sends it: over the sectors its bytes reach. -/
def State.windowSent (s : State) (e : Ep) (q : HwReq) : Unanswered :=
  s.asSent (windowNi e q) q.src q.tag
    ⟨((q.iova.toNat % 64 + q.len + 63) / 64 - 1) % 4, Nat.mod_lt _ (by decide)⟩ (if q.wr then .wr else .rd) q.iova.toNat

section Requested

variable {q : HwReq}

theorem execHostWindowRequest_bunged (hbung : s.bunged (windowNi e q) = true) : execHostWindowRequest e q s =
    .next ((s.turnAway (windowNi e q) (s.windowSent e q) .bunged).bungCount (windowNi e q) 1) :=
  congrArg _ (if_pos hbung)

variable (hopen : s.bunged (windowNi e q) = false)
include hopen

/-- A request past the bung enters the record; the endpoint then takes it in or fails it. -/
theorem execHostWindowRequest_recorded : execHostWindowRequest e q s =
    .next (let u := s.recordAs (windowNi e q) (s.windowSent e q)
      if !(u.epOf e).takes then u.hostFail e q
      else if q.wr then (u.enqueueOut e q).hostAnswer e q .ok [] false else u.enqueueOut e q) :=
  congrArg _ (if_neg (Bool.eq_false_iff.1 hopen))

theorem execHostWindowRequest_refused (htakes : (s.epOf e).takes = false) : execHostWindowRequest e q s =
    .next ((s.recordAs (windowNi e q) (s.windowSent e q)).hostFail e q) := by
  simp [execHostWindowRequest_recorded hopen, htakes]

theorem execHostWindowRequest_taken (htakes : (s.epOf e).takes = true) : execHostWindowRequest e q s =
    .next (let u := s.recordAs (windowNi e q) (s.windowSent e q)
      if q.wr then (u.enqueueOut e q).hostAnswer e q .ok [] false else u.enqueueOut e q) := by
  simp [execHostWindowRequest_recorded hopen, htakes]

end Requested

theorem HostEp.sentRead_of_outq_nil {h : HostEp} (hq : h.outq = []) (id : Nat) : h.sentRead id = none := by
  simp [HostEp.sentRead, hq]

theorem execHostCompletion_unexpected (hread : (s.epOf e).sentRead id = none) (k : CplKind) (data : List Byte) :
    execHostCompletion e id k data s = .next (s.aer e .unexpectedCpl true) := by
  unfold execHostCompletion
  simp [hread]

section Answered

variable {r : OutReq} (hread : (s.epOf e).sentRead id = some r)
include hread

theorem execHostCompletion_success {data : List Byte} (hlen : data.length = (s.epOf e).joinedLen id) :
    execHostCompletion e id .success data s =
      .next ((s.modEp e (fun h => {h with outq := giveData id .ok false data h.outq})).hostReturn e) := by
  unfold execHostCompletion
  simp [hread, hlen]

theorem execHostCompletion_ur {data : List Byte} (hlen : data.length = (s.epOf e).joinedLen id) :
    execHostCompletion e id .ur data s =
      .next ((s.modEp e (fun h => {h with outq := giveData id .hosterr false data h.outq})).hostReturn e) := by
  unfold execHostCompletion
  simp [hread, hlen]

theorem execHostCompletionTimeout_sent : execHostCompletionTimeout e id s = .next
    (((s.aer e .cplTimeout).modEp e (fun h => {h with outq := giveData id .hosterr false [] h.outq})).hostReturn e) := by
  simp [execHostCompletionTimeout, hread]

end Answered

theorem execHostCompletionTimeout_idle (hq : (s.epOf e).outq = []) : execHostCompletionTimeout e id s = .next s := by
  simp [execHostCompletionTimeout, HostEp.sentRead_of_outq_nil hq, hq]

theorem execHostRequestHubTimeout_unknown (hnone : (s.epOf e).later[id]? = none) :
    execHostRequestHubTimeout e id s = .next (s.cplErr e .ca) := by
  simp [execHostRequestHubTimeout, hnone]

theorem execHostRequestHubTimeout_aperture {off : BitVec 42} {len : Fin 4097}
    (hread : (s.epOf e).later[id]? = some (.aperture off len)) : execHostRequestHubTimeout e id s =
      .next (((s.modEp e (fun h => {h with later := h.later.eraseIdx id})).apRefuse e).cplErr e .ca) := by
  simp [execHostRequestHubTimeout, hread]

theorem execHostRequestHubTimeout_posted {off : BitVec 27} {size : Fin 9} {v : Word}
    (hwrite : (s.epOf e).later[id]? = some (.control true off size v)) : execHostRequestHubTimeout e id s = .next s := by
  simp [execHostRequestHubTimeout, hwrite]

/-- An error completion is a message and an error logged. -/
theorem State.cplErr_keeps (s : State) (e : Ep) (k : CplKind) : (s.epOf e).AerOnly ((s.cplErr e k).epOf e) := by
  unfold State.cplErr
  rw [State.epOf_emit]
  exact s.aer_aerOnly e _ _

/-- An aperture read the hub has not answered no longer waits, is counted and completes as Completer Abort. -/
theorem aperture_timedOut (s : State) (e : Ep) (id : Nat) :
    let t := ((s.modEp e (fun h => {h with later := h.later.eraseIdx id})).apRefuse e).cplErr e .ca
    t.out.head? = some (.pcieCpl e .ca []) ∧ (t.epOf e).apref = satHalf (s.epOf e).apref
      ∧ (t.epOf e).later = (s.epOf e).later.eraseIdx id := by
  intro t
  have hkeeps := ((s.modEp e (fun h => {h with later := h.later.eraseIdx id})).apRefuse e).cplErr_keeps e .ca
  rw [State.apRefuse, State.epOf_modEp, State.epOf_modEp] at hkeeps
  exact ⟨rfl, hkeeps.apref, hkeeps.later⟩

end HostWindow

/-! ### The outbound queue drained: what it leaves of the endpoints -/

@[simp] theorem State.xlogAdd_out (s : State) (k : Nat) (e : Ep) (a b : Nat) : (s.xlogAdd k e a b).out = s.out := by
  unfold State.xlogAdd
  split <;> rfl

@[simp] theorem State.epOf_xlogAdd (s : State) (k : Nat) (e : Ep) (a b : Nat) (f : Ep) :
    (s.xlogAdd k e a b).epOf f = s.epOf f := by
  unfold State.xlogAdd
  split <;> cases f <;> rfl

@[simp] theorem State.epOf_withObs (s : State) (o : Observe) (f : Ep) : State.epOf {s with obs := o} f = s.epOf f := by
  cases f <;> rfl

@[simp] theorem State.msixSend_out (s : State) (e : Ep) (v : Nat) : (s.msixSend e v).out =
    .msix e ((s.epOf e).msixOf v).addr.toNat ((s.epOf e).msixOf v).data.toNat :: s.out := by
  simp [State.msixSend]

@[simp] theorem State.epOf_msixSend (s : State) (e : Ep) (v : Nat) (f : Ep) : (s.msixSend e v).epOf f = s.epOf f := by
  simp [State.msixSend]

@[simp] theorem State.epOf_pcieSend (s : State) (e : Ep) (r : OutReq) (ps : List (Nat × Nat)) (f : Ep) :
    (s.pcieSend e r ps).epOf f = s.epOf f :=
  List.foldlRecOn (motive := fun u => State.epOf u f = s.epOf f) ps _ rfl fun u hu _ _ => (u.epOf_emit _ f).trans hu

theorem State.epOf_drainLoop (e : Ep) (n : Nat) (s : State) (keep l : List Outb) (f : Ep) :
    (State.drainLoop e n s keep l).1.epOf f = s.epOf f := by
  induction n generalizing s keep l with
  | zero => rfl
  | succ n ih =>
    match l with
    | [] => rfl
    | .msix v :: l => exact (ih _ _ _).trans (s.epOf_msixSend e v.val f)
    | .req r :: l =>
      have hsend : ∀ ps keep l, (State.drainLoop e n (s.pcieSend e r ps) keep l).1.epOf f = s.epOf f :=
        fun ps _ _ => (ih _ _ _).trans (s.epOf_pcieSend e r ps f)
      simp only [State.drainLoop]
      split
      · exact ih _ _ _
      · split
        · exact hsend _ _ _
        · split
          · rfl
          · exact hsend _ _ _

/-- Draining changes an endpoint's outbound queue only. -/
theorem State.epOf_drainOut (s : State) (e : Ep) : ∃ q, (s.drainOut e).epOf e = {s.epOf e with outq := q} := by
  unfold State.drainOut
  split
  · exact ⟨_, by rw [State.epOf_modEp, State.epOf_drainLoop]⟩
  · exact ⟨_, rfl⟩

/-- A message alone in the queue of an endpoint that masters leaves at once. -/
theorem State.drainOut_msix {s : State} {e : Ep} {v : Fin 2048} (hmasters : (s.epOf e).masters = true)
    (hq : (s.epOf e).outq = [.msix v]) : s.drainOut e = (s.msixSend e v.val).modEp e (fun h => {h with outq := []}) := by
  simp [State.drainOut, hmasters, hq, State.drainLoop]

/-! ### A vector triggered (R357) -/

/-- The endpoint sends the vectors that are not masked themselves. -/
def HostEp.SendsMsix (h : HostEp) : Prop := h.fmask = false ∧ h.msixEn = true ∧ h.takes = true

theorem State.msixTrigger_pends {s : State} {e : Ep} {v : Nat} (hbar : (s.epOf e).fmask = true
    ∨ ((s.epOf e).msixOf v).mask = true ∨ (s.epOf e).msixEn = false ∨ (s.epOf e).takes = false) :
    s.msixTrigger e v =
      s.modEp e (fun h => {h with msix := tput h.msix v {(s.epOf e).msixOf v with pend := true}}) := by
  refine if_pos ?_
  simpa only [Bool.or_eq_true, Bool.not_eq_true', or_assoc] using hbar

theorem State.msixTrigger_queues {s : State} {e : Ep} {v : Nat} (hopen : (s.epOf e).SendsMsix)
    (hmask : ((s.epOf e).msixOf v).mask = false) : s.msixTrigger e v =
      (s.modEp e (fun h => {h with outq := h.outq ++ [.msix ⟨v % 2048, Nat.mod_lt _ (by decide)⟩]})).drainOut e := by
  obtain ⟨hfmask, hen, htakes⟩ := hopen
  exact if_neg (by simp [hfmask, hmask, hen, htakes])

/-- A vector with every mask open, at an endpoint that masters and has nothing to send, leaves as its message. -/
theorem State.msixTrigger_sends {s : State} {e : Ep} (vec : Fin 2048) (hopen : (s.epOf e).SendsMsix)
    (hmask : ((s.epOf e).msixOf vec.val).mask = false) (hrun : (s.epOf e).stopped = false)
    (hq : (s.epOf e).outq = []) :
    (s.msixTrigger e vec.val).out =
        .msix e ((s.epOf e).msixOf vec.val).addr.toNat ((s.epOf e).msixOf vec.val).data.toNat :: s.out
      ∧ ((s.msixTrigger e vec.val).epOf e).outq = [] := by
  rw [State.msixTrigger_queues hopen hmask]
  obtain ⟨-, -, htakes⟩ := hopen
  rw [State.drainOut_msix (v := vec)]
  · simp only [State.modEp_out, State.msixSend_out, State.epOf_modEp, and_true]
    rfl
  · rw [State.epOf_modEp]
    exact Bool.and_eq_true_iff.2 ⟨htakes, hrun ▸ rfl⟩
  · simp [hq, Nat.mod_eq_of_lt vec.isLt]

/-! ### Pending vectors sent (R357) -/

/-- A pending vector sent: its pending bit clears and it fires. -/
def State.msixResend (s : State) (e : Ep) (m : Nat × MsixEntry) : State :=
  (s.modEp e (fun h => {h with msix := tput h.msix m.1 {m.2 with pend := false}})).msixTrigger e m.1

theorem State.msixFlush_closed {s : State} {e : Ep} (hclosed : ¬ (s.epOf e).SendsMsix) : s.msixFlush e = s := by
  refine if_pos (Decidable.byContradiction fun hopen => hclosed ?_)
  simpa [HostEp.SendsMsix, and_assoc] using hopen

theorem State.msixFlush_open {s : State} {e : Ep} (hopen : (s.epOf e).SendsMsix) : s.msixFlush e =
    ((s.epOf e).msix.filter (fun m => m.2.pend && !m.2.mask)).foldl (fun s m => s.msixResend e m) s := by
  obtain ⟨hfmask, hen, htakes⟩ := hopen
  exact if_neg (by simp [hfmask, hen, htakes])

/-- A vector sent changes its own entry and the outbound queue of an endpoint that sends. -/
theorem State.epOf_msixResend {s : State} {e : Ep} {m : Nat × MsixEntry} (hopen : (s.epOf e).SendsMsix)
    (hmask : m.2.mask = false) : ∃ q, (s.msixResend e m).epOf e =
      {s.epOf e with msix := tput (s.epOf e).msix m.1 {m.2 with pend := false}, outq := q} := by
  have hput := s.epOf_modEp e (fun h => {h with msix := tput h.msix m.1 {m.2 with pend := false}})
  unfold State.msixResend
  rw [State.msixTrigger_queues (hput ▸ hopen) (by rw [hput, HostEp.msixOf, tget_tput_self]; exact hmask)]
  obtain ⟨q, hq⟩ := State.epOf_drainOut
    ((s.modEp e (fun h => {h with msix := tput h.msix m.1 {m.2 with pend := false}})).modEp e
      (fun h => {h with outq := h.outq ++ [.msix ⟨m.1 % 2048, Nat.mod_lt _ (by decide)⟩]})) e
  exact ⟨q, by rw [hq, State.epOf_modEp, hput]⟩

/-- What sending a list of unmasked vectors does: the endpoint still sends, an unmasked vector stays so, and one that is
sent, or was not pending, is not pending. -/
theorem State.msixResend_all {e : Ep} {l : List (Nat × MsixEntry)} (hl : ∀ m ∈ l, m.2.mask = false) {s : State}
    (hopen : (s.epOf e).SendsMsix) (v : Nat) :
    let h := (l.foldl (fun s m => s.msixResend e m) s).epOf e
    h.SendsMsix ∧ (((s.epOf e).msixOf v).mask = false → (h.msixOf v).mask = false)
      ∧ (((s.epOf e).msixOf v).pend = false ∨ (∃ m ∈ l, m.1 = v) → (h.msixOf v).pend = false) := by
  induction l generalizing s with
  | nil => exact ⟨hopen, id, fun hp => hp.resolve_right (by simp)⟩
  | cons m l ih =>
    obtain ⟨hm, hl⟩ := List.forall_mem_cons.1 hl
    obtain ⟨q, hq⟩ := State.epOf_msixResend hopen hm
    have hentry : ((s.msixResend e m).epOf e).msixOf v =
        if v = m.1 then {m.2 with pend := false} else (s.epOf e).msixOf v := by
      rw [hq]
      exact tget_tput _ _ _ _ _
    obtain ⟨hopen', hmask, hpend⟩ := ih hl (s := s.msixResend e m) (hq ▸ hopen)
    rw [hentry] at hmask hpend
    refine ⟨hopen', fun hv => hmask ?_, fun hv => hpend ?_⟩
    · split
      · exact hm
      · exact hv
    · split
      · exact .inl rfl
      next hne =>
        simp only [List.mem_cons, exists_eq_or_imp] at hv
        obtain hv | hv | hv := hv
        · exact .inl hv
        · exact absurd hv.symm hne
        · exact .inr hv

/-- Sending what is pending keeps an unmasked vector so, and where the endpoint sends, that vector is no longer pending
and the endpoint still sends. -/
theorem State.msixFlush_spec (s : State) (e : Ep) (v : Nat) (hmask : ((s.epOf e).msixOf v).mask = false) :
    (((s.msixFlush e).epOf e).msixOf v).mask = false
      ∧ ((s.epOf e).SendsMsix → (((s.msixFlush e).epOf e).msixOf v).pend = false) := by
  by_cases hopen : (s.epOf e).SendsMsix
  case neg => rw [State.msixFlush_closed hopen]; exact ⟨hmask, fun h => absurd h hopen⟩
  rw [State.msixFlush_open hopen]
  obtain ⟨-, hmasks, hpends⟩ := State.msixResend_all
    (l := (s.epOf e).msix.filter (fun m => m.2.pend && !m.2.mask)) (by simp) hopen v
  refine ⟨hmasks hmask, fun _ => hpends ?_⟩
  cases hp : ((s.epOf e).msixOf v).pend
  case false => exact .inl rfl
  obtain hmem | hdef := tget_mem_or_eq {} (s.epOf e).msix v
  · have hsent : (((s.epOf e).msixOf v).pend && !((s.epOf e).msixOf v).mask) = true := by rw [hp, hmask]; rfl
    exact .inr ⟨_, List.mem_filter.2 ⟨hmem, hsent⟩, rfl⟩
  · rw [HostEp.msixOf, hdef] at hp
    exact absurd hp Bool.false_ne_true

theorem State.fmask_msixFlush (s : State) (e : Ep) (hfmask : (s.epOf e).fmask = false) :
    ((s.msixFlush e).epOf e).fmask = false := by
  by_cases hopen : (s.epOf e).SendsMsix
  · rw [State.msixFlush_open hopen]
    obtain ⟨⟨hkept, -, -⟩, -, -⟩ := State.msixResend_all
      (l := (s.epOf e).msix.filter (fun m => m.2.pend && !m.2.mask)) (by simp) hopen 0
    exact hkept
  · rwa [State.msixFlush_closed hopen]

/-- Settles O38: each clause is one branch of the command's meaning; a vector unmasked is among those a flush sends
exactly when it was pending (`msixFlush_spec`). -/
theorem hostAccesses : Obligations.HostAccesses := by
  unfold Obligations.HostAccesses
  refine ⟨?aperture, ?doorbell, ?window, ?msix⟩
  case aperture =>
    intro e off len data s h g pa now
    simp only [exec_apertureRead, exec_apertureWrite]
    refine ⟨fun hlink => ⟨execApertureRead_linkDown hlink off len, execApertureWrite_linkDown hlink off data false⟩,
      fun hlink hwait => execApertureRead_waits hlink hwait off len, ?stopped, ?noSegment, ?segment⟩
    case stopped =>
      intro hlink hstop
      refine ⟨fun hnow => ?_, execApertureWrite_stopped hlink hstop off data⟩
      rw [execApertureRead_now hlink hnow, State.apRead_stopped hstop]
    case noSegment =>
      intro hlink hrun hseg
      refine ⟨fun hnow => ?_, execApertureWrite_refused hlink hrun (.inl hseg) data⟩
      rw [execApertureRead_now hlink hnow, State.apRead_noSegment hrun hseg]
    case segment =>
      intro hlink hrun hseg
      have hfetch : s.apFetch e off len = s.apSectors e (bits g 7 2) pa len.val := rfl
      refine ⟨⟨fun hnow hbad => ?_, fun hnow hok hgood => ⟨_, execApertureRead_now hlink hnow off len, ?_⟩⟩,
        fun hro => execApertureWrite_refused hlink hrun (.inr hro) data, fun hwr => ⟨fun hok => ?_, fun hbad => ?_⟩⟩
      · rw [execApertureRead_now hlink hnow, State.apRead_failed hrun hseg (hfetch.trans (Prod.eta _).symm) hbad]
      · rw [State.apRead_granted hrun hseg (hfetch.trans (Prod.ext hok rfl)),
          State.out_apComplete e (completions_good hgood)]
      · rw [execApertureWrite_put hlink hrun hseg hwr (Prod.eta _).symm, if_pos hok]
      · rw [execApertureWrite_put hlink hrun hseg hwr (Prod.eta _).symm, if_neg hbad]
  case doorbell =>
    intro e off size data s h fits rung up
    simp only [exec_doorbellWrite]
    refine ⟨fun hlink => execDoorbellWrite_linkDown data hlink false,
      fun hlink hwait p => execDoorbellWrite_waits data hlink hwait p, ?dropped, ?poisoned, ?good, rfl⟩
    case dropped =>
      rintro ⟨hlink, hnow⟩ hbad
      rw [execDoorbellWrite_now data hlink hnow, State.dbWrite_dropped data hbad]
    case poisoned =>
      rintro ⟨hlink, hnow⟩
      rw [execDoorbellWrite_now data hlink hnow, State.dbWrite_poisoned]
    case good =>
      rintro ⟨hlink, hnow⟩ hrun hready ⟨hsize, hoff⟩
      rw [execDoorbellWrite_now data hlink hnow, State.dbWrite_good data hrun hready hsize hoff]
      exact ⟨fun hpage => congrArg _ (if_pos hpage), fun hpage => congrArg _ (if_neg hpage)⟩
  case window =>
    intro e q id s h ni cnt w u
    simp only [exec_hostWindowRequest, exec_hostCompletion, exec_hostCompletionTimeout, exec_hostRequestHubTimeout]
    refine ⟨execHostWindowRequest_bunged,
      fun hopen => ⟨execHostWindowRequest_refused hopen, execHostWindowRequest_taken hopen⟩,
      fun k data hnone => execHostCompletion_unexpected hnone k data,
      fun r data hread hlen => ⟨execHostCompletion_success hread hlen, execHostCompletion_ur hread hlen,
        execHostCompletionTimeout_sent hread⟩,
      execHostCompletionTimeout_idle, execHostRequestHubTimeout_unknown,
      fun off len hread => ⟨_, execHostRequestHubTimeout_aperture hread, aperture_timedOut s e id⟩,
      fun off size v hwrite => execHostRequestHubTimeout_posted hwrite⟩
  case msix =>
    intro e vec s h m
    simp only [exec_msixTrigger, exec_msixUnmask]
    refine ⟨fun hbar => congrArg _ (State.msixTrigger_pends hbar), ?sends, ?vector, ?function⟩
    case sends =>
      intro hfmask hmask hen htakes hrun hq
      exact ⟨_, rfl, State.msixTrigger_sends vec ⟨hfmask, hen, htakes⟩ hmask hrun hq⟩
    case vector =>
      have hunmask := s.epOf_modEp e (fun h => {h with msix := tmod {} h.msix vec.val (fun m => {m with mask := false})})
      obtain ⟨hmask, hpend⟩ := State.msixFlush_spec _ e vec.val
        (by rw [hunmask, HostEp.msixOf, tget_tmod_self])
      exact ⟨_, rfl, hmask, fun hfmask hen htakes => hpend (hunmask ▸ ⟨hfmask, hen, htakes⟩)⟩
    case function =>
      exact ⟨_, rfl, State.fmask_msixFlush _ e (by rw [State.epOf_modEp])⟩

end Sys2Proof.Machine
end

section

namespace Sys2Proof.Machine

/-! ### What leaves bring-up alone: packets, bungs, purges, losses -/

/-- Steps that leave bring-up alone leave it alone in any number. -/
theorem foldl_boot {α : Type} {f : State → α → State} (hf : ∀ s a, (f s a).boot = s.boot) (l : List α) (s : State) :
    (l.foldl f s).boot = s.boot := by
  induction l generalizing s with
  | nil => rfl
  | cons a l ih => rw [List.foldl_cons, ih, hf]

@[simp] theorem State.launch_boot (s : State) (ni p h0 h1 : Nat) (data : List Sector) :
    (s.launch ni p h0 h1 data).boot = s.boot := rfl

@[simp] theorem State.respond_boot (s : State) (ni : Nat) (u : Unanswered) (st : Status) (data : List (Sector × Bool))
    (hbad : Bool) : (s.respond ni u st data hbad).boot = s.boot := rfl

@[simp] theorem State.turnAway_boot (s : State) (ni : Nat) (u : Unanswered) (st : Status) :
    (s.turnAway ni u st).boot = s.boot := rfl

@[simp] theorem State.modDir_boot (s : State) (a m : Nat) (toHub : Bool) (f : LinkDir → LinkDir) :
    (s.modDir a m toHub f).boot = s.boot := rfl

@[simp] theorem State.linkSend_boot (s : State) (a m : Nat) (toHub : Bool) (c : LinkCmd) :
    (s.linkSend a m toHub c).boot = s.boot := by
  simp only [State.linkSend]
  split <;> rfl

@[simp] theorem State.graftReply_boot (s : State) (x m tag : Nat) (op : TOp) (len : Nat) (st : Status)
    (data : List (Sector × Bool)) : (s.graftReply x m tag op len st data).boot = s.boot := by
  rw [State.graftReply, State.emit_boot, State.linkSend_boot]

@[simp] theorem State.graftBack_boot (s : State) (x m tag : Nat) (st : Status) (data : List (Sector × Bool)) :
    (s.graftBack x m tag st data).boot = s.boot := by
  simp only [State.graftBack]
  split
  · rfl
  · split
    · rw [State.modGate_boot]
    · rw [State.graftReply_boot, State.modGate_boot]

@[simp] theorem State.handRsp_boot (s : State) (ni : Nat) (t : OutTag) (st : Status) (data : List (Sector × Bool)) :
    (s.handRsp ni t st data).boot = s.boot := by
  simp only [State.handRsp]
  split
  · rfl
  · split
    · exact State.graftBack_boot ..
    · exact State.linkSend_boot ..

@[simp] theorem State.sendReq_boot (s : State) (ni : Nat) (q : NReq) (hbad : Bool) (data : List Sector) :
    (s.sendReq ni q hbad data).boot = s.boot := by
  simp only [State.sendReq]
  split
  · rw [State.localDone, State.handRsp_boot, State.emit_boot]
  · split <;> rfl

@[simp] theorem State.bungEngage_boot (s : State) (ni : Nat) : (s.bungEngage ni).boot = s.boot := by
  simp only [State.bungEngage]
  split
  · rfl
  · rw [State.bungCount, State.modNi_boot, foldl_boot fun s _ => s.turnAway_boot .., foldl_boot fun s _ => s.sendReq_boot ..,
      State.modNi_boot]

@[simp] theorem State.bungAll_boot (s : State) (d : Domain) : (s.bungAll d).boot = s.boot :=
  foldl_boot State.bungEngage_boot _ _

@[simp] theorem State.charge_boot (s : State) (pa n : Nat) (wr : Bool) : (s.charge pa n wr).boot = s.boot :=
  foldl_boot (fun s i => by split <;> rfl) _ _

@[simp] theorem State.arrayWrite_boot (s : State) (pa : Nat) (f : Nat → Cask → Nat → Cask) :
    (s.arrayWrite pa f).boot = s.boot := by
  unfold State.arrayWrite
  split
  · rw [State.charge_boot, State.modCask_boot]
  · rw [State.charge_boot, State.modCask_boot]
  · rfl

@[simp] theorem State.poisonLine_boot (s : State) (line : Nat) (count : Bool) : (s.poisonLine line count).boot = s.boot := by
  cases count with
  | false => exact State.arrayWrite_boot ..
  | true => exact (State.modCask_boot ..).trans (State.arrayWrite_boot ..)

@[simp] theorem State.purgeSite_boot (s : State) (x : Nat) : (s.purgeSite x).boot = s.boot := by
  refine foldl_boot (fun s k => ?_) _ _
  rw [State.modCask_boot]
  refine foldl_boot (fun s p => ?_) _ _
  dsimp only
  split
  · rw [State.modCask_boot]
    split
    · exact State.poisonLine_boot ..
    · rfl
  · rfl

@[simp] theorem State.logEvent_boot (s : State) (cls die code d0 d1 : Nat) : (s.logEvent cls die code d0 d1).boot = s.boot := by
  simp only [State.logEvent]
  split <;> rfl

@[simp] theorem State.breakChan_boot (s : State) (ch : Nat) : (s.breakChan ch).boot = s.boot := rfl
@[simp] theorem State.cmdEnd_boot (s : State) (b code : Nat) : (s.cmdEnd b code).boot = s.boot := rfl

@[simp] theorem State.abortBegin_boot (s : State) (x : Nat) (e : AbortEnd) (blk : Option (Fin 4)) :
    (s.abortBegin x e blk).boot = s.boot := by
  simp only [State.abortBegin]
  rw [foldl_boot fun s d => ?_, foldl_boot fun s f => s.fenceAbandon_boot _, foldl_boot fun s q => s.modQueue_boot _ _,
    State.modHub_boot, foldl_boot fun s b => s.breakChan_boot _]
  · split <;> simp only [State.modHub_boot, State.modDie_boot, State.modCore_boot, State.modCtx_boot] <;> split <;> rfl
  · split
    · exact s.fenceAbandon_boot _
    · rfl

@[simp] theorem State.ctxLose_boot (s : State) (x : Nat) (c : LossCause) : (s.ctxLose x c).boot = s.boot := by
  unfold State.ctxLose
  split
  · rw [State.abortBegin_boot, State.logEvent_boot]
  · rfl

@[simp] theorem State.siteCut_boot (s : State) (x : Site) : (s.siteCut x).boot = s.boot := by
  rw [State.siteCut, foldl_boot fun s c => s.ctxLose_boot c _, State.purgeSite_boot, State.bungAll_boot]

@[simp] theorem State.nisUnready_boot (s : State) (d : Domain) : (s.nisUnready d).boot = s.boot :=
  foldl_boot (fun s n => s.modNi_boot n _) _ _

/-! ### Dies that must not join (R466, R469) -/

@[simp] theorem State.logEvent_link (s : State) (cls die code d0 d1 : Nat) : (s.logEvent cls die code d0 d1).link = s.link := by
  simp only [State.logEvent]
  split <;> rfl

@[simp] theorem State.siteFence_boot (s : State) (x : Site) (code : Nat) : (s.siteFence x code).boot = s.boot := by
  simp only [State.siteFence, State.logEvent_boot, State.wear_boot]
  split
  · rw [State.modGate_boot, State.modLink_boot, State.nisUnready_boot, State.siteCut_boot]
  · rw [State.modLink_boot, State.nisUnready_boot, State.siteCut_boot]

/-- Fencing a site marks its link block, whatever the site's die. -/
theorem State.siteFence_fenced (s : State) (x : Site) (code : Nat) : ((s.siteFence x code).linkOf x.val).fenced = true := by
  simp only [State.siteFence, State.linkOf, State.logEvent_link, State.wear_link]
  split <;> simp only [State.modGate_link, State.modLink, tget_tmod_self]

theorem linkDomain_site (x : Site) : linkDomain x.val = .site x := by
  simp only [linkDomain, x.isLt, if_true, Nat.mod_eq_of_lt x.isLt]

theorem State.siteResult_result (s : State) (i : Nat) {r : Nat} (hr : r < 16) :
    tget 0 (s.siteResult i r).boot.site i % 16 = r := by
  simp only [State.siteResult, tget_tput_self]
  omega

/-- A die of a site that must not join is fenced, and its result says why. -/
theorem State.rejectDie_site (s : State) {a : LinkId} {x : Site} (ha : a.val = x.val) {r : Nat} (hr : r < 16) :
    ((s.rejectDie a.val r).linkOf a.val).fenced = true
      ∧ tget 0 (s.rejectDie a.val r).boot.site (linkDie a.val) % 16 = r := by
  simp only [State.rejectDie, ha, linkDomain_site, State.siteFence_fenced, State.siteFence_boot, true_and]
  exact s.siteResult_result _ hr

/-! ### Identification (R301, R466, R469) -/

/-- The parts of an IDENT's word (R301). -/
def identParts (n : Nat) : Nat × Nat × Nat × Nat × Nat :=
  (bits n 3 0, bits n 11 4, bits n 19 12, bits n 31 20, bits n 47 32)

/-- The state with an IDENT recorded, before its kind and version are judged. -/
def State.identified (s : State) (a : LinkId) (n : Nat) : State :=
  let i := linkDie a.val
  let v := tget 0 s.boot.site i % 16 + 16 * bits n 11 4 + 2 ^ 12 * min (bits n 19 12) 2 + 2 ^ 20 * bits n 31 20
  (s.modLink a.val (fun l => {l with ident := some (identParts n), idreqs := 0})).modBoot
    (fun b => {b with site := tput b.site i v})

theorem execIdent_eq (a : LinkId) (w : Word) (s : State) : execIdent a w s = .next (
    let n := w.toNat
    let t := s.identified a n
    if s.expectKind a.val = 1 then t
    else if bits n 3 0 ≠ s.expectKind a.val then t.rejectDie a.val 4
    else if 1 < bits n 11 4 then t.rejectDie a.val 5
    else if bits n 11 4 < 1 then t.rejectDie a.val 6
    else t.emit (.sideband a false 0x05 (2 + 2 ^ 16 * min (bits n 19 12) 2))) := rfl

theorem State.linkOf_identified (s : State) (a : LinkId) (n : Nat) :
    ((s.identified a n).linkOf a.val).ident = some (identParts n) ∧ ((s.identified a n).linkOf a.val).idreqs = 0 := by
  simp only [State.identified, State.linkOf, State.modBoot_link, State.modLink, tget_tmod_self, and_self]

/-- A die that joins, or whose admission decides, is kept as identified; only the first is told the version in force. -/
theorem execIdent_joins {a : LinkId} {w : Word} {s : State}
    (hjoin : s.expectKind a.val = 1 ∨ (bits w.toNat 3 0 = s.expectKind a.val ∧ bits w.toNat 11 4 = 1)) :
    execIdent a w s = .next (if s.expectKind a.val = 1 then s.identified a w.toNat
      else (s.identified a w.toNat).emit (.sideband a false 0x05 (2 + 2 ^ 16 * min (bits w.toNat 19 12) 2))) := by
  rw [execIdent_eq]
  obtain hgraft | ⟨hkind, hmajor⟩ := hjoin
  · simp only [hgraft, if_true]
  · simp only [hkind, hmajor, ne_eq, not_true_eq_false, Nat.lt_irrefl, if_false]

/-- A die of another kind, or of another major version, is rejected with the result of its fault (R469). -/
theorem execIdent_rejects {a : LinkId} {w : Word} {s : State} (hdie : s.expectKind a.val ≠ 1)
    (hbad : bits w.toNat 3 0 ≠ s.expectKind a.val ∨ bits w.toNat 11 4 ≠ 1) :
    execIdent a w s = .next ((s.identified a w.toNat).rejectDie a.val
      (if bits w.toNat 3 0 ≠ s.expectKind a.val then 4 else if 1 < bits w.toNat 11 4 then 5 else 6)) := by
  rw [execIdent_eq]
  simp only [hdie, if_false]
  by_cases hkind : bits w.toNat 3 0 = s.expectKind a.val
  · have hmajor : bits w.toNat 11 4 ≠ 1 := hbad.resolve_left (not_not_intro hkind)
    simp only [hkind, ne_eq, not_true_eq_false, if_false]
    split
    · rfl
    next hlow => rw [if_pos (by omega)]
  · simp only [ne_eq, hkind, not_false_eq_true, if_true]

/-- A Bambipin die names kind 0, and versions of its own. -/
theorem execIdreq_answers {a : LinkId} {s : State} (hsite : a.val < 16) (hdie : s.isGraft a.val = false) : execIdreq a s =
    .next (s.bump.emit (.sideband a true 0x01 (16 * (Config.freeNat s.freeCtr 11 % 2 ^ 44)))) := by
  simp only [execIdreq, State.expectKind, b2n, hsite, hdie, Bool.and_false, Bool.false_and, Bool.false_eq_true, if_false,
    if_true, Nat.zero_add]

/-! IDENT_TIMEOUT: a die not heard of is asked again, then tested (R466). -/

theorem execIdentTimeout_heard {a : LinkId} {s : State} (hid : (s.linkOf a.val).ident.isSome) :
    execIdentTimeout a s = .next s := by
  simp only [execIdentTimeout, hid, if_true]

section Silent

variable {a : LinkId} {s : State} (hid : (s.linkOf a.val).ident = none)
include hid

theorem execIdentTimeout_asks (hfew : (s.linkOf a.val).idreqs < 3) : execIdentTimeout a s = .next
    ((s.modLink a.val (fun l => {l with idreqs := l.idreqs + 1})).emit (.sideband a false 0x02 0)) := by
  simp only [execIdentTimeout, hid, Option.isSome_none, Bool.false_eq_true, hfew, if_false, if_true]

theorem execIdentTimeout_mgd (hasked : 3 ≤ (s.linkOf a.val).idreqs) (hmgd : a.val = 18) : execIdentTimeout a s = .next
    {s with boot := {s.boot with cause := 3}, power := {s.power with fault := true}} := by
  have hsite : ¬ a.val < 16 := by omega
  simp only [execIdentTimeout, hid, Option.isSome_none, Nat.not_lt.2 hasked, hsite, decide_false, Bool.false_and, if_false,
    Bool.false_eq_true]
  exact congrArg _ (if_pos hmgd)

theorem execIdentTimeout_site (hasked : 3 ≤ (s.linkOf a.val).idreqs) (hsite : a.val < 16)
    (hdie : s.isGraft a.val = false) : execIdentTimeout a s = .next
    (s.bump.rejectDie a.val (if Config.byteChoice s.freeCtr 12 then 2 else 3)) := by
  have hmgd : a.val ≠ 18 := by omega
  simp only [execIdentTimeout, hid, Option.isSome_none, Bool.false_eq_true, Nat.not_lt.2 hasked, hdie, Bool.and_false, hmgd,
    if_false]

end Silent

/-! ### Capabilities (R302, R319, R320) -/

section Capabilities

variable {x : Site} {s : State}

theorem execCaprd_asks (hgraft : s.isGraft x.val = true) (hpop : s.populated x.val = true)
    (hfree : (s.linkOf x.val).caprd = none) (idx : Byte) : execCaprd x idx s = .next
    ((s.bump.modLink x.val (fun l => {l with caprd := some idx.toNat})).emit
      (.sideband (linkId x.val) true 0x04 (Config.freeNat s.freeCtr (64 + idx.toNat) % 2 ^ 64))) := by
  simp only [execCaprd, hgraft, hpop, hfree, Option.isSome_none, Bool.not_true, Bool.or_self, Bool.false_eq_true,
    if_false]

theorem execCaprd_outstanding (hbusy : (s.linkOf x.val).caprd ≠ none) (idx : Byte) : execCaprd x idx s = .next s := by
  simp only [execCaprd, Option.isSome_iff_ne_none.2 hbusy, Bool.or_true, if_true]

/-- Whether a die takes setting i: a graft chooses for the settings it knows, a Bambipin die takes `pver` (R469). -/
def State.takesSetting (s : State) (x i : Nat) : Bool :=
  if s.isGraft x then (decide (1 ≤ i) && decide (i ≤ 5)) && Config.byteChoice s.freeCtr i else decide (i = 2)

theorem State.takesSetting_unknown (hgraft : s.isGraft x.val = true) {i : Nat} (hi : i = 0 ∨ 5 < i) :
    s.takesSetting x.val i = false := by
  have hnot : (decide (1 ≤ i) && decide (i ≤ 5)) = false := by
    simp only [Bool.and_eq_false_iff, decide_eq_false_iff_not]
    omega
  simp only [State.takesSetting, hgraft, hnot, if_true, Bool.false_and]

theorem State.takesSetting_pver (hdie : s.isGraft x.val = false) : s.takesSetting x.val 2 = true := by
  simp only [State.takesSetting, hdie, Bool.false_eq_true, if_false, decide_true]

/-- A gate's settings once its die has taken setting i, or not. -/
def Gate.putSetting (g : Gate) (ok : Bool) (i v : Nat) : Gate := if ok then {g with setting := tput g.setting i v} else g

theorem Gate.setting_putSetting (g : Gate) (ok : Bool) (i v : Nat) :
    (g.putSetting ok i v).setting = if ok = true then tput g.setting i v else g.setting := by
  cases ok <;> rfl

theorem execCapset_eq (hthere : s.isGraft x.val = true → s.populated x.val = true) (w : Word) :
    let i := bits w.toNat 15 0
    let ok := s.takesSetting x.val i
    execCapset x w s = .next ((s.bump.modGate x.val (·.putSetting ok i (bits w.toNat 63 16))).emit
      (.sideband (linkId x.val) true 0x06 (i + 2 ^ 16 * b2n ok))) :=
  have hnot : ¬ (s.isGraft x.val && !s.populated x.val) = true := by
    rw [Bool.and_eq_true, not_and, Bool.not_eq_true, Bool.not_eq_false']
    exact hthere
  congrArg _ (if_neg hnot)

/-- A setting is acknowledged, and stored when it is taken. -/
theorem execCapset_acks (hthere : s.isGraft x.val = true → s.populated x.val = true) (w : Word) :
    let i := bits w.toNat 15 0
    let ok := s.takesSetting x.val i
    ∃ t, execCapset x w s = .next t ∧ t.out = .sideband (linkId x.val) true 0x06 (i + 2 ^ 16 * b2n ok) :: s.out
      ∧ (t.gateOf x.val).setting =
          if ok = true then tput (s.gateOf x.val).setting i (bits w.toNat 63 16) else (s.gateOf x.val).setting :=
  ⟨_, execCapset_eq hthere w, rfl,
    (congrArg Gate.setting (s.bump.gateOf_modGate x.val _)).trans (Gate.setting_putSetting ..)⟩

theorem execCapdat_kept {i : Nat} (hasked : (s.linkOf x.val).caprd = some i) (w : Word) : execCapdat x w s = .next
    ((s.modLink x.val (fun l => {l with caprd := none})).modGate x.val (fun g => {g with cap := tput g.cap i w})) := by
  simp only [execCapdat, hasked]

theorem execCapdat_unasked (hfree : (s.linkOf x.val).caprd = none) (w : Word) : execCapdat x w s = .next s := by
  simp only [execCapdat, hfree]

theorem execCapack_fails {w : Word} (hgraft : s.isGraft x.val = true) (hadm : (s.gateOf x.val).st = .admitting)
    (hno : w.getLsbD 16 = false) : execCapack x w s = .next (s.graftFence x 6) := by
  simp only [execCapack, hgraft, hadm, hno, decide_true, Bool.not_false, Bool.and_self, if_true]

theorem execCapack_accepted {w : Word} (hyes : w.getLsbD 16 = true) : execCapack x w s = .next s := by
  simp only [execCapack, hyes, Bool.not_true, Bool.and_false, Bool.false_eq_true, if_false]

end Capabilities

/-! ### What a die does with a message (R301, R509) -/

section Messages

variable {x : Site} {s : State} (w : Word)

theorem execBudget_powered (hon : (s.gateOf x.val).powered = true) : execBudget x w s = .next (s.modLink x.val (fun l =>
    {l with budget := BitVec.ofNat 16 w.toNat, bseq := BitVec.ofNat 8 (w.toNat >>> 16)})) := by
  simp only [execBudget, hon, if_true]

theorem execBudgetMissingFallback_powered (hon : (s.gateOf x.val).powered = true) : execBudgetMissingFallback x s =
    .next (s.modLink x.val (fun l => {l with budget := BitVec.ofNat 16 (s.coldOf x.val)})) := by
  simp only [execBudgetMissingFallback, hon, if_true]

/-- A Bambipin die's report is kept for the period, whatever sequence number it echoes (R512). -/
theorem execReport_kept (hon : (s.gateOf x.val).powered = true) (hdie : s.isGraft x.val = false) :
    ∃ t, execReport x w s = .next t ∧ (t.powOf (dieSite x.val)).got = true
      ∧ (t.powOf (dieSite x.val)).reported = bits w.toNat 15 0 ∧ (t.powOf (dieSite x.val)).trip = bit w.toNat 40
      ∧ (t.powOf (dieSite x.val)).miss = 0 := by
  refine ⟨_, rfl, ?_⟩
  have hdie' : ∀ f, (s.modPow (dieSite x.val) f).isGraft x.val = false := fun _ => hdie
  simp only [hon, hdie, hdie', Bool.not_true, Bool.not_false, Bool.or_true, Bool.true_or, Bool.false_and, Bool.false_eq_true,
    if_false, State.powOf_modPow, and_self]

/-- A site without power takes no message of the budget exchange. -/
theorem execBudget_unpowered (hoff : (s.gateOf x.val).powered = false) : execBudget x w s = .next s
    ∧ execReport x w s = .next s ∧ execBudgetMissingFallback x s = .next s := by
  simp only [execBudget, execReport, execBudgetMissingFallback, hoff, Bool.not_false, Bool.false_eq_true, if_false, if_true,
    and_self]

end Messages

theorem execUnknownSidebandMessage_known {toHub : Bool} {code : Byte} (hknown : sidebandKnown toHub code.toNat = true)
    (a : LinkId) (m : Fin 8) (s : State) : execUnknownSidebandMessage a m toHub code s = .next s := by
  simp only [execUnknownSidebandMessage, hknown, if_true]

theorem execUnknownSidebandMessage_counted {toHub : Bool} {code : Byte} (hnew : sidebandKnown toHub code.toNat = false)
    (a : LinkId) (m : Fin 8) (s : State) : execUnknownSidebandMessage a m toHub code s =
      .next (s.modDir a.val m.val toHub (fun d => {d with unk := sat8 d.unk 1})) := by
  simp only [execUnknownSidebandMessage, hnew, Bool.false_eq_true, if_false]

/-- Settles O32: each clause is one branch of the command's meaning; a die rejected keeps its result, because fencing its
site leaves the bring-up state alone (`siteFence_boot`). -/
theorem sideband : Obligations.Sideband := by
  unfold Obligations.Sideband
  refine ⟨?identification, ?capabilities, ?messages⟩
  case identification =>
    intro a w s n i kept
    simp only [exec_ident, exec_identTimeout, exec_idreq]
    refine ⟨?joins, fun x ha hdie hbad => ?rejects, execIdentTimeout_heard, execIdentTimeout_asks,
      fun hid hasked hmgd => ⟨_, execIdentTimeout_mgd hid hasked hmgd, rfl, rfl⟩, fun x ha hid hasked hdie => ?tested,
      fun hsite hdie => ?answers⟩
    case joins =>
      obtain ⟨hident, hidreqs⟩ := s.linkOf_identified a n
      by_cases hjoin : s.expectKind a.val = 1 ∨ (bits n 3 0 = s.expectKind a.val ∧ bits n 11 4 = 1)
      · refine ⟨_, execIdent_joins hjoin, fun _ => ?_⟩
        split
        · exact ⟨hident, hidreqs, rfl⟩
        · exact ⟨hident, hidreqs, rfl⟩
      · exact ⟨_, execIdent_eq a w s, fun h => absurd h hjoin⟩
    case rejects =>
      refine ⟨_, execIdent_rejects hdie hbad, State.rejectDie_site _ ha ?_⟩
      split
      · decide
      · split <;> decide
    case tested =>
      refine ⟨_, execIdentTimeout_site hid hasked (ha ▸ x.isLt) (ha ▸ hdie), ?_⟩
      cases Config.byteChoice s.freeCtr 12
      · exact (State.rejectDie_site _ ha (by decide)).imp_right .inr
      · exact (State.rejectDie_site _ ha (by decide)).imp_right .inl
    case answers =>
      exact ⟨_, execIdreq_answers hsite hdie⟩
  case capabilities =>
    intro x idx w s
    simp only [exec_caprd, exec_capset, exec_capdat, exec_capack]
    refine ⟨fun hgraft hpop => ?graft, fun hdie hpver => ?pver, fun i hasked => execCapdat_kept hasked w,
      fun hfree => execCapdat_unasked hfree w, execCapack_fails, execCapack_accepted⟩
    case graft =>
      obtain ⟨t, ht, hout, hset⟩ := execCapset_acks (fun _ => hpop) w
      refine ⟨fun hfree => ⟨_, execCaprd_asks hgraft hpop hfree idx⟩, fun hbusy => execCaprd_outstanding hbusy idx,
        fun hunknown => ⟨t, ht, ?_⟩, fun _ _ => ⟨t, _, ht, hout, hset⟩⟩
      rw [State.takesSetting_unknown hgraft hunknown] at hout hset
      exact ⟨hset, hout⟩
    case pver =>
      have hthere : s.isGraft x.val = true → s.populated x.val = true :=
        fun hgraft => absurd (hdie.symm.trans hgraft) Bool.false_ne_true
      obtain ⟨t, ht, hout, -⟩ := execCapset_acks hthere w
      rw [hpver, State.takesSetting_pver hdie] at hout
      exact ⟨t, ht, hout⟩
  case messages =>
    intro a x m toHub code w s
    simp only [exec_budget, exec_budgetMissingFallback, exec_report, exec_unknownSidebandMessage]
    exact ⟨fun hon => ⟨execBudget_powered w hon, execBudgetMissingFallback_powered hon, execReport_kept w hon⟩,
      execBudget_unpowered w, rfl, rfl, fun hknown => execUnknownSidebandMessage_known hknown a m s,
      fun hnew => execUnknownSidebandMessage_counted hnew a m s⟩

end Sys2Proof.Machine
end

section

namespace Sys2Proof.Machine

/-! ### What packets, bungs and lost contexts leave of the gates -/

/-- A gate with other requests outstanding in the trellis. -/
def Gate.withOut (g : Gate) (l : List GraftOut) : Gate := {g with out := l}

/-- What packets sent, bungs that engage and contexts that are lost leave: the fuses, every gate but for the requests its
graft has outstanding, and every bung that is engaged. -/
structure GatesStand (s t : State) : Prop where
  fuses : t.fuses = s.fuses
  gate : ∀ x, (t.gateOf x).withOut (s.gateOf x).out = s.gateOf x
  shut : ∀ n, s.bunged n = true → t.bunged n = true

namespace GatesStand

variable {s t u : State}

theorem refl (s : State) : GatesStand s s := ⟨rfl, fun _ => rfl, fun _ h => h⟩

theorem trans (hst : GatesStand s t) (htu : GatesStand t u) : GatesStand s u where
  fuses := htu.fuses.trans hst.fuses
  gate x := by
    rw [← hst.gate x, ← htu.gate x]
    rfl
  shut n h := htu.shut n (hst.shut n h)

/-- A step that leaves fuses, gates and trellis alone. -/
theorem of_eq (hfuses : t.fuses = s.fuses) (hgate : t.gate = s.gate) (htrellis : t.trellis = s.trellis) :
    GatesStand s t where
  fuses := hfuses
  gate x := by
    rw [State.gateOf, hgate]
    rfl
  shut n h := by rwa [State.bunged, State.niOf, htrellis]

theorem foldl {α : Type} {f : State → α → State} (hf : ∀ s a, GatesStand s (f s a)) (l : List α) :
    ∀ {t : State}, GatesStand s t → GatesStand s (l.foldl f t) := by
  induction l with
  | nil => exact id
  | cons a l ih => exact fun h => ih (h.trans (hf _ a))

theorem isGraft (h : GatesStand s t) (x : Nat) : t.isGraft x = s.isGraft x := by
  simp only [State.isGraft, h.fuses]

end GatesStand

theorem State.modNi_gatesStand (s : State) (n : Nat) {f : Ni → Ni} (hf : ∀ i, i.eng = true → (f i).eng = true) :
    GatesStand s (s.modNi n f) where
  fuses := rfl
  gate _ := rfl
  shut m h := by
    by_cases hmn : m = n
    · subst hmn
      rw [State.bunged, State.niOf_modNi]
      exact hf _ h
    · rwa [State.bunged, State.niOf_modNi_ne _ _ hmn]

theorem State.modCask_gatesStand (s : State) (k : Nat) (f : Cask → Cask) : GatesStand s (s.modCask k f) :=
  .of_eq rfl rfl rfl

theorem State.modGate_out_gatesStand (s : State) (x : Nat) (f : Gate → List GraftOut) :
    GatesStand s (s.modGate x (fun g => {g with out := f g})) where
  fuses := rfl
  gate y := by
    by_cases hyx : y = x
    · rw [hyx, State.gateOf_modGate]
      rfl
    · rw [State.gateOf_modGate_ne _ _ hyx]
      rfl
  shut _ h := h

theorem State.launch_gatesStand (s : State) (ni p h0 h1 : Nat) (data : List Sector) :
    GatesStand s (s.launch ni p h0 h1 data) := ⟨rfl, fun _ => rfl, fun _ h => h⟩

theorem State.turnAway_gatesStand (s : State) (ni : Nat) (u : Unanswered) (st : Status) :
    GatesStand s (s.turnAway ni u st) := ⟨rfl, fun _ => rfl, fun _ h => h⟩

theorem State.modDir_gatesStand (s : State) (a m : Nat) (toHub : Bool) (f : LinkDir → LinkDir) :
    GatesStand s (s.modDir a m toHub f) := .of_eq rfl rfl rfl

theorem State.linkSend_gatesStand (s : State) (a m : Nat) (toHub : Bool) (c : LinkCmd) :
    GatesStand s (s.linkSend a m toHub c) := by
  simp only [State.linkSend]
  split
  · exact .of_eq rfl rfl rfl
  · exact s.modDir_gatesStand ..

theorem State.emit_gatesStand (s : State) (m : Msg) : GatesStand s (s.emit m) := .of_eq rfl rfl rfl

theorem State.graftReply_gatesStand (s : State) (x m tag : Nat) (op : TOp) (len : Nat) (st : Status)
    (data : List (Sector × Bool)) : GatesStand s (s.graftReply x m tag op len st data) :=
  (s.linkSend_gatesStand ..).trans (State.emit_gatesStand ..)

theorem State.graftBack_gatesStand (s : State) (x m tag : Nat) (st : Status) (data : List (Sector × Bool)) :
    GatesStand s (s.graftBack x m tag st data) := by
  simp only [State.graftBack]
  split
  · exact .refl s
  · split
    · exact s.modGate_out_gatesStand x _
    · exact (s.modGate_out_gatesStand x _).trans (State.graftReply_gatesStand ..)

theorem State.handRsp_gatesStand (s : State) (ni : Nat) (t : OutTag) (st : Status) (data : List (Sector × Bool)) :
    GatesStand s (s.handRsp ni t st data) := by
  simp only [State.handRsp]
  split
  · exact .refl s
  · split
    · exact s.graftBack_gatesStand ..
    · exact s.linkSend_gatesStand ..

theorem State.setCls_gatesStand (s : State) (n c : Nat) (v : NiCls) : GatesStand s (s.setCls n c v) :=
  s.modNi_gatesStand n fun _ h => h

theorem State.sendReq_gatesStand (s : State) (ni : Nat) (q : NReq) (hbad : Bool) (data : List Sector) :
    GatesStand s (s.sendReq ni q hbad data) := by
  simp only [State.sendReq]
  split
  · exact (s.emit_gatesStand _).trans (State.handRsp_gatesStand ..)
  · split
    · exact s.setCls_gatesStand ..
    · refine ((s.setCls_gatesStand ..).trans (State.modNi_gatesStand _ _ ?_)).trans (State.launch_gatesStand ..)
      exact fun _ h => h

theorem State.bungCount_gatesStand (s : State) (ni n : Nat) : GatesStand s (s.bungCount ni n) :=
  s.modNi_gatesStand ni (fun _ h => h)

/-- What an NI held goes out and what it had recorded is answered, once its bung is engaged (R242). -/
theorem State.bungDrain_gatesStand (s : State) (ni n : Nat) (held : List (NReq × Bool × List Sector))
    (record : List Unanswered) : GatesStand s ((record.foldl (fun s u => s.turnAway ni u .bunged)
      (held.foldl (fun s h => s.sendReq ni h.1 h.2.1 h.2.2) s)).bungCount ni n) := by
  have hsent : GatesStand s (held.foldl (fun s h => s.sendReq ni h.1 h.2.1 h.2.2) s) :=
    .foldl (fun s h => s.sendReq_gatesStand ..) held (.refl s)
  exact GatesStand.trans (.foldl (fun s u => s.turnAway_gatesStand ..) record hsent) (State.bungCount_gatesStand ..)

theorem State.bungEngage_gatesStand (s : State) (ni : Nat) : GatesStand s (s.bungEngage ni) := by
  simp only [State.bungEngage]
  split
  · exact .refl s
  · refine (s.modNi_gatesStand ni ?_).trans (State.bungDrain_gatesStand ..)
    exact fun _ _ => rfl

theorem State.bungAll_gatesStand (s : State) (d : Domain) : GatesStand s (s.bungAll d) :=
  .foldl State.bungEngage_gatesStand _ (.refl s)

theorem State.charge_gatesStand (s : State) (pa n : Nat) (wr : Bool) : GatesStand s (s.charge pa n wr) := by
  refine .foldl (fun s i => ?_) _ (.refl s)
  split
  · exact s.modCask_gatesStand ..
  · exact s.modCask_gatesStand ..
  · exact .refl s

theorem State.arrayWrite_gatesStand (s : State) (pa : Nat) (f : Nat → Cask → Nat → Cask) :
    GatesStand s (s.arrayWrite pa f) := by
  unfold State.arrayWrite
  split
  · exact (s.modCask_gatesStand ..).trans (State.charge_gatesStand ..)
  · exact (s.modCask_gatesStand ..).trans (State.charge_gatesStand ..)
  · exact .refl s

theorem State.poisonLine_gatesStand (s : State) (line : Nat) (count : Bool) : GatesStand s (s.poisonLine line count) := by
  cases count with
  | false => exact s.arrayWrite_gatesStand ..
  | true => exact (s.arrayWrite_gatesStand ..).trans (State.modCask_gatesStand ..)

theorem State.purgeSite_gatesStand (s : State) (x : Nat) : GatesStand s (s.purgeSite x) := by
  refine .foldl (fun s k => ?_) _ (.refl s)
  refine GatesStand.trans (.foldl (fun s p => ?_) _ (.refl s)) (State.modCask_gatesStand ..)
  dsimp only
  split
  · refine GatesStand.trans ?_ (State.modCask_gatesStand ..)
    split
    · exact s.poisonLine_gatesStand ..
    · exact .refl s
  · exact .refl s

theorem State.logEvent_gatesStand (s : State) (cls die code d0 d1 : Nat) :
    GatesStand s (s.logEvent cls die code d0 d1) := by
  simp only [State.logEvent]
  split
  · exact .refl s
  · exact .of_eq rfl rfl rfl

theorem State.fenceAbandon_gatesStand (s : State) (n : Nat) : GatesStand s (s.fenceAbandon n) :=
  .of_eq (s.fenceAbandon_fuses n) (s.fenceAbandon_gate n) (s.fenceAbandon_trellis n)

theorem State.modHub_gatesStand (s : State) (f : Hubm → Hubm) : GatesStand s (s.modHub f) :=
  .of_eq rfl rfl rfl

theorem State.modDie_gatesStand (s : State) (x : Nat) (f : Die → Die) : GatesStand s (s.modDie x f) :=
  .of_eq rfl rfl rfl

theorem State.modCore_gatesStand (s : State) (c : Nat) (f : Core → Core) : GatesStand s (s.modCore c f) :=
  .of_eq rfl rfl rfl

theorem State.modCtx_gatesStand (s : State) (x : Nat) (f : Ctx → Ctx) : GatesStand s (s.modCtx x f) :=
  .of_eq rfl rfl rfl

theorem State.cmdEnd_gatesStand (s : State) (b code : Nat) : GatesStand s (s.cmdEnd b code) := .of_eq rfl rfl rfl

theorem State.modQueue_gatesStand (s : State) (q : Nat) (f : Queue → Queue) : GatesStand s (s.modQueue q f) :=
  .of_eq rfl rfl rfl

theorem State.breakChan_gatesStand (s : State) (ch : Nat) : GatesStand s (s.breakChan ch) := .of_eq rfl rfl rfl

theorem State.abortBegin_gatesStand (s : State) (x : Nat) (e : AbortEnd) (blk : Option (Fin 4)) :
    GatesStand s (s.abortBegin x e blk) := by
  simp only [State.abortBegin]
  refine .foldl (fun s d => ?dropped) _ (.foldl (fun s f => s.fenceAbandon_gatesStand _) _
    (.foldl (fun s q => s.modQueue_gatesStand _ _) _
      (GatesStand.trans (.foldl (fun s b => s.breakChan_gatesStand _) _ ?stopped) (State.modHub_gatesStand ..))))
  case dropped =>
    split
    · exact s.fenceAbandon_gatesStand _
    · exact .refl s
  case stopped =>
    have hbegun : ∀ t : State, GatesStand s t → ∀ f, GatesStand s (t.modCtx x f) := fun t h f =>
      h.trans (t.modCtx_gatesStand x f)
    split
    · refine (((hbegun _ ?_ _).trans (State.modCore_gatesStand ..)).trans (State.modDie_gatesStand ..)).trans
        (State.modHub_gatesStand ..)
      split
      · exact s.cmdEnd_gatesStand ..
      · exact .refl s
    · refine hbegun _ ?_ _
      split
      · exact s.cmdEnd_gatesStand ..
      · exact .refl s

theorem State.ctxLose_gatesStand (s : State) (x : Nat) (c : LossCause) : GatesStand s (s.ctxLose x c) := by
  unfold State.ctxLose
  split
  · exact (s.logEvent_gatesStand ..).trans (State.abortBegin_gatesStand ..)
  · exact .refl s

theorem State.siteCut_gatesStand (s : State) (x : Site) : GatesStand s (s.siteCut x) :=
  .foldl (fun s c => s.ctxLose_gatesStand c _) _ ((s.bungAll_gatesStand _).trans (State.purgeSite_gatesStand ..))

theorem State.nisUnready_gatesStand (s : State) (d : Domain) : GatesStand s (s.nisUnready d) := by
  refine .foldl (fun s n => s.modNi_gatesStand n ?_) _ (.refl s)
  exact fun _ h => h

theorem State.niDown_gatesStand (s : State) (ni : Nat) : GatesStand s (s.niDown ni) := by
  have hroutes : ∀ r : Trellis → Tab Word, GatesStand s (s.modTrellis (fun t => {t with route := r t})) :=
    fun _ => ⟨rfl, fun _ => rfl, fun _ h => h⟩
  refine (hroutes _).trans (State.modNi_gatesStand _ ni ?_)
  exact fun _ h => h

theorem State.nisDown_gatesStand (s : State) (d : Domain) : GatesStand s (s.nisDown d) :=
  .foldl State.niDown_gatesStand _ (.refl s)

/-! ### Bungs engaged (R242) -/

theorem State.bungEngage_bunged (s : State) (ni : Nat) : (s.bungEngage ni).bunged ni = true := by
  simp only [State.bungEngage]
  split
  next h => exact h
  next =>
    refine (State.bungDrain_gatesStand ..).shut ni ?_
    rw [State.bunged, State.niOf_modNi]

theorem foldl_bungEngage_bunged {l : List Nat} {n : Nat} (hn : n ∈ l) (s : State) :
    (l.foldl State.bungEngage s).bunged n = true := by
  induction l generalizing s with
  | nil => cases hn
  | cons a l ih =>
    obtain rfl | hn := List.mem_cons.1 hn
    · exact (GatesStand.foldl State.bungEngage_gatesStand l (.refl _)).shut n (s.bungEngage_bunged n)
    · exact ih hn _

theorem State.siteCut_bunged (s : State) (x : Site) {j : Nat} (hj : j < 8) :
    (s.siteCut x).bunged (niSite x.val j) = true :=
  GatesStand.shut (.foldl (fun s c => s.ctxLose_gatesStand c _) _ (State.purgeSite_gatesStand ..)) _
    (foldl_bungEngage_bunged (List.mem_map_of_mem (List.mem_range.2 hj)) s)

theorem State.bunged_modGate (s : State) (y : Nat) (f : Gate → Gate) (n : Nat) :
    (s.modGate y f).bunged n = s.bunged n := rfl
theorem State.bunged_modLink (s : State) (a : Nat) (f : LinkDie → LinkDie) (n : Nat) :
    (s.modLink a f).bunged n = s.bunged n := rfl
theorem State.bunged_modHub (s : State) (f : Hubm → Hubm) (n : Nat) : (s.modHub f).bunged n = s.bunged n := rfl
theorem State.bunged_modDie (s : State) (i : Nat) (f : Die → Die) (n : Nat) : (s.modDie i f).bunged n = s.bunged n := rfl
theorem State.bunged_modPow (s : State) (i : Nat) (f : DiePow → DiePow) (n : Nat) :
    (s.modPow i f).bunged n = s.bunged n := rfl
theorem State.bunged_siteResult (s : State) (i r n : Nat) : (s.siteResult i r).bunged n = s.bunged n := rfl

/-- A site out of service has the bungs of its eight modules engaged. -/
theorem State.siteReset_bunged (s : State) (x : Site) {j : Nat} (hj : j < 8) :
    (s.siteReset x).bunged (niSite x.val j) = true := by
  rw [State.siteReset, State.bunged_modLink, State.bunged_modGate, State.bunged_modHub, State.bunged_modDie]
  exact (State.nisDown_gatesStand _ (.site x)).shut _ (s.siteCut_bunged x hj)

/-! ### A gate whose site is fenced (R332) -/

@[simp] theorem State.gateOf_emit (s : State) (m : Msg) (x : Nat) : (s.emit m).gateOf x = s.gateOf x := rfl
@[simp] theorem State.gateOf_modLink (s : State) (a : Nat) (f : LinkDie → LinkDie) (x : Nat) :
    (s.modLink a f).gateOf x = s.gateOf x := rfl
@[simp] theorem State.gateOf_modPow (s : State) (i : Nat) (f : DiePow → DiePow) (x : Nat) :
    (s.modPow i f).gateOf x = s.gateOf x := rfl
@[simp] theorem State.gateOf_modHub (s : State) (f : Hubm → Hubm) (x : Nat) : (s.modHub f).gateOf x = s.gateOf x := rfl
@[simp] theorem State.gateOf_modDie (s : State) (i : Nat) (f : Die → Die) (x : Nat) :
    (s.modDie i f).gateOf x = s.gateOf x := rfl
@[simp] theorem State.gateOf_siteResult (s : State) (i r x : Nat) : (s.siteResult i r).gateOf x = s.gateOf x := rfl
@[simp] theorem State.gateOf_wear (s : State) (i n x : Nat) : (s.wear i n).gateOf x = s.gateOf x := rfl
@[simp] theorem State.logEvent_gate (s : State) (cls die code d0 d1 : Nat) :
    (s.logEvent cls die code d0 d1).gate = s.gate := by
  simp only [State.logEvent]
  split <;> rfl
@[simp] theorem State.gateOf_logEvent (s : State) (cls die code d0 d1 x : Nat) :
    (s.logEvent cls die code d0 d1).gateOf x = s.gateOf x := by
  rw [State.gateOf, State.logEvent_gate, State.gateOf]

theorem State.isGraft_modLink (s : State) (a : Nat) (f : LinkDie → LinkDie) (x : Nat) :
    (s.modLink a f).isGraft x = s.isGraft x := rfl

/-- A gate once its site's domain has been reset. -/
def Gate.afterReset (g : Gate) : Gate :=
  { g with
    st := if g.adm then .admitting else g.st, adm := false, setting := [],
    out := [], into := [], late := [], waitIn := [], held := false, kept := [] }

theorem State.gateOf_siteReset (s : State) (x : Site) :
    (s.siteReset x).gateOf x.val = (s.gateOf x.val).afterReset := by
  have hkept := ((s.siteCut_gatesStand x).trans (State.nisDown_gatesStand _ (.site x))).gate x.val
  simp only [State.siteReset]
  generalize (s.siteCut x).nisDown (.site x) = t at hkept ⊢
  rw [State.gateOf_modLink, State.gateOf_modGate, State.gateOf_modHub, State.gateOf_modDie, ← hkept]
  rfl

/-- A gate as its site is marked fenced: only a graft's is. -/
def Gate.marked (g : Gate) (graft : Bool) : Gate :=
  if graft then {g with fenced := true, adm := false, st := .fenced} else g

theorem State.gateOf_siteFence (s : State) (x : Site) (code : Nat) :
    ((s.siteFence x code).gateOf x.val).withOut (s.gateOf x.val).out = (s.gateOf x.val).marked (s.isGraft x.val) := by
  have hcut := (s.siteCut_gatesStand x).trans (State.nisUnready_gatesStand _ (.site x))
  have hgraft := hcut.isGraft x.val
  have hgate := hcut.gate x.val
  simp only [State.siteFence, State.gateOf_logEvent, State.gateOf_wear]
  generalize (s.siteCut x).nisUnready (.site x) = t at hgraft hgate ⊢
  rw [State.isGraft_modLink, hgraft, Gate.marked, ← hgate]
  split
  · rw [State.gateOf_modGate, State.gateOf_modLink]
    rfl
  · rw [State.gateOf_modLink]
    rfl

/-- A gate as fencing its site leaves it, once it is marked. -/
def Gate.stopped (g : Gate) (cause : Nat) : Gate :=
  {g.afterReset with powered := false, cause := cause, setting := tput [] 5 0}

theorem Gate.stopped_out (g : Gate) (cause : Nat) (l : List GraftOut) : (g.withOut l).stopped cause = g.stopped cause :=
  rfl

theorem State.gateOf_graftFence (s : State) (x : Site) (cause : Nat) :
    (s.graftFence x cause).gateOf x.val = ((s.gateOf x.val).marked (s.isGraft x.val)).stopped cause := by
  have hstopped : ∀ t : State, (((t.siteOff x).modGate x.val (fun g =>
      {g with cause := cause, setting := tput g.setting 5 0})).siteResult x.val 10).gateOf x.val
        = (t.gateOf x.val).stopped cause := fun t => by
    rw [State.gateOf_siteResult, State.gateOf_modGate, State.siteOff, State.gateOf_modPow, State.gateOf_modGate,
      State.gateOf_siteReset]
    rfl
  rw [State.graftFence, hstopped, ← Gate.stopped_out, State.gateOf_siteFence]
  rfl

theorem State.graftFence_bunged (s : State) (x : Site) (cause : Nat) {j : Nat} (hj : j < 8) :
    (s.graftFence x cause).bunged (niSite x.val j) = true := by
  rw [State.graftFence, State.bunged_siteResult, State.bunged_modGate, State.siteOff, State.bunged_modPow,
    State.bunged_modGate]
  exact State.siteReset_bunged _ x hj

/-- A graft's site fenced: its gate is shut, unpowered, and says why. -/
theorem State.graftFence_shuts {s : State} {x : Site} (hgraft : s.isGraft x.val = true) (cause : Nat) :
    ((s.graftFence x cause).gateOf x.val).fenced = true
    ∧ ((s.graftFence x cause).gateOf x.val).adm = false ∧ ((s.graftFence x cause).gateOf x.val).st = .fenced
    ∧ ((s.graftFence x cause).gateOf x.val).powered = false ∧ ((s.graftFence x cause).gateOf x.val).cause = cause := by
  rw [State.gateOf_graftFence, hgraft]
  exact ⟨rfl, rfl, rfl, rfl, rfl⟩

/-! ### Credits return with no rule in force (R330, R335) -/

/-- What a control write sets of a gate, and its rules. -/
def Gate.control (g : Gate) : SliceId × Bool × Bool × BitVec 16 × Tab Rule := (g.slice, g.bound, g.fen, g.vlim, g.rule)

theorem Gate.rule_of_control {g h : Gate} (hcontrol : g.control = h.control) : g.rule = h.rule := by
  simp only [Gate.control, Prod.mk.injEq] at hcontrol
  obtain ⟨-, -, -, -, hrule⟩ := hcontrol
  exact hrule

theorem GatesStand.control {s t : State} (h : GatesStand s t) (x : Nat) :
    (t.gateOf x).control = (s.gateOf x).control := by
  rw [← h.gate x]
  rfl

theorem State.graftFence_control (s : State) (x : Site) (cause : Nat) :
    ((s.graftFence x cause).gateOf x.val).control = (s.gateOf x.val).control := by
  rw [State.gateOf_graftFence]
  cases s.isGraft x.val <;> rfl

theorem State.violate_control (s : State) (x : Site) (code op tag addr : Nat) :
    ((s.violate x code op tag addr).gateOf x.val).control = (s.gateOf x.val).control := by
  simp only [State.violate]
  split
  · rw [State.graftFence_control, State.gateOf_modGate]
    rfl
  · rw [State.gateOf_modGate]
    rfl

theorem State.refuseGraft_control (s : State) (x : Site) (q : GReq) (code opc : Nat) :
    ((s.refuseGraft x q code opc).gateOf x.val).control = (s.gateOf x.val).control :=
  (State.violate_control ..).trans ((s.graftReply_gatesStand ..).control x.val)

theorem State.fenceSig_gatesStand (s : State) (n : Nat) (slice : Option Nat) (v : Word) :
    GatesStand s (s.fenceSig n slice v) :=
  .of_eq (s.fenceSig_fuses n slice v) (s.fenceSig_gate n slice v) (s.fenceSig_trellis n slice v)

theorem Gate.matchRule_off {g : Gate} (hoff : ∀ p ∈ g.rule, p.2.en = false) (a : Nat) : g.matchRule a = none :=
  List.find?_eq_none.2 fun p hp => by
    simp only [hoff p hp, Bool.false_and, Bool.false_eq_true, not_false_eq_true]

section Resume

variable {x : Site}

/-- A graft's request that finds no rule in force leaves the gate's registers, whatever else it brings. -/
theorem State.graftRequest_control {s : State} (hoff : ∀ p ∈ (s.gateOf x.val).rule, p.2.en = false) (q : GReq) :
    ((s.graftRequest x q).gateOf x.val).control = (s.gateOf x.val).control := by
  have hrefuse := s.refuseGraft_control x q
  rw [State.graftRequest]
  split
  · exact hrefuse ..
  split
  · exact hrefuse ..
  cases q.op with
  | msg =>
    cases q.fence with
    | none => exact hrefuse ..
    | some signal =>
      have hsig := fun sl => (s.fenceSig_gatesStand signal.1.toNat sl signal.2).control x.val
      dsimp only
      split
      · exact hrefuse ..
      split
      · exact ((State.ctxLose_gatesStand ..).control _).trans ((State.refuseGraft_control ..).trans (hsig _))
      · exact (State.refuseGraft_control ..).trans (hsig _)
      · exact ((State.graftReply_gatesStand ..).control _).trans (hsig _)
  | _ =>
    dsimp only
    rw [Gate.matchRule_off hoff]
    exact hrefuse ..

theorem foldl_graftRequest_control (qs : List GReq) {s : State} (hoff : ∀ p ∈ (s.gateOf x.val).rule, p.2.en = false) :
    ((qs.foldl (fun s q => s.graftRequest x q) s).gateOf x.val).control = (s.gateOf x.val).control := by
  induction qs generalizing s with
  | nil => rfl
  | cons q qs ih =>
    have hq := State.graftRequest_control hoff q
    have hrule : ((s.graftRequest x q).gateOf x.val).rule = (s.gateOf x.val).rule := Gate.rule_of_control hq
    exact (ih (hrule ▸ hoff)).trans hq

/-- A gate whose credits return, before what waited there passes. -/
theorem State.creditsBack_gatesStand (s : State) (x : Nat) : GatesStand s ((List.range 8).foldl (fun s m =>
    s.modDir x m true (fun d =>
      {d with freedCmd := d.freedCmd + d.owedCmd, freedSec := d.freedSec + d.owedSec, owedCmd := 0, owedSec := 0})) s) :=
  .foldl (fun s _ => s.modDir_gatesStand ..) _ (.refl s)

/-- A gate whose credits return, with nothing left waiting there. -/
def Gate.resumed (g : Gate) : Gate := {g with held := false, kept := []}

theorem State.gateResume_eq (s : State) (x : Site) : ∃ t, GatesStand (s.modGate x.val Gate.resumed) t
    ∧ s.gateResume x = (s.gateOf x.val).kept.foldl (fun s q => s.graftRequest x q) t :=
  ⟨_, State.creditsBack_gatesStand _ x.val, rfl⟩

theorem State.gateResume_control {s : State} (hoff : ∀ p ∈ (s.gateOf x.val).rule, p.2.en = false) :
    ((s.gateResume x).gateOf x.val).control = (s.gateOf x.val).control := by
  obtain ⟨t, hback, hresume⟩ := s.gateResume_eq x
  have hcontrol : (t.gateOf x.val).control = (s.gateOf x.val).control := by
    rw [hback.control, State.gateOf_modGate]
    rfl
  have hrule : (t.gateOf x.val).rule = (s.gateOf x.val).rule := Gate.rule_of_control hcontrol
  rw [hresume, foldl_graftRequest_control _ (hrule ▸ hoff), hcontrol]

/-- With nothing waiting at the gate, the hold has ended. -/
theorem State.gateResume_held {s : State} (hnone : (s.gateOf x.val).kept = []) :
    ((s.gateResume x).gateOf x.val).held = false := by
  obtain ⟨t, hback, hresume⟩ := s.gateResume_eq x
  have hgate := congrArg Gate.held (hback.gate x.val)
  rw [State.gateOf_modGate] at hgate
  rw [hresume, hnone, List.foldl_nil]
  exact hgate

end Resume

/-! ### The gate's registers written (R323, R324, R330) -/

section Registers

variable {who : Who} {x : Site} {s : State} (v : Word)

/-- Whether a rule's write stands, as a condition on the writer and the rule (R323, R324). -/
theorem gateRule_stands {driver bound en ok : Bool} :
    ((driver && !bound) || (en && !ok)) = false ↔ (driver = false ∨ bound = true) ∧ (en = false ∨ ok = true) := by
  simp only [Bool.or_eq_false_iff, Bool.and_eq_false_iff, Bool.not_eq_false']

/-- A rule's write by one who may make it is discarded where the rule may not stand. -/
theorem execGateRuleWrite_may
    (hmay : who.mgmt = true ∨ (who.driver = true ∧ s.bunged (niService (fieldOfSite x.val) 3) = false))
    (rule : Fin 16) (word : Fin 4) :
    let g := s.gateOf x.val
    let r := (g.ruleOf rule.val).wrote word.val v
    execGateRuleWrite who x rule word v s = .next
      (if (who.driver && !g.bound) || (r.en && !s.ruleOk g r who.mgmt) then (s.gateDiscard x.val).ack who .ok
       else (s.modGate x.val (fun g => {g with rule := tput g.rule rule.val r})).ack who .ok) := by
  have hopen : (!who.mgmt && s.bunged (niService (fieldOfSite x.val) 3)) = false := by
    rw [Bool.and_eq_false_iff, Bool.not_eq_false']
    exact hmay.imp_right And.right
  have hknown : (!(who.mgmt || who.driver)) = false := by
    rw [Bool.not_eq_false', Bool.or_eq_true]
    exact hmay.imp_right And.left
  simp only [execGateRuleWrite, State.atOwner, hopen, hknown, Bool.false_eq_true, if_false]

theorem execGateRuleWrite_bunged (hmgmt : who.mgmt = false) (hshut : s.bunged (niService (fieldOfSite x.val) 3) = true)
    (rule : Fin 16) (word : Fin 4) : execGateRuleWrite who x rule word v s = .next (s.ack who .bunged) := by
  simp only [execGateRuleWrite, State.atOwner, hmgmt, hshut, Bool.not_false, Bool.and_self, if_true]

theorem execGateRuleWrite_refused (hmgmt : who.mgmt = false) (hdriver : who.driver = false)
    (hopen : s.bunged (niService (fieldOfSite x.val) 3) = false) (rule : Fin 16) (word : Fin 4) :
    execGateRuleWrite who x rule word v s = .next (s.ack who .refused) := by
  simp only [execGateRuleWrite, State.atOwner, hmgmt, hdriver, hopen, Bool.and_false, Bool.or_self, Bool.not_false,
    Bool.false_eq_true, if_false, if_true]

theorem execGateCtlWrite_refused (hmgmt : who.mgmt = false) : execGateCtlWrite who x v s = .next (s.ack who .refused) := by
  simp only [execGateCtlWrite, State.mgmtWrite, hmgmt, Bool.false_eq_true, if_false]

/-- The slice a control word names. -/
def ctlSlice (v : Word) : SliceId := ⟨bits v.toNat 7 2 % 64, Nat.mod_lt _ (by decide)⟩

/-- Rules with `en` cleared. -/
def rulesOff (t : Tab Rule) : Tab Rule := t.map (fun r => (r.1, {r.2 with w0 := r.2.w0 &&& ~~~1}))

theorem rulesOff_en {t : Tab Rule} : ∀ p ∈ rulesOff t, p.2.en = false := by
  simp only [rulesOff, List.mem_map]
  rintro _ ⟨r, -, rfl⟩
  simp [Rule.en]

/-- A gate with its control word written (R330). -/
def Gate.ctlWritten (g : Gate) (v : Word) : Gate :=
  { g with
    slice := ctlSlice v, bound := bit v.toNat 8, fctx := ⟨bits v.toNat 33 22 % 4096, Nat.mod_lt _ (by decide)⟩,
    fen := bit v.toNat 34, vlim := BitVec.ofNat 16 (v.toNat >>> 35),
    rule := if bit v.toNat 8 then g.rule else rulesOff g.rule }

theorem execGateCtlWrite_mgmt (hmgmt : who.mgmt = true) : execGateCtlWrite who x v s = .next
    (State.ack (if (s.gateOf x.val).bound && (s.gateOf x.val).slice ≠ ctlSlice v then s.gateDiscard x.val
      else if bit v.toNat 8 then s.modGate x.val (·.ctlWritten v)
      else (s.modGate x.val (·.ctlWritten v)).gateResume x) who .ok) :=
  congrArg _ (if_pos hmgmt)

/-- A bound gate keeps its slice (R330). -/
theorem execGateCtlWrite_moves (hmgmt : who.mgmt = true) (hbound : (s.gateOf x.val).bound = true)
    (hmove : (s.gateOf x.val).slice.val ≠ bits v.toNat 7 2 % 64) :
    execGateCtlWrite who x v s = .next ((s.gateDiscard x.val).ack who .ok) := by
  have hne : (s.gateOf x.val).slice ≠ ctlSlice v := fun h => hmove (congrArg Fin.val h)
  simp only [execGateCtlWrite_mgmt v hmgmt, hbound, hne, ne_eq, not_false_eq_true, decide_true, Bool.and_self, if_true]

/-- A control word written stands, and with `bound` cleared no rule is in force and credits return (R323, R330, R335). -/
theorem execGateCtlWrite_stands (hmgmt : who.mgmt = true)
    (hstays : (s.gateOf x.val).bound = false ∨ (s.gateOf x.val).slice.val = bits v.toNat 7 2 % 64) :
    ∃ t, execGateCtlWrite who x v s = .next t
      ∧ (t.gateOf x.val).control = ((s.gateOf x.val).ctlWritten v).control
      ∧ (bit v.toNat 8 = false → (s.gateOf x.val).kept = [] → (t.gateOf x.val).held = false) := by
  have hstays' : ((s.gateOf x.val).bound && decide ((s.gateOf x.val).slice ≠ ctlSlice v)) = false := by
    rw [Bool.and_eq_false_iff, decide_eq_false_iff_not, Decidable.not_not]
    exact hstays.imp_right Fin.ext
  refine ⟨_, execGateCtlWrite_mgmt v hmgmt, ?_⟩
  simp only [hstays', Bool.false_eq_true, if_false, State.ack, State.gateOf_emit]
  have hwritten := s.gateOf_modGate x.val (·.ctlWritten v)
  cases hbit : bit v.toNat 8 with
  | true => exact ⟨congrArg Gate.control hwritten, fun h => absurd h (by decide)⟩
  | false =>
    have hrule : ((s.gateOf x.val).ctlWritten v).rule = rulesOff (s.gateOf x.val).rule := by
      simp only [Gate.ctlWritten, hbit, Bool.false_eq_true, if_false]
    have hoff : ∀ p ∈ ((s.modGate x.val (·.ctlWritten v)).gateOf x.val).rule, p.2.en = false := by
      rw [hwritten, hrule]
      exact rulesOff_en
    refine ⟨?_, fun _ hnone => ?_⟩
    · simp only [Bool.false_eq_true, if_false]
      rw [State.gateResume_control hoff, hwritten]
    · exact State.gateResume_held (hwritten ▸ hnone)

end Registers

/-! ### A second's end (R332) -/

theorem State.isGraft_modGate (s : State) (y : Nat) (f : Gate → Gate) (x : Nat) :
    (s.modGate y f).isGraft x = s.isGraft x := rfl

theorem execGraftSecondEnd_graft {x : Site} {s : State} (hgraft : s.isGraft x.val = true) :
    let g := s.gateOf x.val
    let zero := s.modGate x.val (fun g => {g with vioSec := 0, ovdSec := 0})
    execGraftSecondEnd x s = .next (if g.vlim ≠ 0 && g.vlim.toNat ≤ g.vioSec then zero.graftFence x 16
      else if 16 ≤ g.ovdSec then zero.graftFence x 17 else zero) :=
  congrArg _ (if_neg (by
    rw [State.isGraft_modGate, hgraft]
    decide))

/-! ### Admission (R319, R336, R337) -/

/-- Two states that differ at most in the trellis. -/
def TrellisOnly (s t : State) : Prop := {t with trellis := s.trellis} = s

namespace TrellisOnly

variable {s t u : State}

theorem refl (s : State) : TrellisOnly s s := rfl

theorem trans (hst : TrellisOnly s t) (htu : TrellisOnly t u) : TrellisOnly s u := by
  unfold TrellisOnly at *
  rw [← hst, ← htu]

theorem foldl {α : Type} {f : State → α → State} (hf : ∀ s a, TrellisOnly s (f s a)) (l : List α) (s : State) :
    TrellisOnly s (l.foldl f s) := by
  induction l generalizing s with
  | nil => exact .refl s
  | cons a l ih => exact (hf s a).trans (ih _)

theorem gateOf (h : TrellisOnly s t) (x : Nat) : t.gateOf x = s.gateOf x := by rw [← show _ = s from h]; rfl
theorem linkOf (h : TrellisOnly s t) (a : Nat) : t.linkOf a = s.linkOf a := by rw [← show _ = s from h]; rfl
theorem out (h : TrellisOnly s t) : t.out = s.out := by rw [← show _ = s from h]

end TrellisOnly

theorem State.bungRelease_trellisOnly (s : State) (ni : Nat) : TrellisOnly s (s.bungRelease ni) := by
  simp only [State.bungRelease]
  split <;> rfl

theorem State.modNi_trellisOnly (s : State) (n : Nat) (f : Ni → Ni) : TrellisOnly s (s.modNi n f) := rfl

theorem State.nisReady_trellisOnly (s : State) (d : Domain) : TrellisOnly s (s.nisReady d) :=
  .foldl (fun s n => s.modNi_trellisOnly n _) _ s

theorem State.bungFree_trellisOnly (s : State) (d : Domain) : TrellisOnly s (s.bungFree d) :=
  .foldl State.bungRelease_trellisOnly _ s

theorem foldl_emit_out {α : Type} (f : α → Msg) (l : List α) (s : State) :
    (l.foldl (fun s a => s.emit (f a)) s).out = (l.map f).reverse ++ s.out := by
  induction l generalizing s with
  | nil => rfl
  | cons a l ih => rw [List.foldl_cons, ih, List.map_cons, List.reverse_cons, List.append_assoc]; rfl

theorem State.linkOf_siteResult (s : State) (i r a : Nat) : (s.siteResult i r).linkOf a = s.linkOf a := rfl

theorem State.isGraft_admissionSeen (s : State) (x : Site) (e : AdmEvidence) :
    (s.admissionSeen x e).isGraft x.val = s.isGraft x.val := rfl

/-- The settings an admission sends its graft (R320, R336). -/
def admissionSettings (x : Site) (e : AdmEvidence) : List (Nat × Nat) :=
  [(1, x.val), (2, min e.minor.toNat 2), (3, b2n (bit (nth 0 e.words 2).toNat 0)), (4, bits (nth 0 e.words 2).toNat 28 16),
    (5, 1)]

/-- A gate as an admission leaves it (R330, R336). -/
def Gate.admitted (g : Gate) (x : Site) (e : AdmEvidence) : Gate :=
  let w2 := (nth 0 e.words 2).toNat
  { g with
    adm := true, fenced := false, bound := false, st := .admitted, cause := 0, cache := bit w2 0,
    maxout := BitVec.ofNat 12 (bits w2 28 16 - 1), rule := rulesOff g.rule, vlim := 4096, nvio := 0, out := [],
    powered := true, setting := (admissionSettings x e).foldl (fun t p => tput t p.1 p.2) g.setting }

theorem State.admitSite_eq (s : State) (x : Site) (e : AdmEvidence) :
    ∃ u, TrellisOnly u (s.admitSite x e) ∧ u.gateOf x.val = (s.gateOf x.val).admitted x e
      ∧ (u.linkOf x.val).fenced = false
      ∧ u.out = ((admissionSettings x e).map (fun p =>
          Msg.sideband (linkId x.val) false 0x05 (p.1 + 2 ^ 16 * p.2))).reverse ++ s.out := by
  refine ⟨_, (State.nisReady_trellisOnly ..).trans (State.bungFree_trellisOnly ..), ?_, ?_, ?_⟩
  · rw [State.gateOf_siteResult, State.gateOf_modLink, State.gateOf_modGate]
    rfl
  · rw [State.linkOf_siteResult, State.linkOf_modLink]
  · rw [← foldl_emit_out]
    rfl

section Admission

variable {x : Site} {s : State} (hadm : s.admitting x.val = true) (e : AdmEvidence)
include hadm

theorem execAdmission_unlicensed (hfeat : s.boot.feat.getLsbD 3 = false) :
    execAdmission x e s = .next ((s.graftFence x 0).siteResult x.val 9) := by
  simp only [execAdmission, hadm, hfeat, Bool.not_true, Bool.not_false, Bool.false_eq_true, if_false, if_true]

theorem execAdmission_passes (hfeat : s.boot.feat.getLsbD 3 = true) (hcode : s.admissionCode x.val e = 0) :
    execAdmission x e s = .next ((s.admissionSeen x e).admitSite x e) := by
  simp only [execAdmission, hadm, hfeat, hcode, Bool.not_true, Bool.false_eq_true, if_false]

theorem execAdmission_fails (hfeat : s.boot.feat.getLsbD 3 = true) (hcode : s.admissionCode x.val e ≠ 0) :
    execAdmission x e s = .next ((s.admissionSeen x e).graftFence x (s.admissionCode x.val e)) := by
  cases hc : s.admissionCode x.val e with
  | zero => exact absurd hc hcode
  | succ n => simp only [execAdmission, hadm, hfeat, hc, Bool.not_true, Bool.false_eq_true, if_false]

theorem execAdmissionStepTimeout_fences {step : Fin 16} (hlow : 1 ≤ step.val) (hhigh : step.val ≤ 10) :
    execAdmissionStepTimeout x step s = .next
      ((s.modGate x.val (fun g => {g with odAdm := g.odAdm + 1})).graftFence x (stepCode step.val)) := by
  simp only [execAdmissionStepTimeout, hadm, Nat.ne_of_gt hlow, Nat.not_lt.2 hhigh, Bool.not_true, decide_false,
    Bool.or_self, Bool.false_eq_true, if_false]

end Admission

section Idle

variable {x : Site} {s : State}

/-- No admission runs: the state stays. -/
theorem execAdmission_idle (hidle : s.admitting x.val = false) (e : AdmEvidence) (step : Fin 16) :
    execAdmission x e s = .next s ∧ execAdmissionStepTimeout x step s = .next s := by
  simp only [execAdmission, execAdmissionStepTimeout, hidle, Bool.not_false, Bool.true_or, if_true, and_self]

variable (hgraft : s.isGraft x.val = true) (hpop : s.populated x.val = true)
include hgraft hpop

theorem execGraftFence_populated {cause : Fin 8} (hcause : cause.val < 4) :
    execGraftFence x cause s = .next (s.graftFence x (16 + cause.val)) := by
  simp only [execGraftFence, hgraft, hpop, hcause, Bool.and_self, if_true]

theorem execGraftReadmit_eq :
    execGraftReadmit x s = .next (if (s.gateOf x.val).fenced then s.graftReadmit x else s) := by
  simp only [execGraftReadmit, hgraft, hpop, Bool.and_self, Bool.true_and]

end Idle

/-- A site taken up again (R332): its graft is admitted anew. -/
theorem State.graftReadmit_gateOf (s : State) (x : Site) : ((s.graftReadmit x).gateOf x.val).st = .admitting
    ∧ ((s.graftReadmit x).gateOf x.val).powered = true ∧ ((s.graftReadmit x).linkOf x.val).fenced = false := by
  simp only [State.graftReadmit, State.gateOf_modLink, State.gateOf_modGate, State.linkOf_modLink, and_self]

/-- Settles O35: a gate's registers go through `execGateRuleWrite_may` and `execGateCtlWrite_stands`, and its admission
through what `admitSite` and `graftFence` leave of the gate (`admitSite_eq`, `gateOf_graftFence`). -/
theorem graftControl : Obligations.GraftControl := by
  unfold Obligations.GraftControl
  refine ⟨?registers, ?admission⟩
  case registers =>
    intro who x rule word v s
    simp only [exec_gateRuleWrite, exec_gateCtlWrite, exec_graftSecondEnd]
    refine ⟨fun hmay => ?rule, fun hmgmt => ⟨execGateCtlWrite_refused v hmgmt,
        fun _ hshut => execGateRuleWrite_bunged v hmgmt hshut rule word,
        fun hdriver hopen => execGateRuleWrite_refused v hmgmt hdriver hopen rule word⟩,
      fun hmgmt => execGateCtlWrite_moves v hmgmt, fun hmgmt hstays => ?control, fun hgraft => ?second⟩
    case rule =>
      rw [execGateRuleWrite_may v hmay, ← gateRule_stands]
      refine ⟨fun hstands => ?_, fun hfalls => ?_⟩
      · rw [if_neg (Bool.eq_false_iff.1 hstands)]
      · rw [if_pos (eq_true_of_ne_false hfalls)]
    case control =>
      obtain ⟨t, ht, hcontrol, hheld⟩ := execGateCtlWrite_stands v hmgmt hstays
      simp only [Gate.control, Gate.ctlWritten, Prod.mk.injEq] at hcontrol
      obtain ⟨hslice, hbound, hfen, hvlim, hrule⟩ := hcontrol
      refine ⟨t, ht, congrArg Fin.val hslice, hbound, hfen, ?_, fun hclear => ?_, hheld⟩
      · rw [hvlim]
        rfl
      · rw [hrule, hclear, if_neg Bool.false_ne_true]
        exact rulesOff_en
    case second =>
      rw [execGraftSecondEnd_graft hgraft]
      refine ⟨fun hlimited hmany => ?_, fun hfew hlate => ?_, fun hfew hprompt => ?_⟩
      · simp only [hlimited, hmany, ne_eq, not_false_eq_true, decide_true, Bool.and_self, if_true]
      · simp only [Nat.not_le.2 hfew, hlate, decide_false, Bool.and_false, Bool.false_eq_true, if_false, if_true]
      · simp only [Nat.not_le.2 hfew, Nat.not_le.2 hprompt, decide_false, Bool.and_false, Bool.false_eq_true, if_false]
  case admission =>
    intro x e step cause s g hgraft hpop
    simp only [exec_admission, exec_admissionStepTimeout, exec_graftFence, exec_graftReadmit]
    refine ⟨fun hadm hfeat hcode => ?admits, fun hadm hfeat hcode => ?fails, fun hadm hfeat => ?unlicensed,
      fun hadm hlow hhigh => ?timeout, fun hidle => execAdmission_idle hidle e step, fun hcause => ?fence,
      fun hfenced => ?readmit, fun hopen => ?unfenced⟩
    case admits =>
      obtain ⟨u, hu, hgate, hlink, hout⟩ := (s.admissionSeen x e).admitSite_eq x e
      refine ⟨_, execAdmission_passes hadm e hfeat hcode, ?_⟩
      rw [hu.gateOf, hu.linkOf, hu.out, hgate, hout]
      refine ⟨rfl, rfl, rfl, rfl, rfl, BitVec.toNat_ofNat .., hlink, fun p hp => ?_⟩
      exact List.mem_append_left _ (List.mem_reverse.2 (List.mem_map_of_mem hp))
    case fails =>
      obtain ⟨-, hadm', hst, -, hcause⟩ := State.graftFence_shuts ((s.isGraft_admissionSeen x e).trans hgraft)
        (s.admissionCode x.val e)
      exact ⟨_, execAdmission_fails hadm e hfeat hcode, hadm', hst, hcause⟩
    case unlicensed =>
      obtain ⟨hfenced, -⟩ := State.graftFence_shuts hgraft 0
      refine ⟨_, execAdmission_unlicensed hadm e hfeat, ?_, State.siteResult_result _ _ (by decide)⟩
      rwa [State.gateOf_siteResult]
    case timeout =>
      obtain ⟨-, -, hst, -, hcode⟩ := State.graftFence_shuts
        ((s.isGraft_modGate x.val (fun g => {g with odAdm := g.odAdm + 1}) x.val).trans hgraft) (stepCode step.val)
      exact ⟨_, execAdmissionStepTimeout_fences hadm hlow hhigh, hst, hcode⟩
    case fence =>
      obtain ⟨hfenced, -, -, hoff, hcode⟩ := State.graftFence_shuts hgraft (16 + cause.val)
      exact ⟨_, execGraftFence_populated hgraft hpop hcause, hfenced, hoff, hcode,
        fun j hj => s.graftFence_bunged x _ hj⟩
    case readmit =>
      rw [execGraftReadmit_eq hgraft hpop, if_pos hfenced]
      exact ⟨_, rfl, s.graftReadmit_gateOf x⟩
    case unfenced =>
      rw [execGraftReadmit_eq hgraft hpop, if_neg (Bool.eq_false_iff.1 hopen)]

end Sys2Proof.Machine
end

section

namespace Sys2Proof.Machine

/-! ### The broker's sharing (R511) -/

/-- A governed die as the sharing sees it: site, floor, maximum, demand, pressing. -/
abbrev ShareRow := Nat × Nat × Nat × Nat × Bool

theorem foldl_add_eq_sum {α : Type} (g : α → Int) (l : List α) (a : Int) :
    l.foldl (fun n d => n + g d) a = a + (l.map g).sum := by
  induction l generalizing a with
  | nil => simp
  | cons d l ih => rw [List.foldl_cons, ih, List.map_cons, List.sum_cons, Int.add_assoc]

/-- The sums of the demands and of the floors. -/
def demandSum (l : List ShareRow) : Int := (l.map (fun d => (d.2.2.2.1 : Int))).sum
def floorSum (l : List ShareRow) : Int := (l.map (fun d => (d.2.1 : Int))).sum

/-- The budget of a row when the demands fit in the pool, each pressing die getting `q` more (R511 step 4). -/
def richShare (q : Nat) (d : ShareRow) : Nat := if d.2.2.2.2 then min d.2.2.1 (d.2.2.2.1 + q) else d.2.2.2.1

/-- The budget of a row when they do not: its part of `room` over its floor (R511 step 5). -/
def poorShare (room spread : Int) (d : ShareRow) : Nat := d.2.1 + (((d.2.2.2.1 : Int) - d.2.1) * room / spread).toNat

/-- What every pressing die gets over its demand. -/
def extraShare (pool : Int) (l : List ShareRow) : Nat :=
  ((pool - demandSum l) / ((l.filter (fun d => d.2.2.2.2)).length : Int)).toNat

theorem shareOut_eq (pool : Int) (l : List ShareRow) : shareOut pool l = l.map (fun d => (d.1,
    if demandSum l ≤ pool then richShare (extraShare pool l) d
    else poorShare (max 0 (pool - floorSum l)) (demandSum l - floorSum l) d)) := by
  unfold shareOut
  simp only [foldl_add_eq_sum, Int.zero_add]
  change (if demandSum l ≤ pool then _ else _) = _
  by_cases h : demandSum l ≤ pool
  · simp only [if_pos h]; rfl
  · simp only [if_neg h]; rfl

section Rows

/-- Floor, demand and maximum rise. -/
abbrev RowOk (d : ShareRow) : Prop := d.2.1 ≤ d.2.2.2.1 ∧ d.2.2.2.1 ≤ d.2.2.1

theorem richShare_bounds {d : ShareRow} (hd : RowOk d) (q : Nat) : d.2.1 ≤ richShare q d ∧ richShare q d ≤ d.2.2.1 := by
  unfold richShare; split <;> omega

theorem mul_ediv_le {a r n : Int} (ha : 0 ≤ a) (hr : r ≤ n) (hn : 0 ≤ n) : a * r / n ≤ a := by
  rcases hn.eq_or_lt with rfl | hpos
  · simpa using ha
  · exact Int.ediv_le_of_le_mul hpos (Int.mul_le_mul_of_nonneg_left hr ha)

theorem poorShare_bounds {d : ShareRow} (hd : RowOk d) {room spread : Int} (hroom : room ≤ spread) (hspread : 0 ≤ spread) :
    d.2.1 ≤ poorShare room spread d ∧ poorShare room spread d ≤ d.2.2.1 := by
  have := mul_ediv_le (a := (d.2.2.2.1 : Int) - d.2.1) (by omega) hroom hspread
  unfold poorShare; omega

theorem sum_richShare_le (q : Nat) (l : List ShareRow) : (l.map (fun d => (richShare q d : Int))).sum
    ≤ demandSum l + q * (l.filter (fun d => d.2.2.2.2)).length := by
  unfold demandSum
  induction l with
  | nil => simp
  | cons d l ih =>
    have hrow : (richShare q d : Int) ≤ d.2.2.2.1 + if d.2.2.2.2 then (q : Int) else 0 := by
      unfold richShare; split <;> omega
    cases hp : d.2.2.2.2 <;> simp [hp, mul_add] at hrow ⊢ <;> linarith

/-- `n` parts of what `n` divides come to no more than it. -/
theorem extraShare_mul_le {pool : Int} {l : List ShareRow} (h : demandSum l ≤ pool) :
    (extraShare pool l : Int) * (l.filter (fun d => d.2.2.2.2)).length ≤ pool - demandSum l := by
  unfold extraShare
  rw [Int.toNat_of_nonneg (Int.ediv_nonneg (by omega) (by omega))]
  rcases Nat.eq_zero_or_pos (l.filter (fun d => d.2.2.2.2)).length with h0 | hpos
  · rw [h0]; simpa using h
  · exact Int.ediv_mul_le _ (by omega)

theorem sum_poorShare_mul_le (room spread : Int) (hroom : 0 ≤ room) (hspread : 0 < spread) {l : List ShareRow} (hl : ∀ d ∈ l, RowOk d) :
    ((l.map (fun d => (poorShare room spread d : Int))).sum - floorSum l) * spread ≤ (demandSum l - floorSum l) * room := by
  unfold floorSum demandSum
  induction l with
  | nil => simp
  | cons d l ih =>
    have hrest := ih fun d h => hl d (by simp [h])
    have hd := hl d (by simp)
    have hpart : 0 ≤ ((d.2.2.2.1 : Int) - d.2.1) * room := Int.mul_nonneg (by omega) hroom
    have hrow : ((poorShare room spread d : Int) - d.2.1) * spread ≤ ((d.2.2.2.1 : Int) - d.2.1) * room := by
      unfold poorShare
      rw [Nat.cast_add, add_sub_cancel_left, Int.toNat_of_nonneg (Int.ediv_nonneg hpart hspread.le)]
      exact Int.ediv_mul_le _ hspread.ne'
    simp only [List.map_cons, List.sum_cons]
    linarith

theorem poorShare_zero (room : Int) (d : ShareRow) : poorShare room 0 d = d.2.1 := by simp [poorShare]

theorem floorSum_le_demandSum {l : List ShareRow} (hl : ∀ d ∈ l, RowOk d) : floorSum l ≤ demandSum l :=
  List.sum_le_sum fun d hd => Int.ofNat_le.2 (hl d hd).1

end Rows

theorem demandOf_bounds {lo hi : Nat} (h : lo ≤ hi) (reported : Nat) (pressing : Bool) :
    lo ≤ demandOf lo hi reported pressing ∧ demandOf lo hi reported pressing ≤ hi := by
  unfold demandOf; omega

theorem shareOut_bounds {pool : Int} {l : List ShareRow} (hl : ∀ d ∈ l, RowOk d) :
    ∀ p ∈ l.zip (shareOut pool l), p.2.1 = p.1.1 ∧ p.1.2.1 ≤ p.2.2 ∧ p.2.2 ≤ p.1.2.2.1 := by
  intro p hp
  rw [shareOut_eq, ← List.map_id l, List.map_map, List.zip_map', List.mem_map, List.map_id] at hp
  obtain ⟨d, hmem, rfl⟩ := hp
  have hd : RowOk d := hl d hmem
  have hsums := floorSum_le_demandSum hl
  refine ⟨rfl, ?_⟩
  show _ ≤ ite _ _ _ ∧ ite _ _ _ ≤ _
  split
  · exact richShare_bounds hd _
  · exact poorShare_bounds hd (by omega) (by omega)

theorem shareOut_sum_le {pool : Int} {l : List ShareRow} (hl : ∀ d ∈ l, RowOk d) :
    ((shareOut pool l).map (fun b => (b.2 : Int))).sum ≤ max pool (floorSum l) := by
  rw [shareOut_eq, List.map_map]
  by_cases h : demandSum l ≤ pool
  · have hsum := sum_richShare_le (extraShare pool l) l
    have hextra := extraShare_mul_le h
    simp only [Function.comp_def, if_pos h]
    omega
  · have hle := floorSum_le_demandSum hl
    have hroom : max 0 (pool - floorSum l) ≤ demandSum l - floorSum l := by omega
    have hsum : (l.map (fun d => (poorShare (max 0 (pool - floorSum l)) (demandSum l - floorSum l) d : Int))).sum
        ≤ floorSum l + max 0 (pool - floorSum l) := by
      rcases (Int.sub_nonneg_of_le hle).eq_or_lt with h0 | hpos
      · simp only [← h0, poorShare_zero]
        exact le_add_of_nonneg_right (le_max_left 0 _)
      · have := sum_poorShare_mul_le _ _ (le_max_left 0 (pool - floorSum l)) hpos hl
        rw [mul_comm] at this
        have := le_of_mul_le_mul_left this hpos
        omega
    simp only [Function.comp_def, if_neg h]
    omega

/-- Settles O53: a pressing die's extra and a die's part over its floor are quotients, so that together they come to no
more than what was divided. -/
theorem budgetsShared : Obligations.BudgetsShared := by
  unfold Obligations.BudgetsShared
  intro pool l hl
  refine ⟨shareOut_bounds hl, ?_, ?_, fun lo hi r p h => demandOf_bounds h r p⟩
  · rw [shareOut_eq, List.length_map]
  · rw [foldl_add_eq_sum, foldl_add_eq_sum, Int.zero_add, Int.zero_add]
    exact shareOut_sum_le hl

end Sys2Proof.Machine
end

section

namespace Sys2Proof.Machine

/-! ### One step -/

theorem step_cons {c : Instr} {rest : List Instr} {s : State} (h : s.pending = c :: rest) :
    step s = exec c {s with pending := rest} := by rw [step, h]

theorem step_nil {s : State} (h : s.pending = []) : step s = .next s.tick := by rw [step, h]

/-- Settles O1: a step is defined by what stands at the front. -/
theorem stepRunsFront : Obligations.StepRunsFront := by
  unfold Obligations.StepRunsFront
  exact fun _ _ _ => step_cons

end Sys2Proof.Machine
end

section

namespace Sys2Proof.Machine

/-! ### Entries that request an action (R599): where `odWrite` sends their values -/

theorem State.odWrite_restore (s : State) (sub : Nat) (d : List Byte) : s.odWrite 0x1F01 sub d = s.restoreWrite (leNat d) := rfl
theorem State.odWrite_reset (s : State) (sub : Nat) (d : List Byte) : s.odWrite 0x2E00 sub d = s.resetWrite (leNat d) := rfl
theorem State.odWrite_switchover (s : State) (d : List Byte) : s.odWrite 0x3001 2 d = s.switchRequest (leNat d) := rfl
theorem State.odWrite_halt (s : State) (d : List Byte) : s.odWrite 0x3140 2 d = s.haltWrite 2 (leNat d) := rfl
theorem State.odWrite_readmit (s : State) (x : Site) (sub : Nat) (d : List Byte) :
    s.odWrite (0x2900 + x.val) sub d = s.readmitWrite x.val (leNat d) := by
  have hx : x.val < 16 := x.isLt
  unfold State.odWrite
  dsimp only
  rw [if_neg (by simp; omega), if_pos (by simp; omega), Nat.add_sub_cancel_left]

theorem odSet_false (f : State → State) (s : State) : odSet false f s = (6, s) := rfl

section Refused
variable {v : Nat} (hv : v ≠ 1) (s : State)
include hv

theorem State.restoreWrite_refused : s.restoreWrite v = (6, s) := by
  rw [State.restoreWrite, decide_eq_false hv, odSet_false]
theorem State.resetWrite_refused : s.resetWrite v = (6, s) := by
  rw [State.resetWrite, decide_eq_false hv, odSet_false]
theorem State.readmitWrite_refused (x : Nat) : s.readmitWrite x v = (6, s) := if_pos hv
theorem State.switchRequest_refused : s.switchRequest v = (6, s) := if_pos hv
theorem State.haltWrite_refused (h2 : v ≠ 2) : s.haltWrite 2 v = (6, s) := by
  simp only [State.haltWrite, if_neg hv, if_neg h2]

end Refused

theorem State.restoreWrite_taken (s : State) : (s.restoreWrite 1).1 = 0 := rfl
theorem State.resetWrite_taken (s : State) : (s.resetWrite 1).1 = 0 := rfl
theorem State.haltWrite_taken (s : State) {v : Nat} (hv : v = 1 ∨ v = 2) : (s.haltWrite 2 v).1 = 0 := by
  rcases hv with rfl | rfl <;> rfl

/-- Settles O52: each entry's own write refuses every value but those it names. -/
theorem actionsByValue : Obligations.ActionsByValue := by
  unfold Obligations.ActionsByValue
  intro x sub d s v
  simp only [State.odWrite_restore, State.odWrite_reset, State.odWrite_switchover, State.odWrite_halt, State.odWrite_readmit]
  refine ⟨fun hv => ?_, fun h1 h2 => s.haltWrite_refused h1 h2, fun hv => ?_, s.haltWrite_taken⟩
  · exact ⟨s.restoreWrite_refused hv, s.resetWrite_refused hv, s.readmitWrite_refused hv x.val, s.switchRequest_refused hv⟩
  · rw [show leNat d = 1 from hv]
    exact ⟨s.restoreWrite_taken, s.resetWrite_taken⟩

end Sys2Proof.Machine
end

section

namespace Sys2Proof.Machine

/-! ### What a logged error leaves alone, and what it sets (R358) -/

theorem State.aerCorrectable_ports (s : State) (e : Ep) (b : Nat) : PortsOnly s (s.aerCorrectable e b) := by
  unfold State.aerCorrectable
  dsimp only
  split
  · exact s.modEp_ports e _
  · exact (s.modEp_ports e _).trans (State.emit_ports _ _)

section
variable {s t : State} (h : PortsOnly s t)
include h
theorem PortsOnly.modEp (e : Ep) (f : HostEp → HostEp) : PortsOnly s (t.modEp e f) := h.trans (t.modEp_ports e f)
theorem PortsOnly.emit (m : Msg) : PortsOnly s (t.emit m) := h.trans (t.emit_ports m)
theorem PortsOnly.aerCorrectable (e : Ep) (b : Nat) : PortsOnly s (t.aerCorrectable e b) := h.trans (t.aerCorrectable_ports e b)
end

theorem State.aer_ports (s : State) (e : Ep) (x : PcieErr) (adv : Bool) : PortsOnly s (s.aer e x adv) := by
  unfold State.aer
  split
  next b _ => exact s.aerCorrectable_ports e b
  next b _ =>
    dsimp only
    have hunc := fun f => (PortsOnly.refl s).modEp e f
    have hfirst := fun (m f : Bool) (g : HostEp → HostEp) (k : HostEp → HostEp) => show PortsOnly s
      (if m then s.modEp e g else if f then (s.modEp e g).aerCorrectable e 15 else (s.modEp e g).modEp e k) by
        split_ifs
        exacts [hunc g, (hunc g).aerCorrectable e 15, (hunc g).modEp e k]
    split
    · exact (hfirst _ _ _ _).aerCorrectable e 13
    · rw [apply_ite (PortsOnly s)]
      exact ite_prop_iff_and.2 ⟨fun _ => hfirst _ _ _ _, fun _ => (hfirst _ _ _ _).emit _⟩

theorem State.aerCorrectable_aerUnc (s : State) (e : Ep) (b : Nat) :
    ((s.aerCorrectable e b).epOf e).aerUnc = (s.epOf e).aerUnc := by
  simp only [State.aerCorrectable]
  split <;> simp

/-- An uncorrectable error sets its bit, whatever is masked. -/
theorem State.aer_aerUnc (s : State) (e : Ep) {x : PcieErr} {b : Nat} (hplace : pcieErrPlace x = (true, b)) (adv : Bool) :
    ((s.aer e x adv).epOf e).aerUnc = (s.epOf e).aerUnc ||| 2 ^ b := by
  unfold State.aer
  simp only [hplace]
  split_ifs <;> simp [State.aerCorrectable_aerUnc]

/-! ### A refused aperture access (R348) -/

section Refused
variable (s : State) (e : Ep)

/-- Nothing reached a cask or a die, and the refusal is counted. -/
abbrev State.Refused (t : State) : Prop :=
  t.cask = s.cask ∧ t.die = s.die ∧ (t.epOf e).apref = satHalf (s.epOf e).apref

theorem State.apRefuse_refused : s.Refused e (s.apRefuse e) := by
  have hports := s.modEp_ports e (fun h => {h with apref := satHalf h.apref})
  exact ⟨hports.cask, hports.die, by simp [State.apRefuse]⟩

variable {s e} in
theorem State.Refused.aer {t : State} (ht : s.Refused e t) (x : PcieErr) (adv : Bool) : s.Refused e (t.aer e x adv) := by
  obtain ⟨hcask, hdie, hcount⟩ := ht
  have hports := t.aer_ports e x adv
  exact ⟨hports.cask.trans hcask, hports.die.trans hdie, (t.aer_aerOnly e x adv).apref.trans hcount⟩

theorem State.cplErr_refused (k : CplKind) : s.Refused e ((s.apRefuse e).cplErr e k) := by
  obtain ⟨hcask, hdie, hcount⟩ := (s.apRefuse_refused e).aer (match k with | .ur => .unsupportedReq | _ => .completerAbort) false
  exact ⟨hcask, hdie, (congrArg HostEp.apref (State.epOf_emit _ _ e)).trans hcount⟩

theorem State.wrErr_ur_refused : s.Refused e ((s.apRefuse e).wrErr e .ur) := (s.apRefuse_refused e).aer _ true

theorem State.wrErr_ur_aerUnc (t : State) : ((t.wrErr e .ur).epOf e).aerUnc.testBit 20 = true := by
  rw [State.wrErr, State.aer_aerUnc t e rfl, Nat.testBit_or, Nat.testBit_two_pow_self, Bool.or_true]

end Refused

/-- A poisoned write is logged as one first, which changes neither the segments nor what is counted. -/
theorem execApertureWrite_poisoned_refused {s : State} {e : Ep} (hlink : (s.epOf e).linkUp = true)
    (hrun : (s.epOf e).stopped = false) {off : BitVec 42}
    (hseg : bit ((s.epOf e).segOf off.toNat) 0 = false ∨ bit ((s.epOf e).segOf off.toNat) 1 = true) (data : List Byte) :
    execApertureWrite e off data true s = .next (((s.aer e .poisonedTlp).apRefuse e).wrErr e .ur) := by
  have hclosed : (!bit ((s.epOf e).segOf off.toNat) 0 || bit ((s.epOf e).segOf off.toNat) 1) = true := by
    simpa using hseg
  simp [execApertureWrite, hlink, hrun, hclosed]

/-- Settles O37: a refused access only counts and logs, and what is logged is the error's own bit. -/
theorem apertureRefusals : Obligations.ApertureRefusals := by
  unfold Obligations.ApertureRefusals
  intro e off len data poisoned s h g counted hlink hrun
  refine ⟨fun hseg => ?_, fun hnow => execApertureRead_now hlink hnow off len,
    fun hwait => execApertureRead_waits hlink hwait off len, fun hseg => ?_⟩
  · rw [State.apRead_noSegment hrun hseg]
    exact ⟨s.cplErr_refused e .ur, List.mem_cons_self⟩
  · cases poisoned with
    | false => exact ⟨_, execApertureWrite_refused hlink hrun hseg data, s.wrErr_ur_refused e, State.wrErr_ur_aerUnc e _⟩
    | true =>
      refine ⟨_, execApertureWrite_poisoned_refused hlink hrun hseg data, ?_, State.wrErr_ur_aerUnc e _⟩
      obtain ⟨hcask, hdie, hcount⟩ := (s.aer e .poisonedTlp).wrErr_ur_refused e
      have hports := s.aer_ports e .poisonedTlp false
      exact ⟨hcask.trans hports.cask, hdie.trans hports.die,
        hcount.trans (congrArg satHalf (s.aer_aerOnly e .poisonedTlp false).apref)⟩

end Sys2Proof.Machine
end

section

namespace Sys2Proof.Machine

/-! ### The lock of the timebase (R516) -/

/-- The timebase with its lock set to `b`; a change of the lock is dated. -/
def Time.locked (t : Time) (b : Bool) : Time :=
  if t.tlock = b then t else {t with tlock := b, acq := t.acq || b, lockAt := t.now}

theorem State.setLock_time (s : State) (b : Bool) : (s.setLock b).time = s.time.locked b := by
  unfold State.setLock Time.locked
  split
  · rfl
  · exact (State.raiseStatus_ports _).time

section Locked
variable (t : Time) (b : Bool)

/-- What the lock does not touch. -/
theorem Time.locked_frame : {t.locked b with tlock := t.tlock, acq := t.acq, lockAt := t.lockAt} = t := by
  unfold Time.locked; split <;> rfl

@[simp] theorem Time.locked_tlock : (t.locked b).tlock = b := by
  unfold Time.locked
  split
  next h => exact h
  next => rfl
@[simp] theorem Time.locked_now : (t.locked b).now = t.now := (congrArg Time.now (t.locked_frame b) :)
@[simp] theorem Time.locked_hold : (t.locked b).hold = t.hold := (congrArg Time.hold (t.locked_frame b) :)
@[simp] theorem Time.locked_nstep : (t.locked b).nstep = t.nstep := (congrArg Time.nstep (t.locked_frame b) :)
@[simp] theorem Time.locked_rate : (t.locked b).rate = t.rate := (congrArg Time.rate (t.locked_frame b) :)
@[simp] theorem Time.locked_run : (t.locked b).run = t.run := (congrArg Time.run (t.locked_frame b) :)
@[simp] theorem Time.locked_slew : (t.locked b).slew = t.slew := (congrArg Time.slew (t.locked_frame b) :)
@[simp] theorem Time.locked_domain : (t.locked b).domain = t.domain := (congrArg Time.domain (t.locked_frame b) :)
@[simp] theorem Time.locked_port : (t.locked b).port = t.port := (congrArg Time.port (t.locked_frame b) :)
@[simp] theorem Time.locked_gm : (t.locked b).gm = t.gm := (congrArg Time.gm (t.locked_frame b) :)
@[simp] theorem Time.locked_delay : (t.locked b).delay = t.delay := (congrArg Time.delay (t.locked_frame b) :)

end Locked

/-! ### The discipline (R518) -/

/-- A steered rate lies within ±500 ppm, and 32 bits hold it. -/
theorem steered_rate_bounds (n : Nat) :
    -rateMax ≤ (BitVec.ofInt 32 ((n % 1099511627 : Int) - rateMax)).toInt
      ∧ (BitVec.ofInt 32 ((n % 1099511627 : Int) - rateMax)).toInt ≤ rateMax := by
  have hmax : rateMax = 549755813 := rfl
  rw [hmax, BitVec.toInt_ofInt, Int.bmod_eq_of_le] <;> omega

/-- The lock a small offset leaves: 16 in a row within 1 µs set it, one beyond 10 µs takes it. -/
theorem steered_lock (ofs : Int) (lock : Bool) (run : Nat) :
    (if ofs < -10000 ∨ 10000 < ofs then false
      else lock || decide (16 ≤ if -1000 ≤ ofs ∧ ofs ≤ 1000 then run + 1 else 0))
    = if -1000 ≤ ofs ∧ ofs ≤ 1000 then lock || decide (15 ≤ run)
      else decide (-10000 ≤ ofs) && decide (ofs ≤ 10000) && lock := by
  by_cases hnear : -1000 ≤ ofs ∧ ofs ≤ 1000
  · rw [if_neg (by omega), if_pos hnear, if_pos hnear]
    simp
  · rw [if_neg hnear, if_neg hnear]
    by_cases hfar : ofs < -10000 ∨ 10000 < ofs
    · rw [if_pos hfar, eq_comm, Bool.and_eq_false_iff, Bool.and_eq_false_iff, decide_eq_false_iff_not, decide_eq_false_iff_not]
      omega
    · rw [if_neg hfar, decide_eq_true (p := -10000 ≤ ofs) (by omega), decide_eq_true (p := ofs ≤ 10000) (by omega)]
      simp

section Discipline
variable {s : State} {ofs : Int}

theorem State.discipline_steps (h : (s.time.measured = false ∧ 0 ≤ ofs) ∨ 100000 < ofs) : (s.discipline ofs).time
    = {s.time with now := s.time.now + BitVec.ofNat 64 ofs.toNat, nstep := s.time.nstep + 1, run := 0, slew := false}.locked false := by
  have hcond : (!s.time.measured && decide (0 ≤ ofs) || decide (100000 < ofs)) = true := by simpa using h
  simp only [State.discipline, hcond, if_true, State.setLock_time]
  rfl

theorem State.discipline_slews (h : ofs < -100000) : (s.discipline ofs).time
    = {s.time with run := 0, slew := true, rate := BitVec.ofInt 32 (-rateMax)}.locked false := by
  have hback : (!s.time.measured && decide (0 ≤ ofs) || decide (100000 < ofs)) = false := by
    simp; omega
  simp only [State.discipline, hback, h, decide_true, Bool.true_or, Bool.false_eq_true, if_false, if_true, State.setLock_time]
  rfl

/-- The timebase of a package that a small offset steers: how many measurements in a row were within 1 µs, and a rate the
manual leaves open within ±500 ppm. -/
def State.steered (s : State) (ofs : Int) : Time := {s.time with
  run := if -1000 ≤ ofs ∧ ofs ≤ 1000 then s.time.run + 1 else 0
  slew := false
  rate := BitVec.ofInt 32 ((Config.freeNat s.freeCtr 518 % 1099511627 : Int) - rateMax)}

theorem State.discipline_steers (hmeas : s.time.measured = true) (hlo : -100000 ≤ ofs) (hhi : ofs ≤ 100000)
    (hslew : s.time.slew = false ∨ -1000 ≤ ofs) : (s.discipline ofs).time = (s.steered ofs).locked
      (if ofs < -10000 ∨ 10000 < ofs then false else s.time.tlock || decide (16 ≤ (s.steered ofs).run)) := by
  have hback : (!s.time.measured && decide (0 ≤ ofs) || decide (100000 < ofs)) = false := by
    simp [hmeas, hhi]
  have hahead : (decide (ofs < -100000) || s.time.slew && decide (ofs < -1000)) = false := by
    rcases hslew with h | h <;> simp [h, hlo]
  have hu : s.discipline ofs =
      let u := s.bump.modTime (fun _ => s.steered ofs)
      if ofs < -10000 ∨ 10000 < ofs then u.setLock false else if 16 ≤ (s.steered ofs).run then u.setLock true else u := by
    simp only [State.discipline, hback, hahead, Bool.false_eq_true, if_false, Bool.and_eq_true, Bool.or_eq_true, decide_eq_true_eq]
    rfl
  rw [hu]
  dsimp only
  split
  · exact State.setLock_time _ _
  · split
    next hrun => rw [State.setLock_time, decide_eq_true hrun, Bool.or_true]; rfl
    next hrun => rw [decide_eq_false hrun, Bool.or_false, Time.locked, if_pos (by rfl)]; rfl

end Discipline

/-! ### A measurement (R518) -/

/-- The state a measurement is disciplined in: what was measured is noted, and holdover is over. -/
def State.measuring (s : State) (m : PtpMeas) : State := s.modTime (fun t => { t with
  ofs := BitVec.ofInt 64 m.ofs, delay := m.delay, gm := m.gm, utc := m.utc, hold := false, port := 3 })

theorem execPtpOffsetMeasure_eq (m : PtpMeas) (s : State) : execPtpOffsetMeasure m s =
    .next (((s.measuring m).discipline m.ofs).modTime (fun t => {t with measured := true})) := rfl

/-- A measurement ends holdover and is noted, and `P` holds of the timebase then. -/
def State.MeasuredTo (s : State) (m : PtpMeas) (P : Time → Prop) : Prop :=
  ∃ t, exec (.ptpOffsetMeasure m) s = .next t ∧ P t.time ∧ t.time.hold = false
    ∧ t.time.port = 3 ∧ t.time.measured = true ∧ t.time.gm = m.gm ∧ t.time.delay = m.delay

/-- It is enough to know the disciplined timebase but for its lock. -/
theorem State.measuredTo_of_locked {m : PtpMeas} {s : State} {u : Time} {b : Bool} {P : Time → Prop}
    (htime : ((s.measuring m).discipline m.ofs).time = u.locked b)
    (hu : u.hold = false ∧ u.port = 3 ∧ u.gm = m.gm ∧ u.delay = m.delay) (hP : P {u.locked b with measured := true}) :
    s.MeasuredTo m P := by
  obtain ⟨hhold, hport, hgm, hdelay⟩ := hu
  refine ⟨_, execPtpOffsetMeasure_eq m s, ?_⟩
  rw [State.modTime, htime]
  exact ⟨hP, (Time.locked_hold u b).trans hhold, (Time.locked_port u b).trans hport, rfl,
    (Time.locked_gm u b).trans hgm, (Time.locked_delay u b).trans hdelay⟩

/-- Settles O55: a measurement's outcome is the branch of the discipline its offset takes. -/
theorem timebase : Obligations.Timebase := by
  unfold Obligations.Timebase
  intro who v m rate d s near after
  have hafter : ∀ P, s.MeasuredTo m P → after P := fun _ h => h
  clear_value after
  refine ⟨rfl, fun hwho => ?_, fun h => ?steps, fun h => ?slews, fun hmeas hslew hlo hhi => ?steers,
    fun hmeas hslew hlo hhi => ?ends, rfl, fun h => ?_, fun h => ?_, ?domain⟩
  · cases who with
    | mgd => exact absurd rfl hwho
    | _ => rfl
  case steps =>
    refine hafter _ (State.measuredTo_of_locked (State.discipline_steps (s := s.measuring m) h) ⟨rfl, rfl, rfl, rfl⟩ ?_)
    simp [State.measuring, State.modTime]
  case slews =>
    refine hafter _ (State.measuredTo_of_locked (State.discipline_slews (s := s.measuring m) h) ⟨rfl, rfl, rfl, rfl⟩ ?_)
    simp [State.measuring, State.modTime]
    rfl
  case steers =>
    refine hafter _ (State.measuredTo_of_locked (State.discipline_steers (s := s.measuring m) hmeas hlo hhi (.inl hslew)) ⟨rfl, rfl, rfl, rfl⟩ ?_)
    have hrate := steered_rate_bounds (Config.freeNat s.freeCtr 518)
    refine ⟨Time.locked_now _ _, Time.locked_slew _ _, ?_, ?_, Time.locked_run _ _, ?_⟩
    · exact (congrArg BitVec.toInt (Time.locked_rate _ _)).symm ▸ hrate.1
    · exact (congrArg BitVec.toInt (Time.locked_rate _ _)).symm ▸ hrate.2
    · exact (Time.locked_tlock _ _).trans (steered_lock _ _ _)
  case ends =>
    refine hafter _ (State.measuredTo_of_locked (State.discipline_steers (s := s.measuring m) hmeas (by omega) (by omega) (.inr hlo))
      ⟨rfl, rfl, rfl, rfl⟩ ?_)
    simp [State.steered]
  · simp [execPtpHoldoverLimit, h]
  · refine ⟨s.setLock false, by simp [execPtpHoldoverLimit, h], ?_⟩
    simp [State.setLock_time]
  case domain =>
    refine ⟨_, rfl, ?_⟩
    simp [State.ptpDomain, State.setLock_time, State.modTime]

end Sys2Proof.Machine
end

section

namespace Sys2Proof.Machine

/-! ### Keys revoked (R441) -/

/-- A package whose image runs under key 0, asked to revoke licence key 0, which is key 4 of the commit's value. The
firmware revocations have bits 0 to 3 alone, and bit 4 of them reads 0 whatever is revoked. -/
theorem revokeLicence_fwRevoke : ∃ t, exec (.securityVersionCommit 0x401) {} = .next t
    ∧ t.fuses.fwRevoke.getLsbD 4 = false := ⟨_, rfl, by decide +kernel⟩

/-- Refutes O44: the revocation of a licence key is asked to set the firmware revocation bit of the same number, which
does not exist. -/
theorem not_keysAndVersions : ¬ Obligations.KeysAndVersions := by
  unfold Obligations.KeysAndVersions
  rintro ⟨hcommit, -⟩
  obtain ⟨-, -, hrevoke⟩ := hcommit 0x401 {}
  obtain ⟨t, ht, hfw, -⟩ := hrevoke (by decide) (by decide)
  obtain ⟨u, hu, hclear⟩ := revokeLicence_fwRevoke
  obtain rfl : u = t := Host.Outcome.next.inj (hu.symm.trans ht)
  have hset : u.fuses.fwRevoke.getLsbD 4 = true := (hfw 4).trans (Bool.or_eq_true_iff.2 (.inr (by decide)))
  exact absurd hset (Bool.eq_false_iff.1 hclear)

end Sys2Proof.Machine
end

section

namespace Sys2Proof.Machine

/-! ### Attestation requests (R443–R445) -/

@[simp] theorem Security.chanOf_setChan (c : Security) (ch : Nat) (f : Attest → Attest) :
    (c.setChan ch f).chanOf ch = f (c.chanOf ch) := tget_tmod_self _ _ _ _

theorem Security.left_eq_zero (c : Security) : c.left = 0 ↔ 2 ^ 30 ≤ c.q := Nat.sub_eq_zero_iff_le

/-- The security of a package when a request on channel `ch` ends with `st` before it is signed. -/
def Security.refuse (c : Security) (ch st : Nat) : Security :=
  ({c with waiting := c.waiting.erase ch, ready := c.ready.erase ch}).setChan ch (fun a => {a with req := none, status := st})

/-- The security of a package with a request taken in on channel `ch`. -/
def Security.request (c : Security) (ch : Nat) (req : List Byte) : Security :=
  c.setChan ch (fun a => {a with req := some req, status := 1})

theorem execAttestationRequest_eq {ch : Fin 4} (hch : ch.val ≠ 0) (req : List Byte) (s : State) :
    execAttestationRequest ch req s = .next (s.attestRequest ch.val req) := by
  simp [execAttestationRequest, hch]

section Requested
variable {s : State} {ch : Nat} {req : List Byte}

theorem State.attestRequest_bad (hbad : s.attestOk req = false) : s.attestRequest ch req = s.modSec (·.refuse ch 5) := by
  simp only [State.attestRequest, hbad, Bool.not_false, if_true]
  rfl

variable (hok : s.attestOk req = true)
include hok

theorem State.attestRequest_noneLeft (hnone : 2 ^ 30 ≤ s.sec.q) : s.attestRequest ch req = s.modSec (·.refuse ch 4) := by
  simp only [State.attestRequest, hok, Bool.not_true, Bool.false_eq_true, if_false, s.sec.left_eq_zero.2 hnone, if_true]
  rfl

variable (hleft : ¬ 2 ^ 30 ≤ s.sec.q)
include hleft

/-- A good request while signatures are left. -/
theorem State.attestRequest_good : s.attestRequest ch req =
    if (!(s.sec.waiting.contains ch || s.sec.ready.contains ch) && decide (s.sec.bucket = 0)
        && decide (16 ≤ s.sec.waiting.length)) = true then s.modSec (·.refuse ch 3)
    else s.modSec (fun c =>
      if s.sec.waiting.contains ch || s.sec.ready.contains ch then c.request ch req
      else if s.sec.bucket = 0 then {c.request ch req with waiting := c.waiting ++ [ch]}
      else {c.request ch req with bucket := c.bucket - 1, ready := c.ready ++ [ch]}) := by
  simp only [State.attestRequest, hok, Bool.not_true, Bool.false_eq_true, if_false, mt s.sec.left_eq_zero.1 hleft]
  rfl

theorem State.attestRequest_replaces (hqueued : (s.sec.waiting.contains ch || s.sec.ready.contains ch) = true) :
    s.attestRequest ch req = s.modSec (·.request ch req) := by
  rw [State.attestRequest_good hok hleft]
  simp only [hqueued, Bool.not_true, Bool.false_and, Bool.false_eq_true, if_false, if_true]

variable (hnew : (s.sec.waiting.contains ch || s.sec.ready.contains ch) = false)
include hnew

theorem State.attestRequest_full (hempty : s.sec.bucket = 0) (hfull : 16 ≤ s.sec.waiting.length) :
    s.attestRequest ch req = s.modSec (·.refuse ch 3) := by
  rw [State.attestRequest_good hok hleft]
  simp only [hnew, hempty, hfull, Bool.not_false, decide_true, Bool.and_self, if_true]

theorem State.attestRequest_waits (hempty : s.sec.bucket = 0) (hroom : ¬ 16 ≤ s.sec.waiting.length) :
    s.attestRequest ch req = s.modSec (fun c => {c.request ch req with waiting := c.waiting ++ [ch]}) := by
  rw [State.attestRequest_good hok hleft]
  simp only [hnew, hempty, hroom, decide_false, Bool.and_false, Bool.false_eq_true, if_false, if_true]

theorem State.attestRequest_takes (hsome : s.sec.bucket ≠ 0) : s.attestRequest ch req =
    s.modSec (fun c => {c.request ch req with bucket := c.bucket - 1, ready := c.ready ++ [ch]}) := by
  rw [State.attestRequest_good hok hleft]
  simp only [hnew, hsome, decide_false, Bool.and_false, Bool.false_and, Bool.false_eq_true, if_false]

end Requested

/-- A refused request leaves its status, no request, and the signatures and the bucket as they are. -/
theorem Security.refuse_spec (c : Security) (ch st : Nat) : ((c.refuse ch st).chanOf ch).status = st
    ∧ ((c.refuse ch st).chanOf ch).req = none ∧ (c.refuse ch st).bucket = c.bucket ∧ (c.refuse ch st).q = c.q := by
  rw [Security.refuse, Security.chanOf_setChan]
  exact ⟨rfl, rfl, rfl, rfl⟩

/-! ### Signatures (R443, R444, R446) -/

/-- A request's report: its body with the signature of the next index. -/
def State.signedReport (s : State) (req : List Byte) : List Byte :=
  s.reportBody req ++ fit 0 5396 (Config.lmsSign s.sec.q (s.reportBody req))

section Signed
variable {s : State} {ch : Nat} {rest : List Nat} {req : List Byte}

theorem execAttestationSigned_idle (hnone : s.sec.ready = []) : execAttestationSigned s = .next s := by
  simp [execAttestationSigned, hnone]

variable (hready : s.sec.ready = ch :: rest) (hreq : (s.sec.chanOf ch).req = some req)
include hready hreq

theorem execAttestationSigned_noneLeft (hnone : 2 ^ 30 ≤ s.sec.q) : execAttestationSigned s =
    .next (s.modSec (fun c => ({c with ready := rest}).setChan ch (fun a => {a with req := none, status := 4}))) := by
  simp [execAttestationSigned, hready, hreq, s.sec.left_eq_zero.2 hnone]

variable (hleft : s.sec.q < 2 ^ 30)
include hleft

theorem execAttestationSigned_waits (htree : 32768 * s.sec.trees ≤ s.sec.q) : execAttestationSigned s = .next s := by
  have h0 : s.sec.left ≠ 0 := fun h => absurd (s.sec.left_eq_zero.1 h) (by omega)
  simp [execAttestationSigned, hready, hreq, h0, htree]

theorem execAttestationSigned_signs (htree : s.sec.q < 32768 * s.sec.trees) : execAttestationSigned s =
    .next ((s.modSec (fun c => ({ c with
      q := c.q + 1, ready := rest, signed := (c.signed + 1) % 2 ^ 32,
      lowIdx := c.lowIdx || decide (2 ^ 30 - (c.q + 1) < 2 ^ 20) }).setChan ch
        (fun _ => {req := none, status := 2, report := s.signedReport req}))).emit (.event 2 [ch])) := by
  have h0 : s.sec.left ≠ 0 := fun h => absurd (s.sec.left_eq_zero.1 h) (by omega)
  simp only [execAttestationSigned, hready, hreq, h0, Nat.not_le.2 htree, if_false]
  rfl

end Signed

theorem execSignBucketRefill_fills {s : State} (hnone : s.sec.waiting = []) : execSignBucketRefill s =
    .next (s.modSec (fun c => {c with bucket := min 64 (c.bucket + 1)})) := by
  simp [execSignBucketRefill, State.modSec, hnone]

theorem execSignBucketRefill_serves {s : State} {ch : Nat} {rest : List Nat} (hwait : s.sec.waiting = ch :: rest) :
    execSignBucketRefill s = .next (s.modSec (fun c => {c with waiting := rest, ready := c.ready ++ [ch]})) := by
  simp [execSignBucketRefill, State.modSec, hwait]

theorem execSignTreeBuilt_eq (s : State) : execSignTreeBuilt s =
    .next (s.modSec (fun c => {c with trees := if c.trees ≤ c.q / 32768 + 1 then c.trees + 1 else c.trees})) := by
  unfold execSignTreeBuilt State.modSec
  dsimp only
  split <;> rfl

/-! ### The scrub of a channel (R452) -/

theorem State.epOf_modEp_ne (s : State) {e d : Ep} (f : HostEp → HostEp) (h : d ≠ e) : (s.modEp e f).epOf d = s.epOf d := by
  cases e with
  | ioa => cases d with
    | ioa => exact absurd rfl h
    | iob => rfl
  | iob => cases d with
    | ioa => rfl
    | iob => exact absurd rfl h

/-- The report that is ready on a channel, scrubbed. -/
def State.scrubReport (s : State) (ch : Nat) : State :=
  if (s.sec.chanOf ch).status = 2 then s.modSec (fun c => c.setChan ch (fun a => {a with report := []})) else s

/-- The mailbox answer that is ready at an endpoint, scrubbed. -/
def HostEp.scrubMbox (h : HostEp) : HostEp := if h.mbox.done then {h with mbox := {h.mbox with rsp := []}} else h

theorem State.scrub_eq (s : State) (ch : Nat) : s.scrub ch =
    match chanEp ch with
    | some e => (s.scrubReport ch).modEp e HostEp.scrubMbox
    | none => s.scrubReport ch := rfl

theorem State.scrubReport_sec (s : State) (ch : Nat) :
    ((s.sec.chanOf ch).status = 2 → ((s.scrubReport ch).sec.chanOf ch).report = [])
      ∧ ((s.sec.chanOf ch).status ≠ 2 → s.scrubReport ch = s) := by
  refine ⟨fun h => ?_, fun h => if_neg h⟩
  simp [State.scrubReport, h, State.modSec]

theorem State.scrubReport_frame (s : State) (ch : Nat) : (∀ e, (s.scrubReport ch).epOf e = s.epOf e)
    ∧ (s.scrubReport ch).boot = s.boot ∧ (s.scrubReport ch).cask = s.cask := by
  unfold State.scrubReport
  split
  · exact ⟨fun e => by cases e <;> rfl, rfl, rfl⟩
  · exact ⟨fun _ => rfl, rfl, rfl⟩

theorem State.scrub_spec (s : State) (ch : Nat) :
    (s.scrub ch).sec = (s.scrubReport ch).sec
    ∧ (∀ e, chanEp ch = some e → (s.scrub ch).epOf e = (s.epOf e).scrubMbox)
    ∧ (∀ e, chanEp ch ≠ some e → (s.scrub ch).epOf e = s.epOf e)
    ∧ (s.scrub ch).boot = s.boot ∧ (s.scrub ch).cask = s.cask := by
  obtain ⟨hep, hboot, hcask⟩ := s.scrubReport_frame ch
  rw [s.scrub_eq ch]
  cases hch : chanEp ch with
  | none => exact ⟨rfl, fun e h => (nomatch h), fun e _ => hep e, hboot, hcask⟩
  | some d =>
    have hports := (s.scrubReport ch).modEp_ports d HostEp.scrubMbox
    refine ⟨hports.sec, ?_, fun e he => ?_, hports.boot.trans hboot, hports.cask.trans hcask⟩
    · rintro e ⟨rfl⟩
      exact (State.epOf_modEp _ _ _).trans (congrArg _ (hep _))
    · exact (State.epOf_modEp_ne _ _ (fun h => he (congrArg some h.symm))).trans (hep e)

/-- Settles O45: the branches of a request, of a signature and of the scrub. -/
theorem attestation : Obligations.Attestation := by
  unfold Obligations.Attestation
  refine ⟨fun ch req s hch => ?requests, fun ch rest req s => ?signatures, fun ch s => ?scrub⟩
  case requests =>
    simp only [exec_attestationRequest, execAttestationRequest_eq hch]
    refine ⟨fun h => ⟨_, rfl, ?_⟩, fun hok hleft hqueued => ?_, fun hok hleft hnew hempty hroom => ?_,
      fun hok hleft hnew hsome => ?_⟩
    · by_cases hok : s.attestOk req = true
      · by_cases hnone : 2 ^ 30 ≤ s.sec.q
        · rw [State.attestRequest_noneLeft hok hnone, if_neg (by simp [hok]), if_pos hnone]
          exact s.sec.refuse_spec ch.val 4
        · obtain h | h | ⟨hnew, hempty, hfull⟩ := h
          · exact absurd hok (by simp [h])
          · exact absurd h hnone
          · rw [State.attestRequest_full hok hnone hnew hempty hfull, if_neg (by simp [hok]), if_neg hnone]
            exact s.sec.refuse_spec ch.val 3
      · have hbad := Bool.eq_false_iff.2 hok
        rw [State.attestRequest_bad hbad, if_pos hbad]
        exact s.sec.refuse_spec ch.val 5
    · rw [State.attestRequest_replaces hok hleft hqueued]; rfl
    · rw [State.attestRequest_waits hok hleft hnew hempty hroom]; rfl
    · rw [State.attestRequest_takes hok hleft hnew hsome]; rfl
  case signatures =>
    refine ⟨execAttestationSigned_idle, fun hready hreq => ⟨fun hnone => ?_, fun hleft htree => ?_, fun hleft htree => ?_⟩,
      execSignBucketRefill_fills, execSignBucketRefill_serves, execSignTreeBuilt_eq s⟩
    · exact ⟨_, execAttestationSigned_noneLeft hready hreq hnone, rfl, rfl,
        (congrArg Attest.status (Security.chanOf_setChan _ _ _) :)⟩
    · exact execAttestationSigned_waits hready hreq hleft htree
    · exact ⟨_, execAttestationSigned_signs hready hreq hleft htree, rfl, rfl, rfl, rfl,
        (congrArg Attest.status (Security.chanOf_setChan _ _ _) :), (congrArg Attest.req (Security.chanOf_setChan _ _ _) :),
        (congrArg Attest.report (Security.chanOf_setChan _ _ _) :), List.mem_cons_self⟩
  case scrub =>
    obtain ⟨hsec, hep, hother, hboot, hcask⟩ := s.scrub_spec ch.val
    obtain ⟨hdone, hidle⟩ := s.scrubReport_sec ch.val
    exact ⟨_, rfl, fun h => by rw [hsec]; exact hdone h, fun h => by rw [hsec, hidle h], hep, hother, hboot, hcask⟩

end Sys2Proof.Machine
end

section

namespace Sys2Proof.Machine

/-! ### What a power-on reset keeps and clears (R458, R465, R585, R586) -/

/-- What lasts: fuses, the non-volatile store, the signature indexes, the failovers, and the commands in and out. -/
abbrev State.Lasts (s t : State) : Prop :=
  t.fuses = s.fuses ∧ t.boot.nvImage = s.boot.nvImage ∧ t.boot.nvLicence = s.boot.nvLicence
    ∧ t.boot.cert = s.boot.cert ∧ t.boot.lseq = s.boot.lseq ∧ t.sec.q = s.sec.q ∧ t.sec.signed = s.sec.signed
    ∧ t.twin.failovers = s.twin.failovers ∧ t.out = s.out ∧ t.pending = s.pending

/-- What is cleared. -/
abbrev State.Cleared (t : State) : Prop :=
  t.hub = {} ∧ t.bar = [] ∧ t.sec.chan = [] ∧ t.sec.slot = [] ∧ t.boot.ready = false
    ∧ t.boot.cooper = false ∧ t.boot.recovery = false ∧ t.boot.gen = 0 ∧ t.time.now = 0 ∧ t.avail.log = []

theorem Twin.lasting_failovers (t : Twin) (rest : Bool) : (t.lasting rest).failovers = t.failovers := by
  cases rest <;> rfl
theorem Time.lasting_now (t : Time) (rest : Bool) : (t.lasting rest).now = 0 := by
  cases rest <;> rfl

theorem State.powerReset_lasts (s : State) (por : Bool) : s.Lasts (s.powerReset por) :=
  ⟨rfl, rfl, rfl, rfl, rfl, rfl, rfl, s.twin.lasting_failovers _, rfl, rfl⟩
theorem State.powerReset_cleared (s : State) (por : Bool) : (s.powerReset por).Cleared :=
  ⟨rfl, rfl, rfl, rfl, rfl, rfl, rfl, rfl, s.time.lasting_now _, rfl⟩

/-! ### The bring-up begins (R462, R465) -/

/-- The package in reset, the straps sampled, the internal reset as it was. -/
def State.sampled (s : State) (p : Straps) : State :=
  let t := s.powerReset false
  {t with power := {t.power with held := s.power.held, strap := BitVec.ofNat 64 (strapWord p)}}

theorem execPowerOnReset_high {s : State} (h : s.power.porLow = false) (p : Straps) : execPowerOnReset p s = .next s := by
  simp [execPowerOnReset, h]

theorem execPowerOnReset_low {s : State} (h : s.power.porLow = true) (p : Straps) :
    execPowerOnReset p s = .next (if s.power.held then s.sampled p else (s.sampled p).coldStart 1) := by
  simp only [execPowerOnReset, h, Bool.not_true, Bool.false_eq_true, if_false]
  rfl

theorem execCooperWatchdogExpire_idle {s : State} (h : s.bringing = false) : execCooperWatchdogExpire s = .next s := by
  simp [execCooperWatchdogExpire, h]

theorem execCooperWatchdogExpire_bringing {s : State} (h : s.bringing = true) : execCooperWatchdogExpire s =
    .next (((s.powerReset false).coldStart 1).modBoot (fun b => {b with wdog := s.boot.wdog + 1})) := by
  simp [execCooperWatchdogExpire, h]

theorem execInternalResetRelease_free {s : State} (h : s.power.held = false) : execInternalResetRelease s = .next s := by
  simp [execInternalResetRelease, h]

theorem execInternalResetRelease_held {s : State} (h : s.power.held = true) :
    let u : State := {s with power := {s.power with held := false}}
    execInternalResetRelease s = .next (if s.power.porLow then u else u.coldStart 1) := by
  simp only [execInternalResetRelease, h, if_true]

/-- Settles O46: every way into the reset is `powerReset`, and every way out `coldStart`. -/
theorem powerOn : Obligations.PowerOn := by
  unfold Obligations.PowerOn
  intro p s lasts cleared
  have hlasts := s.powerReset_lasts
  have hcleared := s.powerReset_cleared
  refine ⟨⟨_, rfl, hlasts true, hcleared true, rfl, rfl, rfl⟩, fun h => execPowerOnReset_high h p, fun h => ?rises,
    execCooperWatchdogExpire_idle,
    fun h => ⟨_, execCooperWatchdogExpire_bringing h, hlasts false, hcleared false, rfl, rfl, rfl⟩,
    execInternalResetRelease_free, fun h => ?released⟩
  case rises =>
    refine ⟨_, execPowerOnReset_low h p, ?_⟩
    cases hheld : s.power.held with
    | true => exact ⟨hlasts false, hcleared false, rfl, hheld, rfl, rfl, rfl, rfl⟩
    | false => exact ⟨hlasts false, hcleared false, rfl, hheld, rfl, rfl, rfl, rfl⟩
  case released =>
    refine ⟨_, execInternalResetRelease_held h, ?_⟩
    cases hlow : s.power.porLow with
    | true => exact ⟨rfl, fun _ => rfl, fun hhigh => (nomatch hhigh)⟩
    | false => exact ⟨rfl, fun hhigh => (nomatch hhigh), fun _ => rfl⟩

end Sys2Proof.Machine
end

section

namespace Sys2Proof.Machine

/-! ### A hand-over that waits for a push (R477, R548, R564) -/

/-- A push of 256 B under tag 0 that has not been acknowledged. -/
def openPush : Push := ⟨0, false, 0, 0, 256, 0, 0, false, 0⟩

/-- A leader that hands over for a fault, no slice active any more, with a push outstanding. The end of the push lets its
FAILOVER go, and its role with it. -/
def handingOver : State := {twin := {role := 1, switching := some 2, push := [openPush]}}

theorem handingOver_warmLeft_role : handingOver.bump.warmLeft.twin.role = 0 := by decide +kernel

/-- Refutes O49: a warm reset ends the pushes outstanding with LOST, and where a hand-over waits for them the role does not
stay. -/
theorem not_warmResets : ¬ Obligations.WarmResets := by
  unfold Obligations.WarmResets
  intro h
  obtain ⟨-, -, -, -, -, -, -, -, -, -, -, -, -, -, -, -, hrole, -⟩ := h {} handingOver
  rw [handingOver_warmLeft_role] at hrole
  exact absurd hrole (by decide)

end Sys2Proof.Machine
end

section

namespace Sys2Proof.Machine

/-! ### A command given to a block (R379) -/

section CmdGo
variable {s u : State} {b op idx : Nat} {f : Word → State → CmdRes × State}

theorem State.cmdGo_busy (hbusy : (s.cmdOf b).busy = true) :
    s.cmdGo b op idx f = s.modHub (fun h => {h with cmdDisc := h.cmdDisc + 1}) := by
  simp [State.cmdGo, hbusy]

variable (hidle : (s.cmdOf b).busy = false)
include hidle

theorem State.cmdGo_ends {c : Code} (hf : f (s.cmdOf b).arg0 (s.cmdStart b op idx) = (.ends c, u)) :
    s.cmdGo b op idx f = u.cmdEnd b (codeNum c) := by
  simp [State.cmdGo, hidle, hf]

theorem State.cmdGo_goes (hf : f (s.cmdOf b).arg0 (s.cmdStart b op idx) = (.goes, u)) : s.cmdGo b op idx f = u := by
  simp [State.cmdGo, hidle, hf]

end CmdGo

/-! A block's start and end change the block alone. -/

section Block
variable (s : State) (b op idx code n : Nat)
@[simp] theorem State.ctxOf_cmdStart : (s.cmdStart b op idx).ctxOf n = s.ctxOf n := rfl
@[simp] theorem State.queueOf_cmdStart : (s.cmdStart b op idx).queueOf n = s.queueOf n := rfl
@[simp] theorem State.fenceOf_cmdStart : (s.cmdStart b op idx).fenceOf n = s.fenceOf n := rfl
@[simp] theorem State.sliceOf_cmdStart : (s.cmdStart b op idx).sliceOf n = s.sliceOf n := rfl
@[simp] theorem State.sliceFrozen_cmdStart : (s.cmdStart b op idx).sliceFrozen n = s.sliceFrozen n := rfl
@[simp] theorem State.badSites_cmdStart (m : BitVec 16) : (s.cmdStart b op idx).badSites m = s.badSites m := rfl
@[simp] theorem State.fenceWaited_cmdStart : (s.cmdStart b op idx).fenceWaited n = s.fenceWaited n := rfl
@[simp] theorem State.ctxOf_cmdEnd : (s.cmdEnd b code).ctxOf n = s.ctxOf n := rfl
@[simp] theorem State.fenceOf_cmdEnd : (s.cmdEnd b code).fenceOf n = s.fenceOf n := rfl
theorem State.cmdOf_cmdEnd : (s.cmdEnd b code).cmdOf b =
    {s.cmdOf b with busy := false, code := BitVec.ofNat 8 code, cur := none} := by
  rw [State.cmdOf, State.cmdEnd, State.modHub, tget_tmod_self]
  rfl
theorem State.cmdOf_cmdEnd_busy : ((s.cmdEnd b code).cmdOf b).busy = false :=
  (congrArg CmdBlk.busy (s.cmdOf_cmdEnd b code) :)
theorem State.cmdOf_cmdEnd_code : ((s.cmdEnd b code).cmdOf b).code = BitVec.ofNat 8 code :=
  (congrArg CmdBlk.code (s.cmdOf_cmdEnd b code) :)
end Block

/-! ### Contexts (R363–R365) -/

section Contexts
variable {s : State} {x : Nat} {b : Fin 4}

/-- The fields of a context are legal (R363). -/
abbrev State.CtxLegal (s : State) (x : Nat) : Prop :=
  (s.ctxOf x).smask ≠ 0 ∧ s.badSites (s.ctxOf x).smask = false ∧ saveAreaOk (s.ctxOf x).sbase.toNat = true

/-- A context as CTXCREATE makes it LIVE at a time. -/
def Ctx.created (c : Ctx) (now : Nat) : Ctx := { c with
  state := .live, cause := 0, nload := 0, npre := 0, tchg := BitVec.ofNat 64 now, idle := false, quantum := false, barIn := 0 }

theorem State.ctxCreate_badArg (h : ¬ s.CtxLegal x) (arg : Word) : State.ctxCreate x arg s = (.ends .badArg, s) := by
  have hbad : (decide ((s.ctxOf x).smask = 0) || s.badSites (s.ctxOf x).smask || !saveAreaOk (s.ctxOf x).sbase.toNat) = true := by
    by_contra hgood
    exact h (by simpa [State.CtxLegal, and_assoc] using hgood)
  rw [State.ctxCreate, if_pos hbad]

theorem State.ctxCreate_legal (h : s.CtxLegal x) (arg : Word) : State.ctxCreate x arg s =
    if (s.ctxOf x).state ≠ .free || (s.sliceOf (s.ctxOf x).slice.val).state ≠ .active then (.ends .badState, s)
    else (.ends .ok, if arg.getLsbD 0 then (s.modCtx x (·.created s.now)).wantNow x else s.modCtx x (·.created s.now)) := by
  obtain ⟨hmask, hsites, harea⟩ := h
  simp only [State.ctxCreate, hmask, hsites, harea, decide_false, Bool.or_self, Bool.not_true, Bool.false_eq_true, if_false]
  rfl

theorem State.ctxCreate_badState (h : s.CtxLegal x)
    (hst : (s.ctxOf x).state ≠ .free ∨ (s.sliceOf (s.ctxOf x).slice.val).state ≠ .active) (arg : Word) :
    State.ctxCreate x arg s = (.ends .badState, s) := by
  rw [State.ctxCreate_legal h, if_pos (by simpa using hst)]

theorem State.ctxCreate_ok (h : s.CtxLegal x) (hfree : (s.ctxOf x).state = .free)
    (hact : (s.sliceOf (s.ctxOf x).slice.val).state = .active) (arg : Word) : State.ctxCreate x arg s = (.ends .ok,
      if arg.getLsbD 0 then (s.modCtx x (·.created s.now)).wantNow x else s.modCtx x (·.created s.now)) := by
  rw [State.ctxCreate_legal h, if_neg (by simp [hfree, hact])]

/-- A context that comes to wait for a position: what it wants then. -/
def State.wantOf (s : State) (c : Ctx) : Option Nat :=
  if c.state = .live && c.want.isNone && (c.pos.isNone || c.saving.isSome) then some s.hub.wantSeq else c.want

theorem State.ctxOf_wantNow (s : State) (x : Nat) :
    (s.wantNow x).ctxOf x = {s.ctxOf x with want := s.wantOf (s.ctxOf x)} := by
  unfold State.wantNow State.wantOf
  dsimp only
  split
  · exact (s.ctxOf_modCtx x (fun c => {c with want := some s.hub.wantSeq}) :)
  · rfl

theorem State.ctxDestroy_goes (hst : (s.ctxOf x).state = .live ∨ (s.ctxOf x).state = .lost)
    (hfrozen : s.sliceFrozen (s.ctxOf x).slice.val = false) :
    s.ctxDestroy b x = (.goes, s.abortBegin x .free (some b)) := by
  refine if_neg ?_
  rcases hst with h | h <;> simp [h, hfrozen]

theorem State.ctxDestroy_badState (hst : ((s.ctxOf x).state ≠ .live ∧ (s.ctxOf x).state ≠ .lost)
    ∨ s.sliceFrozen (s.ctxOf x).slice.val = true) : s.ctxDestroy b x = (.ends .badState, s) :=
  if_pos (by simpa using hst)

theorem State.ctxAbort_goes (hst : (s.ctxOf x).state = .live) (hfrozen : s.sliceFrozen (s.ctxOf x).slice.val = false) :
    s.ctxAbort b x = (.goes, (s.logEvent 2 dieHub 0x2A00 x 1).abortBegin x (.lost .abort) (some b)) :=
  if_neg (by simp [hst, hfrozen])

theorem State.ctxAbort_badState (hst : (s.ctxOf x).state ≠ .live ∨ s.sliceFrozen (s.ctxOf x).slice.val = true) :
    s.ctxAbort b x = (.ends .badState, s) :=
  if_pos (by simpa using hst)

theorem State.ctxPreempt_goes {p : CoreId} (hst : (s.ctxOf x).state = .live) (hpos : (s.ctxOf x).pos = some p)
    (hsave : (s.ctxOf x).saving = none) : s.ctxPreempt b x = (.goes, s.saveBegin p x (.command b)) := by
  simp [State.ctxPreempt, hst, hpos, hsave]

theorem State.ctxPreempt_badState (hst : (s.ctxOf x).state ≠ .live ∨ (s.ctxOf x).pos = none) :
    s.ctxPreempt b x = (.ends .badState, s) := by
  unfold State.ctxPreempt
  dsimp only
  rcases hst with h | h
  · split
    next hlive _ => exact absurd hlive h
    next => rfl
  · simp only [h]
    split
    next hpos => exact absurd hpos (by simp)
    next => rfl

end Contexts

/-! ### Queues (R369, R370, R373) -/

section Queues
variable {s : State} {q : Nat} {b : Fin 4}

/-- The fields of a queue are legal (R369). -/
abbrev Queue.Legal (u : Queue) : Prop :=
  (u.kind = 1 ∨ u.kind = 2) ∧ u.lgn.toNat ≤ 12 ∧ u.rbase.toNat % 64 = 0 ∧ u.sline.toNat % 64 = 0
    ∧ (u.kind = 1 → u.cbase.toNat % 32 = 0)

theorem State.qEnable_badArg (h : ¬ (s.queueOf q).Legal) : s.qEnable q = (.ends .badArg, s) := by
  refine if_pos ?_
  by_contra hgood
  simp only [Bool.or_eq_true, Bool.and_eq_true, decide_eq_true_eq, not_or, not_and, not_not, not_lt] at hgood
  obtain ⟨⟨⟨⟨hkind, hlgn⟩, hring⟩, hline⟩, hbase⟩ := hgood
  exact h ⟨or_iff_not_imp_left.2 hkind, hlgn, hring, hline, hbase⟩

theorem State.qEnable_legal (h : (s.queueOf q).Legal) : s.qEnable q =
    if (s.queueOf q).state ≠ .off || (s.ctxOf (s.queueOf q).ctx.val).state ≠ .live then (.ends .badState, s)
    else (.ends .ok, (s.modQueue q (fun u => { u with
      head := 0, tail := 0, fetched := 0, failed := 0, state := .on, err := 0, stalled := false, lineDue := false,
      frozenDb := 0 })).statusLine q) := by
  obtain ⟨hkind, hlgn, hring, hline, hbase⟩ := h
  refine if_neg ?_
  simp only [Bool.or_eq_true, Bool.and_eq_true, decide_eq_true_eq, not_or, not_and, not_not, not_lt]
  exact ⟨⟨⟨⟨or_iff_not_imp_left.1 hkind, hlgn⟩, hring⟩, hline⟩, hbase⟩

theorem State.qEnable_badState (h : (s.queueOf q).Legal)
    (hst : (s.queueOf q).state ≠ .off ∨ (s.ctxOf (s.queueOf q).ctx.val).state ≠ .live) :
    s.qEnable q = (.ends .badState, s) := by
  rw [State.qEnable_legal h, if_pos (by simpa using hst)]

theorem State.qEnable_ok (h : (s.queueOf q).Legal) (hoff : (s.queueOf q).state = .off)
    (hlive : (s.ctxOf (s.queueOf q).ctx.val).state = .live) : s.qEnable q =
    (.ends .ok, (s.modQueue q (fun u => { u with
      head := 0, tail := 0, fetched := 0, failed := 0, state := .on, err := 0, stalled := false, lineDue := false,
      frozenDb := 0 })).statusLine q) := by
  rw [State.qEnable_legal h, if_neg (by simp [hoff, hlive])]

theorem State.qDisable_goes (hst : (s.queueOf q).state = .on ∨ (s.queueOf q).state = .error) : s.qDisable b q =
    (.goes, (((s.modQueue q (fun u => {u with state := .drain, drainBlk := some b})).modHub
      (fun h => {h with desc := h.desc.filter (fun d => !(d.queue = some q && d.st = .queued))})).statusLine q).drainEnd q) := by
  refine if_neg ?_
  rcases hst with h | h <;> simp [h]

theorem State.qDisable_badState (hon : (s.queueOf q).state ≠ .on) (herr : (s.queueOf q).state ≠ .error) :
    s.qDisable b q = (.ends .badState, s) :=
  if_pos (by simp [hon, herr])

theorem State.qResume_ok (hst : (s.queueOf q).state = .error) (herr : (s.queueOf q).err = 1) : s.qResume q =
    (.ends .ok, (s.modQueue q (fun u => { u with
      state := .on, err := 0, head := u.head + BitVec.ofNat 32 u.failed, failed := 0 })).statusLine q) :=
  if_neg (by simp [hst, herr])

theorem State.qResume_badState (hst : (s.queueOf q).state ≠ .error ∨ (s.queueOf q).err ≠ 1) :
    s.qResume q = (.ends .badState, s) :=
  if_pos (by simpa using hst)

end Queues

/-! ### Fences (R375–R378) -/

section Fences
variable {s : State} {f : Nat}

/-- Threads woken and an event raised change nothing of a fence but that its event is no longer due. -/
theorem State.fenceOf_wake_event (s : State) (f : Nat) :
    ∃ due, ((s.fenceWake f).fenceEvent f).fenceOf f = {s.fenceOf f with evn := due} := by
  have hwake : (s.fenceWake f).fenceOf f = s.fenceOf f := rfl
  unfold State.fenceEvent
  dsimp only
  split
  · refine ⟨false, ?_⟩
    have hhub := (State.raiseSlice_ports ((s.fenceWake f).modFence f (fun o => {o with evn := false}))
      ((s.fenceWake f).fenceOf f).slice.val ((s.fenceWake f).fenceOf f).evec.val).hub
    rw [State.fenceOf, hhub]
    exact (State.fenceOf_modFence _ f _).trans (by rw [hwake])
  · exact ⟨_, hwake⟩

theorem State.fArm_range {v : Word} (h : fenceReserved v = true) : State.fArm f v s = (.ends .range, s) := if_pos h

theorem State.fArm_badState {v : Word} (h : fenceReserved v = false) (harm : (s.fenceOf f).armed = true)
    (haband : (s.fenceOf f).aband = false) : State.fArm f v s = (.ends .badState, s) := by
  simp [State.fArm, h, harm, haband]

theorem State.fArm_ok {v : Word} (h : fenceReserved v = false)
    (hst : (s.fenceOf f).armed = false ∨ (s.fenceOf f).aband = true) : State.fArm f v s = (.ends .ok,
      ((s.modFence f (fun o => {o with value := v, armed := true, aband := false})).fenceWake f).fenceEvent f) := by
  rcases hst with hst | hst <;> simp [State.fArm, h, hst]

theorem State.fAbandon_ok (h : (s.fenceOf f).armed = true) : s.fAbandon f = (.ends .ok, s.fenceAbandon f) := if_pos h
theorem State.fAbandon_badState (h : (s.fenceOf f).armed = false) : s.fAbandon f = (.ends .badState, s) :=
  if_neg (by simp [h])

theorem State.fenceAbandon_aband (s : State) (f : Nat) : ((s.fenceAbandon f).fenceOf f).aband = true := by
  obtain ⟨due, h⟩ := (s.modFence f (fun o => {o with aband := true})).fenceOf_wake_event f
  rw [State.fenceAbandon, h, State.fenceOf_modFence]

theorem State.fDisarm_badState (haband : (s.fenceOf f).aband = false) (hwait : s.fenceWaited f = true) :
    s.fDisarm f = (.ends .badState, s) :=
  if_pos (by simp [haband, hwait])
theorem State.fDisarm_ok (h : (s.fenceOf f).aband = true ∨ s.fenceWaited f = false) :
    s.fDisarm f = (.ends .ok, s.modFence f (fun o => {o with armed := false, pen := false})) := by
  refine if_neg ?_
  rcases h with h | h <;> simp [h]

end Fences

section Commands
variable (b : Fin 4) (s : State)

/-- A command that ends at once, whatever command it is. -/
theorem State.cmdGo_next_ends (op idx : Nat) (f : Word → State → CmdRes × State) {u : State} {c : Code}
    (hidle : (s.cmdOf b.val).busy = false) (hf : f (s.cmdOf b.val).arg0 (s.cmdStart b.val op idx) = (.ends c, u)) :
    (.next (s.cmdGo b.val op idx f) : Res) = .next (u.cmdEnd b.val (codeNum c)) := congrArg _ (State.cmdGo_ends hidle hf)

/-- A command that goes on. -/
theorem State.cmdGo_next_goes (op idx : Nat) (f : Word → State → CmdRes × State) {u : State}
    (hidle : (s.cmdOf b.val).busy = false) (hf : f (s.cmdOf b.val).arg0 (s.cmdStart b.val op idx) = (.goes, u)) :
    (.next (s.cmdGo b.val op idx f) : Res) = .next u := congrArg _ (State.cmdGo_goes hidle hf)

/-- Every command of the blocks goes by `cmdGo`. -/
theorem exec_cmdRows_busy (x : CtxId) (q : QId) (f : FenceId) (hbusy : (s.cmdOf b.val).busy = true) :
    ∀ i ∈ cmdRows b x q f, exec i s = .next (s.modHub (fun h => {h with cmdDisc := h.cmdDisc + 1})) := by
  simp only [cmdRows, List.forall_mem_cons]
  refine ⟨?_, ?_, ?_, ?_, ?_, ?_, ?_, ?_, ?_, ?_, ?_, List.forall_mem_nil _⟩
  all_goals exact congrArg Host.Outcome.next (State.cmdGo_busy hbusy)

/-- A context created: LIVE, its counts cleared, and wanting a position where that was asked for. -/
theorem ctxcreate_creates {x : CtxId} (hidle : (s.cmdOf b.val).busy = false) (hlegal : s.CtxLegal x.val)
    (hfree : (s.ctxOf x.val).state = .free) (hact : (s.sliceOf (s.ctxOf x.val).slice.val).state = .active) :
    ∃ t, exec (.ctxcreate b x) s = .next t
      ∧ (t.ctxOf x.val).state = .live ∧ (t.ctxOf x.val).cause = 0 ∧ (t.ctxOf x.val).nload = 0 ∧ (t.ctxOf x.val).npre = 0
      ∧ ((s.cmdOf b.val).arg0.getLsbD 0 = true → (s.ctxOf x.val).want = none → (s.ctxOf x.val).pos = none →
        (t.ctxOf x.val).want = some s.hub.wantSeq)
      ∧ (t.cmdOf b.val).busy = false ∧ (t.cmdOf b.val).code = 0 := by
  refine ⟨_, State.cmdGo_next_ends b s 1 x.val (State.ctxCreate x.val) hidle (State.ctxCreate_ok (s := s.cmdStart b.val 1 x.val) hlegal hfree hact _), ?_⟩
  rw [State.ctxOf_cmdEnd, State.cmdOf_cmdEnd_busy, State.cmdOf_cmdEnd_code]
  have hmod := (s.cmdStart b.val 1 x.val).ctxOf_modCtx x.val (·.created (s.cmdStart b.val 1 x.val).now)
  cases hwant : (s.cmdOf b.val).arg0.getLsbD 0 with
  | false =>
    rw [if_neg (by simp)]
    exact hmod ▸ ⟨rfl, rfl, rfl, rfl, fun h => (nomatch h), rfl, rfl⟩
  | true =>
    rw [if_pos rfl, State.ctxOf_wantNow, hmod]
    refine ⟨rfl, rfl, rfl, rfl, fun _ hwant hpos => ?_, rfl, rfl⟩
    rw [State.wantOf, if_pos (by simp [Ctx.created, hwant, hpos])]
    rfl

end Commands

/-- Settles O40: each command is `cmdGo` of its own rule. -/
theorem machineryCommands : Obligations.MachineryCommands := by
  unfold Obligations.MachineryCommands
  refine ⟨fun b x q f s => ⟨exec_cmdRows_busy b s x q f, fun hidle => ?contexts⟩, fun b q s hidle => ?queues,
    fun b f s hidle => ?fences⟩
  case contexts =>
    have ends := fun op f {u c} => State.cmdGo_next_ends b s op x.val f (u := u) (c := c) hidle
    have goes := fun op f {u} => State.cmdGo_next_goes b s op x.val f (u := u) hidle
    exact ⟨fun h => (ends 1 (State.ctxCreate x.val) (State.ctxCreate_badArg (s := s.cmdStart b.val 1 x.val) h _) :),
      fun h hst => (ends 1 (State.ctxCreate x.val) (State.ctxCreate_badState (s := s.cmdStart b.val 1 x.val) h hst _) :),
      ctxcreate_creates b s hidle,
      fun hst hfrozen => (goes 2 (fun _ s => s.ctxDestroy b x.val) (State.ctxDestroy_goes hst hfrozen) :),
      fun h => (ends 2 (fun _ s => s.ctxDestroy b x.val) (State.ctxDestroy_badState h) :),
      fun hst hfrozen => (goes 3 (fun _ s => s.ctxAbort b x.val) (State.ctxAbort_goes hst hfrozen) :),
      fun h => (ends 3 (fun _ s => s.ctxAbort b x.val) (State.ctxAbort_badState h) :),
      fun p hst hpos hsave => (goes 4 (fun _ s => s.ctxPreempt b x.val) (State.ctxPreempt_goes hst hpos hsave) :),
      fun h => (ends 4 (fun _ s => s.ctxPreempt b x.val) (State.ctxPreempt_badState h) :)⟩
  case queues =>
    have ends := fun op f {u c} => State.cmdGo_next_ends b s op q.val f (u := u) (c := c) hidle
    have goes := fun op f {u} => State.cmdGo_next_goes b s op q.val f (u := u) hidle
    exact ⟨fun h => (ends 5 (fun _ s => s.qEnable q.val) (State.qEnable_badArg h) :),
      fun h hst => (ends 5 (fun _ s => s.qEnable q.val) (State.qEnable_badState h hst) :),
      fun h hoff hlive => (ends 5 (fun _ s => s.qEnable q.val) (State.qEnable_ok h hoff hlive) :),
      fun h => (goes 6 (fun _ s => s.qDisable b q.val) (State.qDisable_goes h) :),
      fun hon herr => (ends 6 (fun _ s => s.qDisable b q.val) (State.qDisable_badState hon herr) :),
      fun hst herr => (ends 7 (fun _ s => s.qResume q.val) (State.qResume_ok hst herr) :),
      fun h => (ends 7 (fun _ s => s.qResume q.val) (State.qResume_badState h) :)⟩
  case fences =>
    have ends := fun op g {u c} => State.cmdGo_next_ends b s op f.val g (u := u) (c := c) hidle
    refine ⟨fun h => (ends 8 (State.fArm f.val) (State.fArm_range h) :),
      fun h harm haband => (ends 8 (State.fArm f.val) (State.fArm_badState h harm haband) :),
      fun h hst => ⟨_, (ends 8 (State.fArm f.val) (State.fArm_ok h hst) :), ?_⟩, ?_,
      fun h => ⟨(ends 10 (fun _ s => s.fAbandon f.val) (State.fAbandon_ok h) :), State.fenceAbandon_aband _ _⟩,
      fun h => (ends 10 (fun _ s => s.fAbandon f.val) (State.fAbandon_badState h) :),
      fun haband hwait => (ends 11 (fun _ s => s.fDisarm f.val) (State.fDisarm_badState haband hwait) :),
      fun h => (ends 11 (fun _ s => s.fDisarm f.val) (State.fDisarm_ok h) :)⟩
    · rw [State.fenceOf_cmdEnd, State.cmdOf_cmdEnd_busy, State.cmdOf_cmdEnd_code]
      obtain ⟨due, hfence⟩ := State.fenceOf_wake_event ((s.cmdStart b.val 8 f.val).modFence f.val
        (fun o => {o with value := (s.cmdOf b.val).arg0, armed := true, aband := false})) f.val
      rw [hfence, State.fenceOf_modFence]
      exact ⟨rfl, rfl, rfl, rfl, rfl⟩
    · cases hres : fenceReserved (s.cmdOf b.val).arg0 <;>
        simp [execFsignal, State.cmdGo, hidle, hres, codeNum]

end Sys2Proof.Machine
end

section

namespace Sys2Proof.Machine

/-! ### What travels: packets, frames and what the gates gather of them -/

/-- Two states that differ at most in the trellis, the die links, the gates and the messages sent. -/
def NetOnly (s t : State) : Prop := {t with out := s.out, trellis := s.trellis, link := s.link, gate := s.gate} = s

namespace NetOnly

variable {s t u : State}

theorem refl (s : State) : NetOnly s s := rfl

theorem trans (hst : NetOnly s t) (htu : NetOnly t u) : NetOnly s u := by
  unfold NetOnly at *
  rw [← hst, ← htu]

theorem foldl {α : Type} {f : State → α → State} (hf : ∀ s a, NetOnly s (f s a)) (l : List α) (hst : NetOnly s t) :
    NetOnly s (l.foldl f t) := by
  induction l generalizing t with
  | nil => exact hst
  | cons a l ih => exact ih (hst.trans (hf t a))

section Parts
variable (h : NetOnly s t)
include h
theorem pending : t.pending = s.pending := by rw [← show _ = s from h]
theorem hub : t.hub = s.hub := by rw [← show _ = s from h]
theorem obs : t.obs = s.obs := by rw [← show _ = s from h]
theorem sec : t.sec = s.sec := by rw [← show _ = s from h]
theorem time : t.time = s.time := by rw [← show _ = s from h]
end Parts

end NetOnly

theorem State.emit_netOnly (s : State) (m : Msg) : NetOnly s (s.emit m) := rfl
theorem State.modTrellis_netOnly (s : State) (f : Trellis → Trellis) : NetOnly s (s.modTrellis f) := rfl
theorem State.modNi_netOnly (s : State) (n : Nat) (f : Ni → Ni) : NetOnly s (s.modNi n f) := rfl
theorem State.setCls_netOnly (s : State) (n c : Nat) (v : NiCls) : NetOnly s (s.setCls n c v) := rfl
theorem State.modGate_netOnly (s : State) (x : Nat) (f : Gate → Gate) : NetOnly s (s.modGate x f) := rfl
theorem State.modDir_netOnly (s : State) (a m : Nat) (toHub : Bool) (f : LinkDir → LinkDir) :
    NetOnly s (s.modDir a m toHub f) := rfl
theorem State.launch_netOnly (s : State) (ni p h0 h1 : Nat) (data : List Sector) :
    NetOnly s (s.launch ni p h0 h1 data) := rfl

theorem State.linkSend_netOnly (s : State) (a m : Nat) (toHub : Bool) (c : LinkCmd) : NetOnly s (s.linkSend a m toHub c) := by
  unfold State.linkSend
  dsimp only
  split <;> rfl

theorem State.graftReply_netOnly (s : State) (x m tag : Nat) (op : TOp) (len : Nat) (st : Status)
    (data : List (Sector × Bool)) : NetOnly s (s.graftReply x m tag op len st data) :=
  (s.linkSend_netOnly ..).trans (State.emit_netOnly ..)

theorem State.graftBack_netOnly (s : State) (x m tag : Nat) (st : Status) (data : List (Sector × Bool)) :
    NetOnly s (s.graftBack x m tag st data) := by
  unfold State.graftBack
  dsimp only
  split
  · exact .refl s
  · split
    · exact s.modGate_netOnly x _
    · exact (s.modGate_netOnly x _).trans (State.graftReply_netOnly ..)

theorem State.handRsp_netOnly (s : State) (ni : Nat) (t : OutTag) (st : Status) (data : List (Sector × Bool)) :
    NetOnly s (s.handRsp ni t st data) := by
  unfold State.handRsp
  split
  · exact .refl s
  · split
    · exact s.graftBack_netOnly ..
    · exact s.linkSend_netOnly ..

theorem State.localDone_netOnly (s : State) (ni : Nat) (t : OutTag) (st : Status) : NetOnly s (s.localDone ni t st) :=
  (s.emit_netOnly _).trans (State.handRsp_netOnly ..)

theorem State.sendReq_netOnly (s : State) (ni : Nat) (q : NReq) (hbad : Bool) (data : List Sector) :
    NetOnly s (s.sendReq ni q hbad data) := by
  unfold State.sendReq
  dsimp only
  split
  · exact s.localDone_netOnly ..
  · split
    · exact s.setCls_netOnly ..
    · exact ((s.setCls_netOnly ..).trans (State.modNi_netOnly ..)).trans (State.launch_netOnly ..)

/-! ### Routes and budgets written (R231, R279) -/

theorem State.routeApply_netOnly (s : State) (ni d : Nat) (v : Word) : NetOnly s (s.routeApply ni d v) :=
  .foldl (fun s _ => s.sendReq_netOnly ..) _ ((s.modTrellis_netOnly _).trans (State.modNi_netOnly ..))

theorem State.routeSet_netOnly (s : State) (ni d : Nat) (v : Word) : NetOnly s (s.routeSet ni d v) := by
  unfold State.routeSet
  dsimp only
  split
  · exact s.modNi_netOnly ..
  · exact s.routeApply_netOnly ..

theorem State.budgetWrite_netOnly (s : State) (n c v : Nat) : NetOnly s (s.budgetWrite n c v) := by
  unfold State.budgetWrite
  split
  · exact .refl s
  · split
    · exact s.modTrellis_netOnly _
    · exact s.setCls_netOnly ..

theorem State.tasterArm_netOnly (s : State) (i : Nat) : NetOnly s (s.tasterArm i) := by
  unfold State.tasterArm
  dsimp only
  split
  · exact (s.budgetWrite_netOnly ..).trans (State.routeSet_netOnly ..)
  · exact s.budgetWrite_netOnly ..

theorem State.tasterArmAll_netOnly (s : State) : NetOnly s s.tasterArmAll := by
  unfold State.tasterArmAll
  have harm : ∀ (s : State) (t : Nat × Taster), NetOnly s (s.tasterArm t.1) := fun s t => s.tasterArm_netOnly t.1
  exact NetOnly.foldl harm _ (s.modTrellis_netOnly fun t => {t with obsMax := s.obsLoad s.obs.taster})

end Sys2Proof.Machine
end

section

namespace Sys2Proof.Machine

/-! ### Observation enabled (R447, R523) -/

/-- Counters that are settled touch the dies alone. -/
theorem State.octSettle_frame (s : State) : {s.octSettle with die := s.die, freeCtr := s.freeCtr} = s := by
  unfold State.octSettle
  split <;> rfl

theorem State.octSettle_obs (s : State) : s.octSettle.obs = s.obs := (congrArg State.obs s.octSettle_frame :)
theorem State.octSettle_sec (s : State) : s.octSettle.sec = s.sec := (congrArg State.sec s.octSettle_frame :)
theorem State.octSettle_time (s : State) : s.octSettle.time = s.time := (congrArg State.time s.octSettle_frame :)
theorem State.octSettle_off {s : State} (h : s.obs.en.getLsbD 0 = false) : s.octSettle = s :=
  if_neg (Bool.eq_false_iff.1 h)

/-- The state that a new value of the enable makes, before the tasters follow it. -/
def State.observing (s : State) (v : Nat) : State :=
  let flag : BitVec 3 := if bit v 1 || bit v 2 then 1 else 0
  let u := s.octSettle
  let u : State := {u with sec := {u.sec with sticky := u.sec.sticky ||| flag}}
  u.modObs (fun o => { o with
    en := BitVec.ofNat 4 v, enAt := if s.obs.en = BitVec.ofNat 4 v then o.enAt else u.time.now,
    xlptr := if bit v 3 && !s.obs.en.getLsbD 3 then 0 else o.xlptr, xmsg := if bit v 3 && !s.obs.en.getLsbD 3 then [] else o.xmsg })

section Enable
variable {s : State} {v : Nat}

theorem State.obsEnable_reserved (h : bits v 7 4 ≠ 0) : s.obsEnable v = (6, s) := if_pos h

theorem State.obsEnable_overload (h : bits v 7 4 = 0) (htaste : bit v 1 = true) (hload : 120 < s.obsLoad s.obs.taster) :
    s.obsEnable v = (6, s.regDiscard) := by
  simp [State.obsEnable, h, htaste, hload]

theorem State.obsEnable_taken (h : bits v 7 4 = 0) (hload : bit v 1 = false ∨ s.obsLoad s.obs.taster ≤ 120) :
    ∃ t, s.obsEnable v = (0, t) ∧ NetOnly (s.observing v) t := by
  have hfits : (bit v 1 && decide (120 < s.obsLoad s.obs.taster)) = false := by
    rcases hload with h | h <;> simp [h]
  unfold State.obsEnable
  rw [if_neg (not_not.2 h), if_neg (Bool.eq_false_iff.1 hfits)]
  refine ⟨_, rfl, ?_⟩
  split
  · exact State.tasterArmAll_netOnly _
  · split
    · exact NetOnly.foldl (fun s (t : Nat × Taster) => s.budgetWrite_netOnly (niTaster t.1) 4 0) _
        (State.modTrellis_netOnly (s.observing v) _)
    · exact .refl _

/-- The enable holds the value, its mark is left, and its time starts where it changes. -/
theorem State.observing_spec (hv : v < 16) : (s.observing v).obs.en.toNat = v
    ∧ (s.observing v).sec.sticky = s.sec.sticky ||| (if bit v 1 || bit v 2 then 1 else 0)
    ∧ (bit v 3 = true → s.obs.en.getLsbD 3 = false → (s.observing v).obs.xlptr = 0 ∧ (s.observing v).obs.xmsg = [])
    ∧ (s.obs.en.toNat ≠ v → (s.observing v).obs.enAt = s.time.now)
    ∧ (s.obs.en.toNat = v → (s.observing v).obs.enAt = s.obs.enAt) := by
  have hen : s.obs.en = BitVec.ofNat 4 v ↔ s.obs.en.toNat = v := by
    rw [← BitVec.toNat_inj, BitVec.toNat_ofNat, Nat.mod_eq_of_lt hv]
  unfold State.observing State.modObs
  dsimp only
  rw [State.octSettle_obs, State.octSettle_sec, State.octSettle_time]
  refine ⟨?_, rfl, fun hlog hwas => ?_, fun hne => if_neg (mt hen.1 hne), fun he => if_pos (hen.2 he)⟩
  · rw [BitVec.toNat_ofNat, Nat.mod_eq_of_lt hv]
  · simp only [hlog, hwas]
    exact ⟨rfl, rfl⟩

end Enable

/-! ### A taster's control (R523, R536) -/

section TasterCtl
variable {s : State} {i v : Nat}

/-- A taster with a new control word, and the table with it. -/
def State.tasterNew (s : State) (i v : Nat) : Taster := {s.tasterOf i with ctl := BitVec.ofNat 15 (v - 16 * bits v 7 4)}

theorem State.tasterWrite_eq : s.tasterWrite i v =
    if (s.tasterNew i v).en && decide ((s.tasterNew i v).obsb = 0) then (6, s)
    else if (s.tasterNew i v).en && (decide (120 < (s.tasterNew i v).obsb)
      || decide (120 < s.obsLoad (tput s.obs.taster i (s.tasterNew i v)))) then (6, s.regDiscard)
    else
      let u := s.modObs (fun o => {o with taster := tput s.obs.taster i (s.tasterNew i v)})
      (0, if !u.obs.en.getLsbD 1 then u
        else if (s.tasterNew i v).en then u.tasterArmAll
        else (if (s.tasterOf i).en then u.budgetWrite (niTaster i) 4 0 else u).tasterArmAll) := rfl

theorem State.tasterWrite_nothing (hen : (s.tasterNew i v).en = true) (h : (s.tasterNew i v).obsb = 0) :
    s.tasterWrite i v = (6, s) := by
  rw [State.tasterWrite_eq, if_pos (by simp [hen, h])]

theorem State.tasterWrite_overload (hen : (s.tasterNew i v).en = true) (h : (s.tasterNew i v).obsb ≠ 0)
    (hload : 120 < (s.tasterNew i v).obsb ∨ 120 < s.obsLoad (tput s.obs.taster i (s.tasterNew i v))) :
    s.tasterWrite i v = (6, s.regDiscard) := by
  rw [State.tasterWrite_eq, if_neg (by simp [h]), if_pos (by simpa [hen] using hload)]

theorem State.tasterWrite_taken (h : (s.tasterNew i v).en = false ∨ (1 ≤ (s.tasterNew i v).obsb
      ∧ (s.tasterNew i v).obsb ≤ 120 ∧ s.obsLoad (tput s.obs.taster i (s.tasterNew i v)) ≤ 120)) :
    ∃ t, s.tasterWrite i v = (0, t)
      ∧ NetOnly (s.modObs (fun o => {o with taster := tput s.obs.taster i (s.tasterNew i v)})) t := by
  rw [State.tasterWrite_eq, if_neg, if_neg]
  · refine ⟨_, rfl, ?_⟩
    split
    · exact .refl _
    · split
      · exact State.tasterArmAll_netOnly _
      · refine NetOnly.trans ?_ (State.tasterArmAll_netOnly _)
        split
        · exact State.budgetWrite_netOnly ..
        · exact .refl _
  · rcases h with h | ⟨-, h, hload⟩
    · simp [h]
    · simp [h, hload]
  · rcases h with h | ⟨h, -, -⟩
    · simp [h]
    · simp; omega

end TasterCtl

/-! ### Sinks and the counter table (R528, R534) -/

theorem State.sinkWrite_eq (s : State) (i : Fin 4) (base cfg : Word) :
    let lg := bits cfg.toNat 12 8
    let pa := 64 * bits base.toNat 47 6
    let fits := 16 ≤ lg ∧ lg ≤ 30 ∧ pa % 2 ^ lg = 0 ∧ pa / 2 ^ 36 < 12 ∧ pa % 2 ^ 36 + 2 ^ lg ≤ usableEnd
    s.sinkWrite i.val base.toNat cfg.toNat = if bit cfg.toNat 0 = true ∧ ¬ fits then s
      else s.modObs (fun o => {o with sink := tmod {} o.sink i.val (fun k => { k with
        base := BitVec.ofNat 42 (bits base.toNat 47 6), sen := bit cfg.toNat 0, wrap := bit cfg.toNat 1,
        lgsz := BitVec.ofNat 5 lg, nrec := if bit cfg.toNat 0 && !k.sen then 0 else k.nrec })}) := by
  simp only [State.sinkWrite, Bool.and_eq_true, Bool.not_eq_true', ← Bool.not_eq_true, decide_eq_true_eq, and_assoc]

theorem tfind_map_filter_range {α : Type} (p : Nat → Bool) (f : Nat → α) (n g : Nat) :
    tfind (((List.range n).filter p).map (fun g => (g, f g))) g = if g < n ∧ p g = true then some (f g) else none := by
  have key : ∀ l : List Nat, tfind (l.map (fun g => (g, f g))) g = if g ∈ l then some (f g) else none := by
    intro l
    induction l with
    | nil => rfl
    | cons a l ih =>
      by_cases h : a = g
      · subst h; simp [tfind]
      · simp [tfind, h, ih, Ne.symm h]
  rw [key]
  simp [List.mem_filter]

theorem execCounterCopy_off {s : State} (h : s.obs.en.getLsbD 0 = false) : ∃ t, execCounterCopy s = .next t
    ∧ (∀ g, tfind t.obs.octab g = if g < 4096 ∧ (!s.isGraft (g / 256)) = true then some (s.counterRecord g) else none)
    ∧ t.die = s.die := by
  have hgo : execCounterCopy s = .next (s.modObs (fun o => {o with
      octab := ((List.range 4096).filter (fun g => !s.isGraft (g / 256))).map (fun g => (g, s.counterRecord g))})) := by
    simp only [execCounterCopy, State.octSettle_off h]
  refine ⟨_, hgo, fun g => ?_, State.modObs_die _ _⟩
  simp only [State.modObs, tfind_map_filter_range]

/-! ### Halt and resume (R522, R537, R538) -/

/-- Every listed entry of a table changed once. -/
theorem tget_foldl_tmod {α : Type} (d : α) (g : Nat → α → α) {l : List Nat} (hl : l.Nodup) (t : Tab α) (n : Nat) :
    tget d (l.foldl (fun t x => tmod d t x (g x)) t) n = if n ∈ l then g n (tget d t n) else tget d t n := by
  induction l generalizing t with
  | nil => rfl
  | cons a l ih =>
    obtain ⟨ha, hl⟩ := List.nodup_cons.1 hl
    rw [List.foldl_cons, ih hl]
    by_cases h : n = a
    · subst h; simp [ha]
    · simp [h, tget_tmod_ne _ _ _ h]

theorem siteBit_getLsbD (x : Nat) {y : Nat} (hy : y < 16) : (siteBit x).getLsbD y = decide (x = y) := by
  rw [siteBit, BitVec.getLsbD_ofNat, Nat.testBit_two_pow]
  simp [hy]

theorem sitesMask_getLsbD (l : List Nat) (m : BitVec 16) {y : Nat} (hy : y < 16) :
    (l.foldl (fun m x => m ||| siteBit x) m).getLsbD y = (m.getLsbD y || decide (y ∈ l)) := by
  induction l generalizing m with
  | nil => simp
  | cons a l ih => rw [List.foldl_cons, ih, BitVec.getLsbD_or, siteBit_getLsbD a hy, Bool.or_assoc]; simp [eq_comm]

/-- The sites a halt stops: Bambipin sites of the mask. -/
def State.haltSites (s : State) : List Nat := (List.range 16).filter (fun x => s.obs.smask.getLsbD x && !s.isGraft x)
/-- The sites a resume lets run. -/
def State.haltedSites (s : State) : List Nat := (List.range 16).filter (fun x => s.obs.halted.getLsbD x)

theorem State.mem_haltSites (s : State) {x : Nat} (hx : x < 16) :
    x ∈ s.haltSites ↔ s.obs.smask.getLsbD x = true ∧ s.isGraft x = false := by simp [State.haltSites, hx]
theorem State.mem_haltedSites (s : State) (x : Nat) : x ∈ s.haltedSites ↔ s.obs.halted.getLsbD x = true := by
  have := fun h : s.obs.halted.getLsbD x = true => BitVec.lt_of_getLsbD h
  simp [State.haltedSites]
  exact this
theorem State.haltSites_nodup (s : State) : s.haltSites.Nodup := List.nodup_range.filter _
theorem State.haltedSites_nodup (s : State) : s.haltedSites.Nodup := List.nodup_range.filter _

section Halt
variable {s : State}

theorem State.haltTrigger_ignored (h : s.obs.halted ≠ 0) :
    s.haltTrigger = {s with obs := {s.obs with ignored := s.obs.ignored + 1}} := if_pos h

/-- What a halt notes of a site. -/
def State.haltRec (s : State) (x : Nat) (r : HaltRec) : HaltRec :=
  {r with tstop := s.time.now, smear := Config.freeNat s.freeCtr (16 + x) % 65, unl := !s.time.tlock}

theorem State.haltTrigger_stops (h : s.obs.halted = 0) :
    s.haltTrigger.obs = {s.obs with
      halted := s.haltSites.foldl (fun m x => m ||| siteBit x) 0
      rec' := s.haltSites.foldl (fun t x => tmod {} t x (s.haltRec x)) s.obs.rec'}
    ∧ s.haltTrigger.die = s.die ∧ s.haltTrigger.hub = s.hub := by
  rw [State.haltTrigger, if_neg (not_not.2 h)]
  exact ⟨rfl, rfl, rfl⟩

theorem State.haltTrigger_smask (s : State) : s.haltTrigger.obs.smask = s.obs.smask := by
  unfold State.haltTrigger
  split <;> rfl

theorem Die.coreOf_flagAll (d : Die) (b : BitVec 5) {n : Nat} (hn : n < 256) :
    ((d.flagAll b).coreOf n).cycflg = (d.coreOf n).cycflg ||| b := by
  have hcore : ∀ (l : List Nat) (d : Die), (l.foldl (fun d n => d.modCore n (fun c => {c with cycflg := c.cycflg ||| b})) d).core
      = l.foldl (fun t n => tmod {} t n (fun c => {c with cycflg := c.cycflg ||| b})) d.core := by
    intro l
    induction l with
    | nil => exact fun _ => rfl
    | cons a l ih => exact fun d => ih _
  have hflag := tget_foldl_tmod ({} : Core) (fun _ c => {c with cycflg := c.cycflg ||| b}) (List.nodup_range (n := 256)) d.core n
  rw [if_pos (List.mem_range.2 hn)] at hflag
  rw [Die.coreOf, Die.flagAll, hcore]
  exact congrArg Core.cycflg hflag

theorem State.dieOf_foldl_modDie (f : Die → Die) {l : List Nat} (hl : l.Nodup) (s : State) (x : Nat) :
    (l.foldl (fun s x => s.modDie x f) s).dieOf x = if x ∈ l then f (s.dieOf x) else s.dieOf x := by
  have hdie : ∀ (l : List Nat) (s : State), (l.foldl (fun s x => s.modDie x f) s).die
      = l.foldl (fun t x => tmod {} t x f) s.die := by
    intro l
    induction l with
    | nil => exact fun _ => rfl
    | cons a l ih => exact fun s => ih _
  rw [State.dieOf, hdie]
  exact tget_foldl_tmod _ (fun _ => f) hl s.die x

theorem foldl_modDie_obs (f : Die → Die) (l : List Nat) (s : State) : (l.foldl (fun s x => s.modDie x f) s).obs = s.obs := by
  induction l generalizing s with
  | nil => rfl
  | cons a l ih => exact ih _

theorem State.haltResume_obs (s : State) : s.haltResume.obs = {s.obs with
    halted := 0, rec' := s.haltedSites.foldl (fun t x => tmod {} t x (fun r => {r with tres := s.time.now})) s.obs.rec'} :=
  foldl_modDie_obs _ _ _

theorem State.haltResume_dieOf (s : State) (x : Nat) :
    s.haltResume.dieOf x = if s.obs.halted.getLsbD x = true then (s.dieOf x).flagAll 8 else s.dieOf x := by
  refine (State.dieOf_foldl_modDie _ s.haltedSites_nodup _ x).trans ?_
  simp only [s.mem_haltedSites x]
  rfl

/-! ### The JTAG port (R541–R543) -/

/-- The halt control: a mask taken while none is halted, then a halt, then a resume. -/
theorem State.hltctlWrite_obs (s : State) (v : Nat) :
    (s.obs.halted = 0 → (s.hltctlWrite v).obs.smask.toNat = bits v 15 0)
      ∧ (s.obs.halted ≠ 0 → (s.hltctlWrite v).obs.smask = s.obs.smask)
      ∧ (bit v 17 = true → (s.hltctlWrite v).obs.halted = 0)
      ∧ (bit v 16 = false → bit v 17 = false → (s.hltctlWrite v).obs.halted = s.obs.halted) := by
  let u : State := if s.obs.halted ≠ 0 then s else {s with obs := {s.obs with smask := BitVec.ofNat 16 v}}
  let w : State := if bit v 16 then u.haltTrigger else u
  have hw : w.obs.smask = u.obs.smask := by
    show (if bit v 16 then u.haltTrigger else u).obs.smask = _
    split
    · exact u.haltTrigger_smask
    · rfl
  have heq : s.hltctlWrite v = if bit v 17 then w.haltResume else w := rfl
  have hmask : (s.hltctlWrite v).obs.smask = u.obs.smask := by
    rw [heq]
    split
    · rw [State.haltResume_obs]; exact hw
    · exact hw
  refine ⟨fun h => ?_, fun h => ?_, fun h => ?_, fun h16 h17 => ?_⟩
  · rw [hmask, show u = _ from if_neg (not_not.2 h)]
    simp [bits]
  · rw [hmask, show u = s from if_pos h]
  · rw [heq, if_pos h, State.haltResume_obs]
  · rw [heq, if_neg (Bool.eq_false_iff.1 h17), show w = u from if_neg (Bool.eq_false_iff.1 h16)]
    show (if s.obs.halted ≠ 0 then s else {s with obs := {s.obs with smask := BitVec.ofNat 16 v}}).obs.halted = _
    split <;> rfl

section Jtag
variable {s : State}

/-- The end of a register access through JTAG. -/
def State.jtagDone (s : State) (st : Status) (v : Nat) : State :=
  s.modObs (fun o => {o with jtag := {o.jtag with busy := false, status := st.code, rdata := BitVec.ofNat 64 v}})

theorem execJtagRegacc_idle (h : jtagOp s.obs.jtag.ir.toNat ≠ 0x10 ∨ s.boot.running = false) (wr : Bool) (pa : PA) (data : Word) :
    execJtagRegacc wr pa data s = .next s :=
  congrArg Host.Outcome.next (if_pos (by simpa using h))

variable (hop : jtagOp s.obs.jtag.ir.toNat = 0x10) (hrun : s.boot.running = true)
include hop hrun

theorem execJtagRegacc_below {pa : PA} (h : pa.toNat < 0xF000000000) (wr : Bool) (data : Word) :
    execJtagRegacc wr pa data s = .next (s.jtagDone .refused 0) := by
  unfold execJtagRegacc
  extract_lets o done
  clear_value o
  exact congrArg Host.Outcome.next ((if_neg (by simp [hop, hrun])).trans (if_pos h))

variable {pa : PA} (h : 0xF000000000 ≤ pa.toNat) (data : Word)
include h

/-! The register is made a variable before `rfl` compares the two sides: the kernel would else
compute with the control window's address. -/

theorem execJtagRegacc_reads : execJtagRegacc false pa data s =
    .next (s.jtagDone (s.hubGet .mgd (hubAt ((pa.toNat - 0xF000000000) / 8 * 8))).1
      (s.hubGet .mgd (hubAt ((pa.toNat - 0xF000000000) / 8 * 8))).2) := by
  refine congrArg Host.Outcome.next
    ((if_neg (by simp [hop, hrun])).trans ((if_neg (Nat.not_lt.2 h)).trans ((if_neg Bool.false_ne_true).trans ?_)))
  generalize s.hubGet .mgd (hubAt ((pa.toNat - 0xF000000000) / 8 * 8)) = answer
  obtain ⟨st, v⟩ := answer
  exact rfl

theorem execJtagRegacc_writes (hreg : ∀ q, hubAt ((pa.toNat - 0xF000000000) / 8 * 8) ≠ .bell q) :
    execJtagRegacc true pa data s =
      .next ((s.hubPut .mgd (hubAt ((pa.toNat - 0xF000000000) / 8 * 8)) data.toNat).jtagDone .ok 0) := by
  refine congrArg Host.Outcome.next
    ((if_neg (by simp [hop, hrun])).trans ((if_neg (Nat.not_lt.2 h)).trans ((if_pos rfl).trans ?_)))
  revert hreg
  generalize hubAt ((pa.toNat - 0xF000000000) / 8 * 8) = r
  intro hreg
  split
  next q => exact absurd rfl (hreg q)
  next => rfl

end Jtag

end Halt

/-- Settles O56: what each write of the observation block, halt, resume and access through the JTAG port comes to. -/
theorem observation : Obligations.Observation := by
  unfold Obligations.Observation
  refine ⟨fun v i c s => ?enabled, fun i base cfg s => ?sinks, fun s => ?halts, fun ir wr pa data h i w s => ?jtag⟩
  case enabled =>
    refine ⟨fun h => ?_, fun h htaste hload => ?_, fun h hload => ?_, fun hen h => ?_, fun hen h hload => ?_, fun h => ?_⟩
    · exact congrArg (fun r => Host.Outcome.next (odDone 0x3100 r)) (State.obsEnable_reserved h)
    · exact congrArg (fun r => Host.Outcome.next (odDone 0x3100 r)) (State.obsEnable_overload h htaste hload)
    · obtain ⟨t, ht, hnet⟩ := State.obsEnable_taken h hload
      have hv : v.toNat < 16 := by simp [bits, Nat.shiftRight_eq_div_pow] at h; omega
      refine ⟨_, congrArg (fun r => Host.Outcome.next (odDone 0x3100 r)) ht, ?_⟩
      show t.obs.en.toNat = _ ∧ t.sec.sticky = _ ∧ (_ → _ → t.obs.xlptr = 0 ∧ t.obs.xmsg = [])
        ∧ (_ → t.obs.enAt = _) ∧ (_ → t.obs.enAt = _)
      rw [hnet.obs, hnet.sec]
      exact State.observing_spec hv
    · exact congrArg (fun r => Host.Outcome.next (odDone 0x3110 r)) (State.tasterWrite_nothing hen h)
    · exact congrArg (fun r => Host.Outcome.next (odDone 0x3110 r)) (State.tasterWrite_overload hen h hload)
    · obtain ⟨t, ht, hnet⟩ := State.tasterWrite_taken h
      refine ⟨_, congrArg (fun r => Host.Outcome.next (odDone 0x3110 r)) ht, ?_⟩
      show tget {} t.obs.taster i.val = _ ∧ t.obs.en = _
      rw [hnet.obs]
      exact ⟨tget_tput_self _ _ _ _, rfl⟩
  case sinks =>
    refine ⟨fun hsets hfits => ?_, fun h => ?_, fun hoff => ?_⟩
    · exact congrArg Host.Outcome.next ((s.sinkWrite_eq i base cfg).trans (if_pos ⟨hsets, hfits⟩))
    · refine congrArg Host.Outcome.next ((s.sinkWrite_eq i base cfg).trans (if_neg ?_))
      rintro ⟨hsets, hnot⟩
      exact h.elim (fun hno => absurd hsets (Bool.eq_false_iff.1 hno)) hnot
    · obtain ⟨t, ht, hfind, hdies⟩ := execCounterCopy_off hoff
      exact ⟨t, ht, fun g hg hdie => (hfind g).trans (if_pos ⟨hg, by simp [hdie]⟩),
        fun g hg => (hfind g).trans (if_neg (by simp [hg])), hdies⟩
  case halts =>
    refine ⟨fun h => congrArg Host.Outcome.next (State.haltTrigger_ignored h), fun h => ⟨_, rfl, ?_⟩, _, rfl, ?_⟩
    · obtain ⟨hobs, hdie, hhub⟩ := State.haltTrigger_stops h
      rw [hobs]
      refine ⟨fun x hx => ?_, fun x hx hmask hgraft => ?_, hdie, hhub⟩
      · rw [Bool.eq_iff_iff]
        refine (Bool.eq_iff_iff.1 (sitesMask_getLsbD s.haltSites 0 hx)).trans ?_
        simp [s.mem_haltSites hx]
      · have hrec := tget_foldl_tmod ({} : HaltRec) s.haltRec s.haltSites_nodup s.obs.rec' x
        rw [if_pos ((s.mem_haltSites hx).2 ⟨hmask, hgraft⟩)] at hrec
        refine ⟨(congrArg HaltRec.tstop hrec :), ?_, (congrArg HaltRec.unl hrec :)⟩
        rw [(congrArg HaltRec.smear hrec :)]
        exact Nat.le_of_lt_succ (Nat.mod_lt _ (by decide))
    · rw [State.haltResume_obs]
      refine ⟨rfl, fun x hx hhalted => ⟨?_, fun n hn => ?_⟩, fun x hfree => ?_⟩
      · have hrec := tget_foldl_tmod ({} : HaltRec) (fun _ r => {r with tres := s.time.now}) s.haltedSites_nodup s.obs.rec' x
        rw [if_pos ((s.mem_haltedSites x).2 hhalted)] at hrec
        exact (congrArg HaltRec.tres hrec :)
      · rw [State.haltResume_dieOf, if_pos hhalted]
        exact Die.coreOf_flagAll _ _ hn
      · rw [State.haltResume_dieOf, if_neg (Bool.eq_false_iff.1 hfree)]
  case jtag =>
    refine ⟨?_, fun h => execJtagRegacc_idle h wr pa data, fun hop hrun => ⟨fun hlow => execJtagRegacc_below hop hrun hlow wr data,
      fun hat => execJtagRegacc_reads hop hrun hat data, fun hat hreg => execJtagRegacc_writes hop hrun hat data hreg⟩,
      fun hidle => ?_, fun hop hrun => ⟨_, ?_, s.hltctlWrite_obs h.toNat⟩, fun hidle => ?_, fun hop hrec hi => ?_, fun hop hrec hi => ?_⟩
    · simp [execJtagIrUpdate, State.modObs]
    · exact congrArg Host.Outcome.next (if_neg (by simpa [imp_iff_not_or] using hidle))
    · exact congrArg Host.Outcome.next (if_pos (by simp [hop, hrun]))
    · exact congrArg Host.Outcome.next (if_pos (by simpa [or_comm] using hidle))
    · exact congrArg Host.Outcome.next ((if_neg (by simp [hop, hrec])).trans (if_neg hi))
    · exact congrArg Host.Outcome.next ((if_neg (by simp [hop, hrec])).trans (if_pos hi))

end Sys2Proof.Machine
end

section

namespace Sys2Proof.Machine

/-! ### What the memory side, the translations and the queues leave alone

Whatever an access, a translation or a queue's end does, the commands that wait and the slices stay as they were. -/

abbrev Calm (s t : State) : Prop := t.pending = s.pending ∧ t.hub.slice = s.hub.slice

theorem Calm.trans {s t u : State} (hst : Calm s t) (htu : Calm t u) : Calm s u := ⟨htu.1.trans hst.1, htu.2.trans hst.2⟩

/-- A fold that carries a state, be it alone or beside results. -/
theorem Calm.foldl_at {α β : Type} (state : β → State) {f : β → α → β} (hf : ∀ p a, Calm (state p) (state (f p a)))
    (l : List α) (p : β) : Calm (state p) (state (l.foldl f p)) := by
  induction l generalizing p with
  | nil => exact ⟨rfl, rfl⟩
  | cons a l ih => exact (hf p a).trans (ih _)

theorem Calm.foldl {α : Type} {f : State → α → State} (hf : ∀ s a, Calm s (f s a)) (l : List α) (s : State) :
    Calm s (l.foldl f s) := Calm.foldl_at id hf l s

theorem State.bump_calm (s : State) : Calm s s.bump := ⟨rfl, rfl⟩
theorem State.modDie_calm (s : State) (x : Nat) (f : Die → Die) : Calm s (s.modDie x f) := ⟨rfl, rfl⟩
theorem State.emit_calm (s : State) (m : Msg) : Calm s (s.emit m) := ⟨rfl, rfl⟩
theorem State.modDir_calm (s : State) (a m : Nat) (toHub : Bool) (f : LinkDir → LinkDir) : Calm s (s.modDir a m toHub
    f) := ⟨(s.modDir_netOnly a m toHub f).pending, congrArg Hubm.slice (s.modDir_netOnly a m toHub f).hub⟩
theorem State.linkSend_calm (s : State) (a m : Nat) (toHub : Bool) (c : LinkCmd) : Calm s (s.linkSend a m toHub c) :=
  ⟨(s.linkSend_netOnly a m toHub c).pending, congrArg Hubm.slice (s.linkSend_netOnly a m toHub c).hub⟩
theorem State.tlbFill_calm (s : State) (t : Tlb) (e : TEntry) : Calm s (s.tlbFill t e) := by
  cases t <;> exact ⟨rfl, rfl⟩
theorem State.tcTouch_calm (s : State) (e : TEntry) : Calm s (s.tcTouch e) := ⟨rfl, rfl⟩
theorem State.tlbLook_calm (s : State) (t : Tlb) (ctx va : Nat) : Calm s (s.tlbLook t ctx va).2 := by
  unfold State.tlbLook
  grind [State.tlbFill_calm, State.tcTouch_calm]
theorem State.translate1_calm (s : State) (t : Tlb) (ctx va : Nat) (acc : Acc) (user : Bool) : Calm s (s.translate1 t
    ctx va acc user).2 := by unfold State.translate1; grind [State.tlbLook_calm]
theorem State.modNi_calm (s : State) (n : Nat) (f : Ni → Ni) : Calm s (s.modNi n f) := ⟨rfl, rfl⟩
theorem State.modGate_calm (s : State) (x : Nat) (f : Gate → Gate) : Calm s (s.modGate x f) := ⟨rfl, rfl⟩
theorem State.graftReply_calm (s : State) (x m tag : Nat) (op : TOp) (len : Nat) (st : Status)
    (data : List (Sector × Bool)) : Calm s (s.graftReply x m tag op len st data) :=
  ⟨(s.graftReply_netOnly x m tag op len st data).pending, congrArg Hubm.slice (s.graftReply_netOnly x m tag op len st
    data).hub⟩
theorem State.handRsp_calm (s : State) (ni : Nat) (t : OutTag) (st : Status) (data : List (Sector × Bool)) : Calm s
    (s.handRsp ni t st data) :=
  ⟨(s.handRsp_netOnly ni t st data).pending, congrArg Hubm.slice (s.handRsp_netOnly ni t st data).hub⟩
theorem State.localDone_calm (s : State) (ni : Nat) (t : OutTag) (st : Status) : Calm s (s.localDone ni t st) :=
  ⟨(s.localDone_netOnly ni t st).pending, congrArg Hubm.slice (s.localDone_netOnly ni t st).hub⟩
theorem State.setCls_calm (s : State) (n c : Nat) (v : NiCls) : Calm s (s.setCls n c v) :=
  ⟨(s.setCls_netOnly n c v).pending, congrArg Hubm.slice (s.setCls_netOnly n c v).hub⟩
theorem State.sendReq_calm (s : State) (ni : Nat) (q : NReq) (hbad : Bool) (data : List Sector) : Calm s (s.sendReq ni
    q hbad data) :=
  ⟨(s.sendReq_netOnly ni q hbad data).pending, congrArg Hubm.slice (s.sendReq_netOnly ni q hbad data).hub⟩
theorem State.submit_calm (s : State) (ni : Nat) (q : NReq) (hbad : Bool) (data : List Sector) : Calm s (s.submit ni q
    hbad data) := by unfold State.submit; grind [State.modNi_calm, State.sendReq_calm]
theorem State.ask_calm (s : State) (ni dst : Nat) (op : TOp) (len pa qual : Nat) (data : List Sector) : Calm s (s.ask
    ni dst op len pa qual data) := by unfold State.ask; grind [State.submit_calm]
theorem State.modEp_calm (s : State) (e : Ep) (f : HostEp → HostEp) : Calm s (s.modEp e f) :=
  ⟨(s.modEp_ports e f).pending, congrArg Hubm.slice (s.modEp_ports e f).hub⟩
theorem State.drainOut_calm (s : State) (e : Ep) : Calm s (s.drainOut e) :=
  ⟨(s.drainOut_ports e).pending, congrArg Hubm.slice (s.drainOut_ports e).hub⟩
theorem State.enqueueOut_calm (s : State) (e : Ep) (q : HwReq) : Calm s (s.enqueueOut e q) :=
  ⟨(s.enqueueOut_ports e q).pending, congrArg Hubm.slice (s.enqueueOut_ports e q).hub⟩
theorem State.hostPost_calm (s : State) (sl iova : Nat) (bs : List Byte) : Calm s (s.hostPost sl iova bs).2 :=
  ⟨(s.hostPost_ports sl iova bs).pending, congrArg Hubm.slice (s.hostPost_ports sl iova bs).hub⟩
theorem State.chargeNi_calm (s : State) (ni : Nat) (cls : Cls) (n : Nat) : Calm s (s.chargeNi ni cls n) := ⟨rfl, rfl⟩
theorem State.chargeAgent_calm (s : State) (rt : Rights) (op : TOp) (pa n : Nat) : Calm s (s.chargeAgent rt op pa
    n) := by unfold State.chargeAgent; grind [State.chargeNi_calm]
theorem State.modCask_calm (s : State) (k : Nat) (f : Cask → Cask) : Calm s (s.modCask k f) := ⟨rfl, rfl⟩
theorem State.refuse_calm (s : State) (rt : Rights) (pa kslot : Nat) : Calm s (s.refuse rt pa kslot) := by
  unfold State.refuse
  grind [State.modCask_calm]
theorem State.dirCheck_calm (s : State) (k line : Nat) : Calm s (s.dirCheck k line) := by
  unfold State.dirCheck
  grind [State.modCask_calm]
theorem State.park_calm (s : State) (k : Nat) (r : HomeReq) : Calm s (s.park k r) := ⟨rfl, rfl⟩
theorem State.charge_calm (s : State) (pa n : Nat) (wr : Bool) : Calm s (s.charge pa n wr) := by
  refine Calm.foldl (fun s i => ?_) _ s
  split <;> exact ⟨rfl, rfl⟩
theorem State.arrayWrite_calm (s : State) (pa : Nat) (f : Nat → Cask → Nat → Cask) : Calm s (s.arrayWrite pa f) := by
  unfold State.arrayWrite
  grind [State.charge_calm, State.modCask_calm]
theorem State.poisonLine_calm (s : State) (line : Nat) (count : Bool) : Calm s (s.poisonLine line count) := by
  unfold State.poisonLine
  grind [State.arrayWrite_calm, State.modCask_calm]
theorem State.sendSnoops_calm (s : State) (k line : Nat) (ss : List (Site × TOp)) (push : Option Sector) : Calm s
    (s.sendSnoops k line ss push) := Calm.foldl (fun _ _ => ((State.bump_calm _).trans (State.emit_calm _ _)).trans
  (State.ask_calm _ _ _ _ _ _ _ _)) ss s
theorem State.purgeLine_calm (s : State) (k line : Nat) (xs : List Site) : Calm s (s.purgeLine k line xs) := by
  unfold State.purgeLine
  grind [State.modCask_calm, State.poisonLine_calm, State.sendSnoops_calm]
theorem State.txnBegin_calm (s : State) (k : Nat) (t : Txn) : Calm s (s.txnBegin k t) := ⟨rfl, rfl⟩
theorem State.evictFor_calm (s : State) (k : Nat) (r : HomeReq) (e : DirEntry) : Calm s (s.evictFor k r e) := by
  unfold State.evictFor
  grind [State.txnBegin_calm, State.modCask_calm, State.sendSnoops_calm]
theorem State.redirect_calm (s : State) (k : Nat) (r : HomeReq) (e : Reserve) (data : List (Sector × Bool))
    (first : Bool) : Calm s (s.redirect k r e data first) := by
  unfold State.redirect
  grind [State.modCask_calm, State.ask_calm, State.emit_calm]
theorem State.logEvent_calm (s : State) (cls die code d0 d1 : Nat) : Calm s (s.logEvent cls die code d0 d1) := by
  unfold State.logEvent
  grind
theorem State.countRead_calm (s : State) (k sec : Nat) : Calm s (s.countRead k sec) := by
  unfold State.countRead
  grind [State.modCask_calm, State.logEvent_calm]
theorem State.plainRead_calm (s : State) (k : Nat) (r : HomeReq) : Calm s (s.plainRead k r).2 := by
  refine Calm.foldl_at Prod.snd (fun p l => ?_) r.lines ([], s)
  exact p.2.countRead_calm k _
theorem State.countRedirect_calm (s : State) (k i pa : Nat) : Calm s (s.countRedirect k i pa) := by
  unfold State.countRedirect
  grind [State.logEvent_calm, State.modCask_calm]
theorem State.respond_calm (s : State) (ni : Nat) (u : Unanswered) (st : Status) (data : List (Sector × Bool))
    (hbad : Bool) : Calm s (s.respond ni u st data hbad) := ⟨rfl, rfl⟩
theorem State.answerAs_calm (s : State) (ni : Nat) (u : Unanswered) (st : Status) (data : List (Sector × Bool)) : Calm
    s (s.answerAs ni u st data) := ⟨rfl, rfl⟩
theorem State.answer_calm (s : State) (ni src tag : Nat) (st : Status) (data : List (Sector × Bool)) : Calm s
    (s.answer ni src tag st data) := by unfold State.answer; grind [State.emit_calm, State.answerAs_calm]
theorem State.wbFree_calm (s : State) (r : HomeReq) : Calm s (s.wbFree r) := by
  unfold State.wbFree
  grind [State.modDie_calm]
theorem State.homeAnswer_calm (s : State) (r : HomeReq) (st : Status) (data : List (Sector × Bool)) : Calm s
    (s.homeAnswer r st data) := by
  unfold State.homeAnswer
  grind [State.answer_calm, State.wbFree_calm, State.modCask_calm]
theorem State.arrayRead_calm (s : State) (pa kslot : Nat) : Calm s (s.arrayRead pa kslot).2 := by
  unfold State.arrayRead
  extract_lets look one
  have hlook : ∀ s pa, Calm s (look s pa).2 := by
    intro s pa
    unfold look
    grind [State.countRead_calm]
  have hone : ∀ s pa, Calm s (one s pa).2 := fun s pa => (hlook s pa).trans (State.charge_calm _ pa 1 false)
  clear_value look one
  split
  next i r _ =>
    extract_lets cp cst
    clear_value cp cst
    have hfound := hlook s pa
    generalize pa / 2 ^ 36 = k
    generalize look s pa = found at *
    obtain ⟨v, t⟩ := found
    split
    · split <;> exact hone _ _
    · have hcount : Calm s (t.countRedirect k i pa) := hfound.trans (State.countRedirect_calm t k i pa)
      have hcopy := hone (t.countRedirect k i pa) cp
      have hcharge : Calm s (t.charge pa 1 false) := hfound.trans (State.charge_calm t pa 1 false)
      grind
  next => exact hone s pa
theorem State.homeRead_calm (s : State) (k : Nat) (r : HomeReq) (held : List (Nat × Sector × Bool)) : Calm s
    (s.homeRead k r held) := by
  unfold State.homeRead
  split
  · grind [State.redirect_calm, State.plainRead_calm, State.countRedirect_calm, State.charge_calm, State.homeAnswer_calm]
  · refine Calm.trans ?_ (State.homeAnswer_calm _ _ _ _)
    refine Calm.foldl_at Prod.snd (fun p l => ?_) r.lines ([], s)
    grind [State.poisonLine_calm, State.arrayRead_calm]
theorem State.homeFinish_calm (s : State) (k : Nat) (r : HomeReq) (held : List (Nat × Sector × Bool)) : Calm s
    (s.homeFinish k r held) := by
  unfold State.homeFinish
  extract_lets gone who ks lines indexed back
  have hback : ∀ s l, Calm s (back s l) := by
    intro s l
    unfold back
    grind [State.poisonLine_calm, State.arrayWrite_calm]
  clear_value gone who ks lines indexed back
  split
  case h_1 => exact s.homeRead_calm k r held
  case h_2 =>
    exact ((Calm.foldl hback lines s).trans (Calm.foldl (fun s l => s.modCask_calm k _) lines _)).trans
      (State.homeRead_calm _ k r held)
  case h_3 =>
    have hread := (Calm.foldl (fun (s : State) l => s.modCask_calm k (fun c => c.dirPut l true who)) lines s).trans
      (State.homeRead_calm _ k r held)
    split
    · exact hread.trans (Calm.foldl (fun s l => s.poisonLine_calm l true) lines _)
    · exact hread
  case h_4 | h_5 | h_6 =>
    refine Calm.trans (Calm.foldl (fun s p => ?_) indexed s) (State.homeAnswer_calm _ r .ok [])
    exact (State.modCask_calm s k _).trans (State.arrayWrite_calm _ _ _)
  case h_7 =>
    refine Calm.trans (Calm.foldl (fun s p => ?_) indexed s) (State.homeAnswer_calm _ r .ok [])
    grind [State.modCask_calm, State.arrayWrite_calm]
  case h_8 =>
    generalize r.q.pa.toNat / 64 = l
    grind [State.modCask_calm, State.arrayWrite_calm, State.poisonLine_calm, State.homeAnswer_calm]
  case h_9 =>
    generalize r.q.pa.toNat / 64 = l
    grind [State.modCask_calm, State.arrayRead_calm, State.arrayWrite_calm, State.homeAnswer_calm]
  case h_10 => exact s.homeAnswer_calm r .ok []
theorem State.stashFirst_calm (s : State) (k : Nat) (r : HomeReq) : Calm s (s.stashFirst k r) := by
  refine Calm.foldl (fun s p => ?_) _ s
  grind [State.arrayWrite_calm]
theorem State.homeStart_calm (s : State) (k : Nat) (r : HomeReq) : Calm s (s.homeStart k r) := by
  unfold State.homeStart
  extract_lets lines s1 rs records c ns s2 s3 aw s4
  have hs1 : Calm s s1 := Calm.foldl (fun s l => s.dirCheck_calm k l) lines s
  refine hs1.trans ?_
  clear_value s1 c records rs lines
  split
  next => grind [State.park_calm, State.purgeLine_calm]
  next =>
    split
    next => grind [State.park_calm, State.purgeLine_calm, State.modCask_calm, State.dirCheck_calm, State.evictFor_calm]
    next =>
      have hs2 : Calm s1 s2 := by unfold s2; grind [State.modCask_calm]
      have hs3 : Calm s2 s3 := by unfold s3; grind [State.stashFirst_calm]
      split
      · exact s1.homeFinish_calm k r []
      · split
        · exact s1.park_calm k _
        · exact ((hs2.trans hs3).trans (s3.txnBegin_calm k _)).trans
            (Calm.foldl (fun s p => s.sendSnoops_calm k _ _ _) _ _)
theorem State.homeSubmit_calm (s : State) (k : Nat) (r : HomeReq) : Calm s (s.homeSubmit k r) := by
  unfold State.homeSubmit
  grind [State.park_calm, State.homeStart_calm]
theorem State.invAll_calm (s : State) (line : Nat) : Calm s (s.invAll line) := by
  refine Calm.trans ?_ (State.modCask_calm _ _ _)
  exact Calm.foldl (fun (s : State) (x : Site) => s.modDie_calm x.val _) _ _
theorem State.writeNow_calm (s : State) (op : TOp) (pa kslot : Nat) (mask : Word) (v : Sector) : Calm s (s.writeNow op
    pa kslot mask v) := by
  unfold State.writeNow
  dsimp only
  (repeat' split) <;> grind [Calm.foldl, State.invAll_calm, State.arrayWrite_calm, State.modCask_calm,
    State.modDie_calm, State.poisonLine_calm]
theorem State.agentWrite_calm (s : State) (rt : Rights) (op : TOp) (pa kslot : Nat) (mask : Word) (v : Sector) : Calm
    s (s.agentWrite rt op pa kslot mask v).2 := by
  unfold State.agentWrite
  grind [State.chargeAgent_calm, State.refuse_calm, State.dirCheck_calm, State.homeSubmit_calm, State.writeNow_calm]
theorem State.agentPut_calm (s : State) (rt : Rights) (op : TOp) (kslot pa : Nat) (bs : List Byte) : Calm s
    (s.agentPut rt op kslot pa bs).2 := by
  refine Calm.foldl_at Prod.snd (fun p i => ?_) (List.range _) (Status.ok, s)
  exact p.2.agentWrite_calm rt _ _ kslot _ _
theorem State.raiseSlice_calm (s : State) (sl v : Nat) : Calm s (s.raiseSlice sl v) :=
  ⟨(s.raiseSlice_ports sl v).pending, congrArg Hubm.slice (s.raiseSlice_ports sl v).hub⟩
theorem State.cmdEnd_calm (s : State) (b code : Nat) : Calm s (s.cmdEnd b code) := ⟨rfl, rfl⟩
theorem State.modQueue_calm (s : State) (q : Nat) (f : Queue → Queue) : Calm s (s.modQueue q f) := ⟨rfl, rfl⟩
theorem State.bungCount_calm (s : State) (ni n : Nat) : Calm s (s.bungCount ni n) := ⟨rfl, rfl⟩
theorem State.intoGraft_calm (s : State) (x : Site) (m : Fin 8) (op : TOp) (tag addr len : Nat) (data : List Sector) :
    Calm s (s.intoGraft x m op tag addr len data) := by
  unfold State.intoGraft
  grind [State.emit_calm, State.linkSend_calm]
theorem State.snoopGraft_calm (s : State) (x : Site) (op : TOp) (line : Nat) (push : Sector) : Calm s (s.snoopGraft x
    op line push) := by unfold State.snoopGraft; grind [State.intoGraft_calm, State.modGate_calm]
theorem State.newest_calm (s : State) (pa kslot : Nat) : Calm s (s.newest pa kslot).2 := by
  unfold State.newest
  grind [State.poisonLine_calm, State.snoopGraft_calm, State.bump_calm, State.modCask_calm, State.arrayRead_calm]
theorem State.agentRead_calm (s : State) (rt : Rights) (pa kslot : Nat) : Calm s (s.agentRead rt pa kslot).2.2 := by
  unfold State.agentRead
  grind [State.chargeAgent_calm, State.refuse_calm, State.dirCheck_calm, State.purgeLine_calm, State.newest_calm]
theorem State.agentBytes_calm (s : State) (rt : Rights) (kslot pa n : Nat) : Calm s (s.agentBytes rt kslot pa
    n).2.2.2 := by
  refine Calm.foldl_at (fun p : Status × Bool × List Byte × State => p.2.2.2) (fun p i => ?_) (List.range _) (Status.ok, false, [], s)
  exact p.2.2.2.agentRead_calm rt _ kslot
theorem State.tableRead_calm (s : State) (w : Walk) : Calm s (s.tableRead w).2.2.2 := by
  unfold State.tableRead
  grind [State.agentBytes_calm]
theorem State.walkFill_calm (s : State) (w : Walk) (e : Word) : Calm s (s.walkFill w e) := by
  unfold State.walkFill
  split <;> exact ⟨rfl, rfl⟩
theorem State.tcFill_calm (s : State) (e : TEntry) : Calm s (s.tcFill e) := ⟨rfl, rfl⟩
theorem State.walkLoop_calm (a0 : Nat) (a1 : State) (a2 : Tlb) (a3 : Walk) : Calm a1 (State.walkLoop a0 a1 a2 a3).2 := by
  induction a0 generalizing a1 a3 with
  | zero => exact ⟨rfl, rfl⟩
  | succ n ih =>
    unfold State.walkLoop
    grind [State.tableRead_calm, State.walkFill_calm, State.tcFill_calm, State.tlbFill_calm]
theorem State.translate_calm (s : State) (t : Tlb) (ctx va : Nat) (acc : Acc) : Calm s (s.translate t ctx va acc).2 := by
  unfold State.translate
  have hwalk : ∀ (s : State) w, Calm s (State.walkLoop 26 (s.modHub (fun h => {h with walksN := h.walksN + 1})) t w).2 :=
    fun s w => State.walkLoop_calm 26 _ t w
  grind [State.translate1_calm]
theorem State.apRefused_calm (s : State) (st : Status) (pa : Nat) : Calm s (s.apRefused st pa) := by
  unfold State.apRefused
  grind [State.bungCount_calm, State.modGate_calm]
theorem State.paPut_calm (s : State) (rt : Rights) (op : TOp) (kslot pa : Nat) (bs : List Byte) : Calm s (s.paPut rt
    op kslot pa bs).2 := by
  unfold State.paPut
  grind [State.chargeAgent_calm, State.emit_calm, State.apRefused_calm, State.agentPut_calm]
theorem State.qWrite_calm (s : State) (ctx va : Nat) (bs : List Byte) : Calm s (s.qWrite ctx va bs).2 := by
  unfold State.qWrite
  grind [State.translate_calm, State.paPut_calm, State.hostPost_calm]
theorem State.raiseQueue_calm (s : State) (q : Nat) : Calm s (s.raiseQueue q) := by
  unfold State.raiseQueue
  grind [State.raiseSlice_calm]
theorem State.lineWrite_calm (s : State) (q : Nat) : Calm s (s.lineWrite q).2 := by
  unfold State.lineWrite
  grind [State.qWrite_calm]
theorem State.tlbDrop_calm (s : State) (p : TEntry → Bool) (q : WEntry → Bool) : Calm s (s.tlbDrop p q) := ⟨rfl, rfl⟩
theorem State.queueEnd_calm (s : State) (q : Nat) (destroy : Bool) : Calm s (s.queueEnd q destroy) := by
  unfold State.queueEnd
  grind [State.cmdEnd_calm, State.modQueue_calm, State.lineWrite_calm, State.raiseQueue_calm]

end Sys2Proof.Machine
end

section

namespace Sys2Proof.Machine

/-! ### A write at the hub block that owns a register (R343, R600) -/

section Owner
variable {s : State} {ni : Nat} {ok : Bool} {f : State → State}

theorem State.atOwner_mgmt {who : Who} (h : who.mgmt = true) : s.atOwner who ni f = f s := by
  simp [State.atOwner, h]
theorem State.atOwner_bunged {who : Who} (h : who.mgmt = false) (hshut : s.bunged ni = true) :
    s.atOwner who ni f = s.ack who .bunged := by
  simp [State.atOwner, h, hshut]
theorem State.atOwner_open {who : Who} (hopen : s.bunged ni = false) : s.atOwner who ni f = f s := by
  simp [State.atOwner, hopen]

theorem State.hubWrite_core (h : Hart) : s.hubWrite (.core h) ok f = s.ack (.core h) .refused := rfl
theorem State.hubWrite_host (e : Ep) : s.hubWrite (.host e) true f = (f s).ack (.host e) .ok := rfl
theorem State.hubWrite_host_discards (e : Ep) : s.hubWrite (.host e) false f = (s.cwDiscard e).ack (.host e) .ok := rfl
theorem State.hubWrite_hubctl_discards : s.hubWrite .hubctl false f = s.ack .hubctl .ok := rfl

end Owner

/-- How a register of the hub's blocks answers each writer, `ok` saying whether the word may be written. -/
theorem guardedWrite {cmd : Who → Instr} {ok : Bool} {ni : Nat} {f : Who → State → State} {s : State} (e : Ep) (h : Hart)
    (hcmd : ∀ who, exec (cmd who) s = .next (s.atOwner who ni (fun s => s.hubWrite who ok (f who)))) :
    (ok = false → exec (cmd .hubctl) s = .next (s.ack .hubctl .ok))
      ∧ (s.bunged ni = true → exec (cmd (.core h)) s = .next (s.ack (.core h) .bunged)
        ∧ exec (cmd (.host e)) s = .next (s.ack (.host e) .bunged))
      ∧ (s.bunged ni = false → exec (cmd (.core h)) s = .next (s.ack (.core h) .refused))
      ∧ (s.bunged ni = false → ok = false → exec (cmd (.host e)) s = .next ((s.cwDiscard e).ack (.host e) .ok)) := by
  refine ⟨?_, fun hshut => ⟨?_, ?_⟩, fun hopen => ?_, fun hopen hno => ?_⟩
  · rintro rfl
    rw [hcmd, State.atOwner_mgmt rfl, State.hubWrite_hubctl_discards]
  · rw [hcmd, State.atOwner_bunged rfl hshut]
  · rw [hcmd, State.atOwner_bunged rfl hshut]
  · rw [hcmd, State.atOwner_open hopen, State.hubWrite_core]
  · subst hno
    rw [hcmd, State.atOwner_open hopen, State.hubWrite_host_discards]

/-- A host's write of a word it may write, the block's NI open. -/
theorem hostWrite {cmd : Who → Instr} {ok : Bool} {ni : Nat} {f : Who → State → State} {s : State} (e : Ep)
    (hcmd : ∀ who, exec (cmd who) s = .next (s.atOwner who ni (fun s => s.hubWrite who ok (f who))))
    (hok : ok = true) (hopen : s.bunged ni = false) : exec (cmd (.host e)) s = .next ((f (.host e) s).ack (.host e) .ok) := by
  subst hok
  rw [hcmd, State.atOwner_open hopen, State.hubWrite_host]

/-! ### The words of a context, a queue and a fence (R364, R369, R375) -/

theorem Ctx.write_not_free {c : Ctx} (h : c.state ≠ .free) (v : Word) :
    c.write 1 v = c ∧ c.write 2 v = c ∧ c.write 3 v = c := ⟨if_pos h, if_pos h, if_pos h⟩

theorem Ctx.write_free {c : Ctx} (h : c.state = .free) (v : Word) :
    (c.write 1 v).slice.val = v.toNat % 64 ∧ (c.write 1 v).prio.toNat = bits v.toNat 7 6
      ∧ (c.write 1 v).smask.toNat = bits v.toNat 23 8 ∧ (c.write 2 v).sbase.toNat = bits v.toNat 47 16
      ∧ (c.write 3 v).s1root = v &&& 0xFFFFFFFFF003 := by
  simp [Ctx.write, h, bits, Nat.shiftRight_eq_div_pow]

theorem Queue.write_not_off {u : Queue} (h : u.state ≠ .off) (w : Nat) (v : Word) : u.write w v = u := if_pos h

theorem State.fenceOf_fenceEvent (s : State) (f : Nat) :
    ∃ due, (s.fenceEvent f).fenceOf f = {s.fenceOf f with evn := due} := by
  unfold State.fenceEvent
  dsimp only
  split
  · refine ⟨false, ?_⟩
    have hhub := (State.raiseSlice_ports (s.modFence f (fun o => {o with evn := false}))
      (s.fenceOf f).slice.val (s.fenceOf f).evec.val).hub
    rw [State.fenceOf, hhub]
    exact State.fenceOf_modFence _ f _
  · exact ⟨_, rfl⟩

/-- Word 1 of a fence's configuration. -/
theorem State.fenceOf_fenceWrite (s : State) (f : Nat) (v : Word) :
    ((s.fenceWrite f 1 v).fenceOf f).slice.val = (if (s.fenceOf f).armed then (s.fenceOf f).slice.val else v.toNat % 64)
      ∧ ((s.fenceWrite f 1 v).fenceOf f).prod.val = bits v.toNat 19 8
      ∧ ((s.fenceWrite f 1 v).fenceOf f).pen = bit v.toNat 20
      ∧ ((s.fenceWrite f 1 v).fenceOf f).value = (s.fenceOf f).value := by
  simp only [State.fenceWrite]
  obtain ⟨due, hfence⟩ := State.fenceOf_fenceEvent (s.modFence f (fun o => { o with
      slice := if o.armed then o.slice else ⟨v.toNat % 64, Nat.mod_lt _ (by decide)⟩,
      prod := ⟨v.toNat / 256 % 4096, Nat.mod_lt _ (by decide)⟩, pen := bit v.toNat 20, evn := bit v.toNat 21,
      evec := ⟨v.toNat / 2 ^ 22 % 2048, Nat.mod_lt _ (by decide)⟩ })) f
  rw [hfence, State.fenceOf_modFence]
  refine ⟨?_, ?_, rfl, rfl⟩
  · dsimp only
    split <;> rfl
  · simp [bits, Nat.shiftRight_eq_div_pow]

/-! ### Doorbells (R371, R372) -/

section Doorbell
variable {s : State} {q : Nat} {t : Half}

theorem State.ringDoorbell_discards (h : ¬ ((s.queueOf q).state = .on ∧ (s.ctxOf (s.queueOf q).ctx.val).state = .live)
    ∨ 2 ^ 31 ≤ (t - (s.queueOf q).tail).toNat) (e : Option Ep) : s.ringDoorbell q t e = s.dbDiscard q e := by
  unfold State.ringDoorbell
  dsimp only
  split
  · rfl
  next hon =>
    refine if_pos (h.resolve_left fun hoff => hon ?_)
    simpa [imp_iff_not_or] using hoff

variable (hon : (s.queueOf q).state = .on ∧ (s.ctxOf (s.queueOf q).ctx.val).state = .live)
include hon

theorem State.ringDoorbell_same (e : Option Ep) : s.ringDoorbell q (s.queueOf q).tail e = s := by
  simp [State.ringDoorbell, hon]

variable (hahead : (t - (s.queueOf q).tail).toNat < 2 ^ 31) (hmoves : t ≠ (s.queueOf q).tail)
include hahead hmoves

theorem State.ringDoorbell_overrun (hkind : (s.queueOf q).kind = 1)
    (hpast : 2 ^ ((s.queueOf q).lgn.toNat + 4) < (t - (s.queueOf q).head).toNat) (e : Option Ep) :
    s.ringDoorbell q t e = s.queueErr q 2 := by
  unfold State.ringDoorbell
  dsimp only
  rw [if_neg (by simp [hon]), if_neg (Nat.not_le.2 hahead), if_neg hmoves, if_pos (by simp only [hkind, hpast]; rfl)]

theorem State.ringDoorbell_moves (hkind : (s.queueOf q).kind = 1)
    (hfits : (t - (s.queueOf q).head).toNat ≤ 2 ^ ((s.queueOf q).lgn.toNat + 4))
    (hthawed : s.ctxFrozen (s.queueOf q).ctx.val = false) : s.ringDoorbell q t none =
      (s.modQueue q (fun u => {u with tail := t, ndb := u.ndb + 1})).statusLine q := by
  have hthawed' : (s.modQueue q (fun u => {u with tail := t, ndb := u.ndb + 1})).ctxFrozen (s.queueOf q).ctx.val = false := hthawed
  unfold State.ringDoorbell
  dsimp only
  rw [if_neg (by simp [hon]), if_neg (Nat.not_le.2 hahead), if_neg hmoves,
    if_neg (by simp [-BitVec.toNat_sub, hkind, hfits]), if_neg (Bool.eq_false_iff.1 hthawed'), if_pos hkind]

end Doorbell

section CoreDoorbell
variable {s : State} {q : QId} {h : Hart} (v : Word)

theorem execCoreDoorbell_bunged (hshut : s.bunged (machineryNi q.val) = true) :
    execCoreDoorbell (.core h) q v s = .next (s.ack (.core h) .bunged) :=
  congrArg Host.Outcome.next (State.atOwner_bunged rfl hshut)

theorem execCoreDoorbell_open (hopen : s.bunged (machineryNi q.val) = false) : execCoreDoorbell (.core h) q v s =
    .next ((if s.ownsQueue (.core h) q.val then s.ringDoorbell q.val (v.setWidth 32) none
      else s.dbDiscard q.val none).ack (.core h) .ok) :=
  congrArg Host.Outcome.next (State.atOwner_open hopen)

end CoreDoorbell

/-! ### The ring's entries (R374) -/

section Fetch
variable {q : QId} {s : State}

theorem execRingEntryFetch_idle
    (h : ¬ ((s.queueOf q.val).state = .on ∧ (s.ctxOf (s.queueOf q.val).ctx.val).state = .live)
      ∨ (s.queueOf q.val).kind ≠ 1 ∨ (s.queueOf q.val).fetched = (s.queueOf q.val).tail) :
    execRingEntryFetch q s = .next s := by
  refine congrArg Host.Outcome.next (if_pos ?_)
  simp only [Bool.or_eq_true, decide_eq_true_eq]
  tauto

theorem execRingEntryFetch_takes {pa k : Nat} {bs : List Byte} {t w : State}
    (hon : (s.queueOf q.val).state = .on ∧ (s.ctxOf (s.queueOf q.val).ctx.val).state = .live)
    (hkind : (s.queueOf q.val).kind = 1) (hgoes : (s.queueOf q.val).stalled = false)
    (hmore : (s.queueOf q.val).fetched ≠ (s.queueOf q.val).tail) (hthawed : s.ctxFrozen (s.queueOf q.val).ctx.val = false)
    (htrans : s.translate .none' (s.queueOf q.val).ctx.val ((s.queueOf q.val).rbase.toNat
      + 64 * ((s.queueOf q.val).fetched.toNat % 2 ^ ((s.queueOf q.val).lgn.toNat + 4))) .read = (.cask pa k, t))
    (hget : t.paGet (machinery q.val (t.ctxOf (s.queueOf q.val).ctx.val).slice.val) k pa 64 = (.ok, false, bs, w)) :
    execRingEntryFetch q s = .next (w.takeEntryQ q.val bs) := by
  simp [execRingEntryFetch, hon, hkind, hgoes, hmore, hthawed, htrans, hget]

theorem State.takeEntryQ_length (w : State) (n : Nat) (bs : List Byte) :
    (w.takeEntryQ n bs).hub.desc.length = w.hub.desc.length + 1 := by
  simp [State.takeEntryQ, State.modHub, State.modQueue]

end Fetch

/-! ### The last steps of an abort (R363, R380) -/

theorem State.sliceResetEnd_other {s : State} {n : Nat} (h : (s.sliceOf n).state ≠ .resetting) : s.sliceResetEnd n = s := by
  simp [State.sliceResetEnd, h]

theorem State.abortEnd_none {s : State} {x : Nat} (h : (s.ctxOf x).aborting = none) : s.abortEnd x = s := by
  simp [State.abortEnd, h]

/-- An abort's last steps: what they leave of the context, its slice and the command that waits for them. -/
theorem State.abortEnd_some {s : State} {x : Nat} {e : AbortEnd} {b : Option (Fin 4)}
    (h : (s.ctxOf x).aborting = some (e, b)) :
    (s.abortEnd x).hub.slice = s.hub.slice ∧ ((s.abortEnd x).ctxOf x).aborting = none
      ∧ (e = .free → ((s.abortEnd x).ctxOf x).state = .free)
      ∧ (∀ w, e = .lost w → ((s.abortEnd x).ctxOf x).state = .lost ∧ ((s.abortEnd x).ctxOf x).cause = BitVec.ofNat 8 w.code)
      ∧ ∀ k, b = some k → ((s.abortEnd x).cmdOf k.val).busy = false ∧ ((s.abortEnd x).cmdOf k.val).code = 0 := by
  unfold State.abortEnd
  simp -zeta only [h]
  extract_lets gates destroy queues dropped sl faults keys ctx counted
  have hslice : queues.hub.slice = s.hub.slice :=
    (Calm.foldl (fun s q => s.queueEnd_calm q destroy) (s.ctxQueues x) gates).2
  clear_value queues
  have hctx : counted.ctxOf x = ctx.ctxOf x ∧ counted.hub.slice = ctx.hub.slice := by
    unfold counted
    split <;> exact ⟨rfl, rfl⟩
  have hblk : ctx.ctxOf x = _ := State.ctxOf_modCtx keys x _
  obtain ⟨hcounted, hsame⟩ := hctx
  rw [hblk] at hcounted
  clear_value counted
  have hfree : e = .free → (counted.ctxOf x).state = .free := by
    rintro rfl
    exact congrArg Ctx.state hcounted
  have hlost : ∀ w, e = .lost w → (counted.ctxOf x).state = .lost ∧ (counted.ctxOf x).cause = BitVec.ofNat 8 w.code := by
    rintro w rfl
    exact ⟨congrArg Ctx.state hcounted, congrArg Ctx.cause hcounted⟩
  have hdone : (counted.ctxOf x).aborting = none := congrArg Ctx.aborting hcounted
  cases b with
  | none => exact ⟨hsame.trans hslice, hdone, hfree, hlost, by simp⟩
  | some b =>
    refine ⟨hsame.trans hslice, hdone, hfree, hlost, ?_⟩
    intro k hk
    obtain rfl := Option.some.inj hk
    exact ⟨State.cmdOf_cmdEnd_busy _ b.val 0, State.cmdOf_cmdEnd_code _ b.val 0⟩

theorem execAbortStepsDone_not_resetting {s : State} {x : CtxId} (h : (s.sliceOf (s.ctxOf x.val).slice.val).state ≠ .resetting)
    (hslice : (s.abortEnd x.val).hub.slice = s.hub.slice) : execAbortStepsDone x s = .next (s.abortEnd x.val) := by
  refine congrArg Host.Outcome.next (State.sliceResetEnd_other ?_)
  rwa [State.sliceOf, hslice]

section Release
variable {c : CoreId} {s : State}

theorem execPositionRelease_free (hheld : c ∈ s.hub.posHeld) (hfree : s.buffersFree c.val = true) :
    execPositionRelease c s = .next (((s.modHub (fun h => {h with posHeld := h.posHeld.erase c})).modCore
      c.val (fun k => {k with saving := false})).substNext c.val) := by
  simp [execPositionRelease, hheld, hfree]

theorem execPositionRelease_stays (h : c ∉ s.hub.posHeld ∨ s.buffersFree c.val = false) :
    execPositionRelease c s = .next s := by
  rcases h with h | h <;> simp [execPositionRelease, h]

end Release

/-- Settles O41: slot writes, doorbells, ring fetches and the end of an abort. -/
theorem machineryRegisters : Obligations.MachineryRegisters := by
  unfold Obligations.MachineryRegisters
  refine ⟨fun e h x q f i j v s => ?slots, fun q tail h v s => ?doorbells, fun x c e b s => ?aborts⟩
  case slots =>
    let context := fun (_ : Who) (s : State) => s.modCtx x.val (fun c => c.write i.val v)
    let queue := fun (_ : Who) (s : State) => s.modQueue q.val (fun u => u.write j.val v)
    let fence := fun (_ : Who) (s : State) => s.fenceWrite f.val j.val v
    have hctx := hostWrite (s := s) (cmd := fun w => .contextSlotWrite w x i v) (f := context) e fun _ => rfl
    have hqueue := hostWrite (s := s) (cmd := fun w => .queueSlotWrite w q j v) (f := queue) e fun _ => rfl
    refine ⟨guardedWrite (cmd := fun w => .contextSlotWrite w x i v) (f := context) e h fun _ => rfl,
      guardedWrite (cmd := fun w => .queueSlotWrite w q j v) (f := queue) e h fun _ => rfl,
      guardedWrite (cmd := fun w => .fenceCfgWrite w f j v) (f := fence) e h fun _ => rfl,
      fun hlow hhigh => hctx (by simp [hlow, hhigh]), fun hc => Ctx.write_not_free hc v,
      fun hc => Ctx.write_free hc v, fun hj => hqueue (by simp [hj]),
      fun hu => Queue.write_not_off hu _ v, ⟨_, rfl, s.fenceOf_fenceWrite f.val v⟩, rfl⟩
  case doorbells =>
    refine ⟨fun hno => congrArg Host.Outcome.next (State.ringDoorbell_discards hno none), ?_, ?_, ?_,
      fun hshut => execCoreDoorbell_bunged v hshut, fun hopen howns => ?_, fun hopen howns => ?_, rfl,
      fun hidle => execRingEntryFetch_idle hidle, ?_⟩
    · rintro hon rfl
      exact congrArg Host.Outcome.next (State.ringDoorbell_same hon none)
    · exact fun hon hahead hmoves hkind hpast =>
        congrArg Host.Outcome.next (State.ringDoorbell_overrun hon hahead hmoves hkind hpast none)
    · exact fun hon hahead hmoves hkind hfits hthawed =>
        congrArg Host.Outcome.next (State.ringDoorbell_moves hon hahead hmoves hkind hfits hthawed)
    · exact (execCoreDoorbell_open v hopen).trans (by rw [if_pos howns])
    · exact (execCoreDoorbell_open v hopen).trans (by rw [if_neg (Bool.eq_false_iff.1 howns)])
    · exact fun pa k bs t w hon hkind hgoes hmore hthawed htrans hget =>
        ⟨execRingEntryFetch_takes hon hkind hgoes hmore hthawed htrans hget, w.takeEntryQ_length q.val bs⟩
  case aborts =>
    refine ⟨fun habort hslice => ?_, fun hnone hslice => ?_, execPositionRelease_free, execPositionRelease_stays⟩
    · obtain ⟨hkept, hends⟩ := State.abortEnd_some habort
      exact ⟨_, execAbortStepsDone_not_resetting hslice hkept, hends⟩
    · have hsame := State.abortEnd_none hnone
      rw [exec_abortStepsDone, execAbortStepsDone_not_resetting hslice (by rw [hsame]), hsame]

end Sys2Proof.Machine
end

section

namespace Sys2Proof.Machine

/-! ### Messages once sent stay sent

An endpoint's interrupts and its queue of outgoing packets only add messages. -/

theorem State.emit_said (s : State) (m : Msg) : s.out ⊆ (s.emit m).out := List.subset_cons_self _ _
theorem State.modEp_said (s : State) (e : Ep) (f : HostEp → HostEp) : s.out ⊆ (s.modEp e f).out := by rw [State.modEp_out]; exact List.Subset.refl _

theorem foldl_said {α : Type} {f : State → α → State} (hf : ∀ s a, s.out ⊆ (f s a).out) (l : List α) (s : State) :
    s.out ⊆ (l.foldl f s).out := by
  induction l generalizing s with
  | nil => exact List.Subset.refl _
  | cons a l ih => exact List.Subset.trans (hf s a) (ih _)

theorem State.msixSend_said (s : State) (e : Ep) (v : Nat) : s.out ⊆ (s.msixSend e v).out := by
  have hlog : ∀ (s : State) k e a b, (s.xlogAdd k e a b).out = s.out := by
    intro s k e a b
    unfold State.xlogAdd
    split <;> rfl
  refine List.Subset.trans ?_ (State.emit_said _ _)
  rw [hlog]
  exact List.Subset.refl _

theorem State.pcieSend_said (s : State) (e : Ep) (r : OutReq) (ps : List (Nat × Nat)) : s.out ⊆ (s.pcieSend e r ps).out :=
  foldl_said (fun s _ => s.emit_said _) ps s

theorem State.drainLoop_said (e : Ep) (n : Nat) (s : State) (keep l : List Outb) :
    s.out ⊆ (State.drainLoop e n s keep l).1.out := by
  induction n generalizing s keep l with
  | zero => exact List.Subset.refl _
  | succ n ih =>
    match l with
    | [] => exact List.Subset.refl _
    | .msix v :: l => exact List.Subset.trans (s.msixSend_said e v.val) (ih _ _ _)
    | .req r :: l =>
      simp only [State.drainLoop]
      split
      · exact ih _ _ _
      · split
        · exact List.Subset.trans (s.pcieSend_said e r _) (ih _ _ _)
        · split
          · exact List.Subset.refl _
          · exact List.Subset.trans (s.pcieSend_said e r _) (ih _ _ _)

theorem State.drainOut_said (s : State) (e : Ep) : s.out ⊆ (s.drainOut e).out := by
  unfold State.drainOut
  split
  · exact List.Subset.trans (State.drainLoop_said e _ s [] _) (State.modEp_said _ e _)
  · exact List.Subset.refl _

theorem State.msixTrigger_said (s : State) (e : Ep) (v : Nat) : s.out ⊆ (s.msixTrigger e v).out := by
  simp only [State.msixTrigger]
  split
  · exact s.modEp_said e _
  · exact List.Subset.trans (s.modEp_said e _) (State.drainOut_said _ e)

end Sys2Proof.Machine
end

section

namespace Sys2Proof.Machine

/-! ### What the cellar book answers (R472, R490–R492) -/

section Answer
variable {s : State} {ch : CbChan} {op : Nat} {r : CbReq} {a : Answer} {f : State → Answer × State}

theorem State.mboxAnswer_said (e : Ep) : s.out ⊆ (s.mboxAnswer e op r a).out := by
  simp only [State.mboxAnswer]
  split
  · exact List.Subset.trans (s.modEp_said e _) (State.msixTrigger_said _ e 1)
  · exact s.modEp_said e _

theorem State.mboxAnswer_ports (e : Ep) : PortsOnly s (s.mboxAnswer e op r a) := by
  simp only [State.mboxAnswer]
  split
  · exact (s.modEp_ports e _).trans (State.msixTrigger_ports _ e 1)
  · exact s.modEp_ports e _

theorem State.bookAnswer_said : BookSaid (s.bookAnswer ch op r a) ch op r a.st a.total a.data := by
  cases ch with
  | mbox e => exact State.mboxAnswer_said e List.mem_cons_self
  | net x p => exact List.mem_cons_self

theorem State.bookAnswer_book : (s.bookAnswer ch op r a).book = {s.book with
    done := if a.st = 0 && s.boot.ready then s.book.done + 1 else s.book.done,
    notOk := if a.st = 0 then s.book.notOk else s.book.notOk + 1,
    kept := if chanNet ch then
        ((⟨ch, r.txid, op, r.index.toNat, r.sub.toNat, r.offset.toNat, a.st, a.data, a.total, s.now⟩ : Kept) :: s.book.kept).take 64
      else s.book.kept} := by
  cases ch with
  | mbox e => exact (State.mboxAnswer_ports e).book
  | net x p => rfl

/-- The answer to a request that is admitted, before it is sent. -/
def State.bookResult (s : State) (ch : CbChan) (op : Nat) (r : CbReq) (f : State → Answer × State) : Answer × State :=
  if r.ver ≠ 1 || (op = 2 && chanLimit ch < r.length.toNat) then ({st := 1, total := s.noTotal}, s)
  else if s.notReady op r.index.toNat r.sub.toNat then ({st := 11, total := s.noTotal}, s)
  else f s

section Net
variable (hnet : chanNet ch = true)
include hnet

theorem State.bookTake_unserved (h : s.bookServed = false) : s.bookTake ch op r f = s := by
  cases ch with
  | mbox e => simp [chanNet] at hnet
  | net x p => simp [State.bookTake, h]

theorem State.bookTake_malformed (hserved : s.bookServed = true) (h : cbMalformed r (op = 2) = true) :
    s.bookTake ch op r f = {s with book := {s.book with dgDisc := s.book.dgDisc + 1}} := by
  cases ch with
  | mbox e => simp [chanNet] at hnet
  | net x p => simp [State.bookTake, hserved, h]

variable (hserved : s.bookServed = true) (hwell : cbMalformed r (op = 2) = false)
include hserved hwell

theorem State.bookTake_repeats {k : Kept} (h : s.keptFor ch r = some k) : s.bookTake ch op r f =
    ({s with book := {s.book with repeated := s.book.repeated + 1}} : State).emit
      (.book ch k.op k.txid.toNat k.index k.sub k.status k.offset k.total k.data) := by
  cases ch with
  | mbox e => simp [chanNet] at hnet
  | net x p => simp [State.bookTake, hserved, hwell, h]

theorem State.bookTake_fresh (hcooper : s.boot.recovery = false) (h : s.keptFor ch r = none) : s.bookTake ch op r f =
    (s.bookResult ch op r f).2.bump.bookAnswer ch op r (s.bookResult ch op r f).1 := by
  cases ch with
  | mbox e => simp [chanNet] at hnet
  | net x p => simp [State.bookTake, State.bookResult, hserved, hwell, h, hcooper]

end Net

theorem State.bookResult_version (h : r.ver ≠ 1) : s.bookResult ch op r f = ({st := 1, total := s.noTotal}, s) :=
  if_pos (Bool.or_eq_true _ _ ▸ .inl (decide_eq_true h))

theorem State.bookResult_notReady (hver : r.ver = 1) (hfits : op = 2 → r.length.toNat ≤ chanLimit ch)
    (h : s.notReady op r.index.toNat r.sub.toNat = true) : s.bookResult ch op r f = ({st := 11, total := s.noTotal}, s) :=
  (if_neg (by simpa [hver] using hfits)).trans (if_pos h)

theorem State.bookTake_takes (h : s.BookTakes ch op r) :
    s.bookTake ch op r f = (f s).2.bump.bookAnswer ch op r (f s).1 := by
  obtain ⟨hver, hfits, hready, hcooper, hwaiting, hserved⟩ := h
  have hresult : s.bookResult ch op r f = f s :=
    (if_neg (by simpa [hver] using hfits)).trans (if_neg (Bool.eq_false_iff.1 hready))
  cases ch with
  | mbox e =>
    rw [← hresult]
    simp [State.bookTake, State.bookResult, hwaiting e rfl, hcooper]
  | net x p =>
    obtain ⟨hserved, hwell, hfresh⟩ := hserved x p rfl
    rw [State.bookTake_fresh rfl hserved hwell hcooper hfresh, hresult]

end Answer

/-! ### READ, DESC and LIST (R488, R490) -/

section Read
variable {s : State} {ch : CbChan} {r : CbReq} {e : Ent}

theorem execRead_answers (h : s.BookTakes ch 1 r) : ∃ t, execRead ch r s = .next t
    ∧ BookSaid t ch 1 r (s.bookRead ch r).1.st (s.bookRead ch r).1.total (s.bookRead ch r).1.data
    ∧ t.book.snap = (s.bookRead ch r).2.book.snap
    ∧ t.book.done = (s.bookRead ch r).2.book.done
      + (if (s.bookRead ch r).1.st = 0 ∧ (s.bookRead ch r).2.boot.ready = true then 1 else 0) := by
  refine ⟨_, congrArg Host.Outcome.next (State.bookTake_takes h), State.bookAnswer_said,
    (congrArg Book.snap (State.bookAnswer_book (s := _)) :), (congrArg Book.done (State.bookAnswer_book (s := _)) :).trans ?_⟩
  simp [State.bump]
  split <;> rfl

/-- How much one READ asks for at most. -/
abbrev readLimit (ch : CbChan) (r : CbReq) : Nat :=
  if r.length = 0 then chanLimit ch else min r.length.toNat (chanLimit ch)

/-- What READ finds of an entry without contents of its own kind. -/
theorem State.bookRead_eq (hring : r.index.toNat ≠ 0x3122) (htable : r.index.toNat ≠ 0x3131) : s.bookRead ch r =
    match s.odFind r.index.toNat r.sub.toNat with
    | .noEnt => ({st := 2, total := s.noTotal}, s)
    | .noSub => ({st := 3, total := s.noTotal}, s)
    | .ent e =>
      if e.acc = 2 then ({st := 4, total := s.noTotal}, s)
      else if e.size ≤ r.offset.toNat then ({st := 6, total := e.size}, s)
      else if r.offset.toNat = 0 then
        ({st := 0, total := e.size, data := e.val.take (readLimit ch r)},
          ({s with book := {s.book with snap := keepSnap s.book.snap ⟨ch, r.index.toNat, r.sub.toNat, e.val, s.now⟩}} : State))
      else match s.book.snap.find? (fun x => x.chan = ch && x.index = r.index.toNat && x.sub = r.sub.toNat
          && s.now < x.at' + 1000000000) with
        | some x => ({st := 0, total := e.size, data := (x.data.drop r.offset.toNat).take (readLimit ch r)}, s)
        | none => ({st := 10, total := s.noTotal}, s) := by
  simp [State.bookRead, hring, htable]
  rfl

end Read

/-- Settles O50: what the cellar book admits, and what READ, DESC and LIST answer. -/
theorem bookReads : Obligations.BookReads := by
  unfold Obligations.BookReads
  refine ⟨fun ch r s hcooper hnet => ?admits, fun ch r e x s => ?reads⟩
  case admits =>
    intro rows c hc
    obtain ⟨f, hf⟩ : ∃ f, exec c.2 s = .next (s.bookTake ch c.1 r f) := by
      simp only [rows, List.mem_cons, List.not_mem_nil, or_false] at hc
      rcases hc with rfl | rfl | rfl | rfl <;> exact ⟨_, rfl⟩
    rw [hf]
    refine ⟨fun h => ?_, fun hserved h => ?_, fun hserved hwell => ⟨fun k h => ?_, fun h hver => ?_, fun h hver hfits hbusy => ?_⟩⟩
    · rw [State.bookTake_unserved hnet h]
    · rw [State.bookTake_malformed hnet hserved h]
    · rw [State.bookTake_repeats hnet hserved hwell h]
    · rw [State.bookTake_fresh hnet hserved hwell hcooper h, State.bookResult_version hver]
      exact ⟨_, _, rfl, State.bookAnswer_said, congrArg Book.notOk State.bookAnswer_book⟩
    · rw [State.bookTake_fresh hnet hserved hwell hcooper h, State.bookResult_notReady hver hfits hbusy]
      exact ⟨_, _, rfl, State.bookAnswer_said, congrArg Book.notOk State.bookAnswer_book⟩
  case reads =>
    refine ⟨fun htakes hring htable => ?_, fun htakes hent => ?_, fun htakes => ?_⟩
    · obtain ⟨t, ht, hsaid, hsnap, hdone⟩ := execRead_answers htakes
      have hread := State.bookRead_eq (s := s) (ch := ch) hring htable
      refine ⟨fun h => ?_, fun h => ?_, fun h => ⟨fun hacc => ?_, fun hacc hpast => ?_, fun hacc hsize hoff => ?_,
        fun hacc hsize hoff => ⟨fun hkept => ?_, fun hkept => ?_⟩⟩⟩
      all_goals
        simp only [h] at hread
        rw [hread] at hsaid hsnap hdone
      · exact ⟨_, t, ht, hsaid⟩
      · exact ⟨_, t, ht, hsaid⟩
      · rw [if_pos hacc] at hsaid
        exact ⟨_, t, ht, hsaid⟩
      · rw [if_neg hacc, if_pos hpast] at hsaid
        exact ⟨t, ht, hsaid⟩
      · rw [if_neg hacc, if_neg (by omega), if_pos hoff] at hsaid hsnap hdone
        exact ⟨⟨t, ht, hsaid⟩, t, ht, hsnap, by simpa using hdone⟩
      · rw [if_neg hacc, if_neg (by omega), if_neg (by omega), hkept] at hsaid
        exact ⟨t, ht, hsaid⟩
      · rw [if_neg hacc, if_neg (by omega), if_neg (by omega), hkept] at hsaid
        exact ⟨_, t, ht, hsaid⟩
    · refine ⟨_, congrArg Host.Outcome.next (State.bookTake_takes htakes), ?_⟩
      simp only [State.bookDesc, hent]
      exact State.bookAnswer_said
    · exact ⟨_, _, congrArg Host.Outcome.next (State.bookTake_takes htakes), State.bookAnswer_said⟩

end Sys2Proof.Machine
end

section

namespace Sys2Proof.Machine

/-! ### What packets, bungs and lost contexts leave of the power side

The power registers stay, and no link is fenced or released. -/

structure PowerStands (s t : State) : Prop where
  power : t.power = s.power
  fenced : ∀ a, (t.linkOf a).fenced = (s.linkOf a).fenced

namespace PowerStands

variable {s t u : State}

theorem refl (s : State) : PowerStands s s := ⟨rfl, fun _ => rfl⟩

theorem trans (hst : PowerStands s t) (htu : PowerStands t u) : PowerStands s u :=
  ⟨htu.power.trans hst.power, fun a => (htu.fenced a).trans (hst.fenced a)⟩

theorem of_eq (hpower : t.power = s.power) (hlink : t.link = s.link) : PowerStands s t :=
  ⟨hpower, fun a => by rw [State.linkOf, hlink]; rfl⟩

theorem foldl {α : Type} {f : State → α → State} (hf : ∀ s a, PowerStands s (f s a)) (l : List α) (s : State) :
    PowerStands s (l.foldl f s) := by
  induction l generalizing s with
  | nil => exact .refl s
  | cons a l ih => exact (hf s a).trans (ih _)

end PowerStands

theorem State.modLink_powerStands (s : State) (a : Nat) {f : LinkDie → LinkDie} (hf : ∀ l, (f l).fenced = l.fenced) :
    PowerStands s (s.modLink a f) := by
  refine ⟨rfl, fun b => ?_⟩
  show (tget {} (tmod {} s.link a f) b).fenced = _
  by_cases hba : b = a
  · subst hba
    rw [tget_tmod_self, hf]
    rfl
  · rw [tget_tmod_ne _ _ _ hba]
    rfl

theorem State.emit_powerStands (s : State) (m : Msg) : PowerStands s (s.emit m) := .of_eq rfl rfl
theorem State.modNi_powerStands (s : State) (n : Nat) (f : Ni → Ni) : PowerStands s (s.modNi n f) := .of_eq rfl rfl
theorem State.modCask_powerStands (s : State) (k : Nat) (f : Cask → Cask) : PowerStands s (s.modCask k f) := .of_eq rfl rfl
theorem State.modDie_powerStands (s : State) (x : Nat) (f : Die → Die) : PowerStands s (s.modDie x f) := .of_eq rfl rfl
theorem State.modHub_powerStands (s : State) (f : Hubm → Hubm) : PowerStands s (s.modHub f) := .of_eq rfl rfl
theorem State.modQueue_powerStands (s : State) (q : Nat) (f : Queue → Queue) : PowerStands s (s.modQueue q f) := .of_eq rfl rfl
theorem State.breakChan_powerStands (s : State) (ch : Nat) : PowerStands s (s.breakChan ch) := .of_eq rfl rfl
theorem State.turnAway_powerStands (s : State) (ni : Nat) (u : Unanswered) (st : Status) :
    PowerStands s (s.turnAway ni u st) := .of_eq rfl rfl
theorem State.niDown_powerStands (s : State) (ni : Nat) : PowerStands s (s.niDown ni) := .of_eq rfl rfl
theorem State.modGate_powerStands (s : State) (x : Nat) (f : Gate → Gate) : PowerStands s (s.modGate x f) := .of_eq rfl rfl

theorem State.modDir_powerStands (s : State) (a m : Nat) (toHub : Bool) (f : LinkDir → LinkDir) :
    PowerStands s (s.modDir a m toHub f) := s.modLink_powerStands a fun _ => rfl

theorem State.linkSend_powerStands (s : State) (a m : Nat) (toHub : Bool) (c : LinkCmd) :
    PowerStands s (s.linkSend a m toHub c) := by
  simp only [State.linkSend]
  split
  · exact (s.modDir_powerStands a m toHub (fun d => d.sent c)).trans (.of_eq rfl rfl)
  · exact s.modDir_powerStands a m toHub _

theorem State.graftReply_powerStands (s : State) (x m tag : Nat) (op : TOp) (len : Nat) (st : Status)
    (data : List (Sector × Bool)) : PowerStands s (s.graftReply x m tag op len st data) :=
  (s.linkSend_powerStands ..).trans (.of_eq rfl rfl)

theorem State.graftBack_powerStands (s : State) (x m tag : Nat) (st : Status) (data : List (Sector × Bool)) :
    PowerStands s (s.graftBack x m tag st data) := by
  simp only [State.graftBack]
  split
  · exact .refl s
  · split
    · exact s.modGate_powerStands x _
    · exact (s.modGate_powerStands x _).trans (State.graftReply_powerStands ..)

theorem State.handRsp_powerStands (s : State) (ni : Nat) (t : OutTag) (st : Status) (data : List (Sector × Bool)) :
    PowerStands s (s.handRsp ni t st data) := by
  simp only [State.handRsp]
  split
  · exact .refl s
  · split
    · exact s.graftBack_powerStands ..
    · exact s.linkSend_powerStands ..

theorem State.sendReq_powerStands (s : State) (ni : Nat) (q : NReq) (hbad : Bool) (data : List Sector) :
    PowerStands s (s.sendReq ni q hbad data) := by
  simp only [State.sendReq]
  split
  · exact (s.emit_powerStands _).trans (State.handRsp_powerStands ..)
  · split <;> exact .of_eq rfl rfl

theorem State.bungEngage_powerStands (s : State) (ni : Nat) : PowerStands s (s.bungEngage ni) := by
  simp only [State.bungEngage]
  split
  · exact .refl s
  · exact (((s.modNi_powerStands ni _).trans (.foldl (fun s h => s.sendReq_powerStands ..) _ _)).trans
      (.foldl (fun s u => s.turnAway_powerStands ..) _ _)).trans (State.modNi_powerStands ..)

theorem State.bungAll_powerStands (s : State) (d : Domain) : PowerStands s (s.bungAll d) :=
  .foldl State.bungEngage_powerStands _ s

theorem State.charge_powerStands (s : State) (pa n : Nat) (wr : Bool) : PowerStands s (s.charge pa n wr) := by
  refine .foldl (fun s i => ?_) _ s
  split <;> exact .of_eq rfl rfl

theorem State.arrayWrite_powerStands (s : State) (pa : Nat) (f : Nat → Cask → Nat → Cask) :
    PowerStands s (s.arrayWrite pa f) := by
  unfold State.arrayWrite
  split
  · exact (s.modCask_powerStands ..).trans (State.charge_powerStands ..)
  · exact (s.modCask_powerStands ..).trans (State.charge_powerStands ..)
  · exact .refl s

theorem State.poisonLine_powerStands (s : State) (line : Nat) (count : Bool) : PowerStands s (s.poisonLine line count) := by
  cases count with
  | false => exact s.arrayWrite_powerStands ..
  | true => exact (s.arrayWrite_powerStands ..).trans (.of_eq rfl rfl)

theorem State.purgeSite_powerStands (s : State) (x : Nat) : PowerStands s (s.purgeSite x) := by
  refine .foldl (fun s k => ?_) _ s
  refine PowerStands.trans (.foldl (fun s p => ?_) _ s) (State.modCask_powerStands ..)
  dsimp only
  split
  · refine PowerStands.trans ?_ (State.modCask_powerStands ..)
    split
    · exact s.poisonLine_powerStands ..
    · exact .refl s
  · exact .refl s

theorem State.logEvent_powerStands (s : State) (cls die code d0 d1 : Nat) :
    PowerStands s (s.logEvent cls die code d0 d1) := by
  simp only [State.logEvent]
  split
  · exact .refl s
  · exact .of_eq rfl rfl

theorem State.fenceAbandon_powerStands (s : State) (n : Nat) : PowerStands s (s.fenceAbandon n) :=
  .of_eq (s.fenceAbandon_power n) (s.fenceAbandon_link n)

theorem State.abortBegin_powerStands (s : State) (x : Nat) (e : AbortEnd) (blk : Option (Fin 4)) :
    PowerStands s (s.abortBegin x e blk) := by
  simp only [State.abortBegin]
  refine .trans (.trans (.trans (.trans (.trans ?begun (.foldl (fun s b => s.breakChan_powerStands _) _ _))
    (State.modHub_powerStands ..)) (.foldl (fun s q => s.modQueue_powerStands _ _) _ _))
    (.foldl (fun s f => s.fenceAbandon_powerStands _) _ _)) (.foldl (fun s d => ?dropped) _ _)
  case begun => split <;> split <;> exact .of_eq rfl rfl
  case dropped =>
    split
    · exact s.fenceAbandon_powerStands _
    · exact .refl s

theorem State.ctxLose_powerStands (s : State) (x : Nat) (c : LossCause) : PowerStands s (s.ctxLose x c) := by
  unfold State.ctxLose
  split
  · exact (s.logEvent_powerStands ..).trans (State.abortBegin_powerStands ..)
  · exact .refl s

theorem State.siteCut_powerStands (s : State) (x : Site) : PowerStands s (s.siteCut x) :=
  .trans (.trans (s.bungAll_powerStands _) (State.purgeSite_powerStands ..))
    (.foldl (fun s c => s.ctxLose_powerStands c _) _ _)

theorem State.nisUnready_powerStands (s : State) (d : Domain) : PowerStands s (s.nisUnready d) :=
  .foldl (fun s n => s.modNi_powerStands n _) _ s

theorem State.nisDown_powerStands (s : State) (d : Domain) : PowerStands s (s.nisDown d) :=
  .foldl State.niDown_powerStands _ s

theorem State.siteReset_powerStands (s : State) (x : Site) : PowerStands s (s.siteReset x) := by
  have hdown := (s.siteCut_powerStands x).trans (State.nisDown_powerStands _ (.site x))
  simp only [State.siteReset]
  generalize (s.siteCut x).nisDown (.site x) = t at hdown ⊢
  exact (((hdown.trans (t.modDie_powerStands ..)).trans (State.modHub_powerStands ..)).trans
    (State.modGate_powerStands ..)).trans (State.modLink_powerStands _ _ fun _ => rfl)

theorem State.caskReset_powerStands (s : State) (k : CaskId) : PowerStands s (s.caskReset k) :=
  ((s.bungAll_powerStands (.cask k)).trans (State.nisDown_powerStands _ (.cask k))).trans (State.modCask_powerStands ..)

end Sys2Proof.Machine
end

section

namespace Sys2Proof.Machine

/-! ### What fencing a site, or switching it off, leaves of the others -/

theorem GatesStand.powered {s t : State} (h : GatesStand s t) (x : Nat) : (t.gateOf x).powered = (s.gateOf x).powered := by
  rw [← h.gate x]
  rfl

/-- What says whether site `y` is governed, and its power registers. -/
def State.siteView (s : State) (y : Nat) : Fuses × Bool × Bool × DiePow :=
  (s.fuses, (s.linkOf y).fenced, (s.gateOf y).powered, s.powOf y)

theorem State.powered_of_view {s t : State} {y : Nat} (h : t.siteView y = s.siteView y) :
    (t.gateOf y).powered = (s.gateOf y).powered := congrArg (fun v => v.2.2.1) h

/-- Only site `x` is touched: its gate, its link, its power registers. -/
structure SiteOnly (x : Nat) (s t : State) : Prop where
  power : {t.power with die := s.power.die} = s.power
  view : ∀ y, y ≠ x → t.siteView y = s.siteView y

namespace SiteOnly

variable {x : Nat} {s t u : State}

theorem refl (s : State) : SiteOnly x s s := ⟨rfl, fun _ _ => rfl⟩

theorem trans (hst : SiteOnly x s t) (htu : SiteOnly x t u) : SiteOnly x s u where
  power := by
    rw [← hst.power, ← htu.power]
  view y hy := (htu.view y hy).trans (hst.view y hy)

theorem of_stands (hpower : PowerStands s t) (hgate : GatesStand s t) : SiteOnly x s t where
  power := by rw [hpower.power]
  view y _ := by
    simp only [State.siteView, State.powOf, hpower.power, hgate.fuses, hpower.fenced, hgate.powered]

/-- A step that leaves fuses, power registers, links and gates alone. -/
theorem of_eq (hfuses : t.fuses = s.fuses) (hpower : t.power = s.power) (hlink : t.link = s.link) (hgate : t.gate = s.gate) :
    SiteOnly x s t where
  power := by rw [hpower]
  view y _ := by simp only [State.siteView, State.powOf, State.linkOf, State.gateOf, hfuses, hpower, hlink, hgate]

end SiteOnly

section
variable {x : Nat} (s : State)
theorem State.emit_siteOnly (m : Msg) : SiteOnly x s (s.emit m) := .of_eq rfl rfl rfl rfl
theorem State.modDie_siteOnly (y : Nat) (f : Die → Die) : SiteOnly x s (s.modDie y f) := .of_eq rfl rfl rfl rfl
theorem State.modHub_siteOnly (f : Hubm → Hubm) : SiteOnly x s (s.modHub f) := .of_eq rfl rfl rfl rfl
theorem State.siteResult_siteOnly (i r : Nat) : SiteOnly x s (s.siteResult i r) := .of_eq rfl rfl rfl rfl
end

theorem State.modLink_siteOnly (s : State) (x : Nat) (f : LinkDie → LinkDie) : SiteOnly x s (s.modLink x f) :=
  ⟨rfl, fun y hy => by simp only [State.siteView, State.linkOf_modLink_ne _ _ hy]; rfl⟩

theorem State.modGate_siteOnly (s : State) (x : Nat) (f : Gate → Gate) : SiteOnly x s (s.modGate x f) :=
  ⟨rfl, fun y hy => by simp only [State.siteView, State.gateOf_modGate_ne _ _ hy]; rfl⟩

theorem State.modPow_siteOnly (s : State) (x : Nat) (f : DiePow → DiePow) : SiteOnly x s (s.modPow x f) :=
  ⟨rfl, fun y hy => by simp only [State.siteView, State.powOf_modPow_ne _ _ hy]; rfl⟩

theorem State.logEvent_siteOnly {x : Nat} (s : State) (cls die code d0 d1 : Nat) :
    SiteOnly x s (s.logEvent cls die code d0 d1) :=
  .of_stands (s.logEvent_powerStands ..) (s.logEvent_gatesStand ..)

theorem State.siteFence_siteOnly (s : State) (x : Site) (code : Nat) : SiteOnly x.val s (s.siteFence x code) := by
  have hcut : SiteOnly x.val s ((s.siteCut x).nisUnready (.site x)) :=
    .of_stands ((s.siteCut_powerStands x).trans (State.nisUnready_powerStands _ (.site x)))
      ((s.siteCut_gatesStand x).trans (State.nisUnready_gatesStand _ (.site x)))
  simp only [State.siteFence]
  generalize (s.siteCut x).nisUnready (.site x) = t at hcut ⊢
  have hmarked := hcut.trans (t.modLink_siteOnly x.val (fun l => {l with fenced := true}))
  refine .trans ?_ (State.logEvent_siteOnly _ 3 (dieSite x.val) code x.val 0)
  refine .trans (t := if _ then _ else _) ?_ (.of_eq rfl rfl rfl rfl)
  split
  · exact hmarked.trans (State.modGate_siteOnly ..)
  · exact hmarked

theorem State.siteOff_siteOnly (s : State) (x : Site) : SiteOnly x.val s (s.siteOff x) := by
  have hdown : SiteOnly x.val s ((s.siteCut x).nisDown (.site x)) :=
    .of_stands ((s.siteCut_powerStands x).trans (State.nisDown_powerStands _ (.site x)))
      ((s.siteCut_gatesStand x).trans (State.nisDown_gatesStand _ (.site x)))
  simp only [State.siteOff, State.siteReset]
  generalize (s.siteCut x).nisDown (.site x) = t at hdown ⊢
  exact (((((hdown.trans (t.modDie_siteOnly ..)).trans (State.modHub_siteOnly ..)).trans (State.modGate_siteOnly ..)).trans
    (State.modLink_siteOnly ..)).trans (State.modGate_siteOnly ..)).trans (State.modPow_siteOnly ..)

theorem State.graftFence_siteOnly (s : State) (x : Site) (cause : Nat) : SiteOnly x.val s (s.graftFence x cause) := by
  have hsaid := (s.emit_siteOnly (x := x.val) (.sideband (linkId x.val) false 0x22 0x100)).trans
    (State.emit_siteOnly _ (.sideband (linkId x.val) false 0x05 5))
  simp only [State.graftFence]
  generalize (s.emit (.sideband (linkId x.val) false 0x22 0x100)).emit (.sideband (linkId x.val) false 0x05 5) = t at hsaid ⊢
  have hoff := (t.siteFence_siteOnly x (0x2900 + x.val)).trans (State.siteOff_siteOnly _ x)
  generalize (t.siteFence x (0x2900 + x.val)).siteOff x = u at hoff ⊢
  exact ((hsaid.trans hoff).trans (u.modGate_siteOnly ..)).trans (State.siteResult_siteOnly ..)

theorem State.gateOf_siteOff_powered (s : State) (x : Site) : ((s.siteOff x).gateOf x.val).powered = false := by
  rw [State.siteOff, State.gateOf_modPow, State.gateOf_modGate]

theorem State.siteOff_powerless (s : State) (x : Site) :
    s.siteOff x = ((s.siteReset x).modGate x.val (fun g => {g with powered := false})).modPow x.val (fun p => {p with reports := 0}) :=
  rfl

theorem State.modPow_linkOf (s : State) (x a : Nat) (f : DiePow → DiePow) : (s.modPow x f).linkOf a = s.linkOf a := rfl
theorem State.modGate_linkOf (s : State) (x a : Nat) (f : Gate → Gate) : (s.modGate x f).linkOf a = s.linkOf a := rfl

theorem State.siteOff_fenced (s : State) (x : Site) (a : Nat) : ((s.siteOff x).linkOf a).fenced = (s.linkOf a).fenced := by
  rw [State.siteOff_powerless, State.modPow_linkOf, State.modGate_linkOf, (s.siteReset_powerStands x).fenced]

end Sys2Proof.Machine
end

section

namespace Sys2Proof.Machine

/-! ### What the twin port's own operations leave alone -/

/-- Only the twin port, the endpoints' interrupts and what is sent and recorded of them differ. -/
def TwinSide (s t : State) : Prop :=
  {t with ioa := s.ioa, iob := s.iob, out := s.out, obs := s.obs, freeCtr := s.freeCtr, twin := s.twin} = s

namespace TwinSide

variable {s t u : State}

theorem refl (s : State) : TwinSide s s := rfl

theorem trans (hst : TwinSide s t) (htu : TwinSide t u) : TwinSide s u := by
  unfold TwinSide at *
  rw [← hst, ← htu]

theorem of_ports (h : PortsOnly s t) : TwinSide s t := by
  unfold TwinSide
  unfold PortsOnly at h
  rw [← h]

variable (h : TwinSide s t)
include h

theorem pending : t.pending = s.pending := by rw [← show _ = s from h]
theorem fuses : t.fuses = s.fuses := by rw [← show _ = s from h]
theorem hub : t.hub = s.hub := by rw [← show _ = s from h]
theorem link : t.link = s.link := by rw [← show _ = s from h]
theorem gate : t.gate = s.gate := by rw [← show _ = s from h]
theorem sec : t.sec = s.sec := by rw [← show _ = s from h]
theorem boot : t.boot = s.boot := by rw [← show _ = s from h]
theorem power : t.power = s.power := by rw [← show _ = s from h]
theorem time : t.time = s.time := by rw [← show _ = s from h]
theorem avail : t.avail = s.avail := by rw [← show _ = s from h]

end TwinSide

section
variable (s : State)

theorem State.modTwin_twinSide (f : Twin → Twin) : TwinSide s (s.modTwin f) := rfl

theorem State.twinCtl_twinSide (k : Nat) (b : List Byte) : TwinSide s (s.twinCtl k b) := by
  unfold State.twinCtl
  split <;> rfl

theorem State.setRole_twinSide (r : Nat) : TwinSide s (s.setRole r) := by
  unfold State.setRole
  split
  · rfl
  · exact (s.modTwin_twinSide _).trans (.of_ports (State.raiseTwin_ports _))

theorem State.switchGo_twinSide : TwinSide s s.switchGo := by
  unfold State.switchGo
  split
  · rfl
  next c _ =>
    have hsent : ∀ (f : Twin → Twin) b, TwinSide s ((s.modTwin f).twinCtl 5 b) := fun f b =>
      (s.modTwin_twinSide f).trans (State.twinCtl_twinSide _ 5 b)
    dsimp only
    split
    · rfl
    · split
      · split
        · exact (hsent _ _).trans (State.setRole_twinSide _ 0)
        · rfl
      · split
        · exact hsent _ _
        · rfl

end

end Sys2Proof.Machine
end

section

namespace Sys2Proof.Machine

/-! ### Rails (R499, R576, R579) -/

section Rail
variable {s : State}

/-- Every site of a list told its floor: registers and messages. -/
theorem State.sendFloors_eq (s : State) (l : List Nat) : l.foldl (fun s x => s.sendBudget x (s.floorOf x)) s =
    {s with
      power := {s.power with die := l.foldl (fun t x => tmod {} t x (fun p => {p with budget := s.floorOf x})) s.power.die},
      out := (l.map (fun x => Msg.sideband (linkId x) false 0x10 (s.floorOf x + 2 ^ 16 * s.power.bseq.toNat))).reverse ++ s.out} := by
  induction l generalizing s with
  | nil => rfl
  | cons a l ih =>
    rw [List.foldl_cons, ih]
    simp [State.sendBudget, State.emit, State.modPow, State.floorOf, State.isGraft, State.gateOf, dieSite]

theorem State.governedSites_mem {x : Nat} : x ∈ s.governedSites ↔ x < 16 ∧ s.governed x = true := by
  simp [State.governedSites]

theorem State.governedSites_nodup : s.governedSites.Nodup := List.nodup_range.filter _

/-- A clamp: counted, and every governed site told its floor. -/
theorem State.clamp_eq (s : State) : s.clamp = {s with
    power := {s.power with
      clamps := (s.power.clamps + 1) % 2 ^ 32, clamped := true
      die := s.governedSites.foldl (fun t x => tmod {} t x (fun p => {p with budget := s.floorOf x})) s.power.die},
    out := (s.governedSites.map (fun x =>
      Msg.sideband (linkId x) false 0x10 (s.floorOf x + 2 ^ 16 * s.power.bseq.toNat))).reverse ++ s.out} :=
  State.sendFloors_eq (s := {s with power := {s.power with clamps := (s.power.clamps + 1) % 2 ^ 32, clamped := true}})
    s.governedSites

theorem State.powOf_clamp (s : State) (x : Nat) :
    s.clamp.powOf x = if x ∈ s.governedSites then {s.powOf x with budget := s.floorOf x} else s.powOf x := by
  rw [State.clamp_eq]
  exact tget_foldl_tmod ({} : DiePow) (fun x p => {p with budget := s.floorOf x}) s.governedSites_nodup s.power.die x

variable {r : RailSample}

/-- The rails of a sample that are out of range and judged. -/
abbrev State.railsOut (s : State) (r : RailSample) : List Nat := (r.out.map (·.val)).filter (fun j => s.railJudged j)

theorem execRailSample_quiet (hpower : r.power ≤ 36300 ∨ s.power.clamped = true) : execRailSample r s =
    .next (((s.railsOut r).filter (fun j => s.power.railOut.contains j)).foldl State.railFault
      {s with power := {s.power with railOut := s.railsOut r}}) := by
  have hno : ¬ (36300 < r.power && !s.power.clamped) = true := by
    rcases hpower with h | h
    · simp [Nat.not_lt.2 h]
    · simp [h]
  simp only [execRailSample, if_neg hno]

theorem filter_seen_nil {out : List Nat} (seen : List Nat) (h : ∀ j ∈ out, j ∉ seen) : out.filter (fun j => seen.contains j) = [] := by
  simpa [List.filter_eq_nil_iff] using h

theorem execRailSample_clamps (hpower : 36300 < r.power) (hfree : s.power.clamped = false)
    (hnew : ∀ j ∈ s.railsOut r, j ∉ s.power.railOut) :
    execRailSample r s = .next {s.clamp with power := {s.clamp.power with railOut := s.railsOut r}} := by
  have hgo : (36300 < r.power && !s.power.clamped) = true := by simp [hpower, hfree]
  have hout : (r.out.map (·.val)).filter (fun j => s.clamp.railJudged j) = s.railsOut r := by
    rw [State.clamp_eq]
    rfl
  have hseen : s.clamp.power.railOut = s.power.railOut := by rw [State.clamp_eq]
  simp only [execRailSample, if_pos hgo, hout, hseen, filter_seen_nil _ hnew, List.foldl_nil]

theorem State.railFault_site {j : Nat} (hj : j < 16) (hdie : s.isGraft j = false) (hon : (s.gateOf j).powered = true) :
    s.railFault j = (s.siteFence ⟨j, hj⟩ 0x2000).siteOff ⟨j, hj⟩ := by
  simp [State.railFault, hj, Nat.mod_eq_of_lt hj, hon, hdie]

theorem State.railFault_site_off {j : Nat} (hj : j < 16) (hdie : s.isGraft j = false) (hon : (s.gateOf j).powered = true) :
    ((s.railFault j).gateOf j).powered = false ∧ ((s.railFault j).linkOf j).fenced = true := by
  rw [State.railFault_site hj hdie hon]
  exact ⟨State.gateOf_siteOff_powered _ ⟨j, hj⟩, (State.siteOff_fenced _ ⟨j, hj⟩ j).trans (s.siteFence_fenced ⟨j, hj⟩ 0x2000)⟩

theorem State.railFault_package {j : Nat} (h : (20 ≤ j ∧ j < 26) ∨ 41 ≤ j) : s.railFault j = s.holdReset := by
  unfold State.railFault
  extract_lets site cask
  rw [if_neg (by omega), if_neg (by omega), if_neg (by simp; omega), if_neg (by simp; omega), if_neg (by simp; omega),
    if_neg (by simp; omega)]

end Rail

/-! ### Temperatures (R513) -/

section Temperature
variable {s : State} {temp : Int}

theorem State.dieCritical_spec (s : State) (i : Nat) : i ∈ (s.dieCritical i).power.critical
    ∧ (i ∉ s.power.critical → (s.dieCritical i).power.overtemp = true) ∧ ((s.dieCritical i).powOf i).temp = (s.powOf i).temp
    ∧ (s.dieCritical i).power.hubClamp = s.power.hubClamp := by
  unfold State.dieCritical
  split
  next h => exact ⟨by simpa using h, fun hno => absurd (by simpa using h) hno, rfl, rfl⟩
  next => exact ⟨List.mem_cons_self, fun _ => rfl, (congrArg DiePow.temp (State.powOf_modPow s i (fun p => {p with events := satAdd 8191 p.events 1})) :), rfl⟩

theorem State.logEvent_power (s : State) (cls die code d0 d1 : Nat) : (s.logEvent cls die code d0 d1).power = s.power :=
  (s.logEvent_powerStands cls die code d0 d1).power

theorem execDieTemperatureSample_die {die : Fin 32} (hlow : 28 ≤ die.val) (hdie : die.val ≠ dieHub) :
    execDieTemperatureSample die temp s = .next (if 1100 ≤ temp then
      (if s.power.critical.contains die.val then s.modPow die.val (fun p => {p with temp := temp})
        else ((s.modPow die.val (fun p => {p with temp := temp})).dieCritical die.val).logEvent 3 die.val 0x2F01 0 0)
      else (s.modPow die.val (fun p => {p with temp := temp})).dieCool die.val) :=
  congrArg Host.Outcome.next ((if_neg (Nat.not_lt.2 hlow)).trans (if_neg hdie))

/-- The hub's sample once its clamp has acted. -/
def State.hubSampled (s : State) (temp : Int) : State :=
  let s := s.modPow dieHub (fun p => {p with temp := temp})
  let clamp := 1050 ≤ temp || (s.power.hubClamp && 1020 ≤ temp)
  let s := if clamp && !s.power.hubClamp then s.clamp else s
  {s with power := {s.power with hubClamp := clamp}}

theorem State.hubSampled_spec (s : State) (temp : Int) : ((s.hubSampled temp).powOf dieHub).temp = temp
    ∧ (s.hubSampled temp).power.hubClamp = decide (1050 ≤ temp ∨ (s.power.hubClamp = true ∧ 1020 ≤ temp))
    ∧ (s.hubSampled temp).power.critical = s.power.critical
    ∧ (s.power.hubClamp = false → 1050 ≤ temp → (s.hubSampled temp).power.clamps = (s.power.clamps + 1) % 2 ^ 32) := by
  have htemp : ((s.modPow dieHub (fun p => {p with temp := temp})).powOf dieHub).temp = temp :=
    congrArg DiePow.temp (State.powOf_modPow s dieHub _)
  have hclamp := State.powOf_clamp (s.modPow dieHub (fun p => {p with temp := temp})) dieHub
  have hhub : dieHub ∉ (s.modPow dieHub (fun p => {p with temp := temp})).governedSites := fun h =>
    absurd (State.governedSites_mem.1 h).1 (by decide)
  rw [if_neg hhub] at hclamp
  have heq := State.clamp_eq (s.modPow dieHub (fun p => {p with temp := temp}))
  unfold State.hubSampled
  extract_lets u clamp v
  refine ⟨?_, by simp [clamp, u, State.modPow], ?_, fun hno hhot => ?_⟩
  · show (v.powOf dieHub).temp = temp
    unfold v
    split
    · rw [hclamp, htemp]
    · exact htemp
  · show v.power.critical = _
    unfold v
    split
    · rw [heq]
      rfl
    · rfl
  · show v.power.clamps = _
    unfold v
    rw [if_pos (by simp [clamp, u, State.modPow, hno, hhot]), heq]
    rfl

theorem execDieTemperatureSample_hub {die : Fin 32} (hdie : die.val = dieHub) :
    execDieTemperatureSample die temp s = .next (if 1100 ≤ temp then
      (if s.power.critical.contains dieHub then s.hubSampled temp else ((s.hubSampled temp).dieCritical dieHub).hubCritical)
      else (s.hubSampled temp).dieCool dieHub) := by
  unfold execDieTemperatureSample
  rw [hdie]
  rfl

/-- Only the hub differs. -/
def HubOnly (s t : State) : Prop := {t with hub := s.hub} = s

namespace HubOnly
variable {t u : State}
theorem trans (hst : HubOnly s t) (htu : HubOnly t u) : HubOnly s u := by
  unfold HubOnly at *
  rw [← hst, ← htu]
theorem power (h : HubOnly s t) : t.power = s.power := by rw [← show _ = s from h]
theorem gate (h : HubOnly s t) : t.gate = s.gate := by rw [← show _ = s from h]
end HubOnly

theorem State.freezeAll_hubOnly (s : State) : HubOnly s s.freezeAll := by
  unfold State.freezeAll
  generalize s.hub.slice.filter (fun e => e.2.state = .active) = l
  induction l generalizing s with
  | nil => rfl
  | cons e l ih => exact HubOnly.trans (t := s.modSlice e.1 _) rfl (ih _)

theorem State.classF_powers (s : State) (die code d0 : Nat) : (s.classF die code d0).power = {s.power with fault := true}
    ∧ (s.classF die code d0).gate = s.gate := by
  have hlog : ∀ (s : State) cls die code d0 d1, (s.logEvent cls die code d0 d1).gate = s.gate := by
    intro s cls die code d0 d1
    unfold State.logEvent
    dsimp only
    split <;> rfl
  unfold State.classF
  extract_lets t
  have ht : t.power = {s.power with fault := true} ∧ t.gate = s.gate :=
    ⟨State.logEvent_power s.faultOn 4 die code d0 0, hlog s.faultOn 4 die code d0 0⟩
  clear_value t
  split
  · have hfreeze := t.freezeAll_hubOnly
    have hgo := (t.freezeAll.modTwin_twinSide (fun t => {t with switching := some 2, switchSent := false})).trans
      (State.switchGo_twinSide _)
    exact ⟨(hgo.power.trans hfreeze.power).trans ht.1, (hgo.gate.trans hfreeze.gate).trans ht.2⟩
  · exact ht

/-- Sites switched off one after another. -/
def State.sitesOff (s : State) (l : List Nat) : State := l.foldl (fun s x => s.siteOff ⟨x % 16, Nat.mod_lt _ (by decide)⟩) s

theorem State.sitesOff_cons (s : State) (a : Nat) (l : List Nat) :
    s.sitesOff (a :: l) = (s.siteOff ⟨a % 16, Nat.mod_lt _ (by decide)⟩).sitesOff l := by
  rw [State.sitesOff, List.foldl_cons, State.sitesOff]

theorem State.sitesOff_power (s : State) (l : List Nat) : {(s.sitesOff l).power with die := s.power.die} = s.power := by
  induction l generalizing s with
  | nil => rfl
  | cons a l ih =>
    rw [State.sitesOff_cons]
    have hsite := (s.siteOff_siteOnly ⟨a % 16, Nat.mod_lt _ (by decide)⟩).power
    generalize s.siteOff ⟨a % 16, Nat.mod_lt _ (by decide)⟩ = t at hsite ⊢
    rw [← hsite, ← ih t]

theorem State.sitesOff_powered (s : State) (l : List Nat) {y : Nat}
    (hy : (∃ x ∈ l, x % 16 = y) ∨ (s.gateOf y).powered = false) : ((s.sitesOff l).gateOf y).powered = false := by
  induction l generalizing s with
  | nil => exact hy.resolve_left (by simp)
  | cons a l ih =>
    rw [State.sitesOff_cons]
    refine ih _ ?_
    by_cases hya : y = a % 16
    · subst hya
      exact .inr (s.gateOf_siteOff_powered ⟨a % 16, Nat.mod_lt _ (by decide)⟩)
    · have hview := (s.siteOff_siteOnly ⟨a % 16, Nat.mod_lt _ (by decide)⟩).view y hya
      rcases hy with ⟨x, hx, rfl⟩ | hy
      · rcases List.mem_cons.1 hx with rfl | hx
        · exact absurd rfl hya
        · exact .inl ⟨x, hx, rfl⟩
      · exact .inr ((State.powered_of_view hview).trans hy)

/-- Casks reset one after another. -/
def State.casksReset (s : State) (l : List Nat) : State := l.foldl (fun s k => s.caskReset ⟨k % 12, Nat.mod_lt _ (by decide)⟩) s

theorem State.caskReset_gatesStand (s : State) (k : CaskId) : GatesStand s (s.caskReset k) :=
  ((s.bungAll_gatesStand (.cask k)).trans (State.nisDown_gatesStand _ (.cask k))).trans (State.modCask_gatesStand ..)

theorem State.hubCritical_eq (s : State) : s.hubCritical =
    ((s.sitesOff (List.range 16)).casksReset (List.range 12)).classF dieHub 0x2F01 0 := rfl

/-- The hub at its critical temperature: every site off, what the broker holds of temperatures as it was. -/
theorem State.hubCritical_spec (s : State) : s.hubCritical.power.critical = s.power.critical
    ∧ s.hubCritical.power.overtemp = s.power.overtemp ∧ s.hubCritical.power.hubClamp = s.power.hubClamp
    ∧ ∀ x, x < 16 → (s.hubCritical.gateOf x).powered = false := by
  have hpower := s.sitesOff_power (List.range 16)
  have hoff := fun x hx => s.sitesOff_powered (List.range 16) (y := x) (.inl ⟨x, List.mem_range.2 hx, Nat.mod_eq_of_lt hx⟩)
  rw [State.hubCritical_eq]
  generalize s.sitesOff (List.range 16) = t at hpower hoff ⊢
  have hcasks : PowerStands t (t.casksReset (List.range 12)) := .foldl (fun s k => s.caskReset_powerStands _) _ t
  have hgates : GatesStand t (t.casksReset (List.range 12)) := .foldl (fun s k => s.caskReset_gatesStand _) _ (.refl t)
  generalize t.casksReset (List.range 12) = u at hcasks hgates ⊢
  obtain ⟨hclass, hgate⟩ := u.classF_powers dieHub 0x2F01 0
  generalize u.classF dieHub 0x2F01 0 = v at hclass hgate ⊢
  rw [hclass, hcasks.power]
  refine ⟨(congrArg Power.critical hpower :), (congrArg Power.overtemp hpower :), (congrArg Power.hubClamp hpower :), fun x hx => ?_⟩
  rw [State.gateOf, hgate]
  exact (hgates.powered x).trans (hoff x hx)

theorem execDieTemperatureSample_hub_critical {die : Fin 32} (hdie : die.val = dieHub) (hhot : 1100 ≤ temp)
    (hnew : dieHub ∉ s.power.critical) : ∃ t, execDieTemperatureSample die temp s = .next t
      ∧ dieHub ∈ t.power.critical ∧ t.power.overtemp = true ∧ t.power.hubClamp = true ∧ ∀ x, x < 16 → (t.gateOf x).powered = false := by
  obtain ⟨-, hclamp, hcrit, -⟩ := s.hubSampled_spec temp
  rw [execDieTemperatureSample_hub hdie, if_pos hhot, if_neg (by simpa using hnew)]
  obtain ⟨hmem, hover, -, hclamped⟩ := (s.hubSampled temp).dieCritical_spec dieHub
  rw [hcrit] at hover
  rw [hclamp] at hclamped
  generalize (s.hubSampled temp).dieCritical dieHub = u at hmem hover hclamped ⊢
  obtain ⟨hcritical, hovertemp, hhub, hoff⟩ := u.hubCritical_spec
  generalize u.hubCritical = t at hcritical hovertemp hhub hoff ⊢
  refine ⟨t, rfl, hcritical ▸ hmem, hovertemp.trans (hover hnew), hhub.trans (hclamped.trans ?_), hoff⟩
  exact decide_eq_true (.inl (by omega))

end Temperature

/-! ### Budget periods (R507, R511, R512) -/

/-- A non-graft die's registers once its rail power has been judged. -/
def DiePow.judged (p : DiePow) (rail : Nat) : DiePow :=
  let above := 11 * p.budget < 10 * rail
  let miss := if p.got then 0 else p.miss + 1
  let overN := if above then p.overN + 1 else 0
  let q := {p with measured := rail, miss := miss, overN := overN, hold := p.hold - 1}
  let q := if overN = 10 then {q with events := satAdd 8191 q.events 1, overN := 0, hold := 1000} else q
  if miss = 10 then {q with events := satAdd 8191 q.events 1} else q

theorem DiePow.judged_spec (p : DiePow) (rail : Nat) : (p.judged rail).measured = rail
    ∧ (p.judged rail).miss = (if p.got then 0 else p.miss + 1)
    ∧ (11 * p.budget < 10 * rail → p.overN = 9 → (p.judged rail).hold = 1000 ∧ (p.judged rail).overN = 0)
    ∧ (¬ 11 * p.budget < 10 * rail → (p.judged rail).hold = p.hold - 1 ∧ (p.judged rail).overN = 0) := by
  unfold DiePow.judged
  extract_lets above miss overN q r
  have hr : r.measured = rail ∧ r.miss = miss ∧ (11 * p.budget < 10 * rail → p.overN = 9 → r.hold = 1000 ∧ r.overN = 0)
      ∧ (¬ 11 * p.budget < 10 * rail → r.hold = p.hold - 1 ∧ r.overN = 0) := by
    unfold r
    refine ⟨by split <;> rfl, by split <;> rfl, fun hover hten => ?_, fun hunder => ?_⟩
    · rw [if_pos (by simp [overN, above, hover, hten])]
      exact ⟨rfl, rfl⟩
    · have hzero : overN = 0 := if_neg hunder
      rw [if_neg (by simp [hzero])]
      exact ⟨rfl, hzero⟩
  clear_value r
  split <;> exact hr

/-- Only the dies' own power registers differ, of all power registers. -/
def PowerDie (s t : State) : Prop := {t.power with die := s.power.die} = s.power

namespace PowerDie
variable {s t u : State}
theorem trans (hst : PowerDie s t) (htu : PowerDie t u) : PowerDie s u := by
  unfold PowerDie at *
  rw [← hst, ← htu]
theorem foldl {α : Type} {f : State → α → State} (hf : ∀ s a, PowerDie s (f s a)) (l : List α) (s : State) :
    PowerDie s (l.foldl f s) := by
  induction l generalizing s with
  | nil => rfl
  | cons a l ih => exact (hf s a).trans (ih _)
end PowerDie

/-- Only power registers and the messages sent differ. -/
def PowerOnly (s t : State) : Prop := {t with power := s.power, out := s.out} = s

namespace PowerOnly
variable {s t u : State}
theorem trans (hst : PowerOnly s t) (htu : PowerOnly t u) : PowerOnly s u := by
  unfold PowerOnly at *
  rw [← hst, ← htu]
theorem foldl {α : Type} {f : State → α → State} (hf : ∀ s a, PowerOnly s (f s a)) (l : List α) (s : State) :
    PowerOnly s (l.foldl f s) := by
  induction l generalizing s with
  | nil => rfl
  | cons a l ih => exact (hf s a).trans (ih _)
variable (h : PowerOnly s t)
include h
theorem fuses : t.fuses = s.fuses := by rw [← show _ = s from h]
theorem link : t.link = s.link := by rw [← show _ = s from h]
theorem gate : t.gate = s.gate := by rw [← show _ = s from h]
end PowerOnly

section Judge
variable (m : PeriodMeas)

theorem State.judgePower_siteOnly (s : State) (x : Site) : SiteOnly x.val s (s.judgePower x m) := by
  have hevent : ∀ s : State, SiteOnly x.val s (s.powEvent x.val) := fun s => s.modPow_siteOnly x.val _
  unfold State.judgePower
  extract_lets i rail p above miss overN t u
  have ht : SiteOnly x.val s t := s.modPow_siteOnly x.val _
  have hu : SiteOnly x.val t u := by
    unfold u
    split
    · exact (hevent t).trans (State.modPow_siteOnly _ x.val _)
    · exact .refl t
  refine ht.trans ?_
  clear_value t u
  split
  · split
    · exact (hevent t).trans (State.graftFence_siteOnly ..)
    · split
      · exact (hevent t).trans (State.graftFence_siteOnly ..)
      · exact .refl t
  · refine hu.trans ?_
    split
    · exact hevent u
    · exact .refl u

theorem State.judgePower_powerOnly {s : State} {x : Site} (hdie : s.isGraft x.val = false) :
    PowerOnly s (s.judgePower x m)
      ∧ (s.judgePower x m).powOf x.val = (s.powOf x.val).judged (tget 0 m.dies x.val) := by
  unfold State.judgePower
  extract_lets i rail p above miss overN t u
  have hgraft : t.isGraft x.val = false := hdie
  have ht : PowerOnly s t ∧ t.powOf x.val = {p with measured := rail, miss := miss, overN := overN, hold := p.hold - 1} :=
    ⟨rfl, State.powOf_modPow s x.val _⟩
  obtain ⟨htrest, htpow⟩ := ht
  have hu : PowerOnly s u ∧ u.powOf x.val =
      if overN = 10 then {t.powOf x.val with events := satAdd 8191 (t.powOf x.val).events 1, overN := 0, hold := 1000} else t.powOf x.val := by
    unfold u
    split
    · refine ⟨htrest, ?_⟩
      refine (State.powOf_modPow (t.powEvent x.val) x.val _).trans ?_
      rw [State.powEvent, State.powOf_modPow]
    · exact ⟨htrest, rfl⟩
  obtain ⟨hurest, hupow⟩ := hu
  rw [if_neg (by simp [hgraft])]
  refine ⟨by split <;> exact hurest, ?_⟩
  unfold DiePow.judged
  split
  next h =>
    refine (State.powOf_modPow u x.val _).trans ?_
    rw [hupow, htpow]
    exact (if_pos h).symm
  next h =>
    rw [hupow, htpow]
    exact (if_neg h).symm

end Judge

/-- What a period's judgement leaves of a die's registers for the rest of the period. -/
def DiePow.judgement (p : DiePow) : Nat × Nat × Nat × Nat := (p.measured, p.miss, p.overN, p.hold)

/-- Only power registers and messages differ; the dies' temperatures stay, and the judgement of the sites. -/
structure JudgementStands (s t : State) : Prop where
  rest : PowerOnly s t
  temp : ∀ i, (t.powOf i).temp = (s.powOf i).temp
  judged : ∀ y, y < 16 → (t.powOf y).judgement = (s.powOf y).judgement

namespace JudgementStands
variable {s t u : State}
theorem refl (s : State) : JudgementStands s s := ⟨rfl, fun _ => rfl, fun _ _ => rfl⟩
theorem trans (hst : JudgementStands s t) (htu : JudgementStands t u) : JudgementStands s u :=
  ⟨hst.rest.trans htu.rest, fun i => (htu.temp i).trans (hst.temp i), fun y hy => (htu.judged y hy).trans (hst.judged y hy)⟩
theorem foldl {α : Type} {f : State → α → State} (hf : ∀ s a, JudgementStands s (f s a)) (l : List α) (s : State) :
    JudgementStands s (l.foldl f s) := by
  induction l generalizing s with
  | nil => exact .refl s
  | cons a l ih => exact (hf s a).trans (ih _)
end JudgementStands

theorem State.modPow_judgementStands (s : State) (i : Nat) {f : DiePow → DiePow} (htemp : ∀ p, (f p).temp = p.temp)
    (hjudged : i < 16 → ∀ p, (f p).judgement = p.judgement) : JudgementStands s (s.modPow i f) := by
  refine ⟨rfl, fun j => ?_, fun y hy => ?_⟩
  · by_cases hji : j = i
    · rw [hji, State.powOf_modPow, htemp]
    · rw [State.powOf_modPow_ne _ _ hji]
  · by_cases hyi : y = i
    · subst hyi
      rw [State.powOf_modPow, hjudged hy]
    · rw [State.powOf_modPow_ne _ _ hyi]

theorem State.sendBudget_judgementStands (s : State) (x b : Nat) : JudgementStands s (s.sendBudget x b) :=
  (s.modPow_judgementStands x (f := fun p => {p with budget := b}) (fun _ => rfl) fun _ _ => rfl).trans
    ⟨rfl, fun _ => rfl, fun _ _ => rfl⟩

theorem State.sendBudget_got (s : State) (x b y : Nat) : ((s.sendBudget x b).powOf y).got = (s.powOf y).got := by
  show ((s.modPow x (fun p => {p with budget := b})).powOf y).got = _
  by_cases hyx : y = x
  · rw [hyx, State.powOf_modPow]
  · rw [State.powOf_modPow_ne _ _ hyx]

theorem foldl_sendBudget_got (l : List (Nat × Nat)) (s : State) (y : Nat) :
    ((l.foldl (fun s b => s.sendBudget b.1 b.2) s).powOf y).got = (s.powOf y).got := by
  induction l generalizing s with
  | nil => rfl
  | cons b l ih => rw [List.foldl_cons, ih, State.sendBudget_got]

/-- A fold that acts once on what is seen of `y`, and not when it meets another. -/
theorem foldl_view {α β : Type} [DecidableEq α] {view : State → β} {g : β → β} {ok : β → Prop} {f : State → α → State}
    {y : α} {l : List α} (hl : l.Nodup) (hself : ∀ s, ok (view s) → view (f s y) = g (view s))
    (hother : ∀ s, ∀ x ∈ l, x ≠ y → view (f s x) = view s) (s : State) (hok : ok (view s)) :
    view (l.foldl f s) = if y ∈ l then g (view s) else view s := by
  induction l generalizing s with
  | nil => simp
  | cons a l ih =>
    obtain ⟨hal, hl⟩ := List.nodup_cons.1 hl
    have hrest := fun s x (hx : x ∈ l) => hother s x (List.mem_cons_of_mem a hx)
    rw [List.foldl_cons]
    by_cases hay : a = y
    · subst hay
      have hkeep : ∀ (l' : List α) (s : State), (∀ x ∈ l', x ∈ l) → view (l'.foldl f s) = view s := by
        intro l'
        induction l' with
        | nil => exact fun s _ => rfl
        | cons b l' ih' =>
          intro s hsub
          have hb := hsub b List.mem_cons_self
          rw [List.foldl_cons, ih' _ fun x hx => hsub x (List.mem_cons_of_mem b hx)]
          exact hrest s b hb fun h => hal (h ▸ hb)
      rw [hkeep l _ fun _ hx => hx, hself s hok, if_pos List.mem_cons_self]
    · have hsame := hother s a List.mem_cons_self hay
      rw [ih hl hrest _ (hsame ▸ hok), hsame]
      simp [List.mem_cons, Ne.symm hay]

/-- The judgement of every governed site, as `budgetPeriod` begins with it. -/
def State.judgeAll (s : State) (m : PeriodMeas) : State :=
  s.governedSites.foldl (fun s x => s.judgePower ⟨x % 16, Nat.mod_lt _ (by decide)⟩ m) s

theorem State.judgeAll_powerDie (s : State) (m : PeriodMeas) : PowerDie s (s.judgeAll m) :=
  .foldl (fun s _ => (s.judgePower_siteOnly m _).power) _ s

theorem State.judgeAll_other {s : State} (m : PeriodMeas) {y : Nat} (hy : 16 ≤ y) :
    (s.judgeAll m).siteView y = s.siteView y := by
  unfold State.judgeAll
  generalize s.governedSites = l
  induction l generalizing s with
  | nil => rfl
  | cons x l ih => exact ih.trans ((s.judgePower_siteOnly m _).view y (by have := Nat.mod_lt x (by decide : 0 < 16); simp only; omega))

theorem State.judgeAll_site {s : State} (m : PeriodMeas) {y : Nat} (hy : y < 16) (hdie : s.isGraft y = false)
    (hgov : s.governed y = true) :
    (s.judgeAll m).siteView y = (s.fuses, (s.linkOf y).fenced, (s.gateOf y).powered, (s.powOf y).judged (tget 0 m.dies y)) := by
  have hfold := foldl_view (view := fun s => s.siteView y) (y := y)
    (g := fun v => (v.1, v.2.1, v.2.2.1, v.2.2.2.judged (tget 0 m.dies y)))
    (ok := fun v => v.1.code.graftSites.contains y = false)
    (f := fun s x => s.judgePower ⟨x % 16, Nat.mod_lt _ (by decide)⟩ m) s.governedSites_nodup ?self ?other s hdie
  case self =>
    intro s hok
    obtain ⟨hrest, hpow⟩ := State.judgePower_powerOnly m (s := s) (x := ⟨y, hy⟩) hok
    have hmod : (⟨y % 16, Nat.mod_lt _ (by decide)⟩ : Site) = ⟨y, hy⟩ := Fin.ext (Nat.mod_eq_of_lt hy)
    simp only [hmod, State.siteView, hrest.fuses, State.linkOf, hrest.link, State.gateOf, hrest.gate, hpow]
  case other =>
    intro s x hx hxy
    have hlt := (State.governedSites_mem.1 hx).1
    exact (s.judgePower_siteOnly m _).view y fun h => hxy ((Nat.mod_eq_of_lt hlt).symm.trans h.symm)
  rw [if_pos (State.governedSites_mem.2 ⟨hy, hgov⟩)] at hfold
  exact hfold

theorem State.powerHist_spec (s : State) (m : PeriodMeas) : JudgementStands s (s.powerHist m)
    ∧ {(s.powerHist m).power with die := s.power.die, hist := s.power.hist} = s.power
    ∧ (s.powerHist m).power.hist = (m.package :: s.power.hist).take 100 := by
  unfold State.powerHist
  generalize List.range 32 = dies
  extract_lets t
  have ht : JudgementStands s t := by
    refine .foldl (fun s i => ?_) dies s
    exact s.modPow_judgementStands i (fun _ => rfl) fun _ _ => rfl
  have hdie : PowerDie s t := by
    refine .foldl (fun s i => ?_) dies s
    rfl
  clear_value t
  have hpower : {t.power with die := s.power.die} = s.power := hdie
  exact ⟨ht.trans ⟨rfl, fun _ => rfl, fun _ _ => rfl⟩, by rw [← hpower], by rw [← hpower]⟩

/-- The reports of a period are forgotten with it. -/
theorem foldl_clears_got (l : List (Nat × Nat × Nat × Nat × Bool)) (s : State) {x : Nat}
    (h : (∃ d ∈ l, d.1 = x) ∨ (s.powOf x).got = false) :
    ((l.foldl (fun s d => s.modPow (dieSite d.1) (fun p => {p with pressing := d.2.2.2.2, got := false})) s).powOf x).got = false := by
  induction l generalizing s with
  | nil => exact h.resolve_left (by simp)
  | cons d l ih =>
    refine ih _ ?_
    by_cases hx : d.1 = x
    · subst hx
      exact .inr (congrArg DiePow.got (State.powOf_modPow s d.1 _))
    · rcases h with ⟨e, he, hex⟩ | hgot
      · rcases List.mem_cons.1 he with rfl | he
        · exact absurd hex hx
        · exact .inl ⟨e, he, hex⟩
      · exact .inr ((congrArg DiePow.got (State.powOf_modPow_ne s _ (Ne.symm hx))).trans hgot)

/-- Every governed site told its floor. -/
theorem State.sendFloors_spec (s : State) :
    let t := s.governedSites.foldl (fun s x => s.sendBudget x (s.floorOf x)) s
    JudgementStands s t ∧ PowerDie s t ∧ (∀ x, (t.powOf x).got = (s.powOf x).got)
      ∧ ∀ x ∈ s.governedSites, (t.powOf x).budget = s.floorOf x
        ∧ Msg.sideband (linkId x) false 0x10 (s.floorOf x + 2 ^ 16 * s.power.bseq.toNat) ∈ t.out := by
  have hpow : ∀ x, (s.governedSites.foldl (fun s x => s.sendBudget x (s.floorOf x)) s).powOf x =
      if x ∈ s.governedSites then {s.powOf x with budget := s.floorOf x} else s.powOf x := by
    intro x
    rw [State.sendFloors_eq]
    exact tget_foldl_tmod ({} : DiePow) (fun x p => {p with budget := s.floorOf x}) s.governedSites_nodup s.power.die x
  refine ⟨.foldl (fun s x => s.sendBudget_judgementStands x _) _ s, ?_, fun x => ?_, fun x hx => ⟨?_, ?_⟩⟩
  · rw [State.sendFloors_eq]
    rfl
  · rw [hpow]
    split <;> rfl
  · rw [hpow, if_pos hx]
  · rw [State.sendFloors_eq]
    exact List.mem_append_left _ (List.mem_reverse.2 (List.mem_map.2 ⟨x, hx, rfl⟩))

/-- A budget period. -/
theorem execBudgetPeriod_spec (m : PeriodMeas) (s : State) : ∃ t, execBudgetPeriod m s = .next t
    ∧ {t.power with
        die := s.power.die, hist := s.power.hist, hubCut := s.power.hubCut, clamped := s.power.clamped
        bseq := s.power.bseq, pool := s.power.pool} = s.power
    ∧ t.power.bseq = s.power.bseq + 1 ∧ t.power.clamped = false ∧ t.power.hist = (m.package :: s.power.hist).take 100
    ∧ t.power.hubCut = (if 1000 ≤ (s.powOf dieHub).temp then s.power.hubCut + 1 else 0)
    ∧ ∀ x, x < 16 → s.isGraft x = false → s.governed x = true →
      (t.powOf x).judgement = ((s.powOf x).judged (tget 0 m.dies x)).judgement ∧ (t.powOf x).got = false
      ∧ (s.power.hubClamp = true → (t.powOf x).budget = s.floorOf x
        ∧ Msg.sideband (linkId x) false 0x10 (s.floorOf x + 2 ^ 16 * (s.power.bseq + 1).toNat) ∈ t.out) := by
  unfold execBudgetPeriod
  generalize List.range 16 = sites
  extract_lets s1 s2 s3 p3 s4 pool p4 s5 l s6
  have hs1 : PowerDie s s1 := s.judgeAll_powerDie m
  have htemp1 : s1.siteView dieHub = s.siteView dieHub := State.judgeAll_other m (by decide)
  have hsite1 : ∀ x, x < 16 → s.isGraft x = false → s.governed x = true → s1.siteView x =
      (s.fuses, (s.linkOf x).fenced, (s.gateOf x).powered, (s.powOf x).judged (tget 0 m.dies x)) :=
    fun x hx => State.judgeAll_site m hx
  clear_value s1
  have hs2 : JudgementStands s1 s2 := by
    refine .foldl (fun s i => ?_) sites s1
    exact s.modPow_judgementStands (16 + i) (fun _ => rfl) (fun h => by omega)
  have hdie2 : PowerDie s1 s2 := by
    refine .foldl (fun s i => ?_) sites s1
    rfl
  clear_value s2
  have hspec3 : JudgementStands s2 s3 ∧ {s3.power with die := s2.power.die, hist := s2.power.hist} = s2.power
      ∧ s3.power.hist = (m.package :: s2.power.hist).take 100 := s2.powerHist_spec m
  clear_value s3
  obtain ⟨hs3, hpower3, hhist3⟩ := hspec3
  have hrest : {s3.power with die := s.power.die, hist := s.power.hist} = s.power := by
    rw [← show _ = s.power from hs1, ← show _ = s1.power from hdie2, ← hpower3]
  have hbseq : s3.power.bseq = s.power.bseq := (congrArg Power.bseq hrest :)
  have hcut : s3.power.hubCut = s.power.hubCut := (congrArg Power.hubCut hrest :)
  have htemp : (s3.powOf dieHub).temp = (s.powOf dieHub).temp :=
    ((hs2.trans hs3).temp dieHub).trans (congrArg (fun v => v.2.2.2.temp) htemp1)
  have hhist : s2.power.hist = s.power.hist :=
    (congrArg Power.hist hdie2 :).trans (congrArg Power.hist hs1 :)
  have hs5 : JudgementStands s1 s5 := (hs2.trans hs3).trans ⟨rfl, fun _ => rfl, fun _ _ => rfl⟩
  have hpower5 : {s5.power with
      die := s.power.die, hist := s.power.hist, hubCut := s.power.hubCut, clamped := s.power.clamped
      bseq := s.power.bseq, pool := s.power.pool} = s.power ∧ s5.power.bseq = s.power.bseq + 1 ∧ s5.power.clamped = false
      ∧ s5.power.hist = (m.package :: s.power.hist).take 100
      ∧ s5.power.hubCut = (if 1000 ≤ (s.powOf dieHub).temp then s.power.hubCut + 1 else 0) := by
    refine ⟨?_, congrArg (· + 1) hbseq, rfl, hhist3.trans (by rw [hhist]), ?_⟩
    · rw [← hrest]
    · rw [← htemp, ← hcut]
  have hgov5 : ∀ x, x < 16 → s.isGraft x = false → s.governed x = true → x ∈ s5.governedSites ∧ s5.floorOf x = s.floorOf x := by
    intro x hx hdie hgov
    obtain ⟨hfuses, hfenced, hpowered, -⟩ : s1.fuses = s.fuses ∧ (s1.linkOf x).fenced = (s.linkOf x).fenced
        ∧ (s1.gateOf x).powered = (s.gateOf x).powered ∧ _ := by simpa [State.siteView] using hsite1 x hx hdie hgov
    have hdie5 : s5.isGraft x = false := by rw [State.isGraft, hs5.rest.fuses, hfuses]; exact hdie
    refine ⟨State.governedSites_mem.2 ⟨hx, ?_⟩, ?_⟩
    · rw [State.governed, hdie5, State.linkOf, hs5.rest.link, State.gateOf, hs5.rest.gate]
      rw [State.governed, hdie] at hgov
      rw [← hfenced, ← hpowered] at hgov
      exact hgov
    · rw [State.floorOf, State.floorOf, hdie5, hdie]
      rfl
  clear_value s5
  have hs6 : JudgementStands s5 s6 := by
    refine .foldl (fun s d => ?_) l s5
    exact s.modPow_judgementStands d.1 (fun _ => rfl) fun _ _ => rfl
  have hdie6 : PowerDie s5 s6 := by
    refine .foldl (fun s d => ?_) l s5
    rfl
  have hgot6 : ∀ x ∈ s5.governedSites, (s6.powOf x).got = false := fun x hx =>
    foldl_clears_got l s5 (.inl ⟨_, List.mem_map.2 ⟨x, hx, rfl⟩, rfl⟩)
  obtain ⟨hpower, hbseq', hclamped, hhist', hcut'⟩ := hpower5
  have hpower6 : {s6.power with
      die := s.power.die, hist := s.power.hist, hubCut := s.power.hubCut, clamped := s.power.clamped
      bseq := s.power.bseq, pool := s.power.pool} = s.power := by
    rw [← hpower, ← show _ = s5.power from hdie6]
  have hclamp6 : s6.power.hubClamp = s.power.hubClamp := (congrArg Power.hubClamp hpower6 :)
  have hsame6 : ∀ x, x ∈ s5.governedSites → x ∈ s6.governedSites ∧ s6.floorOf x = s5.floorOf x := by
    intro x hx
    obtain ⟨hlt, hgov⟩ := State.governedSites_mem.1 hx
    refine ⟨State.governedSites_mem.2 ⟨hlt, ?_⟩, ?_⟩
    · rwa [State.governed, State.isGraft, hs6.rest.fuses, State.linkOf, hs6.rest.link, State.gateOf, hs6.rest.gate]
    · rw [State.floorOf, State.isGraft, hs6.rest.fuses, State.gateOf, hs6.rest.gate]
      rfl
  have hbseq6 : s6.power.bseq = s.power.bseq + 1 := (congrArg Power.bseq hdie6 :).trans hbseq'
  have hends : ∀ t, JudgementStands s6 t → PowerDie s6 t → (∀ x, (t.powOf x).got = (s6.powOf x).got) →
      (s6.power.hubClamp = true → ∀ x ∈ s6.governedSites, (t.powOf x).budget = s6.floorOf x
        ∧ Msg.sideband (linkId x) false 0x10 (s6.floorOf x + 2 ^ 16 * s6.power.bseq.toNat) ∈ t.out) →
      {t.power with
        die := s.power.die, hist := s.power.hist, hubCut := s.power.hubCut, clamped := s.power.clamped
        bseq := s.power.bseq, pool := s.power.pool} = s.power
      ∧ t.power.bseq = s.power.bseq + 1 ∧ t.power.clamped = false ∧ t.power.hist = (m.package :: s.power.hist).take 100
      ∧ t.power.hubCut = (if 1000 ≤ (s.powOf dieHub).temp then s.power.hubCut + 1 else 0)
      ∧ ∀ x, x < 16 → s.isGraft x = false → s.governed x = true →
        (t.powOf x).judgement = ((s.powOf x).judged (tget 0 m.dies x)).judgement ∧ (t.powOf x).got = false
        ∧ (s.power.hubClamp = true → (t.powOf x).budget = s.floorOf x
          ∧ Msg.sideband (linkId x) false 0x10 (s.floorOf x + 2 ^ 16 * (s.power.bseq + 1).toNat) ∈ t.out) := by
    intro t ht hdie hgot hfloor
    refine ⟨?_, (congrArg Power.bseq hdie :).trans hbseq6,
      (congrArg Power.clamped hdie :).trans ((congrArg Power.clamped hdie6 :).trans hclamped),
      (congrArg Power.hist hdie :).trans ((congrArg Power.hist hdie6 :).trans hhist'),
      (congrArg Power.hubCut hdie :).trans ((congrArg Power.hubCut hdie6 :).trans hcut'), fun x hx hgraft hgov => ?_⟩
    · rw [← hpower6, ← show _ = s6.power from hdie]
    · obtain ⟨hmem, hfloor5⟩ := hgov5 x hx hgraft hgov
      obtain ⟨hmem6, hfloor6⟩ := hsame6 x hmem
      refine ⟨?_, (hgot x).trans (hgot6 x hmem), fun hhot => ?_⟩
      · rw [ht.judged x hx, hs6.judged x hx, hs5.judged x hx]
        exact congrArg (fun v => v.2.2.2.judgement) (hsite1 x hx hgraft hgov)
      · have h := hfloor (hclamp6.trans hhot) x hmem6
        rwa [hfloor6, hfloor5, hbseq6] at h
  split
  next hhot =>
    obtain ⟨hstands, hdie, hgot, hfloor⟩ := s6.sendFloors_spec
    exact ⟨_, rfl, hends _ hstands hdie hgot fun _ => hfloor⟩
  next hcold =>
    refine ⟨_, rfl, hends _ ?_ ?_ (foldl_sendBudget_got _ s6) fun hhot => absurd hhot hcold⟩
    · refine .foldl (fun s b => ?_) _ s6
      exact s.sendBudget_judgementStands b.1 b.2
    · refine .foldl (fun s b => ?_) _ s6
      rfl

/-- Settles O54: budget periods, rails and temperatures. -/
theorem powerBroker : Obligations.PowerBroker := by
  unfold Obligations.PowerBroker
  refine ⟨fun m s => ?period, fun r volts amps s => ?rails, fun die temp s => ?temperatures⟩
  case period =>
    obtain ⟨t, ht, hpower, hbseq, hclamped, hhist, hcut, hsites⟩ := execBudgetPeriod_spec m s
    refine ⟨t, ht, hbseq, hclamped, (congrArg Power.cap hpower :), hhist, hcut, fun x hx hdie hgov => ?_⟩
    obtain ⟨hjudged, hgot, hfloor⟩ := hsites x hx hdie hgov
    obtain ⟨hmeasured, hmiss, hover, hunder⟩ := (s.powOf x).judged_spec (tget 0 m.dies x)
    simp only [DiePow.judgement, Prod.mk.injEq] at hjudged
    obtain ⟨hqm, hqmiss, hqover, hqhold⟩ := hjudged
    refine ⟨hqm.trans hmeasured, hgot, hqmiss.trans hmiss, fun habove hten => ?_, fun hbelow => ?_, hfloor⟩
    · obtain ⟨hhold, hzero⟩ := hover habove hten
      exact ⟨hqhold.trans hhold, hqover.trans hzero⟩
    · obtain ⟨hhold, hzero⟩ := hunder hbelow
      exact ⟨hqhold.trans hhold, hqover.trans hzero⟩
  case rails =>
    refine ⟨fun hquiet hnew => ?_, fun hpower hfree hnew => ⟨_, execRailSample_clamps hpower hfree hnew, ?_, ?_, fun x hx hgov => ?_⟩,
      fun j hout hseen hpower => ⟨fun hj hdie hon => ?_, fun hj => ?_⟩, rfl⟩
    · refine (execRailSample_quiet hquiet).trans ?_
      rw [filter_seen_nil _ hnew]
      rfl
    · show s.clamp.power.clamped = true
      rw [State.clamp_eq]
    · show s.clamp.power.clamps = _
      rw [State.clamp_eq]
    · refine (congrArg DiePow.budget (s.powOf_clamp x)).trans ?_
      rw [if_pos (State.governedSites_mem.2 ⟨hx, hgov⟩)]
    all_goals
      have hrun : execRailSample r s = _ := execRailSample_quiet (.inl hpower)
      have htwice : (s.railsOut r).filter (fun j => s.power.railOut.contains j) = [j] := by
        rw [State.railsOut, hout]
        simp [hseen]
      rw [htwice] at hrun
    · exact ⟨_, hrun, State.railFault_site_off hj hdie hon⟩
    · refine ⟨_, hrun.trans (congrArg Host.Outcome.next (State.railFault_package hj)), rfl, rfl, rfl⟩
  case temperatures =>
    refine ⟨fun hlow => congrArg Host.Outcome.next (if_pos hlow), fun hlow hdie => ⟨_, execDieTemperatureSample_die hlow hdie, ?_⟩,
      fun hdie hcool => ?_, fun hdie hhot hnew => ?_, ?_⟩
    · have htemp : ((s.modPow die.val (fun p => {p with temp := temp})).powOf die.val).temp = temp :=
        congrArg DiePow.temp (State.powOf_modPow s die.val _)
      by_cases hhot : 1100 ≤ temp
      · obtain ⟨hmem, hnew, hkept, -⟩ := (s.modPow die.val (fun p => {p with temp := temp})).dieCritical_spec die.val
        rw [if_pos hhot]
        by_cases hwas : s.power.critical.contains die.val = true
        · rw [if_pos hwas]
          have hwas' : die.val ∈ s.power.critical := by simpa using hwas
          exact ⟨htemp, fun h => absurd hhot (by omega), fun _ => ⟨hwas', fun hno => absurd hwas' hno⟩⟩
        · rw [if_neg hwas, State.powOf, State.logEvent_power]
          exact ⟨hkept.trans htemp, fun h => absurd hhot (by omega), fun _ => ⟨hmem, hnew⟩⟩
      · rw [if_neg hhot]
        refine ⟨htemp, fun _ => ⟨?_, rfl⟩, fun h => absurd h hhot⟩
        simp [State.dieCool]
    · obtain ⟨htemp, hclamp, -, hcount⟩ := s.hubSampled_spec temp
      refine ⟨_, (execDieTemperatureSample_hub hdie).trans (congrArg Host.Outcome.next (if_neg (by omega))), ?_⟩
      rw [hdie]
      exact ⟨htemp, hclamp, by simp [State.dieCool], hcount⟩
    · obtain ⟨t, ht, hspec⟩ := execDieTemperatureSample_hub_critical hdie hhot (by rwa [← hdie])
      exact ⟨t, ht, by rwa [hdie]⟩
    · refine ⟨_, rfl, fun d => ?_, ?_⟩
      · simp [List.mem_filter]
      · simp

end Sys2Proof.Machine
end

section

namespace Sys2Proof.Machine

/-! ### Slices that freeze together (R547, R568) -/

theorem mem_of_tget_ne {α : Type} {d : α} {t : Tab α} {n : Nat} (h : tget d t n ≠ d) : (n, tget d t n) ∈ t := by
  induction t with
  | nil => exact absurd rfl h
  | cons e t ih =>
    obtain ⟨k, v⟩ := e
    by_cases hk : k = n
    · subst hk
      simp [tget]
    · simp only [tget, if_neg hk] at h ⊢
      exact List.mem_cons_of_mem _ (ih h)

theorem foldl_modSlice_state {st : SlState} {g : State → Slice → Slice} (hg : ∀ s e, (g s e).state = st)
    (l : List (Nat × Slice)) (s : State) {y : Nat} (h : (∃ e ∈ l, e.1 = y) ∨ (s.sliceOf y).state = st) :
    ((l.foldl (fun s e => s.modSlice e.1 (g s)) s).sliceOf y).state = st := by
  induction l generalizing s with
  | nil => exact h.resolve_left (by simp)
  | cons e l ih =>
    refine ih _ ?_
    by_cases hy : e.1 = y
    · subst hy
      exact .inr ((congrArg Slice.state (State.sliceOf_modSlice s e.1 (g s))).trans (hg s _))
    · rcases h with ⟨e', he, hey⟩ | hst
      · rcases List.mem_cons.1 he with rfl | he
        · exact absurd hey hy
        · exact .inl ⟨e', he, hey⟩
      · exact .inr ((congrArg Slice.state (State.sliceOf_modSlice_ne s (g s) (Ne.symm hy))).trans hst)

theorem State.freezeAll_freezes (s : State) {y : Nat} (h : (s.sliceOf y).state = .active) :
    (s.freezeAll.sliceOf y).state = .freezing := by
  have hmem : (y, s.sliceOf y) ∈ s.hub.slice := mem_of_tget_ne (d := ({} : Slice)) fun hdef => by
    rw [State.sliceOf, hdef] at h
    cases h
  exact foldl_modSlice_state (g := fun s c => {c with
    state := .freezing, ticked := false, ftick := BitVec.ofNat 64 (freezeTickAt s.now), unl := !s.time.tlock, blk := none})
    (fun _ _ => rfl) _ s (.inl ⟨_, List.mem_filter.2 ⟨hmem, by simpa using h⟩, rfl⟩)

/-! ### Pushes that end (R561) -/

/-- Only the bookkeeping of pushes differs. -/
def PushOnly (a b : Twin) : Prop :=
  {b with push := a.push, lastPush := a.lastPush, lastRest := a.lastRest, pushes := a.pushes, acked := a.acked, partUnits := a.partUnits} = a

theorem PushOnly.trans {a b c : Twin} (hab : PushOnly a b) (hbc : PushOnly b c) : PushOnly a c := by
  unfold PushOnly at *
  rw [← hab, ← hbc]

section Push
variable {s : State}

/-- A push ends while no switchover stands: nothing but the bookkeeping of pushes changes in the port. -/
theorem State.pushEnd_pushOnly (h : s.twin.switching = none) (p : Push) (st : Nat) : PushOnly s.twin (s.pushEnd p st).twin := by
  unfold State.pushEnd
  extract_lets t u
  have ht : PushOnly s.twin t.twin := by
    unfold t
    rw [State.modTwin_twin]
    split <;> rfl
  have hu : u.twin = t.twin := by
    unfold u
    split
    · split
      · exact State.fenceSig_twin ..
      · rfl
    · exact State.raiseTwin_twin t
  have hnone : u.twin.switching = none := by
    rw [hu]
    exact (congrArg Twin.switching ht :).trans h
  rw [State.switchGo_none hnone, hu]
  exact ht

theorem State.pushEnd_switching (h : s.twin.switching = none) (p : Push) (st : Nat) : (s.pushEnd p st).twin.switching = none :=
  (congrArg Twin.switching (State.pushEnd_pushOnly h p st) :).trans h

theorem State.pushEnd_lost_partUnits (h : s.twin.switching = none) (p : Push) :
    (s.pushEnd p 2).twin.partUnits = s.twin.partUnits := by
  unfold State.pushEnd
  dsimp only
  have hnone : ∀ f : Twin → Twin, (f s.twin).switching = none → (s.modTwin f).raiseTwin.switchGo.twin = f s.twin := by
    intro f hf
    rw [State.switchGo_none (by rw [State.raiseTwin_twin]; exact hf), State.raiseTwin_twin]
    rfl
  rw [if_neg (by decide), hnone]
  · split <;> rfl
  · split <;> exact h

theorem State.pushesByCount_pushOnly (h : s.twin.switching = none) (n : Nat) :
    PushOnly s.twin (s.pushesByCount n).twin := by
  induction n generalizing s with
  | zero => rfl
  | succ n ih =>
    unfold State.pushesByCount
    split
    · exact (State.pushEnd_pushOnly h _ 0).trans (ih (State.pushEnd_switching h _ 0))
    · rfl

theorem State.pushesLost_pushOnly (h : s.twin.switching = none) :
    PushOnly s.twin s.pushesLost.twin ∧ s.pushesLost.twin.partUnits = s.twin.partUnits := by
  unfold State.pushesLost
  generalize s.twin.push = l
  induction l generalizing s with
  | nil => exact ⟨rfl, rfl⟩
  | cons p l ih =>
    obtain ⟨hrest, hunits⟩ := ih (State.pushEnd_switching h p 2)
    exact ⟨(State.pushEnd_pushOnly h p 2).trans hrest, hunits.trans (State.pushEnd_lost_partUnits h p)⟩

end Push

/-! ### Heartbeats (R556, R558, R560, R564, R565, R569) -/

section Heartbeat
variable {s : State}

theorem State.xlogAdd_twin (s : State) (k : Nat) (e : Ep) (a b : Nat) : (s.xlogAdd k e a b).twin = s.twin :=
  (s.xlogAdd_ports k e a b).twin

theorem State.twinCtl_says {k : Nat} {b : List Byte} (hlanes : s.twin.lanes = true) (hkeys : s.twin.keys ≠ []) :
    ∃ n, Msg.twinCtl k b n ∈ (s.twinCtl k b).out := by
  simp only [State.twinCtl, hlanes, List.isEmpty_eq_false_iff.2 hkeys]
  exact ⟨_, List.mem_cons_self⟩

theorem leBytes_length (n v : Nat) : (leBytes n v).length = n := by
  induction n generalizing v with
  | zero => rfl
  | succ n ih => simp [leBytes, ih]

theorem execHeartbeatSend_idle {f : Nat}
    (h : s.twin.st ≠ .paired ∨ s.twin.fresh = none ∨ (s.twin.fresh = some f ∧ f + 1500000 < s.now)) :
    execHeartbeatSend s = .next s := by
  unfold execHeartbeatSend
  rcases h with h | h | ⟨h, hold⟩
  · split
    next hst _ => exact absurd hst h
    next => rfl
  · rw [h]
    split
    next hnone => cases hnone
    next => rfl
  · rw [h]
    split
    next g _ hg =>
      obtain rfl := Option.some.inj hg
      rw [if_pos hold]
    next => rfl

/-- The session's keys at the next heartbeat: the new ones once both sides have confirmed them. -/
def State.rekeyed (s : State) : State :=
  if !s.twin.newKeys.isEmpty && s.twin.gotConf && s.twin.sentConf then
    s.modTwin (fun t => {t with keys := t.newKeys, newKeys := [], txSeq := [], rxSeq := []}) else s

theorem State.rekeyed_spec (s : State) : s.rekeyed.twin.hbseq = s.twin.hbseq ∧ s.rekeyed.twin.lanes = s.twin.lanes
    ∧ (s.twin.newKeys ≠ [] → s.twin.gotConf = true → s.twin.sentConf = true →
      s.rekeyed.twin.keys = s.twin.newKeys ∧ s.rekeyed.twin.newKeys = [])
    ∧ (s.twin.keys ≠ [] → s.rekeyed.twin.keys ≠ []) := by
  unfold State.rekeyed
  split
  next h =>
    refine ⟨rfl, rfl, fun _ _ _ => ⟨rfl, rfl⟩, fun _ => ?_⟩
    simp only [Bool.and_eq_true, Bool.not_eq_true', List.isEmpty_eq_false_iff] at h
    exact h.1.1
  next h => exact ⟨rfl, rfl, fun hnew hgot hsent => absurd (by simp [hnew, hgot, hsent]) h, id⟩

theorem execHeartbeatSend_sends {f : Nat} (hst : s.twin.st = .paired) (hfresh : s.twin.fresh = some f) (hnow : s.now ≤ f + 1500000) :
    ∃ t, execHeartbeatSend s = .next t ∧ t.twin.hbseq = (s.twin.hbseq + 1) % 2 ^ 32
      ∧ (s.twin.newKeys ≠ [] → s.twin.gotConf = true → s.twin.sentConf = true → t.twin.keys = s.twin.newKeys ∧ t.twin.newKeys = [])
      ∧ (s.twin.lanes = true → s.twin.keys ≠ [] → ∃ n body, Msg.twinCtl 2 body n ∈ t.out ∧ body.take 4 = leBytes 4 s.twin.hbseq) := by
  unfold execHeartbeatSend
  rw [hst, hfresh]
  dsimp only
  rw [if_neg (Nat.not_lt.2 hnow)]
  obtain ⟨hseq, hlanes, hnew, hkeys⟩ := s.rekeyed_spec
  unfold State.rekeyed at hseq hlanes hnew hkeys
  generalize (if !s.twin.newKeys.isEmpty && s.twin.gotConf && s.twin.sentConf then
    s.modTwin (fun t => {t with keys := t.newKeys, newKeys := [], txSeq := [], rxSeq := []}) else s) = u at hseq hlanes hnew hkeys ⊢
  have hlog := u.xlogAdd_twin 3 .ioa u.twin.hbseq 0
  generalize u.xlogAdd 3 .ioa u.twin.hbseq 0 = v at hlog ⊢
  refine ⟨_, rfl, ?_, fun h1 h2 h3 => ?_, fun hup hkeyed => ?_⟩
  · rw [State.modTwin_twin, State.twinCtl_twin, hlog]
    exact congrArg (fun n => (n + 1) % 2 ^ 32) hseq
  · rw [State.modTwin_twin, State.twinCtl_twin, hlog]
    exact hnew h1 h2 h3
  · obtain ⟨n, hn⟩ := State.twinCtl_says (s := v) (k := 2) (b := leBytes 4 u.twin.hbseq ++ leBytes 8 v.now ++ leBytes 4 u.twin.echo
      ++ leBytes 1 u.twin.role ++ leBytes 1 v.packWear ++ leBytes 1 (b2n u.twin.afo) ++ leBytes 1 u.twin.hbState ++ leBytes 1 mirrorMin
      ++ leBytes 1 mirrorMax ++ leBytes 8 u.twin.landed) (by rw [hlog, hlanes, hup]) (by rw [hlog]; exact hkeys hkeyed)
    refine ⟨n, _, hn, ?_⟩
    simp only [List.append_assoc]
    rw [List.take_left' (leBytes_length 4 _), hseq]

/-- The port once a heartbeat has been noted and, at a first pairing, the roles settled. -/
def Twin.noted (t : Twin) (m : HbMsg) (r : Tab Nat) (ivl : Nat) : Twin :=
  { t with
    rxSeq := r, echo := m.hbseq.toNat, partHb := some m, gotHb := true, lastHb := ivl, partnerLost := false, paired1 := true
    role := if t.role = 0 ∧ t.paired1 = false then (if m.role = 0 ∧ t.sideA = true then 1 else 2) else t.role }

theorem Twin.noted_bothAfo (t : Twin) (m : HbMsg) (r : Tab Nat) (ivl : Nat) : (t.noted m r ivl).bothAfo = (t.afo && m.afo) := rfl

/-- A leader's lease, extended by the echo of a heartbeat of its own. -/
def Twin.extended (t : Twin) (m : HbMsg) : Twin :=
  match t.sent.find? (fun x => x.1 = m.echo.toNat) with
  | some x => if t.role = 1 && t.bothAfo then
      {t with lease := 1, leaseEnd := max t.leaseEnd (x.2 + 5000000), sent := t.sent.filter (fun y => x.2 ≤ y.2)} else t
  | none => t

/-- What a heartbeat makes of the lease. -/
def Twin.leased (t : Twin) (m : HbMsg) : Twin :=
  if (t.extended m).bothAfo || (t.extended m).lease ≠ 1 then t.extended m else {t.extended m with lease := 0}

/-- Only the lease and the heartbeats it waits for differ. -/
def LeaseOnly (a b : Twin) : Prop := {b with lease := a.lease, leaseEnd := a.leaseEnd, sent := a.sent} = a

theorem Twin.leased_rest (t : Twin) (m : HbMsg) : LeaseOnly t (t.leased m) := by
  have hextended : LeaseOnly t (t.extended m) := by
    unfold Twin.extended
    split
    · split <;> rfl
    · rfl
  unfold Twin.leased
  split <;> exact hextended

theorem Twin.leased_extends {t : Twin} {m : HbMsg} {x : Nat × Nat} (hrole : t.role = 1) (hafo : t.bothAfo = true)
    (h : t.sent.find? (fun y => y.1 = m.echo.toNat) = some x) :
    (t.leased m).lease = 1 ∧ (t.leased m).leaseEnd = max t.leaseEnd (x.2 + 5000000) := by
  have hextended : t.extended m = { t with
      lease := 1, leaseEnd := max t.leaseEnd (x.2 + 5000000), sent := t.sent.filter (fun y => x.2 ≤ y.2)} := by
    simp [Twin.extended, h, hrole, hafo]
  have hstill : (t.extended m).bothAfo = true := by
    rw [hextended]
    exact hafo
  rw [Twin.leased, if_pos (by simp [hstill]), hextended]
  exact ⟨rfl, rfl⟩

theorem Twin.leased_ends {t : Twin} {m : HbMsg} (hafo : t.bothAfo = false) (h : t.lease = 1) : (t.leased m).lease = 0 := by
  have hsame : t.extended m = t := by
    unfold Twin.extended
    split
    · simp [hafo]
    · rfl
  simp [Twin.leased, hsame, hafo, h]

/-- A heartbeat that comes in while no switchover stands. -/
theorem execHb_taken {m : HbMsg} {tagOk : Bool} {seq : Nat} (htakes : s.TwinTakes tagOk seq) (hst : s.twin.st = .paired)
    (hswitch : s.twin.switching = none) : ∃ t r ivl, execHb m tagOk seq s = .next t
      ∧ PushOnly ((s.twin.noted m r ivl).leased m) t.twin ∧ (m.state = 1 → t.twin.partUnits = [] ∧ t.twin.push = []) := by
  simp -zeta only [execHb, State.ctlTake_takes htakes]
  rw [if_neg (by simp [hst])]
  extract_lets s1 s2 s3 s4 s5 s6 s7
  have h1 : s1.twin = {s.twin with rxSeq := tput s.twin.rxSeq (s.twin.inKey 2) seq} := State.xlogAdd_twin ..
  have h2 : s2.twin = { s1.twin with
      echo := m.hbseq.toNat, partHb := some m, gotHb := true, lastHb := s1.time.ivl, partnerLost := false } := rfl
  have h4 : s4.twin = s.twin.noted m (tput s.twin.rxSeq (s.twin.inKey 2) seq) s1.time.ivl := by
    have h3 : s3.twin = {s2.twin with role := if s.twin.role = 0 ∧ s.twin.paired1 = false then
        (if m.role = 0 ∧ s.twin.sideA = true then 1 else 2) else s.twin.role} := by
      unfold s3
      have hfirst : (s2.twin.role = 0 && !s2.twin.paired1) = decide (s.twin.role = 0 ∧ s.twin.paired1 = false) := by
        rw [h2, h1]
        simp
      have hside : s2.twin.sideA = s.twin.sideA := by rw [h2, h1]
      rw [hfirst, hside]
      by_cases h : s.twin.role = 0 ∧ s.twin.paired1 = false
      · rw [if_pos (decide_eq_true h), if_pos h, State.setRole_twin]
        simp
      · rw [if_neg (by simpa using h), if_neg h, h2, h1]
    show {s3.twin with paired1 := true} = _
    rw [h3, h2, h1]
    rfl
  clear_value s4
  have h6 : s6.twin = s4.twin.leased m := by
    have h5 : s5.twin = s4.twin.extended m := by
      unfold s5 Twin.extended
      cases s4.twin.sent.find? (fun x => x.1 = m.echo.toNat) with
      | none => rfl
      | some x =>
        dsimp only
        split <;> rfl
    unfold s6 Twin.leased
    rw [← h5]
    split <;> rfl
  clear_value s6
  have hnone : s6.twin.switching = none := by
    rw [h6]
    exact (congrArg Twin.switching (s4.twin.leased_rest m) :).trans (by rw [h4]; exact hswitch)
  have h7 : PushOnly s6.twin s7.twin := State.pushesByCount_pushOnly hnone (m.pushes.toNat - s6.twin.acked)
  clear_value s7
  have hnone7 : s7.twin.switching = none := (congrArg Twin.switching h7 :).trans hnone
  rw [h6, h4] at h7
  by_cases hwarm : m.state = 1
  · obtain ⟨hlost, hunits⟩ := State.pushesLost_pushOnly (s := s7.modTwin (fun t => {t with partUnits := []})) hnone7
    refine ⟨_, _, _, congrArg Host.Outcome.next (if_pos hwarm), h7.trans (PushOnly.trans ?_ hlost), fun _ => ⟨hunits, ?_⟩⟩
    · rfl
    · obtain ⟨hempty, -⟩ := State.pushesLost_keeps (s7.modTwin (fun t => {t with partUnits := []}))
      exact hempty
  · exact ⟨_, _, _, congrArg Host.Outcome.next (if_neg hwarm), h7, fun h => absurd h hwarm⟩

theorem execHeartbeatCheck_misses (hrole : s.twin.role = 2) (hgot : s.twin.gotHb = false) : ∃ t, execHeartbeatCheck s = .next t
    ∧ t.twin.miss = s.twin.miss + 1 ∧ t.twin.missed = s.twin.missed + 1
    ∧ t.twin.partnerLost = (s.twin.partnerLost || decide (2 ≤ s.twin.miss)) := by
  unfold execHeartbeatCheck
  rw [if_neg (by simp [hrole]), if_neg (by simp [hgot])]
  by_cases h : 2 ≤ s.twin.miss ∧ s.twin.partnerLost = false
  · obtain ⟨hmiss, hlost⟩ := h
    refine ⟨_, congrArg Host.Outcome.next (if_pos ?_), ?_⟩
    · simp only [State.modTwin_twin, hlost, decide_eq_true (show 3 ≤ s.twin.miss + 1 by omega)]
      rfl
    · rw [State.raiseTwin_twin]
      exact ⟨rfl, rfl, by simp [hlost, hmiss]⟩
  · refine ⟨_, congrArg Host.Outcome.next (if_neg fun h3 => h ?_), rfl, rfl, ?_⟩
    · rw [Bool.and_eq_true, decide_eq_true_iff, Bool.not_eq_true'] at h3
      obtain ⟨hmiss, hlost⟩ := h3
      exact ⟨Nat.le_of_succ_le_succ hmiss, hlost⟩
    · cases hlost : s.twin.partnerLost
      · have hfew : ¬ 2 ≤ s.twin.miss := fun h2 => h ⟨h2, hlost⟩
        exact hlost.trans (by simp [hfew])
      · exact hlost.trans (by simp)

end Heartbeat

/-! ### The lease and the roles (R547, R562, R564, R568) -/

section Roles
variable {s : State}

theorem State.logEvent_counts (s : State) {cls : Nat} (hcls : cls ≠ 1) (die code d0 d1 : Nat) :
    (s.logEvent cls die code d0 d1).avail.logN = s.avail.logN + 1 ∧ (s.logEvent cls die code d0 d1).hub = s.hub
      ∧ (s.logEvent cls die code d0 d1).twin = s.twin := by
  simp only [State.logEvent]
  rw [if_neg (by simp [hcls])]
  exact ⟨rfl, rfl, rfl⟩

theorem execLeaseExpire_ends (hrole : s.twin.role = 1) (hlease : s.twin.lease = 1) : ∃ t, execLeaseExpire s = .next t
    ∧ t.twin.role = 0 ∧ t.twin.lease = 2 ∧ t.power.fault = true ∧ t.avail.logN = s.avail.logN + 1
    ∧ ∀ y, (s.sliceOf y).state = .active → (t.sliceOf y).state = .freezing := by
  refine ⟨_, congrArg Host.Outcome.next (if_neg (by simp [hrole, hlease])), ?_⟩
  have havail : s.freezeAll.avail = s.avail := (congrArg State.avail s.freezeAll_hubOnly :)
  have hfreezes := fun y => s.freezeAll_freezes (y := y)
  dsimp only
  generalize s.freezeAll = t at havail hfreezes ⊢
  obtain ⟨hcount, hhub, htwin⟩ := State.logEvent_counts (t.modTwin (fun t => {t with role := 0, lease := 2, switching := none})).faultOn
    (cls := 4) (by decide) dieHub 0x3002 0 0
  have hpower := State.logEvent_power (t.modTwin (fun t => {t with role := 0, lease := 2, switching := none})).faultOn 4 dieHub 0x3002 0 0
  generalize (t.modTwin (fun t => {t with role := 0, lease := 2, switching := none})).faultOn.logEvent 4 dieHub 0x3002 0 0 = u
    at hcount hhub htwin hpower ⊢
  have hports := u.raiseTwin_ports
  refine ⟨?_, ?_, ?_, ?_, fun y hy => ?_⟩
  · rw [hports.twin, htwin]
    rfl
  · rw [hports.twin, htwin]
    rfl
  · rw [hports.power, hpower]
    rfl
  · rw [hports.avail, hcount, ← havail]
    rfl
  · rw [State.sliceOf, hports.hub, hhub]
    exact hfreezes y hy

theorem State.promote_twin (hrole : s.twin.role = 2) : s.promote.twin =
    {s.twin with failovers := (s.twin.failovers + 1) % 2 ^ 32, switching := none, lease := 0, role := 1} := by
  unfold State.promote
  rw [if_pos hrole, State.setRole_twin]
  rfl

theorem execFailover_follower {cause : Fin 4} {tagOk : Bool} {seq : Nat} (htakes : s.TwinTakes tagOk seq) (hrole : s.twin.role = 2) :
    ∃ t n, execFailover cause tagOk seq s = .next t ∧ t.twin.role = 1
      ∧ t.twin.failovers = (s.twin.failovers + 1) % 2 ^ 32 ∧ Msg.twinCtl 6 [1] n ∈ t.out := by
  simp only [execFailover, State.ctlTake_takes htakes]
  rw [if_pos (by simp [hrole])]
  generalize hu : s.modTwin (fun t => {t with rxSeq := tput t.rxSeq (s.twin.inKey 2) seq}) = u
  have hutwin : u.twin = {s.twin with rxSeq := tput s.twin.rxSeq (s.twin.inKey 2) seq} := by rw [← hu]; rfl
  have hpromoted := State.promote_twin (s := u) (by rw [hutwin]; exact hrole)
  obtain ⟨n, hn⟩ := State.twinCtl_says (s := u.promote) (k := 6) (b := leBytes 1 1)
    (by rw [hpromoted, hutwin]; exact htakes.lanes) (by rw [hpromoted, hutwin]; exact htakes.keyed)
  refine ⟨_, n, rfl, ?_, ?_, hn⟩
  · rw [State.twinCtl_twin, hpromoted]
  · rw [State.twinCtl_twin, hpromoted, hutwin]

theorem execRoleack_settles {role : Fin 3} {tagOk : Bool} {seq : Nat} (htakes : s.TwinTakes tagOk seq)
    (hswitch : s.twin.switching.isSome) (hsent : s.twin.switchSent = true) (hrole : s.twin.role = 1) (hpartner : role.val = 1)
    (hcold : s.boot.warmHeld = false) : ∃ t, execRoleack role tagOk seq s = .next t ∧ t.twin.role = 2 ∧ t.twin.switching = none
      ∧ t.twin.lease = 0 := by
  obtain ⟨c, hc⟩ := Option.isSome_iff_exists.1 hswitch
  simp only [execRoleack, State.ctlTake_takes htakes, State.modTwin_twin, hc, hsent, hrole, hpartner, decide_true, Bool.and_self, if_true]
  generalize hu : (s.modTwin (fun t => {t with rxSeq := tput t.rxSeq (s.twin.inKey 2) seq})).modTwin
    (fun t => {t with switching := none, switchSent := false, lease := 0}) = u
  have hboot : (u.setRole 2).boot = s.boot := by
    rw [(u.setRole_twinSide 2).boot, ← hu]
    rfl
  have htwin : u.twin.switching = none ∧ u.twin.lease = 0 := by
    rw [← hu]
    exact ⟨rfl, rfl⟩
  rw [if_neg (by rw [hboot, hcold]; decide)]
  refine ⟨_, rfl, ?_⟩
  rw [State.setRole_twin]
  exact ⟨rfl, htwin⟩

theorem execRoleack_keeps {role : Fin 3} {tagOk : Bool} {seq : Nat} (htakes : s.TwinTakes tagOk seq)
    (h : s.twin.switchSent = false ∨ role.val ≠ 1 ∨ s.twin.role ≠ 1) :
    ∃ t, execRoleack role tagOk seq s = .next t ∧ t.twin.role = s.twin.role ∧ t.twin.switching = s.twin.switching := by
  simp only [execRoleack, State.ctlTake_takes htakes]
  refine ⟨_, rfl, ?_⟩
  split
  · exact ⟨rfl, rfl⟩
  · rw [if_neg]
    · exact ⟨rfl, rfl⟩
    · rcases h with h | h | h <;> simp [State.modTwin_twin, h]

end Roles

/-- Settles O58: heartbeats, the lease and the roles. -/
theorem twinRoles : Obligations.TwinRoles := by
  unfold Obligations.TwinRoles
  refine ⟨fun m tagOk seq f x s => ⟨⟨_, rfl, rfl, rfl⟩, execHeartbeatSend_idle, execHeartbeatSend_sends, fun htakes hst hswitch => ?_,
    fun hrole => ?_, fun hrole hgot => ?_, execHeartbeatCheck_misses⟩, fun cause role tagOk seq s => ⟨fun h => ?_, execLeaseExpire_ends,
    fun h => ?_, fun hrole hafo => ?_, execFailover_follower (cause := cause), fun htakes hrole => ?_, execRoleack_settles, execRoleack_keeps⟩⟩
  · obtain ⟨t, r, ivl, ht, hpush, hwarm⟩ := execHb_taken (m := m) htakes hst hswitch
    have hlease := (s.twin.noted m r ivl).leased_rest m
    have hboth := s.twin.noted_bothAfo m r ivl
    refine ⟨t, ht, (congrArg Twin.echo hpush :).trans (congrArg Twin.echo hlease :),
      (congrArg Twin.gotHb hpush :).trans (congrArg Twin.gotHb hlease :),
      (congrArg Twin.partnerLost hpush :).trans (congrArg Twin.partnerLost hlease :),
      (congrArg Twin.paired1 hpush :).trans (congrArg Twin.paired1 hlease :),
      (congrArg Twin.role hpush :).trans (congrArg Twin.role hlease :), fun hrole hafo hmafo hsent => ?_, fun hafo hleased => ?_, hwarm⟩
    · obtain ⟨hl, he⟩ := Twin.leased_extends (t := s.twin.noted m r ivl) (m := m)
        ((if_neg fun h => absurd (hrole.symm.trans h.1) (by decide)).trans hrole) (by rw [hboth, hafo, hmafo]; rfl) hsent
      exact ⟨(congrArg Twin.lease hpush :).trans hl, (congrArg Twin.leaseEnd hpush :).trans he⟩
    · refine (congrArg Twin.lease hpush :).trans (Twin.leased_ends ?_ hleased)
      rw [hboth]
      rcases hafo with h | h <;> simp [h]
  · exact congrArg Host.Outcome.next (if_pos hrole)
  · exact congrArg Host.Outcome.next ((if_neg (not_not.2 hrole)).trans (if_pos hgot))
  · exact congrArg Host.Outcome.next (if_pos (by rcases h with h | h <;> simp [h]))
  · refine congrArg Host.Outcome.next ?_
    rcases h with h | h
    · simp [State.promote, h]
    · simp [h]
  · refine ⟨_, congrArg Host.Outcome.next (if_pos hafo), ?_⟩
    rw [State.promote_twin hrole]
    exact ⟨rfl, rfl, rfl⟩
  · simp only [exec_failover, execFailover, State.ctlTake_takes htakes]
    rw [if_neg (by simp [hrole])]
    exact ⟨_, rfl, rfl, rfl⟩

end Sys2Proof.Machine
end

section

namespace Sys2Proof.Machine

/-! ### Mirror entries and switchovers (R561, R567, R568, R570) -/

section Mirror
variable {s : State}

/-- The bits of a mirror entry that a write sets. -/
abbrev mirrorWord (v : Word) : Word := v &&& 0x7FFFFFFFFFE0007F

theorem State.mirrorWrite_eq (s : State) (i : Nat) (v : Word) : s.mirrorWrite i v.toNat =
    if s.twin.push.any (fun p => p.entry = i) then (8, s)
    else if v.getLsbD 0 && !s.mirrorOk i (mirrorWord v) then (6, s)
    else (0, s.modTwin (fun t => { t with
      entry := tput t.entry i (mirrorWord v)
      units := if (mirrorWord v).toNat / 128 = (tget 0 s.twin.entry i).toNat / 128 then t.units
        else tdel t.units i
      partUnits := if (mirrorWord v).toNat / 128 = (tget 0 s.twin.entry i).toNat / 128 then t.partUnits
        else tdel t.partUnits i })) := by
  unfold State.mirrorWrite
  rw [BitVec.ofNat_toNat, BitVec.setWidth_eq]
  rfl

theorem State.handOver_asked (s : State) : (s.handOver 1).twin.switching = some 1
    ∧ ∀ y, (s.sliceOf y).state = .active → ((s.handOver 1).sliceOf y).state = .freezing := by
  unfold State.handOver
  generalize ht : s.freezeAll.modTwin (fun t => {t with switching := some 1, switchSent := false}) = t
  have hswitch : t.twin.switching = some 1 := by rw [← ht]; rfl
  have hhub : t.hub = s.freezeAll.hub := by rw [← ht]; rfl
  refine ⟨?_, fun y hy => ?_⟩
  · unfold State.switchGo
    rw [hswitch]
    dsimp only
    split
    · exact hswitch
    · rw [if_neg (by decide)]
      split
      · rw [State.twinCtl_twin]
        exact hswitch
      · exact hswitch
  · rw [State.sliceOf, t.switchGo_twinSide.hub, hhub]
    exact s.freezeAll_freezes hy

/-- A switchover asked for in a synchronised session, while none stands. -/
theorem State.switchRequest_serves (s : State) (hnone : s.twin.switching = none)
    (hon : ¬ (s.twin.st ≠ .paired ∨ s.twin.role = 0 ∨ s.synced = false)) :
    s.switchRequest 1 = (0, if s.twin.role = 1 then s.handOver 1
      else s.modTwin (fun t => {t with switching := some 1, switchSent := true})) := by
  unfold State.switchRequest
  rw [if_neg (by decide), if_neg (by simp [hnone]), if_neg (by simpa [or_assoc] using hon)]

end Mirror

/-! ### Pushes, restores and the journal (R559, R561, R563, R566) -/

section Push
variable {s : State}

theorem State.pushEnd_twin (h : s.twin.switching = none) (p : Push) (st : Nat) :
    (s.pushEnd p st).twin.push = s.twin.push.erase p
    ∧ (p.restore = false → (s.pushEnd p st).twin.lastPush = (p.tag, st)
      ∧ (s.pushEnd p st).twin.pushes = (if st = 0 then s.twin.pushes + 1 else s.twin.pushes)) := by
  obtain ⟨hpush, -, -, -, hlast⟩ := s.pushEnd_keeps p st
  refine ⟨hpush, fun hp => ⟨hlast hp, ?_⟩⟩
  unfold State.pushEnd
  extract_lets t u
  have ht : t.twin.pushes = (if st = 0 then s.twin.pushes + 1 else s.twin.pushes) ∧ t.twin.switching = none := by
    unfold t
    rw [State.modTwin_twin, if_neg (by simp [hp])]
    exact ⟨rfl, h⟩
  have hu : u.twin = t.twin := by
    unfold u
    split
    · split
      · exact State.fenceSig_twin ..
      · rfl
    · exact State.raiseTwin_twin t
  rw [State.switchGo_none (by rw [hu]; exact ht.2), hu]
  exact ht.1

section Requests
variable {req : List Byte}

/-- The push a request of a leader asks for, under the next tag. -/
def State.asked (s : State) (restore : Bool) (req : List Byte) : Push :=
  let f := fun (o n : Nat) => leNat ((req.drop o).take n)
  ⟨s.twin.tag, restore, f 0 8, f 8 8, f 16 8, f 32 2, BitVec.ofNat 64 (f 24 8), (f 34 1).testBit 0, 0⟩

/-- The request has its length and stays within its entry. -/
def State.askedInside (s : State) (req : List Byte) : Prop :=
  let f := fun (o n : Nat) => leNat ((req.drop o).take n)
  req.length = 40 ∧ s.twin.inEntry (f 0 8) (f 8 8) (f 16 8) = true

theorem State.pushRequest_refused (s : State) (hno : s.leads = false) (restore : Bool) (req : List Byte) :
    s.pushRequest restore req = (7, s) :=
  if_pos (by simp [hno])

theorem State.journalSend_refused (s : State) (hno : s.leads = false) (rec' : Sector) : s.journalSend rec' = (7, s) :=
  if_neg (by simp [hno])

variable (hl : s.leads = true)
include hl

theorem State.pushRequest_busy (hmany : 16 ≤ s.twin.push.length) (restore : Bool) (req : List Byte) :
    s.pushRequest restore req = (8, s) :=
  (if_neg (by simp [hl])).trans (if_pos hmany)

variable (hroom : s.twin.push.length < 16)
include hroom

theorem State.pushRequest_range (hout : ¬ s.askedInside req) (restore : Bool) : s.pushRequest restore req = (6, s) := by
  refine (if_neg (by simp [hl])).trans ((if_neg (Nat.not_le.2 hroom)).trans (if_pos ?_))
  have hbad := not_and_or.1 hout
  simpa using hbad

theorem State.pushRequest_sent (hin : s.askedInside req) (restore : Bool) :
    let p := s.asked restore req
    let u := s.modTwin (fun t => {t with push := t.push ++ [p], tag := (t.tag + 1) % 16384})
    s.pushRequest restore req = (0, if restore
      then u.twinCtl 7 (leBytes 1 p.entry ++ leBytes 8 p.off ++ leBytes 8 p.len ++ leBytes 2 p.tag)
      else u.sendRange p.entry p.off p.len p.tag) :=
  (if_neg (by simp [hl])).trans ((if_neg (Nat.not_le.2 hroom)).trans (if_neg (by simpa [State.askedInside] using hin)))

end Requests

section Answers
variable {tag : BitVec 14} {tagOk : Bool} {seq : Nat} (htakes : s.TwinTakes tagOk seq)
include htakes

/-- The state once a control frame has been taken. -/
abbrev State.taken (s : State) (seq : Nat) : State :=
  s.modTwin (fun t => {t with rxSeq := tput t.rxSeq (s.twin.inKey 2) seq})

theorem execPushack_taken {st : Fin 4} {b : Word} : execPushack tag st b tagOk seq s = .next (
    match s.twin.push.find? (fun p => p.tag = tag.toNat) with
    | some p => (s.taken seq).pushEnd p st.val
    | none => s.taken seq) := by
  simp only [execPushack, State.ctlTake_takes htakes]
  rfl

theorem execRestreq_taken {e : Fin 64} {off len : Word} : execRestreq e off len tag tagOk seq s = .next (
    let u := (s.ctlTake tagOk seq).2
    if s.twin.role ≠ 2 then u.pushAck tag.toNat 3
    else if !s.twin.inEntry e.val off.toNat len.toNat then u.pushAck tag.toNat 1
    else u.sendRange e.val off.toNat len.toNat tag.toNat) := by
  simp only [execRestreq, State.ctlTake_takes htakes]
  rfl

end Answers

theorem execJournal_kept {rec' : Sector} {tagOk : Bool} {seq : Nat} (htakes : s.TwinTakes tagOk seq)
    (hrole : s.twin.role = 2) :
    ∃ t, execJournal rec' tagOk seq s = .next t ∧ t.twin.journalN = s.twin.journalN + 1
      ∧ (s.twin.journal.length < 256 → t.twin.journal = s.twin.journal ++ [rec'])
      ∧ (s.twin.journal.length = 256 → t.twin.journal = s.twin.journal.tail ++ [rec']) := by
  simp only [execJournal, State.ctlTake_takes htakes]
  rw [if_pos (by simp [hrole])]
  refine ⟨_, rfl, rfl, fun hroom => ?_, fun hfull => ?_⟩
  · have hdrop : s.twin.journal.length + 1 - 256 = 0 := by omega
    simp only [State.modTwin_twin, hdrop, List.drop_zero]
  · simp only [State.modTwin_twin, hfull]
    cases hl : s.twin.journal with
    | nil => simp [hl] at hfull
    | cons a l => rfl

theorem execJournal_ignored {rec' : Sector} {tagOk : Bool} {seq : Nat} (htakes : s.TwinTakes tagOk seq)
    (hrole : s.twin.role ≠ 2) : ∃ t, execJournal rec' tagOk seq s = .next t ∧ t.twin.journal = s.twin.journal := by
  simp only [execJournal, State.ctlTake_takes htakes]
  rw [if_neg (by simp [hrole])]
  exact ⟨_, rfl, rfl⟩

/-- A follower that has room for the frame's unit, before any acknowledgement. -/
def State.unitLanded (s : State) (e : Fin 64) (n : Half) (pois : BitVec 4) (g : Nat) (data : List Sector) : State :=
  (s.bump.landFrame e.val n.toNat pois.toNat data).modTwin (fun t => { t with
    arriving := tmod 0 t.arriving g (· + 256),
    units := tmod [] t.units e.val (fun u => if u.contains n.toNat then u else u ++ [n.toNat]) })

theorem State.unitLanded_units (s : State) (e : Fin 64) (n : Half) (pois : BitVec 4) (g : Nat) (data : List Sector) :
    n.toNat ∈ tget [] (s.unitLanded e n pois g data).twin.units e.val := by
  simp only [State.unitLanded, State.modTwin_twin, tget_tmod_self]
  split
  next h => simpa using h
  next => simp

theorem State.pushAck_units (s : State) (g st : Nat) : (s.pushAck g st).twin.units = s.twin.units := by
  unfold State.pushAck
  rw [State.twinCtl_twin]
  rfl

section Data
variable {e : Fin 64} {n : Half} {pois : BitVec 4} {tag : BitVec 14} {data : List Sector}
  (hst : s.twin.st = .paired) (hpush : ∀ p ∈ s.twin.push, p.restore = true → p.tag ≠ tag.toNat)
include hst hpush

/-- A DATA frame that answers no restore. -/
theorem execTwinData_push (gap : Bool) : execTwinData e n pois tag data gap s = .next (
    if gap then s.pushAck tag.toNat 2
    else if s.twin.lostTags.contains tag.toNat then s
    else if s.twin.role ≠ 2 then s.pushAck tag.toNat 3
    else if !s.twin.inEntry e.val (256 * n.toNat) 256 then s.pushAck tag.toNat 1
    else if Config.byteChoice s.freeCtr 563 then (s.unitLanded e n pois tag.toNat data).pushAck tag.toNat 0
    else s.unitLanded e n pois tag.toNat data) := by
  have hnone : s.twin.push.find? (fun p => p.restore && p.tag = tag.toNat) = none := by
    rw [List.find?_eq_none]
    intro p hp h
    simp only [Bool.and_eq_true, decide_eq_true_eq] at h
    exact hpush p hp h.1 h.2
  unfold execTwinData
  extract_lets n' g
  refine congrArg Host.Outcome.next ((if_neg (not_not.2 hst)).trans ?_)
  rw [show s.twin.push.find? (fun p => p.restore && p.tag = g) = none from hnone]
  rfl

end Data

end Push

/-- Settles O59: mirror entries, pushes, restores, the journal and switchover. -/
theorem twinMirror : Obligations.TwinMirror := by
  unfold Obligations.TwinMirror
  refine ⟨fun i v b h m s => ?mirror, fun req rec' tagOk seq s => ?requests,
    fun e n pois tag data gap st b off len p tagOk seq s => ?frames⟩
  case mirror =>
    have hwrite : execMirrorEntryWrite i v s = .next (odDone 0x3003 _) :=
      congrArg (fun r => Host.Outcome.next (odDone 0x3003 r)) (s.mirrorWrite_eq i.val v)
    have hb : ∀ {b : Byte}, b ≠ 1 → b.toNat ≠ 1 := fun hb h => hb (BitVec.eq_of_toNat_eq h)
    refine ⟨fun hpushed => ?_, fun hfree hen hbad => ?_, fun hfree hok => ?_, fun h1 => ?_, fun h1 hstands => ?_,
      fun h1 hnone hoff => ?_, fun h1 hnone hon hlead => ?_, fun h1 hnone hon hfollow => ?_,
      fun hh hm => ⟨fun hlead hkeys hhigher => ?_, fun hno => ?_⟩⟩
    · exact hwrite.trans (by rw [if_pos hpushed]; rfl)
    · exact hwrite.trans (by rw [if_neg (Bool.eq_false_iff.1 hfree), if_pos (by rw [hen, hbad]; rfl)]; rfl)
    · have hno : ¬ (v.getLsbD 0 && !s.mirrorOk i.val (mirrorWord v)) = true := by
        rcases hok with h | h <;> simp only [h] <;> simp
      rw [if_neg (Bool.eq_false_iff.1 hfree), if_neg hno] at hwrite
      refine ⟨_, hwrite, tget_tput_self _ _ _ _, fun j hj => tget_tput_ne _ _ _ hj, fun hsame => ?_, fun hmoved => ?_⟩
      · exact if_pos hsame
      · refine (congrArg (fun u => tget [] u i.val) (if_neg hmoved)).trans ?_
        rw [tget_tfind, tfind_tdel_self]
        rfl
    · exact congrArg (fun r => Host.Outcome.next (odDone 0x3001 r)) (if_pos (hb h1))
    · subst h1
      exact congrArg (fun r => Host.Outcome.next (odDone 0x3001 r)) ((if_neg (by decide)).trans (if_pos hstands))
    · subst h1
      refine congrArg (fun r => Host.Outcome.next (odDone 0x3001 r))
        ((if_neg (by decide)).trans ((if_neg (by simp [hnone])).trans (if_pos ?_)))
      rcases hoff with h | h | h <;> simp [h]
    · subst h1
      have hasked := s.switchRequest_serves hnone hon
      rw [if_pos hlead] at hasked
      exact ⟨_, congrArg (fun r => Host.Outcome.next (odDone 0x3001 r)) hasked, s.handOver_asked⟩
    · subst h1
      have hasked := s.switchRequest_serves hnone hon
      rw [if_neg hfollow] at hasked
      exact congrArg (fun r => Host.Outcome.next (odDone 0x3001 r)) hasked
    · simp only [exec_mirrorRepairUpgrade, execMirrorRepairUpgrade, hh, hm]
      rw [if_pos (by simp [hlead, hkeys, hhigher])]
    · simp only [exec_mirrorRepairUpgrade, execMirrorRepairUpgrade, hh, hm]
      rw [if_neg]
      rcases hno with h' | h' | h' <;> simp [h']
  case requests =>
    have hdone : ∀ {e : Nat} {r r' : Nat × State}, r = r' →
        (.next (odDone e r) : Res) = .next (r'.2.emit (.event 16 [e, r'.1])) := by
      rintro e r _ rfl
      rfl
    refine ⟨fun hno => ⟨hdone (s.pushRequest_refused hno _ _), hdone (s.pushRequest_refused hno _ _),
        hdone (s.journalSend_refused hno _)⟩,
      fun hl hmany => ⟨hdone (s.pushRequest_busy hl hmany _ _), hdone (s.pushRequest_busy hl hmany _ _)⟩,
      fun hl hroom hout => ⟨hdone (s.pushRequest_range hl hroom hout _), hdone (s.pushRequest_range hl hroom hout _)⟩,
      fun hl hroom hin => ⟨hdone (s.pushRequest_sent hl hroom hin _), hdone (s.pushRequest_sent hl hroom hin _)⟩,
      fun hl => hdone (if_pos hl), execJournal_kept, execJournal_ignored⟩
  case frames =>
    refine ⟨fun hst => congrArg Host.Outcome.next (if_pos hst), fun hst hpush => ?_,
      fun htakes hnone hfind => ?_, fun htakes hno => ?_, fun htakes => ?_⟩
    · have hdata := fun gap => execTwinData_push (e := e) (n := n) (pois := pois) (data := data) hst hpush gap
      refine ⟨hdata true, fun hlost => ?_, fun hlost hrole => ?_, fun hlost hrole hout => ?_, fun hlost hrole hin => ?_⟩
      · exact (hdata false).trans (congrArg _ ((if_neg (by decide)).trans (if_pos (by simpa using hlost))))
      all_goals have hlost' : ¬ s.twin.lostTags.contains tag.toNat = true := by simpa using hlost
      · exact (hdata false).trans (congrArg _ ((if_neg (by decide)).trans ((if_neg hlost').trans (if_pos hrole))))
      all_goals have hrole' : ¬ s.twin.role ≠ 2 := not_not.2 hrole
      · exact (hdata false).trans (congrArg _ ((if_neg (by decide)).trans ((if_neg hlost').trans ((if_neg hrole').trans
          (if_pos (by simp [hout]))))))
      · have hland := (hdata false).trans (congrArg _ ((if_neg (by decide)).trans ((if_neg hlost').trans
          ((if_neg hrole').trans (if_neg (by simp [hin]))))))
        refine ⟨?_, s.unitLanded_units e n pois tag.toNat data, State.pushAck_units _ _ _⟩
        split at hland
        · exact .inr hland
        · exact .inl hland
    · have htaken := execPushack_taken (tag := tag) (st := st) (b := b) htakes
      rw [hfind] at htaken
      exact ⟨_, htaken, State.pushEnd_twin (s := s.taken seq) hnone p st.val⟩
    · have htaken := execPushack_taken (tag := tag) (st := st) (b := b) htakes
      rw [List.find?_eq_none.2 (by simpa using hno)] at htaken
      exact htaken.trans (congrArg (fun r => Host.Outcome.next r.2) (State.ctlTake_takes htakes).symm)
    · have htaken := execRestreq_taken (e := e) (off := off) (len := len) (tag := tag) htakes
      refine ⟨fun hrole => ?_, fun hrole hout => ?_, fun hrole hin => ?_⟩
      · exact htaken.trans (congrArg _ (if_pos hrole))
      · exact htaken.trans (congrArg _ ((if_neg (not_not.2 hrole)).trans (if_pos (by simp [hout]))))
      · exact htaken.trans (congrArg _ ((if_neg (not_not.2 hrole)).trans (if_neg (by simp [hin]))))

end Sys2Proof.Machine
end

section

namespace Sys2Proof.Machine

/-! ### What the operations do with the queue of waiting commands

Nothing but the step takes a command off the queue: each operation the commands are built from leaves it alone. -/

/-- A fold over states that each keep the queue keeps it. -/
theorem foldl_pending {α : Type} {f : State → α → State} (hf : ∀ s a, (f s a).pending = s.pending) (l : List α) (s : State) :
    (l.foldl f s).pending = s.pending := by
  induction l generalizing s with
  | nil => rfl
  | cons a l ih => exact (ih _).trans (hf s a)

/-- The same for a fold that carries a state beside its results. -/
theorem foldl_pending_at {α β : Type} (state : β → State) {f : β → α → β}
    (hf : ∀ p a, (state (f p a)).pending = (state p).pending) (l : List α) (p : β) :
    (state (l.foldl f p)).pending = (state p).pending := by
  induction l generalizing p with
  | nil => rfl
  | cons a l ih => exact (ih _).trans (hf p a)

/-- The same commands wait in the two states. As a relation of its own it is compared by its arguments, where an
equation of the two queues would be computed. -/
def SameQueue (s t : State) : Prop := t.pending = s.pending

theorem SameQueue.of {s t : State} (h : t.pending = s.pending) : SameQueue s t := h

theorem SameQueue.trans {s t u : State} (hst : SameQueue s t) (htu : SameQueue t u) : SameQueue s u := Eq.trans htu hst

theorem SameQueue.foldl {α : Type} {f : State → α → State} (hf : ∀ s a, SameQueue s (f s a)) (l : List α) (s : State) :
    SameQueue s (l.foldl f s) := foldl_pending hf l s

/-- What a fold carries beside its results is a state with the queue of `s`. -/
def Carries {α : Type} (state : α → State) (s : State) (p : α) : Prop := SameQueue s (state p)

theorem Carries.foldl {α β : Type} {state : α → State} {s : State} {f : α → β → α}
    (hf : ∀ p a, Carries state s p → Carries state s (f p a)) (l : List β) {p : α} (hp : Carries state s p) :
    Carries state s (l.foldl f p) :=
  List.foldlRecOn l f (motive := Carries state s) hp (fun p hp a _ => hf p a hp)

/-- A command's outcome is a next state with the queue of `s`. -/
def KeepsQueue (s : State) (r : Res) : Prop := ∃ t, r = .next t ∧ t.pending = s.pending

@[simp] theorem keepsQueue_next {s t : State} : KeepsQueue s (.next t) ↔ t.pending = s.pending := by
  constructor
  · rintro ⟨u, h, hu⟩
    cases h
    exact hu
  · exact fun h => ⟨t, rfl, h⟩

theorem KeepsQueue.of {s t : State} {r : Res} (hr : KeepsQueue t r) (ht : t.pending = s.pending) : KeepsQueue s r := by
  obtain ⟨u, rfl, hu⟩ := hr
  exact keepsQueue_next.2 (hu.trans ht)

theorem State.issue_keepsQueue {s : State} {h : Hart} {f : State → State} (hf : (f s).pending = s.pending) :
    KeepsQueue s (s.issue h f) := by
  unfold State.issue
  rw [keepsQueue_next]
  split
  · exact hf
  · rfl

theorem odDone_pending (index : Nat) (r : Nat × State) : (odDone index r).pending = r.2.pending := rfl

theorem State.localStore_kept {s t : State} {h : Hart} {off : Nat} {v : Word} (hs : s.localStore h off v = some t) :
    t.pending = s.pending := by
  unfold State.localStore at hs
  grind [State.modThr_pending]

theorem State.localStore_pending (s : State) (h : Hart) (off : Nat) (v : Word) :
    ((s.localStore h off v).getD s).pending = s.pending := by
  cases hs : s.localStore h off v with
  | none => rfl
  | some t => exact State.localStore_kept hs

/-! #### Threads -/

theorem State.trapThr_pending (s : State) (h : Hart) (c : Cause) (tval : Nat) :
    (s.trapThr h c tval).pending = s.pending := by rfl

theorem State.trapIllegal_pending (s : State) (h : Hart) : (s.trapIllegal h).pending = s.pending := by rfl

theorem State.waitMem_pending (s : State) (h : Hart) (op : MemOp) : (s.waitMem h op).pending = s.pending := by rfl

/-! #### Frames and requests -/

theorem State.modDir_pending (s : State) (a m : Nat) (toHub : Bool) (f : LinkDir → LinkDir) :
    (s.modDir a m toHub f).pending = s.pending := (s.modDir_calm a m toHub f).1

theorem State.linkSend_pending (s : State) (a m : Nat) (toHub : Bool) (c : LinkCmd) :
    (s.linkSend a m toHub c).pending = s.pending := (s.linkSend_calm a m toHub c).1

theorem State.dieReq_pending (s : State) (x m dst : Nat) (cls : Cls) (op : TOp) (pa len tag qual : Nat)
    (data : List Sector) :
    (s.dieReq x m dst cls op pa len tag qual data).pending = s.pending := by
  unfold State.dieReq
  grind [State.emit_pending, State.linkSend_pending]

/-! #### Threads -/

theorem State.xlateRequest_pending (s : State) (h : Hart) (ctx va : Nat) :
    (s.xlateRequest h ctx va).pending = s.pending := by
  unfold State.xlateRequest
  grind [State.dieReq_pending, State.modDie_pending]

/-! #### Translation -/

theorem State.tlbFill_pending (s : State) (t : Tlb) (e : TEntry) :
    (s.tlbFill t e).pending = s.pending := (s.tlbFill_calm t e).1

theorem State.translate1_pending (s : State) (t : Tlb) (ctx va : Nat) (acc : Acc) (user : Bool) :
    (s.translate1 t ctx va acc user).2.pending = s.pending := (s.translate1_calm t ctx va acc user).1

/-! #### Threads -/

theorem State.locate_pending (s : State) (h : Hart) (acc : Acc) (p : Piece) :
    (s.locate h acc p).2.pending = s.pending := by
  unfold State.locate
  dsimp only
  (repeat' split) <;> grind [foldl_pending, State.xlateRequest_pending, State.translate1_pending]

theorem State.locateAll_pending (s : State) (h : Hart) (acc : Acc) (ps : List Piece) :
    (s.locateAll h acc ps).2.pending = s.pending := by
  refine foldl_pending_at Prod.snd (fun p a => ?_) ps ([], s)
  exact p.2.locate_pending h acc a

/-! #### Packets -/

theorem State.graftReply_pending (s : State) (x m tag : Nat) (op : TOp) (len : Nat) (st : Status)
    (data : List (Sector × Bool)) :
    (s.graftReply x m tag op len st data).pending = s.pending := (s.graftReply_calm x m tag op len st data).1

theorem State.handRsp_pending (s : State) (ni : Nat) (t : OutTag) (st : Status) (data : List (Sector × Bool)) :
    (s.handRsp ni t st data).pending = s.pending := (s.handRsp_calm ni t st data).1

theorem State.localDone_pending (s : State) (ni : Nat) (t : OutTag) (st : Status) :
    (s.localDone ni t st).pending = s.pending := (s.localDone_calm ni t st).1

theorem State.setCls_pending (s : State) (n c : Nat) (v : NiCls) :
    (s.setCls n c v).pending = s.pending := (s.setCls_calm n c v).1

theorem State.sendReq_pending (s : State) (ni : Nat) (q : NReq) (hbad : Bool) (data : List Sector) :
    (s.sendReq ni q hbad data).pending = s.pending := (s.sendReq_calm ni q hbad data).1

theorem State.submit_pending (s : State) (ni : Nat) (q : NReq) (hbad : Bool) (data : List Sector) :
    (s.submit ni q hbad data).pending = s.pending := (s.submit_calm ni q hbad data).1

theorem State.ask_pending (s : State) (ni dst : Nat) (op : TOp) (len pa qual : Nat) (data : List Sector) :
    (s.ask ni dst op len pa qual data).pending = s.pending := (s.ask_calm ni dst op len pa qual data).1

/-! #### Threads -/

theorem State.walkRead_pending (s : State) (id : Nat) (w : Walk) : (s.walkRead id w).pending = s.pending := by
  unfold State.walkRead
  grind [State.ask_pending, State.emit_pending]

theorem State.walkStart_pending (s : State) (h : Hart) (w : Walk) : (s.walkStart h w).pending = s.pending := by
  unfold State.walkStart
  grind [State.walkRead_pending, State.modHub_pending]

/-! #### Contexts, queues and fault queues -/

theorem State.foldFault_pending (s : State) (r : FaultRec) : (s.foldFault r).pending = s.pending := by rfl

/-! #### Frames and requests -/

theorem State.modEp_pending (s : State) (e : Ep) (f : HostEp → HostEp) :
    (s.modEp e f).pending = s.pending := (s.modEp_calm e f).1

/-! #### What an endpoint sends -/

theorem State.drainOut_pending (s : State) (e : Ep) : (s.drainOut e).pending = s.pending := (s.drainOut_calm e).1

theorem State.enqueueOut_pending (s : State) (e : Ep) (q : HwReq) :
    (s.enqueueOut e q).pending = s.pending := (s.enqueueOut_calm e q).1

theorem State.hostPost_pending (s : State) (sl iova : Nat) (bs : List Byte) :
    (s.hostPost sl iova bs).2.pending = s.pending := (s.hostPost_calm sl iova bs).1

/-! #### Packets -/

theorem State.chargeNi_pending (s : State) (ni : Nat) (cls : Cls) (n : Nat) :
    (s.chargeNi ni cls n).pending = s.pending := (s.chargeNi_calm ni cls n).1

/-! #### Home agents -/

theorem State.chargeAgent_pending (s : State) (rt : Rights) (op : TOp) (pa n : Nat) :
    (s.chargeAgent rt op pa n).pending = s.pending := (s.chargeAgent_calm rt op pa n).1

/-! #### The array of a cask -/

theorem State.refuse_pending (s : State) (rt : Rights) (pa kslot : Nat) :
    (s.refuse rt pa kslot).pending = s.pending := (s.refuse_calm rt pa kslot).1

/-! #### Home agents -/

theorem State.dirCheck_pending (s : State) (k line : Nat) :
    (s.dirCheck k line).pending = s.pending := (s.dirCheck_calm k line).1

/-! #### The array of a cask -/

theorem State.charge_pending (s : State) (pa n : Nat) (wr : Bool) :
    (s.charge pa n wr).pending = s.pending := (s.charge_calm pa n wr).1

theorem State.arrayWrite_pending (s : State) (pa : Nat) (f : Nat → Cask → Nat → Cask) :
    (s.arrayWrite pa f).pending = s.pending := (s.arrayWrite_calm pa f).1

/-! #### Home agents -/

theorem State.poisonLine_pending (s : State) (line : Nat) (count : Bool) :
    (s.poisonLine line count).pending = s.pending := (s.poisonLine_calm line count).1

theorem State.sendSnoops_pending (s : State) (k line : Nat) (ss : List (Site × TOp)) (push : Option Sector) :
    (s.sendSnoops k line ss push).pending = s.pending := (s.sendSnoops_calm k line ss push).1

theorem State.purgeLine_pending (s : State) (k line : Nat) (xs : List Site) :
    (s.purgeLine k line xs).pending = s.pending := (s.purgeLine_calm k line xs).1

/-! #### Frames and requests -/

theorem State.logEvent_pending (s : State) (cls die code d0 d1 : Nat) :
    (s.logEvent cls die code d0 d1).pending = s.pending := (s.logEvent_calm cls die code d0 d1).1

/-! #### Home agents -/

theorem State.plainRead_pending (s : State) (k : Nat) (r : HomeReq) :
    (s.plainRead k r).2.pending = s.pending := (s.plainRead_calm k r).1

/-! #### Packets -/

theorem State.respond_pending (s : State) (ni : Nat) (u : Unanswered) (st : Status) (data : List (Sector × Bool))
    (hbad : Bool) :
    (s.respond ni u st data hbad).pending = s.pending := (s.respond_calm ni u st data hbad).1

theorem State.answerAs_pending (s : State) (ni : Nat) (u : Unanswered) (st : Status) (data : List (Sector × Bool)) :
    (s.answerAs ni u st data).pending = s.pending := (s.answerAs_calm ni u st data).1

theorem State.answer_pending (s : State) (ni src tag : Nat) (st : Status) (data : List (Sector × Bool)) :
    (s.answer ni src tag st data).pending = s.pending := (s.answer_calm ni src tag st data).1

/-! #### Home agents -/

theorem State.wbFree_pending (s : State) (r : HomeReq) : (s.wbFree r).pending = s.pending := (s.wbFree_calm r).1

theorem State.homeAnswer_pending (s : State) (r : HomeReq) (st : Status) (data : List (Sector × Bool)) :
    (s.homeAnswer r st data).pending = s.pending := (s.homeAnswer_calm r st data).1

/-! #### Home agents -/

theorem State.homeFinish_pending (s : State) (k : Nat) (r : HomeReq) (held : List (Nat × Sector × Bool)) :
    (s.homeFinish k r held).pending = s.pending := (s.homeFinish_calm k r held).1

theorem State.homeStart_pending (s : State) (k : Nat) (r : HomeReq) :
    (s.homeStart k r).pending = s.pending := (s.homeStart_calm k r).1

theorem State.homeSubmit_pending (s : State) (k : Nat) (r : HomeReq) :
    (s.homeSubmit k r).pending = s.pending := (s.homeSubmit_calm k r).1

theorem State.agentWrite_pending (s : State) (rt : Rights) (op : TOp) (pa kslot : Nat) (mask : Word) (v : Sector) :
    (s.agentWrite rt op pa kslot mask v).2.pending = s.pending := (s.agentWrite_calm rt op pa kslot mask v).1

theorem State.agentPut_pending (s : State) (rt : Rights) (op : TOp) (kslot pa : Nat) (bs : List Byte) :
    (s.agentPut rt op kslot pa bs).2.pending = s.pending := (s.agentPut_calm rt op kslot pa bs).1

/-! #### Contexts, queues and fault queues -/

theorem State.batchClose_pending (s : State) (sl : Nat) : (s.batchClose sl).pending = s.pending := by
  simp [State.batchClose, foldl_pending, apply_ite State.pending, State.hostPost_pending, State.agentPut_pending,
    State.modHub_pending, State.modFq_pending, State.raiseSlice_pending]

theorem State.recordFault_pending (s : State) (r : FaultRec) : (s.recordFault r).pending = s.pending := by
  unfold State.recordFault
  grind [State.modHub_pending, State.foldFault_pending, State.batchClose_pending, State.modFq_pending]

theorem State.cmdEnd_pending (s : State) (b code : Nat) :
    (s.cmdEnd b code).pending = s.pending := (s.cmdEnd_calm b code).1

theorem State.breakChan_pending (s : State) (ch : Nat) : (s.breakChan ch).pending = s.pending := by rfl

theorem State.abortBegin_pending (s : State) (x : Nat) (e : AbortEnd) (blk : Option (Fin 4)) :
    (s.abortBegin x e blk).pending = s.pending := by
  unfold State.abortBegin
  dsimp only
  (repeat' split) <;> grind [foldl_pending, State.cmdEnd_pending, State.modCtx_pending, State.modHub_pending,
    State.modDie_pending, State.modCore_pending, State.breakChan_pending, State.modQueue_pending,
    State.fenceAbandon_pending]

theorem State.ctxLose_pending (s : State) (x : Nat) (c : LossCause) : (s.ctxLose x c).pending = s.pending := by
  unfold State.ctxLose
  grind [State.abortBegin_pending, State.logEvent_pending]

/-! #### Threads -/

theorem State.threadFault_pending (s : State) (h : Hart) (op : MemOp) (ps : List Piece) (p : Piece) (c : XCause)
    (ipa : Nat) (wlk : Bool) :
    (s.threadFault h op ps p c ipa wlk).pending = s.pending := by
  unfold State.threadFault
  grind [State.modThr_pending, State.recordFault_pending, State.ctxLose_pending]

/-! #### Counters -/

theorem State.mapCores_pending (s : State) (f : Nat → Core → Core) : (s.mapCores f).pending = s.pending := by rfl

theorem State.dieEvent_pending (s : State) (x code n : Nat) : (s.dieEvent x code n).pending = s.pending := by
  unfold State.dieEvent
  grind [State.mapCores_pending]

/-! #### Threads -/

theorem State.missRequest_pending (s : State) (h : Hart) (line kslot : Nat) (excl : Bool) (va : Nat) :
    (s.missRequest h line kslot excl va).pending = s.pending := by
  unfold State.missRequest
  grind [State.modDie_pending, State.dieReq_pending, State.dieEvent_pending]

theorem State.postRequest_pending (s : State) (x : Nat) (p : Posted) (slice : Nat) :
    (s.postRequest x p slice).pending = s.pending := by
  unfold State.postRequest
  grind [State.dieReq_pending]

theorem State.postIssue_pending (s : State) (x : Nat) (p : Posted) : (s.postIssue x p).pending = s.pending := by
  unfold State.postIssue
  grind [State.modDie_pending, State.postRequest_pending, State.dieEvent_pending]

theorem State.adapterIssue_pending (s : State) (x : Nat) : (s.adapterIssue x).pending = s.pending := by
  simp [State.adapterIssue, foldl_pending, State.postIssue_pending]

theorem State.postSend_pending (s : State) (h : Hart) (l : Loc) (wr : Bool) (n : Nat) (bs : List Byte) (va : Nat) :
    (s.postSend h l wr n bs va).pending = s.pending := by
  unfold State.postSend
  grind [State.adapterIssue_pending, State.modDie_pending]

theorem State.unpin_pending (s : State) (h : Hart) (ls : List LPiece) : (s.unpin h ls).pending = s.pending := by rfl

theorem State.retireMem_pending (s : State) (h : Hart) (n : ILen) (f : Thread → Thread) :
    (s.retireMem h n f).pending = s.pending := by rfl

theorem State.writeLoc_pending (s : State) (h : Hart) (l : Loc) (va : Nat) (bs : List Byte) :
    (s.writeLoc h l va bs).pending = s.pending := by
  cases l with
  | scratch o => rfl
  | reg o => exact s.localStore_pending h o _
  | cask pa k =>
    refine foldl_pending_at Prod.fst (fun p r => ?_) _ (s, bs)
    rfl
  | dev a => exact s.postSend_pending h _ true bs.length bs va
  | host a => exact s.postSend_pending h _ true bs.length bs va

theorem State.scatter_pending (s : State) (h : Hart) (ls : List LPiece) (bs : List Byte) :
    (s.scatter h ls bs).pending = s.pending := by
  refine foldl_pending_at Prod.fst (fun p l => ?_) ls (s, bs)
  exact p.1.writeLoc_pending h l.2 l.1.el (p.2.take l.1.len)

theorem State.unpinAll_pending (s : State) (h : Hart) : (s.unpinAll h).pending = s.pending := by rfl

theorem State.performOn_pending (s : State) (h : Hart) (op : MemOp) (ls : List LPiece) (bs : List Byte) :
    (s.performOn h op ls bs).pending = s.pending := by
  unfold State.performOn
  grind [State.modThr_pending, State.unpin_pending, State.modDie_pending, State.retireMem_pending,
    State.scatter_pending, State.unpinAll_pending]

theorem State.perform_pending (s : State) (h : Hart) (op : MemOp) (ls : List LPiece) :
    (s.perform h op ls).pending = s.pending := by
  unfold State.perform
  grind [State.ctxLose_pending, State.performOn_pending]

theorem State.memGo_pending (s : State) (h : Hart) (op : MemOp) (first : Nat) (ls : List LPiece) :
    (s.memGo h op first ls).pending = s.pending := by
  unfold State.memGo
  dsimp only
  (repeat' split) <;> simp_all [foldl_pending, State.trapThr_pending,
    State.missRequest_pending, State.waitMem_pending, State.postSend_pending, State.perform_pending]

theorem State.memTake_pending (s : State) (h : Hart) (op : MemOp) (ps : List Piece) (rs : Located) :
    (s.memTake h op ps rs).pending = s.pending := by
  unfold State.memTake
  grind [State.trapThr_pending, State.walkStart_pending, State.waitMem_pending, State.threadFault_pending,
    State.memGo_pending]

theorem State.memExec_pending (s : State) (h : Hart) (op : MemOp) : (s.memExec h op).pending = s.pending := by
  unfold State.memExec
  grind [State.waitMem_pending, State.trapThr_pending, State.locateAll_pending, State.memTake_pending,
    State.modThr_pending]

/-! #### Vector words -/

theorem State.vecExec_pending (s : State) (h : Hart) (w : BitVec 32) : (s.vecExec h w).pending = s.pending := by
  unfold State.vecExec
  grind [State.modThr_pending, State.trapIllegal_pending]

/-! #### Counters -/

theorem State.hpmSettle_pending (s : State) (h : Hart) (n : Nat) : (s.hpmSettle h n).pending = s.pending := by
  unfold State.hpmSettle
  grind [State.bump_pending, State.modThr_pending]

/-! #### Threads -/

theorem State.csrDo_pending (s : State) (h : Hart) (op : CsrOp) (rd : RegNo) (src : CsrSrc) (n : Nat) :
    (s.csrDo h op rd src n).pending = s.pending := by
  unfold State.csrDo
  grind [State.trapIllegal_pending, State.modCore_pending, State.hpmSettle_pending]

theorem State.localInstr_pending (s : State) (h : Hart) (n : ILen) (off : Nat) (v : Word) :
    (s.localInstr h n off v).pending = s.pending := by
  unfold State.localInstr
  have hstore := s.localStore_pending h off v
  split
  next t ht => simpa [ht] using hstore
  next => rfl

/-! #### Frames and requests -/

theorem State.setThr_pending (s : State) (h : Hart) (t : Thread) : (s.setThr h t).pending = s.pending := by rfl

/-! #### Threads -/

theorem State.countStale_pending (s : State) (own : Option (Nat × Nat)) : (s.countStale own).pending = s.pending := by
  unfold State.countStale
  grind [State.modHub_pending, State.modSlice_pending]

/-! #### Counters -/

theorem State.coreEvent_pending (s : State) (g code n : Nat) : (s.coreEvent g code n).pending = s.pending := by rfl

/-! #### Threads -/

theorem State.l2Fill_pending (s : State) (x line : Nat) (l : Line) : (s.l2Fill x line l).pending = s.pending := by
  unfold State.l2Fill
  grind [State.modDie_pending, State.bump_pending, State.dieReq_pending]

theorem State.replay_pending (s : State) (h : Hart) : (s.replay h).pending = s.pending := by
  unfold State.replay
  grind [State.memExec_pending, State.modThr_pending]

theorem State.replayDie_pending (s : State) (x : Nat) : (s.replayDie x).pending = s.pending := by
  simp [State.replayDie, foldl_pending, State.replay_pending]

theorem State.memFault_pending (s : State) (h : Hart) (va : Nat) : (s.memFault h va).pending = s.pending := by
  unfold State.memFault
  grind [State.trapThr_pending, State.modDie_pending]

theorem State.coreResponse_pending (s : State) (h : Hart) (tag : Nat) (st : Status) (poison : Bool)
    (data : List Sector) :
    (s.coreResponse h tag st poison data).pending = s.pending := by
  unfold State.coreResponse
  grind [State.modDie_pending, State.countStale_pending, State.coreEvent_pending, State.l2Fill_pending,
    State.modCask_pending, State.replayDie_pending, State.memFault_pending, State.ctxLose_pending,
    State.adapterIssue_pending, State.modTrellis_pending]

theorem State.countArrival_pending (s : State) (h : Hart) (ch : Nat) : (s.countArrival h ch).pending = s.pending := by
  unfold State.countArrival
  grind [State.breakChan_pending, State.modThr_pending, State.modDie_pending, State.modBar_pending,
    State.emit_pending]

theorem State.releaseDo_pending (s : State) (h : Hart) (r : Release) : (s.releaseDo h r).pending = s.pending := by
  unfold State.releaseDo
  grind [State.emit_pending, State.countArrival_pending]

theorem State.releaseFor_pending (s : State) (h : Hart) (tag : Nat) : (s.releaseFor h tag).pending = s.pending := by
  simp [State.releaseFor, foldl_pending, State.modDie_pending, State.releaseDo_pending]

/-! #### Presses and decanters -/

theorem State.pressExec_pending (s : State) (h : Hart) (w : BitVec 32) :
    (s.pressExec h w).pending = s.pending := by rfl

theorem State.convExec_pending (s : State) (h : Hart) (w : BitVec 32) : (s.convExec h w).pending = s.pending := by
  unfold State.convExec
  grind [State.trapThr_pending, State.modThr_pending, State.modCore_pending]

theorem State.pressWake_pending (s : State) (c : Nat) : (s.pressWake c).pending = s.pending := by
  unfold State.pressWake
  dsimp only
  (repeat' split) <;> grind [foldl_pending, State.modCore_pending, State.pressExec_pending, State.vecExec_pending,
    State.convExec_pending, State.replay_pending]

/-! #### Barriers -/

theorem State.barInstr_pending (s : State) (h : Hart) (w : BitVec 32) (f3 : Nat) (f : RWord → Nat → State)
    (hf : ∀ r n, (f r n).pending = s.pending) :
    (s.barInstr h w f3 f).pending = s.pending := by
  unfold State.barInstr
  grind [State.trapThr_pending]

theorem State.barWait_pending (s : State) (h : Hart) (rd : RegNo) (ch : Nat) (ph : Bool) :
    (s.barWait h rd ch ph).pending = s.pending := by
  unfold State.barWait
  grind [State.modThr_pending]

theorem State.arrive_pending (s : State) (h : Hart) (ch : Nat) : (s.arrive h ch).2.2.pending = s.pending := by
  unfold State.arrive
  grind [State.modThr_pending, State.countArrival_pending, State.modDie_pending]

theorem State.fenceInstr_pending (s : State) (h : Hart) (w : BitVec 32) (f3 : Nat) (f : RWord → Nat → State)
    (hf : ∀ r n, (f r n).pending = s.pending) :
    (s.fenceInstr h w f3 f).pending = s.pending := by
  unfold State.fenceInstr
  grind [State.trapThr_pending]

/-! #### Domains and bungs -/

theorem State.ack_pending (s : State) (who : Who) (st : Status) : (s.ack who st).pending = s.pending := by rfl

theorem State.mgmtWrite_pending (s : State) (who : Who) (f : State → State) (hf : ∀ s, (f s).pending = s.pending) :
    (s.mgmtWrite who f).pending = s.pending := by
  unfold State.mgmtWrite
  grind [State.ack_pending]

/-! #### Spare cores -/

theorem State.spareWear_pending (s : State) (x cl : Nat) : (s.spareWear x cl).pending = s.pending := by
  unfold State.spareWear
  grind [State.logEvent_pending, State.wear_pending]

theorem State.retireCore_pending (s : State) (x cl phys : Nat) : (s.retireCore x cl phys).pending = s.pending := by
  unfold State.retireCore
  grind [State.modCluster_pending, State.spareWear_pending]

theorem State.clret_pending (s : State) (x v : Nat) : (s.clret x v).pending = s.pending := by
  unfold State.clret
  dsimp only
  (repeat' split) <;> grind [foldl_pending, State.ctxLose_pending, State.retireCore_pending]

theorem State.clmapWrite_pending (s : State) (x n v : Nat) : (s.clmapWrite x n v).pending = s.pending := by
  unfold State.clmapWrite
  grind [State.modDie_pending, State.modCluster_pending]

theorem State.substSet_pending (s : State) (x cl : Nat) (st : SubstSt) (test : Bool) (res : Nat) :
    (s.substSet x cl st test res).pending = s.pending := by
  unfold State.substSet
  grind [State.modCluster_pending, State.modDie_pending]

theorem State.substGo_pending (s : State) (x cl : Nat) (pos : Fin 16) (test : Bool) :
    (s.substGo x cl pos test).pending = s.pending := by
  unfold State.substGo
  grind [State.substSet_pending, State.emit_pending]

theorem State.substStart_pending (s : State) (x cl : Nat) (pos : Fin 16) :
    (s.substStart x cl pos).pending = s.pending := by
  unfold State.substStart
  grind [State.modDie_pending, State.substGo_pending]

theorem State.substSwap_pending (s : State) (x cl : Nat) : (s.substSwap x cl).pending = s.pending := by
  unfold State.substSwap
  grind [State.modCore_pending, State.substSet_pending, State.modCluster_pending, State.modDie_pending,
    State.retireCore_pending, State.logEvent_pending]

theorem State.saveBegin_pending (s : State) (p : CoreId) (x : Nat) (why : SaveWhy) :
    (s.saveBegin p x why).pending = s.pending := by rfl

theorem State.substSave_pending (s : State) (x cl : Nat) (pos : Fin 16) :
    (s.substSave x cl pos).pending = s.pending := by
  unfold State.substSave
  grind [State.substSwap_pending, State.saveBegin_pending]

/-! #### Home agents -/

theorem State.purgeSite_pending (s : State) (x : Nat) : (s.purgeSite x).pending = s.pending := by
  simp [State.purgeSite, foldl_pending, apply_ite State.pending, State.modCask_pending, State.poisonLine_pending]

/-! #### Packets -/

theorem State.bungCount_pending (s : State) (ni n : Nat) :
    (s.bungCount ni n).pending = s.pending := (s.bungCount_calm ni n).1

theorem State.turnAway_pending (s : State) (ni : Nat) (u : Unanswered) (st : Status) :
    (s.turnAway ni u st).pending = s.pending := by rfl

/-! #### Domains and bungs -/

theorem State.bungEngage_pending (s : State) (ni : Nat) : (s.bungEngage ni).pending = s.pending := by
  simp [State.bungEngage, foldl_pending, apply_ite State.pending, State.modNi_pending, State.sendReq_pending,
    State.bungCount_pending, State.turnAway_pending]

theorem State.bungAll_pending (s : State) (d : Domain) : (s.bungAll d).pending = s.pending := by
  simp [State.bungAll, foldl_pending, State.bungEngage_pending]

theorem State.siteCut_pending (s : State) (x : Site) : (s.siteCut x).pending = s.pending := by
  simp [State.siteCut, foldl_pending, State.purgeSite_pending, State.bungAll_pending,
    State.ctxLose_pending]

theorem State.niDown_pending (s : State) (ni : Nat) : (s.niDown ni).pending = s.pending := by rfl

theorem State.nisDown_pending (s : State) (d : Domain) : (s.nisDown d).pending = s.pending := by
  simp [State.nisDown, foldl_pending, State.niDown_pending]

theorem State.siteReset_pending (s : State) (x : Site) : (s.siteReset x).pending = s.pending := by
  unfold State.siteReset
  grind [State.siteCut_pending, State.nisDown_pending, State.modDie_pending, State.modHub_pending,
    State.modGate_pending, State.modLink_pending]

theorem State.siteOff_pending (s : State) (x : Site) : (s.siteOff x).pending = s.pending := by
  unfold State.siteOff
  grind [State.modPow_pending, State.modGate_pending, State.siteReset_pending]

theorem State.nisUnready_pending (s : State) (d : Domain) : (s.nisUnready d).pending = s.pending := by
  refine foldl_pending (fun s a => ?_) _ s
  rfl

theorem State.siteFence_pending (s : State) (x : Site) (code : Nat) : (s.siteFence x code).pending = s.pending := by
  unfold State.siteFence
  grind [State.modLink_pending, State.nisUnready_pending, State.siteCut_pending, State.modGate_pending,
    State.logEvent_pending, State.wear_pending]

theorem State.dieCritical_pending (s : State) (i : Nat) : (s.dieCritical i).pending = s.pending := by
  unfold State.dieCritical
  grind [State.modPow_pending]

theorem State.dieCool_pending (s : State) (i : Nat) : (s.dieCool i).pending = s.pending := by rfl

/-! #### Counters -/

theorem State.coreSettle_pending (s : State) (g : Nat) : (s.coreSettle g).pending = s.pending := by rfl

/-! #### Contexts, queues and fault queues -/

theorem State.saveImage_pending (s : State) (p : CoreId) (x : CtxId) : (s.saveImage p x).2.pending = s.pending := by
  unfold State.saveImage
  grind [State.coreSettle_pending, State.modCtx_pending, State.agentPut_pending]

/-! #### Domains and bungs -/

theorem State.siteDomainReset_pending (s : State) (x : Site) : (s.siteDomainReset x).pending = s.pending := by
  unfold State.siteDomainReset
  grind [State.modPow_pending, State.modLink_pending, State.siteReset_pending]

theorem State.failureReset_pending (s : State) (x : Site) : (s.failureReset x).pending = s.pending := by
  unfold State.failureReset
  grind [State.siteDomainReset_pending]

/-! #### Contexts that move -/

theorem State.substNext_pending (s : State) (p : Nat) : (s.substNext p).pending = s.pending := by
  unfold State.substNext
  grind [State.substSwap_pending]

/-! #### Contexts, queues and fault queues -/

theorem State.wantNow_pending (s : State) (x : Nat) : (s.wantNow x).pending = s.pending := by
  unfold State.wantNow
  grind [State.modHub_pending, State.modCtx_pending]

/-! #### Home agents -/

theorem State.intoGraft_pending (s : State) (x : Site) (m : Fin 8) (op : TOp) (tag addr len : Nat)
    (data : List Sector) :
    (s.intoGraft x m op tag addr len data).pending = s.pending := (s.intoGraft_calm x m op tag addr len data).1

theorem State.snoopGraft_pending (s : State) (x : Site) (op : TOp) (line : Nat) (push : Sector) :
    (s.snoopGraft x op line push).pending = s.pending := (s.snoopGraft_calm x op line push).1

theorem State.agentRead_pending (s : State) (rt : Rights) (pa kslot : Nat) :
    (s.agentRead rt pa kslot).2.2.pending = s.pending := (s.agentRead_calm rt pa kslot).1

theorem State.agentBytes_pending (s : State) (rt : Rights) (kslot pa n : Nat) :
    (s.agentBytes rt kslot pa n).2.2.2.pending = s.pending := (s.agentBytes_calm rt kslot pa n).1

/-! #### Contexts, queues and fault queues -/

theorem State.loadCtx_pending (s : State) (p : CoreId) (x : CtxId) : (s.loadCtx p x).pending = s.pending := by
  change SameQueue s _
  have hread := fun s rt k pa n => SameQueue.of (State.agentBytes_pending s rt k pa n)
  obtain ⟨g, hg⟩ : ∃ g, @State.agentBytes = g := ⟨_, rfl⟩
  obtain ⟨f, hf⟩ : ∃ f, @State.loadCtx = f := ⟨_, rfl⟩
  rw [hf]
  delta State.loadCtx at hf
  rw [hg] at hread hf
  subst hf
  beta_reduce
  generalize (s.ctxOf x.val).area = kb
  obtain ⟨k, base⟩ := kb
  dsimp -zeta only
  have ht := hread s (machinery x.val 64) k base 0xA0000
  generalize g s (machinery x.val 64) k base 0xA0000 = r at ht ⊢
  obtain ⟨st, poi, bs, t⟩ := r
  dsimp -zeta only
  extract_lets badMode u inside v w y z
  have hu : SameQueue s u := ht.trans (.of rfl)
  have hz : SameQueue u z := .of rfl
  clear_value u z badMode
  split
  · exact hu.trans (.of (State.ctxLose_pending ..))
  split
  · exact hu.trans (.of (State.ctxLose_pending ..))
  split
  · exact hu.trans (.of (State.ctxLose_pending ..))
  · refine hu.trans (hz.trans (SameQueue.foldl (fun s q => ?_) _ z))
    exact .of rfl

/-! #### Contexts that move -/

theorem State.saved_pending (s : State) (p : CoreId) (x : Nat) (why : SaveWhy) :
    (s.saved p x why).pending = s.pending := by
  unfold State.saved
  grind [State.substNext_pending, State.cmdEnd_pending, State.modCtx_pending, State.wantNow_pending,
    State.loadCtx_pending]

/-! #### Racking engines -/

theorem State.setDesc_pending (s : State) (d : Desc) : (s.setDesc d).pending = s.pending := by rfl

/-! #### Translation -/

theorem State.walkFill_pending (s : State) (w : Walk) (e : Word) :
    (s.walkFill w e).pending = s.pending := (s.walkFill_calm w e).1

theorem State.tcFill_pending (s : State) (e : TEntry) : (s.tcFill e).pending = s.pending := (s.tcFill_calm e).1

theorem State.translate_pending (s : State) (t : Tlb) (ctx va : Nat) (acc : Acc) :
    (s.translate t ctx va acc).2.pending = s.pending := (s.translate_calm t ctx va acc).1

/-! #### Racking engines -/

theorem State.eLocate_pending (s : State) (d : Desc) (e : EngId) (wr scr : Bool) (a n : Nat) :
    (s.eLocate d e wr scr a n).2.pending = s.pending := by
  unfold State.eLocate
  split
  · rfl
  split
  · split <;> rfl
  split
  · rfl
  refine foldl_pending_at Prod.snd (fun p i => ?_) _ ((.ok [], s) : Except EStop (List EPiece) × State)
  grind [State.translate_pending]

/-! #### Contexts, queues and fault queues -/

theorem State.apRefused_pending (s : State) (st : Status) (pa : Nat) :
    (s.apRefused st pa).pending = s.pending := (s.apRefused_calm st pa).1

theorem State.paGet_pending (s : State) (rt : Rights) (kslot pa n : Nat) :
    (s.paGet rt kslot pa n).2.2.2.pending = s.pending := by
  unfold State.paGet
  grind [State.chargeAgent_pending, State.emit_pending, State.bump_pending, State.apRefused_pending,
    State.agentBytes_pending]

/-! #### Racking engines -/

theorem State.hostGet_pending (s : State) (ni sl iova n : Nat) : (s.hostGet ni sl iova n).2.pending = s.pending := by
  unfold State.hostGet
  dsimp only
  (repeat' split) <;> simp_all [foldl_pending, State.modHub_pending, State.chargeNi_pending,
    State.emit_pending]

theorem State.eRead_pending (s : State) (d : Desc) (e : EngId) (p : EPiece) :
    (s.eRead d e p).2.pending = s.pending := by
  unfold State.eRead
  grind [State.chargeNi_pending, State.paGet_pending, State.agentRead_pending, State.hostGet_pending]

theorem State.eReadAll_pending (s : State) (d : Desc) (e : EngId) (ps : List EPiece) :
    (s.eReadAll d e ps).2.pending = s.pending := by
  refine foldl_pending_at Prod.snd (fun p a => ?_) ps ((.ok [], s) : Except EStop (List Byte) × State)
  grind [State.eRead_pending]

theorem State.eReadSrc_pending (s : State) (d : Desc) (e : EngId) (ps : List EPiece) :
    (s.eReadSrc d e ps).2.pending = s.pending := by
  unfold State.eReadSrc
  grind [State.eReadAll_pending]

theorem State.eList_pending (s : State) (d : Desc) (e : EngId) : (s.eList d e).2.pending = s.pending := by
  unfold State.eList
  grind [State.eLocate_pending, State.eReadSrc_pending]

theorem State.eLocateAll_pending (s : State) (d : Desc) (e : EngId) (wr scr : Bool) (rs : List (Nat × Nat)) :
    (s.eLocateAll d e wr scr rs).2.pending = s.pending := by
  refine foldl_pending_at Prod.snd (fun p r => ?_) rs ((.ok [], s) : Except EStop (List EPiece) × State)
  grind [State.eLocate_pending]

theorem State.eKeep_pending (s : State) (d : Desc) (e : EngId) (list : List Nat) (ps : List EPiece) :
    (s.eKeep d e list ps).2.pending = s.pending := by
  unfold State.eKeep
  grind [State.eReadAll_pending]

/-! #### Contexts, queues and fault queues -/

theorem State.paPut_pending (s : State) (rt : Rights) (op : TOp) (kslot pa : Nat) (bs : List Byte) :
    (s.paPut rt op kslot pa bs).2.pending = s.pending := (s.paPut_calm rt op kslot pa bs).1

/-! #### Racking engines -/

theorem State.eWrite_pending (s : State) (d : Desc) (e : EngId) (p : EPiece) (bs : List Byte) :
    (s.eWrite d e p bs).2.pending = s.pending := by
  unfold State.eWrite
  grind [State.chargeNi_pending, State.modCore_pending, State.paPut_pending, State.hostPost_pending]

theorem State.eWriteAll_pending (s : State) (d : Desc) (e : EngId) (ps : List EPiece) (bs : List Byte) :
    (s.eWriteAll d e ps bs).2.pending = s.pending := by
  refine foldl_pending_at (fun p : Option EStop × State × List Byte => p.2.1) (fun p a => ?_) ps (none, s, bs)
  exact p.2.1.eWrite_pending d e a _

theorem State.eTile_pending (s : State) (d : Desc) (e : EngId) (i : Nat) : (s.eTile d e i).2.pending = s.pending := by
  unfold State.eTile
  dsimp only
  (repeat' split) <;> grind [foldl_pending, State.eList_pending, State.eLocateAll_pending, State.eReadSrc_pending,
    State.eKeep_pending, State.eWriteAll_pending, State.bump_pending]

theorem State.tileFault_pending (s : State) (d : Desc) (e : EngId) (i : Nat) (c : XCause) (ipa : Nat) (wlk : Bool)
    (va : Nat) (wr : Bool) :
    (s.tileFault d e i c ipa wlk va wr).pending = s.pending := by
  unfold State.tileFault
  grind [State.eList_pending, State.recordFault_pending]

theorem State.tileProbe_pending (s : State) (d : Desc) (e : EngId) (i : Nat) :
    (s.tileProbe d e i).2.pending = s.pending := by
  unfold State.tileProbe
  grind [State.eLocateAll_pending, State.eList_pending]

theorem State.engineRun_pending (s : State) (e : EngId) (op : Nat) : (s.engineRun e op).pending = s.pending := by
  unfold State.engineRun
  dsimp only
  (repeat' split) <;> grind [foldl_pending, State.setDesc_pending, State.eTile_pending, State.tileFault_pending,
    State.ctxLose_pending, State.tileProbe_pending]

theorem State.addrCask_pending (s : State) (d : Desc) (scr wr : Bool) (a : Nat) :
    (s.addrCask d scr wr a).2.pending = s.pending := by
  unfold State.addrCask
  grind [State.translate_pending]

theorem State.anchorBy_pending (s : State) (d : Desc) (a2 : List (Bool × Bool × Nat)) :
    (s.anchorBy d a2).2.pending = s.pending := by
  induction a2 generalizing s with
  | nil => rfl
  | cons a l ih =>
    unfold State.anchorBy
    grind [State.addrCask_pending]

theorem State.anchor_pending (s : State) (d : Desc) : (s.anchor d).2.pending = s.pending := by
  unfold State.anchor
  grind [State.anchorBy_pending]

theorem State.serveQueue_pending (s : State) (k : Nat) (q : Option Nat) : (s.serveQueue k q).pending = s.pending := by
  unfold State.serveQueue
  grind [State.modHub_pending]

theorem State.descLaunch_pending (s : State) (d : Desc) (e : EngId) : (s.descLaunch d e).pending = s.pending := by
  unfold State.descLaunch
  grind [State.anchor_pending, State.setDesc_pending, State.serveQueue_pending]

theorem State.dispatch_pending (s : State) (src : DescSrc) (e : EngId) : (s.dispatch src e).pending = s.pending := by
  unfold State.dispatch
  grind [State.setDesc_pending, State.descLaunch_pending]

theorem State.fwSubmit_pending (s : State) (subs : List (List Word)) : (s.fwSubmit subs).pending = s.pending := by
  unfold State.fwSubmit
  grind [State.modHub_pending]

theorem State.descSignal_pending (s : State) (d : Desc) : (s.descSignal d).pending = s.pending := by
  unfold State.descSignal
  grind [State.fenceSig_pending, State.ctxLose_pending]

/-! #### Contexts, queues and fault queues -/

theorem State.qWrite_pending (s : State) (ctx va : Nat) (bs : List Byte) :
    (s.qWrite ctx va bs).2.pending = s.pending := (s.qWrite_calm ctx va bs).1

theorem State.raiseQueue_pending (s : State) (q : Nat) :
    (s.raiseQueue q).pending = s.pending := (s.raiseQueue_calm q).1

theorem State.lineWrite_pending (s : State) (q : Nat) :
    (s.lineWrite q).2.pending = s.pending := (s.lineWrite_calm q).1

theorem State.queueErr_pending (s : State) (q err : Nat) : (s.queueErr q err).pending = s.pending := by
  unfold State.queueErr
  grind [State.modQueue_pending, State.raiseQueue_pending, State.lineWrite_pending]

theorem State.queueFault_pending (s : State) (q : Nat) (c : XCause) (acc : Acc) (va ipa : Nat) (wlk : Bool) (n : Nat)
    :
    (s.queueFault q c acc va ipa wlk n).pending = s.pending := by
  unfold State.queueFault
  grind [State.recordFault_pending, State.ctxLose_pending, State.queueErr_pending, State.modQueue_pending]

theorem State.statusLine_pending (s : State) (q : Nat) : (s.statusLine q).pending = s.pending := by
  unfold State.statusLine
  grind [State.lineWrite_pending, State.queueFault_pending, State.modQueue_pending, State.queueErr_pending]

/-! #### Racking engines -/

theorem State.drainEnd_pending (s : State) (q : Nat) : (s.drainEnd q).pending = s.pending := by
  unfold State.drainEnd
  grind [State.modQueue_pending, State.statusLine_pending, State.cmdEnd_pending]

theorem State.descCount_pending (s : State) (q : Nat) (d : Desc) : (s.descCount q d).pending = s.pending := by
  unfold State.descCount
  grind [State.statusLine_pending, State.modQueue_pending, State.queueErr_pending]

theorem State.descFinish_pending (s : State) (d : Desc) : (s.descFinish d).pending = s.pending := by
  unfold State.descFinish
  grind [State.modHub_pending, State.descSignal_pending, State.countStale_pending, State.qWrite_pending,
    State.queueFault_pending, State.drainEnd_pending, State.descCount_pending, State.queueErr_pending,
    State.raiseQueue_pending]

/-! #### Packets -/

theorem State.recordAs_pending (s : State) (ni : Nat) (u : Unanswered) :
    (s.recordAs ni u).pending = s.pending := by rfl

/-! #### Coherence -/

theorem State.homeRecord_pending (s : State) (r : HReq) (op : TOp) : (s.homeRecord r op).pending = s.pending := by rfl

theorem State.homeDeny_pending (s : State) (r : HomeReq) (st : Status) (pa : Nat) :
    (s.homeDeny r st pa).pending = s.pending := by
  unfold State.homeDeny
  grind [State.wbFree_pending, State.bungCount_pending, State.turnAway_pending, State.refuse_pending,
    State.homeAnswer_pending, State.homeRecord_pending]

theorem State.homeRequest_pending (s : State) (r : HomeReq) (wr : Bool) :
    (s.homeRequest r wr).pending = s.pending := by
  unfold State.homeRequest
  grind [State.homeSubmit_pending, State.homeRecord_pending, State.homeDeny_pending]

/-! #### Home agents -/

theorem State.wbAnswer_pending (s : State) (r : HReq) : (s.wbAnswer r).pending = s.pending := by
  unfold State.wbAnswer
  grind [State.homeAnswer_pending]

/-! #### Coherence -/

theorem State.writeBack_pending (s : State) (r : HReq) (v : Sector) : (s.writeBack r v).pending = s.pending := by
  unfold State.writeBack
  grind [State.dirCheck_pending, State.homeRecord_pending, State.purgeLine_pending, State.modCask_pending,
    State.arrayWrite_pending, State.wbAnswer_pending, State.homeDeny_pending]

theorem State.traceWrite_pending (s : State) (n : Nat) (v : Sector) : (s.traceWrite n v).pending = s.pending := by
  unfold State.traceWrite
  grind [State.agentWrite_pending]

/-! #### Packets -/

theorem State.dieAnswer_pending (s : State) (ni : Nat) (u : Unanswered) (st : Status) (data : List (Sector × Bool)) :
    (s.dieAnswer ni u st data).pending = s.pending := by
  unfold State.dieAnswer
  grind [State.linkSend_pending, State.answerAs_pending]

/-! #### Coherence -/

theorem State.snoopAnswer_pending (s : State) (x : Site) (op : TOp) (line : Nat) (data : Option (Sector × Bool)) :
    (s.snoopAnswer x op line data).pending = s.pending := by
  unfold State.snoopAnswer
  grind [State.emit_pending, State.dieAnswer_pending]

theorem State.snpOddCount_pending (s : State) (line : Nat) : (s.snpOddCount line).pending = s.pending := by rfl

theorem State.snoopServe_pending (s : State) (x : Site) (op : TOp) (line : Nat) (push : Sector) :
    (s.snoopServe x op line push).pending = s.pending := by
  unfold State.snoopServe
  grind [State.dieEvent_pending, State.snoopAnswer_pending, State.snpOddCount_pending, State.modDie_pending]

theorem State.snoopArrive_pending (s : State) (x : Site) (op : TOp) (pa : Nat) (push : Sector) :
    (s.snoopArrive x op pa push).pending = s.pending := by
  unfold State.snoopArrive
  grind [State.bungCount_pending, State.emit_pending, State.snoopGraft_pending, State.modDie_pending,
    State.snoopServe_pending]

/-! #### Home agents -/

theorem State.landed_pending (s : State) (line : Nat) : (s.landed line).pending = s.pending := by rfl

theorem State.answerIn_pending (s : State) (k line : Nat) (x : Site) (read : Bool) (st : Status)
    (data : Option (Sector × Bool)) :
    (s.answerIn k line x read st data).2.pending = s.pending := by
  unfold State.answerIn
  grind [State.poisonLine_pending, State.modCask_pending]

theorem State.homeRetry_pending (s : State) (k : Nat) : (s.homeRetry k).pending = s.pending := by
  simp [State.homeRetry, foldl_pending, State.homeSubmit_pending, State.modCask_pending]

theorem State.txnEnd_pending (s : State) (k : Nat) (t : Txn) : (s.txnEnd k t).pending = s.pending := by
  unfold State.txnEnd
  dsimp only
  (repeat' split) <;> grind [foldl_pending, State.modCask_pending, State.homeFinish_pending, State.poisonLine_pending,
    State.arrayWrite_pending, State.homeStart_pending, State.wbAnswer_pending, State.homeRetry_pending]

theorem State.txnOn_pending (s : State) (k : Nat) (t t' : Txn) : (s.txnOn k t t').pending = s.pending := by
  unfold State.txnOn
  grind [State.txnEnd_pending, State.modCask_pending]

theorem State.secondary_pending (s : State) (k line : Nat) (x : Site) (st : Status) (data : Option (Sector × Bool)) :
    (s.secondary k line x st data).pending = s.pending := by
  unfold State.secondary
  grind [State.landed_pending, State.answerIn_pending, State.txnOn_pending]

/-! #### Casks -/

theorem State.caskJudge_pending (s : State) (k : Nat) : (s.caskJudge k).pending = s.pending := by rfl

theorem State.reserveMode_pending (s : State) (i : Nat) (m : BitVec 2) :
    (s.reserveMode i m).pending = s.pending := by rfl

theorem State.chargeCopy_pending (s : State) (k : Nat) (src dst : List Nat) :
    (s.chargeCopy k src dst).pending = s.pending := by
  unfold State.chargeCopy
  extract_lets one
  have hone : ∀ wr s a, SameQueue s (one wr s a) := fun wr s a => by
    unfold one
    exact .of (State.charge_pending ..)
  exact (SameQueue.foldl (hone false) src s).trans (SameQueue.foldl (hone true) dst _)

theorem State.frameRetire_pending (s : State) (k frame : Nat) : (s.frameRetire k frame).pending = s.pending := by
  change SameQueue s _
  obtain ⟨l, hl⟩ : ∃ l, List.range 1024 = l := ⟨_, rfl⟩
  obtain ⟨f, hf⟩ : ∃ f, @State.frameRetire = f := ⟨_, rfl⟩
  rw [hf]
  delta State.frameRetire at hf
  rw [hl] at hf
  subst hf
  beta_reduce
  extract_lets c fs old was
  split
  · exact .of rfl
  split
  · exact .of (State.caskJudge_pending ..)
  next f _ =>
    extract_lets t c1 c2
    have ht : SameQueue s t := (SameQueue.of s.bump_pending).trans (.of (State.chargeCopy_pending ..))
    clear_value t c2
    exact ht.trans (.of ((State.logEvent_pending ..).trans ((State.caskJudge_pending ..).trans (State.modCask_pending ..))))

theorem State.rowRepair_pending (s : State) (k : Nat) (p : Place) : (s.rowRepair k p).pending = s.pending := by
  unfold State.rowRepair
  dsimp only
  (repeat' split) <;> grind [foldl_pending, State.caskJudge_pending, State.chargeCopy_pending, State.logEvent_pending,
    State.modCask_pending, State.frameRetire_pending]

theorem State.healRange_pending (s : State) (i off : Nat) (copyOk : Bool) :
    (s.healRange i off copyOk).pending = s.pending := by
  change SameQueue s _
  unfold State.healRange
  extract_lets r pa k frame t a u failed
  have ht : SameQueue s t := .of ((State.rowRepair_pending ..).trans (State.reserveMode_pending ..))
  clear_value t
  have hu : SameQueue s u := ht.trans (.of (State.agentBytes_pending ..))
  clear_value u
  have hfailed : ∀ s, SameQueue s (failed s) := fun s => by
    unfold failed
    exact .of ((State.logEvent_pending ..).trans (State.reserveMode_pending ..))
  clear_value failed
  have hput := SameQueue.of (u.agentPut_pending {fw := true} .wri r.kslot.toNat (r.prim + frame) a.2.2.1)
  generalize u.agentPut {fw := true} .wri r.kslot.toNat (r.prim + frame) a.2.2.1 = q at *
  obtain ⟨st, v⟩ := q
  split
  · dsimp only
    split
    · exact (hu.trans hput).trans (.of (State.reserveMode_pending ..))
    · exact (hu.trans hput).trans (hfailed v)
  · exact hu.trans (hfailed u)

/-! #### Domains and bungs -/

theorem State.atOwner_pending (s : State) (who : Who) (ni : Nat) (f : State → State)
    (hf : ∀ s, (f s).pending = s.pending) :
    (s.atOwner who ni f).pending = s.pending := by
  unfold State.atOwner
  grind [State.ack_pending]

theorem State.atOwner_sameQueue (s : State) (who : Who) (ni : Nat) (f : State → State) (hf : ∀ s, SameQueue s (f s)) :
    SameQueue s (s.atOwner who ni f) := s.atOwner_pending who ni f hf

/-! #### Casks -/

theorem State.reserveWrite_pending (s : State) (i : Nat) (hi : Bool) (v : Nat) :
    (s.reserveWrite i hi v).pending = s.pending := by
  simp [State.reserveWrite, apply_ite State.pending, State.modCask_pending]

/-! #### Domains and bungs -/

theorem State.caskReset_pending (s : State) (k : CaskId) : (s.caskReset k).pending = s.pending := by
  unfold State.caskReset
  grind [State.bungAll_pending, State.modCask_pending, State.nisDown_pending]

theorem State.caskFence_pending (s : State) (k : CaskId) (code : Nat) : (s.caskFence k code).pending = s.pending := by
  unfold State.caskFence
  grind [State.modCask_pending, State.caskReset_pending, State.logEvent_pending, State.wear_pending]

/-! #### Casks -/

theorem State.takeStave_pending (s : State) (k : CaskId) (pc : Nat) (ca : Bool) :
    (s.takeStave k pc ca).pending = s.pending := by
  unfold State.takeStave
  grind [State.modCask_pending, State.logEvent_pending, State.caskJudge_pending, State.caskFence_pending]

/-! #### Domains and bungs -/

theorem State.nisReady_pending (s : State) (d : Domain) : (s.nisReady d).pending = s.pending := by
  refine foldl_pending (fun s a => ?_) _ s
  rfl

/-! #### The trellis -/

theorem State.rspArrive_pending (s : State) (n h0 h1 : Nat) (data : List Sector) :
    (s.rspArrive n h0 h1 data).pending = s.pending := by
  unfold State.rspArrive
  grind [State.bungCount_pending, State.modTrellis_pending, State.modNi_pending, State.localDone_pending,
    State.handRsp_pending]

theorem State.handReq_pending (s : State) (n h0 h1 : Nat) (data : List Sector) :
    (s.handReq n h0 h1 data).pending = s.pending := by
  unfold State.handReq
  grind [State.linkSend_pending]

theorem State.reqArrive_pending (s : State) (n p h0 h1 : Nat) (data : List Sector) :
    (s.reqArrive n p h0 h1 data).pending = s.pending := by
  unfold State.reqArrive
  grind [State.bungCount_pending, State.turnAway_pending, State.handReq_pending, State.recordAs_pending]

theorem State.deliver_pending (s : State) (r p h0 h1 : Nat) (data : List Sector) :
    (s.deliver r p h0 h1 data).pending = s.pending := by
  unfold State.deliver
  grind [State.emit_pending, State.rspArrive_pending, State.reqArrive_pending]

theorem State.leave_pending (s : State) (h : Head) : (s.leave h).pending = s.pending := by
  unfold State.leave
  grind [State.modTrellis_pending, State.emit_pending, State.deliver_pending]

theorem State.trellisGo_pending (a0 : Nat) (a1 : State) : (State.trellisGo a0 a1).pending = a1.pending := by
  induction a0 generalizing a1 with
  | zero => rfl
  | succ n ih =>
    unfold State.trellisGo
    grind [State.leave_pending]

theorem State.trellisRun_pending (s : State) : (s.trellisRun).pending = s.pending := by
  unfold State.trellisRun
  grind [State.trellisGo_pending]

theorem State.modLnk_pending (s : State) (r p d : Nat) (f : Lnk → Lnk) :
    (s.modLnk r p d f).pending = s.pending := by rfl

theorem State.hdrCorrected_pending (s : State) (r p input n : Nat) :
    (s.hdrCorrected r p input n).pending = s.pending := by
  unfold State.hdrCorrected
  grind [State.modTrellis_pending, State.modLnk_pending, State.logEvent_pending]

theorem State.hdrBad_pending (s : State) (r p input : Nat) : (s.hdrBad r p input).pending = s.pending := by
  unfold State.hdrBad
  grind [State.logEvent_pending, State.modLnk_pending]

/-! #### The debug halt -/

theorem State.haltTrigger_pending (s : State) : (s.haltTrigger).pending = s.pending := by
  unfold State.haltTrigger
  grind [State.bump_pending]

/-! #### The trellis -/

theorem State.taste_pending (s : State) (r plane input h0 h1 : Nat) :
    (s.taste r plane input h0 h1).pending = s.pending := by
  unfold State.taste
  grind [State.bump_pending, State.haltTrigger_pending]

theorem State.receive_pending (s : State) (r p input : Nat) (h0 h1 : Word) (data : List Sector) :
    (s.receive r p input h0 h1 data).pending = s.pending := by
  unfold State.receive
  grind [State.hdrCorrected_pending, State.hdrBad_pending, State.modTrellis_pending, State.taste_pending]

/-! #### Packets -/

theorem State.putRoute_pending (s : State) (ni d : Nat) (v : Word) : (s.putRoute ni d v).pending = s.pending := by rfl

/-! #### The trellis -/

theorem State.routeApply_pending (s : State) (ni d : Nat) (v : Word) : (s.routeApply ni d v).pending = s.pending := by
  simp [State.routeApply, foldl_pending, State.sendReq_pending, State.modNi_pending,
    State.putRoute_pending]

theorem State.routeSet_pending (s : State) (ni d : Nat) (v : Word) : (s.routeSet ni d v).pending = s.pending := by
  unfold State.routeSet
  grind [State.modNi_pending, State.routeApply_pending]

theorem State.routeWrite_pending (s : State) (ni d v : Nat) : (s.routeWrite ni d v).pending = s.pending := by
  unfold State.routeWrite
  grind [State.routeSet_pending, State.modTrellis_pending]

/-! #### Domains and bungs -/

theorem State.bungRelease_pending (s : State) (ni : Nat) : (s.bungRelease ni).pending = s.pending := by
  unfold State.bungRelease
  grind [State.modTrellis_pending, State.modNi_pending]

/-! #### Availability -/

theorem State.linkIdle_pending (s : State) (a : Nat) : (s.linkIdle a).pending = s.pending := by rfl

/-! #### Host accesses -/

theorem State.epChange_pending (s : State) (e : Ep) (f : State → State) (hf : ∀ s, (f s).pending = s.pending) :
    (s.epChange e f).pending = s.pending := by
  unfold State.epChange
  grind [State.msixTrigger_pending]

theorem State.hostAnswer_pending (s : State) (e : Ep) (q : HwReq) (st : Status) (data : List Byte) (poison : Bool) :
    (s.hostAnswer e q st data poison).pending = s.pending := by
  unfold State.hostAnswer
  grind [State.answer_pending, State.modHub_pending]

theorem State.hostErr_pending (s : State) (e : Ep) : (s.hostErr e).pending = s.pending := by
  unfold State.hostErr
  grind [State.modEp_pending]

theorem State.hostFail_pending (s : State) (e : Ep) (q : HwReq) : (s.hostFail e q).pending = s.pending := by
  unfold State.hostFail
  grind [State.hostAnswer_pending, State.hostErr_pending]

theorem State.hostDrop_pending (s : State) (e : Ep) : (s.hostDrop e).pending = s.pending := by
  unfold State.hostDrop
  dsimp only
  grind [foldl_pending, State.modEp_pending, State.hostFail_pending]

theorem State.epReset_pending (s : State) (e : Ep) (link perst : Bool) :
    (s.epReset e link perst).pending = s.pending := by
  unfold State.epReset
  grind [State.epChange_pending, State.modEp_pending, State.hostDrop_pending]

/-! #### The twin port -/

theorem State.setRole_pending (s : State) (r : Nat) : (s.setRole r).pending = s.pending := by
  unfold State.setRole
  grind [State.raiseTwin_pending, State.modTwin_pending]

theorem State.twinCtl_pending (s : State) (type : Nat) (body : List Byte) :
    (s.twinCtl type body).pending = s.pending := by
  unfold State.twinCtl
  grind [State.emit_pending, State.modTwin_pending]

theorem State.switchGo_pending (s : State) : (s.switchGo).pending = s.pending := by
  unfold State.switchGo
  grind [State.setRole_pending, State.twinCtl_pending, State.modTwin_pending]

theorem State.pushEnd_pending (s : State) (p : Push) (st : Nat) : (s.pushEnd p st).pending = s.pending := by
  unfold State.pushEnd
  grind [State.modTwin_pending, State.fenceSig_pending, State.raiseTwin_pending, State.switchGo_pending]

theorem State.pushesLost_pending (s : State) : (s.pushesLost).pending = s.pending := by
  simp [State.pushesLost, foldl_pending, State.pushEnd_pending]

theorem State.twinDown_pending (s : State) : (s.twinDown).pending = s.pending := by
  unfold State.twinDown
  grind [State.modTwin_pending, State.pushesLost_pending]

/-! #### Availability -/

theorem State.domainReset_pending (s : State) (a1 : Domain) : (s.domainReset a1).pending = s.pending := by
  unfold State.domainReset
  grind [State.siteDomainReset_pending, State.caskReset_pending, State.linkIdle_pending, State.epReset_pending,
    State.nisDown_pending, State.bungAll_pending, State.twinDown_pending]

/-! #### The trellis -/

theorem State.rerouteAll_pending (s : State) (r p d : Nat) : (s.rerouteAll r p d).pending = s.pending := by
  unfold State.rerouteAll
  dsimp only
  grind [foldl_pending, State.routeSet_pending, State.modNi_pending]

theorem State.cutOff_pending (s : State) (r : Nat) : (s.cutOff r).pending = s.pending := by
  simp [State.cutOff, foldl_pending, apply_ite State.pending, State.siteFence_pending, State.caskFence_pending,
    State.bungEngage_pending, State.modNi_pending]

theorem State.linkRetire_pending (s : State) (r p d : Nat) : (s.linkRetire r p d).pending = s.pending := by
  unfold State.linkRetire
  grind [State.modLnk_pending, State.bump_pending, State.rerouteAll_pending, State.modTrellis_pending,
    State.cutOff_pending, State.logEvent_pending]

/-! #### Packets -/

theorem State.inject_pending (s : State) (ni : Nat) (q : NReq) (hbad : Bool) (data : List Sector) :
    (s.inject ni q hbad data).pending = s.pending := by
  unfold State.inject
  grind [State.submit_pending]

/-! #### Regulators -/

theorem State.regDiscard_pending (s : State) : (s.regDiscard).pending = s.pending := by rfl

theorem State.budgetWrite_pending (s : State) (n c v : Nat) : (s.budgetWrite n c v).pending = s.pending := by
  unfold State.budgetWrite
  grind [State.regDiscard_pending, State.setCls_pending]

theorem State.driverWrite_pending (s : State) (who : Who) (f : State → State) (hf : ∀ s, (f s).pending = s.pending) :
    (s.driverWrite who f).pending = s.pending := by
  unfold State.driverWrite
  grind [State.ack_pending]

theorem State.ownerWrite_pending (s : State) (k g v : Nat) : (s.ownerWrite k g v).pending = s.pending := by
  unfold State.ownerWrite
  grind [State.regDiscard_pending, State.modCask_pending]

theorem State.shareWrite_pending (s : State) (k a v : Nat) : (s.shareWrite k a v).pending = s.pending := by
  unfold State.shareWrite
  grind [State.regDiscard_pending, State.modCask_pending]

/-! #### Die links -/

theorem State.laneCorrected_pending (s : State) (a m : Nat) (toHub : Bool) (pos : Nat) :
    (s.laneCorrected a m toHub pos).pending = s.pending := by
  unfold State.laneCorrected
  grind [State.logEvent_pending, State.modDir_pending]

theorem State.lostSend_pending (s : State) (a m : Nat) (toHub : Bool) (lost : List (Nat × Nat)) :
    (s.lostSend a m toHub lost).pending = s.pending := by
  unfold State.lostSend
  dsimp only
  (repeat' split) <;> grind [foldl_pending, State.modDir_pending, State.emit_pending]

theorem State.halfBad_pending (s : State) (a m : Nat) (toHub : Bool) :
    (s.halfBad a m toHub).pending = s.pending := by rfl

/-! #### Frames and requests -/

theorem State.linkDrain_pending (s : State) (a m : Nat) (toHub : Bool) :
    (s.linkDrain a m toHub).pending = s.pending := by
  simp [State.linkDrain, foldl_pending, State.linkSend_pending, State.modDir_pending]

/-! #### Die links -/

theorem State.takeOut_pending (s : State) (a m : Nat) (toHub : Bool) (h0 n : Nat) :
    (s.takeOut a m toHub h0 n).pending = s.pending := by
  unfold State.takeOut
  grind [State.modDir_pending, State.linkDrain_pending]

theorem State.adapterTake_pending (s : State) (a m h0 h1 : Nat) (data : List Sector) (hbad : Bool) :
    (s.adapterTake a m h0 h1 data hbad).pending = s.pending := by
  unfold State.adapterTake
  grind [State.respond_pending, State.modNi_pending, State.inject_pending]

theorem State.dieTake_pending (s : State) (a m h0 h1 : Nat) (hbad : Bool) :
    (s.dieTake a m h0 h1 hbad).pending = s.pending := by
  unfold State.dieTake
  grind [State.dieAnswer_pending, State.snpOddCount_pending]

theorem State.handOn_pending (s : State) (a m : Nat) (toHub : Bool) (h0 h1 : Nat) (data : List Sector) (hbad : Bool) :
    (s.handOn a m toHub h0 h1 data hbad).pending = s.pending := by
  unfold State.handOn
  grind [State.emit_pending, State.takeOut_pending, State.adapterTake_pending, State.dieTake_pending]

theorem State.takeEntry_pending (s : State) (a m : Nat) (toHub : Bool) (seq j : Nat) (e : Word × Word) :
    (s.takeEntry a m toHub seq j e).pending = s.pending := by
  unfold State.takeEntry
  grind [State.modDir_pending, State.lostSend_pending, State.halfBad_pending, State.handOn_pending]

/-! #### Grafts -/

theorem State.siteResult_pending (s : State) (i r : Nat) : (s.siteResult i r).pending = s.pending := by rfl

/-! #### Die links -/

theorem State.epGone_pending (s : State) (e : Ep) (code : Nat) : (s.epGone e code).pending = s.pending := by
  unfold State.epGone
  grind [State.modEp_pending, State.nisDown_pending, State.bungAll_pending, State.logEvent_pending,
    State.wear_pending, State.modLink_pending]

theorem State.rejectDie_pending (s : State) (a r : Nat) : (s.rejectDie a r).pending = s.pending := by
  unfold State.rejectDie
  grind [State.siteResult_pending, State.siteFence_pending, State.epGone_pending, State.wear_pending,
    State.bungAll_pending]

/-! #### Grafts -/

theorem State.graftFence_pending (s : State) (x : Site) (cause : Nat) :
    (s.graftFence x cause).pending = s.pending := by
  unfold State.graftFence
  grind [State.emit_pending, State.siteOff_pending, State.siteFence_pending, State.siteResult_pending,
    State.modGate_pending]

theorem State.apertureSend_pending (s : State) (x : Site) (q : NReq) (src : NI) (data : List Sector) :
    (s.apertureSend x q src data).pending = s.pending := by
  unfold State.apertureSend
  grind [State.intoGraft_pending, State.modGate_pending]

theorem State.apertureNext_pending (s : State) (x : Site) : (s.apertureNext x).pending = s.pending := by
  unfold State.apertureNext
  grind [State.apertureSend_pending, State.modGate_pending]

theorem State.answerInto_pending (s : State) (x : Site) (i : IntoGraft) (st : Status) (data : List (Sector × Bool)) :
    (s.answerInto x i st data).pending = s.pending := by
  unfold State.answerInto
  grind [State.emit_pending, State.answerAs_pending, State.answer_pending]

/-! #### Die links -/

theorem State.lostCommand_pending (s : State) (a m : Nat) (toHub : Bool) (c : LinkCmd) :
    (s.lostCommand a m toHub c).pending = s.pending := by
  unfold State.lostCommand
  grind [State.modDir_pending, State.linkSend_pending, State.emit_pending, State.apertureNext_pending,
    State.answerInto_pending, State.modGate_pending, State.answerAs_pending]

theorem State.trainEnd_pending (s : State) (a m : Nat) (r : Option TrainResult) :
    (s.trainEnd a m r).pending = s.pending := by
  unfold State.trainEnd
  grind [State.linkDrain_pending, State.modMod_pending]

/-! #### Domains and bungs -/

theorem State.bungFree_pending (s : State) (d : Domain) : (s.bungFree d).pending = s.pending := by
  simp [State.bungFree, foldl_pending, State.bungRelease_pending]

/-! #### Die links -/

theorem State.siteSettled_pending (s : State) (x : Site) : (s.siteSettled x).pending = s.pending := by
  unfold State.siteSettled
  grind [State.modLink_pending, State.siteResult_pending, State.siteFence_pending, State.siteCut_pending,
    State.wear_pending, State.emit_pending, State.modGate_pending, State.nisReady_pending, State.bungFree_pending]

theorem State.dieSettled_pending (s : State) (a : Nat) : (s.dieSettled a).pending = s.pending := by
  unfold State.dieSettled
  grind [State.siteSettled_pending, State.siteResult_pending, State.epGone_pending, State.wear_pending,
    State.nisReady_pending, State.modLink_pending, State.bungFree_pending]

theorem State.beginRetrain_pending (s : State) (a m step : Nat) (judged : List (Bool × Nat)) :
    (s.beginRetrain a m step judged).pending = s.pending := by
  unfold State.beginRetrain
  grind [State.modMod_pending, State.emit_pending]

/-! #### Availability -/

theorem State.epFence_pending (s : State) (e : Ep) (code : Nat) : (s.epFence e code).pending = s.pending := by
  unfold State.epFence
  grind [State.nisDown_pending, State.bungAll_pending, State.epChange_pending, State.hostDrop_pending,
    State.modEp_pending, State.modLink_pending, State.twinDown_pending, State.logEvent_pending, State.wear_pending]

theorem State.mgdLoss_pending (s : State) : (s.mgdLoss).pending = s.pending := by
  unfold State.mgdLoss
  grind [State.logEvent_pending, State.faultOn_pending]

/-! #### Grafts -/

theorem State.violate_pending (s : State) (x : Site) (code op tag addr : Nat) :
    (s.violate x code op tag addr).pending = s.pending := by
  unfold State.violate
  grind [State.modGate_pending, State.graftFence_pending]

theorem State.refuseGraft_pending (s : State) (x : Site) (q : GReq) (code opc : Nat) :
    (s.refuseGraft x q code opc).pending = s.pending := by
  unfold State.refuseGraft
  grind [State.violate_pending, State.graftReply_pending]

theorem State.gateTargets_pending (s : State) (x : Nat) (r : Rule) (op : TOp) (t n : Nat) :
    (s.gateTargets x r op t n).2.pending = s.pending := by
  refine foldl_pending_at Prod.snd (fun p i => ?_) _ ([], s)
  grind [State.translate_pending]

theorem State.gatePacket_pending (s : State) (src : Nat) (op : TOp) (r : Rule) (p : GPacket) (tag : BitVec 12) :
    (s.gatePacket src op r p tag).pending = s.pending := by
  unfold State.gatePacket
  grind [State.submit_pending, State.emit_pending]

theorem State.gateSend_pending (s : State) (x : Site) (q : GReq) (r : Rule) (ts : List GTarget) :
    (s.gateSend x q r ts).pending = s.pending := by
  simp [State.gateSend, foldl_pending, State.modGate_pending, State.gatePacket_pending]

theorem State.gatePass_pending (s : State) (x : Site) (q : GReq) (i : Nat) (r : Rule) :
    (s.gatePass x q i r).pending = s.pending := by
  unfold State.gatePass
  grind [State.modGate_pending, State.gateTargets_pending, State.recordFault_pending, State.graftReply_pending,
    State.ctxLose_pending, State.refuseGraft_pending, State.gateSend_pending]

theorem State.graftRequest_pending (s : State) (x : Site) (q : GReq) : (s.graftRequest x q).pending = s.pending := by
  change SameQueue s _
  delta State.graftRequest
  extract_lets g opc sl
  clear_value g opc sl
  have hrefuse : ∀ code, SameQueue s (s.refuseGraft x q code opc) := fun _ => .of (State.refuseGraft_pending ..)
  split
  · exact hrefuse 3
  split
  · exact hrefuse 5
  have hsignal : ∀ (f : BitVec 16) v, SameQueue s (let case := (s.fenceOf f.toNat).sigCase (some sl) v
      if !g.fen then s.refuseGraft x q 6 opc
      else
        let s := s.fenceSig f.toNat (some sl) v
        match case with
        | .reserved => (s.refuseGraft x q 6 opc).ctxLose g.fctx.val .fenceval
        | .discarded => s.refuseGraft x q 6 opc
        | _ => s.graftReply x.val q.m.val q.tag.toNat .msg 0 .ok []) := fun f v => by
    extract_lets case t
    have ht : SameQueue s t := .of (State.fenceSig_pending ..)
    clear_value case t
    split
    · exact hrefuse 6
    split
    · exact ht.trans (.of ((State.ctxLose_pending ..).trans (State.refuseGraft_pending ..)))
    · exact ht.trans (.of (State.refuseGraft_pending ..))
    · exact ht.trans (.of (State.graftReply_pending ..))
  have hpass : ∀ o, SameQueue s (match g.matchRule (64 * q.addr.toNat) with
      | none => s.refuseGraft x q 1 opc
      | some (i, r) => if r.permits g.cache o then s.gatePass x q i r else s.refuseGraft x q 2 opc) := fun o => by
    split
    · exact hrefuse 1
    · split
      · exact .of (State.gatePass_pending ..)
      · exact hrefuse 2
  cases q.op with
  | msg =>
    cases q.fence with
    | none => exact hrefuse 3
    | some p => exact hsignal p.1 p.2
  | _ => exact hpass _

theorem State.gateDiscard_pending (s : State) (x : Nat) : (s.gateDiscard x).pending = s.pending := by rfl

theorem State.gateResume_pending (s : State) (x : Site) : (s.gateResume x).pending = s.pending := by
  simp [State.gateResume, foldl_pending, State.modGate_pending, State.modDir_pending,
    State.graftRequest_pending]

theorem State.admissionSeen_pending (s : State) (x : Site) (e : AdmEvidence) :
    (s.admissionSeen x e).pending = s.pending := by rfl

theorem State.admitSite_pending (s : State) (x : Site) (e : AdmEvidence) : (s.admitSite x e).pending = s.pending := by
  unfold State.admitSite
  grind [State.emit_pending, State.modGate_pending, State.siteResult_pending, State.modLink_pending,
    State.bungFree_pending, State.nisReady_pending]

theorem State.graftReadmit_pending (s : State) (x : Site) : (s.graftReadmit x).pending = s.pending := by rfl

/-! #### Host accesses -/

theorem State.hostLater_pending (s : State) (e : Ep) (a : HostAcc) : (s.hostLater e a).pending = s.pending := by
  unfold State.hostLater
  grind [State.modEp_pending]

theorem State.aerCorrectable_pending (s : State) (e : Ep) (b : Nat) : (s.aerCorrectable e b).pending = s.pending := by
  unfold State.aerCorrectable
  grind [State.modEp_pending, State.emit_pending]

theorem State.aer_pending (s : State) (e : Ep) (x : PcieErr) (adv : optParam Bool false) :
    (s.aer e x adv).pending = s.pending := by
  unfold State.aer
  grind [State.aerCorrectable_pending, State.modEp_pending, State.emit_pending]

theorem State.wrErr_pending (s : State) (e : Ep) (k : CplKind) : (s.wrErr e k).pending = s.pending := by
  unfold State.wrErr
  grind [State.aer_pending]

theorem State.cwDiscard_pending (s : State) (e : Ep) : (s.cwDiscard e).pending = s.pending := by
  unfold State.cwDiscard
  grind [State.modEp_pending]

theorem State.cplErr_pending (s : State) (e : Ep) (k : CplKind) : (s.cplErr e k).pending = s.pending := by
  unfold State.cplErr
  grind [State.emit_pending, State.aer_pending]

/-! #### Registers of the hub -/

theorem resState_pending (r : Res) (s : State) (hr : KeepsQueue s r) : (resState r s).pending = s.pending := by
  obtain ⟨t, rfl, ht⟩ := hr
  exact ht

/-! #### Power and time -/

theorem State.timeStep_pending (s : State) (n : Nat) : (s.timeStep n).pending = s.pending := by rfl

/-! #### Registers of the hub -/

theorem State.roWrite_pending (s : State) (who : Who) : (s.roWrite who).pending = s.pending := by
  unfold State.roWrite
  grind [State.mgmtWrite_pending]

/-! #### Contexts, queues and fences -/

theorem State.hubWrite_pending (s : State) (who : Who) (ok : Bool) (f : State → State)
    (hf : ∀ s, (f s).pending = s.pending) :
    (s.hubWrite who ok f).pending = s.pending := by
  unfold State.hubWrite
  grind [State.ack_pending, State.cwDiscard_pending]

theorem State.fenceWrite_pending (s : State) (f w : Nat) (v : Word) : (s.fenceWrite f w v).pending = s.pending := by
  unfold State.fenceWrite
  grind [State.fenceEvent_pending, State.modFence_pending]

theorem State.cmdStart_pending (s : State) (b op idx : Nat) : (s.cmdStart b op idx).pending = s.pending := by rfl

theorem State.cmdGo_pending (s : State) (b op idx : Nat) (f : Word → State → CmdRes × State)
    (hf : ∀ v s, (f v s).2.pending = s.pending) :
    (s.cmdGo b op idx f).pending = s.pending := by
  unfold State.cmdGo
  have hstart := s.cmdStart_pending b op idx
  grind [State.modHub_pending, State.cmdEnd_pending]

theorem State.ctxCreate_pending (x : Nat) (arg : Word) (s : State) :
    (State.ctxCreate x arg s).2.pending = s.pending := by
  unfold State.ctxCreate
  grind [State.modCtx_pending, State.wantNow_pending]

theorem State.ctxDestroy_pending (b : Fin 4) (x : Nat) (s : State) :
    (State.ctxDestroy b x s).2.pending = s.pending := by
  unfold State.ctxDestroy
  grind [State.abortBegin_pending]

theorem State.ctxAbort_pending (b : Fin 4) (x : Nat) (s : State) : (State.ctxAbort b x s).2.pending = s.pending := by
  unfold State.ctxAbort
  grind [State.abortBegin_pending, State.logEvent_pending]

theorem State.ctxPreempt_pending (b : Fin 4) (x : Nat) (s : State) :
    (State.ctxPreempt b x s).2.pending = s.pending := by
  unfold State.ctxPreempt
  grind [State.saveBegin_pending]

theorem State.qEnable_pending (q : Nat) (s : State) : (State.qEnable q s).2.pending = s.pending := by
  unfold State.qEnable
  grind [State.modQueue_pending, State.statusLine_pending]

theorem State.qDisable_pending (b : Fin 4) (q : Nat) (s : State) : (State.qDisable b q s).2.pending = s.pending := by
  unfold State.qDisable
  grind [State.modQueue_pending, State.modHub_pending, State.drainEnd_pending, State.statusLine_pending]

theorem State.qResume_pending (q : Nat) (s : State) : (State.qResume q s).2.pending = s.pending := by
  unfold State.qResume
  grind [State.modQueue_pending, State.statusLine_pending]

theorem State.fArm_pending (f : Nat) (arg : Word) (s : State) : (State.fArm f arg s).2.pending = s.pending := by
  unfold State.fArm
  grind [State.fenceEvent_pending, State.fenceWake_pending, State.modFence_pending]

theorem State.fAbandon_pending (f : Nat) (s : State) : (State.fAbandon f s).2.pending = s.pending := by
  unfold State.fAbandon
  grind [State.fenceAbandon_pending]

theorem State.fDisarm_pending (f : Nat) (s : State) : (State.fDisarm f s).2.pending = s.pending := by
  unfold State.fDisarm
  grind [State.modFence_pending]

/-! #### Contexts, queues and fault queues -/

theorem State.dbDiscard_pending (s : State) (q : Nat) (e : Option Ep) : (s.dbDiscard q e).pending = s.pending := by
  unfold State.dbDiscard
  grind [State.modQueue_pending, State.modEp_pending]

/-! #### What an endpoint sends -/

theorem State.xlogAdd_pending (s : State) (kind : Nat) (e : Ep) (id0 id1 : Nat) :
    (s.xlogAdd kind e id0 id1).pending = s.pending := by
  unfold State.xlogAdd
  grind [State.bump_pending]

/-! #### Contexts, queues and fault queues -/

theorem State.ringDoorbell_pending (s : State) (q : Nat) (t : Half) (e : Option Ep) :
    (s.ringDoorbell q t e).pending = s.pending := by
  unfold State.ringDoorbell
  grind [State.dbDiscard_pending, State.queueErr_pending, State.modQueue_pending, State.xlogAdd_pending,
    State.wantNow_pending, State.modThr_pending, State.statusLine_pending]

/-! #### Translation blocks -/

theorem State.xDiscard_pending (s : State) : (s.xDiscard).pending = s.pending := by rfl

theorem State.fqWrite_pending (s : State) (x w : Nat) (v : Word) : (s.fqWrite x w v).pending = s.pending := by
  unfold State.fqWrite
  grind [State.xDiscard_pending, State.modFq_pending]

theorem State.xcmdStart_pending (s : State) (b op idx : Nat) : (s.xcmdStart b op idx).pending = s.pending := by rfl

theorem State.xcmdEnd_pending (s : State) (b code : Nat) : (s.xcmdEnd b code).pending = s.pending := by rfl

theorem State.xcmdGo_pending (s : State) (b op idx : Nat) (f : Nat → Nat → State → CmdRes × State)
    (hf : ∀ a b s, (f a b s).2.pending = s.pending) :
    (s.xcmdGo b op idx f).pending = s.pending := by
  unfold State.xcmdGo
  have hstart := s.xcmdStart_pending b op idx
  grind [State.xDiscard_pending, State.xcmdEnd_pending]

theorem State.walkSend_pending (s : State) (id : Nat) (w : Walk) : (s.walkSend id w).pending = s.pending := by
  unfold State.walkSend
  grind [State.walkRead_pending]

theorem State.walkFault_pending (s : State) (h : Hart) (w : Walk) (c : XCause) (ipa : Nat) (wlk : Bool) :
    (s.walkFault h w c ipa wlk).pending = s.pending := by
  unfold State.walkFault
  grind [State.replay_pending, State.modThr_pending, State.locateAll_pending, State.threadFault_pending]

theorem State.walkTo_pending (s : State) (q : ThreadWalk) (r : WalkRes) : (s.walkTo q r).pending = s.pending := by
  unfold State.walkTo
  grind [State.modHub_pending, State.walkSend_pending, State.replay_pending, State.tlbFill_pending,
    State.tcFill_pending, State.walkFault_pending]

theorem State.walkRestart_pending (s : State) (p : Walk → Bool) : (s.walkRestart p).pending = s.pending := by
  simp [State.walkRestart, foldl_pending, State.modHub_pending, State.walkTo_pending]

/-! #### Translation -/

theorem State.tlbDrop_pending (s : State) (p : TEntry → Bool) (q : WEntry → Bool) :
    (s.tlbDrop p q).pending = s.pending := (s.tlbDrop_calm p q).1

/-! #### Translation blocks -/

theorem State.invCtx_pending (idx a1 a2 : Nat) (s : State) : (State.invCtx idx a1 a2 s).2.pending = s.pending := by
  unfold State.invCtx
  grind [State.walkRestart_pending, State.tlbDrop_pending]

theorem State.invVa_pending (idx a0 a1 : Nat) (s : State) : (State.invVa idx a0 a1 s).2.pending = s.pending := by
  unfold State.invVa
  grind [State.walkRestart_pending, State.tlbDrop_pending]

theorem State.invSlice_pending (idx a1 a2 : Nat) (s : State) :
    (State.invSlice idx a1 a2 s).2.pending = s.pending := by
  unfold State.invSlice
  grind [State.walkRestart_pending, State.tlbDrop_pending]

theorem State.invIpa_pending (idx a0 a1 : Nat) (s : State) : (State.invIpa idx a0 a1 s).2.pending = s.pending := by
  unfold State.invIpa
  grind [State.walkRestart_pending, State.tlbDrop_pending]

theorem State.invAllCmd_pending (a0 a1 : Nat) (s : State) : (State.invAllCmd a0 a1 s).2.pending = s.pending := by
  unfold State.invAllCmd
  grind [State.walkRestart_pending, State.tlbDrop_pending]

theorem State.retryThreads_pending (s : State) (x : Nat) : (s.retryThreads x).pending = s.pending := by
  unfold State.retryThreads
  dsimp only
  (repeat' split) <;> grind [foldl_pending, State.memExec_pending, State.modThr_pending]

theorem State.retryQueue_pending (s : State) (q : Nat) : (s.retryQueue q).pending = s.pending := by
  unfold State.retryQueue
  grind [State.modQueue_pending, State.statusLine_pending]

theorem State.xResume_pending (idx a0 a2 : Nat) (s : State) : (State.xResume idx a0 a2 s).2.pending = s.pending := by
  unfold State.xResume
  dsimp only
  (repeat' split) <;> simp_all [foldl_pending, State.modHub_pending, State.modFq_pending,
    State.retryThreads_pending, State.retryQueue_pending, State.queueErr_pending, State.modQueue_pending,
    State.ctxLose_pending]

/-! #### Slices -/

theorem State.sDiscard_pending (s : State) : (s.sDiscard).pending = s.pending := by rfl

theorem State.bindGate_pending (s : State) (g : Nat) (x : Option SliceId) : (s.bindGate g x).pending = s.pending := by
  unfold State.bindGate
  grind [State.modGate_pending, State.gateResume_pending]

theorem State.slCfgWrite_pending (s : State) (x : SliceId) (v : Nat) : (s.slCfgWrite x v).pending = s.pending := by
  simp [State.slCfgWrite, foldl_pending, apply_ite State.pending, State.sDiscard_pending, State.modSlice_pending,
    State.modGate_pending, State.bindGate_pending]

theorem State.slCluWrite_pending (s : State) (x i : Nat) (v : Word) : (s.slCluWrite x i v).pending = s.pending := by
  unfold State.slCluWrite
  dsimp only
  (repeat' split) <;> grind [foldl_pending, State.sDiscard_pending, State.modSlice_pending, State.saveBegin_pending]

theorem State.slBarWrite_pending (s : State) (x i : Nat) (v : Word) : (s.slBarWrite x i v).pending = s.pending := by
  simp [State.slBarWrite, foldl_pending, apply_ite State.pending, State.sDiscard_pending, State.modSlice_pending,
    State.breakChan_pending]

theorem State.sliceWrite_pending (s : State) (x : SliceId) (w : Nat) (v : Word) :
    (s.sliceWrite x w v).pending = s.pending := by
  unfold State.sliceWrite
  grind [State.slCfgWrite_pending, State.modSlice_pending, State.sDiscard_pending, State.slCluWrite_pending,
    State.slBarWrite_pending]

theorem State.scmdStart_pending (s : State) (b op idx : Nat) : (s.scmdStart b op idx).pending = s.pending := by rfl

theorem State.scmdEnd_pending (s : State) (b code : Nat) : (s.scmdEnd b code).pending = s.pending := by rfl

theorem State.scmdGo_pending (s : State) (b op idx : Nat) (f : Nat → Nat → State → Option Nat × State)
    (hf : ∀ a b s, (f a b s).2.pending = s.pending) :
    (s.scmdGo b op idx f).pending = s.pending := by
  unfold State.scmdGo
  have hstart := s.scmdStart_pending b op idx
  grind [State.sDiscard_pending, State.scmdEnd_pending]

theorem State.slCreate_pending (x : Nat) (s : State) : (State.slCreate x s).2.pending = s.pending := by
  unfold State.slCreate
  grind [State.modSlice_pending]

theorem State.slFreeze_pending (b : Fin 4) (x : Nat) (s : State) : (State.slFreeze b x s).2.pending = s.pending := by
  unfold State.slFreeze
  grind [State.modSlice_pending]

/-! #### Spare cores -/

theorem State.substThaw_pending (s : State) : (s.substThaw).pending = s.pending := by
  refine foldl_pending (fun s d => foldl_pending (fun s c => ?_) _ s) _ s
  grind [State.substGo_pending, State.substSave_pending, State.substSet_pending]

/-! #### Slices -/

theorem State.slThaw_pending (x : Nat) (s : State) : (State.slThaw x s).2.pending = s.pending := by
  unfold State.slThaw
  dsimp only
  (repeat' split) <;> simp_all [foldl_pending, apply_ite State.pending, State.modSlice_pending,
    State.statusLine_pending, State.gateResume_pending, State.wantNow_pending, State.modCtx_pending,
    State.substThaw_pending]

/-! #### Bottling -/

theorem State.slBottle_pending (b : Fin 4) (x a0 a1 : Nat) (s : State) :
    (State.slBottle b x a0 a1 s).2.pending = s.pending := by
  unfold State.slBottle
  grind [State.modHub_pending, State.agentPut_pending, State.substThaw_pending, State.modSlice_pending,
    State.bump_pending]

theorem State.putCtx_pending (s : State) (x : SliceId) (img : List Byte) (o : Nat) :
    (s.putCtx x img o).pending = s.pending := by rfl

theorem State.putQueue_pending (s : State) (img : List Byte) (o : Nat) :
    (s.putQueue img o).pending = s.pending := by rfl

theorem State.putFence_pending (s : State) (x : SliceId) (img : List Byte) (o : Nat) :
    (s.putFence x img o).pending = s.pending := by rfl

theorem State.putDesc_pending (s : State) (img : List Byte) (o : Nat) :
    (s.putDesc img o).pending = s.pending := by rfl

theorem State.putFaults_pending (s : State) (x : Nat) (img : List Byte) :
    (s.putFaults x img).pending = s.pending := by
  unfold State.putFaults
  grind [State.modFq_pending, State.modHub_pending]

theorem State.putBar_pending (s : State) (img : List Byte) (o : Nat) : (s.putBar img o).pending = s.pending := by
  unfold State.putBar
  dsimp only
  grind [foldl_pending, State.modDie_pending, State.modBar_pending]

theorem State.putArrived_pending (s : State) (c : Nat) : (s.putArrived c).pending = s.pending := by
  change SameQueue s _
  have hread := fun s rt k pa n => SameQueue.of (State.agentBytes_pending s rt k pa n)
  obtain ⟨g, hg⟩ : ∃ g, @State.agentBytes = g := ⟨_, rfl⟩
  obtain ⟨f, hf⟩ : ∃ f, @State.putArrived = f := ⟨_, rfl⟩
  rw [hf]
  delta State.putArrived at hf
  rw [hg] at hread hf
  subst hf
  beta_reduce
  generalize (s.ctxOf c).area = kb
  obtain ⟨k, base⟩ := kb
  dsimp -zeta only
  have ht := hread s {} k (base + 0x9A200) 32
  generalize g s {} k (base + 0x9A200) 32 = r at ht ⊢
  obtain ⟨st, poi, bs, t⟩ := r
  refine ht.trans (SameQueue.foldl (fun s i => ?_) _ t)
  extract_lets n
  split
  · exact .of rfl
  · exact .of rfl

theorem State.putGate_pending (s : State) (img : List Byte) (o : Nat) :
    (s.putGate img o).pending = s.pending := by rfl

theorem State.restoreSlice_pending (s : State) (x : SliceId) (img : List Byte) :
    (s.restoreSlice x img).pending = s.pending := by
  simp [State.restoreSlice, foldl_pending, State.putCtx_pending, State.putQueue_pending,
    State.putFence_pending, State.putDesc_pending, State.putFaults_pending, State.putBar_pending,
    State.putArrived_pending, State.putGate_pending, State.modSlice_pending, State.modHub_pending]

theorem State.slUncork_pending (x : SliceId) (a0 a1 : Nat) (s : State) :
    (State.slUncork x a0 a1 s).2.pending = s.pending := by
  unfold State.slUncork
  grind [State.agentBytes_pending, State.restoreSlice_pending]

/-! #### Slices -/

theorem State.sliceClear_pending (s : State) (x : Nat) : (s.sliceClear x).pending = s.pending := by
  unfold State.sliceClear
  dsimp only
  grind [foldl_pending, State.batchClose_pending, State.statusLine_pending,
    State.modQueue_pending, State.cmdEnd_pending, State.modCtx_pending, State.modFence_pending,
    State.bindGate_pending, State.breakChan_pending, State.modSlice_pending, State.modFq_pending,
    State.walkRestart_pending, State.tlbDrop_pending]

theorem State.sliceResetEnd_pending (s : State) (x : Nat) : (s.sliceResetEnd x).pending = s.pending := by
  unfold State.sliceResetEnd
  grind [State.sliceClear_pending, State.modSlice_pending, State.substThaw_pending, State.scmdEnd_pending]

theorem State.sliceReset_pending (b : Fin 4) (x : Nat) (s : State) :
    (State.sliceReset b x s).2.pending = s.pending := by
  unfold State.sliceReset
  dsimp only
  (repeat' split) <;> simp_all [foldl_pending, State.modSlice_pending,
    State.gateResume_pending, State.ctxLose_pending, State.fenceAbandon_pending, State.breakChan_pending,
    State.modHub_pending, State.modFq_pending, State.sliceResetEnd_pending]

/-! #### Observation -/

theorem State.tasterArm_pending (s : State) (i : Nat) : (s.tasterArm i).pending = s.pending := by
  unfold State.tasterArm
  grind [State.budgetWrite_pending, State.routeSet_pending]

theorem State.tasterArmAll_pending (s : State) : (s.tasterArmAll).pending = s.pending := by
  simp [State.tasterArmAll, foldl_pending, State.modTrellis_pending, State.tasterArm_pending]

theorem State.tasterWrite_pending (s : State) (i v : Nat) : (s.tasterWrite i v).2.pending = s.pending := by
  unfold State.tasterWrite
  grind [State.regDiscard_pending, State.modObs_pending, State.tasterArmAll_pending, State.budgetWrite_pending]

theorem State.sinkWrite_pending (s : State) (i base cfg : Nat) : (s.sinkWrite i base cfg).pending = s.pending := by
  unfold State.sinkWrite
  grind [State.modObs_pending]

/-! #### The debug halt -/

theorem State.haltResume_pending (s : State) : (s.haltResume).pending = s.pending := by
  unfold State.haltResume
  dsimp only
  grind [foldl_pending, State.modDie_pending]

theorem State.hltctlWrite_pending (s : State) (v : Nat) : (s.hltctlWrite v).pending = s.pending := by
  unfold State.hltctlWrite
  grind [State.haltTrigger_pending, State.haltResume_pending]

/-! #### Registers of the hub -/

theorem State.observeWrite_pending (s : State) (who : Who) (r : HReg) (v : Nat) :
    (s.observeWrite who r v).pending = s.pending := by
  unfold State.observeWrite
  grind [State.mgmtWrite_pending, State.tasterWrite_pending, State.modObs_pending, State.sinkWrite_pending,
    State.hltctlWrite_pending]

/-! #### The twin port -/

theorem State.freezeAll_pending (s : State) : (s.freezeAll).pending = s.pending := by
  refine foldl_pending (fun s a => ?_) _ s
  rfl

theorem State.handOver_pending (s : State) (cause : Nat) : (s.handOver cause).pending = s.pending := by
  unfold State.handOver
  grind [State.switchGo_pending, State.modTwin_pending, State.freezeAll_pending]

/-! #### Bring-up -/

theorem State.warmStart_pending (s : State) : (s.warmStart).pending = s.pending := by
  simp [State.warmStart, foldl_pending, State.modBoot_pending, State.bungAll_pending,
    State.hostDrop_pending, State.raiseStatus_pending]

theorem State.warmRequest_pending (s : State) : (s.warmRequest).pending = s.pending := by
  unfold State.warmRequest
  grind [State.modBoot_pending, State.handOver_pending, State.warmStart_pending]

/-! #### Host accesses -/

theorem State.segWrite_pending (s : State) (e : Ep) (i v : Nat) : (s.segWrite e i v).pending = s.pending := by
  unfold State.segWrite
  grind [State.cwDiscard_pending, State.modEp_pending]

theorem State.msixFlush_pending (s : State) (e : Ep) : (s.msixFlush e).pending = s.pending := by
  simp [State.msixFlush, foldl_pending, apply_ite State.pending, State.msixTrigger_pending, State.modEp_pending]

/-! #### Registers of the hub -/

theorem State.msixWrite_pending (s : State) (e : Ep) (o v : Nat) : (s.msixWrite e o v).pending = s.pending := by
  unfold State.msixWrite
  grind [State.modEp_pending, State.msixFlush_pending]

/-! #### The cellar book -/

theorem State.mboxAnswer_pending (s : State) (e : Ep) (op : Nat) (r : CbReq) (a : Answer) :
    (s.mboxAnswer e op r a).pending = s.pending := by
  unfold State.mboxAnswer
  grind [State.modEp_pending, State.msixTrigger_pending]

theorem State.bookAnswer_pending (s : State) (ch : CbChan) (op : Nat) (r : CbReq) (a : Answer) :
    (s.bookAnswer ch op r a).pending = s.pending := by
  unfold State.bookAnswer
  grind [State.emit_pending, State.mboxAnswer_pending]

theorem State.mailboxGo_pending (s : State) (e : Ep) : (s.mailboxGo e).pending = s.pending := by
  unfold State.mailboxGo
  grind [State.modEp_pending, State.bump_pending, State.bookAnswer_pending, State.emit_pending]

/-! #### Registers of the hub -/

theorem State.epWrite_pending (s : State) (e : Ep) (o v : Nat) (part : Option Bool) :
    (s.epWrite e o v part).pending = s.pending := by
  unfold State.epWrite
  grind [State.warmRequest_pending, State.segWrite_pending, State.msixWrite_pending, State.mailboxGo_pending,
    State.modEp_pending, State.cwDiscard_pending]

theorem State.cplData_pending (s : State) (e : Ep) (size v : Nat) : (s.cplData e size v).pending = s.pending := by rfl

theorem State.cwRead_pending (s : State) (e : Ep) (off size : Nat) : (s.cwRead e off size).pending = s.pending := by
  unfold State.cwRead
  grind [State.cplData_pending, State.cwDiscard_pending, State.cplErr_pending]

/-! #### Host accesses -/

theorem State.apRefuse_pending (s : State) (e : Ep) : (s.apRefuse e).pending = s.pending := by
  unfold State.apRefuse
  grind [State.modEp_pending]

theorem State.apSectors_pending (s : State) (e : Ep) (kslot pa n : Nat) :
    (s.apSectors e kslot pa n).2.2.pending = s.pending := by
  refine foldl_pending_at (fun p : Status × List (List Byte × Bool) × State => p.2.2) (fun p i => ?_) _ (.ok, [], s)
  exact p.2.2.agentRead_pending _ _ kslot

theorem State.apRead_pending (s : State) (e : Ep) (off : BitVec 42) (len : Fin 4097) :
    (s.apRead e off len).pending = s.pending := by
  simp [State.apRead, foldl_pending, apply_ite State.pending, State.cplErr_pending, State.apRefuse_pending,
    State.apSectors_pending, State.emit_pending, State.modEp_pending]

theorem State.dbDrop_pending (s : State) (e : Ep) : (s.dbDrop e).pending = s.pending := by
  unfold State.dbDrop
  grind [State.modEp_pending]

theorem State.dbWrite_pending (s : State) (e : Ep) (off : BitVec 26) (size : Fin 9) (data : Word) (poisoned : Bool) :
    (s.dbWrite e off size data poisoned).pending = s.pending := by
  unfold State.dbWrite
  grind [State.dbDrop_pending, State.emit_pending, State.ringDoorbell_pending]

theorem State.returnDone_pending (e : Ep) (a1 : State) (a2 : List Outb) :
    (State.returnDone e a1 a2).1.pending = a1.pending := by
  induction a2 generalizing a1 with
  | nil => rfl
  | cons b l ih =>
    cases b with
    | msix v => rfl
    | req r =>
      unfold State.returnDone
      grind [State.hostAnswer_pending, State.hostFail_pending]

theorem State.hostReturn_pending (s : State) (e : Ep) : (s.hostReturn e).pending = s.pending := by
  unfold State.hostReturn
  grind [State.returnDone_pending, State.drainOut_pending, State.modEp_pending]

theorem State.epStop_pending (s : State) (e : Ep) : (s.epStop e).pending = s.pending := by
  unfold State.epStop
  grind [State.modEp_pending, State.aer_pending]

/-! #### Contexts, queues and fences -/

theorem State.takeEntryQ_pending (s : State) (q : Nat) (bs : List Byte) :
    (s.takeEntryQ q bs).pending = s.pending := by rfl

/-! #### Contexts, queues and fault queues -/

theorem State.queueEnd_pending (s : State) (q : Nat) (destroy : Bool) :
    (s.queueEnd q destroy).pending = s.pending := (s.queueEnd_calm q destroy).1

theorem State.abortEnd_pending (s : State) (x : Nat) : (s.abortEnd x).pending = s.pending := by
  unfold State.abortEnd
  dsimp only
  (repeat' split) <;> simp_all [foldl_pending, State.queueEnd_pending, State.tlbDrop_pending,
    State.modFq_pending, State.modHub_pending, State.modCtx_pending, State.cmdEnd_pending]

/-! #### Slices -/

theorem State.holdGates_pending (s : State) (x : Nat) : (s.holdGates x).pending = s.pending := by
  refine foldl_pending (fun s a => ?_) _ s
  rfl

/-! #### Security -/

theorem State.secDiscard_pending (s : State) : (s.secDiscard).pending = s.pending := by rfl

theorem State.versionCommit_pending (s : State) (v : Nat) : (s.versionCommit v).pending = s.pending := by
  unfold State.versionCommit
  grind [State.secDiscard_pending]

theorem State.attestRequest_pending (s : State) (ch : Nat) (req : List Byte) :
    (s.attestRequest ch req).pending = s.pending := by
  unfold State.attestRequest
  grind [State.modSec_pending]

theorem State.setSlot_pending (s : State) (i : Nat) (k : KeySlot) : (s.setSlot i k).pending = s.pending := by rfl

theorem State.keyWrite_pending (s : State) (i v : Nat) : (s.keyWrite i v).pending = s.pending := by
  unfold State.keyWrite
  grind [State.setSlot_pending, State.secDiscard_pending]

theorem State.keySub_pending (s : State) (i v : Nat) : (s.keySub i v).pending = s.pending := by
  unfold State.keySub
  grind [State.setSlot_pending, State.secDiscard_pending]

/-! #### Resets -/

theorem State.powerReset_pending (s : State) (por : Bool) : (s.powerReset por).pending = s.pending := by rfl

theorem State.coldStart_pending (s : State) (kind : Nat) : (s.coldStart kind).pending = s.pending := by rfl

/-! #### Bring-up -/

theorem State.sinceReady_pending (s : State) : (s.sinceReady).pending = s.pending := by rfl

/-! #### The twin port -/

theorem State.pairSend_pending (s : State) : (s.pairSend).pending = s.pending := by rfl

theorem State.pairStart_pending (s : State) : (s.pairStart).pending = s.pending := by
  unfold State.pairStart
  grind [State.pairSend_pending, State.modTwin_pending]

/-! #### Bring-up -/

theorem State.declareReady_pending (s : State) : (s.declareReady).pending = s.pending := by
  unfold State.declareReady
  grind [State.modBoot_pending, State.raiseStatus_pending, State.modTwin_pending, State.sinceReady_pending,
    State.pairStart_pending]

theorem State.recover_pending (s : State) : (s.recover).pending = s.pending := by rfl

theorem State.runImage_pending (s : State) (img : List Byte) : (s.runImage img).pending = s.pending := by rfl

theorem State.imageStage_pending (s : State) : (s.imageStage).pending = s.pending := by
  unfold State.imageStage
  grind [State.recover_pending, State.modBoot_pending, State.runImage_pending]

theorem State.powerStage_pending (s : State) : (s.powerStage).pending = s.pending := by
  simp [State.powerStage, foldl_pending, apply_ite State.pending, State.modGate_pending, State.modPow_pending]

theorem State.caskReport_pending (s : State) (k : CaskId) : (s.caskReport k).pending = s.pending := by
  unfold State.caskReport
  grind [State.modBoot_pending, State.caskFence_pending]

theorem State.discoverStage_pending (s : State) : (s.discoverStage).pending = s.pending := by
  simp [State.discoverStage, foldl_pending, apply_ite State.pending, State.bump_pending, State.caskReport_pending,
    State.siteResult_pending, State.modLink_pending]

/-! #### Casks -/

theorem State.eyeTrain_pending (s : State) (e : Eye) : (s.eyeTrain e).pending = s.pending := by
  unfold State.eyeTrain
  grind [State.takeStave_pending]

/-! #### Bring-up -/

theorem State.acceptStage_pending (s : State) : (s.acceptStage).pending = s.pending := by
  simp [State.acceptStage, foldl_pending, apply_ite State.pending, State.bump_pending, State.linkRetire_pending]

theorem State.licenceApply_pending (s : State) : (s.licenceApply).pending = s.pending := by
  unfold State.licenceApply
  grind [State.modBoot_pending]

theorem State.versionStage_pending (s : State) (lic : Bool) : (s.versionStage lic).pending = s.pending := by
  simp [State.versionStage, foldl_pending, apply_ite State.pending, State.emit_pending, State.licenceApply_pending]

theorem State.graftStage_pending (s : State) : (s.graftStage).pending = s.pending := by
  simp [State.graftStage, foldl_pending, apply_ite State.pending, State.siteResult_pending, State.graftFence_pending]

theorem State.arrayTestStage_pending (s : State) : (s.arrayTestStage).pending = s.pending := by
  simp [State.arrayTestStage, foldl_pending, apply_ite State.pending, State.rowRepair_pending, State.bump_pending,
    State.eyeTrain_pending]

/-! #### Spare cores -/

theorem State.retireSubst_pending (s : State) (x cl phys : Nat) : (s.retireSubst x cl phys).pending = s.pending := by
  unfold State.retireSubst
  grind [State.retireCore_pending, State.modCluster_pending]

/-! #### Bring-up -/

theorem State.coreTestStage_pending (s : State) : (s.coreTestStage).pending = s.pending := by
  simp [State.coreTestStage, foldl_pending, apply_ite State.pending, State.retireSubst_pending]

theorem State.scrubStage_pending (s : State) : (s.scrubStage).pending = s.pending := by
  simp [State.scrubStage, foldl_pending, apply_ite State.pending, State.nisReady_pending, State.modCask_pending]

theorem State.wearAll_pending (s : State) : (s.wearAll).pending = s.pending := by
  simp [State.wearAll, foldl_pending, apply_ite State.pending, State.caskJudge_pending, State.wear_pending,
    State.spareWear_pending]

theorem State.tableStage_pending (s : State) : (s.tableStage).pending = s.pending := by
  simp [State.tableStage, foldl_pending, apply_ite State.pending, State.siteResult_pending, State.modCask_pending,
    State.bungRelease_pending, State.wearAll_pending, State.bungFree_pending]

theorem State.stageDone_pending (s : State) (eyes : List Eye) (a2 : Nat) :
    (s.stageDone eyes a2).pending = s.pending := by
  unfold State.stageDone
  dsimp only
  (repeat' split) <;> simp_all [foldl_pending, State.imageStage_pending,
    State.powerStage_pending, State.discoverStage_pending, State.eyeTrain_pending, State.acceptStage_pending,
    State.versionStage_pending, State.graftStage_pending, State.arrayTestStage_pending, State.coreTestStage_pending,
    State.scrubStage_pending, State.tableStage_pending]

theorem State.loaderTake_pending (s : State) (img : List Byte) : (s.loaderTake img).pending = s.pending := by
  unfold State.loaderTake
  grind [State.coldStart_pending, State.powerReset_pending, State.modBoot_pending, State.modObs_pending]

theorem State.imageTake_pending (s : State) (img : List Byte) : (s.imageTake img).2.pending = s.pending := by
  unfold State.imageTake
  grind [State.modBoot_pending]

theorem State.licenceTake_pending (s : State) (l : List Byte) : (s.licenceTake l).2.pending = s.pending := by
  unfold State.licenceTake
  grind [State.modBoot_pending]

theorem State.warmClear_pending (s : State) : (s.warmClear).pending = s.pending := by rfl

theorem State.warmLeft_pending (s : State) : (s.warmLeft).pending = s.pending := by
  simp [State.warmLeft, foldl_pending, apply_ite State.pending, State.warmClear_pending, State.siteResult_pending]

theorem State.warmIdents_pending (s : State) : (s.warmIdents).pending = s.pending := by
  simp [State.warmIdents, foldl_pending, apply_ite State.pending, State.rejectDie_pending]

theorem State.relink_pending (s : State) (a : Nat) : (s.relink a).pending = s.pending := by
  refine foldl_pending (fun s a => ?_) _ s
  rfl

theorem State.warmSite_pending (s : State) (x : Site) : (s.warmSite x).pending = s.pending := by
  unfold State.warmSite
  grind [State.modLink_pending, State.relink_pending, State.modGate_pending, State.modPow_pending,
    State.nisReady_pending]

theorem State.warmEp_pending (s : State) (a : Nat) (d : Domain) : (s.warmEp a d).pending = s.pending := by
  unfold State.warmEp
  grind [State.nisReady_pending, State.relink_pending]

theorem State.warmBuild_pending (s : State) (fencedK : List Nat) (eyes : List Eye) :
    (s.warmBuild fencedK eyes).pending = s.pending := by
  unfold State.warmBuild
  dsimp only
  (repeat' split) <;> grind [foldl_pending, State.runImage_pending, State.modCask_pending, State.eyeTrain_pending,
    State.warmIdents_pending, State.warmSite_pending, State.warmEp_pending, State.versionStage_pending,
    State.tableStage_pending, State.graftStage_pending, State.coreTestStage_pending, State.scrubStage_pending]

theorem State.warmPath_pending (s : State) (eyes : List Eye) : (s.warmPath eyes).pending = s.pending := by
  unfold State.warmPath
  grind [State.warmLeft_pending, State.recover_pending, State.modBoot_pending, State.declareReady_pending,
    State.warmBuild_pending]

theorem State.fwRetire_pending (s : State) (k : Nat) : (s.fwRetire k).pending = s.pending := by
  unfold State.fwRetire
  grind [State.retireSubst_pending]

/-! #### The cellar book -/

theorem State.bookTake_pending (s : State) (ch : CbChan) (op : Nat) (r : CbReq) (f : State → Answer × State)
    (hf : ∀ s, (f s).2.pending = s.pending) :
    (s.bookTake ch op r f).pending = s.pending := by
  unfold State.bookTake
  extract_lets serve
  have hopen : (serve s).pending = s.pending := by
    unfold serve
    grind [State.bump_pending, State.emit_pending, State.bookAnswer_pending]
  clear_value serve
  grind [State.emit_pending]

/-! #### Counters -/

theorem State.octSettle_pending (s : State) : (s.octSettle).pending = s.pending := by
  unfold State.octSettle
  grind [State.bump_pending, State.mapCores_pending]

/-! #### The cellar book -/

theorem State.ringBytes_pending (s : State) (i off n : Nat) : (s.ringBytes i off n).2.pending = s.pending := by
  unfold State.ringBytes
  grind [State.agentBytes_pending]

theorem State.bookRead_pending (s : State) (ch : CbChan) (r : CbReq) : (s.bookRead ch r).2.pending = s.pending := by
  unfold State.bookRead
  grind [State.octSettle_pending, State.ringBytes_pending]

theorem State.substWrite_pending (s : State) (x v : Nat) : (s.substWrite x v).2.pending = s.pending := by
  unfold State.substWrite
  grind [State.substStart_pending]

theorem State.readmitWrite_pending (s : State) (x v : Nat) : (s.readmitWrite x v).2.pending = s.pending := by
  unfold State.readmitWrite
  grind [State.graftReadmit_pending]

theorem State.addrWrite_pending (s : State) (sub v : Nat) : (s.addrWrite sub v).2.pending = s.pending := by
  unfold State.addrWrite
  grind

theorem odSet_pending (ok : Bool) (f : State → State) (s : State) (hf : ∀ s, (f s).pending = s.pending) :
    (odSet ok f s).2.pending = s.pending := by
  unfold odSet
  grind

theorem State.restoreWrite_pending (s : State) (v : Nat) : (s.restoreWrite v).2.pending = s.pending := by
  unfold State.restoreWrite
  grind [odSet_pending]

theorem State.resetWrite_pending (s : State) (v : Nat) : (s.resetWrite v).2.pending = s.pending := by
  unfold State.resetWrite
  grind [odSet_pending, State.coldStart_pending, State.powerReset_pending, State.warmRequest_pending]

/-! #### Power and time -/

theorem State.setLock_pending (s : State) (b : Bool) : (s.setLock b).pending = s.pending := by
  unfold State.setLock
  grind [State.raiseStatus_pending, State.modTime_pending]

theorem State.ptpDomain_pending (s : State) (v : Byte) : (s.ptpDomain v).pending = s.pending := by
  unfold State.ptpDomain
  grind [State.setLock_pending, State.modTime_pending]

/-! #### The twin port -/

theorem State.switchRequest_pending (s : State) (v : Nat) : (s.switchRequest v).2.pending = s.pending := by
  unfold State.switchRequest
  grind [State.handOver_pending, State.modTwin_pending]

theorem State.mirrorWrite_pending (s : State) (i v : Nat) : (s.mirrorWrite i v).2.pending = s.pending := by
  unfold State.mirrorWrite
  grind [State.modTwin_pending]

theorem State.sendRange_pending (s : State) (entry off len tag : Nat) :
    (s.sendRange entry off len tag).pending = s.pending := by
  unfold State.sendRange
  extract_lets w k
  refine SameQueue.foldl (fun s i => ?_) _ s
  generalize hr : (List.range 4).foldl _ (0, [], s) = r
  have hr : Carries (fun p => p.2.2) s r := by
    rw [← hr]
    refine Carries.foldl (fun p j hp => ?_) _ (.of rfl)
    have h := SameQueue.of
      (p.2.2.agentRead_pending {twin := true} (mirrorBase w + off + 256 * i + 64 * j) (bits w.toNat 6 1))
    generalize State.agentRead _ _ _ _ = q at h ⊢
    obtain ⟨st, v, t⟩ := q
    exact SameQueue.trans hp h
  obtain ⟨pois, data, t⟩ := r
  refine SameQueue.trans hr (.of ?_)
  rw [State.emit_pending, State.modTwin_pending]

theorem State.pushRequest_pending (s : State) (restore : Bool) (req : List Byte) :
    (s.pushRequest restore req).2.pending = s.pending := by
  unfold State.pushRequest
  grind [State.modTwin_pending, State.twinCtl_pending, State.sendRange_pending]

theorem State.journalSend_pending (s : State) (rec' : Sector) : (s.journalSend rec').2.pending = s.pending := by
  unfold State.journalSend
  grind [State.twinCtl_pending]

/-! #### Observation -/

theorem State.obsEnable_pending (s : State) (v : Nat) : (s.obsEnable v).2.pending = s.pending := by
  unfold State.obsEnable
  dsimp only
  (repeat' split) <;> simp_all [foldl_pending, State.regDiscard_pending,
    State.octSettle_pending, State.modObs_pending, State.tasterArmAll_pending, State.budgetWrite_pending,
    State.modTrellis_pending]

/-! #### The cellar book -/

theorem State.ocselWrite_pending (s : State) (x : Nat) (d : List Byte) : (s.ocselWrite x d).pending = s.pending := by
  unfold State.ocselWrite
  rw [foldl_pending, State.octSettle_pending]
  exact fun s c => State.modCore_pending ..

theorem State.haltWrite_pending (s : State) (sub v : Nat) : (s.haltWrite sub v).2.pending = s.pending := by
  unfold State.haltWrite
  grind [State.modObs_pending, State.haltTrigger_pending, State.haltResume_pending]

theorem State.odWrite_pending (s : State) (i sub : Nat) (d : List Byte) :
    (s.odWrite i sub d).2.pending = s.pending := by
  unfold State.odWrite
  grind [State.substWrite_pending, State.readmitWrite_pending, State.addrWrite_pending, State.restoreWrite_pending,
    odSet_pending, State.versionCommit_pending, State.attestRequest_pending, State.keyWrite_pending,
    State.keySub_pending, State.resetWrite_pending, State.loaderTake_pending, State.imageTake_pending,
    State.licenceTake_pending, State.ptpDomain_pending, State.modTime_pending, State.modTwin_pending,
    State.switchRequest_pending, State.mirrorWrite_pending, State.pushRequest_pending, State.journalSend_pending,
    State.obsEnable_pending, State.tasterWrite_pending, State.modObs_pending, State.sinkWrite_pending,
    State.ocselWrite_pending, State.haltWrite_pending]

theorem State.segTake_pending (s : State) (ch : CbChan) (r : CbReq) (d : List Byte) :
    (s.segTake ch r d).2.pending = s.pending := by
  unfold State.segTake
  grind [State.imageTake_pending, State.odWrite_pending]

theorem State.bookWrite_pending (s : State) (ch : CbChan) (r : CbReq) : (s.bookWrite ch r).2.pending = s.pending := by
  unfold State.bookWrite
  grind [State.segTake_pending, State.odWrite_pending]

theorem State.bookDesc_pending (s : State) (r : CbReq) : (s.bookDesc r).2.pending = s.pending := by
  unfold State.bookDesc
  grind

theorem State.bookList_pending (s : State) (ch : CbChan) (r : CbReq) :
    (s.bookList ch r).2.pending = s.pending := by rfl

/-! #### Power and time -/

theorem State.powEvent_pending (s : State) (i : Nat) : (s.powEvent i).pending = s.pending := by rfl

theorem State.judgePower_pending (s : State) (x : Site) (m : PeriodMeas) :
    (s.judgePower x m).pending = s.pending := by
  unfold State.judgePower
  grind [State.modPow_pending, State.graftFence_pending, State.powEvent_pending]

theorem State.powerHist_pending (s : State) (m : PeriodMeas) : (s.powerHist m).pending = s.pending := by
  unfold State.powerHist
  dsimp only
  grind [foldl_pending, State.modPow_pending]

theorem State.sendBudget_pending (s : State) (x b : Nat) : (s.sendBudget x b).pending = s.pending := by rfl

theorem State.clamp_pending (s : State) : (s.clamp).pending = s.pending := by
  simp [State.clamp, foldl_pending, State.sendBudget_pending]

/-! #### The twin port -/

theorem State.classF_pending (s : State) (die code d0 : Nat) : (s.classF die code d0).pending = s.pending := by
  unfold State.classF
  grind [State.logEvent_pending, State.faultOn_pending, State.handOver_pending]

/-! #### Availability -/

theorem State.holdReset_pending (s : State) : (s.holdReset).pending = s.pending := by rfl

theorem State.railFault_pending (s : State) (j : Nat) : (s.railFault j).pending = s.pending := by
  simp [State.railFault, foldl_pending, apply_ite State.pending, State.graftFence_pending, State.siteOff_pending,
    State.siteFence_pending, State.caskFence_pending, State.classF_pending, State.epFence_pending,
    State.holdReset_pending]

/-! #### Power and time -/

theorem State.discipline_pending (s : State) (ofs : ℤ) : (s.discipline ofs).pending = s.pending := by
  unfold State.discipline
  grind [State.setLock_pending, State.modTime_pending, State.timeStep_pending, State.bump_pending]

/-! #### The twin port -/

theorem State.pairFail_pending (s : State) (finish : Bool) : (s.pairFail finish).pending = s.pending := by
  unfold State.pairFail
  grind [State.modTwin_pending, State.pairSend_pending]

theorem State.ctlTake_pending (s : State) (tagOk : Bool) (seq : Nat) :
    (s.ctlTake tagOk seq).2.pending = s.pending := by
  unfold State.ctlTake
  grind [State.modTwin_pending]

theorem State.pairDone_pending (s : State) : (s.pairDone).pending = s.pending := by
  unfold State.pairDone
  grind [State.modTwin_pending, State.bump_pending, State.setRole_pending]

theorem State.pushesByCount_pending (s : State) (a1 : Nat) : (s.pushesByCount a1).pending = s.pending := by
  induction a1 generalizing s with
  | zero => rfl
  | succ n ih =>
    unfold State.pushesByCount
    grind [State.pushEnd_pending]

theorem State.landFrame_pending (s : State) (entry moff pois : Nat) (data : List Sector) :
    (s.landFrame entry moff pois data).pending = s.pending := by
  unfold State.landFrame
  refine SameQueue.foldl (fun s j => ?_) (List.range 4) s
  exact .of (State.agentWrite_pending ..)

theorem State.pushAck_pending (s : State) (tag st : Nat) : (s.pushAck tag st).pending = s.pending := by
  unfold State.pushAck
  grind [State.twinCtl_pending, State.modTwin_pending]

theorem State.promote_pending (s : State) : (s.promote).pending = s.pending := by
  unfold State.promote
  grind [State.setRole_pending, State.modTwin_pending]

/-! #### Availability -/

theorem State.hubCritical_pending (s : State) : (s.hubCritical).pending = s.pending := by
  simp [State.hubCritical, foldl_pending, State.siteOff_pending, State.caskReset_pending,
    State.classF_pending]

/-! #### Security -/

theorem State.scrub_pending (s : State) (ch : Nat) : (s.scrub ch).pending = s.pending := by
  unfold State.scrub
  grind [State.modSec_pending, State.modEp_pending]

end Sys2Proof.Machine
end

section

namespace Sys2Proof.Machine

/-! ### What the commands do with the queue of waiting commands

Each command answers a next state, with the queue it found. -/

/-! #### Threads -/

theorem execLoad_keepsQueue (h : Hart) (n : ILen) (rs1 : RegNo) (imm : BitVec 12) (dst : LoadDst) (s : State) :
    KeepsQueue s (execLoad h n rs1 imm dst s) := by
  unfold execLoad
  grind [keepsQueue_next, State.issue_keepsQueue, State.trapIllegal_pending, State.memExec_pending]

theorem execStore_keepsQueue (h : Hart) (n : ILen) (rs1 : RegNo) (imm : BitVec 12) (src : StoreSrc) (s : State) :
    KeepsQueue s (execStore h n rs1 imm src s) := by
  unfold execStore
  grind [keepsQueue_next, State.issue_keepsQueue, State.trapIllegal_pending, State.memExec_pending]

theorem execLr_keepsQueue (h : Hart) (rd rs1 : RegNo) (dbl : Bool) (s : State) :
    KeepsQueue s (execLr h rd rs1 dbl s) := by
  unfold execLr
  grind [keepsQueue_next, State.issue_keepsQueue, State.memExec_pending]

theorem execSc_keepsQueue (h : Hart) (rd rs1 rs2 : RegNo) (dbl : Bool) (s : State) :
    KeepsQueue s (execSc h rd rs1 rs2 dbl s) := by
  unfold execSc
  grind [keepsQueue_next, State.issue_keepsQueue, State.memExec_pending]

theorem execThreadAmo_keepsQueue (h : Hart) (rd rs1 rs2 : RegNo) (op : AmoOp) (dbl : Bool) (s : State) :
    KeepsQueue s (execThreadAmo h rd rs1 rs2 op dbl s) := by
  unfold execThreadAmo
  grind [keepsQueue_next, State.issue_keepsQueue, State.memExec_pending]

theorem execFence_keepsQueue (h : Hart) (pred a2 : BitVec 4) (s : State) : KeepsQueue s (execFence h pred a2 s) := by
  unfold execFence
  grind [keepsQueue_next, State.issue_keepsQueue, State.modThr_pending]

theorem execFenceI_keepsQueue (h : Hart) (s : State) : KeepsQueue s (execFenceI h s) := by
  unfold execFenceI
  grind [keepsQueue_next, State.issue_keepsQueue, State.modThr_pending]

theorem execWfi_keepsQueue (h : Hart) (s : State) : KeepsQueue s (execWfi h s) := by
  unfold execWfi
  grind [keepsQueue_next, State.issue_keepsQueue, State.trapIllegal_pending, State.modThr_pending,
    State.modCtx_pending]

/-! #### Vector words -/

theorem execVectorInstr_keepsQueue (h : Hart) (w : BitVec 32) (s : State) : KeepsQueue s (execVectorInstr h w s) := by
  unfold execVectorInstr
  grind [keepsQueue_next, State.issue_keepsQueue, State.vecExec_pending]

/-! #### Threads -/

theorem execCsrAccess_keepsQueue (h : Hart) (op : CsrOp) (rd : RegNo) (src : CsrSrc) (csr : BitVec 12) (s : State) :
    KeepsQueue s (execCsrAccess h op rd src csr s) := by
  unfold execCsrAccess
  grind [keepsQueue_next, State.issue_keepsQueue, State.csrDo_pending]

theorem execPstatWrite_keepsQueue (h : Hart) (op : CsrOp) (rd : RegNo) (src : CsrSrc) (s : State) :
    KeepsQueue s (execPstatWrite h op rd src s) := by
  unfold execPstatWrite
  grind [keepsQueue_next, State.issue_keepsQueue, State.csrDo_pending]

theorem execCycflgWrite_keepsQueue (h : Hart) (op : CsrOp) (rd : RegNo) (src : CsrSrc) (s : State) :
    KeepsQueue s (execCycflgWrite h op rd src s) := by
  unfold execCycflgWrite
  grind [keepsQueue_next, State.issue_keepsQueue, State.csrDo_pending]

theorem execMhpmeventWrite_keepsQueue (h : Hart) (op : CsrOp) (rd : RegNo) (src : CsrSrc) (i : Fin 16) (s : State) :
    KeepsQueue s (execMhpmeventWrite h op rd src i s) := by
  unfold execMhpmeventWrite
  grind [keepsQueue_next, State.issue_keepsQueue, State.csrDo_pending]

theorem execPmpcfgWrite_keepsQueue (h : Hart) (op : CsrOp) (rd : RegNo) (src : CsrSrc) (i : Fin 2) (s : State) :
    KeepsQueue s (execPmpcfgWrite h op rd src i s) := by
  unfold execPmpcfgWrite
  grind [keepsQueue_next, State.issue_keepsQueue, State.csrDo_pending]

theorem execLipendWrite_keepsQueue (h : Hart) (n : ILen) (t : Fin 4) (v : Word) (s : State) :
    KeepsQueue s (execLipendWrite h n t v s) := by
  unfold execLipendWrite
  grind [keepsQueue_next, State.issue_keepsQueue, State.localInstr_pending]

theorem execLtcmpWrite_keepsQueue (h : Hart) (n : ILen) (t : Fin 4) (v : Word) (s : State) :
    KeepsQueue s (execLtcmpWrite h n t v s) := by
  unfold execLtcmpWrite
  grind [keepsQueue_next, State.issue_keepsQueue, State.localInstr_pending]

theorem execCoreLocalAccess_keepsQueue (h : Hart) (n : ILen) (kind : LocalKind) (off : BitVec 16) (lg : Fin 4)
    (rd : RegNo) (v : Word) (s : State) :
    KeepsQueue s (execCoreLocalAccess h n kind off lg rd v s) := by
  unfold execCoreLocalAccess
  grind [keepsQueue_next, State.issue_keepsQueue, State.modThr_pending, State.trapThr_pending,
    State.localInstr_pending]

theorem execLocalTimerMatch_keepsQueue (h : Hart) (s : State) : KeepsQueue s (execLocalTimerMatch h s) := by
  unfold execLocalTimerMatch
  grind [keepsQueue_next, State.modThr_pending]

theorem execThreadInterrupt_keepsQueue (h : Hart) (s : State) : KeepsQueue s (execThreadInterrupt h s) := by
  unfold execThreadInterrupt
  grind [keepsQueue_next, State.setThr_pending]

theorem execCoreResponse_keepsQueue (h : Hart) (tag : BitVec 12) (st : Status) (poison : Bool) (data : List Sector)
    (s : State) :
    KeepsQueue s (execCoreResponse h tag st poison data s) := by
  unfold execCoreResponse
  grind [keepsQueue_next, State.coreResponse_pending]

theorem execHostStoreAnswer_keepsQueue (h : Hart) (tag : BitVec 12) (st : Status) (s : State) :
    KeepsQueue s (execHostStoreAnswer h tag st s) := by
  unfold execHostStoreAnswer
  grind [keepsQueue_next, State.modTrellis_pending, State.modDie_pending, State.countStale_pending,
    State.releaseFor_pending, State.ctxLose_pending, State.replay_pending, State.adapterIssue_pending]

/-! #### Presses and decanters -/

theorem execPmac_keepsQueue (h : Hart) (w : BitVec 32) (s : State) : KeepsQueue s (execPmac h w s) := by
  unfold execPmac
  grind [keepsQueue_next, State.issue_keepsQueue, State.pressExec_pending]

theorem execPmacz_keepsQueue (h : Hart) (w : BitVec 32) (s : State) : KeepsQueue s (execPmacz h w s) := by
  unfold execPmacz
  grind [keepsQueue_next, State.issue_keepsQueue, State.pressExec_pending]

theorem execPmacv_keepsQueue (h : Hart) (w : BitVec 32) (s : State) : KeepsQueue s (execPmacv h w s) := by
  unfold execPmacv
  grind [keepsQueue_next, State.issue_keepsQueue, State.pressExec_pending]

theorem execPmaczv_keepsQueue (h : Hart) (w : BitVec 32) (s : State) : KeepsQueue s (execPmaczv h w s) := by
  unfold execPmaczv
  grind [keepsQueue_next, State.issue_keepsQueue, State.pressExec_pending]

theorem execPzero_keepsQueue (h : Hart) (w : BitVec 32) (s : State) : KeepsQueue s (execPzero h w s) := by
  unfold execPzero
  grind [keepsQueue_next, State.issue_keepsQueue, State.pressExec_pending]

theorem execPld_keepsQueue (h : Hart) (w : BitVec 32) (s : State) : KeepsQueue s (execPld h w s) := by
  unfold execPld
  grind [keepsQueue_next, State.issue_keepsQueue, State.pressExec_pending]

theorem execPst_keepsQueue (h : Hart) (w : BitVec 32) (s : State) : KeepsQueue s (execPst h w s) := by
  unfold execPst
  grind [keepsQueue_next, State.issue_keepsQueue, State.pressExec_pending]

theorem execPrdv_keepsQueue (h : Hart) (w : BitVec 32) (s : State) : KeepsQueue s (execPrdv h w s) := by
  unfold execPrdv
  grind [keepsQueue_next, State.issue_keepsQueue, State.pressExec_pending]

theorem execPwrv_keepsQueue (h : Hart) (w : BitVec 32) (s : State) : KeepsQueue s (execPwrv h w s) := by
  unfold execPwrv
  grind [keepsQueue_next, State.issue_keepsQueue, State.pressExec_pending]

theorem execPstc_keepsQueue (h : Hart) (w : BitVec 32) (s : State) : KeepsQueue s (execPstc h w s) := by
  unfold execPstc
  grind [keepsQueue_next, State.issue_keepsQueue, State.pressExec_pending]

theorem execPwait_keepsQueue (h : Hart) (w : BitVec 32) (s : State) : KeepsQueue s (execPwait h w s) := by
  unfold execPwait
  grind [keepsQueue_next, State.issue_keepsQueue, State.pressExec_pending]

theorem execPressInstrStart_keepsQueue (c : CoreId) (s : State) : KeepsQueue s (execPressInstrStart c s) := by
  unfold execPressInstrStart
  grind [keepsQueue_next, State.modCore_pending]

theorem execPressInstrComplete_keepsQueue (c : CoreId) (i : Fin 16) (s : State) :
    KeepsQueue s (execPressInstrComplete c i s) := by
  unfold execPressInstrComplete
  grind [keepsQueue_next, State.modCore_pending, State.coreEvent_pending, State.pressWake_pending, State.bump_pending]

theorem execVpackF_keepsQueue (h : Hart) (w : BitVec 32) (s : State) : KeepsQueue s (execVpackF h w s) := by
  unfold execVpackF
  grind [keepsQueue_next, State.issue_keepsQueue, State.convExec_pending]

theorem execVpackX_keepsQueue (h : Hart) (w : BitVec 32) (s : State) : KeepsQueue s (execVpackX h w s) := by
  unfold execVpackX
  grind [keepsQueue_next, State.issue_keepsQueue, State.convExec_pending]

theorem execVunpack_keepsQueue (h : Hart) (w : BitVec 32) (s : State) : KeepsQueue s (execVunpack h w s) := by
  unfold execVunpack
  grind [keepsQueue_next, State.issue_keepsQueue, State.convExec_pending]

theorem execVmxscl_keepsQueue (h : Hart) (w : BitVec 32) (s : State) : KeepsQueue s (execVmxscl h w s) := by
  unfold execVmxscl
  grind [keepsQueue_next, State.issue_keepsQueue, State.convExec_pending]

theorem execVmxenc_keepsQueue (h : Hart) (w : BitVec 32) (s : State) : KeepsQueue s (execVmxenc h w s) := by
  unfold execVmxenc
  grind [keepsQueue_next, State.issue_keepsQueue, State.convExec_pending]

theorem execVmxdec_keepsQueue (h : Hart) (w : BitVec 32) (s : State) : KeepsQueue s (execVmxdec h w s) := by
  unfold execVmxdec
  grind [keepsQueue_next, State.issue_keepsQueue, State.convExec_pending]

theorem execDinit_keepsQueue (h : Hart) (w : BitVec 32) (s : State) : KeepsQueue s (execDinit h w s) := by
  unfold execDinit
  grind [keepsQueue_next, State.issue_keepsQueue, State.pressExec_pending]

theorem execDkv_keepsQueue (h : Hart) (w : BitVec 32) (s : State) : KeepsQueue s (execDkv h w s) := by
  unfold execDkv
  grind [keepsQueue_next, State.issue_keepsQueue, State.pressExec_pending]

theorem execDfin_keepsQueue (h : Hart) (w : BitVec 32) (s : State) : KeepsQueue s (execDfin h w s) := by
  unfold execDfin
  grind [keepsQueue_next, State.issue_keepsQueue, State.pressExec_pending]

theorem execDsave_keepsQueue (h : Hart) (w : BitVec 32) (s : State) : KeepsQueue s (execDsave h w s) := by
  unfold execDsave
  grind [keepsQueue_next, State.issue_keepsQueue, State.pressExec_pending]

theorem execDload_keepsQueue (h : Hart) (w : BitVec 32) (s : State) : KeepsQueue s (execDload h w s) := by
  unfold execDload
  grind [keepsQueue_next, State.issue_keepsQueue, State.pressExec_pending]

/-! #### Barriers -/

theorem execBarw_keepsQueue (h : Hart) (w : BitVec 32) (s : State) : KeepsQueue s (execBarw h w s) := by
  unfold execBarw
  grind [keepsQueue_next, State.issue_keepsQueue, State.barInstr_pending, State.barWait_pending, State.arrive_pending,
    State.modThr_pending]

theorem execBara_keepsQueue (h : Hart) (w : BitVec 32) (s : State) : KeepsQueue s (execBara h w s) := by
  unfold execBara
  grind [keepsQueue_next, State.issue_keepsQueue, State.barInstr_pending, State.arrive_pending, State.modThr_pending]

theorem execBart_keepsQueue (h : Hart) (w : BitVec 32) (s : State) : KeepsQueue s (execBart h w s) := by
  unfold execBart
  grind [keepsQueue_next, State.issue_keepsQueue, State.barInstr_pending, State.modThr_pending]

theorem execBarwp_keepsQueue (h : Hart) (w : BitVec 32) (s : State) : KeepsQueue s (execBarwp h w s) := by
  unfold execBarwp
  grind [keepsQueue_next, State.issue_keepsQueue, State.barInstr_pending, State.barWait_pending]

theorem execBarrierArm_keepsQueue (who : Who) (chan : Byte) (locals : List (Site × Fin 1025)) (s : State) :
    KeepsQueue s (execBarrierArm who chan locals s) := by
  unfold execBarrierArm
  split
  · exact keepsQueue_next.2 rfl
  · exact keepsQueue_next.2 rfl
  · extract_lets ch ls t sites
    rw [keepsQueue_next, State.modBar_pending]
    exact foldl_pending (fun s x => State.modDie_pending ..) _ s

theorem execBarrierArrivalMsg_keepsQueue (chan : Byte) (x : Site) (s : State) :
    KeepsQueue s (execBarrierArrivalMsg chan x s) := by
  unfold execBarrierArrivalMsg
  rw [keepsQueue_next]
  dsimp only
  split
  · rfl
  split
  · rfl
  · exact (foldl_pending (fun s y => State.emit_pending ..) _ _).trans (State.modBar_pending ..)

theorem execBarrierRelease_keepsQueue (chan : Byte) (x : Site) (phase : Bool) (s : State) :
    KeepsQueue s (execBarrierRelease chan x phase s) := by
  unfold execBarrierRelease
  grind [keepsQueue_next, State.modDie_pending]

theorem execFsig_keepsQueue (h : Hart) (w : BitVec 32) (s : State) : KeepsQueue s (execFsig h w s) := by
  unfold execFsig
  grind [keepsQueue_next, State.issue_keepsQueue, State.fenceInstr_pending, State.modThr_pending,
    State.releaseDo_pending, State.modDie_pending]

theorem execFwait_keepsQueue (h : Hart) (w : BitVec 32) (s : State) : KeepsQueue s (execFwait h w s) := by
  unfold execFwait
  grind [keepsQueue_next, State.issue_keepsQueue, State.fenceInstr_pending, State.modThr_pending]

theorem execFread_keepsQueue (h : Hart) (w : BitVec 32) (s : State) : KeepsQueue s (execFread h w s) := by
  unfold execFread
  grind [keepsQueue_next, State.issue_keepsQueue, State.fenceInstr_pending, State.modThr_pending]

/-! #### Spare cores -/

theorem execClret_keepsQueue (who : Who) (x : Site) (v : Word) (s : State) : KeepsQueue s (execClret who x v s) := by
  unfold execClret
  grind [keepsQueue_next, State.mgmtWrite_pending, State.clret_pending]

theorem execClmapWrite_keepsQueue (who : Who) (x : Site) (n : Fin 16) (v : Word) (s : State) :
    KeepsQueue s (execClmapWrite who x n v s) := by
  unfold execClmapWrite
  grind [keepsQueue_next, State.mgmtWrite_pending, State.clmapWrite_pending]

theorem execSpareSubstitute_keepsQueue (x : Site) (cl pos : Fin 16) (s : State) :
    KeepsQueue s (execSpareSubstitute x cl pos s) := by
  unfold execSpareSubstitute
  grind [keepsQueue_next, State.substStart_pending]

theorem execSpareSelftestDone_keepsQueue (x : Site) (cl : Fin 16) (r : SelftestOut) (s : State) :
    KeepsQueue s (execSpareSelftestDone x cl r s) := by
  unfold execSpareSelftestDone
  grind [keepsQueue_next, State.substSave_pending, State.modCluster_pending, State.modDie_pending,
    State.retireCore_pending]

theorem execCoreTestDue_keepsQueue (x : Site) (cl pos : Fin 16) (s : State) :
    KeepsQueue s (execCoreTestDue x cl pos s) := by
  unfold execCoreTestDue
  grind [keepsQueue_next, State.modCluster_pending, State.substGo_pending]

theorem execCoreTestDone_keepsQueue (x : Site) (cl : Fin 16) (pass : Bool) (s : State) :
    KeepsQueue s (execCoreTestDone x cl pass s) := by
  unfold execCoreTestDone
  grind [keepsQueue_next, State.modCluster_pending, State.substSave_pending, State.retireCore_pending,
    State.substStart_pending]

theorem execZoneSample_keepsQueue (x : Site) (temps : List ℤ) (s : State) :
    KeepsQueue s (execZoneSample x temps s) := by
  unfold execZoneSample
  grind [keepsQueue_next, State.modDie_pending, State.modPow_pending, State.siteOff_pending, State.siteFence_pending,
    State.dieCritical_pending, State.dieCool_pending]

theorem execGovernorEval_keepsQueue (x : Site) (s : State) : KeepsQueue s (execGovernorEval x s) := by
  unfold execGovernorEval
  grind [keepsQueue_next, State.modDie_pending, State.bump_pending]

theorem execDroopStretch_keepsQueue (x : Site) (row : Fin 8) (s : State) :
    KeepsQueue s (execDroopStretch x row s) := by
  unfold execDroopStretch
  grind [keepsQueue_next, State.modDie_pending]

theorem execL2TagError_keepsQueue (x : Site) (bank : Fin 16) (set : BitVec 12) (uncorrectable : Bool) (s : State) :
    KeepsQueue s (execL2TagError x bank set uncorrectable s) := by
  unfold execL2TagError
  grind [keepsQueue_next, State.modDie_pending, State.bump_pending, State.emit_pending]

theorem execL2TagReport_keepsQueue (k : CaskId) (x : Site) (bank : Fin 16) (set : BitVec 12) (s : State) :
    KeepsQueue s (execL2TagReport k x bank set s) := by
  refine keepsQueue_next.2 ?_
  rw [State.modDie_pending]
  refine foldl_pending (fun s e => ?_) _ s
  grind [State.sendSnoops_pending, State.poisonLine_pending, State.modCask_pending, State.purgeLine_pending]

/-! #### Contexts that move -/

theorem execContextSave_keepsQueue (c : CoreId) (s : State) : KeepsQueue s (execContextSave c s) := by
  unfold execContextSave
  rw [keepsQueue_next]
  split
  · rfl
  next x _ =>
  split
  · rfl
  next why _ =>
  split
  · rfl
  have hsave := SameQueue.of (s.saveImage_pending c x)
  generalize s.saveImage c x = r at hsave ⊢
  split
  next t =>
    rw [State.failureReset_pending, State.saved_pending, State.modCtx_pending, State.modDie_pending,
      State.modCore_pending]
    exact hsave
  next t _ =>
    rw [State.failureReset_pending, State.substNext_pending, State.ctxLose_pending]
    exact hsave

theorem execContextLoad_keepsQueue (c : CoreId) (x : CtxId) (s : State) : KeepsQueue s (execContextLoad c x s) := by
  unfold execContextLoad
  grind [keepsQueue_next, State.loadCtx_pending]

theorem execContextSchedule_keepsQueue (x : CtxId) (s : State) : KeepsQueue s (execContextSchedule x s) := by
  unfold execContextSchedule
  rw [keepsQueue_next]
  split
  · rfl
  · extract_lets fr
    split
    · rw [State.emit_pending, State.bump_pending]
    split
    · split
      · rw [State.saveBegin_pending, State.bump_pending]
      · rfl
    · rfl

theorem execContextIdle_keepsQueue (c : CoreId) (s : State) : KeepsQueue s (execContextIdle c s) := by
  unfold execContextIdle
  grind [keepsQueue_next, State.modCtx_pending]

theorem execContextQuantumEnd_keepsQueue (c : CoreId) (s : State) : KeepsQueue s (execContextQuantumEnd c s) := by
  unfold execContextQuantumEnd
  grind [keepsQueue_next, State.modCtx_pending]

theorem execPreemptTimeout_keepsQueue (c : CoreId) (s : State) : KeepsQueue s (execPreemptTimeout c s) := by
  unfold execPreemptTimeout
  grind [keepsQueue_next, State.failureReset_pending, State.substNext_pending, State.ctxLose_pending]

/-! #### Racking engines -/

theorem execCopy_keepsQueue (e : EngId) (s : State) : KeepsQueue s (execCopy e s) := by
  unfold execCopy
  grind [keepsQueue_next, State.engineRun_pending]

theorem execStride_keepsQueue (e : EngId) (s : State) : KeepsQueue s (execStride e s) := by
  unfold execStride
  grind [keepsQueue_next, State.engineRun_pending]

theorem execTile2d_keepsQueue (e : EngId) (s : State) : KeepsQueue s (execTile2d e s) := by
  unfold execTile2d
  grind [keepsQueue_next, State.engineRun_pending]

theorem execZero_keepsQueue (e : EngId) (s : State) : KeepsQueue s (execZero e s) := by
  unfold execZero
  grind [keepsQueue_next, State.engineRun_pending]

theorem execReduce_keepsQueue (e : EngId) (s : State) : KeepsQueue s (execReduce e s) := by
  unfold execReduce
  grind [keepsQueue_next, State.engineRun_pending]

theorem execMerge_keepsQueue (e : EngId) (s : State) : KeepsQueue s (execMerge e s) := by
  unfold execMerge
  grind [keepsQueue_next, State.engineRun_pending]

theorem execKvcvt_keepsQueue (e : EngId) (s : State) : KeepsQueue s (execKvcvt e s) := by
  unfold execKvcvt
  grind [keepsQueue_next, State.engineRun_pending]

theorem execNop_keepsQueue (e : EngId) (s : State) : KeepsQueue s (execNop e s) := by
  unfold execNop
  grind [keepsQueue_next, State.setDesc_pending]

theorem execDescDispatch_keepsQueue (src : DispatchSrc) (e : EngId) (s : State) :
    KeepsQueue s (execDescDispatch src e s) := by
  unfold execDescDispatch
  grind [keepsQueue_next, State.dispatch_pending, State.fwSubmit_pending]

theorem execEngineYield_keepsQueue (e : EngId) (s : State) : KeepsQueue s (execEngineYield e s) := by
  unfold execEngineYield
  grind [keepsQueue_next, State.setDesc_pending]

theorem execTileCommit_keepsQueue (e : EngId) (s : State) : KeepsQueue s (execTileCommit e s) := by
  unfold execTileCommit
  grind [keepsQueue_next, State.setDesc_pending]

theorem execDescComplete_keepsQueue (src : DescSrc) (s : State) : KeepsQueue s (execDescComplete src s) := by
  unfold execDescComplete
  grind [keepsQueue_next, State.descFinish_pending]

/-! #### Coherence -/

theorem execRd_keepsQueue (r : HReq) (s : State) : KeepsQueue s (execRd r s) := by
  unfold execRd
  grind [keepsQueue_next, State.homeRequest_pending]

theorem execRds_keepsQueue (r : HReq) (s : State) : KeepsQueue s (execRds r s) := by
  unfold execRds
  grind [keepsQueue_next, State.homeRequest_pending]

theorem execRdx_keepsQueue (r : HReq) (s : State) : KeepsQueue s (execRdx r s) := by
  unfold execRdx
  grind [keepsQueue_next, State.homeRequest_pending]

theorem execWr_keepsQueue (r : HReq) (data : List Sector) (s : State) : KeepsQueue s (execWr r data s) := by
  unfold execWr
  grind [keepsQueue_next, State.homeRequest_pending]

theorem execWri_keepsQueue (r : HReq) (data : List Sector) (s : State) : KeepsQueue s (execWri r data s) := by
  unfold execWri
  grind [keepsQueue_next, State.homeRequest_pending]

theorem execWrp_keepsQueue (r : HReq) (mask : List Word) (data : List Sector) (s : State) :
    KeepsQueue s (execWrp r mask data s) := by
  unfold execWrp
  grind [keepsQueue_next, State.homeRequest_pending]

theorem execWrpoi_keepsQueue (r : HReq) (s : State) : KeepsQueue s (execWrpoi r s) := by
  unfold execWrpoi
  grind [keepsQueue_next, State.homeRequest_pending]

theorem execStash_keepsQueue (r : HReq) (data : List Sector) (s : State) : KeepsQueue s (execStash r data s) := by
  unfold execStash
  grind [keepsQueue_next, State.homeRequest_pending]

theorem execWb_keepsQueue (src : NI) (r : WbReq) (data : List Sector) (s : State) :
    KeepsQueue s (execWb src r data s) := by
  unfold execWb
  grind [keepsQueue_next, State.writeBack_pending]

theorem execAmo_keepsQueue (r : HReq) (operand : Sector) (s : State) : KeepsQueue s (execAmo r operand s) := by
  unfold execAmo
  grind [keepsQueue_next, State.homeDeny_pending, State.homeRequest_pending]

theorem execTrace_keepsQueue (r : HReq) (sink : Fin 4) (record : Sector) (s : State) :
    KeepsQueue s (execTrace r sink record s) := by
  unfold execTrace
  grind [keepsQueue_next, State.homeDeny_pending, State.answer_pending, State.traceWrite_pending,
    State.homeRecord_pending]

theorem execSnpInv_keepsQueue (x : Site) (pa : PA) (s : State) : KeepsQueue s (execSnpInv x pa s) := by
  unfold execSnpInv
  grind [keepsQueue_next, State.snoopArrive_pending]

theorem execSnoopRd_keepsQueue (x : Site) (pa : PA) (s : State) : KeepsQueue s (execSnoopRd x pa s) := by
  unfold execSnoopRd
  grind [keepsQueue_next, State.snoopArrive_pending]

theorem execSnoopRds_keepsQueue (x : Site) (pa : PA) (s : State) : KeepsQueue s (execSnoopRds x pa s) := by
  unfold execSnoopRds
  grind [keepsQueue_next, State.snoopArrive_pending]

theorem execSnoopRdx_keepsQueue (x : Site) (pa : PA) (s : State) : KeepsQueue s (execSnoopRdx x pa s) := by
  unfold execSnoopRdx
  grind [keepsQueue_next, State.snoopArrive_pending]

theorem execStashPush_keepsQueue (x : Site) (pa : PA) (data : Sector) (s : State) :
    KeepsQueue s (execStashPush x pa data s) := by
  unfold execStashPush
  grind [keepsQueue_next, State.snoopArrive_pending]

theorem execDeferredSnoopRelease_keepsQueue (x : Site) (pa : PA) (s : State) :
    KeepsQueue s (execDeferredSnoopRelease x pa s) := by
  refine keepsQueue_next.2 ?_
  split
  · rfl
  · exact foldl_pending (fun s q => s.snoopServe_pending ..) _ _

theorem execSecondaryResponse_keepsQueue (k : CaskId) (pa : PA) (x : Site) (st : Status)
    (data : Option (Sector × Bool)) (s : State) :
    KeepsQueue s (execSecondaryResponse k pa x st data s) := by
  unfold execSecondaryResponse
  grind [keepsQueue_next, State.secondary_pending]

theorem execRedirectResponse_keepsQueue (k : CaskId) (src : NI) (tag : BitVec 12) (st : Status)
    (data : List (Sector × Bool)) (s : State) :
    KeepsQueue s (execRedirectResponse k src tag st data s) := by
  unfold execRedirectResponse
  grind [keepsQueue_next, State.modTrellis_pending, State.modCask_pending, State.homeAnswer_pending,
    State.plainRead_pending, State.charge_pending]

/-! #### Casks -/

theorem execHeal_keepsQueue (entry : Fin 512) (off : BitVec 32) (copyOk : Bool) (s : State) :
    KeepsQueue s (execHeal entry off copyOk s) := by
  unfold execHeal
  grind [keepsQueue_next, State.logEvent_pending, State.caskJudge_pending, State.reserveMode_pending,
    State.healRange_pending]

theorem execReserveCopyWrite_keepsQueue (who : Who) (entry : Fin 512) (hi : Bool) (v : Word) (s : State) :
    KeepsQueue s (execReserveCopyWrite who entry hi v s) := by
  unfold execReserveCopyWrite
  grind [keepsQueue_next, State.atOwner_pending, State.ack_pending, State.reserveWrite_pending]

theorem execRefreshDue_keepsQueue (k : CaskId) (pc rank : Fin 32) (bank : Fin 16) (s : State) :
    KeepsQueue s (execRefreshDue k pc rank bank s) := by
  unfold execRefreshDue
  grind [keepsQueue_next, State.modCask_pending, State.bump_pending]

theorem execCaskTempSample_keepsQueue (k : CaskId) (temp : ℤ) (s : State) :
    KeepsQueue s (execCaskTempSample k temp s) := by
  unfold execCaskTempSample
  grind [keepsQueue_next, State.modPow_pending, State.modCask_pending, State.dieCritical_pending,
    State.caskFence_pending, State.dieCool_pending]

theorem execCaskCycle_keepsQueue (k : CaskId) (pc : Fin 32) (s : State) : KeepsQueue s (execCaskCycle k pc s) := by
  unfold execCaskCycle
  grind [keepsQueue_next, State.modCask_pending, State.bump_pending]

theorem execDqMarginSample_keepsQueue (k : CaskId) (pc : Fin 32) (a2 : Fin 66) (margin : Nat) (s : State) :
    KeepsQueue s (execDqMarginSample k pc a2 margin s) := by
  unfold execDqMarginSample
  grind [keepsQueue_next, State.caskJudge_pending, State.takeStave_pending]

theorem execCaParityError_keepsQueue (k : CaskId) (pc : Fin 32) (lane : Fin 8) (s : State) :
    KeepsQueue s (execCaParityError k pc lane s) := by
  unfold execCaParityError
  grind [keepsQueue_next, State.modCask_pending, State.takeStave_pending]

theorem execRowRepair_keepsQueue (k : CaskId) (pc rank : Fin 32) (bank : Fin 16) (row : BitVec 14) (s : State) :
    KeepsQueue s (execRowRepair k pc rank bank row s) := by
  unfold execRowRepair
  grind [keepsQueue_next, State.rowRepair_pending]

theorem execFrameRetire_keepsQueue (k : CaskId) (frame : BitVec 20) (s : State) :
    KeepsQueue s (execFrameRetire k frame s) := by
  unfold execFrameRetire
  grind [keepsQueue_next, State.frameRetire_pending]

theorem execCaskPoisonFillDone_keepsQueue (k : CaskId) (s : State) : KeepsQueue s (execCaskPoisonFillDone k s) := by
  unfold execCaskPoisonFillDone
  grind [keepsQueue_next, State.modCask_pending, State.nisReady_pending]

theorem execTgStart_keepsQueue (who : Who) (k : CaskId) (pc : Fin 32) (ctl : Byte) (s : State) :
    KeepsQueue s (execTgStart who k pc ctl s) := by
  unfold execTgStart
  grind [keepsQueue_next, State.mgmtWrite_pending, State.modCask_pending]

theorem execTgStop_keepsQueue (who : Who) (k : CaskId) (pc : Fin 32) (s : State) :
    KeepsQueue s (execTgStop who k pc s) := by
  unfold execTgStop
  grind [keepsQueue_next, State.mgmtWrite_pending, State.modCask_pending]

theorem execTgRunEnd_keepsQueue (k : CaskId) (pc : Fin 32) (s : State) : KeepsQueue s (execTgRunEnd k pc s) := by
  unfold execTgRunEnd
  grind [keepsQueue_next, State.modCask_pending, State.bump_pending]

/-! #### The trellis -/

theorem execRouterReceive_keepsQueue (r : RouterId) (p : Plane) (input : Fin 5) (h0 h1 : Word) (payload : List Sector)
    (s : State) :
    KeepsQueue s (execRouterReceive r p input h0 h1 payload s) := by
  unfold execRouterReceive
  grind [keepsQueue_next, State.trellisRun_pending, State.receive_pending, State.modTrellis_pending]

theorem execTasterRecordSend_keepsQueue (i : RouterId) (s : State) : KeepsQueue s (execTasterRecordSend i s) := by
  unfold execTasterRecordSend
  grind [keepsQueue_next, State.setCls_pending, State.ask_pending, State.emit_pending, State.bump_pending]

theorem execRouteEntryWrite_keepsQueue (who : Who) (ni d : NI) (v : Word) (s : State) :
    KeepsQueue s (execRouteEntryWrite who ni d v s) := by
  unfold execRouteEntryWrite
  grind [keepsQueue_next, State.mgmtWrite_pending, State.routeWrite_pending]

theorem execRouteChangeApply_keepsQueue (ni d : NI) (s : State) : KeepsQueue s (execRouteChangeApply ni d s) := by
  unfold execRouteChangeApply
  grind [keepsQueue_next, State.routeApply_pending]

theorem execTagTimeout_keepsQueue (ni : NI) (tag : BitVec 12) (s : State) :
    KeepsQueue s (execTagTimeout ni tag s) := by
  unfold execTagTimeout
  grind [keepsQueue_next, State.modNi_pending, State.modTrellis_pending, State.localDone_pending,
    State.logEvent_pending]

theorem execTagQuarantineEnd_keepsQueue (ni : NI) (tag : BitVec 12) (s : State) :
    KeepsQueue s (execTagQuarantineEnd ni tag s) := by
  unfold execTagQuarantineEnd
  grind [keepsQueue_next, State.modNi_pending]

theorem execBungRegWrite_keepsQueue (who : Who) (ni : NI) (v : Word) (s : State) :
    KeepsQueue s (execBungRegWrite who ni v s) := by
  unfold execBungRegWrite
  grind [keepsQueue_next, State.mgmtWrite_pending, State.modNi_pending, State.bungEngage_pending]

theorem execBungRelease_keepsQueue (ni : NI) (s : State) : KeepsQueue s (execBungRelease ni s) := by
  unfold execBungRelease
  grind [keepsQueue_next, State.bungRelease_pending]

/-! #### Availability -/

theorem execEndpointDomainReset_keepsQueue (d : Domain) (s : State) : KeepsQueue s (execEndpointDomainReset d s) := by
  unfold execEndpointDomainReset
  grind [keepsQueue_next, State.domainReset_pending]

theorem execPartitionReset_keepsQueue (ds : List Domain) (s : State) : KeepsQueue s (execPartitionReset ds s) := by
  refine keepsQueue_next.2 ?_
  rw [foldl_pending (fun s d => s.domainReset_pending d), State.modTrellis_pending,
    foldl_pending (fun s d => s.bungAll_pending d)]

/-! #### The trellis -/

theorem execLinkRetire_keepsQueue (r : RouterId) (p : Plane) (d : Dir) (s : State) :
    KeepsQueue s (execLinkRetire r p d s) := by
  unfold execLinkRetire
  grind [keepsQueue_next, State.linkRetire_pending]

theorem execLinkHealthWindowEnd_keepsQueue (r : RouterId) (p : Plane) (d : Dir) (s : State) :
    KeepsQueue s (execLinkHealthWindowEnd r p d s) := by
  unfold execLinkHealthWindowEnd
  grind [keepsQueue_next, State.modLnk_pending, State.linkRetire_pending]

/-! #### Regulators -/

theorem execRegulatorWindowEnd_keepsQueue (s : State) : KeepsQueue s (execRegulatorWindowEnd s) := by
  unfold execRegulatorWindowEnd
  grind [keepsQueue_next]

/-! #### The trellis -/

theorem execNiInject_keepsQueue (ni : NI) (q : NReq) (data : List Sector) (s : State) :
    KeepsQueue s (execNiInject ni q data s) := by
  unfold execNiInject
  grind [keepsQueue_next, State.inject_pending]

/-! #### Regulators -/

theorem execBudgetWrite_keepsQueue (who : Who) (ni : NI) (c : Fin 5) (v : Word) (s : State) :
    KeepsQueue s (execBudgetWrite who ni c v s) := by
  unfold execBudgetWrite
  grind [keepsQueue_next, State.mgmtWrite_pending, State.budgetWrite_pending]

theorem execOwnerWrite_keepsQueue (who : Who) (k : CaskId) (g : BitVec 15) (v : Word) (s : State) :
    KeepsQueue s (execOwnerWrite who k g v s) := by
  unfold execOwnerWrite
  grind [keepsQueue_next, State.atOwner_pending, State.driverWrite_pending, State.ownerWrite_pending]

theorem execShareWrite_keepsQueue (who : Who) (k : CaskId) (a : BitVec 7) (v : Word) (s : State) :
    KeepsQueue s (execShareWrite who k a v s) := by
  unfold execShareWrite
  grind [keepsQueue_next, State.atOwner_pending, State.driverWrite_pending, State.shareWrite_pending]

/-! #### Die links -/

theorem execFrameReceive_keepsQueue (a : LinkId) (m : Fin 8) (toHub : Bool) (cw0 cw1 : Word) (payload : List Sector)
    (s : State) :
    KeepsQueue s (execFrameReceive a m toHub cw0 cw1 payload s) := by
  unfold execFrameReceive
  generalize decodeHalf cw0 = r
  generalize decodeHalf cw1 = q
  obtain ⟨h0, e0⟩ := r
  obtain ⟨h1, e1⟩ := q
  dsimp -zeta only
  extract_lets d next t u v seq gap gap' w x y z
  have hu : SameQueue s u := by
    unfold u t
    grind [SameQueue, State.laneCorrected_pending]
  clear_value u
  have hy : SameQueue u y := by
    refine .of ((State.linkDrain_pending ..).trans ((State.modDir_pending ..).trans ?_))
    unfold w v
    grind [State.lostSend_pending, State.halfBad_pending]
  clear_value y seq
  have hz : SameQueue y z := .of (State.handOn_pending ..)
  clear_value z
  rw [keepsQueue_next]
  change SameQueue s _
  split
  · exact .of rfl
  split
  · exact hu.trans (.of ((State.lostSend_pending ..).trans ((State.modDir_pending ..).trans (State.halfBad_pending ..))))
  split
  · exact (hu.trans hy).trans (.of (State.handOn_pending ..))
  · exact ((hu.trans hy).trans hz).trans (.foldl (fun s j => .of (State.takeEntry_pending ..)) _ z)
  · exact hu.trans hy

theorem execIdent_keepsQueue (a : LinkId) (w : Word) (s : State) : KeepsQueue s (execIdent a w s) := by
  unfold execIdent
  grind [keepsQueue_next, State.modLink_pending, State.rejectDie_pending, State.emit_pending]

theorem execIdreq_keepsQueue (a : LinkId) (s : State) : KeepsQueue s (execIdreq a s) := by
  unfold execIdreq
  grind [keepsQueue_next, State.emit_pending, State.bump_pending]

theorem execIdentTimeout_keepsQueue (a : LinkId) (s : State) : KeepsQueue s (execIdentTimeout a s) := by
  unfold execIdentTimeout
  grind [keepsQueue_next, State.emit_pending, State.modLink_pending, State.rejectDie_pending, State.bump_pending]

theorem execCaprd_keepsQueue (x : Site) (idx : Byte) (s : State) : KeepsQueue s (execCaprd x idx s) := by
  unfold execCaprd
  grind [keepsQueue_next, State.modLink_pending, State.bump_pending, State.emit_pending]

theorem execCapdat_keepsQueue (x : Site) (w : Word) (s : State) : KeepsQueue s (execCapdat x w s) := by
  unfold execCapdat
  grind [keepsQueue_next, State.modGate_pending, State.modLink_pending]

theorem execCapset_keepsQueue (x : Site) (w : Word) (s : State) : KeepsQueue s (execCapset x w s) := by
  unfold execCapset
  grind [keepsQueue_next, State.emit_pending, State.modGate_pending, State.bump_pending]

theorem execCapack_keepsQueue (x : Site) (w : Word) (s : State) : KeepsQueue s (execCapack x w s) := by
  unfold execCapack
  grind [keepsQueue_next, State.graftFence_pending]

/-! #### Power and time -/

theorem execBudget_keepsQueue (x : Site) (w : Word) (s : State) : KeepsQueue s (execBudget x w s) := by
  unfold execBudget
  grind [keepsQueue_next, State.modLink_pending]

theorem execReport_keepsQueue (x : Site) (w : Word) (s : State) : KeepsQueue s (execReport x w s) := by
  unfold execReport
  grind [keepsQueue_next, State.modPow_pending, State.graftFence_pending, State.dieCritical_pending]

/-! #### Die links -/

theorem execRetrain_keepsQueue (a : LinkId) (toHub : Bool) (w : Word) (s : State) :
    KeepsQueue s (execRetrain a toHub w s) := by
  unfold execRetrain
  grind [keepsQueue_next, State.modMod_pending, State.emit_pending]

theorem execLost_keepsQueue (a : LinkId) (a1 : Fin 8) (toHub : Bool) (w : Word) (s : State) :
    KeepsQueue s (execLost a a1 toHub w s) := by
  unfold execLost
  grind [keepsQueue_next, State.lostCommand_pending]

theorem execSidebandFence_keepsQueue (a : LinkId) (w : Word) (s : State) :
    KeepsQueue s (execSidebandFence a w s) := by
  unfold execSidebandFence
  grind [keepsQueue_next, State.modLink_pending]

theorem execRemap_keepsQueue (a : LinkId) (w : Word) (s : State) : KeepsQueue s (execRemap a w s) := by
  unfold execRemap
  grind [keepsQueue_next, State.modLink_pending]

theorem execLinkTrain_keepsQueue (a : LinkId) (m : Fin 8) (s : State) : KeepsQueue s (execLinkTrain a m s) := by
  unfold execLinkTrain
  grind [keepsQueue_next, State.modMod_pending]

theorem execLinkTrainDone_keepsQueue (a : LinkId) (m : Fin 8) (tries : List TrainTry) (s : State) :
    KeepsQueue s (execLinkTrainDone a m tries s) := by
  unfold execLinkTrainDone
  grind [keepsQueue_next, State.trainEnd_pending, State.dieSettled_pending]

theorem execLaneCorrectedThreshold_keepsQueue (a : LinkId) (m : Fin 8) (toHub : Bool) (lane : Fin 68) (s : State) :
    KeepsQueue s (execLaneCorrectedThreshold a m toHub lane s) := by
  unfold execLaneCorrectedThreshold
  grind [keepsQueue_next, State.emit_pending, State.logEvent_pending]

theorem execLaneHourEnd_keepsQueue (a : LinkId) (m : Fin 8) (toHub : Bool) (s : State) :
    KeepsQueue s (execLaneHourEnd a m toHub s) := by
  unfold execLaneHourEnd
  grind [keepsQueue_next, State.modDir_pending, State.modMod_pending, State.beginRetrain_pending]

theorem execBaselineCaptured_keepsQueue (a : LinkId) (m : Fin 8) (toHub : Bool) (s : State) :
    KeepsQueue s (execBaselineCaptured a m toHub s) := by
  unfold execBaselineCaptured
  grind [keepsQueue_next, State.modDir_pending]

theorem execJudgedRetrain_keepsQueue (a : LinkId) (m : Fin 8) (urgent : Bool) (s : State) :
    KeepsQueue s (execJudgedRetrain a m urgent s) := by
  unfold execJudgedRetrain
  grind [keepsQueue_next, State.beginRetrain_pending]

/-! #### Availability -/

theorem execModuleFailure_keepsQueue (a : LinkId) (m : Fin 8) (s : State) :
    KeepsQueue s (execModuleFailure a m s) := by
  unfold execModuleFailure
  extract_lets x t
  have ht : t.pending = s.pending := State.modMod_pending ..
  clear_value x t
  rw [keepsQueue_next]
  split
  · rfl
  split
  next x _ =>
    rw [State.failureReset_pending, State.modLink_pending, State.emit_pending, foldl_pending, State.wear_pending, ht]
    intro s c
    grind [State.ctxLose_pending, State.saveBegin_pending]
  · grind [State.epFence_pending, State.wear_pending]
  · rw [State.mgdLoss_pending, ht]
  · exact ht

/-! #### Grafts -/

theorem execGraftRequest_keepsQueue (x : Site) (q : GReq) (s : State) : KeepsQueue s (execGraftRequest x q s) := by
  unfold execGraftRequest
  grind [keepsQueue_next, State.graftRequest_pending, State.refuseGraft_pending, State.modGate_pending]

theorem execGraftResponse_keepsQueue (x : Site) (m : Fin 8) (tag : BitVec 12) (st : Status)
    (data : List (Sector × Bool)) (s : State) :
    KeepsQueue s (execGraftResponse x m tag st data s) := by
  unfold execGraftResponse
  grind [keepsQueue_next, State.apertureNext_pending, State.answerInto_pending, State.modGate_pending,
    State.violate_pending]

theorem execApertureRequest_keepsQueue (x : Site) (q : NReq) (src : NI) (data : List Sector) (s : State) :
    KeepsQueue s (execApertureRequest x q src data s) := by
  unfold execApertureRequest
  grind [keepsQueue_next, State.turnAway_pending, State.bungCount_pending, State.gateDiscard_pending,
    State.answer_pending, State.recordAs_pending, State.modGate_pending, State.apertureSend_pending]

theorem execGraftAnswerOverdue_keepsQueue (x : Site) (m : Fin 8) (tag : BitVec 12) (s : State) :
    KeepsQueue s (execGraftAnswerOverdue x m tag s) := by
  unfold execGraftAnswerOverdue
  grind [keepsQueue_next, State.answerInto_pending, State.modGate_pending, State.apertureNext_pending,
    State.graftFence_pending]

theorem execGateRuleWrite_keepsQueue (who : Who) (x : Site) (rule : Fin 16) (word : Fin 4) (v : Word) (s : State) :
    KeepsQueue s (execGateRuleWrite who x rule word v s) := by
  unfold execGateRuleWrite
  grind [keepsQueue_next, State.atOwner_pending, State.ack_pending, State.gateDiscard_pending, State.modGate_pending]

theorem execGateCtlWrite_keepsQueue (who : Who) (x : Site) (v : Word) (s : State) :
    KeepsQueue s (execGateCtlWrite who x v s) := by
  unfold execGateCtlWrite
  grind [keepsQueue_next, State.mgmtWrite_pending, State.gateDiscard_pending, State.modGate_pending,
    State.gateResume_pending]

theorem execGraftFence_keepsQueue (x : Site) (cause : Fin 8) (s : State) :
    KeepsQueue s (execGraftFence x cause s) := by
  unfold execGraftFence
  grind [keepsQueue_next, State.graftFence_pending]

theorem execGraftSecondEnd_keepsQueue (x : Site) (s : State) : KeepsQueue s (execGraftSecondEnd x s) := by
  unfold execGraftSecondEnd
  grind [keepsQueue_next, State.modGate_pending, State.graftFence_pending]

theorem execAdmission_keepsQueue (x : Site) (e : AdmEvidence) (s : State) : KeepsQueue s (execAdmission x e s) := by
  unfold execAdmission
  grind [keepsQueue_next, State.siteResult_pending, State.graftFence_pending, State.admissionSeen_pending,
    State.admitSite_pending]

theorem execAdmissionStepTimeout_keepsQueue (x : Site) (step : Fin 16) (s : State) :
    KeepsQueue s (execAdmissionStepTimeout x step s) := by
  unfold execAdmissionStepTimeout
  grind [keepsQueue_next, State.graftFence_pending, State.modGate_pending]

theorem execGraftReadmit_keepsQueue (x : Site) (s : State) : KeepsQueue s (execGraftReadmit x s) := by
  unfold execGraftReadmit
  grind [keepsQueue_next, State.graftReadmit_pending]

/-! #### Power and time -/

theorem execTimebaseStep_keepsQueue (who : Who) (v : Word) (s : State) : KeepsQueue s (execTimebaseStep who v s) := by
  unfold execTimebaseStep
  grind [keepsQueue_next, State.ack_pending, State.timeStep_pending]

/-! #### Contexts, queues and fences -/

theorem execContextSlotWrite_keepsQueue (who : Who) (x : CtxId) (word : Fin 16) (v : Word) (s : State) :
    KeepsQueue s (execContextSlotWrite who x word v s) := by
  unfold execContextSlotWrite
  grind [keepsQueue_next, State.atOwner_pending, State.hubWrite_pending, State.modCtx_pending]

theorem execQueueSlotWrite_keepsQueue (who : Who) (q : QId) (word : Fin 8) (v : Word) (s : State) :
    KeepsQueue s (execQueueSlotWrite who q word v s) := by
  unfold execQueueSlotWrite
  grind [keepsQueue_next, State.atOwner_pending, State.hubWrite_pending, State.modQueue_pending]

theorem execFenceCfgWrite_keepsQueue (who : Who) (f : FenceId) (word : Fin 8) (v : Word) (s : State) :
    KeepsQueue s (execFenceCfgWrite who f word v s) := by
  unfold execFenceCfgWrite
  grind [keepsQueue_next, State.atOwner_pending, State.hubWrite_pending, State.fenceWrite_pending]

theorem execCtxcreate_keepsQueue (b : Fin 4) (x : CtxId) (s : State) : KeepsQueue s (execCtxcreate b x s) := by
  unfold execCtxcreate
  grind [keepsQueue_next, State.cmdGo_pending, State.ctxCreate_pending]

theorem execCtxdestroy_keepsQueue (b : Fin 4) (x : CtxId) (s : State) : KeepsQueue s (execCtxdestroy b x s) := by
  unfold execCtxdestroy
  grind [keepsQueue_next, State.cmdGo_pending, State.ctxDestroy_pending]

theorem execCtxabort_keepsQueue (b : Fin 4) (x : CtxId) (s : State) : KeepsQueue s (execCtxabort b x s) := by
  unfold execCtxabort
  grind [keepsQueue_next, State.cmdGo_pending, State.ctxAbort_pending]

theorem execCtxpreempt_keepsQueue (b : Fin 4) (x : CtxId) (s : State) : KeepsQueue s (execCtxpreempt b x s) := by
  unfold execCtxpreempt
  grind [keepsQueue_next, State.cmdGo_pending, State.ctxPreempt_pending]

theorem execQenable_keepsQueue (b : Fin 4) (q : QId) (s : State) : KeepsQueue s (execQenable b q s) := by
  unfold execQenable
  grind [keepsQueue_next, State.cmdGo_pending, State.qEnable_pending]

theorem execQdisable_keepsQueue (b : Fin 4) (q : QId) (s : State) : KeepsQueue s (execQdisable b q s) := by
  unfold execQdisable
  grind [keepsQueue_next, State.cmdGo_pending, State.qDisable_pending]

theorem execQresume_keepsQueue (b : Fin 4) (q : QId) (s : State) : KeepsQueue s (execQresume b q s) := by
  unfold execQresume
  grind [keepsQueue_next, State.cmdGo_pending, State.qResume_pending]

theorem execFarm_keepsQueue (b : Fin 4) (f : FenceId) (s : State) : KeepsQueue s (execFarm b f s) := by
  unfold execFarm
  grind [keepsQueue_next, State.cmdGo_pending, State.fArm_pending]

theorem execFsignal_keepsQueue (b : Fin 4) (f : FenceId) (s : State) : KeepsQueue s (execFsignal b f s) := by
  unfold execFsignal
  grind [keepsQueue_next, State.cmdGo_pending, State.fenceSig_pending]

theorem execFabandon_keepsQueue (b : Fin 4) (f : FenceId) (s : State) : KeepsQueue s (execFabandon b f s) := by
  unfold execFabandon
  grind [keepsQueue_next, State.cmdGo_pending, State.fAbandon_pending]

theorem execFdisarm_keepsQueue (b : Fin 4) (f : FenceId) (s : State) : KeepsQueue s (execFdisarm b f s) := by
  unfold execFdisarm
  grind [keepsQueue_next, State.cmdGo_pending, State.fDisarm_pending]

theorem execCoreDoorbell_keepsQueue (who : Who) (q : QId) (v : Word) (s : State) :
    KeepsQueue s (execCoreDoorbell who q v s) := by
  unfold execCoreDoorbell
  grind [keepsQueue_next, State.atOwner_pending, State.ack_pending, State.ringDoorbell_pending,
    State.dbDiscard_pending]

/-! #### Translation blocks -/

theorem execFaultQueueWrite_keepsQueue (who : Who) (x : SliceId) (word : Fin 8) (v : Word) (s : State) :
    KeepsQueue s (execFaultQueueWrite who x word v s) := by
  unfold execFaultQueueWrite
  grind [keepsQueue_next, State.atOwner_pending, State.hubWrite_pending, State.fqWrite_pending]

theorem execInvctx_keepsQueue (b : Fin 4) (idx : BitVec 16) (s : State) : KeepsQueue s (execInvctx b idx s) := by
  unfold execInvctx
  grind [keepsQueue_next, State.xcmdGo_pending, State.invCtx_pending]

theorem execInvva_keepsQueue (b : Fin 4) (idx : BitVec 16) (s : State) : KeepsQueue s (execInvva b idx s) := by
  unfold execInvva
  grind [keepsQueue_next, State.xcmdGo_pending, State.invVa_pending]

theorem execInvslice_keepsQueue (b : Fin 4) (idx : BitVec 16) (s : State) : KeepsQueue s (execInvslice b idx s) := by
  unfold execInvslice
  grind [keepsQueue_next, State.xcmdGo_pending, State.invSlice_pending]

theorem execInvipa_keepsQueue (b : Fin 4) (idx : BitVec 16) (s : State) : KeepsQueue s (execInvipa b idx s) := by
  unfold execInvipa
  grind [keepsQueue_next, State.xcmdGo_pending, State.invIpa_pending]

theorem execInvall_keepsQueue (b : Fin 4) (idx : BitVec 16) (s : State) : KeepsQueue s (execInvall b idx s) := by
  unfold execInvall
  grind [keepsQueue_next, State.xcmdGo_pending, State.invAllCmd_pending]

theorem execXresume_keepsQueue (b : Fin 4) (idx : BitVec 16) (s : State) : KeepsQueue s (execXresume b idx s) := by
  unfold execXresume
  grind [keepsQueue_next, State.xcmdGo_pending, State.xResume_pending]

/-! #### Slices -/

theorem execSliceEntryWrite_keepsQueue (who : Who) (x : SliceId) (word : Fin 16) (v : Word) (s : State) :
    KeepsQueue s (execSliceEntryWrite who x word v s) := by
  unfold execSliceEntryWrite
  grind [keepsQueue_next, State.atOwner_pending, State.hubWrite_pending, State.sliceWrite_pending]

theorem execSlcreate_keepsQueue (b : Fin 4) (x : SliceId) (s : State) : KeepsQueue s (execSlcreate b x s) := by
  unfold execSlcreate
  grind [keepsQueue_next, State.scmdGo_pending, State.slCreate_pending]

theorem execSlfreeze_keepsQueue (b : Fin 4) (x : SliceId) (s : State) : KeepsQueue s (execSlfreeze b x s) := by
  unfold execSlfreeze
  grind [keepsQueue_next, State.scmdGo_pending, State.slFreeze_pending]

theorem execSlthaw_keepsQueue (b : Fin 4) (x : SliceId) (s : State) : KeepsQueue s (execSlthaw b x s) := by
  unfold execSlthaw
  grind [keepsQueue_next, State.scmdGo_pending, State.slThaw_pending]

/-! #### Bottling -/

theorem execSlbottle_keepsQueue (b : Fin 4) (x : SliceId) (s : State) : KeepsQueue s (execSlbottle b x s) := by
  unfold execSlbottle
  grind [keepsQueue_next, State.scmdGo_pending, State.slBottle_pending]

theorem execSluncork_keepsQueue (b : Fin 4) (x : SliceId) (s : State) : KeepsQueue s (execSluncork b x s) := by
  unfold execSluncork
  grind [keepsQueue_next, State.scmdGo_pending, State.slUncork_pending]

/-! #### Slices -/

theorem execSlreset_keepsQueue (b : Fin 4) (x : SliceId) (s : State) : KeepsQueue s (execSlreset b x s) := by
  unfold execSlreset
  grind [keepsQueue_next, State.scmdGo_pending, State.sliceReset_pending]

theorem execSlremove_keepsQueue (b : Fin 4) (x : SliceId) (s : State) : KeepsQueue s (execSlremove b x s) := by
  unfold execSlremove
  grind [keepsQueue_next, State.scmdGo_pending, State.sliceReset_pending]

/-! #### Host accesses -/

theorem execSegmentWrite_keepsQueue (e : Ep) (i : Fin 64) (v : Word) (s : State) :
    KeepsQueue s (execSegmentWrite e i v s) := by
  unfold execSegmentWrite
  grind [keepsQueue_next, State.segWrite_pending]

theorem execApertureRead_keepsQueue (e : Ep) (off : BitVec 42) (len : Fin 4097) (s : State) :
    KeepsQueue s (execApertureRead e off len s) := by
  unfold execApertureRead
  grind [keepsQueue_next, State.hostLater_pending, State.apRead_pending]

theorem execApertureWrite_keepsQueue (e : Ep) (off : BitVec 42) (data : List Byte) (poisoned : Bool) (s : State) :
    KeepsQueue s (execApertureWrite e off data poisoned s) := by
  unfold execApertureWrite
  extract_lets h g pa t
  have ht : SameQueue s t := by
    unfold t
    split
    · exact .of (State.aer_pending ..)
    · exact .of rfl
  clear_value t h g pa
  have hrefuse : ∀ u k, SameQueue s u → SameQueue s ((u.apRefuse e).wrErr e k) := fun u k hu =>
    hu.trans (.of ((State.wrErr_pending ..).trans (State.apRefuse_pending ..)))
  rw [keepsQueue_next]
  change SameQueue s _
  split
  · exact .of rfl
  split
  · exact hrefuse t _ ht
  split
  · exact hrefuse t _ ht
  have hdone : ∀ r : Status × State, Carries Prod.snd t r →
      SameQueue s (match r with | (st, u) => if st = .ok then u else (u.apRefuse e).wrErr e .ca) := fun r hr => by
    obtain ⟨st, u⟩ := r
    dsimp only
    split
    · exact ht.trans hr
    · exact hrefuse u _ (ht.trans hr)
  by_cases hp : poisoned = true
  · rw [if_pos hp]
    have hwrite := fun (u : State) (a : Nat) =>
      SameQueue.of (u.agentWrite_pending (epRights e) .wrpoi a (bits g 7 2) 0 0)
    obtain ⟨write, hw⟩ : ∃ write, @State.agentWrite = write := ⟨_, rfl⟩
    rw [hw] at hwrite ⊢
    refine hdone _ (Carries.foldl (fun p i hp => ?_) _ (.of rfl))
    exact SameQueue.trans hp (hwrite p.2 _)
  · rw [if_neg hp]
    exact hdone _ (.of (State.agentPut_pending ..))

theorem execDoorbellWrite_keepsQueue (e : Ep) (off : BitVec 26) (size : Fin 9) (data : Word) (poisoned : Bool)
    (s : State) :
    KeepsQueue s (execDoorbellWrite e off size data poisoned s) := by
  unfold execDoorbellWrite
  grind [keepsQueue_next, State.hostLater_pending, State.dbWrite_pending]

/-! #### Bring-up -/

theorem execWarmResetRequest_keepsQueue (a0 : Ep) (s : State) : KeepsQueue s (execWarmResetRequest a0 s) := by
  unfold execWarmResetRequest
  grind [keepsQueue_next, State.warmRequest_pending]

/-! #### Host accesses -/

theorem execHostWindowRequest_keepsQueue (e : Ep) (q : HwReq) (s : State) :
    KeepsQueue s (execHostWindowRequest e q s) := by
  unfold execHostWindowRequest
  grind [keepsQueue_next, State.bungCount_pending, State.turnAway_pending, State.recordAs_pending,
    State.hostFail_pending, State.hostAnswer_pending, State.enqueueOut_pending]

theorem execHostCompletion_keepsQueue (e : Ep) (id : Nat) (k : CplKind) (data : List Byte) (s : State) :
    KeepsQueue s (execHostCompletion e id k data s) := by
  unfold execHostCompletion
  grind [keepsQueue_next, State.aer_pending, State.bump_pending, State.hostReturn_pending, State.modEp_pending]

theorem execHostCompletionTimeout_keepsQueue (e : Ep) (id : Nat) (s : State) :
    KeepsQueue s (execHostCompletionTimeout e id s) := by
  unfold execHostCompletionTimeout
  grind [keepsQueue_next, State.hostReturn_pending, State.modEp_pending, State.aer_pending, State.hostFail_pending]

theorem execHostRequestHubTimeout_keepsQueue (e : Ep) (id : Nat) (s : State) :
    KeepsQueue s (execHostRequestHubTimeout e id s) := by
  unfold execHostRequestHubTimeout
  grind [keepsQueue_next, State.modEp_pending, State.cplErr_pending, State.apRefuse_pending]

theorem execMsixTrigger_keepsQueue (e : Ep) (vec : Fin 2048) (s : State) :
    KeepsQueue s (execMsixTrigger e vec s) := by
  unfold execMsixTrigger
  grind [keepsQueue_next, State.msixTrigger_pending]

theorem execMsixUnmask_keepsQueue (e : Ep) (u : Unmask) (s : State) : KeepsQueue s (execMsixUnmask e u s) := by
  unfold execMsixUnmask
  grind [keepsQueue_next, State.modEp_pending, State.msixFlush_pending]

theorem execHostLinkDown_keepsQueue (e : Ep) (s : State) : KeepsQueue s (execHostLinkDown e s) := by
  unfold execHostLinkDown
  grind [keepsQueue_next, State.epChange_pending, State.hostDrop_pending, State.modEp_pending]

theorem execFundamentalReset_keepsQueue (e : Ep) (s : State) : KeepsQueue s (execFundamentalReset e s) := by
  unfold execFundamentalReset
  grind [keepsQueue_next, State.epReset_pending]

theorem execHotReset_keepsQueue (e : Ep) (s : State) : KeepsQueue s (execHotReset e s) := by
  unfold execHotReset
  grind [keepsQueue_next, State.epReset_pending]

theorem execFlr_keepsQueue (e : Ep) (s : State) : KeepsQueue s (execFlr e s) := by
  unfold execFlr
  grind [keepsQueue_next, State.epReset_pending]

theorem execEndpointStart_keepsQueue (e : Ep) (s : State) : KeepsQueue s (execEndpointStart e s) := by
  unfold execEndpointStart
  grind [keepsQueue_next, State.modEp_pending, State.epChange_pending]

theorem execEndpointUncorrectable_keepsQueue (e : Ep) (s : State) : KeepsQueue s (execEndpointUncorrectable e s) := by
  unfold execEndpointUncorrectable
  grind [keepsQueue_next, State.epStop_pending]

/-! #### Contexts, queues and fences -/

theorem execDoorbell_keepsQueue (q : QId) (tail : Half) (s : State) : KeepsQueue s (execDoorbell q tail s) := by
  unfold execDoorbell
  grind [keepsQueue_next, State.ringDoorbell_pending]

theorem execRingEntryFetch_keepsQueue (q : QId) (s : State) : KeepsQueue s (execRingEntryFetch q s) := by
  unfold execRingEntryFetch
  grind [keepsQueue_next, State.translate_pending, State.queueFault_pending, State.queueErr_pending,
    State.paGet_pending, State.takeEntryQ_pending, State.hostGet_pending]

/-! #### Barriers -/

theorem execFenceSignal_keepsQueue (src : Who) (f : FenceId) (v : Word) (s : State) :
    KeepsQueue s (execFenceSignal src f v s) := by
  unfold execFenceSignal
  grind [keepsQueue_next, State.modHub_pending, State.fenceSig_pending, State.ctxLose_pending]

/-! #### Slices -/

theorem execAbortStepsDone_keepsQueue (x : CtxId) (s : State) : KeepsQueue s (execAbortStepsDone x s) := by
  unfold execAbortStepsDone
  grind [keepsQueue_next, State.sliceResetEnd_pending, State.abortEnd_pending]

/-! #### Contexts, queues and fences -/

theorem execPositionRelease_keepsQueue (c : CoreId) (s : State) : KeepsQueue s (execPositionRelease c s) := by
  unfold execPositionRelease
  grind [keepsQueue_next, State.substNext_pending, State.modCore_pending, State.modHub_pending]

/-! #### Translation blocks -/

theorem execWalkStep_keepsQueue (id : Nat) (st : Status) (poison : Bool) (entry : Word) (s : State) :
    KeepsQueue s (execWalkStep id st poison entry s) := by
  unfold execWalkStep
  grind [keepsQueue_next, State.walkFill_pending, State.walkTo_pending]

theorem execFaultBatchClose_keepsQueue (x : SliceId) (s : State) : KeepsQueue s (execFaultBatchClose x s) := by
  unfold execFaultBatchClose
  grind [keepsQueue_next, State.batchClose_pending]

theorem execInvalidationComplete_keepsQueue (b : Fin 4) (s : State) :
    KeepsQueue s (execInvalidationComplete b s) := by
  unfold execInvalidationComplete
  grind [keepsQueue_next, State.modHub_pending, State.xcmdEnd_pending]

/-! #### Slices -/

theorem execFreezeTick_keepsQueue (x : SliceId) (s : State) : KeepsQueue s (execFreezeTick x s) := by
  unfold execFreezeTick
  rw [keepsQueue_next]
  split
  · rfl
  · rw [State.switchGo_pending, foldl_pending, State.holdGates_pending, State.modSlice_pending, State.batchClose_pending]
    intro s c
    grind [State.saveBegin_pending]

theorem execFreezeComplete_keepsQueue (x : SliceId) (s : State) : KeepsQueue s (execFreezeComplete x s) := by
  unfold execFreezeComplete
  grind [keepsQueue_next, State.modHub_pending, State.modSlice_pending, State.switchGo_pending, State.scmdEnd_pending]

/-! #### Security -/

theorem execSecurityVersionCommit_keepsQueue (v : Word) (s : State) :
    KeepsQueue s (execSecurityVersionCommit v s) := by
  unfold execSecurityVersionCommit
  grind [keepsQueue_next, State.versionCommit_pending]

theorem execAttestationRequest_keepsQueue (ch : Fin 4) (req : List Byte) (s : State) :
    KeepsQueue s (execAttestationRequest ch req s) := by
  unfold execAttestationRequest
  grind [keepsQueue_next, State.attestRequest_pending]

theorem execAttestationSigned_keepsQueue (s : State) : KeepsQueue s (execAttestationSigned s) := by
  unfold execAttestationSigned
  grind [keepsQueue_next, State.modSec_pending, State.emit_pending]

theorem execSignBucketRefill_keepsQueue (s : State) : KeepsQueue s (execSignBucketRefill s) := by
  unfold execSignBucketRefill
  grind [keepsQueue_next, State.modSec_pending]

theorem execSignTreeBuilt_keepsQueue (s : State) : KeepsQueue s (execSignTreeBuilt s) := by
  unfold execSignTreeBuilt
  grind [keepsQueue_next, State.modSec_pending]

theorem execKeySlotWrite_keepsQueue (slot : Fin 64) (v : Word) (s : State) :
    KeepsQueue s (execKeySlotWrite slot v s) := by
  unfold execKeySlotWrite
  grind [keepsQueue_next, State.keyWrite_pending]

theorem execKeySlotSweepSub_keepsQueue (slot : Fin 64) (v : Half) (s : State) :
    KeepsQueue s (execKeySlotSweepSub slot v s) := by
  unfold execKeySlotSweepSub
  grind [keepsQueue_next, State.keySub_pending]

theorem execKeySlotRetireDrained_keepsQueue (slot : Fin 64) (s : State) :
    KeepsQueue s (execKeySlotRetireDrained slot s) := by
  unfold execKeySlotRetireDrained
  grind [keepsQueue_next, State.setSlot_pending]

/-! #### Bring-up -/

theorem execPowerOnReset_keepsQueue (straps : Straps) (s : State) : KeepsQueue s (execPowerOnReset straps s) := by
  unfold execPowerOnReset
  grind [keepsQueue_next, State.powerReset_pending, State.coldStart_pending]

theorem execCooperStageDone_keepsQueue (r : StageOut) (s : State) : KeepsQueue s (execCooperStageDone r s) := by
  unfold execCooperStageDone
  grind [keepsQueue_next, State.declareReady_pending, State.stageDone_pending, State.modBoot_pending,
    State.faultOn_pending]

theorem execCooperWatchdogExpire_keepsQueue (s : State) : KeepsQueue s (execCooperWatchdogExpire s) := by
  unfold execCooperWatchdogExpire
  grind [keepsQueue_next, State.modBoot_pending, State.coldStart_pending, State.powerReset_pending]

theorem execRecoveryEnter_keepsQueue (s : State) : KeepsQueue s (execRecoveryEnter s) := by
  unfold execRecoveryEnter
  grind [keepsQueue_next, State.imageStage_pending]

theorem execLoaderImageDelivered_keepsQueue (img : Image) (s : State) :
    KeepsQueue s (execLoaderImageDelivered img s) := by
  unfold execLoaderImageDelivered
  grind [keepsQueue_next, State.loaderTake_pending]

theorem execImageWrite_keepsQueue (img : Image) (s : State) : KeepsQueue s (execImageWrite img s) := by
  unfold execImageWrite
  grind [odDone_pending, keepsQueue_next, State.imageTake_pending]

theorem execImageProgramDone_keepsQueue (ok : Bool) (s : State) : KeepsQueue s (execImageProgramDone ok s) := by
  unfold execImageProgramDone
  grind [keepsQueue_next, State.modBoot_pending, State.bump_pending, State.warmRequest_pending]

theorem execLicenceWrite_keepsQueue (lic : List Byte) (s : State) : KeepsQueue s (execLicenceWrite lic s) := by
  unfold execLicenceWrite
  grind [odDone_pending, keepsQueue_next, State.licenceTake_pending]

theorem execWarmReset_keepsQueue (s : State) : KeepsQueue s (execWarmReset s) := by
  unfold execWarmReset
  grind [keepsQueue_next, State.warmRequest_pending, State.warmPath_pending, State.bump_pending]

theorem execFirmwareBroadcast_keepsQueue (manifest : List Byte) (got : List (Nat × BitVec 128)) (s : State) :
    KeepsQueue s (execFirmwareBroadcast manifest got s) := by
  unfold execFirmwareBroadcast
  extract_lets dies t
  have ht : t.pending = s.pending := foldl_pending (fun s x => by rw [State.emit_pending, State.emit_pending]) dies s
  rw [keepsQueue_next]
  split
  · rfl
  · exact ht

theorem execFirmwareResendRound_keepsQueue (got : List (Nat × BitVec 128)) (s : State) :
    KeepsQueue s (execFirmwareResendRound got s) := by
  unfold execFirmwareResendRound
  extract_lets t avail u
  have ht : t.pending = s.pending := foldl_pending (fun s k => State.emit_pending ..) _ s
  have hu : u.pending = t.pending := rfl
  clear_value t u
  rw [keepsQueue_next]
  split
  · rfl
  split
  · exact (foldl_pending (fun s k => s.fwRetire_pending k) _ u).trans (hu.trans ht)
  · exact hu.trans ht

/-! #### The cellar book -/

theorem execRead_keepsQueue (ch : CbChan) (r : CbReq) (s : State) : KeepsQueue s (execRead ch r s) := by
  unfold execRead
  grind [keepsQueue_next, State.bookTake_pending, State.bookRead_pending]

theorem execWrite_keepsQueue (ch : CbChan) (r : CbReq) (s : State) : KeepsQueue s (execWrite ch r s) := by
  unfold execWrite
  grind [keepsQueue_next, State.bookTake_pending, State.bookWrite_pending]

theorem execDesc_keepsQueue (ch : CbChan) (r : CbReq) (s : State) : KeepsQueue s (execDesc ch r s) := by
  unfold execDesc
  grind [keepsQueue_next, State.bookTake_pending, State.bookDesc_pending]

theorem execList_keepsQueue (ch : CbChan) (r : CbReq) (s : State) : KeepsQueue s (execList ch r s) := by
  unfold execList
  grind [keepsQueue_next, State.bookTake_pending, State.bookList_pending]

theorem execMailboxGo_keepsQueue (e : Ep) (s : State) : KeepsQueue s (execMailboxGo e s) := by
  unfold execMailboxGo
  grind [keepsQueue_next, State.mailboxGo_pending]

theorem execTransferExpire_keepsQueue (index : BitVec 16) (sub : Byte) (s : State) :
    KeepsQueue s (execTransferExpire index sub s) := by
  unfold execTransferExpire
  grind [keepsQueue_next]

theorem execMgmtAddressApply_keepsQueue (s : State) : KeepsQueue s (execMgmtAddressApply s) := by
  unfold execMgmtAddressApply
  grind [keepsQueue_next]

theorem execRestoreDefaults_keepsQueue (v : Byte) (s : State) : KeepsQueue s (execRestoreDefaults v s) := by
  unfold execRestoreDefaults
  grind [odDone_pending, keepsQueue_next, State.restoreWrite_pending]

/-! #### Power and time -/

theorem execRailMeasureUpdate_keepsQueue (volts amps : List Nat) (s : State) :
    KeepsQueue s (execRailMeasureUpdate volts amps s) := by
  unfold execRailMeasureUpdate
  grind [keepsQueue_next]

/-! #### The cellar book -/

theorem execSubstitutionRequest_keepsQueue (x : Site) (v : BitVec 16) (s : State) :
    KeepsQueue s (execSubstitutionRequest x v s) := by
  unfold execSubstitutionRequest
  grind [odDone_pending, keepsQueue_next, State.substWrite_pending]

/-! #### Power and time -/

theorem execBudgetPeriod_keepsQueue (m : PeriodMeas) (s : State) : KeepsQueue s (execBudgetPeriod m s) := by
  unfold execBudgetPeriod
  extract_lets t u v power w pool power' x l y
  have ht : t.pending = s.pending := foldl_pending (fun s x => State.judgePower_pending ..) _ s
  clear_value t
  have hu : u.pending = t.pending := foldl_pending (fun s i => State.modPow_pending ..) _ t
  clear_value u
  have hv : v.pending = u.pending := State.powerHist_pending ..
  clear_value v
  have hx : x.pending = v.pending := rfl
  clear_value x
  have hy : y.pending = x.pending := foldl_pending (fun s d => State.modPow_pending ..) _ x
  have hys : y.pending = s.pending := by rw [hy, hx, hv, hu, ht]
  clear_value y
  rw [keepsQueue_next]
  split
  · exact (foldl_pending (fun s x => State.sendBudget_pending ..) _ y).trans hys
  · exact (foldl_pending (fun s b => State.sendBudget_pending ..) _ y).trans hys

theorem execBudgetMissingFallback_keepsQueue (x : Site) (s : State) :
    KeepsQueue s (execBudgetMissingFallback x s) := by
  unfold execBudgetMissingFallback
  grind [keepsQueue_next, State.modLink_pending]

/-! #### Availability -/

theorem execRailSample_keepsQueue (r : RailSample) (s : State) : KeepsQueue s (execRailSample r s) := by
  unfold execRailSample
  extract_lets t out twice power u
  have ht : t.pending = s.pending := by
    unfold t
    split
    · exact s.clamp_pending
    · rfl
  have hu : u.pending = t.pending := rfl
  clear_value t u
  exact keepsQueue_next.2 ((foldl_pending (fun s j => s.railFault_pending j) _ u).trans (hu.trans ht))

/-! #### Power and time -/

theorem execPtpOffsetMeasure_keepsQueue (m : PtpMeas) (s : State) : KeepsQueue s (execPtpOffsetMeasure m s) := by
  unfold execPtpOffsetMeasure
  grind [keepsQueue_next, State.modTime_pending, State.discipline_pending]

theorem execPtpHoldoverEnter_keepsQueue (meanRate : Half) (s : State) :
    KeepsQueue s (execPtpHoldoverEnter meanRate s) := by
  unfold execPtpHoldoverEnter
  grind [keepsQueue_next, State.modTime_pending]

theorem execPtpHoldoverLimit_keepsQueue (s : State) : KeepsQueue s (execPtpHoldoverLimit s) := by
  unfold execPtpHoldoverLimit
  grind [keepsQueue_next, State.setLock_pending]

theorem execPtpDomainWrite_keepsQueue (v : Byte) (s : State) : KeepsQueue s (execPtpDomainWrite v s) := by
  unfold execPtpDomainWrite
  grind [keepsQueue_next, State.ptpDomain_pending]

/-! #### Observation -/

theorem execObsEnableWrite_keepsQueue (v : Byte) (s : State) : KeepsQueue s (execObsEnableWrite v s) := by
  unfold execObsEnableWrite
  grind [odDone_pending, keepsQueue_next, State.obsEnable_pending]

theorem execTasterCtlWrite_keepsQueue (i : RouterId) (v : Word) (s : State) :
    KeepsQueue s (execTasterCtlWrite i v s) := by
  unfold execTasterCtlWrite
  grind [odDone_pending, keepsQueue_next, State.tasterWrite_pending]

theorem execSinkCfgWrite_keepsQueue (i : Fin 4) (base cfg : Word) (s : State) :
    KeepsQueue s (execSinkCfgWrite i base cfg s) := by
  unfold execSinkCfgWrite
  grind [keepsQueue_next, State.sinkWrite_pending]

theorem execCounterCopy_keepsQueue (s : State) : KeepsQueue s (execCounterCopy s) := by
  unfold execCounterCopy
  grind [keepsQueue_next, State.octSettle_pending, State.modObs_pending]

/-! #### The debug halt -/

theorem execHalt_keepsQueue (s : State) : KeepsQueue s (execHalt s) := by
  unfold execHalt
  grind [keepsQueue_next, State.haltTrigger_pending]

theorem execResume_keepsQueue (s : State) : KeepsQueue s (execResume s) := by
  unfold execResume
  grind [keepsQueue_next, State.haltResume_pending]

/-! #### Observation -/

theorem execJtagHalt_keepsQueue (v : BitVec 18) (s : State) : KeepsQueue s (execJtagHalt v s) := by
  unfold execJtagHalt
  grind [keepsQueue_next, State.hltctlWrite_pending]

/-! #### Bring-up -/

theorem execJtagLoaderWord_keepsQueue (idx data : Half) (s : State) :
    KeepsQueue s (execJtagLoaderWord idx data s) := by
  unfold execJtagLoaderWord
  grind [keepsQueue_next, State.loaderTake_pending, State.bump_pending, State.modObs_pending]

/-! #### Availability -/

theorem execHubControllerWatchdog_keepsQueue (field n : Fin 4) (s : State) :
    KeepsQueue s (execHubControllerWatchdog field n s) := by
  unfold execHubControllerWatchdog
  grind [keepsQueue_next, State.logEvent_pending]

theorem execMgdWatchdog_keepsQueue (s : State) : KeepsQueue s (execMgdWatchdog s) := by
  unfold execMgdWatchdog
  grind [keepsQueue_next]

theorem execClassFFault_keepsQueue (code : BitVec 16) (die : Byte) (s : State) :
    KeepsQueue s (execClassFFault code die s) := by
  unfold execClassFFault
  grind [keepsQueue_next, State.classF_pending]

theorem execSysclkLoss_keepsQueue (s : State) : KeepsQueue s (execSysclkLoss s) := by
  unfold execSysclkLoss
  grind [keepsQueue_next, State.holdReset_pending]

/-! #### The twin port -/

theorem execHeartbeatRefresh_keepsQueue (s : State) : KeepsQueue s (execHeartbeatRefresh s) := by
  unfold execHeartbeatRefresh
  grind [keepsQueue_next, State.modTwin_pending]

theorem execHeartbeatSend_keepsQueue (s : State) : KeepsQueue s (execHeartbeatSend s) := by
  unfold execHeartbeatSend
  rw [keepsQueue_next]
  split
  · split
    · rfl
    · rw [State.modTwin_pending, State.twinCtl_pending, State.xlogAdd_pending]
      split
      · exact State.modTwin_pending ..
      · rfl
  · rfl

theorem execPair_keepsQueue (m : PairMsg) (s : State) : KeepsQueue s (execPair m s) := by
  unfold execPair
  grind [keepsQueue_next, State.pairFail_pending, State.pairSend_pending, State.modTwin_pending,
    State.twinCtl_pending]

theorem execConfirm_keepsQueue (kit : Word) (na nb : BitVec 256) (tagOk : Bool) (seq : Nat) (s : State) :
    KeepsQueue s (execConfirm kit na nb tagOk seq s) := by
  unfold execConfirm
  grind [keepsQueue_next, State.ctlTake_pending, State.pairFail_pending, State.modTwin_pending,
    State.pairDone_pending]

theorem execHb_keepsQueue (m : HbMsg) (tagOk : Bool) (seq : Nat) (s : State) :
    KeepsQueue s (execHb m tagOk seq s) := by
  unfold execHb
  grind [keepsQueue_next, State.ctlTake_pending, State.xlogAdd_pending, State.modTwin_pending, State.setRole_pending,
    State.pushesByCount_pending, State.pushesLost_pending]

theorem execTwinData_keepsQueue (entry : Fin 64) (moff : Half) (pois : BitVec 4) (tag : BitVec 14)
    (data : List Sector) (gap : Bool) (s : State) :
    KeepsQueue s (execTwinData entry moff pois tag data gap s) := by
  unfold execTwinData
  grind [keepsQueue_next, State.pushEnd_pending, State.landFrame_pending, State.modTwin_pending,
    State.pushAck_pending, State.bump_pending]

theorem execPushack_keepsQueue (tag : BitVec 14) (st : Fin 4) (a2 : Word) (tagOk : Bool) (seq : Nat) (s : State) :
    KeepsQueue s (execPushack tag st a2 tagOk seq s) := by
  unfold execPushack
  grind [keepsQueue_next, State.ctlTake_pending, State.pushEnd_pending]

theorem execJournal_keepsQueue (rec' : Sector) (tagOk : Bool) (seq : Nat) (s : State) :
    KeepsQueue s (execJournal rec' tagOk seq s) := by
  unfold execJournal
  grind [keepsQueue_next, State.ctlTake_pending, State.modTwin_pending]

theorem execFailover_keepsQueue (a0 : Fin 4) (tagOk : Bool) (seq : Nat) (s : State) :
    KeepsQueue s (execFailover a0 tagOk seq s) := by
  unfold execFailover
  grind [keepsQueue_next, State.ctlTake_pending, State.twinCtl_pending, State.promote_pending]

/-! #### Bring-up -/

theorem execRoleack_keepsQueue (role : Fin 3) (tagOk : Bool) (seq : Nat) (s : State) :
    KeepsQueue s (execRoleack role tagOk seq s) := by
  unfold execRoleack
  grind [keepsQueue_next, State.ctlTake_pending, State.setRole_pending, State.modTwin_pending,
    State.warmRequest_pending]

/-! #### The twin port -/

theorem execRestreq_keepsQueue (entry : Fin 64) (off len : Word) (tag : BitVec 14) (tagOk : Bool) (seq : Nat)
    (s : State) :
    KeepsQueue s (execRestreq entry off len tag tagOk seq s) := by
  unfold execRestreq
  grind [keepsQueue_next, State.ctlTake_pending, State.pushAck_pending, State.sendRange_pending]

theorem execHeartbeatCheck_keepsQueue (s : State) : KeepsQueue s (execHeartbeatCheck s) := by
  unfold execHeartbeatCheck
  grind [keepsQueue_next, State.modTwin_pending, State.raiseTwin_pending]

theorem execLeaseExpire_keepsQueue (s : State) : KeepsQueue s (execLeaseExpire s) := by
  unfold execLeaseExpire
  grind [keepsQueue_next, State.modTwin_pending, State.freezeAll_pending, State.raiseTwin_pending,
    State.logEvent_pending, State.faultOn_pending]

theorem execPromotionTimeout_keepsQueue (s : State) : KeepsQueue s (execPromotionTimeout s) := by
  unfold execPromotionTimeout
  grind [keepsQueue_next, State.promote_pending]

theorem execMirrorEntryWrite_keepsQueue (i : Fin 64) (v : Word) (s : State) :
    KeepsQueue s (execMirrorEntryWrite i v s) := by
  unfold execMirrorEntryWrite
  grind [odDone_pending, keepsQueue_next, State.mirrorWrite_pending]

theorem execPush_keepsQueue (req : List Byte) (s : State) : KeepsQueue s (execPush req s) := by
  unfold execPush
  grind [odDone_pending, keepsQueue_next, State.pushRequest_pending]

theorem execJournalWrite_keepsQueue (rec' : Sector) (s : State) : KeepsQueue s (execJournalWrite rec' s) := by
  unfold execJournalWrite
  grind [odDone_pending, keepsQueue_next, State.journalSend_pending]

theorem execRestore_keepsQueue (req : List Byte) (s : State) : KeepsQueue s (execRestore req s) := by
  unfold execRestore
  grind [odDone_pending, keepsQueue_next, State.pushRequest_pending]

theorem execSwitchover_keepsQueue (v : Byte) (s : State) : KeepsQueue s (execSwitchover v s) := by
  unfold execSwitchover
  grind [odDone_pending, keepsQueue_next, State.switchRequest_pending]

theorem execMirrorRepairUpgrade_keepsQueue (s : State) : KeepsQueue s (execMirrorRepairUpgrade s) := by
  unfold execMirrorRepairUpgrade
  grind [keepsQueue_next, State.pairSend_pending]

/-! #### Availability -/

theorem execPorNAssert_keepsQueue (s : State) : KeepsQueue s (execPorNAssert s) := by
  unfold execPorNAssert
  grind [keepsQueue_next, State.powerReset_pending]

theorem execInternalResetRelease_keepsQueue (s : State) : KeepsQueue s (execInternalResetRelease s) := by
  unfold execInternalResetRelease
  grind [keepsQueue_next, State.coldStart_pending]

/-! #### Host accesses -/

theorem execHostConfigWrite_keepsQueue (e : Ep) (f : CfgField) (v : Byte) (s : State) :
    KeepsQueue s (execHostConfigWrite e f v s) := by
  unfold execHostConfigWrite
  extract_lets b
  clear_value b
  refine keepsQueue_next.2 (State.epChange_pending _ _ _ (fun s => ?_))
  extract_lets t waits v u
  have ht : t.pending = s.pending := State.modEp_pending ..
  have hv : v.pending = t.pending := State.modEp_pending ..
  have hu : u.pending = s.pending := by
    unfold u
    split
    · exact ht
    · exact (foldl_pending (fun s r => State.hostFail_pending ..) _ v).trans (hv.trans ht)
  clear_value u
  rw [State.drainOut_pending, State.msixFlush_pending, hu]

theorem execHostLinkUp_keepsQueue (e : Ep) (s : State) : KeepsQueue s (execHostLinkUp e s) := by
  unfold execHostLinkUp
  grind [keepsQueue_next, State.epChange_pending, State.drainOut_pending, State.msixFlush_pending,
    State.modEp_pending]

theorem execPcieLinkError_keepsQueue (e : Ep) (err : PcieErr) (s : State) :
    KeepsQueue s (execPcieLinkError e err s) := by
  unfold execPcieLinkError
  grind [keepsQueue_next, State.epStop_pending, State.aer_pending]

/-! #### The twin port -/

theorem execTwinLinkUp_keepsQueue (s : State) : KeepsQueue s (execTwinLinkUp s) := by
  unfold execTwinLinkUp
  grind [keepsQueue_next, State.modTwin_pending, State.pairStart_pending]

theorem execTwinLinkDown_keepsQueue (s : State) : KeepsQueue s (execTwinLinkDown s) := by
  unfold execTwinLinkDown
  grind [keepsQueue_next, State.twinDown_pending]

/-! #### Availability -/

theorem execManagementLinkUp_keepsQueue (s : State) : KeepsQueue s (execManagementLinkUp s) := by
  unfold execManagementLinkUp
  grind [keepsQueue_next]

theorem execDieTemperatureSample_keepsQueue (die : Fin 32) (temp : ℤ) (s : State) :
    KeepsQueue s (execDieTemperatureSample die temp s) := by
  unfold execDieTemperatureSample
  grind [keepsQueue_next, State.modPow_pending, State.clamp_pending, State.hubCritical_pending,
    State.dieCritical_pending, State.dieCool_pending, State.logEvent_pending]

theorem execOvertempHoldEnd_keepsQueue (s : State) : KeepsQueue s (execOvertempHoldEnd s) := by
  unfold execOvertempHoldEnd
  grind [keepsQueue_next]

/-! #### Security -/

theorem execMgdBufferScrub_keepsQueue (ch : Fin 4) (s : State) : KeepsQueue s (execMgdBufferScrub ch s) := by
  unfold execMgdBufferScrub
  grind [keepsQueue_next, State.scrub_pending]

/-! #### The trellis -/

theorem execIdlePatternCheck_keepsQueue (r : RouterId) (p : Plane) (d : Dir) (ok : Bool) (s : State) :
    KeepsQueue s (execIdlePatternCheck r p d ok s) := by
  unfold execIdlePatternCheck
  grind [keepsQueue_next, State.modLnk_pending, State.modTrellis_pending]

/-! #### Observation -/

theorem execJtagIrUpdate_keepsQueue (ir : Byte) (s : State) : KeepsQueue s (execJtagIrUpdate ir s) := by
  unfold execJtagIrUpdate
  grind [keepsQueue_next, State.modObs_pending]

/-! #### Die links -/

theorem execUnknownSidebandMessage_keepsQueue (a : LinkId) (m : Fin 8) (toHub : Bool) (code : Byte) (s : State) :
    KeepsQueue s (execUnknownSidebandMessage a m toHub code s) := by
  unfold execUnknownSidebandMessage
  grind [keepsQueue_next, State.modDir_pending]

/-! #### Registers of the hub -/

theorem State.tgWrite_pending (s : State) (who : Who) (k p w v : Nat) :
    (s.tgWrite who k p w v).pending = s.pending := by
  unfold State.tgWrite
  extract_lets kk pp put
  have hput : ∀ f, (put f).pending = s.pending := fun f => State.mgmtWrite_pending _ _ _ (fun s => rfl)
  clear_value put
  split
  · split
    · exact resState_pending _ _ (execTgStart_keepsQueue ..)
    split
    · exact resState_pending _ _ ((execTgStop_keepsQueue ..).of (hput _))
    · exact hput _
  all_goals grind [State.roWrite_pending]

theorem State.cmdWrite_pending (s : State) (b v : Nat) : (s.cmdWrite b v).pending = s.pending := by
  unfold State.cmdWrite
  extract_lets bb op i c q f bad
  have hbad : bad.pending = s.pending := State.cmdGo_pending _ _ _ _ _ (fun v s => rfl)
  clear_value bad bb op i c q f
  split
  · exact hbad
  · apply resState_pending
    split
    · exact execCtxcreate_keepsQueue ..
    · exact execCtxdestroy_keepsQueue ..
    · exact execCtxabort_keepsQueue ..
    · exact execCtxpreempt_keepsQueue ..
    · exact execQenable_keepsQueue ..
    · exact execQdisable_keepsQueue ..
    · exact execQresume_keepsQueue ..
    · exact execFarm_keepsQueue ..
    · exact execFsignal_keepsQueue ..
    · exact execFabandon_keepsQueue ..
    · exact execFdisarm_keepsQueue ..

theorem State.xcmdWrite_pending (s : State) (b v : Nat) : (s.xcmdWrite b v).pending = s.pending := by
  unfold State.xcmdWrite
  extract_lets bb i
  clear_value bb i
  apply resState_pending
  split
  · exact execInvctx_keepsQueue ..
  · exact execInvva_keepsQueue ..
  · exact execInvslice_keepsQueue ..
  · exact execInvipa_keepsQueue ..
  · exact execInvall_keepsQueue ..
  · exact execXresume_keepsQueue ..
  · exact keepsQueue_next.2 (State.xcmdGo_pending _ _ _ _ _ (fun a b s => rfl))

theorem State.scmdWrite_pending (s : State) (b v : Nat) : (s.scmdWrite b v).pending = s.pending := by
  unfold State.scmdWrite
  extract_lets bb x
  clear_value bb x
  apply resState_pending
  split
  · exact execSlcreate_keepsQueue ..
  · exact execSlfreeze_keepsQueue ..
  · exact execSlthaw_keepsQueue ..
  · exact execSlbottle_keepsQueue ..
  · exact execSluncork_keepsQueue ..
  · exact execSlreset_keepsQueue ..
  · exact execSlremove_keepsQueue ..
  · exact keepsQueue_next.2 (State.scmdGo_pending _ _ _ _ _ (fun a b s => rfl))

theorem State.hubPut_pending (s : State) (who : Who) (r : HReg) (v : Nat) :
    (s.hubPut who r v).pending = s.pending := by
  unfold State.hubPut
  extract_lets w64 go args
  have hgo : ∀ r, KeepsQueue s r → (go r).pending = s.pending := fun r hr => resState_pending r s hr
  have hput : ∀ f : State → State, (∀ s, (f s).pending = s.pending) → ∀ ok, (s.hubWrite who ok f).pending = s.pending :=
    fun f hf ok => s.hubWrite_pending who ok f hf
  clear_value w64 go args
  split
  · split
    · exact (State.ack_pending ..).trans (State.modTime_pending ..)
    · exact hgo _ (execTimebaseStep_keepsQueue ..)
    · exact State.ack_pending ..
    · exact State.ack_pending ..
  · exact hgo _ (execRouteEntryWrite_keepsQueue ..)
  · exact s.mgmtWrite_pending who _ (fun s => s.modLnk_pending ..)
  · exact hgo _ (execBungRegWrite_keepsQueue ..)
  · exact hgo _ (execBudgetWrite_keepsQueue ..)
  · exact hgo _ (execShareWrite_keepsQueue ..)
  · exact s.driverWrite_pending who _ (fun s => foldl_pending (fun s i => s.ownerWrite_pending ..) _ s)
  · exact hgo _ (execGateCtlWrite_keepsQueue ..)
  · refine s.mgmtWrite_pending who _ (fun s => ?_)
    split
    · exact s.modGate_pending ..
    · rfl
  · exact hgo _ (execGateRuleWrite_keepsQueue ..)
  · exact s.tgWrite_pending ..
  · exact hgo _ (execReserveCopyWrite_keepsQueue ..)
  · exact hgo _ (execContextSlotWrite_keepsQueue ..)
  · exact hgo _ (execQueueSlotWrite_keepsQueue ..)
  · exact hgo _ (execFenceCfgWrite_keepsQueue ..)
  next b w =>
    refine hput _ (fun s => ?_) _
    split
    · exact s.cmdWrite_pending ..
    · rfl
  · exact hgo _ (execCoreDoorbell_keepsQueue ..)
  · exact hgo _ (execFaultQueueWrite_keepsQueue ..)
  next b w =>
    refine hput _ (fun s => ?_) _
    split
    · exact s.xcmdWrite_pending ..
    · rfl
  · split
    · exact hgo _ (execSliceEntryWrite_keepsQueue ..)
    · exact hput _ (fun s => rfl) _
  next b w =>
    refine hput _ (fun s => ?_) _
    split
    · exact s.scmdWrite_pending ..
    · rfl
  · exact s.observeWrite_pending ..
  · exact s.observeWrite_pending ..
  · exact s.observeWrite_pending ..
  · exact hput _ (fun s => rfl) _
  · exact s.ack_pending who .ok
  · exact s.driverWrite_pending who _ (fun s => rfl)
  · exact s.roWrite_pending who

theorem State.hostHubWrite_pending (s : State) (e : Ep) (r : HReg) (v : Nat) :
    (s.hostHubWrite e r v).pending = s.pending := by
  unfold State.hostHubWrite
  grind [State.ack_pending, State.cwDiscard_pending, State.hubPut_pending]

theorem State.cwWrite_pending (s : State) (e : Ep) (off size v : Nat) :
    (s.cwWrite e off size v).pending = s.pending := by
  unfold State.cwWrite
  grind [State.cwDiscard_pending, State.ack_pending, State.hostHubWrite_pending, State.epWrite_pending]

theorem State.cwAccess_pending (s : State) (e : Ep) (wr : Bool) (off : BitVec 27) (size : Fin 9) (data : Word) :
    (s.cwAccess e wr off size data).pending = s.pending := by
  unfold State.cwAccess
  grind [State.wrErr_pending, State.cwDiscard_pending, State.cplErr_pending, State.cwWrite_pending,
    State.cwRead_pending]

theorem State.diePut_pending (s : State) (who : Who) (x : Site) (o v : Nat) :
    (s.diePut who x o v).pending = s.pending := by
  unfold State.diePut
  extract_lets w
  clear_value w
  split
  · exact resState_pending _ _ (execClmapWrite_keepsQueue ..)
  split
  · exact resState_pending _ _ (execClret_keepsQueue ..)
  split
  · refine State.mgmtWrite_pending _ _ _ (fun s => ?_)
    split
    · rfl
    · rw [State.modCore_pending, State.octSettle_pending]
  · exact s.roWrite_pending who

theorem execHostControlAccess_keepsQueue (e : Ep) (wr : Bool) (off : BitVec 27) (size : Fin 9) (data : Word)
    (s : State) :
    KeepsQueue s (execHostControlAccess e wr off size data s) := by
  unfold execHostControlAccess
  grind [keepsQueue_next, State.hostLater_pending, State.cwAccess_pending]

theorem execJtagRegacc_keepsQueue (wr : Bool) (pa : PA) (data : Word) (s : State) :
    KeepsQueue s (execJtagRegacc wr pa data s) := by
  unfold execJtagRegacc
  extract_lets o done
  have hdone : ∀ st v u, SameQueue s u → SameQueue s (done st v u) := fun st v u hu =>
    hu.trans (.of (State.modObs_pending ..))
  clear_value o done
  rw [keepsQueue_next]
  change SameQueue s _
  split
  · exact .of rfl
  split
  · exact hdone _ _ s (.of rfl)
  split
  · exact hdone _ _ _ (.of (State.hubPut_pending ..))
  · generalize s.hubGet .mgd (hubAt o) = q
    obtain ⟨st, v⟩ := q
    exact hdone st v s (.of rfl)

theorem execRegisterWrite_keepsQueue (who : Who) (r : RegAddr) (v : Word) (s : State) :
    KeepsQueue s (execRegisterWrite who r v s) := by
  unfold execRegisterWrite
  rw [keepsQueue_next]
  change SameQueue s _
  split
  · extract_lets o
    clear_value o
    split
    · exact .of (State.ack_pending ..)
    split
    · exact s.atOwner_sameQueue _ _ _ (fun s => .of (State.hostHubWrite_pending ..))
    · exact s.atOwner_sameQueue _ _ _ (fun s => .of (State.hubPut_pending ..))
  · split
    · exact .of (State.epWrite_pending ..)
    · exact .of (State.ack_pending ..)
  · exact .of (State.diePut_pending ..)

end Sys2Proof.Machine
end

section

namespace Sys2Proof.Machine

/-! ### Every command answers a next state with the queue it found -/

theorem exec_keepsQueue (c : Instr) (s : State) : KeepsQueue s (exec c s) := by
  cases c with
  | load h n rs1 imm dst => exact execLoad_keepsQueue h n rs1 imm dst s
  | store h n rs1 imm src => exact execStore_keepsQueue h n rs1 imm src s
  | lr h rd rs1 dbl => exact execLr_keepsQueue h rd rs1 dbl s
  | sc h rd rs1 rs2 dbl => exact execSc_keepsQueue h rd rs1 rs2 dbl s
  | threadAmo h rd rs1 rs2 op dbl => exact execThreadAmo_keepsQueue h rd rs1 rs2 op dbl s
  | fence h pred succ => exact execFence_keepsQueue h pred succ s
  | fenceI h => exact execFenceI_keepsQueue h s
  | wfi h => exact execWfi_keepsQueue h s
  | vectorInstr h w => exact execVectorInstr_keepsQueue h w s
  | csrAccess h op rd src csr => exact execCsrAccess_keepsQueue h op rd src csr s
  | pstatWrite h op rd src => exact execPstatWrite_keepsQueue h op rd src s
  | cycflgWrite h op rd src => exact execCycflgWrite_keepsQueue h op rd src s
  | mhpmeventWrite h op rd src n => exact execMhpmeventWrite_keepsQueue h op rd src n s
  | pmpcfgWrite h op rd src n => exact execPmpcfgWrite_keepsQueue h op rd src n s
  | lipendWrite h n t v => exact execLipendWrite_keepsQueue h n t v s
  | ltcmpWrite h n t v => exact execLtcmpWrite_keepsQueue h n t v s
  | coreLocalAccess h n kind off lg rd v => exact execCoreLocalAccess_keepsQueue h n kind off lg rd v s
  | localTimerMatch h => exact execLocalTimerMatch_keepsQueue h s
  | threadInterrupt h => exact execThreadInterrupt_keepsQueue h s
  | coreResponse h tag st poison data => exact execCoreResponse_keepsQueue h tag st poison data s
  | hostStoreAnswer h tag st => exact execHostStoreAnswer_keepsQueue h tag st s
  | pmac h w => exact execPmac_keepsQueue h w s
  | pmacz h w => exact execPmacz_keepsQueue h w s
  | pmacv h w => exact execPmacv_keepsQueue h w s
  | pmaczv h w => exact execPmaczv_keepsQueue h w s
  | pzero h w => exact execPzero_keepsQueue h w s
  | pld h w => exact execPld_keepsQueue h w s
  | pst h w => exact execPst_keepsQueue h w s
  | prdv h w => exact execPrdv_keepsQueue h w s
  | pwrv h w => exact execPwrv_keepsQueue h w s
  | pstc h w => exact execPstc_keepsQueue h w s
  | pwait h w => exact execPwait_keepsQueue h w s
  | pressInstrStart c => exact execPressInstrStart_keepsQueue c s
  | pressInstrComplete c n => exact execPressInstrComplete_keepsQueue c n s
  | vpackF h w => exact execVpackF_keepsQueue h w s
  | vpackX h w => exact execVpackX_keepsQueue h w s
  | vunpack h w => exact execVunpack_keepsQueue h w s
  | vmxscl h w => exact execVmxscl_keepsQueue h w s
  | vmxenc h w => exact execVmxenc_keepsQueue h w s
  | vmxdec h w => exact execVmxdec_keepsQueue h w s
  | dinit h w => exact execDinit_keepsQueue h w s
  | dkv h w => exact execDkv_keepsQueue h w s
  | dfin h w => exact execDfin_keepsQueue h w s
  | dsave h w => exact execDsave_keepsQueue h w s
  | dload h w => exact execDload_keepsQueue h w s
  | barw h w => exact execBarw_keepsQueue h w s
  | bara h w => exact execBara_keepsQueue h w s
  | bart h w => exact execBart_keepsQueue h w s
  | barwp h w => exact execBarwp_keepsQueue h w s
  | barrierArm who chan locals => exact execBarrierArm_keepsQueue who chan locals s
  | barrierArrivalMsg chan si => exact execBarrierArrivalMsg_keepsQueue chan si s
  | barrierRelease chan si phase => exact execBarrierRelease_keepsQueue chan si phase s
  | fsig h w => exact execFsig_keepsQueue h w s
  | fwait h w => exact execFwait_keepsQueue h w s
  | fread h w => exact execFread_keepsQueue h w s
  | clret who si v => exact execClret_keepsQueue who si v s
  | clmapWrite who si n v => exact execClmapWrite_keepsQueue who si n v s
  | spareSubstitute si cl pos => exact execSpareSubstitute_keepsQueue si cl pos s
  | spareSelftestDone si cl r => exact execSpareSelftestDone_keepsQueue si cl r s
  | coreTestDue si cl pos => exact execCoreTestDue_keepsQueue si cl pos s
  | coreTestDone si cl pass => exact execCoreTestDone_keepsQueue si cl pass s
  | zoneSample si temps => exact execZoneSample_keepsQueue si temps s
  | governorEval si => exact execGovernorEval_keepsQueue si s
  | droopStretch si row => exact execDroopStretch_keepsQueue si row s
  | l2TagError si bank set uncorrectable => exact execL2TagError_keepsQueue si bank set uncorrectable s
  | l2TagReport k si bank set => exact execL2TagReport_keepsQueue k si bank set s
  | contextSave c => exact execContextSave_keepsQueue c s
  | contextLoad c x => exact execContextLoad_keepsQueue c x s
  | contextSchedule x => exact execContextSchedule_keepsQueue x s
  | contextIdle c => exact execContextIdle_keepsQueue c s
  | contextQuantumEnd c => exact execContextQuantumEnd_keepsQueue c s
  | preemptTimeout c => exact execPreemptTimeout_keepsQueue c s
  | copy e => exact execCopy_keepsQueue e s
  | stride e => exact execStride_keepsQueue e s
  | tile2d e => exact execTile2d_keepsQueue e s
  | zero e => exact execZero_keepsQueue e s
  | reduce e => exact execReduce_keepsQueue e s
  | merge e => exact execMerge_keepsQueue e s
  | kvcvt e => exact execKvcvt_keepsQueue e s
  | nop e => exact execNop_keepsQueue e s
  | descDispatch src e => exact execDescDispatch_keepsQueue src e s
  | engineYield e => exact execEngineYield_keepsQueue e s
  | tileCommit e => exact execTileCommit_keepsQueue e s
  | descComplete src => exact execDescComplete_keepsQueue src s
  | rd r => exact execRd_keepsQueue r s
  | rds r => exact execRds_keepsQueue r s
  | rdx r => exact execRdx_keepsQueue r s
  | wr r data => exact execWr_keepsQueue r data s
  | wri r data => exact execWri_keepsQueue r data s
  | wrp r mask data => exact execWrp_keepsQueue r mask data s
  | wrpoi r => exact execWrpoi_keepsQueue r s
  | stash r data => exact execStash_keepsQueue r data s
  | wb src r data => exact execWb_keepsQueue src r data s
  | amo r operand => exact execAmo_keepsQueue r operand s
  | trace r sink record => exact execTrace_keepsQueue r sink record s
  | snpInv si pa => exact execSnpInv_keepsQueue si pa s
  | snoopRd si pa => exact execSnoopRd_keepsQueue si pa s
  | snoopRds si pa => exact execSnoopRds_keepsQueue si pa s
  | snoopRdx si pa => exact execSnoopRdx_keepsQueue si pa s
  | stashPush si pa data => exact execStashPush_keepsQueue si pa data s
  | deferredSnoopRelease si pa => exact execDeferredSnoopRelease_keepsQueue si pa s
  | secondaryResponse k pa si st data => exact execSecondaryResponse_keepsQueue k pa si st data s
  | redirectResponse k src tag st data => exact execRedirectResponse_keepsQueue k src tag st data s
  | heal entry off copyOk => exact execHeal_keepsQueue entry off copyOk s
  | reserveCopyWrite who entry hi v => exact execReserveCopyWrite_keepsQueue who entry hi v s
  | refreshDue k pc rank bank => exact execRefreshDue_keepsQueue k pc rank bank s
  | caskTempSample k temp => exact execCaskTempSample_keepsQueue k temp s
  | caskCycle k pc => exact execCaskCycle_keepsQueue k pc s
  | dqMarginSample k pc lane margin => exact execDqMarginSample_keepsQueue k pc lane margin s
  | caParityError k pc lane => exact execCaParityError_keepsQueue k pc lane s
  | rowRepair k pc rank bank row => exact execRowRepair_keepsQueue k pc rank bank row s
  | frameRetire k frame => exact execFrameRetire_keepsQueue k frame s
  | caskPoisonFillDone k => exact execCaskPoisonFillDone_keepsQueue k s
  | tgStart who k pc ctl => exact execTgStart_keepsQueue who k pc ctl s
  | tgStop who k pc => exact execTgStop_keepsQueue who k pc s
  | tgRunEnd k pc => exact execTgRunEnd_keepsQueue k pc s
  | routerReceive r p input h0 h1 payload => exact execRouterReceive_keepsQueue r p input h0 h1 payload s
  | tasterRecordSend n => exact execTasterRecordSend_keepsQueue n s
  | routeEntryWrite who ni d v => exact execRouteEntryWrite_keepsQueue who ni d v s
  | routeChangeApply ni d => exact execRouteChangeApply_keepsQueue ni d s
  | tagTimeout ni tag => exact execTagTimeout_keepsQueue ni tag s
  | tagQuarantineEnd ni tag => exact execTagQuarantineEnd_keepsQueue ni tag s
  | bungRegWrite who ni v => exact execBungRegWrite_keepsQueue who ni v s
  | bungRelease ni => exact execBungRelease_keepsQueue ni s
  | endpointDomainReset d => exact execEndpointDomainReset_keepsQueue d s
  | partitionReset ds => exact execPartitionReset_keepsQueue ds s
  | linkRetire r p d => exact execLinkRetire_keepsQueue r p d s
  | linkHealthWindowEnd r p d => exact execLinkHealthWindowEnd_keepsQueue r p d s
  | regulatorWindowEnd => exact execRegulatorWindowEnd_keepsQueue s
  | niInject ni q data => exact execNiInject_keepsQueue ni q data s
  | budgetWrite who ni c v => exact execBudgetWrite_keepsQueue who ni c v s
  | ownerWrite who k g v => exact execOwnerWrite_keepsQueue who k g v s
  | shareWrite who k a v => exact execShareWrite_keepsQueue who k a v s
  | frameReceive a m toHub cw0 cw1 payload => exact execFrameReceive_keepsQueue a m toHub cw0 cw1 payload s
  | ident a w => exact execIdent_keepsQueue a w s
  | idreq a => exact execIdreq_keepsQueue a s
  | identTimeout a => exact execIdentTimeout_keepsQueue a s
  | caprd si idx => exact execCaprd_keepsQueue si idx s
  | capdat si w => exact execCapdat_keepsQueue si w s
  | capset si w => exact execCapset_keepsQueue si w s
  | capack si w => exact execCapack_keepsQueue si w s
  | budget si w => exact execBudget_keepsQueue si w s
  | report si w => exact execReport_keepsQueue si w s
  | retrain a toHub w => exact execRetrain_keepsQueue a toHub w s
  | lost a m toHub w => exact execLost_keepsQueue a m toHub w s
  | sidebandFence a w => exact execSidebandFence_keepsQueue a w s
  | remap a w => exact execRemap_keepsQueue a w s
  | linkTrain a m => exact execLinkTrain_keepsQueue a m s
  | linkTrainDone a m tries => exact execLinkTrainDone_keepsQueue a m tries s
  | laneCorrectedThreshold a m toHub lane => exact execLaneCorrectedThreshold_keepsQueue a m toHub lane s
  | laneHourEnd a m toHub => exact execLaneHourEnd_keepsQueue a m toHub s
  | baselineCaptured a m toHub => exact execBaselineCaptured_keepsQueue a m toHub s
  | judgedRetrain a m urgent => exact execJudgedRetrain_keepsQueue a m urgent s
  | moduleFailure a m => exact execModuleFailure_keepsQueue a m s
  | graftRequest si q => exact execGraftRequest_keepsQueue si q s
  | graftResponse si m tag st data => exact execGraftResponse_keepsQueue si m tag st data s
  | apertureRequest si q src data => exact execApertureRequest_keepsQueue si q src data s
  | graftAnswerOverdue si m tag => exact execGraftAnswerOverdue_keepsQueue si m tag s
  | gateRuleWrite who si rule word v => exact execGateRuleWrite_keepsQueue who si rule word v s
  | gateCtlWrite who si v => exact execGateCtlWrite_keepsQueue who si v s
  | graftFence si cause => exact execGraftFence_keepsQueue si cause s
  | graftSecondEnd si => exact execGraftSecondEnd_keepsQueue si s
  | admission si e => exact execAdmission_keepsQueue si e s
  | admissionStepTimeout si step => exact execAdmissionStepTimeout_keepsQueue si step s
  | graftReadmit si => exact execGraftReadmit_keepsQueue si s
  | hostControlAccess e wr off size data => exact execHostControlAccess_keepsQueue e wr off size data s
  | segmentWrite e n v => exact execSegmentWrite_keepsQueue e n v s
  | apertureRead e off len => exact execApertureRead_keepsQueue e off len s
  | apertureWrite e off data poisoned => exact execApertureWrite_keepsQueue e off data poisoned s
  | doorbellWrite e off size data poisoned => exact execDoorbellWrite_keepsQueue e off size data poisoned s
  | warmResetRequest e => exact execWarmResetRequest_keepsQueue e s
  | hostWindowRequest e q => exact execHostWindowRequest_keepsQueue e q s
  | hostCompletion e id k data => exact execHostCompletion_keepsQueue e id k data s
  | hostCompletionTimeout e id => exact execHostCompletionTimeout_keepsQueue e id s
  | hostRequestHubTimeout e id => exact execHostRequestHubTimeout_keepsQueue e id s
  | msixTrigger e vec => exact execMsixTrigger_keepsQueue e vec s
  | msixUnmask e u => exact execMsixUnmask_keepsQueue e u s
  | hostLinkDown e => exact execHostLinkDown_keepsQueue e s
  | fundamentalReset e => exact execFundamentalReset_keepsQueue e s
  | hotReset e => exact execHotReset_keepsQueue e s
  | flr e => exact execFlr_keepsQueue e s
  | endpointStart e => exact execEndpointStart_keepsQueue e s
  | endpointUncorrectable e => exact execEndpointUncorrectable_keepsQueue e s
  | ctxcreate b x => exact execCtxcreate_keepsQueue b x s
  | ctxdestroy b x => exact execCtxdestroy_keepsQueue b x s
  | ctxabort b x => exact execCtxabort_keepsQueue b x s
  | ctxpreempt b x => exact execCtxpreempt_keepsQueue b x s
  | qenable b q => exact execQenable_keepsQueue b q s
  | qdisable b q => exact execQdisable_keepsQueue b q s
  | qresume b q => exact execQresume_keepsQueue b q s
  | farm b f => exact execFarm_keepsQueue b f s
  | fsignal b f => exact execFsignal_keepsQueue b f s
  | fabandon b f => exact execFabandon_keepsQueue b f s
  | fdisarm b f => exact execFdisarm_keepsQueue b f s
  | contextSlotWrite who x word v => exact execContextSlotWrite_keepsQueue who x word v s
  | queueSlotWrite who q word v => exact execQueueSlotWrite_keepsQueue who q word v s
  | fenceCfgWrite who f word v => exact execFenceCfgWrite_keepsQueue who f word v s
  | doorbell q tail => exact execDoorbell_keepsQueue q tail s
  | coreDoorbell who q v => exact execCoreDoorbell_keepsQueue who q v s
  | ringEntryFetch q => exact execRingEntryFetch_keepsQueue q s
  | fenceSignal src f v => exact execFenceSignal_keepsQueue src f v s
  | abortStepsDone x => exact execAbortStepsDone_keepsQueue x s
  | positionRelease c => exact execPositionRelease_keepsQueue c s
  | walkStep id st poison entry => exact execWalkStep_keepsQueue id st poison entry s
  | faultBatchClose si => exact execFaultBatchClose_keepsQueue si s
  | faultQueueWrite who si word v => exact execFaultQueueWrite_keepsQueue who si word v s
  | invctx b idx => exact execInvctx_keepsQueue b idx s
  | invva b idx => exact execInvva_keepsQueue b idx s
  | invslice b idx => exact execInvslice_keepsQueue b idx s
  | invipa b idx => exact execInvipa_keepsQueue b idx s
  | invall b idx => exact execInvall_keepsQueue b idx s
  | xresume b idx => exact execXresume_keepsQueue b idx s
  | invalidationComplete b => exact execInvalidationComplete_keepsQueue b s
  | slcreate b si => exact execSlcreate_keepsQueue b si s
  | slfreeze b si => exact execSlfreeze_keepsQueue b si s
  | slthaw b si => exact execSlthaw_keepsQueue b si s
  | slbottle b si => exact execSlbottle_keepsQueue b si s
  | sluncork b si => exact execSluncork_keepsQueue b si s
  | slreset b si => exact execSlreset_keepsQueue b si s
  | slremove b si => exact execSlremove_keepsQueue b si s
  | sliceEntryWrite who si word v => exact execSliceEntryWrite_keepsQueue who si word v s
  | freezeTick si => exact execFreezeTick_keepsQueue si s
  | freezeComplete si => exact execFreezeComplete_keepsQueue si s
  | securityVersionCommit v => exact execSecurityVersionCommit_keepsQueue v s
  | attestationRequest ch req => exact execAttestationRequest_keepsQueue ch req s
  | attestationSigned => exact execAttestationSigned_keepsQueue s
  | signBucketRefill => exact execSignBucketRefill_keepsQueue s
  | signTreeBuilt => exact execSignTreeBuilt_keepsQueue s
  | keySlotWrite slot v => exact execKeySlotWrite_keepsQueue slot v s
  | keySlotSweepSub slot v => exact execKeySlotSweepSub_keepsQueue slot v s
  | keySlotRetireDrained slot => exact execKeySlotRetireDrained_keepsQueue slot s
  | powerOnReset straps => exact execPowerOnReset_keepsQueue straps s
  | cooperStageDone r => exact execCooperStageDone_keepsQueue r s
  | cooperWatchdogExpire => exact execCooperWatchdogExpire_keepsQueue s
  | recoveryEnter => exact execRecoveryEnter_keepsQueue s
  | loaderImageDelivered img => exact execLoaderImageDelivered_keepsQueue img s
  | imageWrite img => exact execImageWrite_keepsQueue img s
  | imageProgramDone ok => exact execImageProgramDone_keepsQueue ok s
  | licenceWrite lic => exact execLicenceWrite_keepsQueue lic s
  | warmReset => exact execWarmReset_keepsQueue s
  | firmwareBroadcast manifest got => exact execFirmwareBroadcast_keepsQueue manifest got s
  | firmwareResendRound got => exact execFirmwareResendRound_keepsQueue got s
  | read ch r => exact execRead_keepsQueue ch r s
  | write ch r => exact execWrite_keepsQueue ch r s
  | desc ch r => exact execDesc_keepsQueue ch r s
  | list ch r => exact execList_keepsQueue ch r s
  | mailboxGo e => exact execMailboxGo_keepsQueue e s
  | transferExpire index sub => exact execTransferExpire_keepsQueue index sub s
  | mgmtAddressApply => exact execMgmtAddressApply_keepsQueue s
  | restoreDefaults v => exact execRestoreDefaults_keepsQueue v s
  | railMeasureUpdate volts amps => exact execRailMeasureUpdate_keepsQueue volts amps s
  | substitutionRequest si v => exact execSubstitutionRequest_keepsQueue si v s
  | budgetPeriod m => exact execBudgetPeriod_keepsQueue m s
  | budgetMissingFallback si => exact execBudgetMissingFallback_keepsQueue si s
  | railSample r => exact execRailSample_keepsQueue r s
  | timebaseStep who v => exact execTimebaseStep_keepsQueue who v s
  | ptpOffsetMeasure m => exact execPtpOffsetMeasure_keepsQueue m s
  | ptpHoldoverEnter meanRate => exact execPtpHoldoverEnter_keepsQueue meanRate s
  | ptpHoldoverLimit => exact execPtpHoldoverLimit_keepsQueue s
  | ptpDomainWrite v => exact execPtpDomainWrite_keepsQueue v s
  | obsEnableWrite v => exact execObsEnableWrite_keepsQueue v s
  | tasterCtlWrite n v => exact execTasterCtlWrite_keepsQueue n v s
  | sinkCfgWrite n base cfg => exact execSinkCfgWrite_keepsQueue n base cfg s
  | counterCopy => exact execCounterCopy_keepsQueue s
  | halt => exact execHalt_keepsQueue s
  | resume => exact execResume_keepsQueue s
  | jtagRegacc wr pa data => exact execJtagRegacc_keepsQueue wr pa data s
  | jtagHalt v => exact execJtagHalt_keepsQueue v s
  | jtagLoaderWord idx data => exact execJtagLoaderWord_keepsQueue idx data s
  | hubControllerWatchdog field n => exact execHubControllerWatchdog_keepsQueue field n s
  | mgdWatchdog => exact execMgdWatchdog_keepsQueue s
  | classFFault code die => exact execClassFFault_keepsQueue code die s
  | sysclkLoss => exact execSysclkLoss_keepsQueue s
  | heartbeatRefresh => exact execHeartbeatRefresh_keepsQueue s
  | heartbeatSend => exact execHeartbeatSend_keepsQueue s
  | pair m => exact execPair_keepsQueue m s
  | confirm kit na nb tagOk seq => exact execConfirm_keepsQueue kit na nb tagOk seq s
  | hb m tagOk seq => exact execHb_keepsQueue m tagOk seq s
  | twinData entry moff pois tag data gap => exact execTwinData_keepsQueue entry moff pois tag data gap s
  | pushack tag st bytes tagOk seq => exact execPushack_keepsQueue tag st bytes tagOk seq s
  | journal rec tagOk seq => exact execJournal_keepsQueue rec tagOk seq s
  | failover cause tagOk seq => exact execFailover_keepsQueue cause tagOk seq s
  | roleack role tagOk seq => exact execRoleack_keepsQueue role tagOk seq s
  | restreq entry off len tag tagOk seq => exact execRestreq_keepsQueue entry off len tag tagOk seq s
  | heartbeatCheck => exact execHeartbeatCheck_keepsQueue s
  | leaseExpire => exact execLeaseExpire_keepsQueue s
  | promotionTimeout => exact execPromotionTimeout_keepsQueue s
  | mirrorEntryWrite n v => exact execMirrorEntryWrite_keepsQueue n v s
  | push req => exact execPush_keepsQueue req s
  | journalWrite rec => exact execJournalWrite_keepsQueue rec s
  | restore req => exact execRestore_keepsQueue req s
  | switchover v => exact execSwitchover_keepsQueue v s
  | mirrorRepairUpgrade => exact execMirrorRepairUpgrade_keepsQueue s
  | registerWrite who r v => exact execRegisterWrite_keepsQueue who r v s
  | porNAssert => exact execPorNAssert_keepsQueue s
  | internalResetRelease => exact execInternalResetRelease_keepsQueue s
  | hostConfigWrite e f v => exact execHostConfigWrite_keepsQueue e f v s
  | hostLinkUp e => exact execHostLinkUp_keepsQueue e s
  | pcieLinkError e err => exact execPcieLinkError_keepsQueue e err s
  | twinLinkUp => exact execTwinLinkUp_keepsQueue s
  | twinLinkDown => exact execTwinLinkDown_keepsQueue s
  | managementLinkUp => exact execManagementLinkUp_keepsQueue s
  | dieTemperatureSample die temp => exact execDieTemperatureSample_keepsQueue die temp s
  | overtempHoldEnd => exact execOvertempHoldEnd_keepsQueue s
  | mgdBufferScrub ch => exact execMgdBufferScrub_keepsQueue ch s
  | idlePatternCheck r p d ok => exact execIdlePatternCheck_keepsQueue r p d ok s
  | jtagIrUpdate ir => exact execJtagIrUpdate_keepsQueue ir s
  | unknownSidebandMessage a m toHub code => exact execUnknownSidebandMessage_keepsQueue a m toHub code s

/-- Settles O3: every command's own lemma says that its next state holds the queue it found. -/
theorem queueKept : Obligations.QueueKept := by
  unfold Obligations.QueueKept
  intro c s t hstep
  obtain ⟨u, hu, hqueue⟩ := exec_keepsQueue c s
  rw [hstep] at hu
  cases hu
  exact hqueue

end Sys2Proof.Machine
end

section

namespace Sys2Proof.Machine

/-! ### A tick with nothing on its way -/

section Tick
variable {s : State}

theorem State.movable_empty (h : ∀ b ∈ s.trellis.buf, b.2 = []) : s.movable = [] := by
  unfold State.movable
  rw [List.filterMap_eq_nil_iff]
  intro b hb
  rw [h b hb]

theorem State.trellisGo_still (h : s.movable = []) (n : Nat) : s.trellisGo n = s := by
  cases n with
  | zero => rfl
  | succ n =>
    unfold State.trellisGo
    rw [h]

theorem State.trellisRun_empty (h : ∀ b ∈ s.trellis.buf, b.2 = []) : s.trellisRun = s :=
  State.trellisGo_still (State.movable_empty h) _

theorem State.hostGo_idle {e : Ep} (h : (s.epOf e).later = []) : s.hostGo e = s := by
  have hsame : s.modEp e (fun h => {h with later := []}) = s := by
    cases e with
    | ioa =>
      show {s with ioa := {s.ioa with later := []}} = s
      rw [← show s.ioa.later = [] from h]
    | iob =>
      show {s with iob := {s.iob with later := []}} = s
      rw [← show s.iob.later = [] from h]
  unfold State.hostGo
  split
  · rfl
  · rw [h]
    exact hsame

end Tick

/-- Settles O2: an empty queue lets the tick pass, which moves only what waits; every command answers a next state. -/
theorem stepsComplete : Obligations.StepsComplete := by
  unfold Obligations.StepsComplete
  refine ⟨fun s hempty => ⟨fun hoff => ?_, fun hon => ?_, fun hon hbuf hioa hiob => ?_⟩, fun c s => ?_⟩
  · rw [step_nil hempty, State.tick, if_neg (by simp [hoff])]
  · rw [step_nil hempty, State.tick, if_pos hon]
    rfl
  · rw [step_nil hempty, State.tick, if_pos hon, State.trellisRun_empty (s := s.timeOn) hbuf,
      State.hostGo_idle (s := s.timeOn) (e := .ioa) hioa, State.hostGo_idle (s := s.timeOn) (e := .iob) hiob]
    rfl
  · obtain ⟨t, ht, -⟩ := exec_keepsQueue c s
    exact ⟨t, ht⟩

end Sys2Proof.Machine
end
